-- ==== Sys2Proof/Word.lean ====
section
/-!
DEFINITION. The operand types of the commands: indices, initiators and the small closed sets the rules name.
A bit vector stands where the manual treats a value as bits; an index is a `Fin`; a closed set is an inductive type.
-/
namespace Sys2Proof

/-- A register word (R4). -/
abbrev Word := BitVec 32
/-- A 16-bit signed or unsigned sample (R12). -/
abbrev Half := BitVec 16
/-- An island code of Table: Islands (R15). -/
abbrev IslandIx := Fin 14
/-- A leg: 0 to 31 are LEG0 to LEG31, 32 to 40 are ALEG0 to ALEG8 (EDGE_OG_CAUSE.LEG). -/
abbrev LegIx := Fin 41
/-- A loop engine. -/
abbrev EngIx := Fin 16
/-- A loop slot of an engine. -/
abbrev SlotIx := Fin 8
/-- An output group. -/
abbrev GroupIx := Fin 16
/-- A reload domain. -/
abbrev DomIx := Fin 8
/-- A tide player and its store. -/
abbrev PlayerIx := Fin 4
/-- A ferry link. -/
abbrev LinkIx := Fin 32
/-- A core pair. -/
abbrev PairIx := Fin 8

/-- The initiators of Table: Initiator codes (R469); `core p c` is a core of a split pair. -/
inductive Who where
  | safety | ifc | pair (p : PairIx) | core (p : PairIx) (c : Fin 2)
  | prefetcher | tracer | tideLoader | scrubber | debug
  deriving DecidableEq, Repr

/-- The initiator code of R469. -/
def Who.code : Who → Nat
  | .safety => 0x00
  | .ifc => 0x01
  | .pair p => 0x10 + p.val
  | .core p c => 0x20 + 2 * p.val + c.val
  | .prefetcher => 0x30
  | .tracer => 0x31
  | .tideLoader => 0x32
  | .scrubber => 0x33
  | .debug => 0x3F

/-- What a command of a leg's mode logic asks of its two channels. -/
inductive LegState where
  | off | hi | lo
  deriving DecidableEq, Repr

/-- What reaches a leg at an instant: a change the mode logic commands (R192), or a pair of request levels at the interlock
itself (R215, R216). -/
inductive EdgeReq where
  | command
  | request (hi lo : Bool)
  deriving DecidableEq, Repr

/-- A switch channel of a leg. -/
inductive Chan where
  | hi | lo
  deriving DecidableEq, Repr

/-- The outcome of a memory's single-error correcting code on a read (R105, R500). -/
inductive Ecc where
  | clean | corrected | fatal
  deriving DecidableEq, Repr


/-- A working register G0 to G31 of a loop engine (R106). -/
abbrev RegIx := Fin 32

/-- CTRL instructions (R107); the condition of a conditional branch is Ligraga's, and the operand says whether it holds. -/
inductive CtrlOp where
  | nop | branch (a : Fin 4096) | branchIf (taken : Bool) (a : Fin 4096) | call (a : Fin 4096) | ret
  deriving DecidableEq, Repr

/-- MOVE instructions (R107). -/
inductive MoveOp where
  | reg (d a : RegIx) | imm (d : RegIx) (v : Word) | load (d : RegIx) (a : BitVec 14) (ecc : Ecc) | store (a : BitVec 14) (r : RegIx)
  deriving DecidableEq, Repr

/-- ARITH operations (R107): the shifts are left, right filling with zeros, right keeping the sign; `sat n` saturates to `n + 1`
bits. -/
inductive ArithOp where
  | add | sub | shl | shr | sar | min | max | abs | sat (n : Fin 32)
  deriving DecidableEq, Repr

/-- Operand formats of MAC (R107). -/
inductive MacFmt where
  | q15 | q23
  deriving DecidableEq, Repr

/-- TRIG operations (R107). -/
inductive TrigOp where
  | sin | cos | atan2 | sqrt | recip
  deriving DecidableEq, Repr

/-- XFORM operations (R107). -/
inductive XformOp where
  | clarke | park | inversePark
  deriving DecidableEq, Repr

/-- PORT instructions (R107); `put` writes an input port of KIND 0; `law` is the write by which slot 1's program of a converter gives its
set-point port, or its feedback port, the value of R365. -/
inductive PortOp where
  | read (d : RegIx) (p : Fin 32) | stage (p : Fin 32) (r : RegIx) | test (d : RegIx) (p : Fin 32) | put (p : Fin 32) (r : RegIx)
  | law (fb : Bool)
  deriving DecidableEq, Repr

/-- CHART instructions (R107): a lookup with its query in four registers, or the read of a result field in node order, 7 being
the status. -/
inductive ChartOp where
  | lookup (m : Fin 2) (t sp v w : RegIx) | read (d : RegIx) (k : Fin 8)
  deriving DecidableEq, Repr

/-- TRACE instructions (R107). -/
inductive TraceOp where
  | capture | inject
  deriving DecidableEq, Repr

/-- ESC instructions (R107, R130). -/
inductive EscOp where
  | assert | flag
  deriving DecidableEq, Repr

/-- What the switched inputs and the inlet show as a command is carried out (R54, R375, R413, R564). -/
structure Pins where
  /-- Key input on. -/
  key : Bool
  /-- High-voltage interlock loop closed. -/
  hvil : Bool
  /-- Charging inlet proximity shows a coupler. -/
  coupler : Bool
  /-- Line-presence input asserted. -/
  line : Bool
  /-- WAKE asserted. -/
  wake : Bool
  deriving DecidableEq, Repr

/-- What the EVSE tells the module over its charging protocol (R402, R416 to R421); voltages in 0.1 V, currents in 0.1 A. -/
inductive EvseMsg where
  /-- The EVSE selects ISO 15118-20, or (`v2`) ISO 15118-2. -/
  | selected (v2 : Bool)
  /-- The EVSE selects neither protocol. -/
  | noProtocol
  /-- The services offered: AC, and DC from `vmin` to `vmax` in 0.1 V; the maximum current in 0.1 A. -/
  | offer (ac dc : Bool) (vmin vmax imax : Half)
  /-- The result of the EVSE's cable check, or of the pre-charge of the DC link on AC. -/
  | check (ok : Bool)
  /-- Present output voltage and current. -/
  | reports (v i : Half)
  /-- The EVSE stops. -/
  | stop
  /-- The exchange has failed. -/
  | failed
  deriving DecidableEq, Repr

/-- What the decoder of the symbol code makes of a line (R500); `silent`: the errors turn the codeword into another one. -/
inductive LineOut where
  | clean | corrected | uncorrectable | miscorrected | silent
  deriving DecidableEq, Repr

/-- Errors that have come up in a line's codeword since it was last looked at: the symbol's place, 0 to 3 the line index's and 4 to 75
the stored ones, and the bits that changed (R499). -/
abbrev Flips := List (Fin 76 × BitVec 8)

/-- The outcomes by which a park-lock move ends (R451). -/
inductive MoveEnd where
  | position | stall | timeout
  deriving DecidableEq, Repr

/-- A zone of a phase node (R441). -/
inductive Zone where
  | low | mid | high
  deriving DecidableEq, Repr

/-- What a probe has estimated: from the response to its pulses, or from the short-circuit current (R356). -/
inductive Probe where
  /-- Electrical angle and mechanical speed (Q1.15) from the pulses. -/
  | pulses (angle : BitVec 24) (speed : BitVec 16)
  /-- Angle of the short-circuit current, and the speed. -/
  | shortCircuit (angle : BitVec 24) (speed : BitVec 16)
  deriving DecidableEq, Repr

/-- What a sample of a current engine's slot 0 takes from its observers and from transforms of which the rules state no rounding (R327). -/
structure MotorSample where
  /-- Electrical angle of the resolver's tracking observer, and its age in fine ticks. -/
  resAngle : BitVec 24
  resAge : BitVec 32
  /-- Rotor angle of the back-EMF observer, and its age in fine ticks. -/
  emfAngle : BitVec 24
  emfAge : BitVec 32
  /-- Phase currents of U and V that the chart's references give at the present angle (R333). -/
  pU : BitVec 16
  pV : BitVec 16
  /-- Currents on the d and q axes. -/
  iD : BitVec 16
  iQ : BitVec 16
  /-- Reference angle of the pattern's voltage. -/
  vAngle : BitVec 24
  /-- Duties of the voltage vector for U, V and W. -/
  dU : BitVec 16
  dV : BitVec 16
  dW : BitVec 16
  /-- The estimate of a probe, where it is complete. -/
  probe : Option Probe
  deriving DecidableEq, Repr

/-- What the program of a sample does beyond its instructions: motor programs (R320 to R357), converter programs (R376 to R394), bus
supervision (R427). -/
inductive ProgObs where
  /-- A sample of slot 0 of a motor's current engine (R327). -/
  | motor (m : Fin 2) (x : MotorSample)
  /-- An observer commits a mechanical speed, Q1.15: the tracking observer, or the back-EMF observer (R321, R337). -/
  | observer (m : Fin 2) (emf : Bool) (speed : BitVec 16)
  /-- Slot 0 of a motor's torque engine commits its slewed set-point in the motor's own sense (R340). -/
  | torque (m : Fin 2)
  /-- Slot 1 of a motor's torque engine commits the torque request (R342, R345). -/
  | request (m : Fin 2)
  /-- An inner sample of a converter: whether line-presence is asserted, and the duties of its channels that the program computes; the auxiliary
  converter has one (R359, R376, R391). -/
  | converter (c : Fin 2) (line : Bool) (d0 d1 d2 : Half)
  /-- An outer sample of the line converter (R376, R377). -/
  | outer
  /-- A sample of the bus supervision, LE7 slot 3 (R427). -/
  | bus
  deriving DecidableEq, Repr

/-- A Narrows frame as it arrives (R523, Table: Narrows frame). -/
structure Frame where
  /-- PORT code of Table: Audit entry. -/
  port : Fin 8
  /-- Destination UDP port, on the Ethernet ports (R523). -/
  udp : Half
  /-- The ingress queue is full (R534). -/
  full : Bool
  /-- The bytes, from MAGIC to TAG. -/
  bytes : List (BitVec 8)
  deriving DecidableEq, Repr

/-- What a PARAM_WRITE addresses (R523, R541, R580); the numbers of RECORD are not in the specification. -/
inductive ParamRec where
  /-- A record of the parameter sets: 0, 1 traction, 2 line converter, 3 auxiliary converter, 4 charging, 5 gearbox. -/
  | record (i : Fin 6)
  /-- The Installer bound of a limit. -/
  | bound (i : Fin 4)
  /-- The damage of a power module in the wear record. -/
  | wear (x : Fin 12)
  /-- A UDP port the module listens on: 0 inbound mailbox 0, 1 mailboxes 1 to 15, 2 the data port (R523). -/
  | udp (i : Fin 3)
  /-- A record that governs RWL fields. -/
  | locked
  /-- No record of that number. -/
  | unknown
  deriving DecidableEq, Repr

/-- A step of Table: Activation with what it finds (R98): whether the flash could not be read, settings of the parameter sets
(AUTO per store), addresses of the six records, the measured operating points of both motors (torque, speed, voltage, temperature), the PPIs
for TS2 and TS3. -/
structure ActStep where
  step : Fin 8
  unread : Bool
  enA : Bool
  enB : Bool
  prefetch : Bool
  auto : BitVec 4
  recs : List (BitVec 40)
  points : List Half
  ppis : List Half
  deriving DecidableEq, Repr

/-- The failures of a start-up self-test by the items of Table: Start-up self-test items (R577, R579). -/
structure SelfTest where
  /-- Item 0: failing safety cores. -/
  cores : BitVec 3
  /-- Item 1: a SAF local memory. -/
  local_ : Bool
  /-- Item 2: the voter. -/
  voter : Bool
  /-- Item 2: pairs whose comparator failed. -/
  pairs : BitVec 8
  /-- Item 3: groups whose force path failed. -/
  groups : Half
  /-- Item 4: clock monitors. -/
  monitors : BitVec 8
  /-- Item 5: legs. -/
  legs : BitVec 41
  /-- Item 6: islands. -/
  straits : BitVec 14
  /-- Item 7: the symbol code. -/
  dram : Bool
  /-- Item 8: islands. -/
  srams : BitVec 14
  /-- Item 9: engines. -/
  engines : Half
  /-- Item 10: islands. -/
  logic : BitVec 14
  /-- Item 11: drivers found open, and found shorted. -/
  openLoad : BitVec 8
  shorts : BitVec 8
  deriving DecidableEq, Repr

/-- The format of a frame on CAN port 0 (R544). -/
inductive CanFmt where
  | classical | fd | fdBrs | xl
  deriving DecidableEq, Repr

end Sys2Proof
end

