-- ==== Sys2Proof/Syntax.lean ====
section
/-!
DEFINITION. The commands the block takes: one constructor per row of spec/opcode_table.json, in the table's order, with the row's operands.
-/
namespace Sys2Proof

/-- A command. -/
inductive Instr where
  /-- REGISTER_WRITE: a sideband write of `v` at `a`, of a whole word if `wide`; `p` is what the pins show (R7); `same` are
  the bits that hardware sets in the sideband cycle of the write (R9). -/
  | registerWrite (w : Who) (a : BitVec 40) (wide : Bool) (v : Word) (p : Pins) (same : Word)
  /-- REQ_STATE_WRITE: a write of REQ_STATE and FORCE of SAF_ISL[n]_CTRL (R17). -/
  | reqStateWrite (w : Who) (n : IslandIx) (st : Fin 8) (force : Bool)
  /-- ISLAND_TRANSITION_COMPLETE: the transition in progress ends (R17). -/
  | islandTransitionComplete (n : IslandIx)
  /-- DRAIN_COMPLETE: all straits of a draining island are empty (R38). -/
  | drainComplete (n : IslandIx)
  /-- DRAIN_TIMEOUT: a drain has lasted 2 us (R39). -/
  | drainTimeout (n : IslandIx)
  /-- STRAIT_WORD_RECEIVE: a strait word from island `i` is latched by island `j` (R24). -/
  | straitWordReceive (i j : IslandIx) (payload : BitVec 64) (par : BitVec 8) (kind : Fin 4) (kpar : Bool)
  /-- STRAIT_TIMEOUT: a handshake from island `i` with island `n` in RUN has not completed in 2 us (R33). -/
  | straitTimeout (i n : IslandIx)
  /-- TIMEOUT_REACTION: the safety island reacts to a TIMEOUT (R35). -/
  | timeoutReaction (n : IslandIx)
  /-- PARITY_REACTION: PAR_CNT has risen by PAR_LIM within 1 s (R477). -/
  | parityReaction (n : IslandIx)
  /-- AON_OSCILLATOR_CHECK: the 100 us comparison of the AON oscillator, its deviation in permille (R31). -/
  | aonOscillatorCheck (stopped : Bool) (dev : Half)
  /-- MODE_CHANGE_COMPLETE: the groups have reached their safe levels and the contactors are sequenced (R52). -/
  | modeChangeComplete
  /-- CHART_LOOKUP: a CHART instruction (R63). -/
  | chartLookup (e : EngIx) (f : Ecc) (o : ChartOp)
  /-- LOOKUP_LATE: an engine's lookup has waited 8 us (R73). -/
  | lookupLate (e : EngIx)
  /-- TILE_FILL_COMPLETE: a tile arrives from DRAM (R71). -/
  | tileFillComplete (m : Fin 2) (tile : Fin 65536)
  /-- TILE_FILL_CLOSED: a tile fill receives CLOSED or ERROR (R501). -/
  | tileFillClosed
  /-- CHART_INVAL: a write of LOOP_CHART_CTRL with INVAL 1 (R69). -/
  | chartInval (w : Who) (v : Word)
  /-- TIDE_STORE_WRITE: a sideband write of 32-bit half `k` of tide store `p` (R79). -/
  | tideStoreWrite (w : Who) (p : PlayerIx) (k : Fin 16384) (v : Word)
  /-- LOAD_PPI_WRITE: a sideband write of EDGE_TS[p]_CTRL; LOAD_PPI is bits [31:16] (R83). -/
  | loadPpiWrite (w : Who) (p : PlayerIx) (v : Word)
  /-- TIDE_LOAD_COMPLETE: the tide load in progress has fetched its pattern (R81). -/
  | tideLoadComplete (p : PlayerIx)
  /-- TIDE_LOAD_CLOSED: the tide load receives CLOSED or ERROR (R82). -/
  | tideLoadClosed (p : PlayerIx)
  /-- PAGE_REQUEST: a PPI word arrives on edge input channel 8 + p (R84, R212). -/
  | pageRequest (p : PlayerIx) (ppi : Half)
  /-- TIDE_MISS_LIMIT: MISS_RUN of store `p` has reached MISS_LIM (R89). -/
  | tideMissLimit (p : PlayerIx)
  /-- ACTIVATION_STEP: the next step of Table: Activation (R98). -/
  | activationStep (a : ActStep)
  /-- ENGINE_START: a write of LOOP_LE[n]_CTRL with EN 1 (R114). -/
  | engineStart (w : Who) (e : EngIx) (v : Word)
  /-- ENGINE_DISABLE: a write of LOOP_LE[n]_CTRL with EN 0 (R121). -/
  | engineDisable (w : Who) (e : EngIx) (v : Word)
  /-- FAULT_CLR: a write of LOOP_LE[n]_CTRL with FAULT_CLR 1 and EN 0 (R113). -/
  | faultClr (w : Who) (e : EngIx) (v : Word)
  /-- FRAME_BOUNDARY: a frame boundary reaches an engine (R115). -/
  | frameBoundary (e : EngIx)
  /-- INPUT_PORT_ARRIVAL: a value arrives at an input port (R111). -/
  | inputPortArrival (e : EngIx) (p : Fin 32) (v : Word)
  /-- SAMPLE_TRIGGER: a due schedule entry's trigger instant comes (R118). -/
  | sampleTrigger (e : EngIx) (i : Fin 64)
  /-- END: END of the sample in flight; `obs` is what the program found by its inputs (R109). -/
  | sampleEnd (e : EngIx) (f : Ecc) (obs : List ProgObs)
  /-- PORT_CLOSED: an output transfer is answered with CLOSED or ERROR (R112). -/
  | portClosed (e : EngIx)
  /-- DEADLINE_MISS: the deadline of a due entry passes, or (`late`) its next occurrence triggers (R128). -/
  | deadlineMiss (e : EngIx) (i : Fin 64) (late : Bool)
  /-- MISS_LIMIT_REACHED: MISS_RUN stands at MISS_LIM (R130). -/
  | missLimitReached (e : EngIx) (k : SlotIx)
  /-- CTRL: a CTRL instruction; `f` is the fetch's correction outcome (R107). -/
  | ctrl (e : EngIx) (f : Ecc) (o : CtrlOp)
  /-- MOVE: a MOVE instruction (R107). -/
  | move (e : EngIx) (f : Ecc) (o : MoveOp)
  /-- ARITH: an ARITH instruction (R107). -/
  | arith (e : EngIx) (f : Ecc) (o : ArithOp) (d a b : RegIx)
  /-- MAC: a MAC instruction, accumulating or not (R107). -/
  | mac (e : EngIx) (f : Ecc) (q : MacFmt) (acc : Bool) (d : Fin 2) (a b : RegIx)
  /-- TRIG: a TRIG instruction (R107). -/
  | trig (e : EngIx) (f : Ecc) (o : TrigOp) (d a b : RegIx)
  /-- XFORM: an XFORM instruction (R107). -/
  | xform (e : EngIx) (f : Ecc) (o : XformOp) (d0 d1 a b c : RegIx)
  /-- PORT: a PORT instruction (R109). -/
  | port (e : EngIx) (f : Ecc) (o : PortOp)
  /-- SLEW: a SLEW instruction (R132). -/
  | slew (e : EngIx) (f : Ecc) (k : SlotIx)
  /-- GAIN: a GAIN instruction (R134). -/
  | gain (e : EngIx) (f : Ecc) (k : SlotIx)
  /-- LAW: a LAW instruction; `d` is the correction outcome of the data memory that state feedback reads (R135). -/
  | law (e : EngIx) (f : Ecc) (k : SlotIx) (d : Ecc)
  /-- MODEL: a MODEL instruction (R147). -/
  | model (e : EngIx) (f : Ecc)
  /-- PLAUSIBILITY_VIOLATION: RUN has reached CNT (R152). -/
  | plausibilityViolation (e : EngIx) (k : SlotIx)
  /-- HOLD_RELEASE: while HOLDING, RUN has counted CNT passing samples (R154). -/
  | holdRelease (e : EngIx) (k : SlotIx)
  /-- PRIMING_END: PRIME_LEFT has reached 0 (R156). -/
  | primingEnd (e : EngIx) (k : SlotIx)
  /-- TRACE: a TRACE instruction (R160). -/
  | trace (e : EngIx) (f : Ecc) (o : TraceOp)
  /-- ESC: an ESC instruction (R130). -/
  | esc (e : EngIx) (f : Ecc) (o : EscOp)
  /-- ILLEGAL_INSTRUCTION: an instruction of a reserved group or unimplemented OP (R108). -/
  | illegalInstruction (e : EngIx) (f : Ecc)
  /-- PROGRAM_MEMORY_WRITE: a sideband write of 32-bit half `k` of a program memory (R104). -/
  | programMemoryWrite (w : Who) (e : EngIx) (k : Fin 8192) (v : Word)
  /-- SCHEDULE_BANK_WRITE: a sideband write of word `k` of a schedule bank (R125). -/
  | scheduleBankWrite (w : Who) (e : EngIx) (b : Fin 2) (k : Fin 256) (v : Word)
  /-- COMMIT: a write of COMMIT (R122). -/
  | commit (w : Who) (e : EngIx)
  /-- COMMIT_CHECK_DONE: the commit check ends (R126). -/
  | commitCheckDone (e : EngIx)
  /-- APPLY: a write of LS_CTRL with APPLY 1 (R131). -/
  | apply (w : Who) (e : EngIx) (k : SlotIx) (v : Word)
  /-- REPRIME: a write of LS_CTRL with REPRIME 1 (R145). -/
  | reprime (w : Who) (e : EngIx) (k : SlotIx) (v : Word)
  /-- GROUP_REGISTER_WRITE: a write of LOOP_LE[n]_GRP[g] (R140). -/
  | groupRegisterWrite (w : Who) (e : EngIx) (g : Fin 4) (v : Word)
  /-- DEBUG_HALT: a debugger halts an engine, a core pair (0 to 7) or the interface processor (8) (R224, R492). -/
  | debugHalt (x : EngIx ⊕ Fin 9)
  /-- DEBUG_RESUME: a debugger resumes what it halted (R113, R224). -/
  | debugResume (x : EngIx ⊕ Fin 9)
  /-- TRACE_DONE: the post records are written (R163). -/
  | traceDone (e : EngIx)
  /-- STREAM_COPY_COMPLETE: the copy of an engine's trace block has ended (R166). -/
  | streamCopyComplete (e : EngIx)
  /-- TRC_CTRL_WRITE: a write of TRC_CTRL (R165). -/
  | trcCtrlWrite (w : Who) (e : EngIx) (v : Word)
  /-- TRC_SIG_WRITE: a write of TRC_SIG[i] (R165). -/
  | trcSigWrite (w : Who) (e : EngIx) (i : Fin 16) (v : Word)
  /-- ARM: a write of TRC_POST with ARM 1 (R163). -/
  | arm (w : Who) (e : EngIx) (v : Word)
  /-- TRACE_FORCE: a write of TRC_POST with FORCE 1 and ARM 0 (R164). -/
  | traceForce (w : Who) (e : EngIx) (post : Half)
  /-- TRACE_THROTTLE_WRITE: a write of LOOP_TRC_THROTTLE (R167). -/
  | traceThrottleWrite (w : Who) (v : Word)
  /-- INJECTION_START: a write of INJ_CTRL with START 1 (R168). -/
  | injectionStart (w : Who) (e : EngIx) (v : Word)
  /-- INJECTION_STOP: a write of INJ_CTRL with STOP 1 (R173). -/
  | injectionStop (w : Who) (e : EngIx) (v : Word)
  /-- INJECTION_DONE: NSAMP samples are made (R173). -/
  | injectionDone (e : EngIx)
  /-- PERMIT_CLEAR: the safety island clears an engine's PERMIT bit (R174). -/
  | permitClear (e : EngIx)
  /-- DOMAIN_START: a write that sets EN of the domains of `m` (R182). -/
  | domainStart (w : Who) (m : BitVec 8)
  /-- SYNC_START: a write of EDGE_SYNC (R182, R196). -/
  | syncStart (w : Who) (start ldall : BitVec 8)
  /-- DOMAIN_STOP: a write of CTRL with EN 0 and the given DBL and STRICT (R185). -/
  | domainStop (w : Who) (d : DomIx) (dbl strict : Bool)
  /-- LOAD_ALL_REQUEST: load-all requests for the domains of `m`, by sideband or, with `none`, on edge input channel 28 (R196, R212). -/
  | loadAllRequest (w : Option Who) (m : BitVec 8)
  /-- SAMPLE_INSTANT: the sample instant of the coming boundary, or of the coming half boundary (R196). -/
  | sampleInstant (d : DomIx) (half : Bool)
  /-- RELOAD_BOUNDARY: the reload boundary of a domain, at the instant DOM_NEXT holds (R181). -/
  | reloadBoundary (d : DomIx)
  /-- SS_ENABLE: a write of EN of EDGE_DOM[d]_SS (R370). -/
  | ssEnable (w : Who) (d : DomIx) (en : Bool)
  /-- HALF_BOUNDARY: a half boundary of a domain with DBL set (R181). -/
  | halfBoundary (d : DomIx)
  /-- DOMAIN_TRIGGER_EVENT: event HALF, TRGA or TRGB of a domain (R183). -/
  | domainTriggerEvent (d : DomIx) (e : Fin 3)
  /-- GROUP_ENABLE: a 1 written to the EDGE_OG_EN bit of `g`; `p` is what the pins show (R188). -/
  | groupEnable (w : Who) (g : GroupIx) (p : Pins)
  /-- GROUP_DISABLE: a 0 written to the EDGE_OG_EN bit of `g` (R225). -/
  | groupDisable (w : Who) (g : GroupIx)
  /-- LEG_CFG_WRITE: a write of CFG (0), REFRESH (1), CMT (2) or SIX (3) of a leg (R213). -/
  | legCfgWrite (w : Who) (n : LegIx) (r : Fin 4) (v : Word)
  /-- DUTY_CHANNEL_WRITE: a word on duty channel `c` (R194). -/
  | dutyChannelWrite (c : Fin 12) (v : Half)
  /-- RATE_WRITE: RATE of a player, by sideband or, with `none`, on edge input channel p (R206). -/
  | rateWrite (w : Option Who) (p : PlayerIx) (v : BitVec 24)
  /-- CORR_WRITE: a correction word on edge input channel 4 + p (R206). -/
  | corrWrite (p : PlayerIx) (v : BitVec 24)
  /-- ANGLE_SET_WRITE: ANGLE_SET of a player, by sideband or, with `none`, on edge input channel 12 + p (R206). -/
  | angleSetWrite (w : Option Who) (p : PlayerIx) (v : BitVec 24)
  /-- CHANNEL_EDGE: a leg takes what its mode commands by now, or request levels at its interlock (R192, R215). -/
  | channelEdge (n : LegIx) (r : EdgeReq)
  /-- DEAD_TIME_EXPIRY: the dead time of a leg has passed (R192). -/
  | deadTimeExpiry (n : LegIx)
  /-- IL_FAULT: the interlock's event count of the period calls for a leg fault (R217). -/
  | ilFault (n : LegIx)
  /-- TIDE_ENTRY_FIRE: the player's angle moves on to now and reaches entries (R203). -/
  | tideEntryFire (p : PlayerIx)
  /-- SIXSTEP_CROSSING: the angle of a six-step leg's player, moved on to now, has crossed SIX_ANG or SIX_ANG plus half a turn (R209). -/
  | sixstepCrossing (n : LegIx)
  /-- HALL_STATE_CHANGE: the Hall state of bridge `b` reaches the edge island (R211). -/
  | hallStateChange (b : Fin 3) (v : BitVec 3)
  /-- BOOT_INTERVAL_EXPIRY: the high channel has been on for INTERVAL (R218). -/
  | bootIntervalExpiry (n : LegIx)
  /-- REFRESH_PULSE_END: the low-side pulse of a refresh ends (R218). -/
  | refreshPulseEnd (n : LegIx)
  /-- BOOT_UV_REPORT: a bootstrap under-voltage report arises (R219). -/
  | bootUvReport (n : LegIx)
  /-- BOOT_UV_TEST: 10 microseconds after the end of a low-side interval (R220). -/
  | bootUvTest (n : LegIx)
  /-- EDGE_CLOCK_LOSS: no edge-clock edge for 10 ns, or the PLL loses lock (R223). -/
  | edgeClockLoss
  /-- CLK_LOST_CLEAR: a write of EDGE_STAT (R223). -/
  | clkLostClear (w : Who) (v : Word)
  /-- GFI_ASSERT: a GFI pin has stood at its asserting level for `ns` nanoseconds (R231). -/
  | gfiAssert (i : Fin 8) (ns : BitVec 32)
  /-- GFI_GLITCH: a pulse of `ns` nanoseconds at a GFI pin has ended (R231). -/
  | gfiGlitch (i : Fin 8) (ns : BitVec 32)
  /-- GFI_DEASSERT: a GFI pin leaves its asserting level (R231). -/
  | gfiDeassert (i : Fin 8)
  /-- WINDOW_COMPARATOR_CHANGE: the input of comparator `c`, in 1/1024 of its range (R232). -/
  | windowComparatorChange (c : Fin 16) (v : BitVec 10)
  /-- INTERNAL_SOURCE_ASSERT: source `src` asserts at the guard boundary (R239). -/
  | internalSourceAssert (src : Fin 77)
  /-- INTERNAL_SOURCE_DEASSERT: a group source releases (R618). -/
  | internalSourceDeassert (src : Fin 77)
  /-- CM_WINDOW_END: a clock-monitor window ends with a count (R233). -/
  | cmWindowEnd (m : Fin 8) (count : BitVec 12)
  /-- SAF_FORCE_WRITE: a write of GRD_SAF_FORCE (R239). -/
  | safForceWrite (w : Who) (m : BitVec 16)
  /-- SOURCE_LATCH_CLEAR: a write of ones to GRD_SRC_LATCH[k] (R241). -/
  | sourceLatchClear (w : Who) (k : Fin 3) (m : Word)
  /-- GROUP_LATCH_CLEAR: a write of ones to GRD_OG_LATCH (R242). -/
  | groupLatchClear (w : Who) (m : BitVec 16)
  /-- LEG_FAULT_LATCH_CLEAR: a write of ones to GRD_LEGF_LATCH (R248). -/
  | legFaultLatchClear (w : Who) (m : Word)
  /-- ALEG_FAULT_LATCH_CLEAR: a write of ones to GRD_ALEGF_LATCH (R248). -/
  | alegFaultLatchClear (w : Who) (m : BitVec 9)
  /-- SAFE_DEAD_TIME_EXPIRY: the safe dead time of a group has passed (R237). -/
  | safeDeadTimeExpiry (g : GroupIx)
  /-- BAND_EVALUATION: the safety island's 100 us evaluation of both motors (R249). -/
  | bandEvaluation
  /-- BAND_SELECT_WRITE: a write of GRD_BAND (R251). -/
  | bandSelectWrite (w : Who) (m : BitVec 16)
  /-- RING_OSCILLATOR_CHECK: the 100 us check of the guard ring oscillator: stopped, or its deviation in permille (R233). -/
  | ringOscillatorCheck (stopped : Bool) (dev : BitVec 16)
  /-- LEG_FAULT_REACTION: the reaction for `g` to a leg fault (0), an over-current (1) or a lane loss (2) (R246). -/
  | legFaultReaction (g : GroupIx) (why : Fin 3)
  /-- SAF_FORCE_RELEASE: the safety island looks whether the causes of a group's force have gone (R247). -/
  | safForceRelease (g : GroupIx)
  /-- GROUP_FORCE_REACTION: the reaction to the latch of `g` (R482). -/
  | groupForceReaction (g : GroupIx)
  /-- HEARTBEAT_TRANSITION: a valid transition on a FAULT pair (R257). -/
  | heartbeatTransition (n : LinkIx)
  /-- FAULT_INSTANT: t_HB has passed without a valid transition; `pos`: the static level is positive (R257). -/
  | faultInstant (n : LinkIx) (pos : Bool)
  /-- LINK_WAIT_EXPIRY: the heartbeat has been valid for 10 us in WAIT (R272). -/
  | linkWaitExpiry (n : LinkIx)
  /-- CAP: a CAP frame, byte 0 in the low bits (R267). -/
  | cap (n : LinkIx) (c : BitVec 128)
  /-- ACK: an ACK of a code, with the bytes a SETTLE echoes (R268). -/
  | ack (n : LinkIx) (code : BitVec 7) (echo : Word)
  /-- RATE_CHANGE_SILENCE_END: the silence of a rate change is over (R268). -/
  | rateChangeSilenceEnd (n : LinkIx)
  /-- NAK: a NAK of a code (R269). -/
  | nak (n : LinkIx) (code : BitVec 7) (cause : BitVec 8)
  /-- REPLY_TIMEOUT: the reply owed has not started in time (R263). -/
  | replyTimeout (n : LinkIx)
  /-- SETTLE_RETRY_WAIT: 100 us after a failed confirmation (R269). -/
  | settleRetryWait (n : LinkIx)
  /-- FAIL_TIMEOUT: 10 ms in FAIL are over (R269). -/
  | failTimeout (n : LinkIx)
  /-- LANE_FRAME_ERROR: a frame is discarded: for a code, disparity, CRC or length error, or (`crc` false) for a reserved code (R262, R265). -/
  | laneFrameError (n : LinkIx) (crc : Bool)
  /-- TELEM: a TELEM frame, byte 0 in the low bits (R281). -/
  | telem (n : LinkIx) (v : BitVec 96)
  /-- TELEM_POLL_TIMER: the poll interval of a link is over (R281). -/
  | telemPollTimer (n : LinkIx)
  /-- ALERT: an ALERT byte (R264). -/
  | alert (n : LinkIx) (v : BitVec 8)
  /-- FAULT_DATA: a FAULT_DATA frame (R259). -/
  | faultData (n : LinkIx) (cause : BitVec 8)
  /-- DIAG_DATA: a DIAG_DATA frame (R282). -/
  | diagData (n : LinkIx) (gate node desat : BitVec 8)
  /-- DIAG_POLL: 100 us have passed in DIAG (R282). -/
  | diagPoll (n : LinkIx)
  /-- RELINK: a write of 1 to RELINK (R272). -/
  | relink (w : Who) (n : LinkIx)
  /-- STAGE_CLR: a write of 1 to STAGE_CLR (R259). -/
  | stageClr (w : Who) (n : LinkIx)
  /-- DIAG_GO: a write of 1 to DIAG_GO (R282). -/
  | diagGo (w : Who) (n : LinkIx)
  /-- TEL_NOW: a write of 1 to TEL_NOW (R281). -/
  | telNow (w : Who) (n : LinkIx)
  /-- PROFILE_SLOT_WRITE: a write of EDGE_FL[n]_PROF[k] (R284). -/
  | profileSlotWrite (w : Who) (n : LinkIx) (k : Fin 4) (v : Word)
  /-- SDCLK_WRITE: a write of SNS_SDCLK[k] (R287). -/
  | sdclkWrite (w : Who) (k : Fin 4) (v : Word)
  /-- SD_CFG_WRITE: a write of SNS_SD[c]_CFG (R294, R297). -/
  | sdCfgWrite (w : Who) (c : Fin 24) (v : Word)
  /-- SD_FILLED: 3 (R - 1) + 1 modulator clocks have passed since EN. This row and the five SD rows after it bring the levels of SDDAT at the
  rising and the falling edge of each modulator clock that has passed, oldest first (R288, R294). -/
  | sdFilled (c : Fin 24) (l : List (Bool × Bool))
  /-- SD_RESULT_TAKE: the modulator clock at which a result is taken (R291, R292). -/
  | sdResultTake (c : Fin 24) (l : List (Bool × Bool))
  /-- SD_RESULT_SEND: the result in processing is scaled and sent (R289). -/
  | sdResultSend (c : Fin 24)
  /-- SD_TRIP_ASSERT: v_t has lain outside the thresholds for TCNT clocks (R296). -/
  | sdTripAssert (c : Fin 24) (l : List (Bool × Bool))
  /-- SD_TRIP_DEASSERT: v_t has lain inside the window for 16 clocks (R296). -/
  | sdTripDeassert (c : Fin 24) (l : List (Bool × Bool))
  /-- SD_STUCK: no transition for 64 modulator clocks (R298). -/
  | sdStuck (c : Fin 24) (l : List (Bool × Bool))
  /-- SD_UNSTUCK: 64 clocks with a transition in every 8 (R298). -/
  | sdUnstuck (c : Fin 24) (l : List (Bool × Bool))
  /-- FC_TRIGGER: a domain event, or a write of SNS_FC[c]_CFG with SWTRIG 1 (R301). -/
  | fcTrigger (c : Fin 8) (x : Option (Who × Word))
  /-- FC_CONVERSION_COMPLETE: the conversions of a result end; the first 2^AVG of the 14-bit codes count (R299, R300). -/
  | fcConversionComplete (c : Fin 8) (codes : BitVec 112)
  /-- FC_SETTLED: 10 us since EN (R302). -/
  | fcSettled (c : Fin 8)
  /-- RESOLVER_ENABLE: a write of SNS_RES[r]_CFG with EN 1 (R305). -/
  | resolverEnable (w : Who) (r : Fin 2) (v : Word)
  /-- RESOLVER_SAMPLE: both converters of a resolver sample; the second sample of a period is negated (R306, R307). -/
  | resolverSample (r : Fin 2) (sinCode cosCode : BitVec 14)
  /-- RESOLVER_VALID: 4 excitation periods have passed (R308). -/
  | resolverValid (r : Fin 2)
  /-- EXC_FAULT: an excitation output exceeds its current limit (R309). -/
  | excFault (r : Fin 2)
  /-- HK_CONVERSION_COMPLETE: the running housekeeping conversion ends (R310, R311, R314, R315). -/
  | hkConversionComplete (code : BitVec 12)
  /-- HK_URGENT_REQUEST: a write of SNS_HK_INJ with GO 1 (R314). -/
  | hkUrgentRequest (w : Who) (v : Word)
  /-- HK_DATA_READ: a sideband read of SNS_HK_DATA (R313). -/
  | hkDataRead (w : Who)
  /-- PILOT_STATE_CHANGE: the pilot measurement that may settle on another state: oscillation, the high and the low level in 0.01 V, the
  duty in 0.1 % (R411). -/
  | pilotStateChange (osc : Bool) (h low : Half) (duty : BitVec 10)
  /-- S2_WRITE: a write of SNS_CP_CTRL (R412). -/
  | s2Write (w : Who) (v : Word)
  /-- VSEL_DEBOUNCE: the levels of the VSEL pins, which count once they have held for DEB milliseconds (R389). -/
  | vselDebounce (raw : BitVec 3)
  /-- CURRENT_SHARING: the drive firmware compares the module currents of a motor over 10 ms (R325). -/
  | currentSharing (m : Fin 2)
  /-- W_PHASE_TRIM: temperatures of the W modules in 1/64 °C (R326). -/
  | wPhaseTrim (m : Fin 2) (w1 w2 : Half)
  /-- COMMAND_CURVE_EVAL: the millisecond evaluation of a command curve (R341). -/
  | commandCurveEval (m : Fin 2)
  /-- LIMP_HOME_ENTRY: the drive firmware looks whether limp-home begins (R343). -/
  | limpHomeEntry (m : Fin 2)
  /-- OMIN_UPDATE: the drive firmware writes OMIN (R345). -/
  | ominUpdate (m : Fin 2) (v : Half)
  /-- JUNCTION_REPORT: a junction estimate of module `x` in 1/64 °C (R348). -/
  | junctionReport (m : Fin 2) (x : Fin 6) (v : Half)
  /-- DAMAGE_RATE_EVAL: the drive firmware forms the damage-rate ratio of a motor each second (R350). -/
  | damageRateEval (m : Fin 2)
  /-- WEAR_SNAPSHOT: the wear account is written to flash (R351). -/
  | wearSnapshot
  /-- TRACTION_STATUS_WRITE: a motor's status block is written (R353). -/
  | tractionStatusWrite (m : Fin 2)
  /-- OMAX_UPDATE: the drive firmware writes OMAX of the line (0) or auxiliary (1) converter (R366). -/
  | omaxUpdate (c : Fin 2)
  /-- CONTACTOR_CLOSED_REPORT: the output contactor is reported closed (R378). -/
  | contactorClosedReport
  /-- SOFT_START_END: SOFT_MS has elapsed (R376). -/
  | softStartEnd (c : Fin 2)
  /-- HANDOVER_RAMP_END: the HANDOVER ramp ends, with the switched inputs (R379). -/
  | handoverRampEnd (p : Pins)
  /-- HICCUP_ENTRY: HIC_N consecutive limited frames (R383). -/
  | hiccupEntry (c : Fin 2)
  /-- HIC_OFF_EXPIRY: HIC_OFF has elapsed; whether the line-presence input is asserted (R383). -/
  | hicOffExpiry (c : Fin 2) (line : Bool)
  /-- HIC_RUN_RESET: 1 s in RUN (R384). -/
  | hicRunReset (c : Fin 2)
  /-- PHASE_OPEN: a phase has been open in OPEN_N samples (R386). -/
  | phaseOpen (c : Fin 2) (k : Fin 6)
  /-- PHASE_RECONFIGURATION: the drive firmware reconfigures the line converter: steps 1 to 5, then step 6 (R387). -/
  | phaseReconfiguration (line : Bool)
  /-- VSEL_READ: the drive firmware's millisecond read of CODE (R390). -/
  | vselRead
  /-- CONVERTER_STATUS_WRITE: a converter's status block is written (R397). -/
  | converterStatusWrite (c : Fin 2)
  /-- DOMAIN_HANDOVER: a step of the hand-over of domain 2, to the dual active bridge or the line converter (R404). -/
  | domainHandover (step : Fin 7) (dab : Bool) (trgA trgB : Half)
  /-- CHARGING_TARGET_EVAL: the millisecond evaluation, with the AC current the inlet allows and the module's pack temperature (R409). -/
  | chargingTargetEval (ac tmod : Half)
  /-- SUSPEND_TIMEOUT: SUSP_MAX may have passed (R424). -/
  | suspendTimeout
  /-- PROXIMITY_DECODE: the 10 ms decode of HK22: whether a coupler shows (R413). -/
  | proximityDecode (shown : Bool)
  /-- BMS_MESSAGE_RECEIVED: a CAN frame at port `port`, CAN XL or not, with its identifier and 8 bytes, byte 0 in the low bits (R425). -/
  | bmsMessageReceived (port : Fin 4) (xl : Bool) (id : Word) (v : BitVec 64)
  /-- BMS_TIMEOUT: a BMS message is absent for BMS_TMO or its ALIVE stalls (R426). -/
  | bmsTimeout (k : Fin 3)
  /-- MOD_STATUS_SEND: MOD_STATUS is sent (R425). -/
  | modStatusSend
  /-- BATTERY_REMOVED_REACTION: the drive firmware acts on a declared removal (R428). -/
  | batteryRemovedReaction
  /-- PRECHARGE_MATCH: the EVSE's voltage has matched for 10 ms (R419). -/
  | prechargeMatch
  /-- PRECHARGE_TIMEOUT: 10 s have passed without a match (R418). -/
  | prechargeTimeout
  /-- DC_CONTACTOR_OPEN: the safety island looks whether the DC charge contactors are to open (R420). -/
  | dcContactorOpen
  /-- WELD_CHECK_TIMEOUT: 2 s have passed since the opening (R421). -/
  | weldCheckTimeout
  /-- CHARGING_STATUS_WRITE: the charging status block is written (R433). -/
  | chargingStatusWrite
  /-- OVER_CURRENT: a bridge's current has lain above OCTHR in two conversions (R439). -/
  | overCurrent (b : Fin 3)
  /-- ACT_BR_CFG_WRITE: a write of ACT_BR[b]_CFG, or (`p3`) of ACT_BR[b]_P3 (R438). -/
  | actBrCfgWrite (w : Who) (b : Fin 3) (p3 : Bool) (v : Word)
  /-- ACT_DIAG_GO: a write of ACT_BR[b]_DIAG (R441). -/
  | actDiagGo (w : Who) (b : Fin 3) (v : Word)
  /-- ACT_DIAG_STEP_END: a step of the off-state test ends, with the node's zone (R441). -/
  | actDiagStepEnd (b : Fin 3) (z : Zone)
  /-- HALL_ACCEPT: the Hall pins of a bridge show a state, which counts once it has held for HFILT (R443). -/
  | hallAccept (b : Fin 3) (v : BitVec 3)
  /-- HALL_FAULT: a Hall state of 0 or 7 has lasted HINV (R444). -/
  | hallFault (b : Fin 3)
  /-- SENT_FRAME_RECEIVED: a SENT frame: tick in ns, six data nibbles, CRC good, values, status nibble, a slow message completed by it (R445). -/
  | sentFrameReceived (c : Fin 8) (tick : BitVec 17) (six crc : Bool) (fc1 fc2 : BitVec 12) (scn : BitVec 4) (slow : Option (BitVec 8 × Half))
  /-- SENT_TIMEOUT: no valid frame for TMO (R446). -/
  | sentTimeout (c : Fin 8)
  /-- SENT_SLOW_READ: a sideband read of ACT_SENT[s]_SLOW (R445). -/
  | sentSlowRead (w : Who) (c : Fin 8)
  /-- SHIFT_PHASE_COMPLETE: the completion condition of a shift phase has held (R449). -/
  | shiftPhaseComplete
  /-- SHIFT_ABORT: a shift meets an abort cause (R450). -/
  | shiftAbort (c : Fin 8)
  /-- PARK_MOVE_END: a park-lock move ends on position, stall or time (R451). -/
  | parkMoveEnd (e : MoveEnd)
  /-- TMR_MISMATCH: the comparison of an item of kind `kind`, of local-memory word `word` where one is named: what each safety core holds
  (R456, R457, R460). -/
  | tmrMismatch (kind : Fin 3) (word : Option (Fin 49152)) (x0 x1 x2 : BitVec 64)
  /-- RESYNC_COMPLETE: the three safety cores restart together (R458). -/
  | resyncComplete
  /-- SELF_WATCHDOG_EXPIRY: the safety island's self-watchdog expires (R461). -/
  | selfWatchdogExpiry
  /-- LOCKSTEP_MISMATCH: the two cores of a lockstep pair disagree (R463). -/
  | lockstepMismatch (p : PairIx)
  /-- PAIR_RESTART: the safety island takes a halted pair's reaction (R464). -/
  | pairRestart (p : PairIx)
  /-- PAIR_READY_REPORT: the drive firmware on a pair reports its functions ready (R464). -/
  | pairReadyReport (p : PairIx)
  /-- WATCHDOG_KICK: a write of KEY of SAF_WD[w]_KICK (R475). -/
  | watchdogKick (k : Who) (w : Fin 16) (key : Half)
  /-- WATCHDOG_CLOSE_EXPIRY: no good kick by CLOSE (R475). -/
  | watchdogCloseExpiry (w : Fin 16)
  /-- WATCHDOG_PROBE: a probe of an island's identity: its answer, or `none` for CLOSED, ERROR or no answer (R474). -/
  | watchdogProbe (w : Fin 16) (ans : Option Word)
  /-- WATCHDOG_REACTION: a watchdog's run of misses is compared with MLIM (R476). -/
  | watchdogReaction (w : Fin 16)
  /-- LOCK: the safety island sets the safety lock (R478). -/
  | lock
  /-- RECONFIGURATION_WINDOW_OPEN: a window for an activation (`act`) or a parameter change, touching the groups of `m` (R480). -/
  | reconfigurationWindowOpen (act : Bool) (m : Half)
  /-- RECONFIGURATION_WINDOW_CLOSE: the window ends; `ok`: every field read back matches the parameter sets (R481). -/
  | reconfigurationWindowClose (ok : Bool)
  /-- WINDOW_TIMEOUT: the window has been open for 500 ms (R481). -/
  | windowTimeout
  /-- CONTACTOR_CLOSE_REQUEST: a function asks for a coil driver to close (R484). -/
  | contactorCloseRequest (c : Fin 8)
  /-- COIL_PULL_END: the pull-in time of a driver is over (R484). -/
  | coilPullEnd (c : Fin 8)
  /-- OPENING_GAP_EXPIRY: GAP has passed in an opening sequence (R486). -/
  | openingGapExpiry
  /-- PACK_PRECHARGE_COMPARE: the 1 ms comparison of FC0, in 0.1 V, with V_PACK (R488). -/
  | packPrechargeCompare (v : Half)
  /-- PACK_PRECHARGE_TIMEOUT: PRE_TMO is over (R488). -/
  | packPrechargeTimeout
  /-- COIL_FAULT: a commanded coil draws no current, or (`short`) more than 4.5 A (R484). -/
  | coilFault (c : Fin 8) (short : Bool)
  /-- JTAG_INSTRUCTION: a JTAG instruction: 0 BYPASS, 1 IDCODE, 2 SAMPLE/PRELOAD, 3 EXTEST, 4 core debug, 5 register and memory access (R489). -/
  | jtagInstruction (i : Fin 6)
  /-- EXTEST: the EXTEST instruction (R493). -/
  | extest
  /-- MEMORY_REQUEST: a read, or (`wr`) a write of `data`, of `n` bytes at port `p`; `e` is the correction outcome of an access to the
  lagoon (R507, R509). -/
  | memoryRequest (w : Who) (p : Fin 32) (wr : Bool) (a : BitVec 40) (n : Fin 257) (data : List (BitVec 8)) (e : Ecc)
  /-- ARBITER_GRANT: one arbitration decision (R510). -/
  | arbiterGrant
  /-- MEMORY_RESPONSE: the transaction in place `i` completes; `os` are the symbol errors that strike each of its lines (R499 to R502). -/
  | memoryResponse (i : Fin 64) (os : List Flips)
  /-- PORT_CLASS_WRITE: a write of MEM_PORT[p]_CFG (R511). -/
  | portClassWrite (w : Who) (p : Fin 32) (v : Word)
  /-- SCRUB_STEP: the scrubber reads the next line, which the symbol errors `f` have struck (R503). -/
  | scrubStep (f : Flips)
  /-- SCRUB_PASS_LATE: a pass exceeds 9 h (R505). -/
  | scrubPassLate
  /-- LAGOON_SCRUB_STEP: the next lagoon word is scrubbed (R507). -/
  | lagoonScrubStep (o : Ecc)
  /-- DRAM_INIT_CHART_DONE: the chart region is initialised (R498). -/
  | dramInitChartDone
  /-- DRAM_INIT_DONE: all usable DRAM is initialised (R498). -/
  | dramInitDone
  /-- FR_ALLOC_READ: a read of MEM_FR_ALLOC (R516). -/
  | frAllocRead (w : Who)
  /-- FR_ENABLE: a write of MEM_FR_SIZE (R516). -/
  | frEnable (w : Who) (v : Word)
  /-- NARROWS_FRAME_RECEIVED: the bytes of a Narrows frame arrive; it is validated and queued, or discarded and counted (R528). -/
  | narrowsFrameReceived (f : Frame)
  /-- CAN_SEGMENT_RECEIVED: a CAN segment of mailbox `n`'s frame: its header and bytes; `full`: the queue is full (R530, R534). -/
  | canSegmentReceived (p : Fin 4) (n : Fin 16) (hdr : BitVec 8) (full : Bool) (data : List (BitVec 8))
  /-- SEGMENT_TIMEOUT: The next segment has not arrived within 50 ms and the partial frame is discarded (R530). -/
  | segmentTimeout (p : Fin 4) (n : Fin 16)
  /-- HELLO: HELLO settles the protocol version and returns the module's identity and mode (R529). -/
  | hello (n : Fin 16) (pvMin pvMax : BitVec 8)
  /-- LOGIN_START: LOGIN_START returns a nonce and a signed ephemeral key, or BUSY or LOCKED_OUT (R552). -/
  | loginStart (n : Fin 16) (role : BitVec 8) (key : BitVec 64)
  /-- LOGIN_PROVE: the host's ephemeral key and its signature, which open a session with a derived key (R552). -/
  | loginProve (n : Fin 16) (heph hsig : BitVec 512) (aud : Bool)
  /-- LOGOUT: LOGOUT ends the session (R554). -/
  | logout (n : Fin 16) (aud : Bool)
  /-- KEEPALIVE: KEEPALIVE keeps the session alive and returns axle time (R554). -/
  | keepalive (n : Fin 16)
  /-- MODE_REQ: MODE_REQ asks the safety island for an axle-mode transition (R537). -/
  | modeReq (n : Fin 16) (tgt : BitVec 8) (p : Pins) (aud : Bool)
  /-- SAFE_HOLD_REQ: SAFE_HOLD_REQ in mailbox 0 makes the safety island enter SAFE_HOLD with CAUSE 0x07 (R543). -/
  | safeHoldReq (n : Fin 16)
  /-- TRANSPORT_REQ: TRANSPORT_REQ is accepted in STOWED with no source present, opens the coils, writes a snapshot and starts the descent to Transport (R430). -/
  | transportReq (n : Fin 16) (p : Pins)
  /-- DRIVE_CMD: DRIVE_CMD supplies command inputs and directions of both motors as a valid host command (R538). -/
  | driveCmd (n : Fin 16) (ca : Half) (da : BitVec 8) (cb : Half) (db alive : BitVec 8)
  /-- VEHICLE_STATE: output speed, odometer and ALIVE (R539). -/
  | vehicleState (n : Fin 16) (spd : Half) (odo : Word) (alive : BitVec 8)
  /-- SHIFT_REQ: SHIFT_REQ starts a gear shift or is refused (R449). -/
  | shiftReq (n : Fin 16) (tgt : BitVec 8)
  /-- PARK_REQ: PARK_REQ starts a park-lock engage or disengage or is refused (R452). -/
  | parkReq (n : Fin 16) (v : BitVec 8)
  /-- STATUS_READ: STATUS_READ returns one status block (R540). -/
  | statusRead (n : Fin 16) (b : BitVec 8)
  /-- SUBSCRIBE: SUBSCRIBE sets the blocks, period and trace engines reported to the session (R540). -/
  | subscribe (n : Fin 16) (mask : BitVec 8) (period trace : Half)
  /-- SUBSCRIPTION_REPORT: Every PERIOD the module sends REPORT frames of the subscribed blocks and trace slots (R540). -/
  | subscriptionReport (k : Fin 4)
  /-- FR_INFO: FR_INFO returns the flight recorder base, size, state and last allocation (R516). -/
  | frInfo (n : Fin 16)
  /-- CHG_START: CHG_START starts a charging session (R417). -/
  | chgStart (n : Fin 16)
  /-- CHG_STOP: CHG_STOP ends the session with a host stop (R418). -/
  | chgStop (n : Fin 16)
  /-- CHG_PAUSE: CHG_PAUSE suspends or resumes the session (R417). -/
  | chgPause (n : Fin 16) (v : BitVec 8)
  /-- FAULT_LIST: FAULT_LIST returns the present fault items (R551). -/
  | faultList (n : Fin 16)
  /-- FAULT_CLEAR: FAULT_CLEAR clears a fault item for a sufficient role, subject to the latch rules (R551). -/
  | faultClear (n : Fin 16) (item : BitVec 8) (ix : Half) (aud : Bool)
  /-- DP_OPEN: `aud`: the audit entry can be written (R545). -/
  | dpOpen (n : Fin 16) (addr : BitVec 40) (inc dir : BitVec 8) (aud : Bool)
  /-- DP_CLOSE: DP_CLOSE ends the transfer and reports COUNT and ADDR (R548). -/
  | dpClose (n : Fin 16) (handle : Half) (aud : Bool)
  /-- DATA_WR: burst `bidx` of the transfer of session slot `k`; `os` are the symbol errors in its DRAM lines (R547). -/
  | dataWr (k : Fin 4) (handle : Half) (bidx : Word) (data : List (BitVec 8)) (os : List Flips) (aud : Bool)
  /-- DATA_RD_REQ: a request for `n` bytes; `os` are the symbol errors in their DRAM lines (R546). -/
  | dataRdReq (k : Fin 4) (handle : Half) (bidx : Word) (n : Half) (os : List Flips) (aud : Bool)
  /-- PKG_COMMIT: PKG_COMMIT checks a staged package image and programs it into a flash slot (R559). -/
  | pkgCommit (n : Fin 16) (slot : BitVec 8) (size : BitVec 64) (aud : Bool)
  /-- PKG_ACTIVATE: PKG_ACTIVATE runs the activation of a package slot (R94). -/
  | pkgActivate (n : Fin 16) (slot : BitVec 8) (aud : Bool)
  /-- FLOOR_RAISE: FLOOR_RAISE raises the package floor to the active package's SEQ (R97). -/
  | floorRaise (n : Fin 16) (aud : Bool)
  /-- PKG_INFO: PKG_INFO returns the identity and state of both package slots (R559). -/
  | pkgInfo (n : Fin 16)
  /-- PARAM_WRITE: writes bytes of a parameter record, through a reconfiguration window where it governs RWL fields (R541). -/
  | paramWrite (n : Fin 16) (r : ParamRec) (off : Half) (data : List (BitVec 8)) (aud : Bool)
  /-- LIMIT_SET: LIMIT_SET writes an Operator limit within the Installer bound (R541). -/
  | limitSet (n : Fin 16) (l : BitVec 8) (v : Word) (aud : Bool)
  /-- INJECT: INJECT configures and starts a test-signal injection on an engine (R169). -/
  | inject (n : Fin 16) (e : BitVec 8) (img : List Word) (aud : Bool)
  /-- AUDIT_EXPORT: AUDIT_EXPORT copies audit entries into the export buffer (R557). -/
  | auditExport (n : Fin 16) (first cnt : Word)
  /-- ISLAND_REQ: ISLAND_REQ asks the safety island to move or read an island's state (R542). -/
  | islandReq (n : Fin 16) (i st : BitVec 8) (force aud : Bool)
  /-- KEY_INSTALL: KEY_INSTALL stores a role public key (R550). -/
  | keyInstall (n : Fin 16) (role : BitVec 8) (x y : BitVec 256) (aud : Bool)
  /-- KEY_REVOKE: KEY_REVOKE removes a key and ends its sessions (R554). -/
  | keyRevoke (n : Fin 16) (key : BitVec 64) (aud : Bool)
  /-- CERT_INSTALL: CERT_INSTALL installs a staged contract certificate (R416). -/
  | certInstall (n : Fin 16) (size : Half) (aud : Bool)
  /-- FW_COMMIT: programs a firmware image into a flash slot; `chk` is the code its check gives (R550). -/
  | fwCommit (n : Fin 16) (slot : BitVec 8) (size : BitVec 64) (chk : BitVec 8) (aud : Bool)
  /-- FW_ACTIVATE: FW_ACTIVATE activates a firmware slot and resets the module (R550). -/
  | fwActivate (n : Fin 16) (slot : BitVec 8) (aud : Bool)
  /-- DEBUG_START: DEBUG_START returns a debug-unlock challenge (R490). -/
  | debugStart (n : Fin 16)
  /-- DEBUG_PROVE: the Maker key's signature, which grants a debug unlock or sets REFUSED (R490). -/
  | debugProve (n : Fin 16) (sig : BitVec 512) (aud : Bool)
  /-- BOOT_HEADER: writes the signed SPLIT byte for the next boot; `sigOk` says whether the signature is good (R466). -/
  | bootHeader (n : Fin 16) (split : BitVec 8) (sig : BitVec 512) (sigOk aud : Bool)
  /-- ABS_LIMIT_SET: ABS_LIMIT_SET writes a Maker absolute limit (R541). -/
  | absLimitSet (n : Fin 16) (l : BitVec 8) (v : Word) (aud : Bool)
  /-- LONG_COMMAND_COMPLETE: the work of a long command has ended with status `st`, and its final reply is sent (R535). -/
  | longCommandComplete (n : Fin 16) (st : BitVec 8)
  /-- IN_PROGRESS_REPEAT: A running long command repeats IN_PROGRESS within 1,000 ms (R535). -/
  | inProgressRepeat (n : Fin 16)
  /-- SESSION_IDLE_TIMEOUT: No valid frame for IDLE_TMO ends the session (R554). -/
  | sessionIdleTimeout (k : Fin 4) (aud : Bool)
  /-- LOGIN_BAR_EXPIRY: The 10-minute bar on a role after five failed logins ends (R555). -/
  | loginBarExpiry (role : Fin 4)
  /-- STOP_FRAME: a frame on CAN port 0 with its identifier, format and data (R544). -/
  | stopFrame (id : BitVec 29) (ide : Bool) (fmt : CanFmt) (data : List (BitVec 8))
  /-- CAN_PROBE_TIMEOUT: 250 ms on a candidate of CAN port `p` + 1 have passed; `ok`: 8 frames arrived; `cands` are the codes of its list (R524). -/
  | canProbeTimeout (p : Fin 3) (ok : Bool) (cands : List (BitVec 4))
  /-- CAN_BUS_OFF: CAN port `p` + 1 reaches bus-off (R524). -/
  | canBusOff (p : Fin 3)
  /-- TIME_SYNC_RECEIVED: gPTP time `t` in ns arrives on port `p` (R526). -/
  | timeSyncReceived (p : Fin 2) (t : BitVec 64)
  /-- TIME_SYNC_HOLDOVER: No synchronisation for 3 s moves axle time to HOLDOVER (R526). -/
  | timeSyncHoldover
  /-- ARP_REQUEST: An ARP request is answered (R522). -/
  | arpRequest (p : Fin 2)
  /-- ICMP_ECHO: An ICMP echo request is answered (R522). -/
  | icmpEcho (p : Fin 2)
  /-- ATIME_READ: A read of IFC_ATIME_LO latches the high word into IFC_ATIME_HI (R14). -/
  | atimeRead (w : Who)
  /-- INTERFACE_STATUS_WRITE: Once per millisecond the Narrows firmware writes the interface status block (R558). -/
  | interfaceStatusWrite
  /-- LADDER_DWELL_EXPIRY: the conditions of R564, or the dwell of the ladder state, have lasted. -/
  | ladderDwellExpiry (p : Pins)
  /-- LADDER_STEP_COMPLETE: the actions of a step down are done (R566). -/
  | ladderStepComplete
  /-- WAKE_QUALIFIED: a wake source has held for its time (R569). -/
  | wakeQualified (src : Fin 16)
  /-- STORAGE_SUPPLY_SAMPLE: the once-per-second HK0 sample in Storage (R567). -/
  | storageSupplySample (code : BitVec 12)
  /-- ALARM_EXPIRY: the alarm is reached (R568). -/
  | alarmExpiry
  /-- SUPPLY_RISE: the 24 V rail rises above 16.0 V (R574). -/
  | supplyRise
  /-- PRES_N_QUALIFIED: PRES_N asserted for 10 ms (R574). -/
  | presNQualified
  /-- BOOT_STEP: step `k` of Table: Boot from first 24 V is reached (R574) (R575). -/
  | bootStep (k : Fin 19)
  /-- SELF_TEST_COMPLETE: the start-up self-test ends with its failures (R577, R579). -/
  | selfTestComplete (x : SelfTest)
  /-- SELF_TEST_DUE: 24 h of Run since the last FULL self-test (R578). -/
  | selfTestDue
  /-- PRES_N_WARNING: PRES_N deasserted for 10 us (R585). -/
  | presNWarning
  /-- FLUSH_COMPLETE: the recorder flush is programmed (R585). -/
  | flushComplete
  /-- PRES_N_REASSERT: PRES_N asserted again for 10 ms (R587). -/
  | presNReassert
  /-- SUPPLY_DIP: the rail falls below 14.0 V (R589). -/
  | supplyDip
  /-- DIP_RIDE_THROUGH: the rail returns above 16.0 V within 500 us (R589). -/
  | dipRideThrough
  /-- BROWNOUT: the fall has lasted over 500 us (R590). -/
  | brownout
  /-- BROWNOUT_RECOVERY: the rail has stayed above 16.0 V for 10 ms (R591). -/
  | brownoutRecovery
  /-- AON_POWER_ON_RESET: the rail falls below 6.0 V (R592). -/
  | aonPowerOnReset
  /-- CHARGING_COMMUNICATION_MESSAGE: a charging-protocol message from the EVSE, over 10BASE-T1S or 1000BASE-T1 (R415, R416). -/
  | chargingCommunicationMessage (t1s : Bool) (m : EvseMsg)
  /-- CHARGING_PROTOCOL_TIMEOUT: a timer of the charging standard runs out (R416). -/
  | chargingProtocolTimeout
  /-- SHUNT_CONVERSION: a 12-bit shunt conversion (R439). -/
  | shuntConversion (b : Fin 3) (code : BitVec 12)
  /-- BOOTSTRAP_COMPARATOR_RELEASE: the bootstrap comparator of ALEG `a` releases (R440). -/
  | bootstrapComparatorRelease (a : Fin 9)
  deriving DecidableEq, Repr

end Sys2Proof
end

