-- ==== Sys2Proof/Decode.lean ====
section
/-!
DEFINITION. The command that a word spells by the command table's bits. No row of the table gives bits, so no word spells a
command.
-/
namespace Sys2Proof

/-- The command spelled by `nbits` bits of `w`: none, as no row of the table gives a command bits. -/
def decodeTableWord (_nbits _w : Nat) : Option Instr := none

end Sys2Proof
end

