-- ==== Sys2Proof/Machine/Crypto.lean ====
section
/-!
DEFINITION. The named functions of the package checks, the login and the frames: SHA-256, HMAC and HKDF with it, ECDSA verification and
ECDH over NIST P-256, and AES-128-CMAC (R91, R92, R528, R552, R557).
The specification names them; they are written here from their published definitions. PRESUMED, log entry 59.
-/
namespace Sys2Proof.Machine
open Sys2Proof

/-- Addition of 32-bit words. -/
def add32 (a b : Nat) : Nat := (a + b) % 2 ^ 32

/-- Rotate a 32-bit word right. -/
def rotr32 (x n : Nat) : Nat := (x / 2 ^ n ||| x * 2 ^ (32 - n)) % 2 ^ 32

/-- The round constants of SHA-256. -/
def shaK : List Nat :=
  [0x428A2F98, 0x71374491, 0xB5C0FBCF, 0xE9B5DBA5, 0x3956C25B, 0x59F111F1, 0x923F82A4, 0xAB1C5ED5] ++
  [0xD807AA98, 0x12835B01, 0x243185BE, 0x550C7DC3, 0x72BE5D74, 0x80DEB1FE, 0x9BDC06A7, 0xC19BF174] ++
  [0xE49B69C1, 0xEFBE4786, 0x0FC19DC6, 0x240CA1CC, 0x2DE92C6F, 0x4A7484AA, 0x5CB0A9DC, 0x76F988DA] ++
  [0x983E5152, 0xA831C66D, 0xB00327C8, 0xBF597FC7, 0xC6E00BF3, 0xD5A79147, 0x06CA6351, 0x14292967] ++
  [0x27B70A85, 0x2E1B2138, 0x4D2C6DFC, 0x53380D13, 0x650A7354, 0x766A0ABB, 0x81C2C92E, 0x92722C85] ++
  [0xA2BFE8A1, 0xA81A664B, 0xC24B8B70, 0xC76C51A3, 0xD192E819, 0xD6990624, 0xF40E3585, 0x106AA070] ++
  [0x19A4C116, 0x1E376C08, 0x2748774C, 0x34B0BCB5, 0x391C0CB3, 0x4ED8AA4A, 0x5B9CCA4F, 0x682E6FF3] ++
  [0x748F82EE, 0x78A5636F, 0x84C87814, 0x8CC70208, 0x90BEFFFA, 0xA4506CEB, 0xBEF9A3F7, 0xC67178F2]

/-- The initial hash value of SHA-256. -/
def shaInit : List Nat := [0x6A09E667, 0xBB67AE85, 0x3C6EF372, 0xA54FF53A, 0x510E527F, 0x9B05688C, 0x1F83D9AB, 0x5BE0CD19]

/-- One more word of the message schedule, newest first. -/
def shaNext (w : List Nat) : Nat :=
  let a := w.getD 14 0
  let b := w.getD 1 0
  add32 (add32 (w.getD 15 0) (rotr32 a 7 ^^^ rotr32 a 18 ^^^ a / 8)) (add32 (w.getD 6 0) (rotr32 b 17 ^^^ rotr32 b 19 ^^^ b / 1024))

/-- The message schedule extended by `n` words, newest first. -/
def shaExtend (w : List Nat) : Nat → List Nat
  | 0 => w
  | n + 1 => shaExtend (shaNext w :: w) n

/-- One round: the working variables a to h in a list. -/
def shaRound (v : List Nat) (kw : Nat × Nat) : List Nat :=
  match v with
  | [a, b, c, d, e, f, g, h] =>
    let t := add32 (add32 h (rotr32 e 6 ^^^ rotr32 e 11 ^^^ rotr32 e 25))
      (add32 (add32 (e &&& f ^^^ (2 ^ 32 - 1 - e) &&& g) kw.1) kw.2)
    let u := add32 (rotr32 a 2 ^^^ rotr32 a 13 ^^^ rotr32 a 22) (a &&& b ^^^ a &&& c ^^^ b &&& c)
    [add32 t u, a, b, c, add32 d t, e, f, g]
  | _ => v

/-- The big-endian number of a list of digits of base `b`. -/
def beNat (b : Nat) (l : List Nat) : Nat := l.foldl (fun n x => n * b + x) 0

/-- Take a list in pieces of `k`, at most `n` of them. -/
def pieces {α : Type} (k : Nat) (l : List α) : Nat → List (List α)
  | 0 => []
  | n + 1 => l.take k :: pieces k (l.drop k) n

/-- The compression of one block of 64 bytes. -/
def shaBlock (h blk : List Nat) : List Nat :=
  let w := (pieces 4 blk 16).map (beNat 256)
  let v := (shaK.zip (shaExtend w.reverse 48).reverse).foldl shaRound h
  (h.zip v).map (fun x => add32 x.1 x.2)

/-- A message padded to whole blocks. -/
def shaPad (l : List Nat) : List Nat :=
  l ++ [0x80] ++ List.replicate ((119 - l.length % 64) % 64) 0 ++ (List.range 8).map (fun i => 8 * l.length / 256 ^ (7 - i) % 256)

/-- The eight words of the SHA-256 digest of a byte string. -/
def shaWords (l : List (BitVec 8)) : List Nat :=
  let m := shaPad (l.map (·.toNat))
  (pieces 64 m (m.length / 64)).foldl shaBlock shaInit

/-- The SHA-256 digest as the number that ECDSA takes. -/
def shaNat (l : List (BitVec 8)) : Nat := beNat (2 ^ 32) (shaWords l)

/-- The SHA-256 digest as the little-endian number of its 32 bytes, in their order. -/
def sha256 (l : List (BitVec 8)) : Nat :=
  ((shaWords l).flatMap (fun w => [w / 2 ^ 24, w / 2 ^ 16 % 256, w / 2 ^ 8 % 256, w % 256])).foldr (fun b n => b + 256 * n) 0

/-- The SHA-256 digest as its 32 bytes. -/
def shaBytes (l : List Nat) : List Nat :=
  (shaWords (l.map (BitVec.ofNat 8))).flatMap (fun w => [w / 2 ^ 24, w / 2 ^ 16 % 256, w / 2 ^ 8 % 256, w % 256])

/-- HMAC-SHA-256 of a byte string under a key of at most 64 bytes. -/
def hmac (key msg : List Nat) : List Nat :=
  let k := key ++ List.replicate (64 - key.length) 0
  shaBytes (k.map (· ^^^ 0x5C) ++ shaBytes (k.map (· ^^^ 0x36) ++ msg))

/-- The 16-byte output of HKDF-SHA-256. -/
def hkdf16 (salt ikm info : List Nat) : List Nat := (hmac (hmac salt ikm) (info ++ [1])).take 16

/-- The S-box of AES, its bytes in order in four little-endian numbers of 64. -/
def aesBox : List Nat := [0x75B227EBE28012079A059618C323C7041531D871F1E5A534CCF73F362693FDB7C072A49CAFA2D4ADF04759FA7DC982CA76ABD7FE2B670130C56F6BF27B777C63,
    0xD2F3FF1021DAB6BCF5389D928F40A351A89F3C507F02F94585334D43FBAAEFD0CF584C4A39BECB6A5BB1FC20ED00D153842FE329B3D63B52A05A6E1B1A2C8309,
    0x08AE7A65EAF4566CA94ED58D6D37C8E779E4959162ACD3C25C2406490A3A32E0DB0B5EDE14B8EE4688902A22DC4F816073195D643D7EA7C41744975FEC130CCD,
    0x16BB54B00F2D99416842E6BF0D89A18CDF2855CEE9871E9B948ED9691198F8E19E1DC186B95735610EF6034866B53E708A8BBD4B1F74DDE8C6B4A61C2E2578BA]

/-- A byte through the S-box. -/
def aesSub (x : Nat) : Nat := aesBox.getD (x / 64) 0 / 256 ^ (x % 64) % 256

/-- Exclusive or, byte by byte. -/
def xorBytes (a b : List Nat) : List Nat := List.zipWith (· ^^^ ·) a b

/-- Doubling in the field of AES. -/
def aesDouble (x : Nat) : Nat := if x < 128 then 2 * x else (2 * x - 256) ^^^ 0x1B

/-- The next round key from the last one and the round constant. -/
def aesNextKey (k : List Nat) (rc : Nat) : List Nat :=
  let t := [aesSub (k.getD 13 0) ^^^ rc, aesSub (k.getD 14 0), aesSub (k.getD 15 0), aesSub (k.getD 12 0)]
  let a := xorBytes (k.take 4) t
  let b := xorBytes ((k.drop 4).take 4) a
  let c := xorBytes ((k.drop 8).take 4) b
  a ++ b ++ c ++ xorBytes (k.drop 12) c

/-- ShiftRows on a block held column by column. -/
def aesShift (l : List Nat) : List Nat := (List.range 16).map (fun i => l.getD (i % 4 + 4 * ((i / 4 + i % 4) % 4)) 0)

/-- MixColumns. -/
def aesMix (l : List Nat) : List Nat :=
  (List.range 16).map (fun i =>
    let x (k : Nat) : Nat := l.getD (i / 4 * 4 + (i + k) % 4) 0
    aesDouble (x 0 ^^^ x 1) ^^^ x 1 ^^^ x 2 ^^^ x 3)

/-- AES-128 of a block of 16 bytes. -/
def aes128 (key blk : List Nat) : List Nat :=
  let r := [0x01, 0x02, 0x04, 0x08, 0x10, 0x20, 0x40, 0x80, 0x1B].foldl (fun (x : List Nat × List Nat) rc =>
    let k := aesNextKey x.1 rc
    (k, xorBytes (aesMix (aesShift (x.2.map aesSub))) k)) (key, xorBytes blk key)
  xorBytes (aesShift (r.2.map aesSub)) (aesNextKey r.1 0x36)

/-- Twice a block, as a subkey of the CMAC. -/
def cmacDouble (b : List Nat) : List Nat :=
  let x := 2 * beNat 256 b
  let y := if x < 2 ^ 128 then x else (x - 2 ^ 128) ^^^ 0x87
  (List.range 16).map (fun i => y / 256 ^ (15 - i) % 256)

/-- AES-128-CMAC of a byte string. -/
def cmac (key msg : List Nat) : List Nat :=
  let k1 := cmacDouble (aes128 key (List.replicate 16 0))
  let n := max 1 ((msg.length + 15) / 16)
  let last := msg.drop (16 * (n - 1))
  let e := if last.length = 16 then xorBytes last k1
    else xorBytes (last ++ [0x80] ++ List.replicate (15 - last.length) 0) (cmacDouble k1)
  aes128 key (xorBytes ((pieces 16 msg (n - 1)).foldl (fun x b => aes128 key (xorBytes x b)) (List.replicate 16 0)) e)

/-- The prime of P-256. -/
def p256P : Nat := 0xFFFFFFFF00000001000000000000000000000000FFFFFFFFFFFFFFFFFFFFFFFF
/-- The order of P-256. -/
def p256N : Nat := 0xFFFFFFFF00000000FFFFFFFFFFFFFFFFBCE6FAADA7179E84F3B9CAC2FC632551
/-- The coefficient b of P-256. -/
def p256B : Nat := 0x5AC635D8AA3A93E7B3EBBD55769886BC651D06B0CC53B0F63BCE3C3E27D2604B
/-- The base point's x. -/
def p256Gx : Nat := 0x6B17D1F2E12C4247F8BCE6E563A440F277037D812DEB33A0F4A13945D898C296
/-- The base point's y. -/
def p256Gy : Nat := 0x4FE342E2FE1A7F9B8EE7EB4A7C0F9E162BCE33576B315ECECBB6406837BF51F5

/-- A point in Jacobian coordinates (X, Y, Z); Z = 0 is the point at infinity. -/
abbrev JPoint := Nat × Nat × Nat

/-- Subtraction modulo the prime. -/
def p256Sub (a b : Nat) : Nat := (a + (p256P - b % p256P)) % p256P

/-- Twice a point. -/
def p256Dbl (q : JPoint) : JPoint :=
  let x := q.1
  let y := q.2.1
  let z := q.2.2
  if z = 0 ∨ y = 0 then (1, 1, 0)
  else
    let yy := y * y % p256P
    let s := 4 * x * yy % p256P
    let zz := z * z % p256P
    let m := 3 * (p256Sub x zz * ((x + zz) % p256P)) % p256P
    let x3 := p256Sub (m * m) (2 * s)
    (x3, p256Sub (m * p256Sub s x3) (8 * (yy * yy)), 2 * y * z % p256P)

/-- The sum of two points. -/
def p256Add (q r : JPoint) : JPoint :=
  if q.2.2 = 0 then r
  else if r.2.2 = 0 then q
  else
    let z1 := q.2.2 * q.2.2 % p256P
    let z2 := r.2.2 * r.2.2 % p256P
    let u1 := q.1 * z2 % p256P
    let u2 := r.1 * z1 % p256P
    let s1 := q.2.1 * (r.2.2 * z2 % p256P) % p256P
    let s2 := r.2.1 * (q.2.2 * z1 % p256P) % p256P
    if u1 = u2 then (if s1 = s2 then p256Dbl q else (1, 1, 0))
    else
      let h := p256Sub u2 u1
      let w := p256Sub s2 s1
      let hh := h * h % p256P
      let h3 := h * hh % p256P
      let v := u1 * hh % p256P
      let x3 := p256Sub (w * w) (h3 + 2 * v)
      (x3, p256Sub (w * p256Sub v x3) (s1 * h3), h * (q.2.2 * r.2.2 % p256P) % p256P)

/-- A multiple of a point, over the lowest `n` bits of the factor. -/
def p256Mul (k : Nat) (q : JPoint) : Nat → JPoint
  | 0 => (1, 1, 0)
  | n + 1 =>
    let d := p256Dbl (p256Mul (k / 2) q n)
    if k % 2 = 1 then p256Add d q else d

/-- A power modulo `m`, over the lowest `n` bits of the exponent. -/
def powMod (b k m : Nat) : Nat → Nat
  | 0 => 1
  | n + 1 =>
    let h := powMod b (k / 2) m n
    if k % 2 = 1 then h * h % m * b % m else h * h % m

/-- The coordinates of a point that is not the one at infinity. -/
def p256Affine (q : JPoint) : Nat × Nat :=
  let zi := powMod q.2.2 (p256P - 2) p256P 256
  let zz := zi * zi % p256P
  (q.1 * zz % p256P, q.2.1 * (zz * zi % p256P) % p256P)

/-- A pair of coordinates is a point of the curve. -/
def p256On (x y : Nat) : Bool :=
  decide (x < p256P) && decide (y < p256P) && y * y % p256P == (x * x * x + (p256P - 3) * x + p256B) % p256P

/-- The signature (r, s) is that of the message under the public key (x, y). -/
def ecdsaOk (x y r s : Nat) (msg : List (BitVec 8)) : Bool :=
  if !p256On x y || r == 0 || s == 0 || decide (p256N ≤ r) || decide (p256N ≤ s) then false
  else
    let w := powMod s (p256N - 2) p256N 256
    let q := p256Add (p256Mul (shaNat msg * w % p256N) (p256Gx, p256Gy, 1) 256) (p256Mul (r * w % p256N) (x, y, 1) 256)
    let zi := powMod (q.2.2 * q.2.2 % p256P) (p256P - 2) p256P 256
    q.2.2 != 0 && q.1 * zi % p256P % p256N == r

/-- The public key of a private one. -/
def p256Public (d : Nat) : Nat × Nat := p256Affine (p256Mul d (p256Gx, p256Gy, 1) 256)

/-- The ECDH shared secret of a private key and a point: the 32 bytes of the x-coordinate, the highest first. -/
def ecdh (d x y : Nat) : List Nat :=
  let z := (p256Affine (p256Mul d (x, y, 1) 256)).1
  (List.range 32).map (fun i => z / 256 ^ (31 - i) % 256)

end Sys2Proof.Machine
end

