-- ==== Sys2Proof/Config.lean ====
section
/-!
DEFINITION. What the specification leaves open: free values. Each is a constant without a body, so that nothing can be
proved of it (notes/assumptions/1.md).
-/
namespace Sys2Proof

/-- The value drawn at the n-th place where the specification leaves a value open. DESIGN CHOICE, log entry 1. -/
opaque Config.freeValue : Nat → BitVec 64

/-- KEY_ID of the module's own device key. DESIGN CHOICE, log entry 59. -/
opaque Config.devKeyId : BitVec 64

/-- The die temperature in 1/64 °C that a value of HK25 stands for; the specification gives no characteristic. DESIGN CHOICE, log entry 88. -/
opaque Config.dieTemp : Nat → Int

/-- Whether a derated torque cap that is no whole number is rounded up; the specification does not say. DESIGN CHOICE, log entry 88. -/
opaque Config.capRoundsUp : Nat → Bool

end Sys2Proof
end

