-- ==== Sys2Proof/Machine/Fields.lean ====
section
/-!
DEFINITION. The closed list of the device's numeric state: one constructor per register field of the register
headings of spec/ (chapters 01-16), and one per internal quantity the rules speak of. Each constructor's docstring names the
register and field (and the chapter), or the rule an internal quantity rests on. `spec` gives position, width, access
code (R7) and reset value of each.
-/
namespace Sys2Proof.Machine

/-- Access codes of R7; `own` is a write-one-to-clear bit whose clearing has a rule of its own (R241, R242, R248),
`hid` a quantity no register shows. -/
inductive Acc where
  | rw | ro | w1c | w1s | wo | rwl | rws | own | hid
  deriving DecidableEq, Repr

/-- Position, width, access code and reset value (by index) of a field. -/
structure FSpec where
  lo : Nat
  w : Nat
  acc : Acc
  rst : Nat → Nat → Nat

/-- A table of reset values by index, with the value of every index it does not name. -/
def tbl : List (Nat × Nat) → Nat → Nat → Nat
  | [], _, d => d
  | (k, v) :: r, i, d => if i = k then v else tbl r i d

/-- A table of reset values by index range (both ends included), with the value of every other index. -/
def span : List (Nat × Nat × Nat) → Nat → Nat → Nat
  | [], _, d => d
  | (a, b, v) :: r, i, d => if a ≤ i ∧ i ≤ b then v else span r i d

/-- Safety island (SAF). -/
inductive SafFld where
  /-- `SAF_ISL[n]_CTRL`.REQ_STATE, RWS (01) -/
  | ISL_CTRL_REQ_STATE
  /-- `SAF_ISL[n]_CTRL`.FORCE, RWS (01) -/
  | ISL_CTRL_FORCE
  /-- `SAF_ISL[n]_STAT`.STATE, RO (01) -/
  | ISL_STAT_STATE
  /-- `SAF_ISL[n]_STAT`.BUSY, RO (01) -/
  | ISL_STAT_BUSY
  /-- `SAF_ISL[n]_STAT`.DRAINED, RO (01) -/
  | ISL_STAT_DRAINED
  /-- `SAF_ISL[n]_STAT`.CLOSED_SEEN, W1C (01) -/
  | ISL_STAT_CLOSED_SEEN
  /-- `SAF_ISL[n]_STAT`.TIMEOUT, W1C (01) -/
  | ISL_STAT_TIMEOUT
  /-- `SAF_ISL[n]_STAT`.PARITY, W1C (01) -/
  | ISL_STAT_PARITY
  /-- `SAF_ISL[n]_STAT`.REFUSED, W1C (01) -/
  | ISL_STAT_REFUSED
  /-- `SAF_ISL[n]_SERR`.PAR_CNT, RW (01) -/
  | ISL_SERR_PAR_CNT
  /-- `SAF_ISL[n]_SERR`.TMO_CNT, RW (01) -/
  | ISL_SERR_TMO_CNT
  /-- `SAF_ISL[n]_DEP`.GROUPS, RWL (01) -/
  | ISL_DEP
  /-- `SAF_MODE_GRP[m]`.GROUPS, RWL (01) -/
  | MODE_GRP
  /-- `SAF_AXLE_MODE`.MODE, RWS (01) -/
  | AXLE_MODE_MODE
  /-- `SAF_AXLE_MODE`.PREV, RO (01) -/
  | AXLE_MODE_PREV
  /-- `SAF_AXLE_MODE`.BUSY, RO (01) -/
  | AXLE_MODE_BUSY
  /-- `SAF_AXLE_MODE`.REFUSED, W1C (01) -/
  | AXLE_MODE_REFUSED
  /-- `SAF_AXLE_MODE`.CAUSE, RO (01) -/
  | AXLE_MODE_CAUSE
  /-- `SAF_XOVER[k]`.XOVER, RWL (06) -/
  | XOVER_XOVER
  /-- `SAF_XOVER[k]`.GRPS, RWL (06) -/
  | XOVER_GRPS
  /-- `SAF_SPDSRC[k]`.ENG_RES, RWL (09) -/
  | SPDSRC_ENG_RES
  /-- `SAF_SPDSRC[k]`.SLOT_RES, RWL (09) -/
  | SPDSRC_SLOT_RES
  /-- `SAF_SPDSRC[k]`.ENG_EMF, RWL (09) -/
  | SPDSRC_ENG_EMF
  /-- `SAF_SPDSRC[k]`.SLOT_EMF, RWL (09) -/
  | SPDSRC_SLOT_EMF
  /-- `SAF_SPDSRC[k]`.VALID_RES, RO (09) -/
  | SPDSRC_VALID_RES
  /-- `SAF_SPDSRC[k]`.VALID_EMF, RO (09) -/
  | SPDSRC_VALID_EMF
  /-- `SAF_SPDSRC[k]`.DISAGREE, W1C (09) -/
  | SPDSRC_DISAGREE
  /-- `SAF_SPDSRC[k]`.STALE, W1C (09) -/
  | SPDSRC_STALE
  /-- `SAF_TMR_STAT`.MODE, RO (13) -/
  | TMR_STAT_MODE
  /-- `SAF_TMR_STAT`.ODD, RO (13) -/
  | TMR_STAT_ODD
  /-- `SAF_TMR_STAT`.RETIRED, RO (13) -/
  | TMR_STAT_RETIRED
  /-- `SAF_TMR_STAT`.MISMATCH, W1C (13) -/
  | TMR_STAT_MISMATCH
  /-- `SAF_TMR_STAT`.RESYNC_SEEN, W1C (13) -/
  | TMR_STAT_RESYNC_SEEN
  /-- `SAF_TMR_STAT`.KIND, RO (13) -/
  | TMR_STAT_KIND
  /-- `SAF_TMR_STAT`.RESYNC_CNT, RW (13) -/
  | TMR_STAT_RESYNC_CNT
  /-- `SAF_CP[p]`.STATE, RO (13) -/
  | CP_STATE
  /-- `SAF_CP[p]`.DBG_HALT, RO (13) -/
  | CP_DBG_HALT
  /-- `SAF_CP[p]`.MISMATCH, W1C (13) -/
  | CP_MISMATCH
  /-- `SAF_CP[p]`.GRPS, RWL (13) -/
  | CP_GRPS
  /-- `SAF_FW_RGN[r]_BASE`.ADDR, RWL (13) -/
  | FW_RGN_BASE_ADDR
  /-- `SAF_FW_RGN[r]_BASE`.EN, RWL (13) -/
  | FW_RGN_BASE_EN
  /-- `SAF_FW_RGN[r]_LIM`.ADDR, RWL (13) -/
  | FW_RGN_LIM
  /-- `SAF_VIOL`.TYPE, RO (13) -/
  | VIOL_TYPE
  /-- `SAF_VIOL`.INIT, RO (13) -/
  | VIOL_INIT
  /-- `SAF_VIOL`.AHI, RO (13) -/
  | VIOL_AHI
  /-- `SAF_VIOL`.VALID, W1C (13) -/
  | VIOL_VALID
  /-- `SAF_VIOL_ADDR`.ALO, RO (13) -/
  | VIOL_ADDR
  /-- `SAF_WD[w]_CFG`.EN, RWL (13) -/
  | WD_CFG_EN
  /-- `SAF_WD[w]_CFG`.REACT, RWL (13) -/
  | WD_CFG_REACT
  /-- `SAF_WD[w]_CFG`.KIND, RO (13) -/
  | WD_CFG_KIND
  /-- `SAF_WD[w]_CFG`.MLIM, RWL (13) -/
  | WD_CFG_MLIM
  /-- `SAF_WD[w]_CFG`.OPEN, RWL (13) -/
  | WD_CFG_OPEN
  /-- `SAF_WD[w]_CFG`.CLOSE, RWL (13) -/
  | WD_CFG_CLOSE
  /-- `SAF_WD[w]_KICK`.TOKEN, RO (13) -/
  | WD_KICK_TOKEN
  /-- `SAF_WD[w]_KICK`.KEY, WO (13) -/
  | WD_KICK_KEY
  /-- `SAF_WD[w]_STAT`.MRUN, RO (13) -/
  | WD_STAT_MRUN
  /-- `SAF_WD[w]_STAT`.MISS, W1C (13) -/
  | WD_STAT_MISS
  /-- `SAF_WD[w]_STAT`.FIRED, W1C (13) -/
  | WD_STAT_FIRED
  /-- `SAF_WD[w]_STAT`.MCNT, RW (13) -/
  | WD_STAT_MCNT
  /-- `SAF_ESC`.TMO_REACT, RWL (13) -/
  | ESC_TMO_REACT
  /-- `SAF_ESC`.PAR_REACT, RWL (13) -/
  | ESC_PAR_REACT
  /-- `SAF_ESC`.PAR_LIM, RWL (13) -/
  | ESC_PAR_LIM
  /-- `SAF_ESC`.GFI_HOLD, RWL (13) -/
  | ESC_GFI_HOLD
  /-- `SAF_LOCK`.LOCK, RWS (13) -/
  | LOCK_LOCK
  /-- `SAF_LOCK`.WINDOW, RO (13) -/
  | LOCK_WINDOW
  /-- `SAF_LOCK`.ISL_LOCK, RO (13) -/
  | LOCK_ISL_LOCK
  /-- `SAF_CD[c]_CFG`.ORDER, RWL (13) -/
  | CD_CFG_ORDER
  /-- `SAF_CD[c]_CFG`.PULL, RWL (13) -/
  | CD_CFG_PULL
  /-- `SAF_CD[c]_CFG`.HOLD, RWL (13) -/
  | CD_CFG_HOLD
  /-- `SAF_CD[c]_CFG`.MODES, RWL (13) -/
  | CD_CFG_MODES
  /-- `SAF_CD[c]_STAT`.ON, RO (13) -/
  | CD_STAT_ON
  /-- `SAF_CD[c]_STAT`.HOLDING, RO (13) -/
  | CD_STAT_HOLDING
  /-- `SAF_CD[c]_STAT`.OPEN_LOAD, W1C (13) -/
  | CD_STAT_OPEN_LOAD
  /-- `SAF_CD[c]_STAT`.SHORT, W1C (13) -/
  | CD_STAT_SHORT
  /-- `SAF_CD[c]_STAT`.REFUSED, W1C (13) -/
  | CD_STAT_REFUSED
  /-- `SAF_CD[c]_STAT`.CLOSES, RW (13) -/
  | CD_STAT_CLOSES
  /-- `SAF_CSEQ`.PSTATE, RO (13) -/
  | CSEQ_PSTATE
  /-- `SAF_CSEQ`.GAP, RWL (13) -/
  | CSEQ_GAP
  /-- `SAF_CSEQ`.PRE_TOL, RWL (13) -/
  | CSEQ_PRE_TOL
  /-- `SAF_CSEQ`.PRE_TMO, RWL (13) -/
  | CSEQ_PRE_TMO
  /-- `SAF_DBG`.UNLOCKED, RO (13) -/
  | DBG_UNLOCKED
  /-- `SAF_DBG`.REFUSED, W1C (13) -/
  | DBG_REFUSED
  /-- `SAF_STOP_CFG`.ID, RWL (15) -/
  | STOP_CFG_ID
  /-- `SAF_STOP_CFG`.IDE, RWL (15) -/
  | STOP_CFG_IDE
  /-- `SAF_STOP_CFG`.EN, RWL (15) -/
  | STOP_CFG_EN
  /-- `SAF_STOP_STAT`.NBR, RWL (15) -/
  | STOP_STAT_NBR
  /-- `SAF_STOP_STAT`.SEEN, W1C (15) -/
  | STOP_STAT_SEEN
  /-- `SAF_STOP_STAT`.BAD, W1C (15) -/
  | STOP_STAT_BAD
  /-- `SAF_STOP_STAT`.CNT, RW (15) -/
  | STOP_STAT_CNT
  /-- `SAF_STEST`.DEPTH, RO (16) -/
  | STEST_DEPTH
  /-- `SAF_STEST`.RUNNING, RO (16) -/
  | STEST_RUNNING
  /-- `SAF_STEST`.PASS, RO (16) -/
  | STEST_PASS
  /-- `SAF_STEST`.DUE, W1C (16) -/
  | STEST_DUE
  /-- `SAF_STEST`.AGE, RO (16) -/
  | STEST_AGE
  /-- `SAF_STEST_FAIL`.ITEMS, RO (16) -/
  | STEST_FAIL
  /-- target of the axle-mode change in progress (R52, R55) -/
  | MODE_TGT
  /-- the cause of the last entry into SAFE_HOLD has not been cleared (R54, R56) -/
  | HOLD_LATCHED
  /-- coil drivers an opening sequence has still to open (R486) -/
  | OPEN_MASK
  /-- why the safety island holds a GRD_SAF_FORCE bit, by group: bit 0 leg fault, 1 over-current, 2 lane loss, 3 island or pair restart, 4 window, 5 own check, 6 drive firmware (R247, R464, R480) -/
  | FORCE_CAUSE
  /-- instant of the last but one mismatch of a safety core, plus 1; 0 none (R459) -/
  | TMR_T1
  /-- instant of the last mismatch of a safety core, plus 1; 0 none (R459) -/
  | TMR_T2
  /-- instant of a pair's last mismatch, plus 1; 0 none (R465) -/
  | CP_MM_AT
  /-- the pair's present halt is its second mismatch within 1 h (R465) -/
  | CP_SECOND
  /-- the drive firmware on the pair has reported its functions ready since its restart (R464) -/
  | CP_OWNER_READY
  /-- instant of the last good kick (R475) -/
  | WD_GOOD_AT
  /-- a good kick has been made since reset (R475) -/
  | WD_OPENED
  /-- target of the island transition in progress (R17) -/
  | ISL_TGT
  /-- steps of a safety-island restart still to take: 3 ISOLATED, 2 RESET, 1 RUN (R35, R476) -/
  | ISL_PLAN
  /-- the island is out of RUN because the safety island or the ladder controller asked for it (R474) -/
  | ISL_ASKED
  /-- the EXTEST instruction is in force (R493) -/
  | EXTEST
  /-- last JTAG instruction accepted: 0 BYPASS, 1 IDCODE, 2 SAMPLE/PRELOAD, 3 EXTEST, 4 core debug, 5 register and memory access (R489) -/
  | JTAG_IR
  /-- purpose of the open reconfiguration window: 0 activation, 1 parameter change (R480) -/
  | WIN_PURPOSE
  /-- payload words of the transaction that is arriving over the strait from island i to island j (R25) -/
  | STR_BUF
  /-- how many of them have arrived -/
  | STR_N
  /-- a word of that transaction was discarded (R36, R37) -/
  | STR_BAD
  /-- force bits kept for failed self-test items (R579) -/
  | KEPT_FORCE
  /-- Run accumulated since the last FULL self-test, as the instant it began (R578) -/
  | RUN_MS
  /-- instant of the last escalation into SAFE_HOLD, plus 1; 0 is none (R57) -/
  | HOLD_AT
  /-- instant at which the opening sequence last opened an ORDER, plus 1; 0 is none (R486) -/
  | OPEN_AT
  /-- instant at which coil driver c was energised, plus 1 (R484) -/
  | PULL_AT
  /-- instant at which the pack-close sequence began, plus 1 (R488) -/
  | PACK_AT
  /-- instant from which the present CLOSE time of watchdog w runs: its last good kick, or its last miss by CLOSE (R475) -/
  | WD_AT
  /-- instant at which the transition in progress of island n began (R39, R17) -/
  | ISL_AT
  /-- instants of the last 256 parity errors of island n, plus 1, by the low 8 bits of their number (R477, R36) -/
  | PAR_AT
  /-- number of the next parity error of island n, modulo 256 (R477, R36) -/
  | PAR_IX
  /-- the package was lost while the axle was in READY or COMMISSION or changing its mode: STOWED follows (R581, R102) -/
  | STOW_DUE
  /-- local memories of the safety cores by words of 64 bits: 32,768 of code, then 16,384 of data (R456) -/
  | LM
  /-- local state of a safety core: register file, control and status registers, program counter, fetch buffers (R456, R458) -/
  | CORE
  deriving DecidableEq, Repr

/-- Position, width, access code and reset value of each field of `SafFld`. -/
def SafFld.spec : SafFld → FSpec
  | .ISL_CTRL_REQ_STATE => ⟨0, 3, .rws, fun i _ => if i = 0 ∨ i = 12 then 0 else 3⟩
  | .ISL_CTRL_FORCE => ⟨4, 1, .rws, fun _ _ => 0⟩
  | .ISL_STAT_STATE => ⟨0, 3, .ro, fun i _ => if i = 0 ∨ i = 12 then 0 else 3⟩
  | .ISL_STAT_BUSY => ⟨3, 1, .ro, fun _ _ => 0⟩
  | .ISL_STAT_DRAINED => ⟨4, 1, .ro, fun _ _ => 0⟩
  | .ISL_STAT_CLOSED_SEEN => ⟨8, 1, .w1c, fun _ _ => 0⟩
  | .ISL_STAT_TIMEOUT => ⟨9, 1, .w1c, fun _ _ => 0⟩
  | .ISL_STAT_PARITY => ⟨10, 1, .w1c, fun _ _ => 0⟩
  | .ISL_STAT_REFUSED => ⟨11, 1, .w1c, fun _ _ => 0⟩
  | .ISL_SERR_PAR_CNT => ⟨0, 16, .rw, fun _ _ => 0⟩
  | .ISL_SERR_TMO_CNT => ⟨16, 16, .rw, fun _ _ => 0⟩
  | .ISL_DEP => ⟨0, 16, .rwl, fun i _ => tbl [(0, 0xFFFF), (6, 0x003F), (7, 0xFFFF), (8, 0xFFFF), (9, 0x003F), (10, 0x0003), (11, 0x01C0)] i 0⟩
  | .MODE_GRP => ⟨0, 16, .rwl, fun i _ => tbl [(1, 0x01E0), (2, 0x01E3), (3, 0x0138), (4, 0x01E7), (5, 0xFFFF)] i 0⟩
  | .AXLE_MODE_MODE => ⟨0, 3, .rws, fun _ _ => 0⟩
  | .AXLE_MODE_PREV => ⟨4, 3, .ro, fun _ _ => 0⟩
  | .AXLE_MODE_BUSY => ⟨8, 1, .ro, fun _ _ => 0⟩
  | .AXLE_MODE_REFUSED => ⟨9, 1, .w1c, fun _ _ => 0⟩
  | .AXLE_MODE_CAUSE => ⟨16, 8, .ro, fun _ _ => 0⟩
  | .XOVER_XOVER => ⟨0, 16, .rwl, fun _ _ => 0⟩
  | .XOVER_GRPS => ⟨16, 16, .rwl, fun i _ => if i = 0 then 1 else 2⟩
  | .SPDSRC_ENG_RES => ⟨0, 4, .rwl, fun i _ => if i = 0 then 0 else 2⟩
  | .SPDSRC_SLOT_RES => ⟨4, 3, .rwl, fun _ _ => 2⟩
  | .SPDSRC_ENG_EMF => ⟨8, 4, .rwl, fun i _ => if i = 0 then 0 else 2⟩
  | .SPDSRC_SLOT_EMF => ⟨12, 3, .rwl, fun _ _ => 3⟩
  | .SPDSRC_VALID_RES => ⟨16, 1, .ro, fun _ _ => 0⟩
  | .SPDSRC_VALID_EMF => ⟨17, 1, .ro, fun _ _ => 0⟩
  | .SPDSRC_DISAGREE => ⟨18, 1, .w1c, fun _ _ => 0⟩
  | .SPDSRC_STALE => ⟨19, 1, .w1c, fun _ _ => 0⟩
  | .TMR_STAT_MODE => ⟨0, 2, .ro, fun _ _ => 0⟩
  | .TMR_STAT_ODD => ⟨2, 2, .ro, fun _ _ => 3⟩
  | .TMR_STAT_RETIRED => ⟨4, 3, .ro, fun _ _ => 0⟩
  | .TMR_STAT_MISMATCH => ⟨8, 1, .w1c, fun _ _ => 0⟩
  | .TMR_STAT_RESYNC_SEEN => ⟨9, 1, .w1c, fun _ _ => 0⟩
  | .TMR_STAT_KIND => ⟨10, 2, .ro, fun _ _ => 0⟩
  | .TMR_STAT_RESYNC_CNT => ⟨16, 16, .rw, fun _ _ => 0⟩
  | .CP_STATE => ⟨0, 2, .ro, fun _ _ => 0⟩
  | .CP_DBG_HALT => ⟨2, 1, .ro, fun _ _ => 0⟩
  | .CP_MISMATCH => ⟨8, 1, .w1c, fun _ _ => 0⟩
  | .CP_GRPS => ⟨16, 16, .rwl, fun _ _ => 0⟩
  | .FW_RGN_BASE_ADDR => ⟨0, 28, .rwl, fun i _ => if i = 0 then 0x01B0000 else 0⟩
  | .FW_RGN_BASE_EN => ⟨31, 1, .rwl, fun i _ => if i = 0 then 1 else 0⟩
  | .FW_RGN_LIM => ⟨0, 28, .rwl, fun i _ => if i = 0 then 0x01BFFFF else 0⟩
  | .VIOL_TYPE => ⟨0, 2, .ro, fun _ _ => 0⟩
  | .VIOL_INIT => ⟨8, 8, .ro, fun _ _ => 0⟩
  | .VIOL_AHI => ⟨16, 8, .ro, fun _ _ => 0⟩
  | .VIOL_VALID => ⟨24, 1, .w1c, fun _ _ => 0⟩
  | .VIOL_ADDR => ⟨0, 32, .ro, fun _ _ => 0⟩
  | .WD_CFG_EN => ⟨0, 1, .rwl, fun _ _ => 0⟩
  | .WD_CFG_REACT => ⟨1, 2, .rwl, fun _ _ => 2⟩
  | .WD_CFG_KIND => ⟨3, 1, .ro, fun i _ => if i ≤ 8 then 0 else 1⟩
  | .WD_CFG_MLIM => ⟨4, 4, .rwl, fun _ _ => 2⟩
  | .WD_CFG_OPEN => ⟨8, 12, .rwl, fun _ _ => 0⟩
  | .WD_CFG_CLOSE => ⟨20, 12, .rwl, fun _ _ => 0xc8⟩
  | .WD_KICK_TOKEN => ⟨0, 16, .ro, fun _ _ => 0xa5c3⟩
  | .WD_KICK_KEY => ⟨16, 16, .wo, fun _ _ => 0⟩
  | .WD_STAT_MRUN => ⟨0, 4, .ro, fun _ _ => 0⟩
  | .WD_STAT_MISS => ⟨4, 1, .w1c, fun _ _ => 0⟩
  | .WD_STAT_FIRED => ⟨5, 1, .w1c, fun _ _ => 0⟩
  | .WD_STAT_MCNT => ⟨16, 16, .rw, fun _ _ => 0⟩
  | .ESC_TMO_REACT => ⟨0, 2, .rwl, fun _ _ => 2⟩
  | .ESC_PAR_REACT => ⟨2, 2, .rwl, fun _ _ => 2⟩
  | .ESC_PAR_LIM => ⟨8, 8, .rwl, fun _ _ => 0x10⟩
  | .ESC_GFI_HOLD => ⟨16, 8, .rwl, fun _ _ => 0xff⟩
  | .LOCK_LOCK => ⟨0, 1, .rws, fun _ _ => 0⟩
  | .LOCK_WINDOW => ⟨1, 1, .ro, fun _ _ => 0⟩
  | .LOCK_ISL_LOCK => ⟨16, 14, .ro, fun _ _ => 0⟩
  | .CD_CFG_ORDER => ⟨0, 4, .rwl, fun i _ => tbl [(0, 1), (1, 2), (2, 1)] i 0⟩
  | .CD_CFG_PULL => ⟨4, 4, .rwl, fun _ _ => 3⟩
  | .CD_CFG_HOLD => ⟨8, 8, .rwl, fun _ _ => 0x66⟩
  | .CD_CFG_MODES => ⟨16, 7, .rwl, fun i _ => tbl [(0, 0x3E), (1, 0x3E), (2, 0x3E), (3, 0x08), (4, 0x08), (5, 0x18), (6, 0x08)] i 0⟩
  | .CD_STAT_ON => ⟨0, 1, .ro, fun _ _ => 0⟩
  | .CD_STAT_HOLDING => ⟨1, 1, .ro, fun _ _ => 0⟩
  | .CD_STAT_OPEN_LOAD => ⟨8, 1, .w1c, fun _ _ => 0⟩
  | .CD_STAT_SHORT => ⟨9, 1, .w1c, fun _ _ => 0⟩
  | .CD_STAT_REFUSED => ⟨10, 1, .w1c, fun _ _ => 0⟩
  | .CD_STAT_CLOSES => ⟨16, 16, .rw, fun _ _ => 0⟩
  | .CSEQ_PSTATE => ⟨0, 4, .ro, fun _ _ => 0⟩
  | .CSEQ_GAP => ⟨8, 8, .rwl, fun _ _ => 0x14⟩
  | .CSEQ_PRE_TOL => ⟨16, 8, .rwl, fun _ _ => 0x14⟩
  | .CSEQ_PRE_TMO => ⟨24, 8, .rwl, fun _ _ => 0x32⟩
  | .DBG_UNLOCKED => ⟨0, 1, .ro, fun _ _ => 0⟩
  | .DBG_REFUSED => ⟨8, 1, .w1c, fun _ _ => 0⟩
  | .STOP_CFG_ID => ⟨0, 29, .rwl, fun _ _ => 0x10⟩
  | .STOP_CFG_IDE => ⟨29, 1, .rwl, fun _ _ => 0⟩
  | .STOP_CFG_EN => ⟨30, 1, .rwl, fun _ _ => 0⟩
  | .STOP_STAT_NBR => ⟨0, 2, .rwl, fun _ _ => 2⟩
  | .STOP_STAT_SEEN => ⟨8, 1, .w1c, fun _ _ => 0⟩
  | .STOP_STAT_BAD => ⟨9, 1, .w1c, fun _ _ => 0⟩
  | .STOP_STAT_CNT => ⟨16, 16, .rw, fun _ _ => 0⟩
  | .STEST_DEPTH => ⟨0, 2, .ro, fun _ _ => 0⟩
  | .STEST_RUNNING => ⟨2, 1, .ro, fun _ _ => 0⟩
  | .STEST_PASS => ⟨3, 1, .ro, fun _ _ => 0⟩
  | .STEST_DUE => ⟨8, 1, .w1c, fun _ _ => 0⟩
  | .STEST_AGE => ⟨16, 16, .ro, fun _ _ => 0⟩
  | .STEST_FAIL => ⟨0, 16, .ro, fun _ _ => 0⟩
  | .MODE_TGT => ⟨0, 3, .hid, fun _ _ => 0⟩
  | .HOLD_LATCHED => ⟨0, 1, .hid, fun _ _ => 0⟩
  | .OPEN_MASK => ⟨0, 8, .hid, fun _ _ => 0⟩
  | .FORCE_CAUSE => ⟨0, 32, .hid, fun _ _ => 0⟩
  | .TMR_T1 => ⟨0, 64, .hid, fun _ _ => 0⟩
  | .TMR_T2 => ⟨0, 64, .hid, fun _ _ => 0⟩
  | .CP_MM_AT => ⟨0, 64, .hid, fun _ _ => 0⟩
  | .CP_SECOND => ⟨0, 1, .hid, fun _ _ => 0⟩
  | .CP_OWNER_READY => ⟨0, 1, .hid, fun _ _ => 0⟩
  | .WD_GOOD_AT => ⟨0, 64, .hid, fun _ _ => 0⟩
  | .WD_OPENED => ⟨0, 1, .hid, fun _ _ => 0⟩
  | .ISL_TGT => ⟨0, 3, .hid, fun _ _ => 0⟩
  | .ISL_PLAN => ⟨0, 2, .hid, fun _ _ => 0⟩
  | .ISL_ASKED => ⟨0, 1, .hid, fun _ _ => 0⟩
  | .EXTEST => ⟨0, 1, .hid, fun _ _ => 0⟩
  | .JTAG_IR => ⟨0, 3, .hid, fun _ _ => 0⟩
  | .WIN_PURPOSE => ⟨0, 1, .hid, fun _ _ => 0⟩
  | .STR_BUF => ⟨0, 4194304, .hid, fun _ _ => 0⟩
  | .STR_N => ⟨0, 17, .hid, fun _ _ => 0⟩
  | .STR_BAD => ⟨0, 1, .hid, fun _ _ => 0⟩
  | .KEPT_FORCE => ⟨0, 16, .hid, fun _ _ => 0⟩
  | .RUN_MS => ⟨0, 64, .hid, fun _ _ => 0⟩
  | .HOLD_AT => ⟨0, 64, .hid, fun _ _ => 0⟩
  | .OPEN_AT => ⟨0, 64, .hid, fun _ _ => 0⟩
  | .PULL_AT => ⟨0, 64, .hid, fun _ _ => 0⟩
  | .PACK_AT => ⟨0, 64, .hid, fun _ _ => 0⟩
  | .WD_AT => ⟨0, 64, .hid, fun _ _ => 0⟩
  | .ISL_AT => ⟨0, 64, .hid, fun _ _ => 0⟩
  | .PAR_AT => ⟨0, 64, .hid, fun _ _ => 0⟩
  | .PAR_IX => ⟨0, 8, .hid, fun _ _ => 0⟩
  | .STOW_DUE => ⟨0, 1, .hid, fun _ _ => 0⟩
  | .LM => ⟨0, 64, .hid, fun _ _ => 0⟩
  | .CORE => ⟨0, 61440, .hid, fun _ _ => 0⟩

/-- Interface island (IFC) and time. -/
inductive IfcFld where
  /-- `IFC_ATIME_LO`.T, RO (15) -/
  | ATIME_LO
  /-- `IFC_ATIME_HI`.T, RO (15) -/
  | ATIME_HI
  /-- `IFC_TSYNC_STAT`.STATE, RO (15) -/
  | TSYNC_STAT_STATE
  /-- `IFC_TSYNC_STAT`.STEPPED, W1C (15) -/
  | TSYNC_STAT_STEPPED
  /-- `IFC_TSYNC_STAT`.PORT, RO (15) -/
  | TSYNC_STAT_PORT
  /-- `IFC_TSYNC_STAT`.OFFS, RO (15) -/
  | TSYNC_STAT_OFFS
  /-- axle time minus the time since reset, in nanoseconds modulo 2^64 (R14) -/
  | T_OFFS
  /-- offset still to be slewed away when slewing last began, signed, in ns (R526) -/
  | T_REM
  /-- local time at which that slewing began, in ns -/
  | T_SLEW_AT
  /-- its rate, at most 200 ppm (R526) -/
  | T_PPM
  deriving DecidableEq, Repr

/-- Position, width, access code and reset value of each field of `IfcFld`. -/
def IfcFld.spec : IfcFld → FSpec
  | .ATIME_LO => ⟨0, 32, .ro, fun _ _ => 0⟩
  | .ATIME_HI => ⟨0, 32, .ro, fun _ _ => 0⟩
  | .TSYNC_STAT_STATE => ⟨0, 2, .ro, fun _ _ => 0⟩
  | .TSYNC_STAT_STEPPED => ⟨2, 1, .w1c, fun _ _ => 0⟩
  | .TSYNC_STAT_PORT => ⟨3, 1, .ro, fun _ _ => 0⟩
  | .TSYNC_STAT_OFFS => ⟨16, 16, .ro, fun _ _ => 0⟩
  | .T_OFFS => ⟨0, 64, .hid, fun _ _ => 0⟩
  | .T_REM => ⟨0, 64, .hid, fun _ _ => 0⟩
  | .T_SLEW_AT => ⟨0, 64, .hid, fun _ _ => 0⟩
  | .T_PPM => ⟨0, 8, .hid, fun _ _ => 0⟩

/-- Loop island: engines, slots, groups, charts (LOOP). -/
inductive LoopFld where
  /-- `LOOP_CHART_CTRL`.EN_A, RW (02) -/
  | CHART_CTRL_EN_A
  /-- `LOOP_CHART_CTRL`.EN_B, RW (02) -/
  | CHART_CTRL_EN_B
  /-- `LOOP_CHART_CTRL`.PREFETCH, RW (02) -/
  | CHART_CTRL_PREFETCH
  /-- `LOOP_CHART_CTRL`.INVAL, WO (02) -/
  | CHART_CTRL_INVAL
  /-- `LOOP_CHART_CTRL`.LOOKAHEAD, RW (02) -/
  | CHART_CTRL_LOOKAHEAD
  /-- `LOOP_CHART_BASE[k]`.BASE, RWL (02) -/
  | CHART_BASE
  /-- `LOOP_CHART_STAT`.LOADED, RWS (02) -/
  | CHART_STAT_LOADED
  /-- `LOOP_CHART_STAT`.WARM_A, RO (02) -/
  | CHART_STAT_WARM_A
  /-- `LOOP_CHART_STAT`.WARM_B, RO (02) -/
  | CHART_STAT_WARM_B
  /-- `LOOP_CHART_STAT`.CHART_WARM, RO (02) -/
  | CHART_STAT_CHART_WARM
  /-- `LOOP_CHART_STAT`.SLOT, RWS (02) -/
  | CHART_STAT_SLOT
  /-- `LOOP_CHART_STAT`.NODE_ERR, W1C (02) -/
  | CHART_STAT_NODE_ERR
  /-- `LOOP_CHART_STAT`.LATE, W1C (02) -/
  | CHART_STAT_LATE
  /-- `LOOP_CHART_STAT`.CLAMP, W1C (02) -/
  | CHART_STAT_CLAMP
  /-- `LOOP_CHART_STAT`.FILL_CLOSED, W1C (02) -/
  | CHART_STAT_FILL_CLOSED
  /-- `LOOP_CHART_CNT[k]`.STALLS, RW (02) -/
  | CHART_CNT_STALLS
  /-- `LOOP_CHART_CNT[k]`.MAX_STALL, RW (02) -/
  | CHART_CNT_MAX_STALL
  /-- `LOOP_CHART_CNT[k]`.LATE_CNT, RW (02) -/
  | CHART_CNT_LATE_CNT
  /-- `LOOP_LE[n]_IPMAP[p]`.KIND, RW (03) -/
  | IPMAP_KIND
  /-- `LOOP_LE[n]_IPMAP[p]`.CHAN, RW (03) -/
  | IPMAP_CHAN
  /-- `LOOP_LE[n]_IPMAP[p]`.ENG, RW (03) -/
  | IPMAP_ENG
  /-- `LOOP_LE[n]_OPMAP[p]`.DEST, RW (03) -/
  | OPMAP_DEST
  /-- `LOOP_LE[n]_OPMAP[p]`.CHAN, RW (03) -/
  | OPMAP_CHAN
  /-- `LOOP_LE[n]_IPFRESH`.FRESH, RO (03) -/
  | IPFRESH
  /-- `LOOP_LE[n]_CTRL`.EN, RW (03) -/
  | LE_CTRL_EN
  /-- `LOOP_LE[n]_CTRL`.FORCE, RW (03) -/
  | LE_CTRL_FORCE
  /-- `LOOP_LE[n]_CTRL`.DOMAIN, RW (03) -/
  | LE_CTRL_DOMAIN
  /-- `LOOP_LE[n]_CTRL`.FDIV, RW (03) -/
  | LE_CTRL_FDIV
  /-- `LOOP_LE[n]_CTRL`.FAULT_CLR, WO (03) -/
  | LE_CTRL_FAULT_CLR
  /-- `LOOP_LE[n]_STAT`.STATE, RO (03) -/
  | LE_STAT_STATE
  /-- `LOOP_LE[n]_STAT`.FRAME_OK, RO (03) -/
  | LE_STAT_FRAME_OK
  /-- `LOOP_LE[n]_STAT`.PORT_CLOSED, W1C (03) -/
  | LE_STAT_PORT_CLOSED
  /-- `LOOP_LE[n]_STAT`.ILLEGAL, W1C (03) -/
  | LE_STAT_ILLEGAL
  /-- `LOOP_LE[n]_STAT`.ECC_CORR, W1C (03) -/
  | LE_STAT_ECC_CORR
  /-- `LOOP_LE[n]_STAT`.ECC_FATAL, W1C (03) -/
  | LE_STAT_ECC_FATAL
  /-- `LOOP_LE[n]_STAT`.START_ERR, W1C (03) -/
  | LE_STAT_START_ERR
  /-- `LOOP_LE[n]_STAT`.DIS_REFUSED, W1C (03) -/
  | LE_STAT_DIS_REFUSED
  /-- `LOOP_LE[n]_STAT`.STACK, W1C (03) -/
  | LE_STAT_STACK
  /-- `LOOP_LE[n]_STAT`.CFG_BUSY, W1C (03) -/
  | LE_STAT_CFG_BUSY
  /-- `LOOP_LE[n]_STAT`.FCNT, RO (03) -/
  | LE_STAT_FCNT
  /-- `LOOP_LE[n]_DEP`.GROUPS, RWL (03) -/
  | LE_DEP
  /-- `LOOP_LE[n]_SCHED_CTRL`.COMMIT, WO (03) -/
  | SCHED_CTRL
  /-- `LOOP_LE[n]_SCHED_STAT`.ACTIVE, RO (03) -/
  | SCHED_STAT_ACTIVE
  /-- `LOOP_LE[n]_SCHED_STAT`.COMMIT_PEND, RO (03) -/
  | SCHED_STAT_COMMIT_PEND
  /-- `LOOP_LE[n]_SCHED_STAT`.SLOT_BUSY, W1C (03) -/
  | SCHED_STAT_SLOT_BUSY
  /-- `LOOP_LE[n]_SCHED_STAT`.SCHED_ERR, W1C (03) -/
  | SCHED_STAT_SCHED_ERR
  /-- `LOOP_LE[n]_SCHED_STAT`.LATE_COMMIT, W1C (03) -/
  | SCHED_STAT_LATE_COMMIT
  /-- `LOOP_LE[n]_SCHED_STAT`.ERR_CODE, RO (03) -/
  | SCHED_STAT_ERR_CODE
  /-- `LOOP_LE[n]_LS[k]_CFG`.EN, RW (03) -/
  | LS_CFG_EN
  /-- `LOOP_LE[n]_LS[k]_CFG`.LAW, RW (03) -/
  | LS_CFG_LAW
  /-- `LOOP_LE[n]_LS[k]_CFG`.SP_PORT, RW (03) -/
  | LS_CFG_SP_PORT
  /-- `LOOP_LE[n]_LS[k]_CFG`.FB_PORT, RW (03) -/
  | LS_CFG_FB_PORT
  /-- `LOOP_LE[n]_LS[k]_CFG`.PRE_PORT, RW (03) -/
  | LS_CFG_PRE_PORT
  /-- `LOOP_LE[n]_LS[k]_CFG`.PRE_EN, RW (03) -/
  | LS_CFG_PRE_EN
  /-- `LOOP_LE[n]_LS[k]_CFG`.OPORT, RW (03) -/
  | LS_CFG_OPORT
  /-- `LOOP_LE[n]_LS[k]_CFG`.OEN, RW (03) -/
  | LS_CFG_OEN
  /-- `LOOP_LE[n]_LS[k]_SLEW`.RISE, RW (03) -/
  | LS_SLEW_RISE
  /-- `LOOP_LE[n]_LS[k]_SLEW`.FALL, RW (03) -/
  | LS_SLEW_FALL
  /-- `LOOP_LE[n]_LS[k]_GAINCFG`.SCALE, RW (03) -/
  | LS_GAINCFG_SCALE
  /-- `LOOP_LE[n]_LS[k]_GAINCFG`.GT_EN, RW (03) -/
  | LS_GAINCFG_GT_EN
  /-- `LOOP_LE[n]_LS[k]_GAINCFG`.APPLY_KI, RW (03) -/
  | LS_GAINCFG_APPLY_KI
  /-- `LOOP_LE[n]_LS[k]_GAINCFG`.DFILT, RW (03) -/
  | LS_GAINCFG_DFILT
  /-- `LOOP_LE[n]_LS[k]_LIMIT`.OMIN, RW (03) -/
  | LS_LIMIT_OMIN
  /-- `LOOP_LE[n]_LS[k]_LIMIT`.OMAX, RW (03) -/
  | LS_LIMIT_OMAX
  /-- `LOOP_LE[n]_LS[k]_KP`.K, RW (03) -/
  | LS_KP
  /-- `LOOP_LE[n]_LS[k]_KI`.K, RW (03) -/
  | LS_KI
  /-- `LOOP_LE[n]_LS[k]_KD`.K, RW (03) -/
  | LS_KD
  /-- `LOOP_LE[n]_LS[k]_KT`.K, RW (03) -/
  | LS_KT
  /-- `LOOP_LE[n]_LS[k]_SFPTR`.ADDR, RW (03) -/
  | LS_SFPTR_ADDR
  /-- `LOOP_LE[n]_LS[k]_SFPTR`.NSM1, RW (03) -/
  | LS_SFPTR_NSM1
  /-- `LOOP_LE[n]_LS[k]_MISS`.MISS_LIM, RWL (03) -/
  | LS_MISS_MISS_LIM
  /-- `LOOP_LE[n]_LS[k]_MISS`.MISS_RUN, RO (03) -/
  | LS_MISS_MISS_RUN
  /-- `LOOP_LE[n]_LS[k]_MISS`.MISS_CNT, RW (03) -/
  | LS_MISS_MISS_CNT
  /-- `LOOP_LE[n]_LS[k]_STAT`.APPLY_PEND, RO (03) -/
  | LS_STAT_APPLY_PEND
  /-- `LOOP_LE[n]_LS[k]_STAT`.FIRST, RO (03) -/
  | LS_STAT_FIRST
  /-- `LOOP_LE[n]_LS[k]_STAT`.SAT_HI, RO (03) -/
  | LS_STAT_SAT_HI
  /-- `LOOP_LE[n]_LS[k]_STAT`.SAT_LO, RO (03) -/
  | LS_STAT_SAT_LO
  /-- `LOOP_LE[n]_LS[k]_STAT`.WINNER, RO (03) -/
  | LS_STAT_WINNER
  /-- `LOOP_LE[n]_LS[k]_STAT`.NOPRESET, W1C (03) -/
  | LS_STAT_NOPRESET
  /-- `LOOP_LE[n]_LS[k]_STAT`.CFG_ERR, W1C (03) -/
  | LS_STAT_CFG_ERR
  /-- `LOOP_LE[n]_LS[k]_STAT`.MISS, W1C (03) -/
  | LS_STAT_MISS
  /-- `LOOP_LE[n]_LS[k]_STAT`.MISS_CAUSE, RO (03) -/
  | LS_STAT_MISS_CAUSE
  /-- `LOOP_LE[n]_LS[k]_STAT`.PFLAG, W1C (03) -/
  | LS_STAT_PFLAG
  /-- `LOOP_LE[n]_LS[k]_STAT`.U, RO (03) -/
  | LS_STAT_U
  /-- `LOOP_LE[n]_LS[k]_CTRL`.APPLY, WO (03) -/
  | LS_CTRL_APPLY
  /-- `LOOP_LE[n]_LS[k]_CTRL`.REPRIME, WO (03) -/
  | LS_CTRL_REPRIME
  /-- `LOOP_LE[n]_LS[k]_SP`.SP, RO (03) -/
  | LS_SP_SP
  /-- `LOOP_LE[n]_LS[k]_SP`.TARGET, RO (03) -/
  | LS_SP_TARGET
  /-- `LOOP_LE[n]_LS[k]_INTEG`.INTEG, RO (03) -/
  | LS_INTEG
  /-- `LOOP_LE[n]_LS[k]_ENTRY`.ADDR, RW (03) -/
  | LS_ENTRY_ADDR
  /-- `LOOP_LE[n]_LS[k]_ENTRY`.VALID, RW (03) -/
  | LS_ENTRY_VALID
  /-- `LOOP_LE[n]_LS[k]_GT[j]`.G_LO, RW (03) -/
  | LS_GT_G_LO
  /-- `LOOP_LE[n]_LS[k]_GT[j]`.G_HI, RW (03) -/
  | LS_GT_G_HI
  /-- `LOOP_LE[n]_GRP[g]`.MODE, RWL (03) -/
  | GRP_MODE
  /-- `LOOP_LE[n]_GRP[g]`.NEGATE, RWL (03) -/
  | GRP_NEGATE
  /-- `LOOP_LE[n]_GRP[g]`.MEMBERS, RWL (03) -/
  | GRP_MEMBERS
  /-- `LOOP_LE[n]_GRP[g]`.OUTER, RWL (03) -/
  | GRP_OUTER
  /-- `LOOP_LE[n]_GRP[g]`.INNER, RWL (03) -/
  | GRP_INNER
  /-- `LOOP_LE[n]_GRP[g]`.NM1, RWL (03) -/
  | GRP_NM1
  /-- `LOOP_LE[n]_GRP[g]`.OPORT, RWL (03) -/
  | GRP_OPORT
  /-- `LOOP_LE[n]_GRP[g]`.OEN, RWL (03) -/
  | GRP_OEN
  /-- `LOOP_LE[n]_LS[k]_PM_CFG`.FORM, RW (04) -/
  | LS_PM_CFG_FORM
  /-- `LOOP_LE[n]_LS[k]_PM_CFG`.REACT, RWL (04) -/
  | LS_PM_CFG_REACT
  /-- `LOOP_LE[n]_LS[k]_PM_CFG`.MEAS_PORT, RW (04) -/
  | LS_PM_CFG_MEAS_PORT
  /-- `LOOP_LE[n]_LS[k]_PM_CFG`.PRED_PORT, RW (04) -/
  | LS_PM_CFG_PRED_PORT
  /-- `LOOP_LE[n]_LS[k]_PM_CFG`.CFIELD, RW (04) -/
  | LS_PM_CFG_CFIELD
  /-- `LOOP_LE[n]_LS[k]_PM_CFG`.RSHIFT, RW (04) -/
  | LS_PM_CFG_RSHIFT
  /-- `LOOP_LE[n]_LS[k]_PM_CFG`.PRIME, RW (04) -/
  | LS_PM_CFG_PRIME
  /-- `LOOP_LE[n]_LS[k]_PM_A1`.C, RW (04) -/
  | LS_PM_A1
  /-- `LOOP_LE[n]_LS[k]_PM_A2`.C, RW (04) -/
  | LS_PM_A2
  /-- `LOOP_LE[n]_LS[k]_PM_B1`.C, RW (04) -/
  | LS_PM_B1
  /-- `LOOP_LE[n]_LS[k]_PM_B2`.C, RW (04) -/
  | LS_PM_B2
  /-- `LOOP_LE[n]_LS[k]_PM_THR`.THR, RWL (04) -/
  | LS_PM_THR_THR
  /-- `LOOP_LE[n]_LS[k]_PM_THR`.CNT, RWL (04) -/
  | LS_PM_THR_CNT
  /-- `LOOP_LE[n]_LS[k]_PM_STAT`.LOOP_UNPRIMED, RO (04) -/
  | LS_PM_STAT_LOOP_UNPRIMED
  /-- `LOOP_LE[n]_LS[k]_PM_STAT`.HOLDING, RO (04) -/
  | LS_PM_STAT_HOLDING
  /-- `LOOP_LE[n]_LS[k]_PM_STAT`.SUSPENDED, RO (04) -/
  | LS_PM_STAT_SUSPENDED
  /-- `LOOP_LE[n]_LS[k]_PM_STAT`.VIOL, W1C (04) -/
  | LS_PM_STAT_VIOL
  /-- `LOOP_LE[n]_LS[k]_PM_STAT`.RESEED, W1C (04) -/
  | LS_PM_STAT_RESEED
  /-- `LOOP_LE[n]_LS[k]_PM_STAT`.RUN, RO (04) -/
  | LS_PM_STAT_RUN
  /-- `LOOP_LE[n]_LS[k]_PM_STAT`.PRIME_LEFT, RO (04) -/
  | LS_PM_STAT_PRIME_LEFT
  /-- `LOOP_LE[n]_LS[k]_PM_RES`.RES_F, RO (04) -/
  | LS_PM_RES_RES_F
  /-- `LOOP_LE[n]_LS[k]_PM_RES`.PRED, RO (04) -/
  | LS_PM_RES_PRED
  /-- `LOOP_PM_RPT`.DI, RW (04) -/
  | PM_RPT
  /-- `LOOP_LE[n]_TRC_CTRL`.MODE, RW (04) -/
  | TRC_CTRL_MODE
  /-- `LOOP_LE[n]_TRC_CTRL`.TSLOT, RW (04) -/
  | TRC_CTRL_TSLOT
  /-- `LOOP_LE[n]_TRC_CTRL`.NSIGM1, RW (04) -/
  | TRC_CTRL_NSIGM1
  /-- `LOOP_LE[n]_TRC_CTRL`.DEC, RW (04) -/
  | TRC_CTRL_DEC
  /-- `LOOP_LE[n]_TRC_TRIG`.TSRC, RW (04) -/
  | TRC_TRIG_TSRC
  /-- `LOOP_LE[n]_TRC_TRIG`.TSIG, RW (04) -/
  | TRC_TRIG_TSIG
  /-- `LOOP_LE[n]_TRC_TRIG`.LEVEL, RW (04) -/
  | TRC_TRIG_LEVEL
  /-- `LOOP_LE[n]_TRC_POST`.POST, RW (04) -/
  | TRC_POST_POST
  /-- `LOOP_LE[n]_TRC_POST`.ARM, WO (04) -/
  | TRC_POST_ARM
  /-- `LOOP_LE[n]_TRC_POST`.FORCE, WO (04) -/
  | TRC_POST_FORCE
  /-- `LOOP_LE[n]_TRC_STAT`.ARMED, RO (04) -/
  | TRC_STAT_ARMED
  /-- `LOOP_LE[n]_TRC_STAT`.TRIGGERED, RO (04) -/
  | TRC_STAT_TRIGGERED
  /-- `LOOP_LE[n]_TRC_STAT`.DONE, RO (04) -/
  | TRC_STAT_DONE
  /-- `LOOP_LE[n]_TRC_STAT`.STREAMING, RO (04) -/
  | TRC_STAT_STREAMING
  /-- `LOOP_LE[n]_TRC_STAT`.OVERRUN, W1C (04) -/
  | TRC_STAT_OVERRUN
  /-- `LOOP_LE[n]_TRC_STAT`.STREAM_CLOSED, W1C (04) -/
  | TRC_STAT_STREAM_CLOSED
  /-- `LOOP_LE[n]_TRC_STAT`.WPTR, RO (04) -/
  | TRC_STAT_WPTR
  /-- `LOOP_LE[n]_TRC_TPOS`.TPOS, RO (04) -/
  | TRC_TPOS_TPOS
  /-- `LOOP_LE[n]_TRC_TPOS`.DROPPED, RO (04) -/
  | TRC_TPOS_DROPPED
  /-- `LOOP_LE[n]_TRC_SIG[i]`.KIND, RW (04) -/
  | TRC_SIG_KIND
  /-- `LOOP_LE[n]_TRC_SIG[i]`.INDEX, RW (04) -/
  | TRC_SIG_INDEX
  /-- `LOOP_LE[n]_TRC_SIG[i]`.SLOT, RW (04) -/
  | TRC_SIG_SLOT
  /-- `LOOP_LE[n]_TRC_SIG[i]`.HIGH, RW (04) -/
  | TRC_SIG_HIGH
  /-- `LOOP_LE[n]_TRC_SIG[i]`.ADDR, RW (04) -/
  | TRC_SIG_ADDR
  /-- `LOOP_TRC_THROTTLE`.STREAM_EN, RW (04) -/
  | TRC_THROTTLE_STREAM_EN
  /-- `LOOP_TRC_THROTTLE`.MAXBLK, RW (04) -/
  | TRC_THROTTLE_MAXBLK
  /-- `LOOP_LE[n]_INJ_CTRL`.START, WO (04) -/
  | INJ_CTRL_START
  /-- `LOOP_LE[n]_INJ_CTRL`.STOP, WO (04) -/
  | INJ_CTRL_STOP
  /-- `LOOP_LE[n]_INJ_CTRL`.SLOT, RW (04) -/
  | INJ_CTRL_SLOT
  /-- `LOOP_LE[n]_INJ_CTRL`.POINT, RW (04) -/
  | INJ_CTRL_POINT
  /-- `LOOP_LE[n]_INJ_CTRL`.SIG, RW (04) -/
  | INJ_CTRL_SIG
  /-- `LOOP_LE[n]_INJ_CTRL`.AMP, RW (04) -/
  | INJ_CTRL_AMP
  /-- `LOOP_LE[n]_INJ_F0`.F, RW (04) -/
  | INJ_F0
  /-- `LOOP_LE[n]_INJ_F1`.F, RW (04) -/
  | INJ_F1
  /-- `LOOP_LE[n]_INJ_LEN`.NSAMP, RW (04) -/
  | INJ_LEN
  /-- `LOOP_LE[n]_INJ_PRBS`.ORDER, RW (04) -/
  | INJ_PRBS_ORDER
  /-- `LOOP_LE[n]_INJ_PRBS`.HOLD, RW (04) -/
  | INJ_PRBS_HOLD
  /-- `LOOP_LE[n]_INJ_STAT`.ACTIVE, RO (04) -/
  | INJ_STAT_ACTIVE
  /-- `LOOP_LE[n]_INJ_STAT`.DONE, W1C (04) -/
  | INJ_STAT_DONE
  /-- `LOOP_LE[n]_INJ_STAT`.ABORT, W1C (04) -/
  | INJ_STAT_ABORT
  /-- `LOOP_LE[n]_INJ_STAT`.REFUSED, W1C (04) -/
  | INJ_STAT_REFUSED
  /-- `LOOP_LE[n]_INJ_STAT`.LIMITED, W1C (04) -/
  | INJ_STAT_LIMITED
  /-- `LOOP_LE[n]_INJ_STAT`.ABORT_CAUSE, RO (04) -/
  | INJ_STAT_ABORT_CAUSE
  /-- `LOOP_LE[n]_INJ_LIM`.LIM, RWS (04) -/
  | INJ_LIM
  /-- `LOOP_INJ_PERMIT`.PERMIT, RWS (04) -/
  | INJ_PERMIT
  /-- tile held in a cache place of a motor, plus 1; 0: empty (R62, R70) -/
  | CH_TILE
  /-- nodes of the tile in a cache place that failed their CHECK (R71) -/
  | CH_BAD
  /-- last use of a cache place (R70) -/
  | CH_AGE
  /-- count of uses of a motor's cache (R70) -/
  | CH_CLK
  /-- lookups since the motor's cache was last emptied, at most 9 (R69) -/
  | CH_N
  /-- query values of the last nine lookups, newest first: 4 h + axis (R69) -/
  | CH_Q
  /-- axle time of each of those lookups (R69) -/
  | CH_QAT
  /-- fields of the motor's previous successful lookup, in node order (R66) -/
  | CH_PREV
  /-- fields of the engine's last lookup, in node order (R64, R65) -/
  | CH_R
  /-- status of the engine's last lookup (R67) -/
  | CH_RS
  /-- the sample in flight has made a lookup (R150) -/
  | CH_DONE
  /-- lookup waiting for a tile: 0 none, 1 motor A, 2 motor B (R72) -/
  | CH_WAIT
  /-- query of the waiting lookup, by axis (R72) -/
  | CH_WQ
  /-- instant at which the waiting lookup was issued (R73) -/
  | CH_WAT
  /-- address of the motor's axis section in the chart region (R59, R94) -/
  | CH_AXIS
  /-- working registers G0 to G31 (R106) -/
  | LE_G
  /-- accumulators A0 and A1 (R106) -/
  | LE_A
  /-- index of the next instruction of the sample (R107) -/
  | LE_PC
  /-- call stack depth (R107, R108) -/
  | LE_DEPTH
  /-- call stack (R107) -/
  | LE_STK
  /-- a sample is in flight (R119) -/
  | LE_RUN
  /-- occurrence of the sample in flight: 64 bank + schedule entry -/
  | LE_ENT
  /-- loop slot of the sample in flight -/
  | LE_SLOT
  /-- entries that fell due at the last frame boundary, a bit each at 64 bank + entry (R117) -/
  | LE_DUEF
  /-- entries due and not yet triggered, a bit each at 64 bank + entry -/
  | LE_DUE
  /-- triggered entries waiting to run, a bit each at 64 bank + entry (R119) -/
  | LE_TRGD
  /-- entries whose last occurrence has ended, by END or by a miss, a bit each at 64 bank + entry (R118) -/
  | LE_ENDED
  /-- frame count since the last start (R113, R124) -/
  | LE_FC
  /-- instant of the last frame boundary (R126) -/
  | LE_FAT
  /-- the first frame boundary since the start has come (R113) -/
  | LE_LIVE
  /-- a commit check is running (R122) -/
  | LE_CHK
  /-- the pending bank waits for the boundary after the next (R126) -/
  | LE_CSKIP
  /-- input port values (R110, R111) -/
  | LE_IP
  /-- output port values (R112) -/
  | LE_OP
  /-- staged output port values (R109) -/
  | LE_OPS
  /-- output ports staged by the sample in flight (R109) -/
  | LE_OPW
  /-- the engine asserts its escalation source (R130) -/
  | LE_ESC
  /-- an APPLY waits for the slot's next sample (R131) -/
  | LS_CAPD
  /-- staged set-point (R109) -/
  | S_SP
  /-- staged target (R132) -/
  | S_TGT
  /-- staged integrator (R109) -/
  | S_INTEG
  /-- staged derivative state (R109) -/
  | S_DF
  /-- staged e_prev (R109) -/
  | S_EP
  /-- staged output U (R109) -/
  | S_U
  /-- staged integrator before its tracking term (R135, R154) -/
  | S_IPRE
  /-- staged unclamped output (R135) -/
  | S_UU
  /-- staged unclamped output without the integrator (R137) -/
  | S_PD
  /-- staged SAT_HI and SAT_LO (R135) -/
  | S_SAT
  /-- what the sample has staged for the slot: bit 0 the slew step, bit 1 the law step -/
  | S_HAS
  /-- derivative state d_f, Q1.15 (R135) -/
  | LS_DF
  /-- e_prev (R135) -/
  | LS_EP
  /-- error e of the last law or gain step (R162) -/
  | LS_E
  /-- gain g of the last lookup, Q2.14 (R134) -/
  | LS_GAIN
  /-- unclamped output without the integrator, of the last committed law step (R137) -/
  | LS_PD
  /-- value of the outer source, for a CASCADE inner slot (R138) -/
  | LS_CTGT
  /-- occurrences of the slot's entry, counted for a CASCADE outer entry (R138) -/
  | LS_NOCC
  /-- occurrences of the slot's samples, counted for the trace (R160) -/
  | LS_TOCC
  /-- slots of LOWEST groups whose occurrence is still open, a bit each (R137) -/
  | LE_FRE
  /-- slots whose last occurrence in its LOWEST group was a miss, a bit each (R137) -/
  | LE_FRM
  /-- result of a LOWEST group (R137, R148) -/
  | GRP_RES
  /-- y of the previous sample (R147) -/
  | PM_Y1
  /-- y of the sample before it (R147) -/
  | PM_Y2
  /-- plant input of the sample before it -/
  | PM_U2
  /-- the sample in flight has made its model step (R149) -/
  | PM_DID
  /-- due: bit 0 a violation, bit 1 a release from HOLDING, bit 2 the end of priming (R152, R154, R156) -/
  | PM_EV
  /-- U of the last passing sample (R154) -/
  | PM_HU
  /-- the next sample reseeds the model history (R158) -/
  | PM_MISSED
  /-- records in the block being filled (R161) -/
  | TRC_CNT
  /-- blocks not yet copied to the flight recorder (R166) -/
  | TRC_FULL
  /-- signal TSIG at the last capture (R164) -/
  | TRC_LAST
  /-- such a capture has taken place -/
  | TRC_HAS
  /-- records left until DONE (R163) -/
  | TRC_LEFT
  /-- records dropped before the block being filled (R161) -/
  | TRC_BDROP
  /-- STREAM_EN of the engine as of the last block boundary (R167) -/
  | TRC_SE
  /-- the trace ends at the next capture boundary (R165) -/
  | TRC_CEND
  /-- the next record is the trigger record (R164) -/
  | TRC_NTRIG
  /-- sample count of the injection (R168) -/
  | INJ_K
  /-- phase (R170) -/
  | INJ_PHI
  /-- PRBS register (R171) -/
  | INJ_LFSR
  /-- samples the present bit has been held (R170) -/
  | INJ_HOLD
  /-- present injected signal (R162, R170) -/
  | INJ_S
  /-- an accepted start waits for the slot's next sample (R168) -/
  | INJ_PEND
  /-- abort cause that takes effect at the next sample (R173, R174) -/
  | INJ_END
  /-- amplitude in force (R170) -/
  | INJ_A
  /-- y of the sample in flight (R147) -/
  | PM_Y
  /-- plant input as the sample in flight began: u[k-1] (R148) -/
  | PM_PU
  /-- the sample in flight seeds the model history: 1 a first sample, 2 after a miss (R155, R158) -/
  | PM_SEED
  /-- outcome of the model step: 0 none or skipped, 1 pass, 2 fail (R150, R152) -/
  | PM_OUT
  /-- the sample in flight is a violation (R161) -/
  | PM_VNOW
  /-- word of the write that ends the trace (R165) -/
  | TRC_PENDW
  /-- reload boundaries of the engine's domain since its last frame boundary, as they have reached the engine (R115, R30) -/
  | LE_RBN
  /-- schedule entry of an occurrence as it stood when it fell due, at 64 bank + entry (R117, R127) -/
  | LE_OCC
  /-- instant, plus 1, at which the present occurrence of an entry fell due, at 64 bank + entry (R118) -/
  | LE_DUE_AT
  /-- instant, plus 1, at which it triggered (R120) -/
  | LE_TRG_AT
  /-- instant, plus 1, at which it ended (R120) -/
  | LE_END_AT
  /-- entries whose next occurrence has fallen due before the last one ended, a bit each at 64 bank + entry (R128) -/
  | LE_NXT
  /-- instant, plus 1, at which that next occurrence fell due (R128) -/
  | LE_NXT_AT
  /-- slots whose sample has begun within the sample in flight, a bit each (R131, R145) -/
  | LE_BEG
  /-- slot of the running injection (R168) -/
  | INJ_CSLOT
  /-- point of the running injection (R172) -/
  | INJ_CPT
  /-- the injected signal acts in the present sample of its slot (R161, R173) -/
  | INJ_IN
  /-- tiles of a chart whose fill a lookup has asked for and that have not arrived (R72, R73) -/
  | CH_FLY
  /-- How many values a source has sent to the input ports: first index KIND, second index the channel, for KIND 7 32 x engine + port (R111, R285) -/
  | SRC_SEQ
  /-- Which of its source's values a port last took (R111, R285) -/
  | LE_IPSEQ
  /-- MAXBLK as taken at an engine's last block boundary (R167) -/
  | TRC_MB
  /-- engine whose block the trace streamer is copying, plus 1; 0 none (R166) -/
  | STRM_E
  /-- the block being copied (R166) -/
  | STRM_B
  /-- next piece of the copy to offer at port 14: 0 to 15 its data, 16 its descriptor, 17 none (R166, R517) -/
  | STRM_P
  /-- recorder slot of the copy (R166, R516) -/
  | STRM_SLOT
  /-- SEQ of that slot's allocation (R516) -/
  | STRM_SEQ
  /-- the copy met CLOSED or ERROR (R166) -/
  | STRM_SHUT
  /-- the 1 ms window in which the last copy began (R167) -/
  | STRM_MS
  /-- copies begun in that window (R167) -/
  | STRM_N
  deriving DecidableEq, Repr

/-- Position, width, access code and reset value of each field of `LoopFld`. -/
def LoopFld.spec : LoopFld → FSpec
  | .CHART_CTRL_EN_A => ⟨0, 1, .rw, fun _ _ => 0⟩
  | .CHART_CTRL_EN_B => ⟨1, 1, .rw, fun _ _ => 0⟩
  | .CHART_CTRL_PREFETCH => ⟨2, 1, .rw, fun _ _ => 0⟩
  | .CHART_CTRL_INVAL => ⟨3, 1, .wo, fun _ _ => 0⟩
  | .CHART_CTRL_LOOKAHEAD => ⟨16, 12, .rw, fun _ _ => 0x64⟩
  | .CHART_BASE => ⟨0, 14, .rwl, fun i _ => if i = 0 then 0x006C else 0x006D⟩
  | .CHART_STAT_LOADED => ⟨0, 1, .rws, fun _ _ => 0⟩
  | .CHART_STAT_WARM_A => ⟨1, 1, .ro, fun _ _ => 0⟩
  | .CHART_STAT_WARM_B => ⟨2, 1, .ro, fun _ _ => 0⟩
  | .CHART_STAT_CHART_WARM => ⟨3, 1, .ro, fun _ _ => 0⟩
  | .CHART_STAT_SLOT => ⟨4, 1, .rws, fun _ _ => 0⟩
  | .CHART_STAT_NODE_ERR => ⟨8, 1, .w1c, fun _ _ => 0⟩
  | .CHART_STAT_LATE => ⟨9, 1, .w1c, fun _ _ => 0⟩
  | .CHART_STAT_CLAMP => ⟨10, 1, .w1c, fun _ _ => 0⟩
  | .CHART_STAT_FILL_CLOSED => ⟨11, 1, .w1c, fun _ _ => 0⟩
  | .CHART_CNT_STALLS => ⟨0, 16, .rw, fun _ _ => 0⟩
  | .CHART_CNT_MAX_STALL => ⟨16, 8, .rw, fun _ _ => 0⟩
  | .CHART_CNT_LATE_CNT => ⟨24, 8, .rw, fun _ _ => 0⟩
  | .IPMAP_KIND => ⟨0, 4, .rw, fun _ _ => 0⟩
  | .IPMAP_CHAN => ⟨4, 5, .rw, fun _ _ => 0⟩
  | .IPMAP_ENG => ⟨9, 4, .rw, fun _ _ => 0⟩
  | .OPMAP_DEST => ⟨0, 4, .rw, fun _ _ => 0⟩
  | .OPMAP_CHAN => ⟨4, 5, .rw, fun _ _ => 0⟩
  | .IPFRESH => ⟨0, 32, .ro, fun _ _ => 0⟩
  | .LE_CTRL_EN => ⟨0, 1, .rw, fun _ _ => 0⟩
  | .LE_CTRL_FORCE => ⟨1, 1, .rw, fun _ _ => 0⟩
  | .LE_CTRL_DOMAIN => ⟨5, 3, .rw, fun _ _ => 0⟩
  | .LE_CTRL_FDIV => ⟨8, 4, .rw, fun _ _ => 0⟩
  | .LE_CTRL_FAULT_CLR => ⟨12, 1, .wo, fun _ _ => 0⟩
  | .LE_STAT_STATE => ⟨0, 3, .ro, fun _ _ => 0⟩
  | .LE_STAT_FRAME_OK => ⟨3, 1, .ro, fun _ _ => 0⟩
  | .LE_STAT_PORT_CLOSED => ⟨8, 1, .w1c, fun _ _ => 0⟩
  | .LE_STAT_ILLEGAL => ⟨9, 1, .w1c, fun _ _ => 0⟩
  | .LE_STAT_ECC_CORR => ⟨10, 1, .w1c, fun _ _ => 0⟩
  | .LE_STAT_ECC_FATAL => ⟨11, 1, .w1c, fun _ _ => 0⟩
  | .LE_STAT_START_ERR => ⟨12, 1, .w1c, fun _ _ => 0⟩
  | .LE_STAT_DIS_REFUSED => ⟨13, 1, .w1c, fun _ _ => 0⟩
  | .LE_STAT_STACK => ⟨14, 1, .w1c, fun _ _ => 0⟩
  | .LE_STAT_CFG_BUSY => ⟨15, 1, .w1c, fun _ _ => 0⟩
  | .LE_STAT_FCNT => ⟨16, 16, .ro, fun _ _ => 0⟩
  | .LE_DEP => ⟨0, 16, .rwl, fun _ _ => 0⟩
  | .SCHED_CTRL => ⟨0, 1, .wo, fun _ _ => 0⟩
  | .SCHED_STAT_ACTIVE => ⟨0, 1, .ro, fun _ _ => 0⟩
  | .SCHED_STAT_COMMIT_PEND => ⟨1, 1, .ro, fun _ _ => 0⟩
  | .SCHED_STAT_SLOT_BUSY => ⟨8, 1, .w1c, fun _ _ => 0⟩
  | .SCHED_STAT_SCHED_ERR => ⟨9, 1, .w1c, fun _ _ => 0⟩
  | .SCHED_STAT_LATE_COMMIT => ⟨10, 1, .w1c, fun _ _ => 0⟩
  | .SCHED_STAT_ERR_CODE => ⟨16, 4, .ro, fun _ _ => 0⟩
  | .LS_CFG_EN => ⟨0, 1, .rw, fun _ _ => 0⟩
  | .LS_CFG_LAW => ⟨1, 2, .rw, fun _ _ => 0⟩
  | .LS_CFG_SP_PORT => ⟨4, 5, .rw, fun _ _ => 0⟩
  | .LS_CFG_FB_PORT => ⟨9, 5, .rw, fun _ _ => 0⟩
  | .LS_CFG_PRE_PORT => ⟨14, 5, .rw, fun _ _ => 0⟩
  | .LS_CFG_PRE_EN => ⟨19, 1, .rw, fun _ _ => 0⟩
  | .LS_CFG_OPORT => ⟨20, 5, .rw, fun _ _ => 0⟩
  | .LS_CFG_OEN => ⟨25, 1, .rw, fun _ _ => 0⟩
  | .LS_SLEW_RISE => ⟨0, 16, .rw, fun _ _ => 0⟩
  | .LS_SLEW_FALL => ⟨16, 16, .rw, fun _ _ => 0⟩
  | .LS_GAINCFG_SCALE => ⟨0, 4, .rw, fun _ _ => 0⟩
  | .LS_GAINCFG_GT_EN => ⟨4, 1, .rw, fun _ _ => 0⟩
  | .LS_GAINCFG_APPLY_KI => ⟨5, 1, .rw, fun _ _ => 0⟩
  | .LS_GAINCFG_DFILT => ⟨16, 16, .rw, fun _ _ => 0xffff⟩
  | .LS_LIMIT_OMIN => ⟨0, 16, .rw, fun _ _ => 0x8000⟩
  | .LS_LIMIT_OMAX => ⟨16, 16, .rw, fun _ _ => 0x7fff⟩
  | .LS_KP => ⟨0, 32, .rw, fun _ _ => 0⟩
  | .LS_KI => ⟨0, 32, .rw, fun _ _ => 0⟩
  | .LS_KD => ⟨0, 32, .rw, fun _ _ => 0⟩
  | .LS_KT => ⟨0, 32, .rw, fun _ _ => 0⟩
  | .LS_SFPTR_ADDR => ⟨0, 14, .rw, fun _ _ => 0⟩
  | .LS_SFPTR_NSM1 => ⟨16, 3, .rw, fun _ _ => 0⟩
  | .LS_MISS_MISS_LIM => ⟨0, 8, .rwl, fun _ _ => 4⟩
  | .LS_MISS_MISS_RUN => ⟨8, 8, .ro, fun _ _ => 0⟩
  | .LS_MISS_MISS_CNT => ⟨16, 16, .rw, fun _ _ => 0⟩
  | .LS_STAT_APPLY_PEND => ⟨0, 1, .ro, fun _ _ => 0⟩
  | .LS_STAT_FIRST => ⟨1, 1, .ro, fun _ _ => 0⟩
  | .LS_STAT_SAT_HI => ⟨2, 1, .ro, fun _ _ => 0⟩
  | .LS_STAT_SAT_LO => ⟨3, 1, .ro, fun _ _ => 0⟩
  | .LS_STAT_WINNER => ⟨4, 1, .ro, fun _ _ => 0⟩
  | .LS_STAT_NOPRESET => ⟨5, 1, .w1c, fun _ _ => 0⟩
  | .LS_STAT_CFG_ERR => ⟨6, 1, .w1c, fun _ _ => 0⟩
  | .LS_STAT_MISS => ⟨7, 1, .w1c, fun _ _ => 0⟩
  | .LS_STAT_MISS_CAUSE => ⟨8, 3, .ro, fun _ _ => 0⟩
  | .LS_STAT_PFLAG => ⟨11, 1, .w1c, fun _ _ => 0⟩
  | .LS_STAT_U => ⟨16, 16, .ro, fun _ _ => 0⟩
  | .LS_CTRL_APPLY => ⟨0, 1, .wo, fun _ _ => 0⟩
  | .LS_CTRL_REPRIME => ⟨1, 1, .wo, fun _ _ => 0⟩
  | .LS_SP_SP => ⟨0, 16, .ro, fun _ _ => 0⟩
  | .LS_SP_TARGET => ⟨16, 16, .ro, fun _ _ => 0⟩
  | .LS_INTEG => ⟨0, 32, .ro, fun _ _ => 0⟩
  | .LS_ENTRY_ADDR => ⟨0, 12, .rw, fun _ _ => 0⟩
  | .LS_ENTRY_VALID => ⟨12, 1, .rw, fun _ _ => 0⟩
  | .LS_GT_G_LO => ⟨0, 16, .rw, fun _ _ => 0x4000⟩
  | .LS_GT_G_HI => ⟨16, 16, .rw, fun _ _ => 0x4000⟩
  | .GRP_MODE => ⟨0, 2, .rwl, fun _ _ => 0⟩
  | .GRP_NEGATE => ⟨2, 1, .rwl, fun _ _ => 0⟩
  | .GRP_MEMBERS => ⟨4, 8, .rwl, fun _ _ => 0⟩
  | .GRP_OUTER => ⟨12, 4, .rwl, fun _ _ => 0⟩
  | .GRP_INNER => ⟨16, 3, .rwl, fun _ _ => 0⟩
  | .GRP_NM1 => ⟨20, 6, .rwl, fun _ _ => 0⟩
  | .GRP_OPORT => ⟨26, 5, .rwl, fun _ _ => 0⟩
  | .GRP_OEN => ⟨31, 1, .rwl, fun _ _ => 0⟩
  | .LS_PM_CFG_FORM => ⟨0, 3, .rw, fun _ _ => 0⟩
  | .LS_PM_CFG_REACT => ⟨4, 2, .rwl, fun _ _ => 3⟩
  | .LS_PM_CFG_MEAS_PORT => ⟨8, 5, .rw, fun _ _ => 0⟩
  | .LS_PM_CFG_PRED_PORT => ⟨13, 5, .rw, fun _ _ => 0⟩
  | .LS_PM_CFG_CFIELD => ⟨18, 2, .rw, fun _ _ => 0⟩
  | .LS_PM_CFG_RSHIFT => ⟨20, 3, .rw, fun _ _ => 0⟩
  | .LS_PM_CFG_PRIME => ⟨24, 8, .rw, fun _ _ => 0x40⟩
  | .LS_PM_A1 => ⟨0, 32, .rw, fun _ _ => 0⟩
  | .LS_PM_A2 => ⟨0, 32, .rw, fun _ _ => 0⟩
  | .LS_PM_B1 => ⟨0, 32, .rw, fun _ _ => 0⟩
  | .LS_PM_B2 => ⟨0, 32, .rw, fun _ _ => 0⟩
  | .LS_PM_THR_THR => ⟨0, 16, .rwl, fun _ _ => 0x7fff⟩
  | .LS_PM_THR_CNT => ⟨16, 8, .rwl, fun _ _ => 4⟩
  | .LS_PM_STAT_LOOP_UNPRIMED => ⟨0, 1, .ro, fun _ _ => 0⟩
  | .LS_PM_STAT_HOLDING => ⟨1, 1, .ro, fun _ _ => 0⟩
  | .LS_PM_STAT_SUSPENDED => ⟨2, 1, .ro, fun _ _ => 0⟩
  | .LS_PM_STAT_VIOL => ⟨8, 1, .w1c, fun _ _ => 0⟩
  | .LS_PM_STAT_RESEED => ⟨9, 1, .w1c, fun _ _ => 0⟩
  | .LS_PM_STAT_RUN => ⟨16, 8, .ro, fun _ _ => 0⟩
  | .LS_PM_STAT_PRIME_LEFT => ⟨24, 8, .ro, fun _ _ => 0⟩
  | .LS_PM_RES_RES_F => ⟨0, 16, .ro, fun _ _ => 0⟩
  | .LS_PM_RES_PRED => ⟨16, 16, .ro, fun _ _ => 0⟩
  | .PM_RPT => ⟨0, 32, .rw, fun _ _ => 0⟩
  | .TRC_CTRL_MODE => ⟨0, 2, .rw, fun _ _ => 0⟩
  | .TRC_CTRL_TSLOT => ⟨2, 3, .rw, fun _ _ => 0⟩
  | .TRC_CTRL_NSIGM1 => ⟨8, 4, .rw, fun _ _ => 0⟩
  | .TRC_CTRL_DEC => ⟨16, 16, .rw, fun _ _ => 0⟩
  | .TRC_TRIG_TSRC => ⟨0, 4, .rw, fun _ _ => 0⟩
  | .TRC_TRIG_TSIG => ⟨4, 4, .rw, fun _ _ => 0⟩
  | .TRC_TRIG_LEVEL => ⟨16, 16, .rw, fun _ _ => 0⟩
  | .TRC_POST_POST => ⟨0, 16, .rw, fun _ _ => 0⟩
  | .TRC_POST_ARM => ⟨16, 1, .wo, fun _ _ => 0⟩
  | .TRC_POST_FORCE => ⟨17, 1, .wo, fun _ _ => 0⟩
  | .TRC_STAT_ARMED => ⟨0, 1, .ro, fun _ _ => 0⟩
  | .TRC_STAT_TRIGGERED => ⟨1, 1, .ro, fun _ _ => 0⟩
  | .TRC_STAT_DONE => ⟨2, 1, .ro, fun _ _ => 0⟩
  | .TRC_STAT_STREAMING => ⟨3, 1, .ro, fun _ _ => 0⟩
  | .TRC_STAT_OVERRUN => ⟨8, 1, .w1c, fun _ _ => 0⟩
  | .TRC_STAT_STREAM_CLOSED => ⟨9, 1, .w1c, fun _ _ => 0⟩
  | .TRC_STAT_WPTR => ⟨16, 13, .ro, fun _ _ => 0⟩
  | .TRC_TPOS_TPOS => ⟨0, 13, .ro, fun _ _ => 0⟩
  | .TRC_TPOS_DROPPED => ⟨16, 16, .ro, fun _ _ => 0⟩
  | .TRC_SIG_KIND => ⟨0, 4, .rw, fun _ _ => 0⟩
  | .TRC_SIG_INDEX => ⟨4, 5, .rw, fun _ _ => 0⟩
  | .TRC_SIG_SLOT => ⟨9, 3, .rw, fun _ _ => 0⟩
  | .TRC_SIG_HIGH => ⟨12, 1, .rw, fun _ _ => 0⟩
  | .TRC_SIG_ADDR => ⟨13, 14, .rw, fun _ _ => 0⟩
  | .TRC_THROTTLE_STREAM_EN => ⟨0, 16, .rw, fun _ _ => 0⟩
  | .TRC_THROTTLE_MAXBLK => ⟨16, 8, .rw, fun _ _ => 0⟩
  | .INJ_CTRL_START => ⟨0, 1, .wo, fun _ _ => 0⟩
  | .INJ_CTRL_STOP => ⟨1, 1, .wo, fun _ _ => 0⟩
  | .INJ_CTRL_SLOT => ⟨4, 3, .rw, fun _ _ => 0⟩
  | .INJ_CTRL_POINT => ⟨8, 2, .rw, fun _ _ => 0⟩
  | .INJ_CTRL_SIG => ⟨12, 3, .rw, fun _ _ => 0⟩
  | .INJ_CTRL_AMP => ⟨16, 16, .rw, fun _ _ => 0⟩
  | .INJ_F0 => ⟨0, 24, .rw, fun _ _ => 0⟩
  | .INJ_F1 => ⟨0, 24, .rw, fun _ _ => 0⟩
  | .INJ_LEN => ⟨0, 24, .rw, fun _ _ => 0⟩
  | .INJ_PRBS_ORDER => ⟨0, 3, .rw, fun _ _ => 0⟩
  | .INJ_PRBS_HOLD => ⟨8, 8, .rw, fun _ _ => 0⟩
  | .INJ_STAT_ACTIVE => ⟨0, 1, .ro, fun _ _ => 0⟩
  | .INJ_STAT_DONE => ⟨1, 1, .w1c, fun _ _ => 0⟩
  | .INJ_STAT_ABORT => ⟨2, 1, .w1c, fun _ _ => 0⟩
  | .INJ_STAT_REFUSED => ⟨3, 1, .w1c, fun _ _ => 0⟩
  | .INJ_STAT_LIMITED => ⟨4, 1, .w1c, fun _ _ => 0⟩
  | .INJ_STAT_ABORT_CAUSE => ⟨8, 8, .ro, fun _ _ => 0⟩
  | .INJ_LIM => ⟨0, 16, .rws, fun _ _ => 0⟩
  | .INJ_PERMIT => ⟨0, 16, .rws, fun _ _ => 0⟩
  | .CH_TILE => ⟨0, 17, .hid, fun _ _ => 0⟩
  | .CH_BAD => ⟨0, 64, .hid, fun _ _ => 0⟩
  | .CH_AGE => ⟨0, 64, .hid, fun _ _ => 0⟩
  | .CH_CLK => ⟨0, 64, .hid, fun _ _ => 0⟩
  | .CH_N => ⟨0, 4, .hid, fun _ _ => 0⟩
  | .CH_Q => ⟨0, 16, .hid, fun _ _ => 0⟩
  | .CH_QAT => ⟨0, 64, .hid, fun _ _ => 0⟩
  | .CH_PREV => ⟨0, 16, .hid, fun _ _ => 0⟩
  | .CH_R => ⟨0, 16, .hid, fun _ _ => 0⟩
  | .CH_RS => ⟨0, 3, .hid, fun _ _ => 0⟩
  | .CH_DONE => ⟨0, 1, .hid, fun _ _ => 0⟩
  | .CH_WAIT => ⟨0, 2, .hid, fun _ _ => 0⟩
  | .CH_WQ => ⟨0, 16, .hid, fun _ _ => 0⟩
  | .CH_WAT => ⟨0, 64, .hid, fun _ _ => 0⟩
  | .CH_AXIS => ⟨0, 40, .hid, fun _ _ => 0⟩
  | .LE_G => ⟨0, 32, .hid, fun _ _ => 0⟩
  | .LE_A => ⟨0, 48, .hid, fun _ _ => 0⟩
  | .LE_PC => ⟨0, 12, .hid, fun _ _ => 0⟩
  | .LE_DEPTH => ⟨0, 3, .hid, fun _ _ => 0⟩
  | .LE_STK => ⟨0, 12, .hid, fun _ _ => 0⟩
  | .LE_RUN => ⟨0, 1, .hid, fun _ _ => 0⟩
  | .LE_ENT => ⟨0, 7, .hid, fun _ _ => 0⟩
  | .LE_SLOT => ⟨0, 3, .hid, fun _ _ => 0⟩
  | .LE_DUEF => ⟨0, 128, .hid, fun _ _ => 0⟩
  | .LE_DUE => ⟨0, 128, .hid, fun _ _ => 0⟩
  | .LE_TRGD => ⟨0, 128, .hid, fun _ _ => 0⟩
  | .LE_ENDED => ⟨0, 128, .hid, fun _ _ => 0⟩
  | .LE_FC => ⟨0, 64, .hid, fun _ _ => 0⟩
  | .LE_FAT => ⟨0, 64, .hid, fun _ _ => 0⟩
  | .LE_LIVE => ⟨0, 1, .hid, fun _ _ => 0⟩
  | .LE_CHK => ⟨0, 1, .hid, fun _ _ => 0⟩
  | .LE_CSKIP => ⟨0, 1, .hid, fun _ _ => 0⟩
  | .LE_IP => ⟨0, 32, .hid, fun _ _ => 0⟩
  | .LE_OP => ⟨0, 32, .hid, fun _ _ => 0⟩
  | .LE_OPS => ⟨0, 32, .hid, fun _ _ => 0⟩
  | .LE_OPW => ⟨0, 32, .hid, fun _ _ => 0⟩
  | .LE_ESC => ⟨0, 1, .hid, fun _ _ => 0⟩
  | .LS_CAPD => ⟨0, 1, .hid, fun _ _ => 0⟩
  | .S_SP => ⟨0, 16, .hid, fun _ _ => 0⟩
  | .S_TGT => ⟨0, 16, .hid, fun _ _ => 0⟩
  | .S_INTEG => ⟨0, 32, .hid, fun _ _ => 0⟩
  | .S_DF => ⟨0, 16, .hid, fun _ _ => 0⟩
  | .S_EP => ⟨0, 16, .hid, fun _ _ => 0⟩
  | .S_U => ⟨0, 16, .hid, fun _ _ => 0⟩
  | .S_IPRE => ⟨0, 48, .hid, fun _ _ => 0⟩
  | .S_UU => ⟨0, 16, .hid, fun _ _ => 0⟩
  | .S_PD => ⟨0, 20, .hid, fun _ _ => 0⟩
  | .S_SAT => ⟨0, 2, .hid, fun _ _ => 0⟩
  | .S_HAS => ⟨0, 2, .hid, fun _ _ => 0⟩
  | .LS_DF => ⟨0, 16, .hid, fun _ _ => 0⟩
  | .LS_EP => ⟨0, 16, .hid, fun _ _ => 0⟩
  | .LS_E => ⟨0, 16, .hid, fun _ _ => 0⟩
  | .LS_GAIN => ⟨0, 16, .hid, fun _ _ => 0x4000⟩
  | .LS_PD => ⟨0, 20, .hid, fun _ _ => 0⟩
  | .LS_CTGT => ⟨0, 16, .hid, fun _ _ => 0⟩
  | .LS_NOCC => ⟨0, 64, .hid, fun _ _ => 0⟩
  | .LS_TOCC => ⟨0, 32, .hid, fun _ _ => 0⟩
  | .LE_FRE => ⟨0, 8, .hid, fun _ _ => 0⟩
  | .LE_FRM => ⟨0, 8, .hid, fun _ _ => 0⟩
  | .GRP_RES => ⟨0, 16, .hid, fun _ _ => 0⟩
  | .PM_Y1 => ⟨0, 16, .hid, fun _ _ => 0⟩
  | .PM_Y2 => ⟨0, 16, .hid, fun _ _ => 0⟩
  | .PM_U2 => ⟨0, 16, .hid, fun _ _ => 0⟩
  | .PM_DID => ⟨0, 1, .hid, fun _ _ => 0⟩
  | .PM_EV => ⟨0, 3, .hid, fun _ _ => 0⟩
  | .PM_HU => ⟨0, 16, .hid, fun _ _ => 0⟩
  | .PM_MISSED => ⟨0, 1, .hid, fun _ _ => 0⟩
  | .TRC_CNT => ⟨0, 11, .hid, fun _ _ => 0⟩
  | .TRC_FULL => ⟨0, 8, .hid, fun _ _ => 0⟩
  | .TRC_LAST => ⟨0, 16, .hid, fun _ _ => 0⟩
  | .TRC_HAS => ⟨0, 1, .hid, fun _ _ => 0⟩
  | .TRC_LEFT => ⟨0, 16, .hid, fun _ _ => 0⟩
  | .TRC_BDROP => ⟨0, 16, .hid, fun _ _ => 0⟩
  | .TRC_SE => ⟨0, 1, .hid, fun _ _ => 0⟩
  | .TRC_CEND => ⟨0, 1, .hid, fun _ _ => 0⟩
  | .TRC_NTRIG => ⟨0, 1, .hid, fun _ _ => 0⟩
  | .INJ_K => ⟨0, 24, .hid, fun _ _ => 0⟩
  | .INJ_PHI => ⟨0, 24, .hid, fun _ _ => 0⟩
  | .INJ_LFSR => ⟨0, 31, .hid, fun _ _ => 0⟩
  | .INJ_HOLD => ⟨0, 8, .hid, fun _ _ => 0⟩
  | .INJ_S => ⟨0, 16, .hid, fun _ _ => 0⟩
  | .INJ_PEND => ⟨0, 1, .hid, fun _ _ => 0⟩
  | .INJ_END => ⟨0, 8, .hid, fun _ _ => 0⟩
  | .INJ_A => ⟨0, 16, .hid, fun _ _ => 0⟩
  | .PM_Y => ⟨0, 16, .hid, fun _ _ => 0⟩
  | .PM_PU => ⟨0, 16, .hid, fun _ _ => 0⟩
  | .PM_SEED => ⟨0, 2, .hid, fun _ _ => 0⟩
  | .PM_OUT => ⟨0, 2, .hid, fun _ _ => 0⟩
  | .PM_VNOW => ⟨0, 1, .hid, fun _ _ => 0⟩
  | .TRC_PENDW => ⟨0, 32, .hid, fun _ _ => 0⟩
  | .LE_RBN => ⟨0, 8, .hid, fun _ _ => 0⟩
  | .LE_OCC => ⟨0, 128, .hid, fun _ _ => 0⟩
  | .LE_DUE_AT => ⟨0, 64, .hid, fun _ _ => 0⟩
  | .LE_TRG_AT => ⟨0, 64, .hid, fun _ _ => 0⟩
  | .LE_END_AT => ⟨0, 64, .hid, fun _ _ => 0⟩
  | .LE_NXT => ⟨0, 128, .hid, fun _ _ => 0⟩
  | .LE_NXT_AT => ⟨0, 64, .hid, fun _ _ => 0⟩
  | .LE_BEG => ⟨0, 8, .hid, fun _ _ => 0⟩
  | .INJ_CSLOT => ⟨0, 3, .hid, fun _ _ => 0⟩
  | .INJ_CPT => ⟨0, 2, .hid, fun _ _ => 0⟩
  | .INJ_IN => ⟨0, 1, .hid, fun _ _ => 0⟩
  | .CH_FLY => ⟨0, 65536, .hid, fun _ _ => 0⟩
  | .SRC_SEQ => ⟨0, 32, .hid, fun _ _ => 0⟩
  | .LE_IPSEQ => ⟨0, 32, .hid, fun _ _ => 0⟩
  | .TRC_MB => ⟨0, 8, .hid, fun _ _ => 0⟩
  | .STRM_E => ⟨0, 5, .hid, fun _ _ => 0⟩
  | .STRM_B => ⟨0, 3, .hid, fun _ _ => 0⟩
  | .STRM_P => ⟨0, 5, .hid, fun _ _ => 0⟩
  | .STRM_SLOT => ⟨0, 20, .hid, fun _ _ => 0⟩
  | .STRM_SEQ => ⟨0, 32, .hid, fun _ _ => 0⟩
  | .STRM_SHUT => ⟨0, 1, .hid, fun _ _ => 0⟩
  | .STRM_MS => ⟨0, 64, .hid, fun _ _ => 0⟩
  | .STRM_N => ⟨0, 16, .hid, fun _ _ => 0⟩

/-- Edge island: domains, legs, players, tide stores, links (EDGE). -/
inductive EdgeFld where
  /-- `EDGE_TL_BASE`.BASE, RWL (02) -/
  | TL_BASE
  /-- `EDGE_TL_DIRN`.DIRN, RWS (02) -/
  | TL_DIRN
  /-- `EDGE_TS[n]_CTRL`.AUTO, RW (02) -/
  | TS_CTRL_AUTO
  /-- `EDGE_TS[n]_CTRL`.MISS_LIM, RWL (02) -/
  | TS_CTRL_MISS_LIM
  /-- `EDGE_TS[n]_CTRL`.LOAD_PPI, WO (02) -/
  | TS_CTRL_LOAD_PPI
  /-- `EDGE_TS[n]_STAT`.ACTIVE, RO (02) -/
  | TS_STAT_ACTIVE
  /-- `EDGE_TS[n]_STAT`.VALID0, RO (02) -/
  | TS_STAT_VALID0
  /-- `EDGE_TS[n]_STAT`.VALID1, RO (02) -/
  | TS_STAT_VALID1
  /-- `EDGE_TS[n]_STAT`.LOADING, RO (02) -/
  | TS_STAT_LOADING
  /-- `EDGE_TS[n]_STAT`.SWAP_PEND, RO (02) -/
  | TS_STAT_SWAP_PEND
  /-- `EDGE_TS[n]_STAT`.PAGE_BUSY, W1C (02) -/
  | TS_STAT_PAGE_BUSY
  /-- `EDGE_TS[n]_STAT`.PAGE_MISS, W1C (02) -/
  | TS_STAT_PAGE_MISS
  /-- `EDGE_TS[n]_STAT`.LOAD_ERR, W1C (02) -/
  | TS_STAT_LOAD_ERR
  /-- `EDGE_TS[n]_STAT`.LOAD_CLOSED, W1C (02) -/
  | TS_STAT_LOAD_CLOSED
  /-- `EDGE_TS[n]_STAT`.MISS_RUN, RO (02) -/
  | TS_STAT_MISS_RUN
  /-- `EDGE_TS[n]_TAG`.TAG0, RO (02) -/
  | TS_TAG_TAG0
  /-- `EDGE_TS[n]_TAG`.TAG1, RO (02) -/
  | TS_TAG_TAG1
  /-- `EDGE_SYNC`.LDALL, WO (05) -/
  | SYNC_LDALL
  /-- `EDGE_SYNC`.START, WO (05) -/
  | SYNC_START
  /-- `EDGE_DOM[d]_CTRL`.EN, RW (05) -/
  | DOM_CTRL_EN
  /-- `EDGE_DOM[d]_CTRL`.DBL, RW (05) -/
  | DOM_CTRL_DBL
  /-- `EDGE_DOM[d]_CTRL`.STRICT, RW (05) -/
  | DOM_CTRL_STRICT
  /-- `EDGE_DOM[d]_PERIOD`.PERIOD, RW (05) -/
  | DOM_PERIOD
  /-- `EDGE_DOM[d]_LDALL`.LDALL, WO (05) -/
  | DOM_LDALL
  /-- `EDGE_DOM[d]_STAT`.RUNNING, RO (05) -/
  | DOM_STAT_RUNNING
  /-- `EDGE_DOM[d]_STAT`.LDALL_PENDING, RO (05) -/
  | DOM_STAT_LDALL_PENDING
  /-- `EDGE_DOM[d]_STAT`.DEFERRED, RO (05) -/
  | DOM_STAT_DEFERRED
  /-- `EDGE_DOM[d]_STAT`.PER_W, RO (05) -/
  | DOM_STAT_PER_W
  /-- `EDGE_DOM[d]_STAT`.CLAMP, W1C (05) -/
  | DOM_STAT_CLAMP
  /-- `EDGE_DOM[d]_STAT`.STRICT_REFUSED, W1C (05) -/
  | DOM_STAT_STRICT_REFUSED
  /-- `EDGE_DOM[d]_STAT`.DIS_REFUSED, W1C (05) -/
  | DOM_STAT_DIS_REFUSED
  /-- `EDGE_DOM[d]_STAT`.BCNT, RO (05) -/
  | DOM_STAT_BCNT
  /-- `EDGE_DOM[d]_TRG`.TRGA, RW (05) -/
  | DOM_TRG_TRGA
  /-- `EDGE_DOM[d]_TRG`.TRGB, RW (05) -/
  | DOM_TRG_TRGB
  /-- `EDGE_OG_EN`.EN, RW (05) -/
  | OG_EN
  /-- `EDGE_OG_REF`.REF, W1C (05) -/
  | OG_REF
  /-- `EDGE_OG_CAUSE`.CODE, RO (05) -/
  | OG_CAUSE_CODE
  /-- `EDGE_OG_CAUSE`.GROUP, RO (05) -/
  | OG_CAUSE_GROUP
  /-- `EDGE_OG_CAUSE`.LEG, RO (05) -/
  | OG_CAUSE_LEG
  /-- `EDGE_OG[g]_LEGS`.LEGS, RWL (05) -/
  | OG_LEGS
  /-- `EDGE_OG[g]_ALEGS`.ALEGS, RWL (05) -/
  | OG_ALEGS
  /-- `EDGE_DCH[c]_LEGS`.LEGS, RW (05) -/
  | DCH_LEGS
  /-- `EDGE_DCH[c]_ALEGS`.ALEGS, RW (05) -/
  | DCH_ALEGS
  /-- `EDGE_TP[p]_CFG`.EN, RW (05) -/
  | TP_CFG_EN
  /-- `EDGE_TP[p]_CFG`.DOMAIN, RW (05) -/
  | TP_CFG_DOMAIN
  /-- `EDGE_TP[p]_CFG`.CSTEP, RW (05) -/
  | TP_CFG_CSTEP
  /-- `EDGE_TP[p]_ANGLE`.THETA, RO (05) -/
  | TP_ANGLE
  /-- `EDGE_TP[p]_RATE`.RATE, RW (05) -/
  | TP_RATE
  /-- `EDGE_TP[p]_SET`.ANGLE_SET, RW (05) -/
  | TP_SET
  /-- `EDGE_TP[p]_STAT`.PLAYING, RO (05) -/
  | TP_STAT_PLAYING
  /-- `EDGE_TP[p]_STAT`.STOPPED, RO (05) -/
  | TP_STAT_STOPPED
  /-- `EDGE_TP[p]_STAT`.RATE_NEG, W1C (05) -/
  | TP_STAT_RATE_NEG
  /-- `EDGE_TP[p]_STAT`.CORR_BIG, W1C (05) -/
  | TP_STAT_CORR_BIG
  /-- `EDGE_TP[p]_STAT`.SLIP, W1C (05) -/
  | TP_STAT_SLIP
  /-- `EDGE_TP[p]_STAT`.STRAY, W1C (05) -/
  | TP_STAT_STRAY
  /-- `EDGE_TP[p]_STAT`.PPI, RO (05) -/
  | TP_STAT_PPI
  /-- `EDGE_LEG[n]_CFG`.MODE, RW (05) -/
  | LEG_CFG_MODE
  /-- `EDGE_LEG[n]_CFG`.DOMAIN, RW (05) -/
  | LEG_CFG_DOMAIN
  /-- `EDGE_LEG[n]_CFG`.ALIGN, RW (05) -/
  | LEG_CFG_ALIGN
  /-- `EDGE_LEG[n]_CFG`.PLAYER, RW (05) -/
  | LEG_CFG_PLAYER
  /-- `EDGE_LEG[n]_CFG`.SLOT, RW (05) -/
  | LEG_CFG_SLOT
  /-- `EDGE_LEG[n]_CFG`.CSRC, RW (05) -/
  | LEG_CFG_CSRC
  /-- `EDGE_LEG[n]_DUTY`.DUTY, RW (05) -/
  | LEG_DUTY
  /-- `EDGE_LEG[n]_PHASE`.PHASE, RW (05) -/
  | LEG_PHASE
  /-- `EDGE_LEG[n]_DT`.DT, RW (05) -/
  | LEG_DT_DT
  /-- `EDGE_LEG[n]_DT`.MINP, RW (05) -/
  | LEG_DT_MINP
  /-- `EDGE_LEG[n]_TRIM`.TRIM, RW (05) -/
  | LEG_TRIM
  /-- `EDGE_LEG[n]_REFRESH`.PULSE, RW (05) -/
  | LEG_REFRESH_PULSE
  /-- `EDGE_LEG[n]_REFRESH`.INTERVAL, RW (05) -/
  | LEG_REFRESH_INTERVAL
  /-- `EDGE_LEG[n]_REFRESH`.BOOT_EN, RW (05) -/
  | LEG_REFRESH_BOOT_EN
  /-- `EDGE_LEG[n]_STAT`.HI, RO (05) -/
  | LEG_STAT_HI
  /-- `EDGE_LEG[n]_STAT`.LO, RO (05) -/
  | LEG_STAT_LO
  /-- `EDGE_LEG[n]_STAT`.FORCED, RO (05) -/
  | LEG_STAT_FORCED
  /-- `EDGE_LEG[n]_STAT`.SAFE, RO (05) -/
  | LEG_STAT_SAFE
  /-- `EDGE_LEG[n]_STAT`.INTERLOCK, W1C (05) -/
  | LEG_STAT_INTERLOCK
  /-- `EDGE_LEG[n]_STAT`.IL_FAULT, W1C (05) -/
  | LEG_STAT_IL_FAULT
  /-- `EDGE_LEG[n]_STAT`.CLAMPED, W1C (05) -/
  | LEG_STAT_CLAMPED
  /-- `EDGE_LEG[n]_STAT`.BOOT_UV, W1C (05) -/
  | LEG_STAT_BOOT_UV
  /-- `EDGE_LEG[n]_STAT`.SLOT_LATE, W1C (05) -/
  | LEG_STAT_SLOT_LATE
  /-- `EDGE_LEG[n]_STAT`.CFG_BUSY, W1C (05) -/
  | LEG_STAT_CFG_BUSY
  /-- `EDGE_LEG[n]_STAT`.CFG_ERR, W1C (05) -/
  | LEG_STAT_CFG_ERR
  /-- `EDGE_LEG[n]_STAT`.IL_CNT, RO (05) -/
  | LEG_STAT_IL_CNT
  /-- `EDGE_LEG[n]_STAT`.CMT_IDX, RO (05) -/
  | LEG_STAT_CMT_IDX
  /-- `EDGE_LEG[n]_STAT`.SLOT_SENT, RO (05) -/
  | LEG_STAT_SLOT_SENT
  /-- `EDGE_LEG[n]_CMT`.MASK, RW (05) -/
  | LEG_CMT
  /-- `EDGE_LEG[n]_SIX`.SIX_ANG, RW (05) -/
  | LEG_SIX
  /-- `EDGE_OWN0/1`.OWN, RWL (05) -/
  | OWN
  /-- `EDGE_STAT`.LOCK, RO (05) -/
  | STAT_LOCK
  /-- `EDGE_STAT`.CLK_LOST, W1C (05) -/
  | STAT_CLK_LOST
  /-- `EDGE_STAT`.HALT_FORCE, W1C (05) -/
  | STAT_HALT_FORCE
  /-- `EDGE_STAT`.RUNNING, RO (05) -/
  | STAT_RUNNING
  /-- `EDGE_FL_POLL`.TEL_INT, RW (07) -/
  | FL_POLL
  /-- `EDGE_FL[n]_CFG`.RATE_MAX, RW (07) -/
  | FL_CFG_RATE_MAX
  /-- `EDGE_FL[n]_CFG`.MODE_REQ, RW (07) -/
  | FL_CFG_MODE_REQ
  /-- `EDGE_FL[n]_CFG`.TEL_REQ, RW (07) -/
  | FL_CFG_TEL_REQ
  /-- `EDGE_FL[n]_CFG`.DIAG_REQ, RW (07) -/
  | FL_CFG_DIAG_REQ
  /-- `EDGE_FL[n]_CFG`.PARID, RWL (07) -/
  | FL_CFG_PARID
  /-- `EDGE_FL[n]_CFG`.PAR_ALIGN, RW (07) -/
  | FL_CFG_PAR_ALIGN
  /-- `EDGE_FL[n]_CFG`.AUTO, RW (07) -/
  | FL_CFG_AUTO
  /-- `EDGE_FL[n]_CTRL`.RELINK, WO (07) -/
  | FL_CTRL_RELINK
  /-- `EDGE_FL[n]_CTRL`.STAGE_CLR, WO (07) -/
  | FL_CTRL_STAGE_CLR
  /-- `EDGE_FL[n]_CTRL`.DIAG_GO, WO (07) -/
  | FL_CTRL_DIAG_GO
  /-- `EDGE_FL[n]_CTRL`.TEL_NOW, WO (07) -/
  | FL_CTRL_TEL_NOW
  /-- `EDGE_FL[n]_STAT`.LSTATE, RO (07) -/
  | FL_STAT_LSTATE
  /-- `EDGE_FL[n]_STAT`.RATE, RO (07) -/
  | FL_STAT_RATE
  /-- `EDGE_FL[n]_STAT`.MODE, RO (07) -/
  | FL_STAT_MODE
  /-- `EDGE_FL[n]_STAT`.HB_OK, RO (07) -/
  | FL_STAT_HB_OK
  /-- `EDGE_FL[n]_STAT`.HB_LEVEL, RO (07) -/
  | FL_STAT_HB_LEVEL
  /-- `EDGE_FL[n]_STAT`.LANE_LOST, W1C (07) -/
  | FL_STAT_LANE_LOST
  /-- `EDGE_FL[n]_STAT`.CRC_ERR, W1C (07) -/
  | FL_STAT_CRC_ERR
  /-- `EDGE_FL[n]_STAT`.SLOT_MISM, W1C (07) -/
  | FL_STAT_SLOT_MISM
  /-- `EDGE_FL[n]_STAT`.STAGE_CHG, W1C (07) -/
  | FL_STAT_STAGE_CHG
  /-- `EDGE_FL[n]_STAT`.DIAG_REF, W1C (07) -/
  | FL_STAT_DIAG_REF
  /-- `EDGE_FL[n]_STAT`.CFG_BUSY, W1C (07) -/
  | FL_STAT_CFG_BUSY
  /-- `EDGE_FL[n]_STAT`.FCAUSE, RO (07) -/
  | FL_STAT_FCAUSE
  /-- `EDGE_FL[n]_STAT`.ERRCNT, RW (07) -/
  | FL_STAT_ERRCNT
  /-- `EDGE_FL[n]_CAP[i]`.CAP, RO (07) -/
  | FL_CAP
  /-- `EDGE_FL[n]_SET`.TEL, RO (07) -/
  | FL_SET_TEL
  /-- `EDGE_FL[n]_SET`.DIAG, RO (07) -/
  | FL_SET_DIAG
  /-- `EDGE_FL[n]_PROF[s]`.WORD, RW (07) -/
  | FL_PROF
  /-- `EDGE_FL[n]_TEL0..2`.TEL, RO (07) -/
  | FL_TEL
  /-- `EDGE_FL[n]_DIAG`.MASK, RW (07) -/
  | FL_DIAG_MASK
  /-- `EDGE_FL[n]_DIAG`.RES_GATE, RO (07) -/
  | FL_DIAG_RES_GATE
  /-- `EDGE_FL[n]_DIAG`.RES_NODE, RO (07) -/
  | FL_DIAG_RES_NODE
  /-- `EDGE_FL[n]_DIAG`.RES_DESAT, RO (07) -/
  | FL_DIAG_RES_DESAT
  /-- `EDGE_DOM[d]_SS`.EN, RW (10) -/
  | DOM_SS_EN
  /-- `EDGE_DOM[d]_SS`.SPAN, RW (10) -/
  | DOM_SS_SPAN
  /-- `EDGE_DOM[d]_SS`.NSM1, RW (10) -/
  | DOM_SS_NSM1
  /-- `EDGE_DOM[d]_SS`.SS_BUSY, W1C (10) -/
  | DOM_SS_SS_BUSY
  /-- `EDGE_DOM[d]_SSNOM`.NOM, RW (10) -/
  | DOM_SSNOM
  /-- request for the high channel standing at the interlock (R215, R216) -/
  | LEG_IN_HI
  /-- request for the low channel standing at the interlock (R215, R216) -/
  | LEG_IN_LO
  /-- high channel as the interlock honours it (R215) -/
  | LEG_IL_HI
  /-- low channel as the interlock honours it (R215) -/
  | LEG_IL_LO
  /-- instant at which the high channel last turned off (R192, R216) -/
  | LEG_TOFF_HI
  /-- instant at which the low channel last turned off (R192, R216) -/
  | LEG_TOFF_LO
  /-- delayed turn-on scheduled: 0 none, 1 high, 2 low (R192 rule 2) -/
  | LEG_DUE
  /-- instant of the delayed turn-on, trim included (R192) -/
  | LEG_DUE_AT
  /-- placed instant of the last edge, trim included (R192 rule 4, R617) -/
  | LEG_EDGE_AT
  /-- channel waiting for the safe dead time: 0 none, 1 high, 2 low (R237) -/
  | LEG_SAFE_DUE
  /-- the leg has left its safe level since its group was enabled (R189) -/
  | LEG_LIVE
  /-- STATE of the leg's last fired entry (R205) -/
  | LEG_TIDE
  /-- active DUTY (R195) -/
  | LEG_A_DUTY
  /-- active PHASE (R195) -/
  | LEG_A_PHASE
  /-- active DT (R195) -/
  | LEG_A_DT
  /-- active MINP (R195) -/
  | LEG_A_MINP
  /-- active TRIM (R195) -/
  | LEG_A_TRIM
  /-- captured DUTY (R196) -/
  | LEG_C_DUTY
  /-- captured PHASE (R196) -/
  | LEG_C_PHASE
  /-- captured DT (R196) -/
  | LEG_C_DT
  /-- captured MINP (R196) -/
  | LEG_C_MINP
  /-- captured TRIM (R196) -/
  | LEG_C_TRIM
  /-- DUTY written since the last apply (R198) -/
  | LEG_DUTY_W
  /-- DUTY written between the sample instant and the boundary (R198, R200) -/
  | LEG_DUTY_WN
  /-- bootstrap refresh: 0 none, 1 high off, 2 low on, 3 low off again (R218) -/
  | LEG_REF
  /-- a refresh is due at the next reload boundary (R218, R219) -/
  | LEG_REF_DUE
  /-- instant at which the high channel last turned on (R218) -/
  | LEG_HI_SINCE
  /-- a bootstrap under-voltage report stands (R219, R281) -/
  | LEG_BUV
  /-- end of the first low-side interval at which the standing under-voltage report stood, plus 1; 0 for none (R220) -/
  | LEG_BUV_STOOD
  /-- a slot frame has been sent since the last edge (R214) -/
  | LEG_SLOT_PEND
  /-- active period (R195) -/
  | DOM_A_PERIOD
  /-- active TRGA (R195) -/
  | DOM_A_TRGA
  /-- active TRGB (R195) -/
  | DOM_A_TRGB
  /-- captured period (R196) -/
  | DOM_C_PERIOD
  /-- captured TRGA (R196) -/
  | DOM_C_TRGA
  /-- captured TRGB (R196) -/
  | DOM_C_TRGB
  /-- shadows captured at the sample instant wait for the boundary (R196) -/
  | DOM_CAP
  /-- the sample instant of the coming boundary has passed (R196) -/
  | DOM_SAMPLED
  /-- PERIOD written between the sample instant and the boundary (R198) -/
  | DOM_PER_WN
  /-- instant of the last reload boundary (R181) -/
  | DOM_BASE
  /-- instant of the next reload boundary (R181) -/
  | DOM_NEXT
  /-- domain angle sampled at the last reload boundary (R184) -/
  | DOM_ANGLE
  /-- present step of the spread-spectrum sequence (R370) -/
  | DOM_SS_STEP
  /-- angle accumulator (R201) -/
  | TP_THETA
  /-- applied RATE (R206) -/
  | TP_A_RATE
  /-- pending correction, signed (R206) -/
  | TP_PEND
  /-- last CORR word received (R206) -/
  | TP_CORR
  /-- a CORR word waits for a sample instant (R206) -/
  | TP_CORR_NEW
  /-- captured RATE (R206) -/
  | TP_C_RATE
  /-- captured ANGLE_SET (R206) -/
  | TP_C_SET
  /-- captured CORR (R206) -/
  | TP_C_CORR
  /-- a captured CORR word waits for the boundary (R206) -/
  | TP_C_CORR_NEW
  /-- applied ANGLE_SET (R206) -/
  | TP_A_SET
  /-- next entry of the active page (R203) -/
  | TP_NEXT
  /-- MARK entries counted modulo 6 since the page start (R211) -/
  | TP_MARKS
  /-- pending page request (R84) -/
  | TS_REQ
  /-- a page request has been received (R84) -/
  | TS_REQ_HAS
  /-- instant at which the pending request arrived (R86) -/
  | TS_REQ_AT
  /-- request that stood 2 microseconds before the boundary (R86) -/
  | TS_EFF
  /-- such a request stood (R86) -/
  | TS_EFF_HAS
  /-- PPI of the load in progress (R83) -/
  | TS_LD_PPI
  /-- signed distance from the angle accumulator to the next entry's ANGLE, in accumulator units (R203) -/
  | TP_GAP
  /-- Hall state of an actuator bridge as it reached the edge island (R179, R211) -/
  | HALL
  /-- lane code of the transaction that waits for its reply, 0 none (R263) -/
  | FL_AWAIT
  /-- retries made of that transaction (R263) -/
  | FL_RETRY
  /-- payload of that transaction (R265) -/
  | FL_PAY
  /-- rate code in use on the lane (R260, R268) -/
  | FL_CUR_RATE
  /-- rate code named by the last SETTLE (R267) -/
  | FL_S_RATE
  /-- mode named by the last SETTLE: 1 STEPPED, 2 PROFILE3 (R266) -/
  | FL_S_MODE
  /-- telemetry mask named by the last SETTLE (R267) -/
  | FL_S_TEL
  /-- diagnostic mask named by the last SETTLE (R267) -/
  | FL_S_DIAG
  /-- the lane is silent after a rate change (R268) -/
  | FL_SILENCE
  /-- the link waits 100 microseconds before it settles again (R269) -/
  | FL_RWAIT
  /-- profile slots already loaded in LOAD (R272) -/
  | FL_LOAD_IX
  /-- instant at which the present run of valid heartbeat began (R248, R272) -/
  | FL_HB_SINCE
  /-- a CAP frame has been received since reset (STAGE_CHG) -/
  | FL_CAP_SEEN
  /-- last alert byte (R264) -/
  | FL_ALERT
  /-- the page requests of the last 2 us, oldest first (R86) -/
  | TS_RQ_P
  /-- the instant each of them arrived (R86) -/
  | TS_RQ_AT
  /-- how many of them there are (R86) -/
  | TS_RQN
  /-- instant of the last reload boundary (R181, R183) -/
  | DOM_RB
  /-- period active at the last reload boundary (R181, R183) -/
  | DOM_P0
  /-- the half boundary of the present period has been (R181) -/
  | DOM_HDONE
  /-- HALF, TRGA and TRGB of the present period that have been emitted (R183) -/
  | DOM_EVD
  /-- instant of the last boundary that applied shadows (R617) -/
  | DOM_APL
  /-- edge tick from which the angle moves on as it stands (R201) -/
  | TP_AT
  /-- edge tick from which the new rate and correction act, 0 for none (R184, R201) -/
  | TP_NEW
  /-- the new rate (R184, R201) -/
  | TP_NRATE
  /-- the new correction (R184, R206) -/
  | TP_NCORR
  /-- instant of the last boundary that changed rate, correction, angle or page (R617) -/
  | TP_CHG
  /-- edge tick in which entries were last fired (R203) -/
  | TP_FT
  /-- how many were fired in it (R203) -/
  | TP_FN
  /-- instant of the last enable, force release or Hall change of the leg (R617) -/
  | LEG_CAUSE
  /-- state last commanded: 0 off, 1 high, 2 low (R192) -/
  | LEG_CMD
  /-- edges of the leg that are placed and still to come (R192, R617) -/
  | LEG_QN
  /-- the instants of those edges (R192, R617) -/
  | LEG_Q_AT
  /-- the states that they bring (R192, R617) -/
  | LEG_Q_ST
  /-- instant at which the low channel last turned on (R218) -/
  | LEG_LO_SINCE
  /-- instant at which the last slot frame was asked for (R214, R279) -/
  | LEG_SLOT_AT
  /-- instant of the force or level change that a leg's safe dead time counts from (R237) -/
  | LEG_SAFE_AT
  /-- Instant at which the outstanding frame of the lane was started (R263) -/
  | FL_AT
  /-- Instant at which the link's silence, its wait before a new settling or its FAIL state began (R268, R269) -/
  | FL_W_AT
  /-- Instant of the last valid transition of FAULT, its edge (R257) -/
  | FL_HB_AT
  /-- Transactions that wait for the lane, oldest first: code in [47:40], payload in [39:0] (R263) -/
  | FL_Q
  /-- Number of transactions that wait for the lane (R263) -/
  | FL_QN
  /-- Instant of the link's last telemetry poll (R281) -/
  | FL_POLL_AT
  /-- Instant of the last DIAG_START or DIAG_READ (R282) -/
  | FL_DIAG_AT
  /-- Configuration that the present link-up took from EDGE_FL[n]_CFG, laid out as its bits [17:0] (R284) -/
  | FL_CFG_ACT
  deriving DecidableEq, Repr

/-- Position, width, access code and reset value of each field of `EdgeFld`. -/
def EdgeFld.spec : EdgeFld → FSpec
  | .TL_BASE => ⟨0, 28, .rwl, fun _ _ => 0x1b8000⟩
  | .TL_DIRN => ⟨0, 16, .rws, fun _ _ => 0⟩
  | .TS_CTRL_AUTO => ⟨0, 1, .rw, fun _ _ => 0⟩
  | .TS_CTRL_MISS_LIM => ⟨8, 8, .rwl, fun _ _ => 0x10⟩
  | .TS_CTRL_LOAD_PPI => ⟨16, 16, .wo, fun _ _ => 0⟩
  | .TS_STAT_ACTIVE => ⟨0, 1, .ro, fun _ _ => 0⟩
  | .TS_STAT_VALID0 => ⟨1, 1, .ro, fun _ _ => 0⟩
  | .TS_STAT_VALID1 => ⟨2, 1, .ro, fun _ _ => 0⟩
  | .TS_STAT_LOADING => ⟨3, 1, .ro, fun _ _ => 0⟩
  | .TS_STAT_SWAP_PEND => ⟨4, 1, .ro, fun _ _ => 0⟩
  | .TS_STAT_PAGE_BUSY => ⟨8, 1, .w1c, fun _ _ => 0⟩
  | .TS_STAT_PAGE_MISS => ⟨9, 1, .w1c, fun _ _ => 0⟩
  | .TS_STAT_LOAD_ERR => ⟨10, 1, .w1c, fun _ _ => 0⟩
  | .TS_STAT_LOAD_CLOSED => ⟨11, 1, .w1c, fun _ _ => 0⟩
  | .TS_STAT_MISS_RUN => ⟨16, 8, .ro, fun _ _ => 0⟩
  | .TS_TAG_TAG0 => ⟨0, 16, .ro, fun _ _ => 0⟩
  | .TS_TAG_TAG1 => ⟨16, 16, .ro, fun _ _ => 0⟩
  | .SYNC_LDALL => ⟨0, 8, .wo, fun _ _ => 0⟩
  | .SYNC_START => ⟨8, 8, .wo, fun _ _ => 0⟩
  | .DOM_CTRL_EN => ⟨0, 1, .rw, fun _ _ => 0⟩
  | .DOM_CTRL_DBL => ⟨1, 1, .rw, fun _ _ => 0⟩
  | .DOM_CTRL_STRICT => ⟨2, 1, .rw, fun _ _ => 0⟩
  | .DOM_PERIOD => ⟨0, 27, .rw, fun _ _ => 0x13880⟩
  | .DOM_LDALL => ⟨0, 1, .wo, fun _ _ => 0⟩
  | .DOM_STAT_RUNNING => ⟨0, 1, .ro, fun _ _ => 0⟩
  | .DOM_STAT_LDALL_PENDING => ⟨1, 1, .ro, fun _ _ => 0⟩
  | .DOM_STAT_DEFERRED => ⟨2, 1, .ro, fun _ _ => 0⟩
  | .DOM_STAT_PER_W => ⟨3, 1, .ro, fun _ _ => 0⟩
  | .DOM_STAT_CLAMP => ⟨8, 1, .w1c, fun _ _ => 0⟩
  | .DOM_STAT_STRICT_REFUSED => ⟨9, 1, .w1c, fun _ _ => 0⟩
  | .DOM_STAT_DIS_REFUSED => ⟨10, 1, .w1c, fun _ _ => 0⟩
  | .DOM_STAT_BCNT => ⟨16, 16, .ro, fun _ _ => 0⟩
  | .DOM_TRG_TRGA => ⟨0, 16, .rw, fun _ _ => 0⟩
  | .DOM_TRG_TRGB => ⟨16, 16, .rw, fun _ _ => 0x8000⟩
  | .OG_EN => ⟨0, 16, .rw, fun _ _ => 0⟩
  | .OG_REF => ⟨0, 16, .w1c, fun _ _ => 0⟩
  | .OG_CAUSE_CODE => ⟨0, 4, .ro, fun _ _ => 0⟩
  | .OG_CAUSE_GROUP => ⟨4, 4, .ro, fun _ _ => 0⟩
  | .OG_CAUSE_LEG => ⟨8, 6, .ro, fun _ _ => 0x3f⟩
  | .OG_LEGS => ⟨0, 32, .rwl, fun i _ => tbl [(0, 0x3F), (1, 0xFC0), (2, 0x3F000), (3, 0x1C0000), (4, 0x1E00000), (5, 0x1E000000)] i 0⟩
  | .OG_ALEGS => ⟨0, 9, .rwl, fun i _ => tbl [(6, 0x007), (7, 0x038), (8, 0x1C0)] i 0⟩
  | .DCH_LEGS => ⟨0, 32, .rw, fun _ _ => 0⟩
  | .DCH_ALEGS => ⟨0, 9, .rw, fun _ _ => 0⟩
  | .TP_CFG_EN => ⟨0, 1, .rw, fun _ _ => 0⟩
  | .TP_CFG_DOMAIN => ⟨1, 3, .rw, fun i _ => i⟩
  | .TP_CFG_CSTEP => ⟨4, 8, .rw, fun _ _ => 4⟩
  | .TP_ANGLE => ⟨0, 24, .ro, fun _ _ => 0⟩
  | .TP_RATE => ⟨0, 24, .rw, fun _ _ => 0⟩
  | .TP_SET => ⟨0, 24, .rw, fun _ _ => 0⟩
  | .TP_STAT_PLAYING => ⟨0, 1, .ro, fun _ _ => 0⟩
  | .TP_STAT_STOPPED => ⟨1, 1, .ro, fun _ _ => 0⟩
  | .TP_STAT_RATE_NEG => ⟨8, 1, .w1c, fun _ _ => 0⟩
  | .TP_STAT_CORR_BIG => ⟨9, 1, .w1c, fun _ _ => 0⟩
  | .TP_STAT_SLIP => ⟨10, 1, .w1c, fun _ _ => 0⟩
  | .TP_STAT_STRAY => ⟨11, 1, .w1c, fun _ _ => 0⟩
  | .TP_STAT_PPI => ⟨16, 16, .ro, fun _ _ => 0⟩
  | .LEG_CFG_MODE => ⟨0, 3, .rw, fun _ _ => 0⟩
  | .LEG_CFG_DOMAIN => ⟨3, 3, .rw, fun _ _ => 0⟩
  | .LEG_CFG_ALIGN => ⟨6, 1, .rw, fun _ _ => 0⟩
  | .LEG_CFG_PLAYER => ⟨7, 2, .rw, fun _ _ => 0⟩
  | .LEG_CFG_SLOT => ⟨9, 2, .rw, fun _ _ => 0⟩
  | .LEG_CFG_CSRC => ⟨12, 3, .rw, fun _ _ => 0⟩
  | .LEG_DUTY => ⟨0, 27, .rw, fun _ _ => 0⟩
  | .LEG_PHASE => ⟨0, 16, .rw, fun _ _ => 0⟩
  | .LEG_DT_DT => ⟨0, 15, .rw, fun _ _ => 0x6400⟩
  | .LEG_DT_MINP => ⟨16, 8, .rw, fun _ _ => 0⟩
  | .LEG_TRIM => ⟨0, 9, .rw, fun _ _ => 0⟩
  | .LEG_REFRESH_PULSE => ⟨0, 5, .rw, fun _ _ => 8⟩
  | .LEG_REFRESH_INTERVAL => ⟨16, 7, .rw, fun _ _ => 0xa⟩
  | .LEG_REFRESH_BOOT_EN => ⟨31, 1, .rw, fun _ _ => 0⟩
  | .LEG_STAT_HI => ⟨0, 1, .ro, fun _ _ => 0⟩
  | .LEG_STAT_LO => ⟨1, 1, .ro, fun _ _ => 0⟩
  | .LEG_STAT_FORCED => ⟨2, 1, .ro, fun _ _ => 0⟩
  | .LEG_STAT_SAFE => ⟨3, 1, .ro, fun _ _ => 0⟩
  | .LEG_STAT_INTERLOCK => ⟨8, 1, .w1c, fun _ _ => 0⟩
  | .LEG_STAT_IL_FAULT => ⟨9, 1, .w1c, fun _ _ => 0⟩
  | .LEG_STAT_CLAMPED => ⟨10, 1, .w1c, fun _ _ => 0⟩
  | .LEG_STAT_BOOT_UV => ⟨11, 1, .w1c, fun _ _ => 0⟩
  | .LEG_STAT_SLOT_LATE => ⟨12, 1, .w1c, fun _ _ => 0⟩
  | .LEG_STAT_CFG_BUSY => ⟨13, 1, .w1c, fun _ _ => 0⟩
  | .LEG_STAT_CFG_ERR => ⟨14, 1, .w1c, fun _ _ => 0⟩
  | .LEG_STAT_IL_CNT => ⟨16, 5, .ro, fun _ _ => 0⟩
  | .LEG_STAT_CMT_IDX => ⟨21, 3, .ro, fun _ _ => 0⟩
  | .LEG_STAT_SLOT_SENT => ⟨24, 2, .ro, fun _ _ => 0⟩
  | .LEG_CMT => ⟨0, 16, .rw, fun _ _ => 0⟩
  | .LEG_SIX => ⟨0, 24, .rw, fun _ _ => 0⟩
  | .OWN => ⟨0, 4, .rwl, fun i _ => if i < 9 then 1 else 0⟩
  | .STAT_LOCK => ⟨0, 1, .ro, fun _ _ => 0⟩
  | .STAT_CLK_LOST => ⟨8, 1, .w1c, fun _ _ => 0⟩
  | .STAT_HALT_FORCE => ⟨9, 1, .w1c, fun _ _ => 0⟩
  | .STAT_RUNNING => ⟨16, 8, .ro, fun _ _ => 0⟩
  | .FL_POLL => ⟨0, 16, .rw, fun _ _ => 0x3e8⟩
  | .FL_CFG_RATE_MAX => ⟨0, 2, .rw, fun _ _ => 2⟩
  | .FL_CFG_MODE_REQ => ⟨2, 2, .rw, fun _ _ => 0⟩
  | .FL_CFG_TEL_REQ => ⟨4, 5, .rw, fun _ _ => 0x1f⟩
  | .FL_CFG_DIAG_REQ => ⟨9, 3, .rw, fun _ _ => 7⟩
  | .FL_CFG_PARID => ⟨12, 4, .rwl, fun i _ => if i < 12 then i / 2 + 1 else 0⟩
  | .FL_CFG_PAR_ALIGN => ⟨16, 1, .rw, fun _ _ => 1⟩
  | .FL_CFG_AUTO => ⟨17, 1, .rw, fun _ _ => 1⟩
  | .FL_CTRL_RELINK => ⟨0, 1, .wo, fun _ _ => 0⟩
  | .FL_CTRL_STAGE_CLR => ⟨1, 1, .wo, fun _ _ => 0⟩
  | .FL_CTRL_DIAG_GO => ⟨2, 1, .wo, fun _ _ => 0⟩
  | .FL_CTRL_TEL_NOW => ⟨3, 1, .wo, fun _ _ => 0⟩
  | .FL_STAT_LSTATE => ⟨0, 4, .ro, fun _ _ => 0⟩
  | .FL_STAT_RATE => ⟨4, 2, .ro, fun _ _ => 0⟩
  | .FL_STAT_MODE => ⟨6, 1, .ro, fun _ _ => 0⟩
  | .FL_STAT_HB_OK => ⟨7, 1, .ro, fun _ _ => 0⟩
  | .FL_STAT_HB_LEVEL => ⟨8, 1, .ro, fun _ _ => 0⟩
  | .FL_STAT_LANE_LOST => ⟨9, 1, .w1c, fun _ _ => 0⟩
  | .FL_STAT_CRC_ERR => ⟨10, 1, .w1c, fun _ _ => 0⟩
  | .FL_STAT_SLOT_MISM => ⟨11, 1, .w1c, fun _ _ => 0⟩
  | .FL_STAT_STAGE_CHG => ⟨12, 1, .w1c, fun _ _ => 0⟩
  | .FL_STAT_DIAG_REF => ⟨13, 1, .w1c, fun _ _ => 0⟩
  | .FL_STAT_CFG_BUSY => ⟨14, 1, .w1c, fun _ _ => 0⟩
  | .FL_STAT_FCAUSE => ⟨16, 8, .ro, fun _ _ => 0⟩
  | .FL_STAT_ERRCNT => ⟨24, 8, .rw, fun _ _ => 0⟩
  | .FL_CAP => ⟨0, 32, .ro, fun _ _ => 0⟩
  | .FL_SET_TEL => ⟨0, 5, .ro, fun _ _ => 0⟩
  | .FL_SET_DIAG => ⟨8, 3, .ro, fun _ _ => 0⟩
  | .FL_PROF => ⟨0, 32, .rw, fun _ _ => 0x33333⟩
  | .FL_TEL => ⟨0, 32, .ro, fun _ j => if j = 2 then 0x80000000 else 0x80008000⟩
  | .FL_DIAG_MASK => ⟨0, 3, .rw, fun _ _ => 7⟩
  | .FL_DIAG_RES_GATE => ⟨8, 8, .ro, fun _ _ => 0⟩
  | .FL_DIAG_RES_NODE => ⟨16, 8, .ro, fun _ _ => 0⟩
  | .FL_DIAG_RES_DESAT => ⟨24, 8, .ro, fun _ _ => 0⟩
  | .DOM_SS_EN => ⟨0, 1, .rw, fun _ _ => 0⟩
  | .DOM_SS_SPAN => ⟨1, 5, .rw, fun _ _ => 8⟩
  | .DOM_SS_NSM1 => ⟨8, 10, .rw, fun _ _ => 0x18⟩
  | .DOM_SS_SS_BUSY => ⟨24, 1, .w1c, fun _ _ => 0⟩
  | .DOM_SSNOM => ⟨0, 27, .rw, fun _ _ => 0x13880⟩
  | .LEG_IN_HI => ⟨0, 1, .hid, fun _ _ => 0⟩
  | .LEG_IN_LO => ⟨0, 1, .hid, fun _ _ => 0⟩
  | .LEG_IL_HI => ⟨0, 1, .hid, fun _ _ => 0⟩
  | .LEG_IL_LO => ⟨0, 1, .hid, fun _ _ => 0⟩
  | .LEG_TOFF_HI => ⟨0, 64, .hid, fun _ _ => 0⟩
  | .LEG_TOFF_LO => ⟨0, 64, .hid, fun _ _ => 0⟩
  | .LEG_DUE => ⟨0, 2, .hid, fun _ _ => 0⟩
  | .LEG_DUE_AT => ⟨0, 64, .hid, fun _ _ => 0⟩
  | .LEG_EDGE_AT => ⟨0, 64, .hid, fun _ _ => 0⟩
  | .LEG_SAFE_DUE => ⟨0, 2, .hid, fun _ _ => 0⟩
  | .LEG_LIVE => ⟨0, 1, .hid, fun _ _ => 0⟩
  | .LEG_TIDE => ⟨0, 2, .hid, fun _ _ => 0⟩
  | .LEG_A_DUTY => ⟨0, 27, .hid, fun _ _ => 0⟩
  | .LEG_A_PHASE => ⟨0, 16, .hid, fun _ _ => 0⟩
  | .LEG_A_DT => ⟨0, 15, .hid, fun _ _ => 0x6400⟩
  | .LEG_A_MINP => ⟨0, 8, .hid, fun _ _ => 0⟩
  | .LEG_A_TRIM => ⟨0, 9, .hid, fun _ _ => 0⟩
  | .LEG_C_DUTY => ⟨0, 27, .hid, fun _ _ => 0⟩
  | .LEG_C_PHASE => ⟨0, 16, .hid, fun _ _ => 0⟩
  | .LEG_C_DT => ⟨0, 15, .hid, fun _ _ => 0x6400⟩
  | .LEG_C_MINP => ⟨0, 8, .hid, fun _ _ => 0⟩
  | .LEG_C_TRIM => ⟨0, 9, .hid, fun _ _ => 0⟩
  | .LEG_DUTY_W => ⟨0, 1, .hid, fun _ _ => 0⟩
  | .LEG_DUTY_WN => ⟨0, 1, .hid, fun _ _ => 0⟩
  | .LEG_REF => ⟨0, 3, .hid, fun _ _ => 0⟩
  | .LEG_REF_DUE => ⟨0, 1, .hid, fun _ _ => 0⟩
  | .LEG_HI_SINCE => ⟨0, 64, .hid, fun _ _ => 0⟩
  | .LEG_BUV => ⟨0, 1, .hid, fun _ _ => 0⟩
  | .LEG_BUV_STOOD => ⟨0, 65, .hid, fun _ _ => 0⟩
  | .LEG_SLOT_PEND => ⟨0, 1, .hid, fun _ _ => 0⟩
  | .DOM_A_PERIOD => ⟨0, 27, .hid, fun _ _ => 0x13880⟩
  | .DOM_A_TRGA => ⟨0, 16, .hid, fun _ _ => 0⟩
  | .DOM_A_TRGB => ⟨0, 16, .hid, fun _ _ => 0x8000⟩
  | .DOM_C_PERIOD => ⟨0, 27, .hid, fun _ _ => 0x13880⟩
  | .DOM_C_TRGA => ⟨0, 16, .hid, fun _ _ => 0⟩
  | .DOM_C_TRGB => ⟨0, 16, .hid, fun _ _ => 0x8000⟩
  | .DOM_CAP => ⟨0, 1, .hid, fun _ _ => 0⟩
  | .DOM_SAMPLED => ⟨0, 1, .hid, fun _ _ => 0⟩
  | .DOM_PER_WN => ⟨0, 1, .hid, fun _ _ => 0⟩
  | .DOM_BASE => ⟨0, 64, .hid, fun _ _ => 0⟩
  | .DOM_NEXT => ⟨0, 64, .hid, fun _ _ => 0⟩
  | .DOM_ANGLE => ⟨0, 24, .hid, fun _ _ => 0⟩
  | .DOM_SS_STEP => ⟨0, 12, .hid, fun _ _ => 0⟩
  | .TP_THETA => ⟨0, 40, .hid, fun _ _ => 0⟩
  | .TP_A_RATE => ⟨0, 24, .hid, fun _ _ => 0⟩
  | .TP_PEND => ⟨0, 24, .hid, fun _ _ => 0⟩
  | .TP_CORR => ⟨0, 24, .hid, fun _ _ => 0⟩
  | .TP_CORR_NEW => ⟨0, 1, .hid, fun _ _ => 0⟩
  | .TP_C_RATE => ⟨0, 24, .hid, fun _ _ => 0⟩
  | .TP_C_SET => ⟨0, 24, .hid, fun _ _ => 0⟩
  | .TP_C_CORR => ⟨0, 24, .hid, fun _ _ => 0⟩
  | .TP_C_CORR_NEW => ⟨0, 1, .hid, fun _ _ => 0⟩
  | .TP_A_SET => ⟨0, 24, .hid, fun _ _ => 0⟩
  | .TP_NEXT => ⟨0, 12, .hid, fun _ _ => 0⟩
  | .TP_MARKS => ⟨0, 3, .hid, fun _ _ => 0⟩
  | .TS_REQ => ⟨0, 16, .hid, fun _ _ => 0⟩
  | .TS_REQ_HAS => ⟨0, 1, .hid, fun _ _ => 0⟩
  | .TS_REQ_AT => ⟨0, 64, .hid, fun _ _ => 0⟩
  | .TS_EFF => ⟨0, 16, .hid, fun _ _ => 0⟩
  | .TS_EFF_HAS => ⟨0, 1, .hid, fun _ _ => 0⟩
  | .TS_LD_PPI => ⟨0, 16, .hid, fun _ _ => 0⟩
  | .TP_GAP => ⟨0, 48, .hid, fun _ _ => 0⟩
  | .HALL => ⟨0, 3, .hid, fun _ _ => 0⟩
  | .FL_AWAIT => ⟨0, 8, .hid, fun _ _ => 0⟩
  | .FL_RETRY => ⟨0, 2, .hid, fun _ _ => 0⟩
  | .FL_PAY => ⟨0, 40, .hid, fun _ _ => 0⟩
  | .FL_CUR_RATE => ⟨0, 2, .hid, fun _ _ => 0⟩
  | .FL_S_RATE => ⟨0, 2, .hid, fun _ _ => 0⟩
  | .FL_S_MODE => ⟨0, 2, .hid, fun _ _ => 0⟩
  | .FL_S_TEL => ⟨0, 5, .hid, fun _ _ => 0⟩
  | .FL_S_DIAG => ⟨0, 3, .hid, fun _ _ => 0⟩
  | .FL_SILENCE => ⟨0, 1, .hid, fun _ _ => 0⟩
  | .FL_RWAIT => ⟨0, 1, .hid, fun _ _ => 0⟩
  | .FL_LOAD_IX => ⟨0, 3, .hid, fun _ _ => 0⟩
  | .FL_HB_SINCE => ⟨0, 64, .hid, fun _ _ => 0⟩
  | .FL_CAP_SEEN => ⟨0, 1, .hid, fun _ _ => 0⟩
  | .FL_ALERT => ⟨0, 8, .hid, fun _ _ => 0⟩
  | .TS_RQ_P => ⟨0, 16, .hid, fun _ _ => 0⟩
  | .TS_RQ_AT => ⟨0, 64, .hid, fun _ _ => 0⟩
  | .TS_RQN => ⟨0, 16, .hid, fun _ _ => 0⟩
  | .DOM_RB => ⟨0, 64, .hid, fun _ _ => 0⟩
  | .DOM_P0 => ⟨0, 27, .hid, fun _ _ => 0⟩
  | .DOM_HDONE => ⟨0, 1, .hid, fun _ _ => 0⟩
  | .DOM_EVD => ⟨0, 3, .hid, fun _ _ => 0⟩
  | .DOM_APL => ⟨0, 64, .hid, fun _ _ => 0⟩
  | .TP_AT => ⟨0, 64, .hid, fun _ _ => 0⟩
  | .TP_NEW => ⟨0, 64, .hid, fun _ _ => 0⟩
  | .TP_NRATE => ⟨0, 24, .hid, fun _ _ => 0⟩
  | .TP_NCORR => ⟨0, 24, .hid, fun _ _ => 0⟩
  | .TP_CHG => ⟨0, 64, .hid, fun _ _ => 0⟩
  | .TP_FT => ⟨0, 64, .hid, fun _ _ => 0⟩
  | .TP_FN => ⟨0, 3, .hid, fun _ _ => 0⟩
  | .LEG_CAUSE => ⟨0, 64, .hid, fun _ _ => 0⟩
  | .LEG_CMD => ⟨0, 2, .hid, fun _ _ => 0⟩
  | .LEG_QN => ⟨0, 16, .hid, fun _ _ => 0⟩
  | .LEG_Q_AT => ⟨0, 64, .hid, fun _ _ => 0⟩
  | .LEG_Q_ST => ⟨0, 2, .hid, fun _ _ => 0⟩
  | .LEG_LO_SINCE => ⟨0, 64, .hid, fun _ _ => 0⟩
  | .LEG_SLOT_AT => ⟨0, 64, .hid, fun _ _ => 0⟩
  | .LEG_SAFE_AT => ⟨0, 64, .hid, fun _ _ => 0⟩
  | .FL_AT => ⟨0, 64, .hid, fun _ _ => 0⟩
  | .FL_W_AT => ⟨0, 64, .hid, fun _ _ => 0⟩
  | .FL_HB_AT => ⟨0, 64, .hid, fun _ _ => 0⟩
  | .FL_Q => ⟨0, 48, .hid, fun _ _ => 0⟩
  | .FL_QN => ⟨0, 16, .hid, fun _ _ => 0⟩
  | .FL_POLL_AT => ⟨0, 64, .hid, fun _ _ => 0⟩
  | .FL_DIAG_AT => ⟨0, 64, .hid, fun _ _ => 0⟩
  | .FL_CFG_ACT => ⟨0, 18, .hid, fun _ _ => 0⟩

/-- Guard island (GRD). -/
inductive GrdFld where
  /-- `GRD_ROUTE[s]`.ROUTE, RWL (06) -/
  | ROUTE
  /-- `GRD_SAF_FORCE`.FORCE, RWS (06) -/
  | SAF_FORCE
  /-- `GRD_GFI[i]_CFG`.EN, RWL (06) -/
  | GFI_CFG_EN
  /-- `GRD_GFI[i]_CFG`.POL, RWL (06) -/
  | GFI_CFG_POL
  /-- `GRD_GFI[i]_CFG`.FILT, RWL (06) -/
  | GFI_CFG_FILT
  /-- `GRD_GFI[i]_CFG`.GLITCH, W1C (06) -/
  | GFI_CFG_GLITCH
  /-- `GRD_GFI[i]_CFG`.PIN, RO (06) -/
  | GFI_CFG_PIN
  /-- `GRD_WC[c]_CFG`.THR_HI, RWL (06) -/
  | WC_CFG_THR_HI
  /-- `GRD_WC[c]_CFG`.THR_LO, RWL (06) -/
  | WC_CFG_THR_LO
  /-- `GRD_WC[c]_CFG`.EN_HI, RWL (06) -/
  | WC_CFG_EN_HI
  /-- `GRD_WC[c]_CFG`.EN_LO, RWL (06) -/
  | WC_CFG_EN_LO
  /-- `GRD_WC[c]_CFG`.OUT, RO (06) -/
  | WC_CFG_OUT
  /-- `GRD_CM[m]_CFG`.LO, RWL (06) -/
  | CM_CFG_LO
  /-- `GRD_CM[m]_CFG`.HI, RWL (06) -/
  | CM_CFG_HI
  /-- `GRD_CM[m]_CFG`.EN, RWL (06) -/
  | CM_CFG_EN
  /-- `GRD_OG[g]_CFG`.SAFE, RWL (06) -/
  | OG_CFG_SAFE
  /-- `GRD_OG[g]_CFG`.SDT_CODE, RWL (06) -/
  | OG_CFG_SDT_CODE
  /-- `GRD_OG[g]_STAT`.LEVEL, RO (06) -/
  | OG_STAT_LEVEL
  /-- `GRD_OG[g]_STAT`.FORCED, RO (06) -/
  | OG_STAT_FORCED
  /-- `GRD_OG[g]_STAT`.MOVING, RO (06) -/
  | OG_STAT_MOVING
  /-- `GRD_OG[g]_STAT`.CAUSE, RO (06) -/
  | OG_STAT_CAUSE
  /-- `GRD_OG[g]_STAT`.COUNT, RW (06) -/
  | OG_STAT_COUNT
  /-- `GRD_SRC_LATCH[w]`.LATCH, OWN (06) -/
  | SRC_LATCH
  /-- `GRD_OG_LATCH`.LATCH, OWN (06) -/
  | OG_LATCH
  /-- `GRD_STAT`.LOCKED, RO (06) -/
  | STAT_LOCKED
  /-- `GRD_STAT`.MON_RUN, RO (06) -/
  | STAT_MON_RUN
  /-- `GRD_STAT`.CLR_REFUSED, W1C (06) -/
  | STAT_CLR_REFUSED
  /-- `GRD_LEGF_LATCH`.LATCH, OWN (06) -/
  | LEGF_LATCH
  /-- `GRD_LEGF_IL`.IL, RO (06) -/
  | LEGF_IL
  /-- `GRD_ALEGF_LATCH`.LATCH, OWN (06) -/
  | ALEGF_LATCH
  /-- `GRD_BAND`.SEL, RWS (06) -/
  | BAND
  /-- the group source is asserted at the guard boundary (R230) -/
  | SRC_ACT
  /-- the leg's fault latch was set by the stage (R245, R248) -/
  | LEGF_STAGE
  /-- the owner of the group is halted by a debugger (R224, R242) -/
  | HALTED
  /-- count of the monitor's last window (R233) -/
  | CM_COUNT
  /-- the comparator is above its upper threshold, hysteresis included (R232) -/
  | WC_HIGH
  /-- the comparator is below its lower threshold, hysteresis included (R232) -/
  | WC_LOW
  /-- last input of a window comparator, in 1/1,024 of its range (R232) -/
  | WC_IN
  deriving DecidableEq, Repr

/-- Position, width, access code and reset value of each field of `GrdFld`. -/
def GrdFld.spec : GrdFld → FSpec
  | .ROUTE => ⟨0, 16, .rwl, fun i _ => span [(24, 27, 0x0001), (28, 31, 0x0002), (32, 37, 0x0004), (38, 40, 0x0008), (41, 41, 0x0010), (42, 45, 0x0020), (64, 64, 0x0001), (65, 65, 0x0002), (66, 66, 0x0014), (67, 67, 0x0020), (68, 71, 0xFFFF), (72, 73, 0x003F), (74, 74, 0x0003), (75, 75, 0x01C0)] i 0⟩
  | .SAF_FORCE => ⟨0, 16, .rws, fun _ _ => 0⟩
  | .GFI_CFG_EN => ⟨0, 1, .rwl, fun _ _ => 0⟩
  | .GFI_CFG_POL => ⟨1, 1, .rwl, fun _ _ => 0⟩
  | .GFI_CFG_FILT => ⟨2, 2, .rwl, fun _ _ => 1⟩
  | .GFI_CFG_GLITCH => ⟨8, 1, .w1c, fun _ _ => 0⟩
  | .GFI_CFG_PIN => ⟨9, 1, .ro, fun _ _ => 0⟩
  | .WC_CFG_THR_HI => ⟨0, 10, .rwl, fun _ _ => 0x3ff⟩
  | .WC_CFG_THR_LO => ⟨10, 10, .rwl, fun _ _ => 0⟩
  | .WC_CFG_EN_HI => ⟨20, 1, .rwl, fun _ _ => 0⟩
  | .WC_CFG_EN_LO => ⟨21, 1, .rwl, fun _ _ => 0⟩
  | .WC_CFG_OUT => ⟨22, 1, .ro, fun _ _ => 0⟩
  | .CM_CFG_LO => ⟨0, 12, .rwl, fun i _ => tbl [(0, 110), (1, 176), (4, 176), (7, 330)] i 220⟩
  | .CM_CFG_HI => ⟨12, 12, .rwl, fun i _ => tbl [(0, 140), (1, 224), (4, 224), (7, 420)] i 280⟩
  | .CM_CFG_EN => ⟨24, 1, .rwl, fun _ _ => 1⟩
  | .OG_CFG_SAFE => ⟨0, 2, .rwl, fun i _ => if i < 2 then 3 else 0⟩
  | .OG_CFG_SDT_CODE => ⟨2, 4, .rwl, fun _ _ => 4⟩
  | .OG_STAT_LEVEL => ⟨0, 2, .ro, fun _ _ => 0⟩
  | .OG_STAT_FORCED => ⟨2, 1, .ro, fun _ _ => 1⟩
  | .OG_STAT_MOVING => ⟨3, 1, .ro, fun _ _ => 0⟩
  | .OG_STAT_CAUSE => ⟨8, 7, .ro, fun _ _ => 0x7e⟩
  | .OG_STAT_COUNT => ⟨16, 8, .rw, fun _ _ => 0⟩
  | .SRC_LATCH => ⟨0, 32, .own, fun _ _ => 0⟩
  | .OG_LATCH => ⟨0, 16, .own, fun _ _ => 0xffff⟩
  | .STAT_LOCKED => ⟨0, 1, .ro, fun _ _ => 0⟩
  | .STAT_MON_RUN => ⟨1, 1, .ro, fun _ _ => 0⟩
  | .STAT_CLR_REFUSED => ⟨8, 1, .w1c, fun _ _ => 0⟩
  | .LEGF_LATCH => ⟨0, 32, .own, fun _ _ => 0⟩
  | .LEGF_IL => ⟨0, 32, .ro, fun _ _ => 0⟩
  | .ALEGF_LATCH => ⟨0, 9, .own, fun _ _ => 0⟩
  | .BAND => ⟨0, 16, .rws, fun _ _ => 0xffff⟩
  | .SRC_ACT => ⟨0, 1, .hid, fun _ _ => 0⟩
  | .LEGF_STAGE => ⟨0, 1, .hid, fun _ _ => 0⟩
  | .HALTED => ⟨0, 1, .hid, fun _ _ => 0⟩
  | .CM_COUNT => ⟨0, 12, .hid, fun _ _ => 0⟩
  | .WC_HIGH => ⟨0, 1, .hid, fun _ _ => 0⟩
  | .WC_LOW => ⟨0, 1, .hid, fun _ _ => 0⟩
  | .WC_IN => ⟨0, 10, .hid, fun _ _ => 0⟩

/-- Sense island (SNS). -/
inductive SnsFld where
  /-- `SNS_SDCLK[k]`.FREQ, RW (08) -/
  | SDCLK_FREQ
  /-- `SNS_SDCLK[k]`.CLK_BUSY, W1C (08) -/
  | SDCLK_CLK_BUSY
  /-- `SNS_SD[c]_CFG`.EN, RW (08) -/
  | SD_CFG_EN
  /-- `SNS_SD[c]_CFG`.CLKSEL, RW (08) -/
  | SD_CFG_CLKSEL
  /-- `SNS_SD[c]_CFG`.EDGE, RW (08) -/
  | SD_CFG_EDGE
  /-- `SNS_SD[c]_CFG`.SYNC, RW (08) -/
  | SD_CFG_SYNC
  /-- `SNS_SD[c]_CFG`.DOM, RW (08) -/
  | SD_CFG_DOM
  /-- `SNS_SD[c]_CFG`.EVT, RW (08) -/
  | SD_CFG_EVT
  /-- `SNS_SD[c]_CFG`.DEC, RW (08) -/
  | SD_CFG_DEC
  /-- `SNS_SD[c]_CFG`.TRIP_EN, RWL (08) -/
  | SD_CFG_TRIP_EN
  /-- `SNS_SD[c]_CFG`.TLEN, RWL (08) -/
  | SD_CFG_TLEN
  /-- `SNS_SD[c]_CFG`.TCNTM1, RWL (08) -/
  | SD_CFG_TCNTM1
  /-- `SNS_SD[c]_CFG`.STUCK_TRIP, RWL (08) -/
  | SD_CFG_STUCK_TRIP
  /-- `SNS_SD[c]_CAL`.OFFS, RW (08) -/
  | SD_CAL_OFFS
  /-- `SNS_SD[c]_CAL`.GAIN, RW (08) -/
  | SD_CAL_GAIN
  /-- `SNS_SD[c]_TRIP`.THR_LO, RWL (08) -/
  | SD_TRIP_THR_LO
  /-- `SNS_SD[c]_TRIP`.THR_HI, RWL (08) -/
  | SD_TRIP_THR_HI
  /-- `SNS_SD[c]_STAT`.VALID, RO (08) -/
  | SD_STAT_VALID
  /-- `SNS_SD[c]_STAT`.STUCK, RO (08) -/
  | SD_STAT_STUCK
  /-- `SNS_SD[c]_STAT`.TRIP, RO (08) -/
  | SD_STAT_TRIP
  /-- `SNS_SD[c]_STAT`.STUCK_SEEN, W1C (08) -/
  | SD_STAT_STUCK_SEEN
  /-- `SNS_SD[c]_STAT`.TRIP_REF, W1C (08) -/
  | SD_STAT_TRIP_REF
  /-- `SNS_SD[c]_STAT`.EVT_LOST, W1C (08) -/
  | SD_STAT_EVT_LOST
  /-- `SNS_SD[c]_STAT`.SAT, W1C (08) -/
  | SD_STAT_SAT
  /-- `SNS_SD[c]_STAT`.CFG_BUSY, W1C (08) -/
  | SD_STAT_CFG_BUSY
  /-- `SNS_SD[c]_STAT`.LAST, RO (08) -/
  | SD_STAT_LAST
  /-- `SNS_FC[c]_CFG`.EN, RW (08) -/
  | FC_CFG_EN
  /-- `SNS_FC[c]_CFG`.DOM, RW (08) -/
  | FC_CFG_DOM
  /-- `SNS_FC[c]_CFG`.EVT, RW (08) -/
  | FC_CFG_EVT
  /-- `SNS_FC[c]_CFG`.AVG, RW (08) -/
  | FC_CFG_AVG
  /-- `SNS_FC[c]_CFG`.SWTRIG, WO (08) -/
  | FC_CFG_SWTRIG
  /-- `SNS_FC[c]_CAL`.OFFS, RW (08) -/
  | FC_CAL_OFFS
  /-- `SNS_FC[c]_CAL`.GAIN, RW (08) -/
  | FC_CAL_GAIN
  /-- `SNS_FC[c]_STAT`.BUSY, RO (08) -/
  | FC_STAT_BUSY
  /-- `SNS_FC[c]_STAT`.PEND, RO (08) -/
  | FC_STAT_PEND
  /-- `SNS_FC[c]_STAT`.VALID, RO (08) -/
  | FC_STAT_VALID
  /-- `SNS_FC[c]_STAT`.RES_OWNED, RO (08) -/
  | FC_STAT_RES_OWNED
  /-- `SNS_FC[c]_STAT`.TRIG_LOST, W1C (08) -/
  | FC_STAT_TRIG_LOST
  /-- `SNS_FC[c]_STAT`.SAT, W1C (08) -/
  | FC_STAT_SAT
  /-- `SNS_FC[c]_STAT`.LAST, RO (08) -/
  | FC_STAT_LAST
  /-- `SNS_RES[r]_CFG`.EN, RW (08) -/
  | RES_CFG_EN
  /-- `SNS_RES[r]_CFG`.FREE, RW (08) -/
  | RES_CFG_FREE
  /-- `SNS_RES[r]_CFG`.DOM, RW (08) -/
  | RES_CFG_DOM
  /-- `SNS_RES[r]_CFG`.EXDIVM1, RW (08) -/
  | RES_CFG_EXDIVM1
  /-- `SNS_RES[r]_CFG`.PCOMP, RW (08) -/
  | RES_CFG_PCOMP
  /-- `SNS_RES[r]_EXC`.EXFREQ, RW (08) -/
  | RES_EXC_EXFREQ
  /-- `SNS_RES[r]_EXC`.AMP, RW (08) -/
  | RES_EXC_AMP
  /-- `SNS_RES[r]_MAG`.LOS_THR, RW (08) -/
  | RES_MAG_LOS_THR
  /-- `SNS_RES[r]_MAG`.MAX_THR, RW (08) -/
  | RES_MAG_MAX_THR
  /-- `SNS_RES[r]_STAT`.LOCKED, RO (08) -/
  | RES_STAT_LOCKED
  /-- `SNS_RES[r]_STAT`.VALID, RO (08) -/
  | RES_STAT_VALID
  /-- `SNS_RES[r]_STAT`.LOS, RO (08) -/
  | RES_STAT_LOS
  /-- `SNS_RES[r]_STAT`.OVA, RO (08) -/
  | RES_STAT_OVA
  /-- `SNS_RES[r]_STAT`.LOS_SEEN, W1C (08) -/
  | RES_STAT_LOS_SEEN
  /-- `SNS_RES[r]_STAT`.OVA_SEEN, W1C (08) -/
  | RES_STAT_OVA_SEEN
  /-- `SNS_RES[r]_STAT`.FREQ_ERR, W1C (08) -/
  | RES_STAT_FREQ_ERR
  /-- `SNS_RES[r]_STAT`.EXC_FAULT, W1C (08) -/
  | RES_STAT_EXC_FAULT
  /-- `SNS_RES[r]_STAT`.MAG, RO (08) -/
  | RES_STAT_MAG
  /-- `SNS_HK_CTRL`.EN, RW (08) -/
  | HK_CTRL_EN
  /-- `SNS_HK_CTRL`.LP, RW (08) -/
  | HK_CTRL_LP
  /-- `SNS_HK_DATA`.VALUE, RO (08) -/
  | HK_DATA_VALUE
  /-- `SNS_HK_DATA`.CHAN, RO (08) -/
  | HK_DATA_CHAN
  /-- `SNS_HK_DATA`.INJ, RO (08) -/
  | HK_DATA_INJ
  /-- `SNS_HK_DATA`.NEW, RO (08) -/
  | HK_DATA_NEW
  /-- `SNS_HK_INJ`.CHAN, RW (08) -/
  | HK_INJ_CHAN
  /-- `SNS_HK_INJ`.GO, WO (08) -/
  | HK_INJ_GO
  /-- `SNS_HK_STAT`.BUSY, RO (08) -/
  | HK_STAT_BUSY
  /-- `SNS_HK_STAT`.LP_ACTIVE, RO (08) -/
  | HK_STAT_LP_ACTIVE
  /-- `SNS_HK_STAT`.INJ_PEND, RO (08) -/
  | HK_STAT_INJ_PEND
  /-- `SNS_HK_STAT`.OVR, W1C (08) -/
  | HK_STAT_OVR
  /-- `SNS_HK_STAT`.INJ_LOST, W1C (08) -/
  | HK_STAT_INJ_LOST
  /-- `SNS_HK_STAT`.OVR_CNT, RW (08) -/
  | HK_STAT_OVR_CNT
  /-- `SNS_HK_VALID`.VALID, RO (08) -/
  | HK_VALID
  /-- `SNS_HK_CH[i]`.SCAN, RW (08) -/
  | HK_CH_SCAN
  /-- `SNS_HK_CH[i]`.NM1, RW (08) -/
  | HK_CH_NM1
  /-- `SNS_HK_CH[i]`.SHIFT, RW (08) -/
  | HK_CH_SHIFT
  /-- `SNS_VSEL`.RAW, RO (10) -/
  | VSEL_RAW
  /-- `SNS_VSEL`.CODE, RO (10) -/
  | VSEL_CODE
  /-- `SNS_VSEL`.VALID, RO (10) -/
  | VSEL_VALID
  /-- `SNS_VSEL`.DEB, RW (10) -/
  | VSEL_DEB
  /-- `SNS_VSEL`.CHG, W1C (10) -/
  | VSEL_CHG
  /-- `SNS_CP_CTRL`.EN, RW (11) -/
  | CP_CTRL_EN
  /-- `SNS_CP_CTRL`.S2, RW (11) -/
  | CP_CTRL_S2
  /-- `SNS_CP_STAT`.STATE, RO (11) -/
  | CP_STAT_STATE
  /-- `SNS_CP_STAT`.OSC, RO (11) -/
  | CP_STAT_OSC
  /-- `SNS_CP_STAT`.S2_ON, RO (11) -/
  | CP_STAT_S2_ON
  /-- `SNS_CP_STAT`.DUTY, RO (11) -/
  | CP_STAT_DUTY
  /-- `SNS_CP_STAT`.CHG, W1C (11) -/
  | CP_STAT_CHG
  /-- `SNS_CP_STAT`.LOW_ERR, W1C (11) -/
  | CP_STAT_LOW_ERR
  /-- a taken result is in processing (R293) -/
  | SD_PROC
  /-- filter sum of the result in processing (R289) -/
  | SD_SUM
  /-- a taken result waits (R293) -/
  | SD_WAIT
  /-- filter sum of the waiting result (R293) -/
  | SD_SUM2
  /-- the trip filter holds the trip source asserted (R296) -/
  | SD_VT
  /-- last sine result sent (R306) -/
  | RES_SIN
  /-- last cosine result sent (R306) -/
  | RES_COS
  /-- consecutive samples below LOS_THR, or at or above it while LOS (R307) -/
  | RES_NLO
  /-- consecutive samples above MAX_THR, or at or below it while OVA (R307) -/
  | RES_NHI
  /-- the excitation is turned off after an over-current (R309) -/
  | RES_OFF
  /-- channel in conversion (R310) -/
  | HK_CUR
  /-- the conversion in progress is the urgent one (R314) -/
  | HK_CURI
  /-- scan channel to convert next after an urgent conversion (R314) -/
  | HK_SCAN
  /-- accumulation of a channel (R311) -/
  | HK_SUM
  /-- conversions in the accumulation (R311) -/
  | HK_N
  /-- value a channel last sent to ports (R312) -/
  | HK_SENT
  /-- Instant from which the periods of SDCLK k are counted (R286, R287) -/
  | SDCLK_AT
  /-- Instant up to which the channel's modulator clocks have been taken (R288) -/
  | SD_AT
  /-- The last modulator bits, the newest in bit 0 (R288, R289) -/
  | SD_BITS
  /-- Modulator clocks since EN or since the channel began to refill (R294, R296) -/
  | SD_NB
  /-- Level of SDDAT at the last sampling edge (R288, R298) -/
  | SD_PIN
  /-- Modulator clocks since the last transition of SDDAT (R298) -/
  | SD_SAME
  /-- Modulator clocks of a stuck channel with a transition in every 8 (R298) -/
  | SD_RUN
  /-- Consecutive modulator clocks with v_t outside the thresholds (R296) -/
  | SD_OUTN
  /-- Consecutive modulator clocks with v_t inside the thresholds (R296) -/
  | SD_INN
  /-- Modulator clocks since the last result taken with SYNC 0 (R291) -/
  | SD_K
  /-- Arrival of the event that waits for a modulator clock, as instant + 1; 0: none (R292) -/
  | SD_ARM
  /-- Instant at which the running conversions began (R299) -/
  | FC_AT
  /-- AVG of the running conversions (R299) -/
  | FC_AVGN
  /-- Instant at which EN was written 1 (R302) -/
  | FC_EN_AT
  /-- Arrival of the last triggering event not yet acted on, as instant + 1; 0: none (R301) -/
  | FC_EVT_AT
  /-- Start of an excitation period, as instant + 1; 0: no excitation runs yet (R304) -/
  | RES_T0
  /-- Excitation kept at a limit: 1 at 20 kHz, 2 at 4 kHz (R305) -/
  | RES_FIX
  /-- Reload boundaries since the excitation period began (R304) -/
  | RES_BN
  /-- Instant of EN or of the return to locked mode, from which the 4 periods before VALID count (R308) -/
  | RES_V_AT
  /-- Instant at which the running housekeeping conversion began (R310) -/
  | HK_AT
  /-- instant since which the VSEL pins show RAW (R389) -/
  | VSEL_AT
  /-- pilot state of the last decode, of a PWM period or of a static millisecond (R411) -/
  | CP_DEC
  /-- consecutive equal decodes of the oscillating pilot (R411) -/
  | CP_CNT
  deriving DecidableEq, Repr

/-- Position, width, access code and reset value of each field of `SnsFld`. -/
def SnsFld.spec : SnsFld → FSpec
  | .SDCLK_FREQ => ⟨0, 2, .rw, fun _ _ => 0⟩
  | .SDCLK_CLK_BUSY => ⟨8, 1, .w1c, fun _ _ => 0⟩
  | .SD_CFG_EN => ⟨0, 1, .rw, fun _ _ => 0⟩
  | .SD_CFG_CLKSEL => ⟨1, 2, .rw, fun i _ => span [(0, 7, 0), (8, 13, 1), (14, 17, 2)] i 3⟩
  | .SD_CFG_EDGE => ⟨3, 1, .rw, fun _ _ => 0⟩
  | .SD_CFG_SYNC => ⟨4, 1, .rw, fun _ _ => 1⟩
  | .SD_CFG_DOM => ⟨5, 3, .rw, fun _ _ => 0⟩
  | .SD_CFG_EVT => ⟨8, 3, .rw, fun _ _ => 0⟩
  | .SD_CFG_DEC => ⟨11, 9, .rw, fun _ _ => 0x20⟩
  | .SD_CFG_TRIP_EN => ⟨20, 1, .rwl, fun _ _ => 0⟩
  | .SD_CFG_TLEN => ⟨21, 5, .rwl, fun _ _ => 8⟩
  | .SD_CFG_TCNTM1 => ⟨26, 3, .rwl, fun _ _ => 2⟩
  | .SD_CFG_STUCK_TRIP => ⟨29, 1, .rwl, fun _ _ => 1⟩
  | .SD_CAL_OFFS => ⟨0, 16, .rw, fun _ _ => 0⟩
  | .SD_CAL_GAIN => ⟨16, 16, .rw, fun _ _ => 0x4000⟩
  | .SD_TRIP_THR_LO => ⟨0, 16, .rwl, fun _ _ => 0x8000⟩
  | .SD_TRIP_THR_HI => ⟨16, 16, .rwl, fun _ _ => 0x7fff⟩
  | .SD_STAT_VALID => ⟨0, 1, .ro, fun _ _ => 0⟩
  | .SD_STAT_STUCK => ⟨1, 1, .ro, fun _ _ => 0⟩
  | .SD_STAT_TRIP => ⟨2, 1, .ro, fun _ _ => 0⟩
  | .SD_STAT_STUCK_SEEN => ⟨8, 1, .w1c, fun _ _ => 0⟩
  | .SD_STAT_TRIP_REF => ⟨9, 1, .w1c, fun _ _ => 0⟩
  | .SD_STAT_EVT_LOST => ⟨10, 1, .w1c, fun _ _ => 0⟩
  | .SD_STAT_SAT => ⟨11, 1, .w1c, fun _ _ => 0⟩
  | .SD_STAT_CFG_BUSY => ⟨12, 1, .w1c, fun _ _ => 0⟩
  | .SD_STAT_LAST => ⟨16, 16, .ro, fun _ _ => 0⟩
  | .FC_CFG_EN => ⟨0, 1, .rw, fun _ _ => 0⟩
  | .FC_CFG_DOM => ⟨1, 3, .rw, fun _ _ => 0⟩
  | .FC_CFG_EVT => ⟨4, 3, .rw, fun _ _ => 0⟩
  | .FC_CFG_AVG => ⟨7, 2, .rw, fun _ _ => 0⟩
  | .FC_CFG_SWTRIG => ⟨9, 1, .wo, fun _ _ => 0⟩
  | .FC_CAL_OFFS => ⟨0, 16, .rw, fun _ _ => 0⟩
  | .FC_CAL_GAIN => ⟨16, 16, .rw, fun _ _ => 0x4000⟩
  | .FC_STAT_BUSY => ⟨0, 1, .ro, fun _ _ => 0⟩
  | .FC_STAT_PEND => ⟨1, 1, .ro, fun _ _ => 0⟩
  | .FC_STAT_VALID => ⟨2, 1, .ro, fun _ _ => 0⟩
  | .FC_STAT_RES_OWNED => ⟨3, 1, .ro, fun _ _ => 0⟩
  | .FC_STAT_TRIG_LOST => ⟨8, 1, .w1c, fun _ _ => 0⟩
  | .FC_STAT_SAT => ⟨9, 1, .w1c, fun _ _ => 0⟩
  | .FC_STAT_LAST => ⟨16, 16, .ro, fun _ _ => 0⟩
  | .RES_CFG_EN => ⟨0, 1, .rw, fun _ _ => 0⟩
  | .RES_CFG_FREE => ⟨1, 1, .rw, fun _ _ => 0⟩
  | .RES_CFG_DOM => ⟨2, 3, .rw, fun i _ => i⟩
  | .RES_CFG_EXDIVM1 => ⟨5, 6, .rw, fun _ _ => 7⟩
  | .RES_CFG_PCOMP => ⟨16, 16, .rw, fun _ _ => 0⟩
  | .RES_EXC_EXFREQ => ⟨0, 16, .rw, fun _ _ => 0x2710⟩
  | .RES_EXC_AMP => ⟨16, 7, .rw, fun _ _ => 0x28⟩
  | .RES_MAG_LOS_THR => ⟨0, 16, .rw, fun _ _ => 0x1000⟩
  | .RES_MAG_MAX_THR => ⟨16, 16, .rw, fun _ _ => 0x7000⟩
  | .RES_STAT_LOCKED => ⟨0, 1, .ro, fun _ _ => 0⟩
  | .RES_STAT_VALID => ⟨1, 1, .ro, fun _ _ => 0⟩
  | .RES_STAT_LOS => ⟨2, 1, .ro, fun _ _ => 0⟩
  | .RES_STAT_OVA => ⟨3, 1, .ro, fun _ _ => 0⟩
  | .RES_STAT_LOS_SEEN => ⟨8, 1, .w1c, fun _ _ => 0⟩
  | .RES_STAT_OVA_SEEN => ⟨9, 1, .w1c, fun _ _ => 0⟩
  | .RES_STAT_FREQ_ERR => ⟨10, 1, .w1c, fun _ _ => 0⟩
  | .RES_STAT_EXC_FAULT => ⟨11, 1, .w1c, fun _ _ => 0⟩
  | .RES_STAT_MAG => ⟨16, 16, .ro, fun _ _ => 0⟩
  | .HK_CTRL_EN => ⟨0, 1, .rw, fun _ _ => 0⟩
  | .HK_CTRL_LP => ⟨1, 1, .rw, fun _ _ => 0⟩
  | .HK_DATA_VALUE => ⟨0, 20, .ro, fun _ _ => 0⟩
  | .HK_DATA_CHAN => ⟨20, 5, .ro, fun _ _ => 0⟩
  | .HK_DATA_INJ => ⟨25, 1, .ro, fun _ _ => 0⟩
  | .HK_DATA_NEW => ⟨26, 1, .ro, fun _ _ => 0⟩
  | .HK_INJ_CHAN => ⟨0, 5, .rw, fun _ _ => 0⟩
  | .HK_INJ_GO => ⟨5, 1, .wo, fun _ _ => 0⟩
  | .HK_STAT_BUSY => ⟨0, 1, .ro, fun _ _ => 0⟩
  | .HK_STAT_LP_ACTIVE => ⟨1, 1, .ro, fun _ _ => 0⟩
  | .HK_STAT_INJ_PEND => ⟨2, 1, .ro, fun _ _ => 0⟩
  | .HK_STAT_OVR => ⟨8, 1, .w1c, fun _ _ => 0⟩
  | .HK_STAT_INJ_LOST => ⟨9, 1, .w1c, fun _ _ => 0⟩
  | .HK_STAT_OVR_CNT => ⟨16, 16, .rw, fun _ _ => 0⟩
  | .HK_VALID => ⟨0, 32, .ro, fun _ _ => 0⟩
  | .HK_CH_SCAN => ⟨0, 1, .rw, fun i _ => if i = 0 ∨ i = 2 ∨ i = 24 ∨ i = 25 then 1 else 0⟩
  | .HK_CH_NM1 => ⟨1, 8, .rw, fun _ _ => 0xf⟩
  | .HK_CH_SHIFT => ⟨9, 4, .rw, fun _ _ => 4⟩
  | .VSEL_RAW => ⟨0, 3, .ro, fun _ _ => 7⟩
  | .VSEL_CODE => ⟨4, 3, .ro, fun _ _ => 0⟩
  | .VSEL_VALID => ⟨7, 1, .ro, fun _ _ => 0⟩
  | .VSEL_DEB => ⟨8, 8, .rw, fun _ _ => 0xa⟩
  | .VSEL_CHG => ⟨16, 1, .w1c, fun _ _ => 0⟩
  | .CP_CTRL_EN => ⟨0, 1, .rw, fun _ _ => 0⟩
  | .CP_CTRL_S2 => ⟨1, 1, .rw, fun _ _ => 0⟩
  | .CP_STAT_STATE => ⟨0, 3, .ro, fun _ _ => 0⟩
  | .CP_STAT_OSC => ⟨3, 1, .ro, fun _ _ => 0⟩
  | .CP_STAT_S2_ON => ⟨4, 1, .ro, fun _ _ => 0⟩
  | .CP_STAT_DUTY => ⟨8, 10, .ro, fun _ _ => 0⟩
  | .CP_STAT_CHG => ⟨18, 1, .w1c, fun _ _ => 0⟩
  | .CP_STAT_LOW_ERR => ⟨19, 1, .w1c, fun _ _ => 0⟩
  | .SD_PROC => ⟨0, 1, .hid, fun _ _ => 0⟩
  | .SD_SUM => ⟨0, 26, .hid, fun _ _ => 0⟩
  | .SD_WAIT => ⟨0, 1, .hid, fun _ _ => 0⟩
  | .SD_SUM2 => ⟨0, 26, .hid, fun _ _ => 0⟩
  | .SD_VT => ⟨0, 1, .hid, fun _ _ => 0⟩
  | .RES_SIN => ⟨0, 16, .hid, fun _ _ => 0⟩
  | .RES_COS => ⟨0, 16, .hid, fun _ _ => 0⟩
  | .RES_NLO => ⟨0, 2, .hid, fun _ _ => 0⟩
  | .RES_NHI => ⟨0, 2, .hid, fun _ _ => 0⟩
  | .RES_OFF => ⟨0, 1, .hid, fun _ _ => 0⟩
  | .HK_CUR => ⟨0, 5, .hid, fun _ _ => 0⟩
  | .HK_CURI => ⟨0, 1, .hid, fun _ _ => 0⟩
  | .HK_SCAN => ⟨0, 5, .hid, fun _ _ => 0⟩
  | .HK_SUM => ⟨0, 20, .hid, fun _ _ => 0⟩
  | .HK_N => ⟨0, 9, .hid, fun _ _ => 0⟩
  | .HK_SENT => ⟨0, 16, .hid, fun _ _ => 0⟩
  | .SDCLK_AT => ⟨0, 64, .hid, fun _ _ => 0⟩
  | .SD_AT => ⟨0, 64, .hid, fun _ _ => 0⟩
  | .SD_BITS => ⟨0, 768, .hid, fun _ _ => 0⟩
  | .SD_NB => ⟨0, 32, .hid, fun _ _ => 0⟩
  | .SD_PIN => ⟨0, 1, .hid, fun _ _ => 0⟩
  | .SD_SAME => ⟨0, 16, .hid, fun _ _ => 0⟩
  | .SD_RUN => ⟨0, 16, .hid, fun _ _ => 0⟩
  | .SD_OUTN => ⟨0, 16, .hid, fun _ _ => 0⟩
  | .SD_INN => ⟨0, 16, .hid, fun _ _ => 0⟩
  | .SD_K => ⟨0, 16, .hid, fun _ _ => 0⟩
  | .SD_ARM => ⟨0, 65, .hid, fun _ _ => 0⟩
  | .FC_AT => ⟨0, 64, .hid, fun _ _ => 0⟩
  | .FC_AVGN => ⟨0, 2, .hid, fun _ _ => 0⟩
  | .FC_EN_AT => ⟨0, 64, .hid, fun _ _ => 0⟩
  | .FC_EVT_AT => ⟨0, 65, .hid, fun _ _ => 0⟩
  | .RES_T0 => ⟨0, 65, .hid, fun _ _ => 0⟩
  | .RES_FIX => ⟨0, 2, .hid, fun _ _ => 0⟩
  | .RES_BN => ⟨0, 7, .hid, fun _ _ => 0⟩
  | .RES_V_AT => ⟨0, 64, .hid, fun _ _ => 0⟩
  | .HK_AT => ⟨0, 64, .hid, fun _ _ => 0⟩
  | .VSEL_AT => ⟨0, 64, .hid, fun _ _ => 0⟩
  | .CP_DEC => ⟨0, 3, .hid, fun _ _ => 0⟩
  | .CP_CNT => ⟨0, 3, .hid, fun _ _ => 0⟩

/-- Memory island (MEM) and lagoon control. -/
inductive MemFld where
  /-- `MEM_STAT`.INIT_CHART, RO (14) -/
  | STAT_INIT_CHART
  /-- `MEM_STAT`.INIT_DONE, RO (14) -/
  | STAT_INIT_DONE
  /-- `MEM_STAT`.SELFREF, RO (14) -/
  | STAT_SELFREF
  /-- `MEM_ECC_STAT`.CE_CNT, RW (14) -/
  | ECC_STAT_CE_CNT
  /-- `MEM_ECC_STAT`.UE_CNT, RW (14) -/
  | ECC_STAT_UE_CNT
  /-- `MEM_ECC_STAT`.CE, W1C (14) -/
  | ECC_STAT_CE
  /-- `MEM_ECC_STAT`.UE, W1C (14) -/
  | ECC_STAT_UE
  /-- `MEM_ECC_STAT`.UE_WR, W1C (14) -/
  | ECC_STAT_UE_WR
  /-- `MEM_ECC_LOG`.PORT, RO (14) -/
  | ECC_LOG_PORT
  /-- `MEM_ECC_LOG`.KIND, RO (14) -/
  | ECC_LOG_KIND
  /-- `MEM_ECC_LOG`.VALID, W1C (14) -/
  | ECC_LOG_VALID
  /-- `MEM_ECC_ADDR`.LINE, RO (14) -/
  | ECC_ADDR
  /-- `MEM_SCRUB_CTRL`.EN, RW (14) -/
  | SCRUB_CTRL_EN
  /-- `MEM_SCRUB_CTRL`.INT, RW (14) -/
  | SCRUB_CTRL_INT
  /-- `MEM_SCRUB_STAT`.PTR, RO (14) -/
  | SCRUB_STAT_PTR
  /-- `MEM_SCRUB_STAT`.LATE, W1C (14) -/
  | SCRUB_STAT_LATE
  /-- `MEM_SRAM_ERR`.CE_CNT, RW (14) -/
  | SRAM_ERR_CE_CNT
  /-- `MEM_SRAM_ERR`.SRC, RO (14) -/
  | SRAM_ERR_SRC
  /-- `MEM_SRAM_ERR`.DE, W1C (14) -/
  | SRAM_ERR_DE
  /-- `MEM_PORT[p]_CFG`.CLASS, RW (14) -/
  | PORT_CFG_CLASS
  /-- `MEM_PORT[p]_CFG`.LIMIT, RW (14) -/
  | PORT_CFG_LIMIT
  /-- `MEM_PORT[p]_STAT`.INFLIGHT, RO (14) -/
  | PORT_STAT_INFLIGHT
  /-- `MEM_PORT[p]_STAT`.MAXWAIT, RW (14) -/
  | PORT_STAT_MAXWAIT
  /-- `MEM_PORT[p]_STAT`.KIB, RO (14) -/
  | PORT_STAT_KIB
  /-- `MEM_FR_BASE`.BASE, RW (14) -/
  | FR_BASE
  /-- `MEM_FR_SIZE`.SEGS, RW (14) -/
  | FR_SIZE_SEGS
  /-- `MEM_FR_SIZE`.CFG_ERR, W1C (14) -/
  | FR_SIZE_CFG_ERR
  /-- `MEM_FR_SIZE`.EN, RW (14) -/
  | FR_SIZE_EN
  /-- `MEM_FR_ALLOC`.SLOT, RO (14) -/
  | FR_ALLOC_SLOT
  /-- `MEM_FR_ALLOC`.VALID, RO (14) -/
  | FR_ALLOC_VALID
  /-- `MEM_FR_SEQ`.SEQ, RO (14) -/
  | FR_SEQ
  /-- transaction waiting at a requester port: 0 none, 1 read, 2 write (R509) -/
  | MQ_KIND
  /-- its address -/
  | MQ_ADDR
  /-- its bytes, from 1 to 256 -/
  | MQ_LEN
  /-- instant of its request -/
  | MQ_AT
  /-- transaction in one of the 64 places of the strait: 0 free, 1 read, 2 write (R508) -/
  | IF_KIND
  /-- its requester port -/
  | IF_PORT
  /-- its address -/
  | IF_ADDR
  /-- its bytes -/
  | IF_LEN
  /-- class of its grant (R511) -/
  | IF_CLASS
  /-- port last granted in a class (R510) -/
  | ARB_LAST
  /-- instant at which the present scrub pass began (R505) -/
  | SCRUB_AT
  /-- DRAM is powered (R498, R622) -/
  | DRAM_ON
  /-- next lagoon word to scrub (R507) -/
  | LAG_PTR
  /-- next flight recorder slot (R516) -/
  | FR_NEXT
  /-- bytes moved by a port in the running 1 ms window -/
  | KIB_ACC
  /-- number of that window, in ms since reset -/
  | KIB_AT
  /-- memory-strait cycle of the last grant, plus 1 (R510) -/
  | ARB_CYC
  /-- instant of the scrubber's last step (R503) -/
  | SCRUB_STEP_AT
  /-- instant of the lagoon scrubber's last step (R507) -/
  | LAG_STEP_AT
  deriving DecidableEq, Repr

/-- Position, width, access code and reset value of each field of `MemFld`. -/
def MemFld.spec : MemFld → FSpec
  | .STAT_INIT_CHART => ⟨0, 1, .ro, fun _ _ => 0⟩
  | .STAT_INIT_DONE => ⟨1, 1, .ro, fun _ _ => 0⟩
  | .STAT_SELFREF => ⟨2, 1, .ro, fun _ _ => 0⟩
  | .ECC_STAT_CE_CNT => ⟨0, 16, .rw, fun _ _ => 0⟩
  | .ECC_STAT_UE_CNT => ⟨16, 8, .rw, fun _ _ => 0⟩
  | .ECC_STAT_CE => ⟨24, 1, .w1c, fun _ _ => 0⟩
  | .ECC_STAT_UE => ⟨25, 1, .w1c, fun _ _ => 0⟩
  | .ECC_STAT_UE_WR => ⟨26, 1, .w1c, fun _ _ => 0⟩
  | .ECC_LOG_PORT => ⟨0, 5, .ro, fun _ _ => 0⟩
  | .ECC_LOG_KIND => ⟨5, 2, .ro, fun _ _ => 0⟩
  | .ECC_LOG_VALID => ⟨7, 1, .w1c, fun _ _ => 0⟩
  | .ECC_ADDR => ⟨0, 27, .ro, fun _ _ => 0⟩
  | .SCRUB_CTRL_EN => ⟨0, 1, .rw, fun _ _ => 1⟩
  | .SCRUB_CTRL_INT => ⟨8, 10, .rw, fun _ _ => 0xf5⟩
  | .SCRUB_STAT_PTR => ⟨0, 27, .ro, fun _ _ => 0⟩
  | .SCRUB_STAT_LATE => ⟨28, 1, .w1c, fun _ _ => 0⟩
  | .SRAM_ERR_CE_CNT => ⟨0, 16, .rw, fun _ _ => 0⟩
  | .SRAM_ERR_SRC => ⟨16, 8, .ro, fun _ _ => 0⟩
  | .SRAM_ERR_DE => ⟨24, 1, .w1c, fun _ _ => 0⟩
  | .PORT_CFG_CLASS => ⟨0, 2, .rw, fun i _ => span [(0, 9, 1), (11, 11, 2), (12, 13, 3), (15, 15, 2), (16, 20, 1)] i 0⟩
  | .PORT_CFG_LIMIT => ⟨4, 5, .rw, fun _ _ => 0x10⟩
  | .PORT_STAT_INFLIGHT => ⟨0, 5, .ro, fun _ _ => 0⟩
  | .PORT_STAT_MAXWAIT => ⟨8, 8, .rw, fun _ _ => 0⟩
  | .PORT_STAT_KIB => ⟨16, 16, .ro, fun _ _ => 0⟩
  | .FR_BASE => ⟨0, 20, .rw, fun _ _ => 0x1200⟩
  | .FR_SIZE_SEGS => ⟨0, 13, .rw, fun _ _ => 0x800⟩
  | .FR_SIZE_CFG_ERR => ⟨30, 1, .w1c, fun _ _ => 0⟩
  | .FR_SIZE_EN => ⟨31, 1, .rw, fun _ _ => 0⟩
  | .FR_ALLOC_SLOT => ⟨0, 20, .ro, fun _ _ => 0⟩
  | .FR_ALLOC_VALID => ⟨31, 1, .ro, fun _ _ => 0⟩
  | .FR_SEQ => ⟨0, 32, .ro, fun _ _ => 0⟩
  | .MQ_KIND => ⟨0, 2, .hid, fun _ _ => 0⟩
  | .MQ_ADDR => ⟨0, 40, .hid, fun _ _ => 0⟩
  | .MQ_LEN => ⟨0, 9, .hid, fun _ _ => 0⟩
  | .MQ_AT => ⟨0, 64, .hid, fun _ _ => 0⟩
  | .IF_KIND => ⟨0, 2, .hid, fun _ _ => 0⟩
  | .IF_PORT => ⟨0, 5, .hid, fun _ _ => 0⟩
  | .IF_ADDR => ⟨0, 40, .hid, fun _ _ => 0⟩
  | .IF_LEN => ⟨0, 9, .hid, fun _ _ => 0⟩
  | .IF_CLASS => ⟨0, 2, .hid, fun _ _ => 0⟩
  | .ARB_LAST => ⟨0, 5, .hid, fun _ _ => 31⟩
  | .SCRUB_AT => ⟨0, 64, .hid, fun _ _ => 0⟩
  | .DRAM_ON => ⟨0, 1, .hid, fun _ _ => 0⟩
  | .LAG_PTR => ⟨0, 20, .hid, fun _ _ => 0⟩
  | .FR_NEXT => ⟨0, 20, .hid, fun _ _ => 0⟩
  | .KIB_ACC => ⟨0, 26, .hid, fun _ _ => 0⟩
  | .KIB_AT => ⟨0, 64, .hid, fun _ _ => 0⟩
  | .ARB_CYC => ⟨0, 64, .hid, fun _ _ => 0⟩
  | .SCRUB_STEP_AT => ⟨0, 64, .hid, fun _ _ => 0⟩
  | .LAG_STEP_AT => ⟨0, 64, .hid, fun _ _ => 0⟩

/-- Actuator island (ACT). -/
inductive ActFld where
  /-- `ACT_BR[b]_CFG`.SUPPLY, RWL (12) -/
  | BR_CFG_SUPPLY
  /-- `ACT_BR[b]_CFG`.DMODE, RW (12) -/
  | BR_CFG_DMODE
  /-- `ACT_BR[b]_CFG`.OC_EN, RWL (12) -/
  | BR_CFG_OC_EN
  /-- `ACT_BR[b]_CFG`.SRC, RW (12) -/
  | BR_CFG_SRC
  /-- `ACT_BR[b]_CFG`.SNK, RW (12) -/
  | BR_CFG_SNK
  /-- `ACT_BR[b]_CFG`.OCTHR, RWL (12) -/
  | BR_CFG_OCTHR
  /-- `ACT_BR[b]_P3`.WORD, RW (12) -/
  | BR_P3
  /-- `ACT_BR[b]_DIAG`.GO, WO (12) -/
  | BR_DIAG_GO
  /-- `ACT_BR[b]_DIAG`.BUSY, RO (12) -/
  | BR_DIAG_BUSY
  /-- `ACT_BR[b]_DIAG`.DIAG_REF, W1C (12) -/
  | BR_DIAG_DIAG_REF
  /-- `ACT_BR[b]_DIAG`.SETTLE, RW (12) -/
  | BR_DIAG_SETTLE
  /-- `ACT_BR[b]_DIAG`.PH_MASK, RW (12) -/
  | BR_DIAG_PH_MASK
  /-- `ACT_BR[b]_DIAG`.RES0, RO (12) -/
  | BR_DIAG_RES0
  /-- `ACT_BR[b]_DIAG`.RES1, RO (12) -/
  | BR_DIAG_RES1
  /-- `ACT_BR[b]_DIAG`.RES2, RO (12) -/
  | BR_DIAG_RES2
  /-- `ACT_BR[b]_HALL`.EN, RW (12) -/
  | BR_HALL_EN
  /-- `ACT_BR[b]_HALL`.INV, RW (12) -/
  | BR_HALL_INV
  /-- `ACT_BR[b]_HALL`.HFILT, RW (12) -/
  | BR_HALL_HFILT
  /-- `ACT_BR[b]_HALL`.HINV, RW (12) -/
  | BR_HALL_HINV
  /-- `ACT_BR[b]_STAT`.HALL, RO (12) -/
  | BR_STAT_HALL
  /-- `ACT_BR[b]_STAT`.OC, RO (12) -/
  | BR_STAT_OC
  /-- `ACT_BR[b]_STAT`.OC_LATCH, W1C (12) -/
  | BR_STAT_OC_LATCH
  /-- `ACT_BR[b]_STAT`.CFG_BUSY, W1C (12) -/
  | BR_STAT_CFG_BUSY
  /-- `ACT_BR[b]_STAT`.HALL_ERR, W1C (12) -/
  | BR_STAT_HALL_ERR
  /-- `ACT_BR[b]_STAT`.HALL_FAULT, W1C (12) -/
  | BR_STAT_HALL_FAULT
  /-- `ACT_BR[b]_STAT`.I_LAST, RO (12) -/
  | BR_STAT_I_LAST
  /-- `ACT_SENT[s]_CFG`.EN, RW (12) -/
  | SENT_CFG_EN
  /-- `ACT_SENT[s]_CFG`.TICK, RW (12) -/
  | SENT_CFG_TICK
  /-- `ACT_SENT[s]_CFG`.PAUSE, RW (12) -/
  | SENT_CFG_PAUSE
  /-- `ACT_SENT[s]_CFG`.CRC_LEGACY, RW (12) -/
  | SENT_CFG_CRC_LEGACY
  /-- `ACT_SENT[s]_CFG`.TMO, RW (12) -/
  | SENT_CFG_TMO
  /-- `ACT_SENT[s]_DATA`.FC1, RO (12) -/
  | SENT_DATA_FC1
  /-- `ACT_SENT[s]_DATA`.FC2, RO (12) -/
  | SENT_DATA_FC2
  /-- `ACT_SENT[s]_DATA`.SCN, RO (12) -/
  | SENT_DATA_SCN
  /-- `ACT_SENT[s]_DATA`.VALID, RO (12) -/
  | SENT_DATA_VALID
  /-- `ACT_SENT[s]_STAT`.CRC_ERR, W1C (12) -/
  | SENT_STAT_CRC_ERR
  /-- `ACT_SENT[s]_STAT`.CAL_ERR, W1C (12) -/
  | SENT_STAT_CAL_ERR
  /-- `ACT_SENT[s]_STAT`.NIB_ERR, W1C (12) -/
  | SENT_STAT_NIB_ERR
  /-- `ACT_SENT[s]_STAT`.TMO_ERR, W1C (12) -/
  | SENT_STAT_TMO_ERR
  /-- `ACT_SENT[s]_STAT`.ERRCNT, RW (12) -/
  | SENT_STAT_ERRCNT
  /-- `ACT_SENT[s]_SLOW`.ID, RO (12) -/
  | SENT_SLOW_ID
  /-- `ACT_SENT[s]_SLOW`.DATA, RO (12) -/
  | SENT_SLOW_DATA
  /-- `ACT_SENT[s]_SLOW`.NEW, RO (12) -/
  | SENT_SLOW_NEW
  /-- consecutive conversions of a bridge above OCTHR, at most 2 (R439) -/
  | BR_OC_RUN
  /-- step of the off-state test in progress: 2 k for step A and 2 k + 1 for step B of the k-th tested phase (R441) -/
  | DIAG_STEP
  /-- zone of step A of the phase under test: 0 LOW, 1 MID, 2 HIGH (R441) -/
  | DIAG_ZONE
  /-- accepted edges of a bridge, modulo 256 (R447) -/
  | HALL_CNT
  /-- instant of the last accepted edge of a bridge (R447) -/
  | HALL_AT
  /-- time between the last two accepted edges of a bridge, us, signed: positive forward (R447) -/
  | HALL_DT
  /-- an edge has been accepted since reset (R447) -/
  | HALL_HAD
  /-- tick of the previous frame of a SENT channel, ns; 0 none (R445) -/
  | SENT_TICK
  /-- instant of a bridge's last shunt conversion, plus 1; 0 none (R439) -/
  | SH_AT
  /-- phases under test, as PH_MASK stood at GO (R441) -/
  | DIAG_MASK
  /-- instant at which the present step of the off-state test began (R441) -/
  | DIAG_AT
  /-- level of a bridge's Hall inputs as last sampled (R443) -/
  | HALL_RAW
  /-- instant since which they have held it (R443) -/
  | HALL_RAW_AT
  /-- instant of a SENT channel's last valid frame (R446) -/
  | SENT_AT
  deriving DecidableEq, Repr

/-- Position, width, access code and reset value of each field of `ActFld`. -/
def ActFld.spec : ActFld → FSpec
  | .BR_CFG_SUPPLY => ⟨0, 2, .rwl, fun _ _ => 1⟩
  | .BR_CFG_DMODE => ⟨2, 1, .rw, fun _ _ => 0⟩
  | .BR_CFG_OC_EN => ⟨3, 1, .rwl, fun _ _ => 1⟩
  | .BR_CFG_SRC => ⟨4, 4, .rw, fun _ _ => 9⟩
  | .BR_CFG_SNK => ⟨8, 4, .rw, fun _ _ => 0xb⟩
  | .BR_CFG_OCTHR => ⟨12, 12, .rwl, fun _ _ => 0xc00⟩
  | .BR_P3 => ⟨0, 32, .rw, fun _ _ => 0x7395d⟩
  | .BR_DIAG_GO => ⟨0, 1, .wo, fun _ _ => 0⟩
  | .BR_DIAG_BUSY => ⟨1, 1, .ro, fun _ _ => 0⟩
  | .BR_DIAG_DIAG_REF => ⟨2, 1, .w1c, fun _ _ => 0⟩
  | .BR_DIAG_SETTLE => ⟨4, 4, .rw, fun _ _ => 5⟩
  | .BR_DIAG_PH_MASK => ⟨8, 3, .rw, fun i _ => if i = 2 then 3 else 7⟩
  | .BR_DIAG_RES0 => ⟨16, 3, .ro, fun _ _ => 0⟩
  | .BR_DIAG_RES1 => ⟨20, 3, .ro, fun _ _ => 0⟩
  | .BR_DIAG_RES2 => ⟨24, 3, .ro, fun _ _ => 0⟩
  | .BR_HALL_EN => ⟨0, 1, .rw, fun _ _ => 0⟩
  | .BR_HALL_INV => ⟨1, 1, .rw, fun _ _ => 0⟩
  | .BR_HALL_HFILT => ⟨4, 8, .rw, fun _ _ => 0xa⟩
  | .BR_HALL_HINV => ⟨16, 8, .rw, fun _ _ => 0x64⟩
  | .BR_STAT_HALL => ⟨0, 3, .ro, fun _ _ => 0⟩
  | .BR_STAT_OC => ⟨3, 1, .ro, fun _ _ => 0⟩
  | .BR_STAT_OC_LATCH => ⟨8, 1, .w1c, fun _ _ => 0⟩
  | .BR_STAT_CFG_BUSY => ⟨9, 1, .w1c, fun _ _ => 0⟩
  | .BR_STAT_HALL_ERR => ⟨10, 1, .w1c, fun _ _ => 0⟩
  | .BR_STAT_HALL_FAULT => ⟨11, 1, .w1c, fun _ _ => 0⟩
  | .BR_STAT_I_LAST => ⟨16, 16, .ro, fun _ _ => 0⟩
  | .SENT_CFG_EN => ⟨0, 1, .rw, fun _ _ => 0⟩
  | .SENT_CFG_TICK => ⟨1, 8, .rw, fun _ _ => 6⟩
  | .SENT_CFG_PAUSE => ⟨9, 1, .rw, fun _ _ => 0⟩
  | .SENT_CFG_CRC_LEGACY => ⟨10, 1, .rw, fun _ _ => 0⟩
  | .SENT_CFG_TMO => ⟨16, 8, .rw, fun _ _ => 0xa⟩
  | .SENT_DATA_FC1 => ⟨0, 12, .ro, fun _ _ => 0⟩
  | .SENT_DATA_FC2 => ⟨12, 12, .ro, fun _ _ => 0⟩
  | .SENT_DATA_SCN => ⟨24, 4, .ro, fun _ _ => 0⟩
  | .SENT_DATA_VALID => ⟨28, 1, .ro, fun _ _ => 0⟩
  | .SENT_STAT_CRC_ERR => ⟨0, 1, .w1c, fun _ _ => 0⟩
  | .SENT_STAT_CAL_ERR => ⟨1, 1, .w1c, fun _ _ => 0⟩
  | .SENT_STAT_NIB_ERR => ⟨2, 1, .w1c, fun _ _ => 0⟩
  | .SENT_STAT_TMO_ERR => ⟨3, 1, .w1c, fun _ _ => 0⟩
  | .SENT_STAT_ERRCNT => ⟨8, 8, .rw, fun _ _ => 0⟩
  | .SENT_SLOW_ID => ⟨0, 8, .ro, fun _ _ => 0⟩
  | .SENT_SLOW_DATA => ⟨8, 16, .ro, fun _ _ => 0⟩
  | .SENT_SLOW_NEW => ⟨24, 1, .ro, fun _ _ => 0⟩
  | .BR_OC_RUN => ⟨0, 2, .hid, fun _ _ => 0⟩
  | .DIAG_STEP => ⟨0, 3, .hid, fun _ _ => 0⟩
  | .DIAG_ZONE => ⟨0, 2, .hid, fun _ _ => 0⟩
  | .HALL_CNT => ⟨0, 8, .hid, fun _ _ => 0⟩
  | .HALL_AT => ⟨0, 64, .hid, fun _ _ => 0⟩
  | .HALL_DT => ⟨0, 16, .hid, fun _ _ => 0⟩
  | .HALL_HAD => ⟨0, 1, .hid, fun _ _ => 0⟩
  | .SENT_TICK => ⟨0, 17, .hid, fun _ _ => 0⟩
  | .SH_AT => ⟨0, 64, .hid, fun _ _ => 0⟩
  | .DIAG_MASK => ⟨0, 3, .hid, fun _ _ => 0⟩
  | .DIAG_AT => ⟨0, 64, .hid, fun _ _ => 0⟩
  | .HALL_RAW => ⟨0, 3, .hid, fun _ _ => 0⟩
  | .HALL_RAW_AT => ⟨0, 64, .hid, fun _ _ => 0⟩
  | .SENT_AT => ⟨0, 64, .hid, fun _ _ => 0⟩

/-- Always-on island (AON). -/
inductive AonFld where
  /-- `AON_LADDER_STAT`.STATE, RO (16) -/
  | LADDER_STAT_STATE
  /-- `AON_LADDER_STAT`.MOVING, RO (16) -/
  | LADDER_STAT_MOVING
  /-- `AON_LADDER_STAT`.DEEPEST, RO (16) -/
  | LADDER_STAT_DEEPEST
  /-- `AON_LADDER_STAT`.ABANDONED, W1C (16) -/
  | LADDER_STAT_ABANDONED
  /-- `AON_LADDER_STAT`.BROWNOUT, W1C (16) -/
  | LADDER_STAT_BROWNOUT
  /-- `AON_LADDER_STAT`.PRES_WARN, W1C (16) -/
  | LADDER_STAT_PRES_WARN
  /-- `AON_LADDER_STAT`.FLUSH_BAD, W1C (16) -/
  | LADDER_STAT_FLUSH_BAD
  /-- `AON_LADDER_STAT`.POR, W1C (16) -/
  | LADDER_STAT_POR
  /-- `AON_LADDER_STAT`.BOR_DIP, RW (16) -/
  | LADDER_STAT_BOR_DIP
  /-- `AON_LADDER_DWELL`.T_HOLD, RW (16) -/
  | LADDER_DWELL_T_HOLD
  /-- `AON_LADDER_DWELL`.T_STBY, RW (16) -/
  | LADDER_DWELL_T_STBY
  /-- `AON_LADDER_DWELL`.T_PARK, RW (16) -/
  | LADDER_DWELL_T_PARK
  /-- `AON_LADDER_DWELL`.T_STOR, RW (16) -/
  | LADDER_DWELL_T_STOR
  /-- `AON_WAKE_EN`.EN_WAKE, RO (16) -/
  | WAKE_EN_EN_WAKE
  /-- `AON_WAKE_EN`.EN_KEY, RW (16) -/
  | WAKE_EN_EN_KEY
  /-- `AON_WAKE_EN`.EN_INLET, RO (16) -/
  | WAKE_EN_EN_INLET
  /-- `AON_WAKE_EN`.EN_MISC, RW (16) -/
  | WAKE_EN_EN_MISC
  /-- `AON_WAKE_CAUSE`.SRC, RO (16) -/
  | WAKE_CAUSE_SRC
  /-- `AON_WAKE_CAUSE`.FROM, RO (16) -/
  | WAKE_CAUSE_FROM
  /-- `AON_WAKE_CAUSE`.CNT, RW (16) -/
  | WAKE_CAUSE_CNT
  /-- `AON_HKWIN`.V_LOW, RW (16) -/
  | HKWIN_V_LOW
  /-- `AON_HKWIN`.V_CRIT, RW (16) -/
  | HKWIN_V_CRIT
  /-- `AON_HKWIN`.AUTO_TR, RW (16) -/
  | HKWIN_AUTO_TR
  /-- `AON_ALARM`.MIN, RW (16) -/
  | ALARM
  /-- ladder state of the step in progress (R566) -/
  | LAD_TGT
  /-- instant at which the present ladder state was reached (R564) -/
  | LAD_AT
  /-- last boot step completed (R574); 0 none -/
  | BOOT
  /-- a boot is in progress (R574) -/
  | BOOTING
  /-- boot from: 0 first 24 V, 1 Storage, 2 Transport, 3 brown-out (R575, R576) -/
  | BOOT_KIND
  /-- the rail has risen above 16.0 V (R574) -/
  | SUPPLY
  /-- PRES_N is qualified (R574) -/
  | PRESENT
  /-- the rail lies below 14.0 V (R589) -/
  | DIP_ON
  /-- instant at which it fell (R589) -/
  | DIP_AT
  /-- flush in progress: 1 PRES_N, 2 before Storage or Transport (R566, R585) -/
  | FLUSH
  /-- newest SEQ of the last complete flush (R585) -/
  | FLUSH_SEQ
  /-- the head of the flush area is erased (R585) -/
  | HEAD_ERASED
  /-- the head holds a flush with a valid header (R588) -/
  | HEAD_VALID
  /-- the boot has stopped (R579) -/
  | STOPPED
  /-- instant at which MIN was written, plus 1; 0 none (R568) -/
  | ALARM_AT
  /-- instant at which Run was last left, plus 1; 0 in Run (R578) -/
  | RUN_LEFT
  /-- axle time of the last PRES_N warning (R585) -/
  | WARN_TIME
  /-- AXLE_TIME of the flush header in the head of the flush area (R585) -/
  | FLUSH_TIME
  deriving DecidableEq, Repr

/-- Position, width, access code and reset value of each field of `AonFld`. -/
def AonFld.spec : AonFld → FSpec
  | .LADDER_STAT_STATE => ⟨0, 3, .ro, fun _ _ => 0⟩
  | .LADDER_STAT_MOVING => ⟨3, 1, .ro, fun _ _ => 0⟩
  | .LADDER_STAT_DEEPEST => ⟨4, 3, .ro, fun _ _ => 0⟩
  | .LADDER_STAT_ABANDONED => ⟨8, 1, .w1c, fun _ _ => 0⟩
  | .LADDER_STAT_BROWNOUT => ⟨9, 1, .w1c, fun _ _ => 0⟩
  | .LADDER_STAT_PRES_WARN => ⟨10, 1, .w1c, fun _ _ => 0⟩
  | .LADDER_STAT_FLUSH_BAD => ⟨11, 1, .w1c, fun _ _ => 0⟩
  | .LADDER_STAT_POR => ⟨12, 1, .w1c, fun _ _ => 1⟩
  | .LADDER_STAT_BOR_DIP => ⟨16, 16, .rw, fun _ _ => 0⟩
  | .LADDER_DWELL_T_HOLD => ⟨0, 8, .rw, fun _ _ => 0xa⟩
  | .LADDER_DWELL_T_STBY => ⟨8, 8, .rw, fun _ _ => 0xa⟩
  | .LADDER_DWELL_T_PARK => ⟨16, 8, .rw, fun _ _ => 0xa⟩
  | .LADDER_DWELL_T_STOR => ⟨24, 8, .rw, fun _ _ => 0xc⟩
  | .WAKE_EN_EN_WAKE => ⟨1, 1, .ro, fun _ _ => 1⟩
  | .WAKE_EN_EN_KEY => ⟨2, 1, .rw, fun _ _ => 1⟩
  | .WAKE_EN_EN_INLET => ⟨3, 3, .ro, fun _ _ => 7⟩
  | .WAKE_EN_EN_MISC => ⟨6, 5, .rw, fun _ _ => 0x1f⟩
  | .WAKE_CAUSE_SRC => ⟨0, 4, .ro, fun _ _ => 0xb⟩
  | .WAKE_CAUSE_FROM => ⟨4, 3, .ro, fun _ _ => 5⟩
  | .WAKE_CAUSE_CNT => ⟨16, 16, .rw, fun _ _ => 0⟩
  | .HKWIN_V_LOW => ⟨0, 12, .rw, fun _ _ => 0x8cd⟩
  | .HKWIN_V_CRIT => ⟨16, 12, .rw, fun _ _ => 0x800⟩
  | .HKWIN_AUTO_TR => ⟨28, 1, .rw, fun _ _ => 1⟩
  | .ALARM => ⟨0, 24, .rw, fun _ _ => 0⟩
  | .LAD_TGT => ⟨0, 3, .hid, fun _ _ => 0⟩
  | .LAD_AT => ⟨0, 64, .hid, fun _ _ => 0⟩
  | .BOOT => ⟨0, 5, .hid, fun _ _ => 0⟩
  | .BOOTING => ⟨0, 1, .hid, fun _ _ => 0⟩
  | .BOOT_KIND => ⟨0, 2, .hid, fun _ _ => 0⟩
  | .SUPPLY => ⟨0, 1, .hid, fun _ _ => 0⟩
  | .PRESENT => ⟨0, 1, .hid, fun _ _ => 0⟩
  | .DIP_ON => ⟨0, 1, .hid, fun _ _ => 0⟩
  | .DIP_AT => ⟨0, 64, .hid, fun _ _ => 0⟩
  | .FLUSH => ⟨0, 2, .hid, fun _ _ => 0⟩
  | .FLUSH_SEQ => ⟨0, 32, .hid, fun _ _ => 0⟩
  | .HEAD_ERASED => ⟨0, 1, .hid, fun _ _ => 1⟩
  | .HEAD_VALID => ⟨0, 1, .hid, fun _ _ => 0⟩
  | .STOPPED => ⟨0, 1, .hid, fun _ _ => 0⟩
  | .ALARM_AT => ⟨0, 64, .hid, fun _ _ => 0⟩
  | .RUN_LEFT => ⟨0, 64, .hid, fun _ _ => 0⟩
  | .WARN_TIME => ⟨0, 64, .hid, fun _ _ => 0⟩
  | .FLUSH_TIME => ⟨0, 64, .hid, fun _ _ => 0⟩

/-- Level-3 program records and level-4 drive firmware: traction, converters, charging, gearbox. -/
inductive DrvFld where
  /-- address in the chart region of a record of the parameter sets: 0, 1 traction, 2 line converter, 3 auxiliary converter, 4 charging, 5 gearbox (R322, R361, R362, R400, R447) -/
  | REC_ADDR
  /-- base values of the active package, IEEE 754 single: current, voltage, torque, speed, flux, loss (R90) -/
  | PK_BASE
  /-- position source of a motor (R336) -/
  | TR_POS
  /-- band of the played pattern (R328, R353) -/
  | TR_BAND
  /-- the command is engaged (R341) -/
  | TR_ENG
  /-- SENS_FAIL, PHASE_LOST, ROTOR_LOSS, RES_FAILED, CATCH, REV_BRAKE, PEDAL_FLT, OVERSPEED (R353) -/
  | TR_FLAGS
  /-- failed sensor (R353) -/
  | TR_SENSID
  /-- failed sensors U1, U2, V1, V2 (R333, R335) -/
  | TR_SENSF
  /-- consecutive implausible samples of a sensor, at 4 motor + sensor (R333) -/
  | TR_IMPL
  /-- consecutive samples with the angles over 30 degrees apart (R338) -/
  | TR_DIS
  /-- instant of the declaration of rotor loss (R354) -/
  | TR_LOST_AT
  /-- the resolver angle is being watched for 16 samples after re-acquisition (R354) -/
  | TR_WATCH
  /-- drive sense s: 0 is +1, 1 is -1 (R340) -/
  | TR_SENSE
  /-- commanded direction of the host: 0 forward, 1 reverse (R340, R358) -/
  | TR_DIR
  /-- command input of the host (R341) -/
  | TR_CMD
  /-- instant of the last valid host command (R343) -/
  | TR_CMD_AT
  /-- limp-home in effect (R343) -/
  | TR_LIMP
  /-- torque request of the curve (R342) -/
  | TR_TQ
  /-- speed target of the curve (R342) -/
  | TR_SPD
  /-- instant after the last OMIN update from which the next may come (R345) -/
  | TR_OMIN_AT
  /-- feedback of the wear derate loop (R350) -/
  | TR_RHO
  /-- accumulated damage of a power module, units of 2^-48, at 6 motor + module (R348) -/
  | TR_D
  /-- turning points in the module's residue (R349) -/
  | TR_RESN
  /-- turning points of the module's residue, oldest first (R349) -/
  | TR_RES
  /-- sequence number of the last wear snapshot (R351) -/
  | TR_SNAPQ
  /-- damage in the two snapshot records, at 12 record + module (R351) -/
  | TR_SNAPD
  /-- turning points in a snapshot record, at 12 record + module (R351) -/
  | TR_SNAPN
  /-- turning points of a snapshot record's residue, oldest first, at 12 record + module (R351) -/
  | TR_SNAPR
  /-- instant at which a snapshot record was written (R352) -/
  | TR_SNAPAT
  /-- instant, plus 1, of the loss of supply that ended a run without an orderly snapshot; 0 none (R352) -/
  | TR_LOST
  /-- converter state: 0 line, 1 auxiliary (R374) -/
  | CV_STATE
  /-- state before RIDE (R376) -/
  | CV_PREV
  /-- phases declared open (R387, R394) -/
  | CV_DROP
  /-- phase whose opening is being reconfigured (R386, R387) -/
  | CV_OPENP
  /-- consecutive limited frames (R383) -/
  | CV_LIM
  /-- consecutive open samples of a phase, at 8 converter + phase (R386) -/
  | CV_OPENC
  /-- HIC_RUN (R383, R384) -/
  | CV_HICRUN
  /-- LOCKOUT, PH_DROP, RIDE_SEEN, SRC_IGN, HIC_SEEN, FIRE_SEEN, VSEL_OFF (R397) -/
  | CV_FLAGS
  /-- hiccups since first use (R397) -/
  | CV_HICCNT
  /-- the hand-over came from RIDE (R376) -/
  | CV_FROMRIDE
  /-- a planned hand-over with its source (R382) -/
  | CV_PLANNED
  /-- a source dropout noted in the sample of an open phase (R395) -/
  | CV_NODROP
  /-- total output current of the last inner sample, Q1.15 (R366, R397) -/
  | CV_I
  /-- output voltage of the last inner sample (R397) -/
  | CV_V
  /-- FC1, or SP, of the last inner sample (R397) -/
  | CV_SRCV
  /-- limit in force (R366, R397) -/
  | CV_EFF
  /-- set-point sent to slot 1 (R365, R390) -/
  | CV_SPT
  /-- frames of the last sleep (R391) -/
  | CV_SLEEPN
  /-- instant after which FIRE no longer bars SLEEP (R391) -/
  | CV_FIREAT
  /-- instant from which OMAX may be written again (R366) -/
  | CV_OMAX_AT
  /-- last use of domain 2: 0 none, 1 the line converter, 2 the dual active bridge (R404) -/
  | CV_D2
  /-- instant at which a converter entered its present state (R366, R376, R384) -/
  | CV_AT
  /-- current at the start of the HANDOVER ramp (R366) -/
  | CV_I0
  /-- a reconfiguration has requested its load-all (R387) -/
  | CV_RSTEP
  /-- mode a host request asked for when it left LINE, plus 1; 0 none (R376, R379) -/
  | CV_HOST
  /-- charging session state (R417) -/
  | CH_STATE
  /-- protocol: 0 none, 1 ISO 15118-20, 2 ISO 15118-2, 3 basic (R433) -/
  | CH_PROTO
  /-- path: 0 none, 1 AC, 2 DC_DIRECT, 3 DC_CONVERTED (R402, R433) -/
  | CH_PATH
  /-- END_CODE (R418) -/
  | CH_END
  /-- WELD, OPEN_LOADED, BAT_LOST, BMS_TMO, REDUCED (R433) -/
  | CH_FLAGS
  /-- charging target, 0.1 A (R409) -/
  | CH_TARGET
  /-- request, 0.1 A (R410) -/
  | CH_REQ
  /-- window factor, Q0.16 (R424) -/
  | CH_FACTOR
  /-- present window of T_CELL_MIN, T_CELL_MAX, T_MOD; 5 none (R423) -/
  | CH_WIN
  /-- window that sets the factor, 0xFF none (R433) -/
  | CH_WSET
  /-- consecutive decodes that show no coupler (R413) -/
  | CH_EMPTY
  /-- a coupler is decoded (R413) -/
  | CH_COUPLER
  /-- instant at which the present suspension began (R424) -/
  | CH_SUSP_AT
  /-- the host has paused the session (R417) -/
  | CH_PAUSE
  /-- the stop of a DC session has been issued (R420) -/
  | CH_STOP
  /-- instant at which it was issued (R420) -/
  | CH_STOP_AT
  /-- voltage the EVSE last reported, 0.1 V (R419, R421) -/
  | CH_EVSE_V
  /-- current the EVSE last reported, 0.1 A (R420) -/
  | CH_EVSE_I
  /-- maximum current of the EVSE, 0.1 A (R409) -/
  | CH_EVSE_IMAX
  /-- bus voltage, 0.1 V (R433) -/
  | CH_VBUS
  /-- pack temperature measured by the module, 1/64 degree C (R422, R433) -/
  | CH_TMOD
  /-- energy into the pack this session, Wh (R433) -/
  | CH_E_WH
  /-- ALIVE of MOD_STATUS (R425) -/
  | CH_ALIVE
  /-- battery removed declared: 0 no, 1 by rate, 2 by message (R427) -/
  | CH_REM
  /-- instant at which the DC charge contactors opened (R421) -/
  | CH_OPEN_AT
  /-- contactor bits of BMS_STATUS: positive closed, negative closed, opening requested (R425) -/
  | BMS_STAT
  /-- state of charge, 0.5 % (R425) -/
  | BMS_SOC
  /-- FAULT of BMS_STATUS (R425) -/
  | BMS_FAULT
  /-- last ALIVE of BMS_STATUS (0) and BMS_TEMP (2) (R426) -/
  | BMS_ALIVE
  /-- consecutive messages whose ALIVE did not advance by 1 (R426) -/
  | BMS_STALL
  /-- a message with ALIVE has been received (R426) -/
  | BMS_GOT
  /-- pack current, signed, 0.1 A (R425) -/
  | BMS_I_PACK
  /-- I_CHG_MAX, 0.1 A (R425) -/
  | BMS_I_CHG
  /-- I_DIS_MAX, 0.1 A (R425) -/
  | BMS_I_DIS
  /-- V_MAX, 0.1 V (R425) -/
  | BMS_V_MAX
  /-- V_MIN, 0.1 V (R425) -/
  | BMS_V_MIN
  /-- T_CELL_MIN, signed, 1/64 degree C (R425) -/
  | BMS_T_MIN
  /-- T_CELL_MAX, signed, 1/64 degree C (R425) -/
  | BMS_T_MAX
  /-- a BMS timeout stands outside CHARGE (R426) -/
  | BMS_TMO_ON
  /-- instant of that timeout (R426) -/
  | BMS_TMO_AT
  /-- instant at which END_CODE was recorded (R418) -/
  | CH_END_AT
  /-- shift phase (R449) -/
  | GB_PHASE
  /-- abort cause (R450) -/
  | GB_CAUSE
  /-- phase in which the last abort fell (R450) -/
  | GB_ABPH
  /-- gear engaged: 0 neutral, 1 to 4, 7 UNKNOWN (R449, R450) -/
  | GB_GEAR
  /-- target of the shift in progress (R449) -/
  | GB_TGT
  /-- instant at which the present phase began (R449) -/
  | GB_AT
  /-- instant at which the shift was accepted (R449) -/
  | GB_START
  /-- a shift is running (R449) -/
  | GB_BUSY
  /-- unwinding after an abort: 1 return of the fork, 2 forks to N, 3 LOAD in the old gear (R450) -/
  | GB_UNWIND
  /-- torque command held or ramped by the shift, Q1.15 (R449) -/
  | GB_TQ
  /-- mailbox whose final reply a shift owes, plus 1 (R449, R539) -/
  | GB_MBX
  /-- park lock: 0 DISENGAGED, 1 ENGAGED, 2 UNKNOWN, 3 FAULT (R451) -/
  | PL_STATE
  /-- park-lock move: 1 engage, 2 disengage (R451) -/
  | PL_MOVE
  /-- instant at which the move began (R451) -/
  | PL_AT
  /-- mailbox whose final reply a park-lock move owes, plus 1 (R451, R539) -/
  | PL_MBX
  /-- output speed of the last VEHICLE_STATE, signed, 0.1 rpm (R539) -/
  | VEH_SPD
  /-- odometer of the last VEHICLE_STATE, 10 m (R539) -/
  | VEH_ODO
  /-- instant of the last VEHICLE_STATE, plus 1; 0 none (R539) -/
  | VEH_AT
  /-- V_PACK of the last BMS_STATUS, in 0.1 V (R425) -/
  | BMS_V_PACK
  /-- BMS_STATUS is present: received and not timed out (R426, R488) -/
  | BMS_SEEN
  /-- Phase currents U, V, W of the last sample of slot 0, signed Q1.15 of the current base (R323) -/
  | TR_I
  /-- Value of an in-line sensor of a motor as the last sample used it, signed, first index 4 x motor + sensor (R323, R334) -/
  | TR_SEEN
  /-- Values of the first sensor of a phase in the last 64 samples in which both were plausible, first index 2 x motor + phase (R334) -/
  | TR_HX
  /-- Values of the second sensor in the same samples (R334) -/
  | TR_HY
  /-- How many such samples are held (R334) -/
  | TR_HN
  /-- Place of the next such sample (R334) -/
  | TR_HP
  /-- Sum of the absolute values of a sensor since the last comparison of sharing (R325) -/
  | TR_ABS
  /-- Instant of the last comparison of sharing (R325) -/
  | TR_SHARE_AT
  /-- Rotor angle that the last sample used (R327, R337) -/
  | TR_THETA
  /-- Speed of the position source that the last sample used, signed Q1.15 of the speed base (R327, R337) -/
  | TR_OMEGA
  /-- Rotor angle of the last sample in which the sources agreed, or of a probe's estimate (R336, R338, R356) -/
  | TR_AGR_ANG
  /-- Speed of that sample or estimate (R336, R338, R356) -/
  | TR_AGR_SPD
  /-- Instant of that sample or estimate (R336, R338, R356) -/
  | TR_AGR_AT
  /-- Consecutive samples with the back-EMF angle within 10 degrees of the extrapolated one (R354) -/
  | TR_ACQ
  /-- Consecutive samples with the resolver within 10 degrees after re-acquisition (R354) -/
  | TR_WATCHN
  /-- Instant at which the catch began (R357) -/
  | TR_CATCH_AT
  /-- Consecutive samples with both currents below CATCH_I (R355) -/
  | TR_CATCH_N
  /-- Instant at which the probe began (R357) -/
  | TR_PROBE_AT
  /-- The probe has given its estimate (R356) -/
  | TR_PROBED
  /-- KIND of the pattern that is requested; 0 in carrier (R328, R331) -/
  | TR_KIND
  /-- PULSES of the pattern that is requested (R331) -/
  | TR_PULSES
  /-- KIND that the last lookups returned (R331) -/
  | TR_NKIND
  /-- PULSES that the last lookups returned (R331) -/
  | TR_NPULSES
  /-- Consecutive samples in which the lookup returned them (R331) -/
  | TR_NCNT
  /-- PPI last requested (R329, R331) -/
  | TR_PPI
  /-- Current references d and q in force in the last sample, signed Q1.15 (R327, R354, R355) -/
  | TR_REF
  /-- q-axis reference at the declaration of rotor loss (R338) -/
  | TR_IQ0
  /-- Largest D of a motor's modules at each of the last 128 km, by kilometre modulo 128 (R350) -/
  | TR_KMD
  /-- Kilometre of the newest of these (R350) -/
  | TR_KML
  /-- Kilometre of the first snapshot, plus 1; 0 before it (R350) -/
  | TR_KM0
  /-- converter: the source was present in the last inner sample (R375, R381) -/
  | CV_PRES
  /-- converter: instant of the inner sample in which the source last became present (R376, R381) -/
  | CV_PRES_AT
  /-- line converter: consecutive outer samples within TRK_TOL (R376) -/
  | CV_TRKN
  /-- line converter: how long SOFT had lasted when RIDE began (R366, R376) -/
  | CV_SOFTEL
  /-- auxiliary converter: output voltages of the last four inner samples (R392, R393) -/
  | CV_VH
  /-- converter: inner samples taken (R392) -/
  | CV_VN
  /-- auxiliary converter: v[k] - v[k - 4], signed (R392, R393) -/
  | CV_DV
  /-- auxiliary converter: consecutive inner samples with i below BURST_ON (R391) -/
  | CV_BURSTN
  /-- auxiliary converter: frames in FIRE (R393) -/
  | CV_FIREN
  /-- converter: sum of the output currents of the inner samples since the last outer sample, signed (R365) -/
  | CV_ISUM
  /-- converter: inner samples in that sum (R365) -/
  | CV_ICNT
  /-- converter: page change that the program has yet to send: 0 none, 1 IDLE, 2 carrier, 3 FIRE (R368, R392) -/
  | CV_PGREQ
  /-- instant of the front end's last enable, plus 1; 0 none (R406) -/
  | CH_SW_AT
  /-- bus voltages of the last eight samples of LE7 slot 3 (R427) -/
  | CH_FC0
  /-- samples of LE7 slot 3 taken (R427) -/
  | CH_FCN
  /-- charging current delivered minus pack current in the last 100 evaluations, 0.1 A, signed (R399) -/
  | CH_DR
  /-- evaluations taken in the session (R399) -/
  | CH_DRN
  /-- energy into the pack this session in 0.01 W x fine ticks, signed (R433) -/
  | CH_EACC
  /-- instant of the last evaluation (R433) -/
  | CH_EV_AT
  /-- instant since which the EVSE's voltage matches the vehicle side, plus 1; 0 none (R419) -/
  | CH_MATCH_AT
  /-- instant at which PRECHARGE began (R418) -/
  | CH_PRE_AT
  /-- instant of the last BMS message of a kind (R426) -/
  | BMS_AT
  /-- next step of the hand-over of domain 2 (R404) -/
  | CV_D2N
  /-- direction of that hand-over: 1 to the dual active bridge (R404) -/
  | CV_D2DIR
  /-- instant since which the condition of the present shift phase has held, plus 1; 0 none (R449) -/
  | GB_OK_AT
  /-- instant since which a fork has moved opposite to its command, plus 1; 0 none (R450) -/
  | GB_OPP_AT
  /-- position of a fork at the last evaluation, in 0.01 um, signed (R450) -/
  | GB_LASTP
  /-- motors whose command equals the curve output in LOAD (R449) -/
  | GB_EQ
  /-- instant since which the current of bridge 2 has lain at or above PL_STALL_I, plus 1; 0 none (R451) -/
  | PL_ST_AT
  /-- HK25 last read 125 °C or more (R611) -/
  | DIE_HOT
  deriving DecidableEq, Repr

/-- Position, width, access code and reset value of each field of `DrvFld`. -/
def DrvFld.spec : DrvFld → FSpec
  | .REC_ADDR => ⟨0, 40, .hid, fun _ _ => 0⟩
  | .PK_BASE => ⟨0, 32, .hid, fun _ _ => 0⟩
  | .TR_POS => ⟨0, 2, .hid, fun _ _ => 0⟩
  | .TR_BAND => ⟨0, 3, .hid, fun _ _ => 0⟩
  | .TR_ENG => ⟨0, 1, .hid, fun _ _ => 0⟩
  | .TR_FLAGS => ⟨0, 8, .hid, fun _ _ => 0⟩
  | .TR_SENSID => ⟨0, 8, .hid, fun _ _ => 0xFF⟩
  | .TR_SENSF => ⟨0, 4, .hid, fun _ _ => 0⟩
  | .TR_IMPL => ⟨0, 2, .hid, fun _ _ => 0⟩
  | .TR_DIS => ⟨0, 3, .hid, fun _ _ => 0⟩
  | .TR_LOST_AT => ⟨0, 64, .hid, fun _ _ => 0⟩
  | .TR_WATCH => ⟨0, 1, .hid, fun _ _ => 0⟩
  | .TR_SENSE => ⟨0, 1, .hid, fun _ _ => 0⟩
  | .TR_DIR => ⟨0, 1, .hid, fun _ _ => 0⟩
  | .TR_CMD => ⟨0, 16, .hid, fun _ _ => 0⟩
  | .TR_CMD_AT => ⟨0, 64, .hid, fun _ _ => 0⟩
  | .TR_LIMP => ⟨0, 1, .hid, fun _ _ => 0⟩
  | .TR_TQ => ⟨0, 16, .hid, fun _ _ => 0⟩
  | .TR_SPD => ⟨0, 16, .hid, fun _ _ => 0⟩
  | .TR_OMIN_AT => ⟨0, 64, .hid, fun _ _ => 0⟩
  | .TR_RHO => ⟨0, 16, .hid, fun _ _ => 0⟩
  | .TR_D => ⟨0, 64, .hid, fun _ _ => 0⟩
  | .TR_RESN => ⟨0, 7, .hid, fun _ _ => 0⟩
  | .TR_RES => ⟨0, 16, .hid, fun _ _ => 0⟩
  | .TR_SNAPQ => ⟨0, 32, .hid, fun _ _ => 0⟩
  | .TR_SNAPD => ⟨0, 64, .hid, fun _ _ => 0⟩
  | .TR_SNAPN => ⟨0, 7, .hid, fun _ _ => 0⟩
  | .TR_SNAPR => ⟨0, 16, .hid, fun _ _ => 0⟩
  | .TR_SNAPAT => ⟨0, 64, .hid, fun _ _ => 0⟩
  | .TR_LOST => ⟨0, 64, .hid, fun _ _ => 0⟩
  | .CV_STATE => ⟨0, 4, .hid, fun _ _ => 0⟩
  | .CV_PREV => ⟨0, 4, .hid, fun _ _ => 0⟩
  | .CV_DROP => ⟨0, 6, .hid, fun _ _ => 0⟩
  | .CV_OPENP => ⟨0, 3, .hid, fun _ _ => 7⟩
  | .CV_LIM => ⟨0, 8, .hid, fun _ _ => 0⟩
  | .CV_OPENC => ⟨0, 8, .hid, fun _ _ => 0⟩
  | .CV_HICRUN => ⟨0, 8, .hid, fun _ _ => 0⟩
  | .CV_FLAGS => ⟨0, 7, .hid, fun _ _ => 0⟩
  | .CV_HICCNT => ⟨0, 32, .hid, fun _ _ => 0⟩
  | .CV_FROMRIDE => ⟨0, 1, .hid, fun _ _ => 0⟩
  | .CV_PLANNED => ⟨0, 1, .hid, fun _ _ => 0⟩
  | .CV_NODROP => ⟨0, 1, .hid, fun _ _ => 0⟩
  | .CV_I => ⟨0, 16, .hid, fun _ _ => 0⟩
  | .CV_V => ⟨0, 16, .hid, fun _ _ => 0⟩
  | .CV_SRCV => ⟨0, 16, .hid, fun _ _ => 0⟩
  | .CV_EFF => ⟨0, 16, .hid, fun _ _ => 0⟩
  | .CV_SPT => ⟨0, 16, .hid, fun _ _ => 0⟩
  | .CV_SLEEPN => ⟨0, 8, .hid, fun _ _ => 0⟩
  | .CV_FIREAT => ⟨0, 64, .hid, fun _ _ => 0⟩
  | .CV_OMAX_AT => ⟨0, 64, .hid, fun _ _ => 0⟩
  | .CV_D2 => ⟨0, 2, .hid, fun _ _ => 0⟩
  | .CV_AT => ⟨0, 64, .hid, fun _ _ => 0⟩
  | .CV_I0 => ⟨0, 16, .hid, fun _ _ => 0⟩
  | .CV_RSTEP => ⟨0, 1, .hid, fun _ _ => 0⟩
  | .CV_HOST => ⟨0, 3, .hid, fun _ _ => 0⟩
  | .CH_STATE => ⟨0, 4, .hid, fun _ _ => 0⟩
  | .CH_PROTO => ⟨0, 3, .hid, fun _ _ => 0⟩
  | .CH_PATH => ⟨0, 2, .hid, fun _ _ => 0⟩
  | .CH_END => ⟨0, 4, .hid, fun _ _ => 0⟩
  | .CH_FLAGS => ⟨0, 5, .hid, fun _ _ => 0⟩
  | .CH_TARGET => ⟨0, 16, .hid, fun _ _ => 0⟩
  | .CH_REQ => ⟨0, 16, .hid, fun _ _ => 0⟩
  | .CH_FACTOR => ⟨0, 16, .hid, fun _ _ => 0xFFFF⟩
  | .CH_WIN => ⟨0, 3, .hid, fun _ _ => 5⟩
  | .CH_WSET => ⟨0, 8, .hid, fun _ _ => 0xFF⟩
  | .CH_EMPTY => ⟨0, 2, .hid, fun _ _ => 0⟩
  | .CH_COUPLER => ⟨0, 1, .hid, fun _ _ => 0⟩
  | .CH_SUSP_AT => ⟨0, 64, .hid, fun _ _ => 0⟩
  | .CH_PAUSE => ⟨0, 1, .hid, fun _ _ => 0⟩
  | .CH_STOP => ⟨0, 1, .hid, fun _ _ => 0⟩
  | .CH_STOP_AT => ⟨0, 64, .hid, fun _ _ => 0⟩
  | .CH_EVSE_V => ⟨0, 16, .hid, fun _ _ => 0⟩
  | .CH_EVSE_I => ⟨0, 16, .hid, fun _ _ => 0⟩
  | .CH_EVSE_IMAX => ⟨0, 16, .hid, fun _ _ => 0⟩
  | .CH_VBUS => ⟨0, 16, .hid, fun _ _ => 0⟩
  | .CH_TMOD => ⟨0, 16, .hid, fun _ _ => 0x8000⟩
  | .CH_E_WH => ⟨0, 32, .hid, fun _ _ => 0⟩
  | .CH_ALIVE => ⟨0, 4, .hid, fun _ _ => 0⟩
  | .CH_REM => ⟨0, 2, .hid, fun _ _ => 0⟩
  | .CH_OPEN_AT => ⟨0, 64, .hid, fun _ _ => 0⟩
  | .BMS_STAT => ⟨0, 3, .hid, fun _ _ => 0⟩
  | .BMS_SOC => ⟨0, 8, .hid, fun _ _ => 0⟩
  | .BMS_FAULT => ⟨0, 8, .hid, fun _ _ => 0⟩
  | .BMS_ALIVE => ⟨0, 4, .hid, fun _ _ => 0⟩
  | .BMS_STALL => ⟨0, 2, .hid, fun _ _ => 0⟩
  | .BMS_GOT => ⟨0, 1, .hid, fun _ _ => 0⟩
  | .BMS_I_PACK => ⟨0, 16, .hid, fun _ _ => 0⟩
  | .BMS_I_CHG => ⟨0, 16, .hid, fun _ _ => 0⟩
  | .BMS_I_DIS => ⟨0, 16, .hid, fun _ _ => 0⟩
  | .BMS_V_MAX => ⟨0, 16, .hid, fun _ _ => 0⟩
  | .BMS_V_MIN => ⟨0, 16, .hid, fun _ _ => 0⟩
  | .BMS_T_MIN => ⟨0, 16, .hid, fun _ _ => 0⟩
  | .BMS_T_MAX => ⟨0, 16, .hid, fun _ _ => 0⟩
  | .BMS_TMO_ON => ⟨0, 1, .hid, fun _ _ => 0⟩
  | .BMS_TMO_AT => ⟨0, 64, .hid, fun _ _ => 0⟩
  | .CH_END_AT => ⟨0, 64, .hid, fun _ _ => 0⟩
  | .GB_PHASE => ⟨0, 3, .hid, fun _ _ => 0⟩
  | .GB_CAUSE => ⟨0, 8, .hid, fun _ _ => 0⟩
  | .GB_ABPH => ⟨0, 3, .hid, fun _ _ => 0⟩
  | .GB_GEAR => ⟨0, 3, .hid, fun _ _ => 0⟩
  | .GB_TGT => ⟨0, 3, .hid, fun _ _ => 0⟩
  | .GB_AT => ⟨0, 64, .hid, fun _ _ => 0⟩
  | .GB_START => ⟨0, 64, .hid, fun _ _ => 0⟩
  | .GB_BUSY => ⟨0, 1, .hid, fun _ _ => 0⟩
  | .GB_UNWIND => ⟨0, 2, .hid, fun _ _ => 0⟩
  | .GB_TQ => ⟨0, 16, .hid, fun _ _ => 0⟩
  | .GB_MBX => ⟨0, 5, .hid, fun _ _ => 0⟩
  | .PL_STATE => ⟨0, 2, .hid, fun _ _ => 2⟩
  | .PL_MOVE => ⟨0, 2, .hid, fun _ _ => 0⟩
  | .PL_AT => ⟨0, 64, .hid, fun _ _ => 0⟩
  | .PL_MBX => ⟨0, 5, .hid, fun _ _ => 0⟩
  | .VEH_SPD => ⟨0, 16, .hid, fun _ _ => 0⟩
  | .VEH_ODO => ⟨0, 32, .hid, fun _ _ => 0⟩
  | .VEH_AT => ⟨0, 64, .hid, fun _ _ => 0⟩
  | .BMS_V_PACK => ⟨0, 16, .hid, fun _ _ => 0⟩
  | .BMS_SEEN => ⟨0, 1, .hid, fun _ _ => 0⟩
  | .TR_I => ⟨0, 18, .hid, fun _ _ => 0⟩
  | .TR_SEEN => ⟨0, 17, .hid, fun _ _ => 0⟩
  | .TR_HX => ⟨0, 16, .hid, fun _ _ => 0⟩
  | .TR_HY => ⟨0, 16, .hid, fun _ _ => 0⟩
  | .TR_HN => ⟨0, 7, .hid, fun _ _ => 0⟩
  | .TR_HP => ⟨0, 6, .hid, fun _ _ => 0⟩
  | .TR_ABS => ⟨0, 48, .hid, fun _ _ => 0⟩
  | .TR_SHARE_AT => ⟨0, 64, .hid, fun _ _ => 0⟩
  | .TR_THETA => ⟨0, 24, .hid, fun _ _ => 0⟩
  | .TR_OMEGA => ⟨0, 16, .hid, fun _ _ => 0⟩
  | .TR_AGR_ANG => ⟨0, 24, .hid, fun _ _ => 0⟩
  | .TR_AGR_SPD => ⟨0, 16, .hid, fun _ _ => 0⟩
  | .TR_AGR_AT => ⟨0, 64, .hid, fun _ _ => 0⟩
  | .TR_ACQ => ⟨0, 5, .hid, fun _ _ => 0⟩
  | .TR_WATCHN => ⟨0, 5, .hid, fun _ _ => 0⟩
  | .TR_CATCH_AT => ⟨0, 64, .hid, fun _ _ => 0⟩
  | .TR_CATCH_N => ⟨0, 5, .hid, fun _ _ => 0⟩
  | .TR_PROBE_AT => ⟨0, 64, .hid, fun _ _ => 0⟩
  | .TR_PROBED => ⟨0, 1, .hid, fun _ _ => 0⟩
  | .TR_KIND => ⟨0, 3, .hid, fun _ _ => 0⟩
  | .TR_PULSES => ⟨0, 8, .hid, fun _ _ => 0⟩
  | .TR_NKIND => ⟨0, 3, .hid, fun _ _ => 0⟩
  | .TR_NPULSES => ⟨0, 8, .hid, fun _ _ => 0⟩
  | .TR_NCNT => ⟨0, 7, .hid, fun _ _ => 0⟩
  | .TR_PPI => ⟨0, 16, .hid, fun _ _ => 0⟩
  | .TR_REF => ⟨0, 16, .hid, fun _ _ => 0⟩
  | .TR_IQ0 => ⟨0, 16, .hid, fun _ _ => 0⟩
  | .TR_KMD => ⟨0, 64, .hid, fun _ _ => 0⟩
  | .TR_KML => ⟨0, 32, .hid, fun _ _ => 0⟩
  | .TR_KM0 => ⟨0, 33, .hid, fun _ _ => 0⟩
  | .CV_PRES => ⟨0, 1, .hid, fun _ _ => 0⟩
  | .CV_PRES_AT => ⟨0, 64, .hid, fun _ _ => 0⟩
  | .CV_TRKN => ⟨0, 5, .hid, fun _ _ => 0⟩
  | .CV_SOFTEL => ⟨0, 64, .hid, fun _ _ => 0⟩
  | .CV_VH => ⟨0, 16, .hid, fun _ _ => 0⟩
  | .CV_VN => ⟨0, 64, .hid, fun _ _ => 0⟩
  | .CV_DV => ⟨0, 17, .hid, fun _ _ => 0⟩
  | .CV_BURSTN => ⟨0, 8, .hid, fun _ _ => 0⟩
  | .CV_FIREN => ⟨0, 7, .hid, fun _ _ => 0⟩
  | .CV_ISUM => ⟨0, 40, .hid, fun _ _ => 0⟩
  | .CV_ICNT => ⟨0, 16, .hid, fun _ _ => 0⟩
  | .CV_PGREQ => ⟨0, 2, .hid, fun _ _ => 0⟩
  | .CH_SW_AT => ⟨0, 64, .hid, fun _ _ => 0⟩
  | .CH_FC0 => ⟨0, 16, .hid, fun _ _ => 0⟩
  | .CH_FCN => ⟨0, 64, .hid, fun _ _ => 0⟩
  | .CH_DR => ⟨0, 24, .hid, fun _ _ => 0⟩
  | .CH_DRN => ⟨0, 64, .hid, fun _ _ => 0⟩
  | .CH_EACC => ⟨0, 96, .hid, fun _ _ => 0⟩
  | .CH_EV_AT => ⟨0, 64, .hid, fun _ _ => 0⟩
  | .CH_MATCH_AT => ⟨0, 64, .hid, fun _ _ => 0⟩
  | .CH_PRE_AT => ⟨0, 64, .hid, fun _ _ => 0⟩
  | .BMS_AT => ⟨0, 64, .hid, fun _ _ => 0⟩
  | .CV_D2N => ⟨0, 3, .hid, fun _ _ => 0⟩
  | .CV_D2DIR => ⟨0, 1, .hid, fun _ _ => 0⟩
  | .GB_OK_AT => ⟨0, 64, .hid, fun _ _ => 0⟩
  | .GB_OPP_AT => ⟨0, 64, .hid, fun _ _ => 0⟩
  | .GB_LASTP => ⟨0, 40, .hid, fun _ _ => 0⟩
  | .GB_EQ => ⟨0, 2, .hid, fun _ _ => 0⟩
  | .PL_ST_AT => ⟨0, 64, .hid, fun _ _ => 0⟩
  | .DIE_HOT => ⟨0, 1, .hid, fun _ _ => 0⟩

/-- Interface processor: mailboxes, sessions, data port, store, keys. -/
inductive HostFld where
  /-- Operator limit in force of Table: Limits, by LIMIT (R541) -/
  | LIM
  /-- Installer bound of a limit (R541) -/
  | LIM_INST
  /-- Maker bound of a limit (R541) -/
  | LIM_MAKER
  /-- identifier of an open session, by slot; 0 none (R552, R553) -/
  | SES_ID
  /-- role of the session: 1 Operator, 2 Installer, 3 Maker (R550) -/
  | SES_ROLE
  /-- KEY_ID of the session (R552) -/
  | SES_KEY
  /-- port over which the session was opened (R557) -/
  | SES_PORT
  /-- last SEQ accepted from the host (R528) -/
  | SES_IN
  /-- last SEQ sent (R529) -/
  | SES_OUT
  /-- instant of the last valid frame (R554) -/
  | SES_AT
  /-- protocol version of the session (R528) -/
  | SES_VER
  /-- blocks subscribed (R540) -/
  | SUB_MASK
  /-- PERIOD of the subscription, ms (R540) -/
  | SUB_PERIOD
  /-- trace engines of the subscription (R540) -/
  | SUB_TRACE
  /-- version settled by the last HELLO (R528) -/
  | PV
  /-- a command waits or runs in an inbound mailbox (R536) -/
  | MB_BUSY
  /-- the command in the mailbox is a long command under way (R535) -/
  | MB_RUN
  /-- the mailbox has received a command (R536) -/
  | MB_SEEN
  /-- CODE of the mailbox's last command -/
  | MB_CODE
  /-- MTAG of the mailbox's last command -/
  | MB_MTAG
  /-- PLEN of the mailbox's last command -/
  | MB_PLEN
  /-- session slot of that command plus 1; 0 outside a session -/
  | MB_SES
  /-- port of that command -/
  | MB_PORT
  /-- STATUS of the stored reply (R536) -/
  | MB_ST
  /-- DETAIL of the stored reply (R536) -/
  | MB_DET
  /-- instant of the last IN_PROGRESS (R535) -/
  | MB_AT
  /-- a login is in progress in a mailbox (R552) -/
  | LG_ON
  /-- its role -/
  | LG_ROLE
  /-- its KEY_ID -/
  | LG_KEY
  /-- instant of its LOGIN_START -/
  | LG_AT
  /-- instants of the last five failed LOGIN_PROVE of a role, plus 1 (R555) -/
  | FAIL_AT
  /-- a role is barred (R555) -/
  | BARRED
  /-- role of the key in a slot of the key store; 0 empty (R550) -/
  | KEY_ROLE
  /-- KEY_ID of the key in a slot (R552) -/
  | KEY_ID
  /-- X coordinate of the key in a slot -/
  | KEY_X
  /-- Y coordinate of the key in a slot -/
  | KEY_Y
  /-- size of the installed contract certificate; 0 none (R416) -/
  | CERT
  /-- counter of the interface status block (R558) -/
  | TAG_ERR
  /-- counter of the interface status block (R558) -/
  | SEQ_ERR
  /-- counter of the interface status block (R558) -/
  | BUSY_CNT
  /-- counter of the interface status block (R558) -/
  | DROP_CNT
  /-- counter of the interface status block (R558) -/
  | LOGIN_FAIL
  /-- AUDIT_ERR, DP_ABORT, STEPPED (R558) -/
  | FLAGS
  /-- SEQ of the newest audit entry (R557) -/
  | AUD_SEQ
  /-- HASH of the newest audit entry (R557) -/
  | AUD_HASH
  /-- a closing entry could not be written: no write transfer is opened until an entry has been (R556) -/
  | AUD_BAR
  /-- a transfer of the session is open (R545) -/
  | DP_OPEN
  /-- its HANDLE (R545) -/
  | DP_HANDLE
  /-- its address register (R545) -/
  | DP_ADDR
  /-- its start address (R556) -/
  | DP_START
  /-- its increment (R545) -/
  | DP_INC
  /-- its direction, 1 write (R545) -/
  | DP_DIR
  /-- next expected BIDX (R547) -/
  | DP_BIDX
  /-- bytes moved (R548) -/
  | DP_COUNT
  /-- address above its window (R545) -/
  | DP_HIGH
  /-- package slot that the slot pointer names (R98) -/
  | SLOT_PTR
  /-- a package slot holds an image (R96) -/
  | PKG_FULL
  /-- size of the image in a slot -/
  | PKG_SIZE
  /-- package floor (R97) -/
  | FLOOR
  /-- an activation is running (R98) -/
  | ACT_ON
  /-- slot being activated -/
  | ACT_SLOT
  /-- last step of the activation that has completed (R98) -/
  | ACT_STEP
  /-- package active before the activation: LOADED (R101) -/
  | ACT_OLD
  /-- its slot (R101) -/
  | ACT_OLDS
  /-- settings before step 1: bit 0 EN_A, bit 1 EN_B, bit 3 + p AUTO of store p (R101) -/
  | ACT_SAVE
  /-- firmware slot that the next boot runs (R550) -/
  | FW_SLOT
  /-- a firmware slot holds an image (R550) -/
  | FW_FULL
  /-- DIRN as the safety island holds it across the ladder (R99) -/
  | DIRN_HELD
  /-- SPLIT byte of the boot header (R466) -/
  | SPLIT
  /-- a debug challenge has been issued (R490) -/
  | DBG_REQ
  /-- instant of that challenge -/
  | DBG_AT
  /-- candidate that a CAN port listens on (R524) -/
  | CAN_CAND
  /-- the CAN port has settled (R524) -/
  | CAN_SET
  /-- settled format and rate code of a CAN port (R558) -/
  | CAN_FMT
  /-- a partial frame of a CAN mailbox is being reassembled (R530) -/
  | SEG_ON
  /-- index of its last segment (R530) -/
  | SEG_IX
  /-- ALIVE of the last DRIVE_CMD plus 1; 0 none (R538) -/
  | DRV_ALIVE
  /-- instant of the last synchronisation on a port, plus 1; 0 none (R526) -/
  | TS_AT
  /-- LOADED as the safety island holds it across the ladder (R99) -/
  | HELD_LOADED
  /-- SLOT as the safety island holds it across the ladder (R99) -/
  | HELD_SLOT
  /-- last HANDLE given (R545) -/
  | LAST_HANDLE
  /-- parameter bytes of the stored reply (R536) -/
  | MB_VAL
  /-- mailbox of 1 to 15 served last (R533) -/
  | MB_LAST
  /-- parameters kept for the final reply of a command under way -/
  | MB_PAR
  /-- kind of the activation: 0 by command, 1 the region's package again, 2 the previous package, 3 at boot, 4 after a wake from Standby or Park (R98, R99, R101) -/
  | ACT_KIND
  /-- check code of the last activation (R95) -/
  | ACT_CODE
  /-- newest recorder SEQ already reported to the session (R540) -/
  | SUB_SEQ
  /-- entries of the section table of the package in the chart region (R91, R99) -/
  | SEC_N
  /-- the section table of the package in the chart region (R91, R99) -/
  | SEC_IMG
  /-- PARAM of a mailbox's command, its bytes as a little-endian number (R531, R532) -/
  | MB_PARAM
  /-- M_NONCE of a login begun in a mailbox (R552) -/
  | LG_NONCE
  /-- private half of the module's ephemeral key in that login (R552) -/
  | LG_EPH
  /-- session key of a session (R552) -/
  | SES_SK
  /-- UDP port the module listens on: 0 for inbound mailbox 0, 1 for mailboxes 1 to 15, 2 for the data port (R523) -/
  | UDP_PORT
  /-- bytes of a partial frame so far (R530) -/
  | SEG_BUF
  /-- number of those bytes (R530) -/
  | SEG_LEN
  /-- instant of its last segment (R530) -/
  | SEG_AT
  /-- instant of a session's last periodic report (R540) -/
  | SUB_AT
  /-- a session's last transfer ended early and has not been closed (R548) -/
  | DP_CUT
  /-- instant at which a CAN port began to listen on its candidate (R524) -/
  | CAN_AT
  /-- D_NONCE of the debug challenge (R490, R552) -/
  | DBG_NONCE
  /-- serial number of the module, as HELLO reports it (R614, R552) -/
  | SERIAL
  deriving DecidableEq, Repr

/-- Position, width, access code and reset value of each field of `HostFld`. -/
def HostFld.spec : HostFld → FSpec
  | .LIM => ⟨0, 32, .hid, fun _ _ => 0xFFFFFFFF⟩
  | .LIM_INST => ⟨0, 32, .hid, fun _ _ => 0xFFFFFFFF⟩
  | .LIM_MAKER => ⟨0, 32, .hid, fun _ _ => 0xFFFFFFFF⟩
  | .SES_ID => ⟨0, 32, .hid, fun _ _ => 0⟩
  | .SES_ROLE => ⟨0, 2, .hid, fun _ _ => 0⟩
  | .SES_KEY => ⟨0, 64, .hid, fun _ _ => 0⟩
  | .SES_PORT => ⟨0, 3, .hid, fun _ _ => 0⟩
  | .SES_IN => ⟨0, 32, .hid, fun _ _ => 0⟩
  | .SES_OUT => ⟨0, 32, .hid, fun _ _ => 0⟩
  | .SES_AT => ⟨0, 64, .hid, fun _ _ => 0⟩
  | .SES_VER => ⟨0, 8, .hid, fun _ _ => 0⟩
  | .SUB_MASK => ⟨0, 8, .hid, fun _ _ => 0⟩
  | .SUB_PERIOD => ⟨0, 16, .hid, fun _ _ => 0⟩
  | .SUB_TRACE => ⟨0, 16, .hid, fun _ _ => 0⟩
  | .PV => ⟨0, 8, .hid, fun _ _ => 0x34⟩
  | .MB_BUSY => ⟨0, 1, .hid, fun _ _ => 0⟩
  | .MB_RUN => ⟨0, 1, .hid, fun _ _ => 0⟩
  | .MB_SEEN => ⟨0, 1, .hid, fun _ _ => 0⟩
  | .MB_CODE => ⟨0, 16, .hid, fun _ _ => 0⟩
  | .MB_MTAG => ⟨0, 16, .hid, fun _ _ => 0⟩
  | .MB_PLEN => ⟨0, 9, .hid, fun _ _ => 0⟩
  | .MB_SES => ⟨0, 3, .hid, fun _ _ => 0⟩
  | .MB_PORT => ⟨0, 3, .hid, fun _ _ => 0⟩
  | .MB_ST => ⟨0, 8, .hid, fun _ _ => 0⟩
  | .MB_DET => ⟨0, 8, .hid, fun _ _ => 0⟩
  | .MB_AT => ⟨0, 64, .hid, fun _ _ => 0⟩
  | .LG_ON => ⟨0, 1, .hid, fun _ _ => 0⟩
  | .LG_ROLE => ⟨0, 2, .hid, fun _ _ => 0⟩
  | .LG_KEY => ⟨0, 64, .hid, fun _ _ => 0⟩
  | .LG_AT => ⟨0, 64, .hid, fun _ _ => 0⟩
  | .FAIL_AT => ⟨0, 64, .hid, fun _ _ => 0⟩
  | .BARRED => ⟨0, 1, .hid, fun _ _ => 0⟩
  | .KEY_ROLE => ⟨0, 2, .hid, fun _ _ => 0⟩
  | .KEY_ID => ⟨0, 64, .hid, fun _ _ => 0⟩
  | .KEY_X => ⟨0, 256, .hid, fun _ _ => 0⟩
  | .KEY_Y => ⟨0, 256, .hid, fun _ _ => 0⟩
  | .CERT => ⟨0, 16, .hid, fun _ _ => 0⟩
  | .TAG_ERR => ⟨0, 16, .hid, fun _ _ => 0⟩
  | .SEQ_ERR => ⟨0, 16, .hid, fun _ _ => 0⟩
  | .BUSY_CNT => ⟨0, 16, .hid, fun _ _ => 0⟩
  | .DROP_CNT => ⟨0, 16, .hid, fun _ _ => 0⟩
  | .LOGIN_FAIL => ⟨0, 16, .hid, fun _ _ => 0⟩
  | .FLAGS => ⟨0, 3, .hid, fun _ _ => 0⟩
  | .AUD_SEQ => ⟨0, 32, .hid, fun _ _ => 0⟩
  | .AUD_HASH => ⟨0, 256, .hid, fun _ _ => 0⟩
  | .AUD_BAR => ⟨0, 1, .hid, fun _ _ => 0⟩
  | .DP_OPEN => ⟨0, 1, .hid, fun _ _ => 0⟩
  | .DP_HANDLE => ⟨0, 16, .hid, fun _ _ => 0⟩
  | .DP_ADDR => ⟨0, 40, .hid, fun _ _ => 0⟩
  | .DP_START => ⟨0, 40, .hid, fun _ _ => 0⟩
  | .DP_INC => ⟨0, 4, .hid, fun _ _ => 0⟩
  | .DP_DIR => ⟨0, 1, .hid, fun _ _ => 0⟩
  | .DP_BIDX => ⟨0, 32, .hid, fun _ _ => 0⟩
  | .DP_COUNT => ⟨0, 64, .hid, fun _ _ => 0⟩
  | .DP_HIGH => ⟨0, 40, .hid, fun _ _ => 0⟩
  | .SLOT_PTR => ⟨0, 1, .hid, fun _ _ => 0⟩
  | .PKG_FULL => ⟨0, 1, .hid, fun _ _ => 0⟩
  | .PKG_SIZE => ⟨0, 32, .hid, fun _ _ => 0⟩
  | .FLOOR => ⟨0, 32, .hid, fun _ _ => 0⟩
  | .ACT_ON => ⟨0, 1, .hid, fun _ _ => 0⟩
  | .ACT_SLOT => ⟨0, 1, .hid, fun _ _ => 0⟩
  | .ACT_STEP => ⟨0, 3, .hid, fun _ _ => 0⟩
  | .ACT_OLD => ⟨0, 1, .hid, fun _ _ => 0⟩
  | .ACT_OLDS => ⟨0, 1, .hid, fun _ _ => 0⟩
  | .ACT_SAVE => ⟨0, 7, .hid, fun _ _ => 0⟩
  | .FW_SLOT => ⟨0, 1, .hid, fun _ _ => 0⟩
  | .FW_FULL => ⟨0, 1, .hid, fun _ _ => 0⟩
  | .DIRN_HELD => ⟨0, 16, .hid, fun _ _ => 0⟩
  | .SPLIT => ⟨0, 8, .hid, fun _ _ => 0⟩
  | .DBG_REQ => ⟨0, 1, .hid, fun _ _ => 0⟩
  | .DBG_AT => ⟨0, 64, .hid, fun _ _ => 0⟩
  | .CAN_CAND => ⟨0, 2, .hid, fun _ _ => 0⟩
  | .CAN_SET => ⟨0, 1, .hid, fun _ _ => 0⟩
  | .CAN_FMT => ⟨0, 4, .hid, fun _ _ => 0⟩
  | .SEG_ON => ⟨0, 1, .hid, fun _ _ => 0⟩
  | .SEG_IX => ⟨0, 6, .hid, fun _ _ => 0⟩
  | .DRV_ALIVE => ⟨0, 9, .hid, fun _ _ => 0⟩
  | .TS_AT => ⟨0, 64, .hid, fun _ _ => 0⟩
  | .HELD_LOADED => ⟨0, 1, .hid, fun _ _ => 0⟩
  | .HELD_SLOT => ⟨0, 1, .hid, fun _ _ => 0⟩
  | .LAST_HANDLE => ⟨0, 16, .hid, fun _ _ => 0⟩
  | .MB_VAL => ⟨0, 2112, .hid, fun _ _ => 0⟩
  | .MB_LAST => ⟨0, 4, .hid, fun _ _ => 0⟩
  | .MB_PAR => ⟨0, 64, .hid, fun _ _ => 0⟩
  | .ACT_KIND => ⟨0, 3, .hid, fun _ _ => 0⟩
  | .ACT_CODE => ⟨0, 8, .hid, fun _ _ => 0⟩
  | .SUB_SEQ => ⟨0, 32, .hid, fun _ _ => 0⟩
  | .SEC_N => ⟨0, 7, .hid, fun _ _ => 0⟩
  | .SEC_IMG => ⟨0, 24576, .hid, fun _ _ => 0⟩
  | .MB_PARAM => ⟨0, 2048, .hid, fun _ _ => 0⟩
  | .LG_NONCE => ⟨0, 256, .hid, fun _ _ => 0⟩
  | .LG_EPH => ⟨0, 256, .hid, fun _ _ => 0⟩
  | .SES_SK => ⟨0, 128, .hid, fun _ _ => 0⟩
  | .UDP_PORT => ⟨0, 16, .hid, fun i _ => ([47110, 47100, 47101].getD i 0)⟩
  | .SEG_BUF => ⟨0, 4096, .hid, fun _ _ => 0⟩
  | .SEG_LEN => ⟨0, 10, .hid, fun _ _ => 0⟩
  | .SEG_AT => ⟨0, 64, .hid, fun _ _ => 0⟩
  | .SUB_AT => ⟨0, 64, .hid, fun _ _ => 0⟩
  | .DP_CUT => ⟨0, 1, .hid, fun _ _ => 0⟩
  | .CAN_AT => ⟨0, 64, .hid, fun _ _ => 0⟩
  | .DBG_NONCE => ⟨0, 256, .hid, fun _ _ => 0⟩
  | .SERIAL => ⟨0, 64, .hid, fun _ _ => 0⟩

/-- Every numeric quantity of the device, by island. -/
inductive Fld where
  | saf (f : SafFld)
  | ifc (f : IfcFld)
  | loop (f : LoopFld)
  | edge (f : EdgeFld)
  | grd (f : GrdFld)
  | sns (f : SnsFld)
  | mem (f : MemFld)
  | act (f : ActFld)
  | aon (f : AonFld)
  | drv (f : DrvFld)
  | host (f : HostFld)
  deriving DecidableEq, Repr

/-- Position, width, access code and reset value of a field. -/
def Fld.spec : Fld → FSpec
  | .saf f => f.spec
  | .ifc f => f.spec
  | .loop f => f.spec
  | .edge f => f.spec
  | .grd f => f.spec
  | .sns f => f.spec
  | .mem f => f.spec
  | .act f => f.spec
  | .aon f => f.spec
  | .drv f => f.spec
  | .host f => f.spec

/-- The number under which the state files a field: islands apart by thousands. -/
def Fld.key : Fld → Nat
  | .saf f => 0 + f.ctorIdx
  | .ifc f => 1000 + f.ctorIdx
  | .loop f => 2000 + f.ctorIdx
  | .edge f => 3000 + f.ctorIdx
  | .grd f => 4000 + f.ctorIdx
  | .sns f => 5000 + f.ctorIdx
  | .mem f => 6000 + f.ctorIdx
  | .act f => 7000 + f.ctorIdx
  | .aon f => 8000 + f.ctorIdx
  | .drv f => 9000 + f.ctorIdx
  | .host f => 10000 + f.ctorIdx

end Sys2Proof.Machine
end

