-- ==== Sys2Proof/Machine/RegMap.lean ====
section
/-!
DEFINITION. The register map: for every register heading of spec/ its address, its index strides and the fields it
holds (R4, R48). The identity registers of R23 are constants and are answered apart.
-/
namespace Sys2Proof.Machine

/-- A field in a register word: bit position, and what is added to the register's two indices. -/
structure Place where
  f : Fld
  lo : Nat
  di : Nat
  dj : Nat

/-- A register heading: base address, up to three index dimensions (count, stride), first index, fields. -/
structure RegRow where
  base : Nat
  n1 : Nat
  s1 : Nat
  n2 : Nat
  s2 : Nat
  n3 : Nat
  s3 : Nat
  i0 : Nat
  places : List Place

/-- Registers of SAF, part 0: SAF_ISL[n]_CTRL, SAF_ISL[n]_STAT, SAF_ISL[n]_SERR, SAF_ISL[n]_DEP, SAF_MODE_GRP[m], SAF_AXLE_MODE, SAF_XOVER[k], SAF_SPDSRC[k], SAF_TMR_STAT, SAF_CP[p], SAF_FW_RGN[r]_BASE, SAF_FW_RGN[r]_LIM, SAF_VIOL, SAF_VIOL_ADDR, SAF_WD[w]_CFG, SAF_WD[w]_KICK, SAF_WD[w]_STAT, SAF_ESC, SAF_LOCK, SAF_CD[c]_CFG, SAF_CD[c]_STAT, SAF_CSEQ, SAF_DBG, SAF_STOP_CFG, SAF_STOP_STAT. -/
def safRegs0 : List RegRow := [
  ⟨0x1000000100, 14, 16, 1, 0, 1, 0, 0, [⟨.saf .ISL_CTRL_REQ_STATE, 0, 0, 0⟩, ⟨.saf .ISL_CTRL_FORCE, 4, 0, 0⟩]⟩,
  ⟨0x1000000104, 14, 16, 1, 0, 1, 0, 0, [⟨.saf .ISL_STAT_STATE, 0, 0, 0⟩, ⟨.saf .ISL_STAT_BUSY, 3, 0, 0⟩, ⟨.saf .ISL_STAT_DRAINED, 4, 0, 0⟩, ⟨.saf .ISL_STAT_CLOSED_SEEN, 8, 0, 0⟩, ⟨.saf .ISL_STAT_TIMEOUT, 9, 0, 0⟩, ⟨.saf .ISL_STAT_PARITY, 10, 0, 0⟩, ⟨.saf .ISL_STAT_REFUSED, 11, 0, 0⟩]⟩,
  ⟨0x1000000108, 14, 16, 1, 0, 1, 0, 0, [⟨.saf .ISL_SERR_PAR_CNT, 0, 0, 0⟩, ⟨.saf .ISL_SERR_TMO_CNT, 16, 0, 0⟩]⟩,
  ⟨0x100000010c, 14, 16, 1, 0, 1, 0, 0, [⟨.saf .ISL_DEP, 0, 0, 0⟩]⟩,
  ⟨0x10000000c0, 7, 4, 1, 0, 1, 0, 0, [⟨.saf .MODE_GRP, 0, 0, 0⟩]⟩,
  ⟨0x1000000080, 1, 0, 1, 0, 1, 0, 0, [⟨.saf .AXLE_MODE_MODE, 0, 0, 0⟩, ⟨.saf .AXLE_MODE_PREV, 4, 0, 0⟩, ⟨.saf .AXLE_MODE_BUSY, 8, 0, 0⟩, ⟨.saf .AXLE_MODE_REFUSED, 9, 0, 0⟩, ⟨.saf .AXLE_MODE_CAUSE, 16, 0, 0⟩]⟩,
  ⟨0x1000000300, 2, 4, 1, 0, 1, 0, 0, [⟨.saf .XOVER_XOVER, 0, 0, 0⟩, ⟨.saf .XOVER_GRPS, 16, 0, 0⟩]⟩,
  ⟨0x1000000308, 2, 4, 1, 0, 1, 0, 0, [⟨.saf .SPDSRC_ENG_RES, 0, 0, 0⟩, ⟨.saf .SPDSRC_SLOT_RES, 4, 0, 0⟩, ⟨.saf .SPDSRC_ENG_EMF, 8, 0, 0⟩, ⟨.saf .SPDSRC_SLOT_EMF, 12, 0, 0⟩, ⟨.saf .SPDSRC_VALID_RES, 16, 0, 0⟩, ⟨.saf .SPDSRC_VALID_EMF, 17, 0, 0⟩, ⟨.saf .SPDSRC_DISAGREE, 18, 0, 0⟩, ⟨.saf .SPDSRC_STALE, 19, 0, 0⟩]⟩,
  ⟨0x1000000010, 1, 0, 1, 0, 1, 0, 0, [⟨.saf .TMR_STAT_MODE, 0, 0, 0⟩, ⟨.saf .TMR_STAT_ODD, 2, 0, 0⟩, ⟨.saf .TMR_STAT_RETIRED, 4, 0, 0⟩, ⟨.saf .TMR_STAT_MISMATCH, 8, 0, 0⟩, ⟨.saf .TMR_STAT_RESYNC_SEEN, 9, 0, 0⟩, ⟨.saf .TMR_STAT_KIND, 10, 0, 0⟩, ⟨.saf .TMR_STAT_RESYNC_CNT, 16, 0, 0⟩]⟩,
  ⟨0x1000000200, 8, 4, 1, 0, 1, 0, 0, [⟨.saf .CP_STATE, 0, 0, 0⟩, ⟨.saf .CP_DBG_HALT, 2, 0, 0⟩, ⟨.saf .CP_MISMATCH, 8, 0, 0⟩, ⟨.saf .CP_GRPS, 16, 0, 0⟩]⟩,
  ⟨0x1000000800, 8, 8, 1, 0, 1, 0, 0, [⟨.saf .FW_RGN_BASE_ADDR, 0, 0, 0⟩, ⟨.saf .FW_RGN_BASE_EN, 31, 0, 0⟩]⟩,
  ⟨0x1000000804, 8, 8, 1, 0, 1, 0, 0, [⟨.saf .FW_RGN_LIM, 0, 0, 0⟩]⟩,
  ⟨0x1000000030, 1, 0, 1, 0, 1, 0, 0, [⟨.saf .VIOL_TYPE, 0, 0, 0⟩, ⟨.saf .VIOL_INIT, 8, 0, 0⟩, ⟨.saf .VIOL_AHI, 16, 0, 0⟩, ⟨.saf .VIOL_VALID, 24, 0, 0⟩]⟩,
  ⟨0x1000000034, 1, 0, 1, 0, 1, 0, 0, [⟨.saf .VIOL_ADDR, 0, 0, 0⟩]⟩,
  ⟨0x1000000400, 16, 16, 1, 0, 1, 0, 0, [⟨.saf .WD_CFG_EN, 0, 0, 0⟩, ⟨.saf .WD_CFG_REACT, 1, 0, 0⟩, ⟨.saf .WD_CFG_KIND, 3, 0, 0⟩, ⟨.saf .WD_CFG_MLIM, 4, 0, 0⟩, ⟨.saf .WD_CFG_OPEN, 8, 0, 0⟩, ⟨.saf .WD_CFG_CLOSE, 20, 0, 0⟩]⟩,
  ⟨0x1000000404, 16, 16, 1, 0, 1, 0, 0, [⟨.saf .WD_KICK_TOKEN, 0, 0, 0⟩, ⟨.saf .WD_KICK_KEY, 16, 0, 0⟩]⟩,
  ⟨0x1000000408, 16, 16, 1, 0, 1, 0, 0, [⟨.saf .WD_STAT_MRUN, 0, 0, 0⟩, ⟨.saf .WD_STAT_MISS, 4, 0, 0⟩, ⟨.saf .WD_STAT_FIRED, 5, 0, 0⟩, ⟨.saf .WD_STAT_MCNT, 16, 0, 0⟩]⟩,
  ⟨0x1000000040, 1, 0, 1, 0, 1, 0, 0, [⟨.saf .ESC_TMO_REACT, 0, 0, 0⟩, ⟨.saf .ESC_PAR_REACT, 2, 0, 0⟩, ⟨.saf .ESC_PAR_LIM, 8, 0, 0⟩, ⟨.saf .ESC_GFI_HOLD, 16, 0, 0⟩]⟩,
  ⟨0x1000000020, 1, 0, 1, 0, 1, 0, 0, [⟨.saf .LOCK_LOCK, 0, 0, 0⟩, ⟨.saf .LOCK_WINDOW, 1, 0, 0⟩, ⟨.saf .LOCK_ISL_LOCK, 16, 0, 0⟩]⟩,
  ⟨0x1000000500, 8, 16, 1, 0, 1, 0, 0, [⟨.saf .CD_CFG_ORDER, 0, 0, 0⟩, ⟨.saf .CD_CFG_PULL, 4, 0, 0⟩, ⟨.saf .CD_CFG_HOLD, 8, 0, 0⟩, ⟨.saf .CD_CFG_MODES, 16, 0, 0⟩]⟩,
  ⟨0x1000000504, 8, 16, 1, 0, 1, 0, 0, [⟨.saf .CD_STAT_ON, 0, 0, 0⟩, ⟨.saf .CD_STAT_HOLDING, 1, 0, 0⟩, ⟨.saf .CD_STAT_OPEN_LOAD, 8, 0, 0⟩, ⟨.saf .CD_STAT_SHORT, 9, 0, 0⟩, ⟨.saf .CD_STAT_REFUSED, 10, 0, 0⟩, ⟨.saf .CD_STAT_CLOSES, 16, 0, 0⟩]⟩,
  ⟨0x1000000580, 1, 0, 1, 0, 1, 0, 0, [⟨.saf .CSEQ_PSTATE, 0, 0, 0⟩, ⟨.saf .CSEQ_GAP, 8, 0, 0⟩, ⟨.saf .CSEQ_PRE_TOL, 16, 0, 0⟩, ⟨.saf .CSEQ_PRE_TMO, 24, 0, 0⟩]⟩,
  ⟨0x1000000060, 1, 0, 1, 0, 1, 0, 0, [⟨.saf .DBG_UNLOCKED, 0, 0, 0⟩, ⟨.saf .DBG_REFUSED, 8, 0, 0⟩]⟩,
  ⟨0x1000000070, 1, 0, 1, 0, 1, 0, 0, [⟨.saf .STOP_CFG_ID, 0, 0, 0⟩, ⟨.saf .STOP_CFG_IDE, 29, 0, 0⟩, ⟨.saf .STOP_CFG_EN, 30, 0, 0⟩]⟩,
  ⟨0x1000000074, 1, 0, 1, 0, 1, 0, 0, [⟨.saf .STOP_STAT_NBR, 0, 0, 0⟩, ⟨.saf .STOP_STAT_SEEN, 8, 0, 0⟩, ⟨.saf .STOP_STAT_BAD, 9, 0, 0⟩, ⟨.saf .STOP_STAT_CNT, 16, 0, 0⟩]⟩]

/-- Registers of SAF, part 1: SAF_STEST, SAF_STEST_FAIL. -/
def safRegs1 : List RegRow := [
  ⟨0x1000000090, 1, 0, 1, 0, 1, 0, 0, [⟨.saf .STEST_DEPTH, 0, 0, 0⟩, ⟨.saf .STEST_RUNNING, 2, 0, 0⟩, ⟨.saf .STEST_PASS, 3, 0, 0⟩, ⟨.saf .STEST_DUE, 8, 0, 0⟩, ⟨.saf .STEST_AGE, 16, 0, 0⟩]⟩,
  ⟨0x1000000094, 1, 0, 1, 0, 1, 0, 0, [⟨.saf .STEST_FAIL, 0, 0, 0⟩]⟩]

/-- Registers of LOOP, part 0: LOOP_CHART_CTRL, LOOP_CHART_BASE[k], LOOP_CHART_STAT, LOOP_CHART_CNT[k], LOOP_LE[n]_IPMAP[p], LOOP_LE[n]_OPMAP[p], LOOP_LE[n]_IPFRESH, LOOP_LE[n]_CTRL, LOOP_LE[n]_STAT, LOOP_LE[n]_DEP, LOOP_LE[n]_SCHED_CTRL, LOOP_LE[n]_SCHED_STAT, LOOP_LE[n]_LS[k]_CFG, LOOP_LE[n]_LS[k]_SLEW, LOOP_LE[n]_LS[k]_GAINCFG, LOOP_LE[n]_LS[k]_LIMIT, LOOP_LE[n]_LS[k]_KP, LOOP_LE[n]_LS[k]_KI, LOOP_LE[n]_LS[k]_KD, LOOP_LE[n]_LS[k]_KT, LOOP_LE[n]_LS[k]_SFPTR, LOOP_LE[n]_LS[k]_MISS, LOOP_LE[n]_LS[k]_STAT, LOOP_LE[n]_LS[k]_CTRL, LOOP_LE[n]_LS[k]_SP. -/
def loopRegs0 : List RegRow := [
  ⟨0x1031000010, 1, 0, 1, 0, 1, 0, 0, [⟨.loop .CHART_CTRL_EN_A, 0, 0, 0⟩, ⟨.loop .CHART_CTRL_EN_B, 1, 0, 0⟩, ⟨.loop .CHART_CTRL_PREFETCH, 2, 0, 0⟩, ⟨.loop .CHART_CTRL_INVAL, 3, 0, 0⟩, ⟨.loop .CHART_CTRL_LOOKAHEAD, 16, 0, 0⟩]⟩,
  ⟨0x1031000020, 2, 4, 1, 0, 1, 0, 0, [⟨.loop .CHART_BASE, 0, 0, 0⟩]⟩,
  ⟨0x1031000030, 1, 0, 1, 0, 1, 0, 0, [⟨.loop .CHART_STAT_LOADED, 0, 0, 0⟩, ⟨.loop .CHART_STAT_WARM_A, 1, 0, 0⟩, ⟨.loop .CHART_STAT_WARM_B, 2, 0, 0⟩, ⟨.loop .CHART_STAT_CHART_WARM, 3, 0, 0⟩, ⟨.loop .CHART_STAT_SLOT, 4, 0, 0⟩, ⟨.loop .CHART_STAT_NODE_ERR, 8, 0, 0⟩, ⟨.loop .CHART_STAT_LATE, 9, 0, 0⟩, ⟨.loop .CHART_STAT_CLAMP, 10, 0, 0⟩, ⟨.loop .CHART_STAT_FILL_CLOSED, 11, 0, 0⟩]⟩,
  ⟨0x1031000040, 2, 4, 1, 0, 1, 0, 0, [⟨.loop .CHART_CNT_STALLS, 0, 0, 0⟩, ⟨.loop .CHART_CNT_MAX_STALL, 16, 0, 0⟩, ⟨.loop .CHART_CNT_LATE_CNT, 24, 0, 0⟩]⟩,
  ⟨0x1030000100, 16, 1048576, 32, 4, 1, 0, 0, [⟨.loop .IPMAP_KIND, 0, 0, 0⟩, ⟨.loop .IPMAP_CHAN, 4, 0, 0⟩, ⟨.loop .IPMAP_ENG, 9, 0, 0⟩]⟩,
  ⟨0x1030000180, 16, 1048576, 32, 4, 1, 0, 0, [⟨.loop .OPMAP_DEST, 0, 0, 0⟩, ⟨.loop .OPMAP_CHAN, 4, 0, 0⟩]⟩,
  ⟨0x1030000018, 16, 1048576, 1, 0, 1, 0, 0, [⟨.loop .IPFRESH, 0, 0, 0⟩]⟩,
  ⟨0x1030000000, 16, 1048576, 1, 0, 1, 0, 0, [⟨.loop .LE_CTRL_EN, 0, 0, 0⟩, ⟨.loop .LE_CTRL_FORCE, 1, 0, 0⟩, ⟨.loop .LE_CTRL_DOMAIN, 5, 0, 0⟩, ⟨.loop .LE_CTRL_FDIV, 8, 0, 0⟩, ⟨.loop .LE_CTRL_FAULT_CLR, 12, 0, 0⟩]⟩,
  ⟨0x1030000004, 16, 1048576, 1, 0, 1, 0, 0, [⟨.loop .LE_STAT_STATE, 0, 0, 0⟩, ⟨.loop .LE_STAT_FRAME_OK, 3, 0, 0⟩, ⟨.loop .LE_STAT_PORT_CLOSED, 8, 0, 0⟩, ⟨.loop .LE_STAT_ILLEGAL, 9, 0, 0⟩, ⟨.loop .LE_STAT_ECC_CORR, 10, 0, 0⟩, ⟨.loop .LE_STAT_ECC_FATAL, 11, 0, 0⟩, ⟨.loop .LE_STAT_START_ERR, 12, 0, 0⟩, ⟨.loop .LE_STAT_DIS_REFUSED, 13, 0, 0⟩, ⟨.loop .LE_STAT_STACK, 14, 0, 0⟩, ⟨.loop .LE_STAT_CFG_BUSY, 15, 0, 0⟩, ⟨.loop .LE_STAT_FCNT, 16, 0, 0⟩]⟩,
  ⟨0x1030000008, 16, 1048576, 1, 0, 1, 0, 0, [⟨.loop .LE_DEP, 0, 0, 0⟩]⟩,
  ⟨0x1030000010, 16, 1048576, 1, 0, 1, 0, 0, [⟨.loop .SCHED_CTRL, 0, 0, 0⟩]⟩,
  ⟨0x1030000014, 16, 1048576, 1, 0, 1, 0, 0, [⟨.loop .SCHED_STAT_ACTIVE, 0, 0, 0⟩, ⟨.loop .SCHED_STAT_COMMIT_PEND, 1, 0, 0⟩, ⟨.loop .SCHED_STAT_SLOT_BUSY, 8, 0, 0⟩, ⟨.loop .SCHED_STAT_SCHED_ERR, 9, 0, 0⟩, ⟨.loop .SCHED_STAT_LATE_COMMIT, 10, 0, 0⟩, ⟨.loop .SCHED_STAT_ERR_CODE, 16, 0, 0⟩]⟩,
  ⟨0x1030000400, 16, 1048576, 8, 256, 1, 0, 0, [⟨.loop .LS_CFG_EN, 0, 0, 0⟩, ⟨.loop .LS_CFG_LAW, 1, 0, 0⟩, ⟨.loop .LS_CFG_SP_PORT, 4, 0, 0⟩, ⟨.loop .LS_CFG_FB_PORT, 9, 0, 0⟩, ⟨.loop .LS_CFG_PRE_PORT, 14, 0, 0⟩, ⟨.loop .LS_CFG_PRE_EN, 19, 0, 0⟩, ⟨.loop .LS_CFG_OPORT, 20, 0, 0⟩, ⟨.loop .LS_CFG_OEN, 25, 0, 0⟩]⟩,
  ⟨0x1030000404, 16, 1048576, 8, 256, 1, 0, 0, [⟨.loop .LS_SLEW_RISE, 0, 0, 0⟩, ⟨.loop .LS_SLEW_FALL, 16, 0, 0⟩]⟩,
  ⟨0x1030000408, 16, 1048576, 8, 256, 1, 0, 0, [⟨.loop .LS_GAINCFG_SCALE, 0, 0, 0⟩, ⟨.loop .LS_GAINCFG_GT_EN, 4, 0, 0⟩, ⟨.loop .LS_GAINCFG_APPLY_KI, 5, 0, 0⟩, ⟨.loop .LS_GAINCFG_DFILT, 16, 0, 0⟩]⟩,
  ⟨0x103000040c, 16, 1048576, 8, 256, 1, 0, 0, [⟨.loop .LS_LIMIT_OMIN, 0, 0, 0⟩, ⟨.loop .LS_LIMIT_OMAX, 16, 0, 0⟩]⟩,
  ⟨0x1030000410, 16, 1048576, 8, 256, 1, 0, 0, [⟨.loop .LS_KP, 0, 0, 0⟩]⟩,
  ⟨0x1030000414, 16, 1048576, 8, 256, 1, 0, 0, [⟨.loop .LS_KI, 0, 0, 0⟩]⟩,
  ⟨0x1030000418, 16, 1048576, 8, 256, 1, 0, 0, [⟨.loop .LS_KD, 0, 0, 0⟩]⟩,
  ⟨0x103000041c, 16, 1048576, 8, 256, 1, 0, 0, [⟨.loop .LS_KT, 0, 0, 0⟩]⟩,
  ⟨0x1030000420, 16, 1048576, 8, 256, 1, 0, 0, [⟨.loop .LS_SFPTR_ADDR, 0, 0, 0⟩, ⟨.loop .LS_SFPTR_NSM1, 16, 0, 0⟩]⟩,
  ⟨0x1030000424, 16, 1048576, 8, 256, 1, 0, 0, [⟨.loop .LS_MISS_MISS_LIM, 0, 0, 0⟩, ⟨.loop .LS_MISS_MISS_RUN, 8, 0, 0⟩, ⟨.loop .LS_MISS_MISS_CNT, 16, 0, 0⟩]⟩,
  ⟨0x1030000428, 16, 1048576, 8, 256, 1, 0, 0, [⟨.loop .LS_STAT_APPLY_PEND, 0, 0, 0⟩, ⟨.loop .LS_STAT_FIRST, 1, 0, 0⟩, ⟨.loop .LS_STAT_SAT_HI, 2, 0, 0⟩, ⟨.loop .LS_STAT_SAT_LO, 3, 0, 0⟩, ⟨.loop .LS_STAT_WINNER, 4, 0, 0⟩, ⟨.loop .LS_STAT_NOPRESET, 5, 0, 0⟩, ⟨.loop .LS_STAT_CFG_ERR, 6, 0, 0⟩, ⟨.loop .LS_STAT_MISS, 7, 0, 0⟩, ⟨.loop .LS_STAT_MISS_CAUSE, 8, 0, 0⟩, ⟨.loop .LS_STAT_PFLAG, 11, 0, 0⟩, ⟨.loop .LS_STAT_U, 16, 0, 0⟩]⟩,
  ⟨0x103000042c, 16, 1048576, 8, 256, 1, 0, 0, [⟨.loop .LS_CTRL_APPLY, 0, 0, 0⟩, ⟨.loop .LS_CTRL_REPRIME, 1, 0, 0⟩]⟩,
  ⟨0x1030000430, 16, 1048576, 8, 256, 1, 0, 0, [⟨.loop .LS_SP_SP, 0, 0, 0⟩, ⟨.loop .LS_SP_TARGET, 16, 0, 0⟩]⟩]

/-- Registers of LOOP, part 1: LOOP_LE[n]_LS[k]_INTEG, LOOP_LE[n]_LS[k]_ENTRY, LOOP_LE[n]_LS[k]_GT[j], LOOP_LE[n]_GRP[g], LOOP_LE[n]_LS[k]_PM_CFG, LOOP_LE[n]_LS[k]_PM_A1, LOOP_LE[n]_LS[k]_PM_A2, LOOP_LE[n]_LS[k]_PM_B1, LOOP_LE[n]_LS[k]_PM_B2, LOOP_LE[n]_LS[k]_PM_THR, LOOP_LE[n]_LS[k]_PM_STAT, LOOP_LE[n]_LS[k]_PM_RES, LOOP_PM_RPT, LOOP_LE[n]_TRC_CTRL, LOOP_LE[n]_TRC_TRIG, LOOP_LE[n]_TRC_POST, LOOP_LE[n]_TRC_STAT, LOOP_LE[n]_TRC_TPOS, LOOP_LE[n]_TRC_SIG[i], LOOP_TRC_THROTTLE, LOOP_LE[n]_INJ_CTRL, LOOP_LE[n]_INJ_F0, LOOP_LE[n]_INJ_F1, LOOP_LE[n]_INJ_LEN, LOOP_LE[n]_INJ_PRBS. -/
def loopRegs1 : List RegRow := [
  ⟨0x1030000434, 16, 1048576, 8, 256, 1, 0, 0, [⟨.loop .LS_INTEG, 0, 0, 0⟩]⟩,
  ⟨0x1030000438, 16, 1048576, 8, 256, 1, 0, 0, [⟨.loop .LS_ENTRY_ADDR, 0, 0, 0⟩, ⟨.loop .LS_ENTRY_VALID, 12, 0, 0⟩]⟩,
  ⟨0x1030000480, 16, 1048576, 8, 256, 32, 4, 0, [⟨.loop .LS_GT_G_LO, 0, 0, 0⟩, ⟨.loop .LS_GT_G_HI, 16, 0, 0⟩]⟩,
  ⟨0x1030000c00, 16, 1048576, 4, 4, 1, 0, 0, [⟨.loop .GRP_MODE, 0, 0, 0⟩, ⟨.loop .GRP_NEGATE, 2, 0, 0⟩, ⟨.loop .GRP_MEMBERS, 4, 0, 0⟩, ⟨.loop .GRP_OUTER, 12, 0, 0⟩, ⟨.loop .GRP_INNER, 16, 0, 0⟩, ⟨.loop .GRP_NM1, 20, 0, 0⟩, ⟨.loop .GRP_OPORT, 26, 0, 0⟩, ⟨.loop .GRP_OEN, 31, 0, 0⟩]⟩,
  ⟨0x1030000440, 16, 1048576, 8, 256, 1, 0, 0, [⟨.loop .LS_PM_CFG_FORM, 0, 0, 0⟩, ⟨.loop .LS_PM_CFG_REACT, 4, 0, 0⟩, ⟨.loop .LS_PM_CFG_MEAS_PORT, 8, 0, 0⟩, ⟨.loop .LS_PM_CFG_PRED_PORT, 13, 0, 0⟩, ⟨.loop .LS_PM_CFG_CFIELD, 18, 0, 0⟩, ⟨.loop .LS_PM_CFG_RSHIFT, 20, 0, 0⟩, ⟨.loop .LS_PM_CFG_PRIME, 24, 0, 0⟩]⟩,
  ⟨0x1030000444, 16, 1048576, 8, 256, 1, 0, 0, [⟨.loop .LS_PM_A1, 0, 0, 0⟩]⟩,
  ⟨0x1030000448, 16, 1048576, 8, 256, 1, 0, 0, [⟨.loop .LS_PM_A2, 0, 0, 0⟩]⟩,
  ⟨0x103000044c, 16, 1048576, 8, 256, 1, 0, 0, [⟨.loop .LS_PM_B1, 0, 0, 0⟩]⟩,
  ⟨0x1030000450, 16, 1048576, 8, 256, 1, 0, 0, [⟨.loop .LS_PM_B2, 0, 0, 0⟩]⟩,
  ⟨0x1030000454, 16, 1048576, 8, 256, 1, 0, 0, [⟨.loop .LS_PM_THR_THR, 0, 0, 0⟩, ⟨.loop .LS_PM_THR_CNT, 16, 0, 0⟩]⟩,
  ⟨0x1030000458, 16, 1048576, 8, 256, 1, 0, 0, [⟨.loop .LS_PM_STAT_LOOP_UNPRIMED, 0, 0, 0⟩, ⟨.loop .LS_PM_STAT_HOLDING, 1, 0, 0⟩, ⟨.loop .LS_PM_STAT_SUSPENDED, 2, 0, 0⟩, ⟨.loop .LS_PM_STAT_VIOL, 8, 0, 0⟩, ⟨.loop .LS_PM_STAT_RESEED, 9, 0, 0⟩, ⟨.loop .LS_PM_STAT_RUN, 16, 0, 0⟩, ⟨.loop .LS_PM_STAT_PRIME_LEFT, 24, 0, 0⟩]⟩,
  ⟨0x103000045c, 16, 1048576, 8, 256, 1, 0, 0, [⟨.loop .LS_PM_RES_RES_F, 0, 0, 0⟩, ⟨.loop .LS_PM_RES_PRED, 16, 0, 0⟩]⟩,
  ⟨0x103100008c, 1, 0, 1, 0, 1, 0, 0, [⟨.loop .PM_RPT, 0, 0, 0⟩]⟩,
  ⟨0x1030000d00, 16, 1048576, 1, 0, 1, 0, 0, [⟨.loop .TRC_CTRL_MODE, 0, 0, 0⟩, ⟨.loop .TRC_CTRL_TSLOT, 2, 0, 0⟩, ⟨.loop .TRC_CTRL_NSIGM1, 8, 0, 0⟩, ⟨.loop .TRC_CTRL_DEC, 16, 0, 0⟩]⟩,
  ⟨0x1030000d04, 16, 1048576, 1, 0, 1, 0, 0, [⟨.loop .TRC_TRIG_TSRC, 0, 0, 0⟩, ⟨.loop .TRC_TRIG_TSIG, 4, 0, 0⟩, ⟨.loop .TRC_TRIG_LEVEL, 16, 0, 0⟩]⟩,
  ⟨0x1030000d08, 16, 1048576, 1, 0, 1, 0, 0, [⟨.loop .TRC_POST_POST, 0, 0, 0⟩, ⟨.loop .TRC_POST_ARM, 16, 0, 0⟩, ⟨.loop .TRC_POST_FORCE, 17, 0, 0⟩]⟩,
  ⟨0x1030000d0c, 16, 1048576, 1, 0, 1, 0, 0, [⟨.loop .TRC_STAT_ARMED, 0, 0, 0⟩, ⟨.loop .TRC_STAT_TRIGGERED, 1, 0, 0⟩, ⟨.loop .TRC_STAT_DONE, 2, 0, 0⟩, ⟨.loop .TRC_STAT_STREAMING, 3, 0, 0⟩, ⟨.loop .TRC_STAT_OVERRUN, 8, 0, 0⟩, ⟨.loop .TRC_STAT_STREAM_CLOSED, 9, 0, 0⟩, ⟨.loop .TRC_STAT_WPTR, 16, 0, 0⟩]⟩,
  ⟨0x1030000d10, 16, 1048576, 1, 0, 1, 0, 0, [⟨.loop .TRC_TPOS_TPOS, 0, 0, 0⟩, ⟨.loop .TRC_TPOS_DROPPED, 16, 0, 0⟩]⟩,
  ⟨0x1030000d40, 16, 1048576, 16, 4, 1, 0, 0, [⟨.loop .TRC_SIG_KIND, 0, 0, 0⟩, ⟨.loop .TRC_SIG_INDEX, 4, 0, 0⟩, ⟨.loop .TRC_SIG_SLOT, 9, 0, 0⟩, ⟨.loop .TRC_SIG_HIGH, 12, 0, 0⟩, ⟨.loop .TRC_SIG_ADDR, 13, 0, 0⟩]⟩,
  ⟨0x1031000080, 1, 0, 1, 0, 1, 0, 0, [⟨.loop .TRC_THROTTLE_STREAM_EN, 0, 0, 0⟩, ⟨.loop .TRC_THROTTLE_MAXBLK, 16, 0, 0⟩]⟩,
  ⟨0x1030000e00, 16, 1048576, 1, 0, 1, 0, 0, [⟨.loop .INJ_CTRL_START, 0, 0, 0⟩, ⟨.loop .INJ_CTRL_STOP, 1, 0, 0⟩, ⟨.loop .INJ_CTRL_SLOT, 4, 0, 0⟩, ⟨.loop .INJ_CTRL_POINT, 8, 0, 0⟩, ⟨.loop .INJ_CTRL_SIG, 12, 0, 0⟩, ⟨.loop .INJ_CTRL_AMP, 16, 0, 0⟩]⟩,
  ⟨0x1030000e04, 16, 1048576, 1, 0, 1, 0, 0, [⟨.loop .INJ_F0, 0, 0, 0⟩]⟩,
  ⟨0x1030000e08, 16, 1048576, 1, 0, 1, 0, 0, [⟨.loop .INJ_F1, 0, 0, 0⟩]⟩,
  ⟨0x1030000e0c, 16, 1048576, 1, 0, 1, 0, 0, [⟨.loop .INJ_LEN, 0, 0, 0⟩]⟩,
  ⟨0x1030000e10, 16, 1048576, 1, 0, 1, 0, 0, [⟨.loop .INJ_PRBS_ORDER, 0, 0, 0⟩, ⟨.loop .INJ_PRBS_HOLD, 8, 0, 0⟩]⟩]

/-- Registers of LOOP, part 2: LOOP_LE[n]_INJ_STAT, LOOP_LE[n]_INJ_LIM, LOOP_INJ_PERMIT. -/
def loopRegs2 : List RegRow := [
  ⟨0x1030000e14, 16, 1048576, 1, 0, 1, 0, 0, [⟨.loop .INJ_STAT_ACTIVE, 0, 0, 0⟩, ⟨.loop .INJ_STAT_DONE, 1, 0, 0⟩, ⟨.loop .INJ_STAT_ABORT, 2, 0, 0⟩, ⟨.loop .INJ_STAT_REFUSED, 3, 0, 0⟩, ⟨.loop .INJ_STAT_LIMITED, 4, 0, 0⟩, ⟨.loop .INJ_STAT_ABORT_CAUSE, 8, 0, 0⟩]⟩,
  ⟨0x1030000e18, 16, 1048576, 1, 0, 1, 0, 0, [⟨.loop .INJ_LIM, 0, 0, 0⟩]⟩,
  ⟨0x1031000088, 1, 0, 1, 0, 1, 0, 0, [⟨.loop .INJ_PERMIT, 0, 0, 0⟩]⟩]

/-- Registers of EDGE, part 0: EDGE_TL_BASE, EDGE_TL_DIRN, EDGE_TS[n]_CTRL, EDGE_TS[n]_STAT, EDGE_TS[n]_TAG, EDGE_SYNC, EDGE_DOM[d]_CTRL, EDGE_DOM[d]_PERIOD, EDGE_DOM[d]_LDALL, EDGE_DOM[d]_STAT, EDGE_DOM[d]_TRG, EDGE_OG_EN, EDGE_OG_REF, EDGE_OG_CAUSE, EDGE_OG[g]_LEGS, EDGE_OG[g]_ALEGS, EDGE_DCH[c]_LEGS, EDGE_DCH[c]_ALEGS, EDGE_TP[p]_CFG, EDGE_TP[p]_ANGLE, EDGE_TP[p]_RATE, EDGE_TP[p]_SET, EDGE_TP[p]_STAT, EDGE_LEG[n]_CFG, EDGE_ALEG[a]_CFG. -/
def edgeRegs0 : List RegRow := [
  ⟨0x1040000e00, 1, 0, 1, 0, 1, 0, 0, [⟨.edge .TL_BASE, 0, 0, 0⟩]⟩,
  ⟨0x1040000e04, 1, 0, 1, 0, 1, 0, 0, [⟨.edge .TL_DIRN, 0, 0, 0⟩]⟩,
  ⟨0x1040000e10, 4, 16, 1, 0, 1, 0, 0, [⟨.edge .TS_CTRL_AUTO, 0, 0, 0⟩, ⟨.edge .TS_CTRL_MISS_LIM, 8, 0, 0⟩, ⟨.edge .TS_CTRL_LOAD_PPI, 16, 0, 0⟩]⟩,
  ⟨0x1040000e14, 4, 16, 1, 0, 1, 0, 0, [⟨.edge .TS_STAT_ACTIVE, 0, 0, 0⟩, ⟨.edge .TS_STAT_VALID0, 1, 0, 0⟩, ⟨.edge .TS_STAT_VALID1, 2, 0, 0⟩, ⟨.edge .TS_STAT_LOADING, 3, 0, 0⟩, ⟨.edge .TS_STAT_SWAP_PEND, 4, 0, 0⟩, ⟨.edge .TS_STAT_PAGE_BUSY, 8, 0, 0⟩, ⟨.edge .TS_STAT_PAGE_MISS, 9, 0, 0⟩, ⟨.edge .TS_STAT_LOAD_ERR, 10, 0, 0⟩, ⟨.edge .TS_STAT_LOAD_CLOSED, 11, 0, 0⟩, ⟨.edge .TS_STAT_MISS_RUN, 16, 0, 0⟩]⟩,
  ⟨0x1040000e18, 4, 16, 1, 0, 1, 0, 0, [⟨.edge .TS_TAG_TAG0, 0, 0, 0⟩, ⟨.edge .TS_TAG_TAG1, 16, 0, 0⟩]⟩,
  ⟨0x104000000c, 1, 0, 1, 0, 1, 0, 0, [⟨.edge .SYNC_LDALL, 0, 0, 0⟩, ⟨.edge .SYNC_START, 8, 0, 0⟩]⟩,
  ⟨0x1040000100, 8, 32, 1, 0, 1, 0, 0, [⟨.edge .DOM_CTRL_EN, 0, 0, 0⟩, ⟨.edge .DOM_CTRL_DBL, 1, 0, 0⟩, ⟨.edge .DOM_CTRL_STRICT, 2, 0, 0⟩]⟩,
  ⟨0x1040000104, 8, 32, 1, 0, 1, 0, 0, [⟨.edge .DOM_PERIOD, 0, 0, 0⟩]⟩,
  ⟨0x1040000108, 8, 32, 1, 0, 1, 0, 0, [⟨.edge .DOM_LDALL, 0, 0, 0⟩]⟩,
  ⟨0x104000010c, 8, 32, 1, 0, 1, 0, 0, [⟨.edge .DOM_STAT_RUNNING, 0, 0, 0⟩, ⟨.edge .DOM_STAT_LDALL_PENDING, 1, 0, 0⟩, ⟨.edge .DOM_STAT_DEFERRED, 2, 0, 0⟩, ⟨.edge .DOM_STAT_PER_W, 3, 0, 0⟩, ⟨.edge .DOM_STAT_CLAMP, 8, 0, 0⟩, ⟨.edge .DOM_STAT_STRICT_REFUSED, 9, 0, 0⟩, ⟨.edge .DOM_STAT_DIS_REFUSED, 10, 0, 0⟩, ⟨.edge .DOM_STAT_BCNT, 16, 0, 0⟩]⟩,
  ⟨0x1040000110, 8, 32, 1, 0, 1, 0, 0, [⟨.edge .DOM_TRG_TRGA, 0, 0, 0⟩, ⟨.edge .DOM_TRG_TRGB, 16, 0, 0⟩]⟩,
  ⟨0x1040000020, 1, 0, 1, 0, 1, 0, 0, [⟨.edge .OG_EN, 0, 0, 0⟩]⟩,
  ⟨0x1040000024, 1, 0, 1, 0, 1, 0, 0, [⟨.edge .OG_REF, 0, 0, 0⟩]⟩,
  ⟨0x1040000028, 1, 0, 1, 0, 1, 0, 0, [⟨.edge .OG_CAUSE_CODE, 0, 0, 0⟩, ⟨.edge .OG_CAUSE_GROUP, 4, 0, 0⟩, ⟨.edge .OG_CAUSE_LEG, 8, 0, 0⟩]⟩,
  ⟨0x1040000040, 16, 8, 1, 0, 1, 0, 0, [⟨.edge .OG_LEGS, 0, 0, 0⟩]⟩,
  ⟨0x1040000044, 16, 8, 1, 0, 1, 0, 0, [⟨.edge .OG_ALEGS, 0, 0, 0⟩]⟩,
  ⟨0x1040000300, 12, 8, 1, 0, 1, 0, 0, [⟨.edge .DCH_LEGS, 0, 0, 0⟩]⟩,
  ⟨0x1040000304, 12, 8, 1, 0, 1, 0, 0, [⟨.edge .DCH_ALEGS, 0, 0, 0⟩]⟩,
  ⟨0x1040000200, 4, 32, 1, 0, 1, 0, 0, [⟨.edge .TP_CFG_EN, 0, 0, 0⟩, ⟨.edge .TP_CFG_DOMAIN, 1, 0, 0⟩, ⟨.edge .TP_CFG_CSTEP, 4, 0, 0⟩]⟩,
  ⟨0x1040000204, 4, 32, 1, 0, 1, 0, 0, [⟨.edge .TP_ANGLE, 0, 0, 0⟩]⟩,
  ⟨0x1040000208, 4, 32, 1, 0, 1, 0, 0, [⟨.edge .TP_RATE, 0, 0, 0⟩]⟩,
  ⟨0x104000020c, 4, 32, 1, 0, 1, 0, 0, [⟨.edge .TP_SET, 0, 0, 0⟩]⟩,
  ⟨0x1040000210, 4, 32, 1, 0, 1, 0, 0, [⟨.edge .TP_STAT_PLAYING, 0, 0, 0⟩, ⟨.edge .TP_STAT_STOPPED, 1, 0, 0⟩, ⟨.edge .TP_STAT_RATE_NEG, 8, 0, 0⟩, ⟨.edge .TP_STAT_CORR_BIG, 9, 0, 0⟩, ⟨.edge .TP_STAT_SLIP, 10, 0, 0⟩, ⟨.edge .TP_STAT_STRAY, 11, 0, 0⟩, ⟨.edge .TP_STAT_PPI, 16, 0, 0⟩]⟩,
  ⟨0x1040000400, 32, 64, 1, 0, 1, 0, 0, [⟨.edge .LEG_CFG_MODE, 0, 0, 0⟩, ⟨.edge .LEG_CFG_DOMAIN, 3, 0, 0⟩, ⟨.edge .LEG_CFG_ALIGN, 6, 0, 0⟩, ⟨.edge .LEG_CFG_PLAYER, 7, 0, 0⟩, ⟨.edge .LEG_CFG_SLOT, 9, 0, 0⟩, ⟨.edge .LEG_CFG_CSRC, 12, 0, 0⟩]⟩,
  ⟨0x1040001000, 9, 64, 1, 0, 1, 0, 32, [⟨.edge .LEG_CFG_MODE, 0, 0, 0⟩, ⟨.edge .LEG_CFG_DOMAIN, 3, 0, 0⟩, ⟨.edge .LEG_CFG_ALIGN, 6, 0, 0⟩, ⟨.edge .LEG_CFG_PLAYER, 7, 0, 0⟩, ⟨.edge .LEG_CFG_SLOT, 9, 0, 0⟩, ⟨.edge .LEG_CFG_CSRC, 12, 0, 0⟩]⟩]

/-- Registers of EDGE, part 1: EDGE_LEG[n]_DUTY, EDGE_ALEG[a]_DUTY, EDGE_LEG[n]_PHASE, EDGE_ALEG[a]_PHASE, EDGE_LEG[n]_DT, EDGE_ALEG[a]_DT, EDGE_LEG[n]_TRIM, EDGE_ALEG[a]_TRIM, EDGE_LEG[n]_REFRESH, EDGE_ALEG[a]_REFRESH, EDGE_LEG[n]_STAT, EDGE_ALEG[a]_STAT, EDGE_LEG[n]_CMT, EDGE_ALEG[a]_CMT, EDGE_LEG[n]_SIX, EDGE_ALEG[a]_SIX, EDGE_OWN0, EDGE_OWN1, EDGE_STAT, EDGE_FL_POLL, EDGE_FL[n]_CFG, EDGE_FL[n]_CTRL, EDGE_FL[n]_STAT, EDGE_FL[n]_CAP[i], EDGE_FL[n]_SET. -/
def edgeRegs1 : List RegRow := [
  ⟨0x1040000404, 32, 64, 1, 0, 1, 0, 0, [⟨.edge .LEG_DUTY, 0, 0, 0⟩]⟩,
  ⟨0x1040001004, 9, 64, 1, 0, 1, 0, 32, [⟨.edge .LEG_DUTY, 0, 0, 0⟩]⟩,
  ⟨0x1040000408, 32, 64, 1, 0, 1, 0, 0, [⟨.edge .LEG_PHASE, 0, 0, 0⟩]⟩,
  ⟨0x1040001008, 9, 64, 1, 0, 1, 0, 32, [⟨.edge .LEG_PHASE, 0, 0, 0⟩]⟩,
  ⟨0x104000040c, 32, 64, 1, 0, 1, 0, 0, [⟨.edge .LEG_DT_DT, 0, 0, 0⟩, ⟨.edge .LEG_DT_MINP, 16, 0, 0⟩]⟩,
  ⟨0x104000100c, 9, 64, 1, 0, 1, 0, 32, [⟨.edge .LEG_DT_DT, 0, 0, 0⟩, ⟨.edge .LEG_DT_MINP, 16, 0, 0⟩]⟩,
  ⟨0x1040000410, 32, 64, 1, 0, 1, 0, 0, [⟨.edge .LEG_TRIM, 0, 0, 0⟩]⟩,
  ⟨0x1040001010, 9, 64, 1, 0, 1, 0, 32, [⟨.edge .LEG_TRIM, 0, 0, 0⟩]⟩,
  ⟨0x1040000414, 32, 64, 1, 0, 1, 0, 0, [⟨.edge .LEG_REFRESH_PULSE, 0, 0, 0⟩, ⟨.edge .LEG_REFRESH_INTERVAL, 16, 0, 0⟩, ⟨.edge .LEG_REFRESH_BOOT_EN, 31, 0, 0⟩]⟩,
  ⟨0x1040001014, 9, 64, 1, 0, 1, 0, 32, [⟨.edge .LEG_REFRESH_PULSE, 0, 0, 0⟩, ⟨.edge .LEG_REFRESH_INTERVAL, 16, 0, 0⟩, ⟨.edge .LEG_REFRESH_BOOT_EN, 31, 0, 0⟩]⟩,
  ⟨0x1040000418, 32, 64, 1, 0, 1, 0, 0, [⟨.edge .LEG_STAT_HI, 0, 0, 0⟩, ⟨.edge .LEG_STAT_LO, 1, 0, 0⟩, ⟨.edge .LEG_STAT_FORCED, 2, 0, 0⟩, ⟨.edge .LEG_STAT_SAFE, 3, 0, 0⟩, ⟨.edge .LEG_STAT_INTERLOCK, 8, 0, 0⟩, ⟨.edge .LEG_STAT_IL_FAULT, 9, 0, 0⟩, ⟨.edge .LEG_STAT_CLAMPED, 10, 0, 0⟩, ⟨.edge .LEG_STAT_BOOT_UV, 11, 0, 0⟩, ⟨.edge .LEG_STAT_SLOT_LATE, 12, 0, 0⟩, ⟨.edge .LEG_STAT_CFG_BUSY, 13, 0, 0⟩, ⟨.edge .LEG_STAT_CFG_ERR, 14, 0, 0⟩, ⟨.edge .LEG_STAT_IL_CNT, 16, 0, 0⟩, ⟨.edge .LEG_STAT_CMT_IDX, 21, 0, 0⟩, ⟨.edge .LEG_STAT_SLOT_SENT, 24, 0, 0⟩]⟩,
  ⟨0x1040001018, 9, 64, 1, 0, 1, 0, 32, [⟨.edge .LEG_STAT_HI, 0, 0, 0⟩, ⟨.edge .LEG_STAT_LO, 1, 0, 0⟩, ⟨.edge .LEG_STAT_FORCED, 2, 0, 0⟩, ⟨.edge .LEG_STAT_SAFE, 3, 0, 0⟩, ⟨.edge .LEG_STAT_INTERLOCK, 8, 0, 0⟩, ⟨.edge .LEG_STAT_IL_FAULT, 9, 0, 0⟩, ⟨.edge .LEG_STAT_CLAMPED, 10, 0, 0⟩, ⟨.edge .LEG_STAT_BOOT_UV, 11, 0, 0⟩, ⟨.edge .LEG_STAT_SLOT_LATE, 12, 0, 0⟩, ⟨.edge .LEG_STAT_CFG_BUSY, 13, 0, 0⟩, ⟨.edge .LEG_STAT_CFG_ERR, 14, 0, 0⟩, ⟨.edge .LEG_STAT_IL_CNT, 16, 0, 0⟩, ⟨.edge .LEG_STAT_CMT_IDX, 21, 0, 0⟩, ⟨.edge .LEG_STAT_SLOT_SENT, 24, 0, 0⟩]⟩,
  ⟨0x1040000420, 32, 64, 1, 0, 1, 0, 0, [⟨.edge .LEG_CMT, 0, 0, 0⟩]⟩,
  ⟨0x1040001020, 9, 64, 1, 0, 1, 0, 32, [⟨.edge .LEG_CMT, 0, 0, 0⟩]⟩,
  ⟨0x1040000424, 32, 64, 1, 0, 1, 0, 0, [⟨.edge .LEG_SIX, 0, 0, 0⟩]⟩,
  ⟨0x1040001024, 9, 64, 1, 0, 1, 0, 32, [⟨.edge .LEG_SIX, 0, 0, 0⟩]⟩,
  ⟨0x1040000010, 1, 0, 1, 0, 1, 0, 0, [⟨.edge .OWN, 0, 0, 0⟩, ⟨.edge .OWN, 4, 1, 0⟩, ⟨.edge .OWN, 8, 2, 0⟩, ⟨.edge .OWN, 12, 3, 0⟩, ⟨.edge .OWN, 16, 4, 0⟩, ⟨.edge .OWN, 20, 5, 0⟩, ⟨.edge .OWN, 24, 6, 0⟩, ⟨.edge .OWN, 28, 7, 0⟩]⟩,
  ⟨0x1040000014, 1, 0, 1, 0, 1, 0, 0, [⟨.edge .OWN, 0, 8, 0⟩, ⟨.edge .OWN, 4, 9, 0⟩, ⟨.edge .OWN, 8, 10, 0⟩, ⟨.edge .OWN, 12, 11, 0⟩, ⟨.edge .OWN, 16, 12, 0⟩, ⟨.edge .OWN, 20, 13, 0⟩, ⟨.edge .OWN, 24, 14, 0⟩, ⟨.edge .OWN, 28, 15, 0⟩]⟩,
  ⟨0x1040000008, 1, 0, 1, 0, 1, 0, 0, [⟨.edge .STAT_LOCK, 0, 0, 0⟩, ⟨.edge .STAT_CLK_LOST, 8, 0, 0⟩, ⟨.edge .STAT_HALT_FORCE, 9, 0, 0⟩, ⟨.edge .STAT_RUNNING, 16, 0, 0⟩]⟩,
  ⟨0x1040001800, 1, 0, 1, 0, 1, 0, 0, [⟨.edge .FL_POLL, 0, 0, 0⟩]⟩,
  ⟨0x1040002000, 32, 64, 1, 0, 1, 0, 0, [⟨.edge .FL_CFG_RATE_MAX, 0, 0, 0⟩, ⟨.edge .FL_CFG_MODE_REQ, 2, 0, 0⟩, ⟨.edge .FL_CFG_TEL_REQ, 4, 0, 0⟩, ⟨.edge .FL_CFG_DIAG_REQ, 9, 0, 0⟩, ⟨.edge .FL_CFG_PARID, 12, 0, 0⟩, ⟨.edge .FL_CFG_PAR_ALIGN, 16, 0, 0⟩, ⟨.edge .FL_CFG_AUTO, 17, 0, 0⟩]⟩,
  ⟨0x1040002004, 32, 64, 1, 0, 1, 0, 0, [⟨.edge .FL_CTRL_RELINK, 0, 0, 0⟩, ⟨.edge .FL_CTRL_STAGE_CLR, 1, 0, 0⟩, ⟨.edge .FL_CTRL_DIAG_GO, 2, 0, 0⟩, ⟨.edge .FL_CTRL_TEL_NOW, 3, 0, 0⟩]⟩,
  ⟨0x1040002008, 32, 64, 1, 0, 1, 0, 0, [⟨.edge .FL_STAT_LSTATE, 0, 0, 0⟩, ⟨.edge .FL_STAT_RATE, 4, 0, 0⟩, ⟨.edge .FL_STAT_MODE, 6, 0, 0⟩, ⟨.edge .FL_STAT_HB_OK, 7, 0, 0⟩, ⟨.edge .FL_STAT_HB_LEVEL, 8, 0, 0⟩, ⟨.edge .FL_STAT_LANE_LOST, 9, 0, 0⟩, ⟨.edge .FL_STAT_CRC_ERR, 10, 0, 0⟩, ⟨.edge .FL_STAT_SLOT_MISM, 11, 0, 0⟩, ⟨.edge .FL_STAT_STAGE_CHG, 12, 0, 0⟩, ⟨.edge .FL_STAT_DIAG_REF, 13, 0, 0⟩, ⟨.edge .FL_STAT_CFG_BUSY, 14, 0, 0⟩, ⟨.edge .FL_STAT_FCAUSE, 16, 0, 0⟩, ⟨.edge .FL_STAT_ERRCNT, 24, 0, 0⟩]⟩,
  ⟨0x104000200c, 32, 64, 4, 4, 1, 0, 0, [⟨.edge .FL_CAP, 0, 0, 0⟩]⟩,
  ⟨0x104000201c, 32, 64, 1, 0, 1, 0, 0, [⟨.edge .FL_SET_TEL, 0, 0, 0⟩, ⟨.edge .FL_SET_DIAG, 8, 0, 0⟩]⟩]

/-- Registers of EDGE, part 2: EDGE_FL[n]_PROF[s], EDGE_FL[n]_TEL0, EDGE_FL[n]_TEL1, EDGE_FL[n]_TEL2, EDGE_FL[n]_DIAG, EDGE_DOM[d]_SS, EDGE_DOM[d]_SSNOM. -/
def edgeRegs2 : List RegRow := [
  ⟨0x1040002020, 32, 64, 4, 4, 1, 0, 0, [⟨.edge .FL_PROF, 0, 0, 0⟩]⟩,
  ⟨0x1040002030, 32, 64, 1, 0, 1, 0, 0, [⟨.edge .FL_TEL, 0, 0, 0⟩]⟩,
  ⟨0x1040002034, 32, 64, 1, 0, 1, 0, 0, [⟨.edge .FL_TEL, 0, 0, 1⟩]⟩,
  ⟨0x1040002038, 32, 64, 1, 0, 1, 0, 0, [⟨.edge .FL_TEL, 0, 0, 2⟩]⟩,
  ⟨0x104000203c, 32, 64, 1, 0, 1, 0, 0, [⟨.edge .FL_DIAG_MASK, 0, 0, 0⟩, ⟨.edge .FL_DIAG_RES_GATE, 8, 0, 0⟩, ⟨.edge .FL_DIAG_RES_NODE, 16, 0, 0⟩, ⟨.edge .FL_DIAG_RES_DESAT, 24, 0, 0⟩]⟩,
  ⟨0x1040000114, 8, 32, 1, 0, 1, 0, 0, [⟨.edge .DOM_SS_EN, 0, 0, 0⟩, ⟨.edge .DOM_SS_SPAN, 1, 0, 0⟩, ⟨.edge .DOM_SS_NSM1, 8, 0, 0⟩, ⟨.edge .DOM_SS_SS_BUSY, 24, 0, 0⟩]⟩,
  ⟨0x1040000118, 8, 32, 1, 0, 1, 0, 0, [⟨.edge .DOM_SSNOM, 0, 0, 0⟩]⟩]

/-- Registers of GRD, part 0: GRD_ROUTE[s], GRD_SAF_FORCE, GRD_GFI[i]_CFG, GRD_WC[c]_CFG, GRD_CM[m]_CFG, GRD_OG[g]_CFG, GRD_OG[g]_STAT, GRD_SRC_LATCH[w], GRD_OG_LATCH, GRD_STAT, GRD_LEGF_LATCH, GRD_LEGF_IL, GRD_ALEGF_LATCH, GRD_BAND. -/
def grdRegs0 : List RegRow := [
  ⟨0x1050000400, 77, 4, 1, 0, 1, 0, 0, [⟨.grd .ROUTE, 0, 0, 0⟩]⟩,
  ⟨0x105000008c, 1, 0, 1, 0, 1, 0, 0, [⟨.grd .SAF_FORCE, 0, 0, 0⟩]⟩,
  ⟨0x1050000200, 8, 4, 1, 0, 1, 0, 0, [⟨.grd .GFI_CFG_EN, 0, 0, 0⟩, ⟨.grd .GFI_CFG_POL, 1, 0, 0⟩, ⟨.grd .GFI_CFG_FILT, 2, 0, 0⟩, ⟨.grd .GFI_CFG_GLITCH, 8, 0, 0⟩, ⟨.grd .GFI_CFG_PIN, 9, 0, 0⟩]⟩,
  ⟨0x1050000300, 16, 4, 1, 0, 1, 0, 0, [⟨.grd .WC_CFG_THR_HI, 0, 0, 0⟩, ⟨.grd .WC_CFG_THR_LO, 10, 0, 0⟩, ⟨.grd .WC_CFG_EN_HI, 20, 0, 0⟩, ⟨.grd .WC_CFG_EN_LO, 21, 0, 0⟩, ⟨.grd .WC_CFG_OUT, 22, 0, 0⟩]⟩,
  ⟨0x1050000380, 8, 4, 1, 0, 1, 0, 0, [⟨.grd .CM_CFG_LO, 0, 0, 0⟩, ⟨.grd .CM_CFG_HI, 12, 0, 0⟩, ⟨.grd .CM_CFG_EN, 24, 0, 0⟩]⟩,
  ⟨0x1050000100, 16, 4, 1, 0, 1, 0, 0, [⟨.grd .OG_CFG_SAFE, 0, 0, 0⟩, ⟨.grd .OG_CFG_SDT_CODE, 2, 0, 0⟩]⟩,
  ⟨0x1050000180, 16, 4, 1, 0, 1, 0, 0, [⟨.grd .OG_STAT_LEVEL, 0, 0, 0⟩, ⟨.grd .OG_STAT_FORCED, 2, 0, 0⟩, ⟨.grd .OG_STAT_MOVING, 3, 0, 0⟩, ⟨.grd .OG_STAT_CAUSE, 8, 0, 0⟩, ⟨.grd .OG_STAT_COUNT, 16, 0, 0⟩]⟩,
  ⟨0x1050000010, 3, 4, 1, 0, 1, 0, 0, [⟨.grd .SRC_LATCH, 0, 0, 0⟩]⟩,
  ⟨0x1050000080, 1, 0, 1, 0, 1, 0, 0, [⟨.grd .OG_LATCH, 0, 0, 0⟩]⟩,
  ⟨0x1050000008, 1, 0, 1, 0, 1, 0, 0, [⟨.grd .STAT_LOCKED, 0, 0, 0⟩, ⟨.grd .STAT_MON_RUN, 1, 0, 0⟩, ⟨.grd .STAT_CLR_REFUSED, 8, 0, 0⟩]⟩,
  ⟨0x1050000090, 1, 0, 1, 0, 1, 0, 0, [⟨.grd .LEGF_LATCH, 0, 0, 0⟩]⟩,
  ⟨0x1050000094, 1, 0, 1, 0, 1, 0, 0, [⟨.grd .LEGF_IL, 0, 0, 0⟩]⟩,
  ⟨0x1050000098, 1, 0, 1, 0, 1, 0, 0, [⟨.grd .ALEGF_LATCH, 0, 0, 0⟩]⟩,
  ⟨0x1050000088, 1, 0, 1, 0, 1, 0, 0, [⟨.grd .BAND, 0, 0, 0⟩]⟩]

/-- Registers of SNS, part 0: SNS_SDCLK[k], SNS_SD[c]_CFG, SNS_SD[c]_CAL, SNS_SD[c]_TRIP, SNS_SD[c]_STAT, SNS_FC[c]_CFG, SNS_FC[c]_CAL, SNS_FC[c]_STAT, SNS_RES[r]_CFG, SNS_RES[r]_EXC, SNS_RES[r]_MAG, SNS_RES[r]_STAT, SNS_HK_CTRL, SNS_HK_DATA, SNS_HK_INJ, SNS_HK_STAT, SNS_HK_VALID, SNS_HK_CH[i], SNS_VSEL, SNS_CP_CTRL, SNS_CP_STAT. -/
def snsRegs0 : List RegRow := [
  ⟨0x1060000010, 4, 4, 1, 0, 1, 0, 0, [⟨.sns .SDCLK_FREQ, 0, 0, 0⟩, ⟨.sns .SDCLK_CLK_BUSY, 8, 0, 0⟩]⟩,
  ⟨0x1060000100, 24, 16, 1, 0, 1, 0, 0, [⟨.sns .SD_CFG_EN, 0, 0, 0⟩, ⟨.sns .SD_CFG_CLKSEL, 1, 0, 0⟩, ⟨.sns .SD_CFG_EDGE, 3, 0, 0⟩, ⟨.sns .SD_CFG_SYNC, 4, 0, 0⟩, ⟨.sns .SD_CFG_DOM, 5, 0, 0⟩, ⟨.sns .SD_CFG_EVT, 8, 0, 0⟩, ⟨.sns .SD_CFG_DEC, 11, 0, 0⟩, ⟨.sns .SD_CFG_TRIP_EN, 20, 0, 0⟩, ⟨.sns .SD_CFG_TLEN, 21, 0, 0⟩, ⟨.sns .SD_CFG_TCNTM1, 26, 0, 0⟩, ⟨.sns .SD_CFG_STUCK_TRIP, 29, 0, 0⟩]⟩,
  ⟨0x1060000104, 24, 16, 1, 0, 1, 0, 0, [⟨.sns .SD_CAL_OFFS, 0, 0, 0⟩, ⟨.sns .SD_CAL_GAIN, 16, 0, 0⟩]⟩,
  ⟨0x1060000108, 24, 16, 1, 0, 1, 0, 0, [⟨.sns .SD_TRIP_THR_LO, 0, 0, 0⟩, ⟨.sns .SD_TRIP_THR_HI, 16, 0, 0⟩]⟩,
  ⟨0x106000010c, 24, 16, 1, 0, 1, 0, 0, [⟨.sns .SD_STAT_VALID, 0, 0, 0⟩, ⟨.sns .SD_STAT_STUCK, 1, 0, 0⟩, ⟨.sns .SD_STAT_TRIP, 2, 0, 0⟩, ⟨.sns .SD_STAT_STUCK_SEEN, 8, 0, 0⟩, ⟨.sns .SD_STAT_TRIP_REF, 9, 0, 0⟩, ⟨.sns .SD_STAT_EVT_LOST, 10, 0, 0⟩, ⟨.sns .SD_STAT_SAT, 11, 0, 0⟩, ⟨.sns .SD_STAT_CFG_BUSY, 12, 0, 0⟩, ⟨.sns .SD_STAT_LAST, 16, 0, 0⟩]⟩,
  ⟨0x1060000400, 8, 16, 1, 0, 1, 0, 0, [⟨.sns .FC_CFG_EN, 0, 0, 0⟩, ⟨.sns .FC_CFG_DOM, 1, 0, 0⟩, ⟨.sns .FC_CFG_EVT, 4, 0, 0⟩, ⟨.sns .FC_CFG_AVG, 7, 0, 0⟩, ⟨.sns .FC_CFG_SWTRIG, 9, 0, 0⟩]⟩,
  ⟨0x1060000404, 8, 16, 1, 0, 1, 0, 0, [⟨.sns .FC_CAL_OFFS, 0, 0, 0⟩, ⟨.sns .FC_CAL_GAIN, 16, 0, 0⟩]⟩,
  ⟨0x1060000408, 8, 16, 1, 0, 1, 0, 0, [⟨.sns .FC_STAT_BUSY, 0, 0, 0⟩, ⟨.sns .FC_STAT_PEND, 1, 0, 0⟩, ⟨.sns .FC_STAT_VALID, 2, 0, 0⟩, ⟨.sns .FC_STAT_RES_OWNED, 3, 0, 0⟩, ⟨.sns .FC_STAT_TRIG_LOST, 8, 0, 0⟩, ⟨.sns .FC_STAT_SAT, 9, 0, 0⟩, ⟨.sns .FC_STAT_LAST, 16, 0, 0⟩]⟩,
  ⟨0x1060000500, 2, 32, 1, 0, 1, 0, 0, [⟨.sns .RES_CFG_EN, 0, 0, 0⟩, ⟨.sns .RES_CFG_FREE, 1, 0, 0⟩, ⟨.sns .RES_CFG_DOM, 2, 0, 0⟩, ⟨.sns .RES_CFG_EXDIVM1, 5, 0, 0⟩, ⟨.sns .RES_CFG_PCOMP, 16, 0, 0⟩]⟩,
  ⟨0x1060000504, 2, 32, 1, 0, 1, 0, 0, [⟨.sns .RES_EXC_EXFREQ, 0, 0, 0⟩, ⟨.sns .RES_EXC_AMP, 16, 0, 0⟩]⟩,
  ⟨0x1060000508, 2, 32, 1, 0, 1, 0, 0, [⟨.sns .RES_MAG_LOS_THR, 0, 0, 0⟩, ⟨.sns .RES_MAG_MAX_THR, 16, 0, 0⟩]⟩,
  ⟨0x106000050c, 2, 32, 1, 0, 1, 0, 0, [⟨.sns .RES_STAT_LOCKED, 0, 0, 0⟩, ⟨.sns .RES_STAT_VALID, 1, 0, 0⟩, ⟨.sns .RES_STAT_LOS, 2, 0, 0⟩, ⟨.sns .RES_STAT_OVA, 3, 0, 0⟩, ⟨.sns .RES_STAT_LOS_SEEN, 8, 0, 0⟩, ⟨.sns .RES_STAT_OVA_SEEN, 9, 0, 0⟩, ⟨.sns .RES_STAT_FREQ_ERR, 10, 0, 0⟩, ⟨.sns .RES_STAT_EXC_FAULT, 11, 0, 0⟩, ⟨.sns .RES_STAT_MAG, 16, 0, 0⟩]⟩,
  ⟨0x1060000600, 1, 0, 1, 0, 1, 0, 0, [⟨.sns .HK_CTRL_EN, 0, 0, 0⟩, ⟨.sns .HK_CTRL_LP, 1, 0, 0⟩]⟩,
  ⟨0x1060000604, 1, 0, 1, 0, 1, 0, 0, [⟨.sns .HK_DATA_VALUE, 0, 0, 0⟩, ⟨.sns .HK_DATA_CHAN, 20, 0, 0⟩, ⟨.sns .HK_DATA_INJ, 25, 0, 0⟩, ⟨.sns .HK_DATA_NEW, 26, 0, 0⟩]⟩,
  ⟨0x1060000608, 1, 0, 1, 0, 1, 0, 0, [⟨.sns .HK_INJ_CHAN, 0, 0, 0⟩, ⟨.sns .HK_INJ_GO, 5, 0, 0⟩]⟩,
  ⟨0x106000060c, 1, 0, 1, 0, 1, 0, 0, [⟨.sns .HK_STAT_BUSY, 0, 0, 0⟩, ⟨.sns .HK_STAT_LP_ACTIVE, 1, 0, 0⟩, ⟨.sns .HK_STAT_INJ_PEND, 2, 0, 0⟩, ⟨.sns .HK_STAT_OVR, 8, 0, 0⟩, ⟨.sns .HK_STAT_INJ_LOST, 9, 0, 0⟩, ⟨.sns .HK_STAT_OVR_CNT, 16, 0, 0⟩]⟩,
  ⟨0x1060000610, 1, 0, 1, 0, 1, 0, 0, [⟨.sns .HK_VALID, 0, 0, 0⟩]⟩,
  ⟨0x1060000700, 32, 4, 1, 0, 1, 0, 0, [⟨.sns .HK_CH_SCAN, 0, 0, 0⟩, ⟨.sns .HK_CH_NM1, 1, 0, 0⟩, ⟨.sns .HK_CH_SHIFT, 9, 0, 0⟩]⟩,
  ⟨0x1060000800, 1, 0, 1, 0, 1, 0, 0, [⟨.sns .VSEL_RAW, 0, 0, 0⟩, ⟨.sns .VSEL_CODE, 4, 0, 0⟩, ⟨.sns .VSEL_VALID, 7, 0, 0⟩, ⟨.sns .VSEL_DEB, 8, 0, 0⟩, ⟨.sns .VSEL_CHG, 16, 0, 0⟩]⟩,
  ⟨0x1060000810, 1, 0, 1, 0, 1, 0, 0, [⟨.sns .CP_CTRL_EN, 0, 0, 0⟩, ⟨.sns .CP_CTRL_S2, 1, 0, 0⟩]⟩,
  ⟨0x1060000814, 1, 0, 1, 0, 1, 0, 0, [⟨.sns .CP_STAT_STATE, 0, 0, 0⟩, ⟨.sns .CP_STAT_OSC, 3, 0, 0⟩, ⟨.sns .CP_STAT_S2_ON, 4, 0, 0⟩, ⟨.sns .CP_STAT_DUTY, 8, 0, 0⟩, ⟨.sns .CP_STAT_CHG, 18, 0, 0⟩, ⟨.sns .CP_STAT_LOW_ERR, 19, 0, 0⟩]⟩]

/-- Registers of ACT, part 0: ACT_BR[b]_CFG, ACT_BR[b]_P3, ACT_BR[b]_DIAG, ACT_BR[b]_HALL, ACT_BR[b]_STAT, ACT_SENT[s]_CFG, ACT_SENT[s]_DATA, ACT_SENT[s]_STAT, ACT_SENT[s]_SLOW. -/
def actRegs0 : List RegRow := [
  ⟨0x1080000100, 3, 32, 1, 0, 1, 0, 0, [⟨.act .BR_CFG_SUPPLY, 0, 0, 0⟩, ⟨.act .BR_CFG_DMODE, 2, 0, 0⟩, ⟨.act .BR_CFG_OC_EN, 3, 0, 0⟩, ⟨.act .BR_CFG_SRC, 4, 0, 0⟩, ⟨.act .BR_CFG_SNK, 8, 0, 0⟩, ⟨.act .BR_CFG_OCTHR, 12, 0, 0⟩]⟩,
  ⟨0x1080000104, 3, 32, 1, 0, 1, 0, 0, [⟨.act .BR_P3, 0, 0, 0⟩]⟩,
  ⟨0x1080000108, 3, 32, 1, 0, 1, 0, 0, [⟨.act .BR_DIAG_GO, 0, 0, 0⟩, ⟨.act .BR_DIAG_BUSY, 1, 0, 0⟩, ⟨.act .BR_DIAG_DIAG_REF, 2, 0, 0⟩, ⟨.act .BR_DIAG_SETTLE, 4, 0, 0⟩, ⟨.act .BR_DIAG_PH_MASK, 8, 0, 0⟩, ⟨.act .BR_DIAG_RES0, 16, 0, 0⟩, ⟨.act .BR_DIAG_RES1, 20, 0, 0⟩, ⟨.act .BR_DIAG_RES2, 24, 0, 0⟩]⟩,
  ⟨0x108000010c, 3, 32, 1, 0, 1, 0, 0, [⟨.act .BR_HALL_EN, 0, 0, 0⟩, ⟨.act .BR_HALL_INV, 1, 0, 0⟩, ⟨.act .BR_HALL_HFILT, 4, 0, 0⟩, ⟨.act .BR_HALL_HINV, 16, 0, 0⟩]⟩,
  ⟨0x1080000110, 3, 32, 1, 0, 1, 0, 0, [⟨.act .BR_STAT_HALL, 0, 0, 0⟩, ⟨.act .BR_STAT_OC, 3, 0, 0⟩, ⟨.act .BR_STAT_OC_LATCH, 8, 0, 0⟩, ⟨.act .BR_STAT_CFG_BUSY, 9, 0, 0⟩, ⟨.act .BR_STAT_HALL_ERR, 10, 0, 0⟩, ⟨.act .BR_STAT_HALL_FAULT, 11, 0, 0⟩, ⟨.act .BR_STAT_I_LAST, 16, 0, 0⟩]⟩,
  ⟨0x1080000400, 8, 16, 1, 0, 1, 0, 0, [⟨.act .SENT_CFG_EN, 0, 0, 0⟩, ⟨.act .SENT_CFG_TICK, 1, 0, 0⟩, ⟨.act .SENT_CFG_PAUSE, 9, 0, 0⟩, ⟨.act .SENT_CFG_CRC_LEGACY, 10, 0, 0⟩, ⟨.act .SENT_CFG_TMO, 16, 0, 0⟩]⟩,
  ⟨0x1080000404, 8, 16, 1, 0, 1, 0, 0, [⟨.act .SENT_DATA_FC1, 0, 0, 0⟩, ⟨.act .SENT_DATA_FC2, 12, 0, 0⟩, ⟨.act .SENT_DATA_SCN, 24, 0, 0⟩, ⟨.act .SENT_DATA_VALID, 28, 0, 0⟩]⟩,
  ⟨0x1080000408, 8, 16, 1, 0, 1, 0, 0, [⟨.act .SENT_STAT_CRC_ERR, 0, 0, 0⟩, ⟨.act .SENT_STAT_CAL_ERR, 1, 0, 0⟩, ⟨.act .SENT_STAT_NIB_ERR, 2, 0, 0⟩, ⟨.act .SENT_STAT_TMO_ERR, 3, 0, 0⟩, ⟨.act .SENT_STAT_ERRCNT, 8, 0, 0⟩]⟩,
  ⟨0x108000040c, 8, 16, 1, 0, 1, 0, 0, [⟨.act .SENT_SLOW_ID, 0, 0, 0⟩, ⟨.act .SENT_SLOW_DATA, 8, 0, 0⟩, ⟨.act .SENT_SLOW_NEW, 24, 0, 0⟩]⟩]

/-- Registers of MEM, part 0: MEM_STAT, MEM_ECC_STAT, MEM_ECC_LOG, MEM_ECC_ADDR, MEM_SCRUB_CTRL, MEM_SCRUB_STAT, MEM_SRAM_ERR, MEM_PORT[p]_CFG, MEM_PORT[p]_STAT, MEM_FR_BASE, MEM_FR_SIZE, MEM_FR_ALLOC, MEM_FR_SEQ. -/
def memRegs0 : List RegRow := [
  ⟨0x1070000008, 1, 0, 1, 0, 1, 0, 0, [⟨.mem .STAT_INIT_CHART, 0, 0, 0⟩, ⟨.mem .STAT_INIT_DONE, 1, 0, 0⟩, ⟨.mem .STAT_SELFREF, 2, 0, 0⟩]⟩,
  ⟨0x1070000020, 1, 0, 1, 0, 1, 0, 0, [⟨.mem .ECC_STAT_CE_CNT, 0, 0, 0⟩, ⟨.mem .ECC_STAT_UE_CNT, 16, 0, 0⟩, ⟨.mem .ECC_STAT_CE, 24, 0, 0⟩, ⟨.mem .ECC_STAT_UE, 25, 0, 0⟩, ⟨.mem .ECC_STAT_UE_WR, 26, 0, 0⟩]⟩,
  ⟨0x1070000024, 1, 0, 1, 0, 1, 0, 0, [⟨.mem .ECC_LOG_PORT, 0, 0, 0⟩, ⟨.mem .ECC_LOG_KIND, 5, 0, 0⟩, ⟨.mem .ECC_LOG_VALID, 7, 0, 0⟩]⟩,
  ⟨0x1070000028, 1, 0, 1, 0, 1, 0, 0, [⟨.mem .ECC_ADDR, 0, 0, 0⟩]⟩,
  ⟨0x1070000030, 1, 0, 1, 0, 1, 0, 0, [⟨.mem .SCRUB_CTRL_EN, 0, 0, 0⟩, ⟨.mem .SCRUB_CTRL_INT, 8, 0, 0⟩]⟩,
  ⟨0x1070000034, 1, 0, 1, 0, 1, 0, 0, [⟨.mem .SCRUB_STAT_PTR, 0, 0, 0⟩, ⟨.mem .SCRUB_STAT_LATE, 28, 0, 0⟩]⟩,
  ⟨0x1070000040, 1, 0, 1, 0, 1, 0, 0, [⟨.mem .SRAM_ERR_CE_CNT, 0, 0, 0⟩, ⟨.mem .SRAM_ERR_SRC, 16, 0, 0⟩, ⟨.mem .SRAM_ERR_DE, 24, 0, 0⟩]⟩,
  ⟨0x1070000100, 32, 4, 1, 0, 1, 0, 0, [⟨.mem .PORT_CFG_CLASS, 0, 0, 0⟩, ⟨.mem .PORT_CFG_LIMIT, 4, 0, 0⟩]⟩,
  ⟨0x1070000180, 32, 4, 1, 0, 1, 0, 0, [⟨.mem .PORT_STAT_INFLIGHT, 0, 0, 0⟩, ⟨.mem .PORT_STAT_MAXWAIT, 8, 0, 0⟩, ⟨.mem .PORT_STAT_KIB, 16, 0, 0⟩]⟩,
  ⟨0x1070000060, 1, 0, 1, 0, 1, 0, 0, [⟨.mem .FR_BASE, 0, 0, 0⟩]⟩,
  ⟨0x1070000064, 1, 0, 1, 0, 1, 0, 0, [⟨.mem .FR_SIZE_SEGS, 0, 0, 0⟩, ⟨.mem .FR_SIZE_CFG_ERR, 30, 0, 0⟩, ⟨.mem .FR_SIZE_EN, 31, 0, 0⟩]⟩,
  ⟨0x1070000068, 1, 0, 1, 0, 1, 0, 0, [⟨.mem .FR_ALLOC_SLOT, 0, 0, 0⟩, ⟨.mem .FR_ALLOC_VALID, 31, 0, 0⟩]⟩,
  ⟨0x107000006c, 1, 0, 1, 0, 1, 0, 0, [⟨.mem .FR_SEQ, 0, 0, 0⟩]⟩]

/-- Registers of IFC, part 0: IFC_ATIME_LO, IFC_ATIME_HI, IFC_TSYNC_STAT. -/
def ifcRegs0 : List RegRow := [
  ⟨0x1010000040, 1, 0, 1, 0, 1, 0, 0, [⟨.ifc .ATIME_LO, 0, 0, 0⟩]⟩,
  ⟨0x1010000044, 1, 0, 1, 0, 1, 0, 0, [⟨.ifc .ATIME_HI, 0, 0, 0⟩]⟩,
  ⟨0x1010000048, 1, 0, 1, 0, 1, 0, 0, [⟨.ifc .TSYNC_STAT_STATE, 0, 0, 0⟩, ⟨.ifc .TSYNC_STAT_STEPPED, 2, 0, 0⟩, ⟨.ifc .TSYNC_STAT_PORT, 3, 0, 0⟩, ⟨.ifc .TSYNC_STAT_OFFS, 16, 0, 0⟩]⟩]

/-- Registers of AON, part 0: AON_LADDER_STAT, AON_LADDER_DWELL, AON_WAKE_EN, AON_WAKE_CAUSE, AON_HKWIN, AON_ALARM. -/
def aonRegs0 : List RegRow := [
  ⟨0x1090000010, 1, 0, 1, 0, 1, 0, 0, [⟨.aon .LADDER_STAT_STATE, 0, 0, 0⟩, ⟨.aon .LADDER_STAT_MOVING, 3, 0, 0⟩, ⟨.aon .LADDER_STAT_DEEPEST, 4, 0, 0⟩, ⟨.aon .LADDER_STAT_ABANDONED, 8, 0, 0⟩, ⟨.aon .LADDER_STAT_BROWNOUT, 9, 0, 0⟩, ⟨.aon .LADDER_STAT_PRES_WARN, 10, 0, 0⟩, ⟨.aon .LADDER_STAT_FLUSH_BAD, 11, 0, 0⟩, ⟨.aon .LADDER_STAT_POR, 12, 0, 0⟩, ⟨.aon .LADDER_STAT_BOR_DIP, 16, 0, 0⟩]⟩,
  ⟨0x1090000014, 1, 0, 1, 0, 1, 0, 0, [⟨.aon .LADDER_DWELL_T_HOLD, 0, 0, 0⟩, ⟨.aon .LADDER_DWELL_T_STBY, 8, 0, 0⟩, ⟨.aon .LADDER_DWELL_T_PARK, 16, 0, 0⟩, ⟨.aon .LADDER_DWELL_T_STOR, 24, 0, 0⟩]⟩,
  ⟨0x1090000018, 1, 0, 1, 0, 1, 0, 0, [⟨.aon .WAKE_EN_EN_WAKE, 1, 0, 0⟩, ⟨.aon .WAKE_EN_EN_KEY, 2, 0, 0⟩, ⟨.aon .WAKE_EN_EN_INLET, 3, 0, 0⟩, ⟨.aon .WAKE_EN_EN_MISC, 6, 0, 0⟩]⟩,
  ⟨0x109000001c, 1, 0, 1, 0, 1, 0, 0, [⟨.aon .WAKE_CAUSE_SRC, 0, 0, 0⟩, ⟨.aon .WAKE_CAUSE_FROM, 4, 0, 0⟩, ⟨.aon .WAKE_CAUSE_CNT, 16, 0, 0⟩]⟩,
  ⟨0x1090000024, 1, 0, 1, 0, 1, 0, 0, [⟨.aon .HKWIN_V_LOW, 0, 0, 0⟩, ⟨.aon .HKWIN_V_CRIT, 16, 0, 0⟩, ⟨.aon .HKWIN_AUTO_TR, 28, 0, 0⟩]⟩,
  ⟨0x1090000028, 1, 0, 1, 0, 1, 0, 0, [⟨.aon .ALARM, 0, 0, 0⟩]⟩]

/-- The whole register map. -/
def regTable : List RegRow :=
  safRegs0 ++ safRegs1 ++ loopRegs0 ++ loopRegs1 ++ loopRegs2 ++ edgeRegs0 ++ edgeRegs1 ++ edgeRegs2 ++ grdRegs0 ++ snsRegs0 ++ actRegs0 ++ memRegs0 ++ ifcRegs0 ++ aonRegs0

end Sys2Proof.Machine
end

