-- ==== Sys2Proof/Machine/Messages.lean ====
section
/-!
DEFINITION. The kinds of message that leave the modelled machine; a message carries a kind and up to three numbers.
-/
namespace Sys2Proof.Machine

/-- What a sent message is. -/
inductive MsgKind where
  /-- a report at level 4, to the safety island or the drive firmware: a is the number of the rule that calls for it, b and c name the source -/
  | level4
  /-- a report at level 5 to the drive firmware or the vehicle: a is the number of the rule that calls for it -/
  | level5
  /-- a word sent over a strait: a destination island code, b first number, c second number -/
  | strait
  /-- an event of a reload domain (R183): a domain, b event code -/
  | domainEvent
  /-- a lane frame the module sends (R265): a link, b code, c first payload bytes -/
  | lane
  /-- a reply in an outbound mailbox (R531, R536): a is the mailbox + 16 SEQ, b is STATUS + 256 DETAIL, c the parameter bytes as a number -/
  | reply
  /-- a CAN or vehicle-bus message sent: a identifier of the rule, b and c content -/
  | can
  /-- a level the module drives at a pin or line outside the registers: a the rule, b index, c level -/
  | pin
  /-- a write the module makes to flash: a kind, b index, c value -/
  | store
  /-- an output port's new value sent to its destination (R112): a is 32 engine + port, b is 32 DEST + CHAN, c value -/
  | port
  /-- a plausibility report word (R153): a drive island, b word -/
  | report
  /-- a pattern a program requests of a player (R368): a player, b PPI -/
  | page
  /-- a message to the EVSE over the charging protocol or the pilot (R410, R420): a 0 request of b in 0.1 A, 1 stop -/
  | evse
  /-- a Narrows frame the module sends (R528): a TYPE, b CHAN, c its payload as a number -/
  | frame
  /-- an answer of the network stack (R522): a 0 ARP, 1 ICMP echo; b port -/
  | net
  /-- an erase or program of a flash area (R518): a area offset, b bytes -/
  | flash
  deriving DecidableEq, Repr

end Sys2Proof.Machine
end

