-- ==== Sys2Proof/Machine/State.lean ====
section
/-!
DEFINITION. The state of the device, its faults and refusals, and the state after reset.
-/
namespace Sys2Proof.Machine
open Sys2Proof

/-- A stop the specification itself makes. No command of this block has one: the constructor is raised by nobody (safe). -/
inductive Fault where
  /-- Raised by no command: the specification stops the block nowhere. Safe. -/
  | none
  deriving DecidableEq, Repr

/-- A command without a meaning in this model. -/
inductive Refusal where
  /-- Raised by `exec` for a command whose meaning has not been written. Safe. -/
  | notModelled (mnemonic : String)
  deriving DecidableEq, Repr

/-- The value of one numeric quantity that differs from its reset value: field key, two indices, value. -/
structure Entry where
  k : Nat
  i : Nat
  j : Nat
  v : Nat
  deriving DecidableEq, Repr

/-- The response an access returns to its initiator (R5, R25, R32, R49, R472). An ERROR carries its cause and the code of the island
that rejected the transaction, where an island did. -/
inductive Resp where
  | none
  | ok
  | data (v : Nat)
  | closed
  | accessError
  | error (cause : Nat) (island : Option Nat := .none)
  deriving DecidableEq, Repr

/-- Whom a message that leaves the modelled machine is addressed to, and what it is. -/
structure Msg where
  kind : MsgKind
  a : Nat
  b : Nat
  c : Nat
  deriving DecidableEq, Repr

/-- The whole state. Registers and internal quantities stand in `vals`, in one canonical form: rising in (key, i, j), none
equal to its reset value, each within its width. -/
structure State where
  /-- Register fields and internal quantities that differ from their reset value. -/
  vals : List Entry
  /-- Bytes of DRAM, lagoon, tide stores and engine memories that differ from 0, by physical address, rising. -/
  mem : List Host.Cell
  /-- Commands waiting, first in, first out. -/
  pending : List Instr
  /-- Time since reset in fine ticks of 156.25 ps (R13). -/
  now : Nat
  /-- How many free values have been drawn: the model's own field, not the specification's. -/
  fresh : Nat
  /-- Response to the last access. -/
  resp : Resp
  /-- Messages sent, newest first: reports to firmware, replies, frames, events. -/
  sent : List Msg
  deriving DecidableEq, Repr

/-- The state right after reset: every quantity at its reset value, nothing in memory, no command waiting. DESIGN CHOICE, log entry 2. -/
def State.reset : State := ⟨[], [], [], 0, 0, .none, []⟩

end Sys2Proof.Machine
end

