-- ==== Sys2Proof/Machine/Ops.lean ====
section
/-!
DEFINITION. The named operations over the state: reading and writing one quantity, bits of a mask, counters, memory bytes,
messages, free values.
-/
namespace Sys2Proof.Machine
open Sys2Proof

/-- The value filed under (k, i, j), or `d` where nothing is filed. -/
def lookupEnt (l : List Entry) (k i j d : Nat) : Nat :=
  match l with
  | [] => d
  | e :: r => if e.k = k ∧ e.i = i ∧ e.j = j then e.v else lookupEnt r k i j d

/-- (k, i, j) comes before the entry's place. -/
def Entry.after (e : Entry) (k i j : Nat) : Bool :=
  decide (k < e.k) || (decide (k = e.k) && (decide (i < e.i) || (decide (i = e.i) && decide (j < e.j))))

/-- The entry is filed under (k, i, j). -/
def Entry.is (e : Entry) (k i j : Nat) : Bool := decide (e.k = k ∧ e.i = i ∧ e.j = j)

/-- File `v` under (k, i, j), keeping the order. -/
def insEnt (l : List Entry) (k i j v : Nat) : List Entry :=
  match l with
  | [] => [⟨k, i, j, v⟩]
  | e :: r =>
    if e.is k i j then ⟨k, i, j, v⟩ :: r
    else if e.after k i j then ⟨k, i, j, v⟩ :: e :: r
    else e :: insEnt r k i j v

/-- File `v` under (k, i, j); a value equal to the default `d` is not filed. -/
def putEnt (l : List Entry) (k i j v d : Nat) : List Entry :=
  if v = d then l.filter (fun e => !e.is k i j) else insEnt l k i j v

/-- The value of a quantity. -/
def State.get (s : State) (f : Fld) (i : Nat := 0) (j : Nat := 0) : Nat :=
  lookupEnt s.vals f.key i j (f.spec.rst i j)

/-- Give a quantity a value, cut to its width. -/
def State.set (s : State) (f : Fld) (v : Nat) (i : Nat := 0) (j : Nat := 0) : State :=
  { s with vals := putEnt s.vals f.key i j (v % 2 ^ f.spec.w) (f.spec.rst i j) }

/-- A one-bit quantity read as a Boolean. -/
def State.flag (s : State) (f : Fld) (i : Nat := 0) (j : Nat := 0) : Bool := s.get f i j != 0

/-- Set a one-bit quantity from a Boolean. -/
def State.setB (s : State) (f : Fld) (b : Bool) (i : Nat := 0) (j : Nat := 0) : State := s.set f b.toNat i j

/-- Set a one-bit quantity. -/
def State.on (s : State) (f : Fld) (i : Nat := 0) (j : Nat := 0) : State := s.set f 1 i j

/-- Clear a quantity. -/
def State.off (s : State) (f : Fld) (i : Nat := 0) (j : Nat := 0) : State := s.set f 0 i j

/-- Bit `b` of a mask. -/
def State.bit (s : State) (f : Fld) (b : Nat) (i : Nat := 0) (j : Nat := 0) : Bool := (s.get f i j).testBit b

/-- The bits of `v` that are clear in `m`. -/
def andNot (v m : Nat) : Nat := v ^^^ (v &&& m)

/-- Set the bits of `m` in a mask. -/
def State.orMask (s : State) (f : Fld) (m : Nat) (i : Nat := 0) (j : Nat := 0) : State := s.set f (s.get f i j ||| m) i j

/-- Clear the bits of `m` in a mask. -/
def State.clrMask (s : State) (f : Fld) (m : Nat) (i : Nat := 0) (j : Nat := 0) : State := s.set f (andNot (s.get f i j) m) i j

/-- Set bit `b` of a mask. -/
def State.setBit (s : State) (f : Fld) (b : Nat) (i : Nat := 0) (j : Nat := 0) : State := s.orMask f (2 ^ b) i j

/-- Clear bit `b` of a mask. -/
def State.clrBit (s : State) (f : Fld) (b : Nat) (i : Nat := 0) (j : Nat := 0) : State := s.clrMask f (2 ^ b) i j

/-- Put bit `b` of a mask to `v`. -/
def State.putBit (s : State) (f : Fld) (b : Nat) (v : Bool) (i : Nat := 0) (j : Nat := 0) : State :=
  if v then s.setBit f b i j else s.clrBit f b i j

/-- Add `n` to a counter that stops at its largest value. -/
def State.incSat (s : State) (f : Fld) (i : Nat := 0) (j : Nat := 0) (n : Nat := 1) : State :=
  s.set f (min (s.get f i j + n) (2 ^ f.spec.w - 1)) i j

/-- Add one to a counter that wraps. -/
def State.inc (s : State) (f : Fld) (i : Nat := 0) (j : Nat := 0) : State := s.set f (s.get f i j + 1) i j

/-- A `w`-bit pattern read as a signed number. -/
def toSigned (w v : Nat) : Int := if v < 2 ^ (w - 1) then (v : Int) else (v : Int) - (2 ^ w : Nat)

/-- A signed number as a `w`-bit pattern. -/
def ofSigned (w : Nat) (v : Int) : Nat := (v % ((2 ^ w : Nat) : Int)).toNat

/-- The value of a quantity that holds a signed number. -/
def State.sget (s : State) (f : Fld) (i : Nat := 0) (j : Nat := 0) : Int := toSigned f.spec.w (s.get f i j)

/-- Give a quantity that holds a signed number a value. -/
def State.sset (s : State) (f : Fld) (v : Int) (i : Nat := 0) (j : Nat := 0) : State := s.set f (ofSigned f.spec.w v) i j

/-- Do `g` where `c` holds. -/
def State.when (s : State) (c : Bool) (g : State → State) : State := if c then g s else s

/-- Do `g` for each index of a list, in its order. -/
def State.forEach (s : State) (l : List Nat) (g : Nat → State → State) : State := l.foldl (fun t i => g i t) s

/-- Do `g` for each index below `n`. -/
def State.forUpTo (s : State) (n : Nat) (g : Nat → State → State) : State := s.forEach (List.range n) g

/-- Clamp a number between two bounds. -/
def clampI (lo hi v : Int) : Int := max lo (min hi v)

/-- Clamp a number between two bounds. -/
def clampN (lo hi v : Nat) : Nat := max lo (min hi v)

/-- Saturate to the signed range of `w` bits. -/
def satS (w : Nat) (v : Int) : Int := clampI (-(2 ^ (w - 1) : Nat)) ((2 ^ (w - 1) : Nat) - 1) v

/-- `w` bits of a word from bit `lo`. -/
def bits (v lo w : Nat) : Nat := v / 2 ^ lo % 2 ^ w

/-- Send a message. -/
def State.send (s : State) (k : MsgKind) (a : Nat := 0) (b : Nat := 0) (c : Nat := 0) : State :=
  { s with sent := ⟨k, a, b, c⟩ :: s.sent }

/-- Answer the initiator of an access. -/
def State.answer (s : State) (r : Resp) : State := { s with resp := r }

/-- Draw a free value of `w` bits: nothing constrains it. DESIGN CHOICE, log entry 1. -/
def State.free (s : State) (w : Nat) : Nat × State := ((Config.freeValue s.fresh).toNat % 2 ^ w, { s with fresh := s.fresh + 1 })

/-- Give a quantity a value that the specification leaves open. DESIGN CHOICE, log entry 1. -/
def State.setFree (s : State) (f : Fld) (i : Nat := 0) (j : Nat := 0) : State :=
  (s.free f.spec.w).2.set f (s.free f.spec.w).1 i j

/-- What an unlisted byte of memory reads as. DESIGN CHOICE, log entry 4. -/
def emptyByte : BitVec 8 := 0

/-- The byte at an address of the byte list. -/
def lookupByte (l : List Host.Cell) (a : Nat) : BitVec 8 :=
  match l with
  | [] => emptyByte
  | (b, v) :: r => if b = a then v else lookupByte r a

/-- Put a byte at an address, keeping the order. -/
def insByte (l : List Host.Cell) (a : Nat) (v : BitVec 8) : List Host.Cell :=
  match l with
  | [] => [(a, v)]
  | (b, x) :: r => if b = a then (a, v) :: r else if a < b then (a, v) :: (b, x) :: r else (b, x) :: insByte r a v

/-- Put a byte at an address; a byte that an unlisted address reads as anyway is not listed. -/
def putByte (l : List Host.Cell) (a : Nat) (v : BitVec 8) : List Host.Cell :=
  if v = emptyByte then l.filter (fun c => decide (c.1 ≠ a)) else insByte l a v

/-- The byte at a physical address. DESIGN CHOICE, log entry 4. -/
def State.byte (s : State) (a : Nat) : BitVec 8 := lookupByte s.mem a

/-- Store a byte. -/
def State.setByte (s : State) (a : Nat) (v : BitVec 8) : State := { s with mem := putByte s.mem a v }

/-- The little-endian number in the `n` bytes from an address. -/
def State.readN (s : State) (a : Nat) : Nat → Nat
  | 0 => 0
  | n + 1 => (s.byte a).toNat + 256 * s.readN (a + 1) n

/-- Store a number in the `n` bytes from an address, little-endian. -/
def State.writeN (s : State) (a v : Nat) : Nat → State
  | 0 => s
  | n + 1 => (s.setByte a (BitVec.ofNat 8 v)).writeN (a + 1) (v / 256) n

/-- Store a list of bytes from an address. -/
def State.writeBytes (s : State) (a : Nat) : List (BitVec 8) → State
  | [] => s
  | b :: r => (s.setByte a b).writeBytes (a + 1) r

/-- The memory's canonical form: addresses strictly rising, no byte equal to what an unlisted address reads as. -/
def memWf : List Host.Cell → Bool
  | [] => true
  | [(_, v)] => v != emptyByte
  | (a, v) :: (b, x) :: r => decide (a < b) && v != emptyByte && memWf ((b, x) :: r)

/-- Microseconds in fine ticks (R13). -/
def us (n : Nat) : Nat := n * 6400

/-- A meaning that only changes the state. DEDUCED, log entry 10. -/
abbrev done (s : State) : Host.Outcome State Fault Refusal := .next s

end Sys2Proof.Machine
end

