-- ==== Sys2Proof/Machine/Groups.lean ====
section
/-!
DEFINITION. The operations that the edge and guard islands share: output levels of a leg under the precedence of R221, safe
levels and safe dead time (R235 to R238), group disable (R225), group force (R239, R240), group sources (R227, R228).
-/
namespace Sys2Proof.Machine
open Sys2Proof

/-- LEG or ALEG `n` is a member of group `g` (R187). -/
def State.inGroup (s : State) (g n : Nat) : Bool :=
  if n < 32 then s.bit (.edge .OG_LEGS) n g else s.bit (.edge .OG_ALEGS) (n - 32) g

/-- The members of a group, LEGs first (R187). -/
def State.legsOf (s : State) (g : Nat) : List Nat := (List.range 41).filter (s.inGroup g)

/-- The groups a leg belongs to. -/
def State.groupsOf (s : State) (n : Nat) : List Nat := (List.range 16).filter (fun g => s.inGroup g n)

/-- The group that drives a leg: the first it belongs to (R221). -/
def State.groupOf (s : State) (n : Nat) : Option Nat := (s.groupsOf n).head?

/-- The group of the leg is enabled. -/
def State.legEnabled (s : State) (n : Nat) : Bool := (s.groupsOf n).any (fun g => s.bit (.edge .OG_EN) g)

/-- The group's safe level as R235 resolves it: 0 OFF, 1 ASC_LO, 2 ASC_HI. -/
def State.safeLevel (s : State) (g : Nat) : Nat :=
  let l := s.get (.grd .OG_CFG_SAFE) g
  if l = 3 then (if s.bit (.grd .BAND) g then 1 else 0) else l

/-- A channel's drive as the pins may follow it: the pairs stay off during EXTEST (R493), and while the edge island is out of RUN,
when the guard island and the pad hold cells hold them off (R30, R226, Table: Neighbours of an absent island). -/
def State.pinOn (s : State) (b : Bool) : Bool := b && !s.flag (.saf .EXTEST) && s.get (.saf .ISL_STAT_STATE) 7 == 0

/-- A channel's turn-on: its instant; an under-voltage report that stands as the high channel turns on moves the next refresh forward
(R218, R219). -/
def noteOn (n : Nat) (hi lo : Bool) (s : State) : State :=
  let t := s.when (hi && !s.flag (.edge .LEG_STAT_HI) n) (fun t => (t.set (.edge .LEG_HI_SINCE) s.now n).setB (.edge .LEG_REF_DUE)
    (s.flag (.edge .LEG_BUV) n && s.flag (.edge .LEG_REFRESH_BOOT_EN) n) n)
  t.when (lo && !s.flag (.edge .LEG_STAT_LO) n) (·.set (.edge .LEG_LO_SINCE) s.now n)

/-- A channel's turn-off: its instant; with the high channel the interval of the refresh ends (R218), and the end of a low-side interval at
which an under-voltage report stands is the one that the test of R220 counts from, unless it stood at an earlier one already. -/
def noteOff (n : Nat) (hi lo : Bool) (s : State) : State :=
  let t := s.when (!hi && s.flag (.edge .LEG_STAT_HI) n) (fun t => (t.set (.edge .LEG_TOFF_HI) s.now n).off (.edge .LEG_REF_DUE) n)
  t.when (!lo && s.flag (.edge .LEG_STAT_LO) n) (fun t => (t.set (.edge .LEG_TOFF_LO) s.now n).when
    (s.flag (.edge .LEG_BUV) n && !s.flag (.edge .LEG_BUV_STOOD) n) (·.set (.edge .LEG_BUV_STOOD) (s.now + 1) n))

/-- Put a leg's channels, with what goes with a turn-on and a turn-off (R192, R216, R218 to R220). -/
def setOut (n : Nat) (hi' lo' : Bool) (s : State) : State :=
  let hi := s.pinOn hi'
  let lo := s.pinOn lo'
  ((noteOff n hi lo (noteOn n hi lo s)).setB (.edge .LEG_STAT_HI) hi n).setB (.edge .LEG_STAT_LO) lo n

/-- Take a leg to its group's safe level: what the level turns off goes off at once, what it turns on waits for the safe
dead time, counted from the force or level change that asks for it (R237). -/
def legToSafe (g n : Nat) (s : State) : State :=
  let lvl := s.safeLevel g
  let hi := s.flag (.edge .LEG_STAT_HI) n && lvl == 2
  let lo := s.flag (.edge .LEG_STAT_LO) n && lvl == 1
  let due := if lvl = 2 ∧ !hi then 1 else if lvl = 1 ∧ !lo then 2 else 0
  let t := s.when (due != 0 && due != s.get (.edge .LEG_SAFE_DUE) n) (·.set (.edge .LEG_SAFE_AT) s.now n)
  (setOut n hi lo t).set (.edge .LEG_SAFE_DUE) due n |>.on (.edge .LEG_STAT_SAFE) n

/-- A leg's group holds it at its safe level: guard force, group disabled, or not yet at a reload boundary since the enable
(R189, R221 orders 2 and 3). -/
def State.held (s : State) (g n : Nat) : Bool :=
  s.bit (.grd .OG_LATCH) g || !s.bit (.edge .OG_EN) g || !s.flag (.edge .LEG_LIVE) n

/-- Drive a leg's channels by the first applicable line of Table: Output precedence (R221). The refresh interval restarts when the mode logic
drives the leg again (R218). -/
def driveLeg (n : Nat) (s : State) : State :=
  if s.flag (.edge .LEG_STAT_FORCED) n then
    (setOut n false false s).off (.edge .LEG_SAFE_DUE) n
  else match s.groupOf n with
  | none => (setOut n false false s).off (.edge .LEG_SAFE_DUE) n |>.off (.edge .LEG_STAT_SAFE) n
  | some g =>
    if s.held g n then legToSafe g n s
    else
      let t := s.when (s.flag (.edge .LEG_STAT_SAFE) n) (fun t => (t.set (.edge .LEG_HI_SINCE) s.now n).off (.edge .LEG_REF_DUE) n)
      (setOut n (s.flag (.edge .LEG_IL_HI) n && !s.flag (.edge .LEG_STAT_BOOT_UV) n) (s.flag (.edge .LEG_IL_LO) n) t).off
        (.edge .LEG_SAFE_DUE) n |>.off (.edge .LEG_STAT_SAFE) n

/-- Withdraw a leg's placed edges, requests and refresh; a refresh in progress ends with both channels off (R225). -/
def withdrawLeg (n : Nat) (s' : State) : State :=
  let s := s'.when (s'.get (.edge .LEG_REF) n != 0) (setOut n false false)
  ((((s.off (.edge .LEG_LIVE) n).off (.edge .LEG_CMD) n).off (.edge .LEG_QN) n).off (.edge .LEG_REF_DUE) n).off (.edge .LEG_IN_HI) n |>.off (.edge .LEG_IN_LO) n |>.off (.edge .LEG_IL_HI) n
    |>.off (.edge .LEG_IL_LO) n |>.off (.edge .LEG_DUE) n |>.off (.edge .LEG_REF) n

/-- The converter on a group is OFF once the group is disabled or forced (R376, R391): OG2 the line converter, OG5 the auxiliary
one. -/
def convOff (g : Nat) (s : State) : State :=
  if g = 2 then s.set (.drv .CV_STATE) 0 0 else if g = 5 then s.set (.drv .CV_STATE) 0 1 else s

/-- Disable a group: its legs go to the safe level through the safe dead time, placed edges are withdrawn; domains, players
and shadows keep running, no latch and no field of GRD_OG_STAT changes (R20, R225). -/
def disableGroup (g : Nat) (s : State) : State :=
  convOff g ((s.clrBit (.edge .OG_EN) g).forEach (s.legsOf g) (fun n t => driveLeg n (withdrawLeg n t)))

/-- Disable the groups of a mask. -/
def disableGroups (m : Nat) (s : State) : State := s.forUpTo 16 (fun g t => if m.testBit g then disableGroup g t else t)

/-- Some member of the group waits for its safe dead time. -/
def State.waitsSdt (s : State) (g : Nat) : Bool := (s.legsOf g).any (fun n => s.get (.edge .LEG_SAFE_DUE) n != 0)

/-- Move a group towards the safe level it now has: LEVEL shows it, MOVING reads 1 while the dead time runs (R237). -/
def moveGroup (g : Nat) (s : State) : State :=
  let t := (s.set (.grd .OG_STAT_LEVEL) (s.safeLevel g) g).forEach (s.legsOf g) driveLeg
  t.setB (.grd .OG_STAT_MOVING) (t.waitsSdt g) g

/-- Force a group: its latch sets, its enable bit clears in the same instant and it goes to its safe level; CAUSE keeps the
first cause since the latch last cleared, COUNT counts the force (R239, R240). -/
def forceGroup (g cause : Nat) (s' : State) : State :=
  let s := convOff g s'
  if s.bit (.grd .OG_LATCH) g then
    moveGroup g ((s.clrBit (.edge .OG_EN) g).forEach (s.legsOf g) withdrawLeg)
  else
    moveGroup g ((((s.setBit (.grd .OG_LATCH) g).on (.grd .OG_STAT_FORCED) g).set (.grd .OG_STAT_CAUSE) cause g |>.incSat
      (.grd .OG_STAT_COUNT) g |>.clrBit (.edge .OG_EN) g).forEach (s.legsOf g) withdrawLeg)

/-- Force every group of a mask. DEDUCED, log entry 38. -/
def forceGroups (m cause : Nat) (s : State) : State :=
  s.forUpTo 16 (fun g t => if m.testBit g then forceGroup g cause t else t)

/-- The effective route of a group source: ROUTE, and for an engine's source also the engine's DEP (R228). -/
def State.route (s : State) (src : Nat) : Nat :=
  if 48 ≤ src ∧ src ≤ 63 then s.get (.grd .ROUTE) src ||| s.get (.loop .LE_DEP) (src - 48)
  else if src = 68 then 0xFFFF else s.get (.grd .ROUTE) src

/-- The source latch of a source (R239). -/
def State.srcLatched (s : State) (src : Nat) : Bool := s.bit (.grd .SRC_LATCH) (src % 32) (src / 32)

/-- A group source asserts: its latch sets and every group of its effective route is forced (R228, R239, R240). -/
def assertSource (src : Nat) (s : State) : State :=
  forceGroups (s.route src) src ((s.on (.grd .SRC_ACT) src).setBit (.grd .SRC_LATCH) (src % 32) (src / 32))

/-- A group source deasserts; its latch stays (R241, R618). -/
def deassertSource (src : Nat) (s : State) : State := s.off (.grd .SRC_ACT) src

/-- The safety island sets force bits: each named group is forced with CAUSE 0x62 (R21, R239). -/
def setSafForce (m why : Nat) (s : State) : State :=
  (forceGroups m 0x62 (s.orMask (.grd .SAF_FORCE) m)).forUpTo 16
    (fun g t => if m.testBit g then t.setBit (.saf .FORCE_CAUSE) why g else t)

/-- The safety island drops one of its reasons for holding force bits; a bit goes once no reason is left (R247, R464). -/
def dropSafForce (m why : Nat) (s : State) : State :=
  s.forUpTo 16 (fun g t =>
    if m.testBit g then
      let u := t.clrBit (.saf .FORCE_CAUSE) why g
      if u.get (.saf .FORCE_CAUSE) g = 0 then u.clrBit (.grd .SAF_FORCE) g else u
    else t)

/-- Open the drivers of the lowest ORDER among those an opening sequence has still to open; when none is left the pack
sequence reads OPEN (R486). -/
def openStep (s : State) : State :=
  let left := (List.range 8).filter (fun c => s.bit (.saf .OPEN_MASK) c)
  match (left.map (fun c => s.get (.saf .CD_CFG_ORDER) c)).min? with
  | none => s.when (s.get (.saf .CSEQ_PSTATE) == 4) (·.set (.saf .CSEQ_PSTATE) 0)
  | some o =>
    let t := s.forEach (left.filter (fun c => s.get (.saf .CD_CFG_ORDER) c == o)) (fun c t =>
      (t.off (.saf .CD_STAT_ON) c).off (.saf .CD_STAT_HOLDING) c |>.clrBit (.saf .OPEN_MASK) c)
    let t := t.set (.saf .OPEN_AT) (s.now + 1)
    if t.get (.saf .OPEN_MASK) = 0 then t.when (t.get (.saf .CSEQ_PSTATE) == 4) (·.set (.saf .CSEQ_PSTATE) 0) else t

/-- Start an opening sequence over the drivers of a mask that are on (R486); with `pack`, PSTATE reads OPENING and a driver in
pull-in is released at once (When an opening request meets a closing sequence). A sequence under way goes on from where it stands,
its GAP included (R56). -/
def openDrivers (m : Nat) (pack : Bool) (s : State) : State :=
  let busy := s.get (.saf .OPEN_MASK) != 0
  let s := s.when pack (fun t => t.forUpTo 8 (fun c t =>
    t.when (m.testBit c && t.flag (.saf .CD_STAT_ON) c && !t.flag (.saf .CD_STAT_HOLDING) c) (·.off (.saf .CD_STAT_ON) c)))
  let on := ((List.range 8).filter (fun c => m.testBit c && s.flag (.saf .CD_STAT_ON) c)).foldl (fun a c => a + 2 ^ c) 0
  let t := (s.orMask (.saf .OPEN_MASK) on).when pack (·.set (.saf .CSEQ_PSTATE) 4)
  if busy then t else openStep t

/-- OPENING_GAP_EXPIRY: GAP has passed since the last ORDER opened (R486). -/
def openGap (s : State) : State :=
  let at_ := s.get (.saf .OPEN_AT)
  if at_ ≠ 0 ∧ s.now < at_ - 1 + us (1000 * s.get (.saf .CSEQ_GAP)) then s else openStep s

/-- Entry into SAFE_HOLD: a change in progress is pre-empted, every group goes to its safe level, the all-open contactor
sequence starts, S2 opens, CAUSE records the source; of a host request and an escalation at one instant it records the escalation
(R56, R57, R412, R486). DEDUCED, log entry 38. -/
def enterSafeHold (cause : Nat) (s : State) : State :=
  if s.get (.saf .AXLE_MODE_MODE) = 6 ∧ !s.flag (.saf .AXLE_MODE_BUSY) then s
  else
    let t := if cause = 7 ∧ s.get (.saf .HOLD_AT) = s.now + 1 then s else s.set (.saf .AXLE_MODE_CAUSE) cause
    let t := if cause = 7 then t else t.set (.saf .HOLD_AT) (s.now + 1)
    let t := ((t.on (.saf .AXLE_MODE_BUSY)).set (.saf .MODE_TGT) 6 |>.on (.saf .HOLD_LATCHED)).off (.saf .STOW_DUE)
    openDrivers 0xFF true ((disableGroups 0xFFFF t).off (.sns .CP_CTRL_S2) |>.off (.sns .CP_STAT_S2_ON))

end Sys2Proof.Machine
end

