-- ==== Sys2Proof/Machine/Access.lean ====
section
/-!
DEFINITION. Accesses over the sideband: address windows (R48, R49), closed islands (R32, R42), the firewall (R469 to R472),
the access codes of R7 with the ignored-write report of R8, and the word a register reads as.
-/
namespace Sys2Proof.Machine
open Sys2Proof

/-- The firewall classes of R469. -/
inductive WhoClass where
  | safety | trusted | guest | debug
  deriving DecidableEq, Repr

/-- The class of an initiator; the debug port is TRUSTED while UNLOCKED (R469). -/
def State.classOf (s : State) : Who → WhoClass
  | .safety => .safety
  | .core _ _ => .guest
  | .debug => if s.flag (.saf .DBG_UNLOCKED) then .trusted else .debug
  | _ => .trusted

/-- The island whose window holds a physical address (R48); `none`: unmapped. -/
def windowOf (a : Nat) : Option Nat :=
  if a < 0x1C0000000 then some 10
  else if a < 0x1000000000 then none
  else if a < 0x1010000000 then some 0
  else if a < 0x1020000000 then some 1
  else if a < 0x1024000000 then some (2 + (a - 0x1020000000) / 0x1000000)
  else if a < 0x1030000000 then none
  else if a < 0x1032000000 then some 6
  else if a < 0x1040000000 then none
  else if a < 0x1041040000 then some 7
  else if a < 0x1050000000 then none
  else if a < 0x1060000000 then some 8
  else if a < 0x1070000000 then some 9
  else if a < 0x1080000000 then some 10
  else if a < 0x1090000000 then some 11
  else if a < 0x10A0000000 then some 12
  else if a < 0x1800000000 then none
  else if a < 0x1800800000 then some 13
  else none

/-- A register heading covers an address, with the two indices of the register there. -/
def RegRow.find (r : RegRow) (a : Nat) : Option (Nat × Nat) :=
  if a < r.base then none
  else
    let o := a - r.base
    let i1 := if r.s1 = 0 then 0 else min (o / r.s1) (r.n1 - 1)
    let o := o - i1 * r.s1
    let i2 := if r.s2 = 0 then 0 else min (o / r.s2) (r.n2 - 1)
    let o := o - i2 * r.s2
    let i3 := if r.s3 = 0 then 0 else min (o / r.s3) (r.n3 - 1)
    if o = i3 * r.s3 then some (r.i0 + i1, i2 * r.n3 + i3) else none

/-- The register at an address: its heading and indices. -/
def findReg (a : Nat) : List RegRow → Option (RegRow × Nat × Nat)
  | [] => none
  | r :: l => match r.find a with
    | some (i, j) => some (r, i, j)
    | none => findReg a l

/-- The identity word of an island's window (R23): code, instance, silicon revision 3, map version 1. -/
def islandId (n : Nat) : Nat := n * 0x1000000 + (if 2 ≤ n ∧ n ≤ 5 then (n - 2) * 0x10000 else 0) + 0x0301

/-- The address of an island's identity register (R23); LAG has none. -/
def idAddr (n : Nat) : Option Nat :=
  if n = 13 then none
  else if n = 6 then some 0x1031000000
  else if 2 ≤ n ∧ n ≤ 5 then some (0x1020000000 + (n - 2) * 0x1000000)
  else if n = 0 then some 0x1000000000
  else if n = 1 then some 0x1010000000
  else some (0x1040000000 + (n - 7) * 0x10000000)

/-- The address lies in a memory that is read as words: a tide store (R79), or a schedule bank, the program memory, the data
memory or the trace RAM of a loop engine (R104). -/
def memWindow (a : Nat) : Bool :=
  (decide (0x1041000000 ≤ a) && decide (a < 0x1041040000)) ||
    (decide (0x1030000000 ≤ a) && decide (a < 0x1031000000) &&
      let o := a % 0x100000
      (decide (0x1000 ≤ o) && decide (o < 0x1800)) || (decide (0x40000 ≤ o) && decide (o < 0x48000)) ||
        (decide (0x60000 ≤ o) && decide (o < 0x64000)) || (decide (0x80000 ≤ o) && decide (o < 0x88000)))

/-- A register exists at the address (R43). -/
def regExists (a : Nat) : Bool :=
  (findReg a regTable).isSome || (List.range 14).any (fun n => idAddr n == some a) || memWindow a

/-- The frame period of an engine in fine ticks: FDIV + 1 active periods of its domain (R115, R195). -/
def State.frameTicks (s : State) (e : Nat) : Nat :=
  (s.get (.loop .LE_CTRL_FDIV) e + 1) * max 80 (s.get (.edge .DOM_A_PERIOD) (s.get (.loop .LE_CTRL_DOMAIN) e))

/-- The actuator island's clock runs: RUN or ISOLATED (R16). -/
def State.actClocked (s : State) : Bool := s.get (.saf .ISL_STAT_STATE) 11 == 0 || s.get (.saf .ISL_STAT_STATE) 11 == 4

/-- The edge island's clock runs: RUN or ISOLATED (R16). -/
def State.edgeClocked (s : State) : Bool := s.get (.saf .ISL_STAT_STATE) 7 == 0 || s.get (.saf .ISL_STAT_STATE) 7 == 4

/-- A reload domain runs: it is enabled and the edge island's clock runs (R16, R182, R616). -/
def State.domRuns (s : State) (d : Nat) : Bool := s.flag (.edge .DOM_STAT_RUNNING) d && s.edgeClocked

/-- The sense island's clock runs: RUN or ISOLATED (R16). -/
def State.senseClocked (s : State) : Bool := s.get (.saf .ISL_STAT_STATE) 9 == 0 || s.get (.saf .ISL_STAT_STATE) 9 == 4

/-- A source has sent a value to the input ports that name it (R111, R285). -/
def sourceSent (kind idx : Nat) (s : State) : State := s.inc (.loop .SRC_SEQ) kind idx

/-- How far a player's accumulator moves in `n` edge ticks: RATE each tick, and up to CSTEP of the pending correction each tick; a CSTEP of
0 moves it whole (R201, R206). -/
def State.move (s : State) (p n : Nat) : Int :=
  if n = 0 then 0
  else
    let pend := s.sget (.edge .TP_PEND) p
    let c : Int := s.get (.edge .TP_CFG_CSTEP) p
    let lim : Int := if c = 0 then pend.natAbs else (n : Int) * c
    (n : Int) * s.sget (.edge .TP_A_RATE) p + clampI (-lim) lim pend * 65536

/-- Set a player's accumulator; the angle register shows its integer part (R201). -/
def setTheta (p v : Nat) (s : State) : State :=
  (s.set (.edge .TP_THETA) v p).set (.edge .TP_ANGLE) (v % 2 ^ 40 / 65536) p

/-- Advance a player by `n` edge ticks (R201, R206). -/
def advance (p n : Nat) (s : State) : State :=
  let d := s.move p n
  let corr := (d - (n : Int) * s.sget (.edge .TP_A_RATE) p) / 65536
  (setTheta p (((s.get (.edge .TP_THETA) p : Int) + d) % (2 ^ 40 : Nat)).toNat s).sset (.edge .TP_PEND)
    (s.sget (.edge .TP_PEND) p - corr) p |>.sset (.edge .TP_GAP) (s.sget (.edge .TP_GAP) p - d) p |>.set (.edge .TP_AT)
    (s.get (.edge .TP_AT) p + n) p

/-- The rate and the correction taken over at a boundary inside an edge tick act from the following tick (R184, R201). -/
def takeRate (p : Nat) (s : State) : State :=
  ((s.set (.edge .TP_A_RATE) (s.get (.edge .TP_NRATE) p) p).sset (.edge .TP_PEND) (s.sget (.edge .TP_PEND) p + s.sget (.edge .TP_NCORR) p)
    p).off (.edge .TP_NEW) p

/-- Bring a player's angle to the present edge tick; it moves while the player is enabled and the edge clock runs (R16, R201). -/
def catchUp (p : Nat) (s : State) : State :=
  if !s.flag (.edge .TP_CFG_EN) p ∨ !s.edgeClocked then s
  else
    let k := s.now / 8
    let b := s.get (.edge .TP_NEW) p
    let t := if b ≠ 0 ∧ b ≤ k then takeRate p (advance p (b - s.get (.edge .TP_AT) p) s) else s
    advance p (k - t.get (.edge .TP_AT) p) t

/-- The players' angles begin to move at the present edge tick: the edge clock is back, or the player is enabled now. -/
def restartAngle (p : Nat) (s : State) : State := s.set (.edge .TP_AT) (s.now / 8) p

/-- FRAME_OK: the domain runs and the frame period lies from 5 us to 10 ms (R116). -/
def State.frameOk (s : State) (e : Nat) : Bool :=
  s.domRuns (s.get (.loop .LE_CTRL_DOMAIN) e) && decide (us 5 ≤ s.frameTicks e) &&
    decide (s.frameTicks e ≤ us 10000)

/-- Nanoseconds since reset on the module's own clock (R13). -/
def State.nsNow (s : State) : Nat := s.now * 5 / 32

/-- How much of the measured offset slewing has removed so far (R526). -/
def State.slewed (s : State) : Int :=
  let d : Int := (s.nsNow - s.get (.ifc .T_SLEW_AT)) * s.get (.ifc .T_PPM) / 1000000
  clampI (-d) d (s.sget (.ifc .T_REM))

/-- Axle time in nanoseconds (R14, R526). -/
def State.axleTime (s : State) : Nat := ofSigned 64 (s.nsNow + s.get (.ifc .T_OFFS) + s.slewed)

/-- Hours of Run since the last FULL self-test (R578): while the module is out of Run the count stands. DEDUCED, log entry 60. -/
def State.runHours (s : State) : Nat :=
  let stop := if s.get (.aon .RUN_LEFT) = 0 then s.now else s.get (.aon .RUN_LEFT) - 1
  (stop - s.get (.saf .RUN_MS)) / us 3600000000

/-- The value a field reads as: FRAME_OK (R116), the low word of axle time (R14), a player's angle (R201) and a port's KIB follow the present
state. -/
def State.shown (s : State) (f : Fld) (i j : Nat) : Nat :=
  match f with
  | .loop .LE_STAT_FRAME_OK => (s.frameOk i).toNat
  | .ifc .ATIME_LO => s.axleTime % 2 ^ 32
  | .grd .STAT_LOCKED => (s.bit (.saf .LOCK_ISL_LOCK) 8).toNat
  | .edge .TP_ANGLE => (catchUp i s).get f i j
  | .saf .STEST_AGE => min 0xFFFF (s.runHours)
  | .mem .PORT_STAT_KIB =>
    let w := s.now / us 1000
    if s.get (.mem .KIB_AT) i = w then s.get f i
    else if s.get (.mem .KIB_AT) i + 1 = w then min 0xFFFF (s.get (.mem .KIB_ACC) i / 1024) else 0
  | f => s.get f i j

/-- The word a register reads as: each field at its place, write-only and reserved fields 0 (R6, R7). -/
def State.readReg (s : State) (a : Nat) : Nat :=
  match (List.range 14).find? (fun n => idAddr n == some a) with
  | some n => islandId n
  | none =>
    if memWindow a then s.readN a 4
    else match findReg a regTable with
    | none => 0
    | some (r, i, j) => (r.places.map (fun p =>
        if p.f.spec.acc = .wo then 0 else s.shown p.f (i + p.di) (j + p.dj) * 2 ^ p.lo)).sum

/-- Leg `n` is a member of one of OG0 to OG8. -/
def State.legSafety (s : State) (n : Nat) : Bool := (List.range 9).any (fun g => s.inGroup g n)

/-- The leg follows player `p`: TIDE, SIXSTEP, or CMTMASK counting the player's marks (R186, R209, R211). -/
def State.follows (s : State) (p n : Nat) : Bool :=
  s.get (.edge .LEG_CFG_PLAYER) n == p &&
    (s.get (.edge .LEG_CFG_MODE) n == 2 || s.get (.edge .LEG_CFG_MODE) n == 3 ||
      (s.get (.edge .LEG_CFG_MODE) n == 4 && s.get (.edge .LEG_CFG_CSRC) n == 3))

/-- A domain is bound to a leg of OG0 to OG8. -/
def State.domSafety (s : State) (d : Nat) : Bool :=
  (List.range 41).any (fun n => s.legSafety n && s.get (.edge .LEG_CFG_DOMAIN) n == d)

/-- A write of `v` to the EDGE window at offset `o` touches a safety-designated resource (R470, R471). DEDUCED, log entry 22. DEDUCED, log entry 34. -/
def State.edgeDesignated (s : State) (o v : Nat) : Bool :=
  if o = 0x0C then (List.range 8).any (fun d => (v.testBit d || v.testBit (8 + d)) && s.domSafety d)
  else if o = 0x10 ∨ o = 0x14 then true
  else if o = 0x20 then ((v ^^^ s.get (.edge .OG_EN)) &&& 0x1FF) != 0
  else if o = 0x24 then (v &&& 0x1FF) != 0
  else if 0x40 ≤ o ∧ o < 0xC0 then decide ((o - 0x40) / 8 ≤ 8)
  else if 0x100 ≤ o ∧ o < 0x200 then s.domSafety ((o - 0x100) / 0x20)
  else if 0x200 ≤ o ∧ o < 0x280 then (List.range 41).any (fun n => s.legSafety n && s.follows ((o - 0x200) / 0x20) n)
  else if 0x400 ≤ o ∧ o < 0xC00 then s.legSafety ((o - 0x400) / 0x40)
  else if 0xE10 ≤ o ∧ o < 0xE50 then true
  else if 0x1000 ≤ o ∧ o < 0x1240 then s.legSafety (32 + (o - 0x1000) / 0x40)
  else if 0x2000 ≤ o ∧ o < 0x2800 then s.legSafety ((o - 0x2000) / 0x40)
  else false

/-- The initiator a KICK watchdog watches. -/
def wdWho (w : Nat) (k : Who) : Bool :=
  if w = 0 then k == .ifc else match k with | .pair p => p.val + 1 == w | _ => false

/-- The firewall lets the initiator write `v` at the address (R470, R471). DEDUCED, log entry 7. -/
def State.mayWrite (s : State) (w : Who) (a v : Nat) : Bool :=
  let c := s.classOf w
  let st := c == .safety || c == .trusted
  if 0x1000000000 ≤ a ∧ a < 0x1010000000 then
    c == .safety || (decide (0x1000000400 ≤ a) && decide (a < 0x1000000500) && a % 16 == 4 && wdWho ((a - 0x1000000400) / 16) w)
  else if 0x1050000000 ≤ a ∧ a < 0x1060000000 then
    let o := a - 0x1050000000
    c == .safety || (c == .trusted && !(o == 0x10 || o == 0x14 || o == 0x18 || o == 0x80 || o == 0x90 || o == 0x98))
  else if 0x1040000000 ≤ a ∧ a < 0x1041000000 then st || !s.edgeDesignated (a - 0x1040000000) v
  else if 0x1041000000 ≤ a ∧ a < 0x1041040000 then st
  else if 0x1031000000 ≤ a ∧ a < 0x1032000000 then st
  else if 0x1030000000 ≤ a ∧ a < 0x1031000000 then
    st || (s.get (.loop .LE_DEP) ((a - 0x1030000000) / 0x100000) &&& 0x1FF) == 0
  else if 0x1060000000 ≤ a ∧ a < 0x10A0000000 then st
  else if a < 0x1C0000000 then
    st || !(List.range 8).any (fun r => s.flag (.saf .FW_RGN_BASE_EN) r &&
      decide (s.get (.saf .FW_RGN_BASE_ADDR) r ≤ a / 4096) && decide (a / 4096 ≤ s.get (.saf .FW_RGN_LIM) r))
  else true

/-- The violation log: it holds the first violation since VALID was last cleared; each is reported at level 4 (R8, R472). -/
def logViolation (kind : Nat) (w : Who) (a : Nat) (s : State) : State :=
  (s.when (!s.flag (.saf .VIOL_VALID)) (fun t =>
    ((t.set (.saf .VIOL_TYPE) kind).set (.saf .VIOL_INIT) w.code |>.set (.saf .VIOL_AHI) (a / 2 ^ 32)
      |>.set (.saf .VIOL_ADDR) (a % 2 ^ 32)).on (.saf .VIOL_VALID))).send .level4 472 kind w.code

/-- The island answers accesses from the initiator: RUN, or ISOLATED for SAF only (R32, R42). -/
def State.islandOpen (s : State) (n : Nat) (w : Who) : Bool :=
  s.get (.saf .ISL_STAT_STATE) n == 0 || (s.get (.saf .ISL_STAT_STATE) n == 4 && w == .safety)

/-- A transition drains: from RUN towards GATED, RETAIN or OFF (R38). -/
def State.draining (s : State) (n : Nat) : Bool :=
  s.flag (.saf .ISL_STAT_BUSY) n && s.get (.saf .ISL_STAT_STATE) n == 0 && [1, 2, 3].contains (s.get (.saf .ISL_TGT) n)

/-- A sideband write of `v`: unmapped, closed, no register, refused by the firewall, or carried out by `g`
(R32, R42, R43, R49, R472). DEDUCED, log entry 7. DEDUCED, log entry 15. -/
def sideband (w : Who) (a v : Nat) (g : State → State) (s : State) : State :=
  match windowOf a with
  | none => s.answer (.error 2)
  | some n =>
    if !s.islandOpen n w then (s.on (.saf .ISL_STAT_CLOSED_SEEN) n).answer .closed
    else if !regExists a then s.answer .accessError
    else if !s.mayWrite w a v then (logViolation 1 w a s).answer (.error 3 (some n))
    else (g s).answer .ok

/-- A sideband read that `g` carries out; reads are never refused by the firewall (R32, R42, R43, R470). -/
def sidebandRead (w : Who) (a : Nat) (g : State → State) (s : State) : State :=
  match windowOf a with
  | none => s.answer (.error 2)
  | some n =>
    if !s.islandOpen n w then (s.on (.saf .ISL_STAT_CLOSED_SEEN) n).answer .closed
    else if !regExists a then s.answer .accessError
    else (g s).answer (.data (s.readReg a))

/-- A sideband read whose own effect comes first and shows in the data (MEM_FR_ALLOC, IFC_ATIME_LO). -/
def sidebandReadAfter (w : Who) (a : Nat) (g : State → State) (s : State) : State :=
  match windowOf a with
  | none => s.answer (.error 2)
  | some n =>
    if !s.islandOpen n w then (s.on (.saf .ISL_STAT_CLOSED_SEEN) n).answer .closed
    else if !regExists a then s.answer .accessError
    else (g s).answer (.data ((g s).readReg a))

/-- The island lock that freezes the RWL fields of a register at the address is set, or a reconfiguration window keeps this
class out (R478, R480). -/
def State.rwlFrozen (s : State) (w : Who) (a : Nat) : Bool :=
  match windowOf a with
  | none => true
  | some n => s.bit (.saf .LOCK_ISL_LOCK) n ||
      (s.flag (.saf .LOCK_WINDOW) && !(s.classOf w == .safety || s.classOf w == .trusted))

/-- Fields whose writes the description of their register takes away for some indices. -/
def fixedField (f : Fld) (i : Nat) : Bool :=
  (f == .saf .MODE_GRP && i == 6) || (f == .grd .ROUTE && i == 68) || (f == .grd .CM_CFG_EN && decide (i < 2))

/-- Write the value `v` of one field under its access code (R7). -/
def writeField (w : Who) (a : Nat) (f : Fld) (i j v : Nat) (s : State) : State :=
  if fixedField f i then s
  else match f.spec.acc with
  | .rw => s.set f v i j
  | .w1c => s.clrMask f v i j
  | .w1s => s.orMask f v i j
  | .rwl => if s.rwlFrozen w a then s else s.set f v i j
  | .rws => if w == .safety then s.set f v i j else s
  | .ro | .wo | .own | .hid => s

/-- The violation kind of an ignored write of `v` to a field: 2 for RWL, 3 for RWS, 0 where nothing was ignored or the
value is the present one (R8). -/
def State.ignoredKind (s : State) (w : Who) (a : Nat) (f : Fld) (i j v : Nat) : Nat :=
  if v = s.get f i j ∨ fixedField f i then 0
  else match f.spec.acc with
  | .rwl => if s.rwlFrozen w a then 2 else 0
  | .rws => if w == .safety then 0 else 3
  | _ => 0

/-- The value a register word carries for a field. -/
def Place.value (p : Place) (v : Nat) : Nat := bits v p.lo p.f.spec.w

/-- Report the first field of a register word whose ignored write carried another value than it held in `s` (R8). -/
def reportIgnored (w : Who) (a v : Nat) (r : RegRow) (i j : Nat) (s t : State) : State :=
  match (r.places.map (fun p => s.ignoredKind w a p.f (i + p.di) (j + p.dj) (p.value v))).find? (· != 0) with
  | some k => logViolation k w a t
  | none => t

/-- Write a register word field by field, and report the first ignored write that carried another value (R7, R8). -/
def writeWord (w : Who) (a v : Nat) (r : RegRow) (i j : Nat) (s : State) : State :=
  reportIgnored w a v r i j s (r.places.foldl (fun t p => writeField w a p.f (i + p.di) (j + p.dj) (p.value v) t) s)

/-- The write of a word is discarded by a rule of its own (CFG_BUSY, CLK_BUSY): what it would have changed in a locked field is
still an ignored write (R8). -/
def discardWord (w : Who) (a v : Nat) (s : State) : State :=
  match findReg a regTable with
  | some (r, i, j) => reportIgnored w a v r i j s s
  | none => s

/-- Write a word to whatever register stands at an address, under its access codes (R7). DEDUCED, log entry 29. -/
def storeWord (w : Who) (a v : Nat) (s : State) : State :=
  match findReg a regTable with
  | some (r, i, j) => writeWord w a v r i j s
  | none => s

end Sys2Proof.Machine
end

