-- ==== Sys2Proof/Machine/Tide.lean ====
section
/-!
DEFINITION. Tide stores and the tide loader (R75 to R89): entries, pages, loads, page requests and their classification.
-/
namespace Sys2Proof.Machine
open Sys2Proof

/-- Physical address of entry `e` of a page of a tide store (R77, R79). -/
def tideAddr (p page e : Nat) : Nat := 0x1041000000 + 0x10000 * p + 8 * (4096 * page + e)

/-- Entry `e` of a page. -/
def State.tideEntry (s : State) (p page e : Nat) : Nat := s.readN (tideAddr p page e) 8

/-- ANGLE of an entry (R75). -/
def entAngle (e : Nat) : Nat := bits e 0 24
/-- LEG of an entry (R75). -/
def entLeg (e : Nat) : Nat := bits e 24 5
/-- STATE of an entry (R75). -/
def entState (e : Nat) : Nat := bits e 29 2
/-- MARK of an entry (R75). -/
def entMark (e : Nat) : Bool := e.testBit 31
/-- SLOT of an entry (R75). -/
def entSlot (e : Nat) : Nat := bits e 32 2
/-- LAST of an entry (R75). -/
def entLast (e : Nat) : Bool := e.testBit 34
/-- TRIG of an entry (R75). -/
def entTrig (e : Nat) : Nat := bits e 35 2

/-- The page a store plays, and the other one (R77). -/
def State.activePage (s : State) (p : Nat) : Nat := s.get (.edge .TS_STAT_ACTIVE) p
/-- The page a store may load. -/
def State.otherPage (s : State) (p : Nat) : Nat := 1 - s.activePage p
/-- The tag of a page (R78). -/
def State.tagOf (s : State) (p page : Nat) : Nat :=
  if page = 0 then s.get (.edge .TS_TAG_TAG0) p else s.get (.edge .TS_TAG_TAG1) p
/-- The VALID bit of a page (R78). -/
def State.pageValid (s : State) (p page : Nat) : Bool :=
  if page = 0 then s.flag (.edge .TS_STAT_VALID0) p else s.flag (.edge .TS_STAT_VALID1) p
/-- Set a page's VALID bit. -/
def setPageValid (p page : Nat) (v : Bool) (s : State) : State :=
  if page = 0 then s.setB (.edge .TS_STAT_VALID0) v p else s.setB (.edge .TS_STAT_VALID1) v p
/-- Set a page's tag. -/
def setTag (p page v : Nat) (s : State) : State :=
  if page = 0 then s.set (.edge .TS_TAG_TAG0) v p else s.set (.edge .TS_TAG_TAG1) v p

/-- SWAP_PEND reads 1 while the pending request equals the tag of a VALID inactive page (R84). -/
def refreshSwap (p : Nat) (s : State) : State :=
  s.setB (.edge .TS_STAT_SWAP_PEND) (s.flag (.edge .TS_REQ_HAS) p && s.get (.edge .TS_REQ) p == s.tagOf p (s.otherPage p) &&
    s.get (.edge .TS_REQ) p != 0 && s.pageValid p (s.otherPage p)) p

/-- The entries of a page are undefined after a load that failed or was cut short: free values (R82). -/
def spoilPage (p page : Nat) (s : State) : State :=
  s.forUpTo 8192 (fun k t => (t.free 32).2.writeN (0x1041000000 + 0x10000 * p + 4 * (8192 * page + k)) (t.free 32).1 4)

/-- Start a tide load of a PPI into the inactive page: its VALID bit clears; a load in progress is replaced, one of the same
PPI continues (R82, R83). -/
def startLoad (p ppi : Nat) (s : State) : State :=
  if s.flag (.edge .TS_STAT_LOADING) p ∧ s.get (.edge .TS_LD_PPI) p = ppi then s
  else
    let u := s.when (s.flag (.edge .TS_STAT_LOADING) p) (spoilPage p (s.otherPage p))
    refreshSwap p (((setPageValid p (s.otherPage p) false u).on (.edge .TS_STAT_LOADING) p).set (.edge .TS_LD_PPI) ppi p)

/-- A write of LOAD_PPI (R83). -/
def loadPpi (p ppi : Nat) (s : State) : State :=
  if ppi = 0 then s
  else if ppi > s.get (.edge .TL_DIRN) then s.on (.edge .TS_STAT_LOAD_ERR) p
  else startLoad p ppi s

/-- A directory entry's fields (R80). -/
structure DirEntry where
  ppi : Nat
  kind : Nat
  pulses : Nat
  count : Nat
  store : Nat
  offset : Nat
  legs : Nat
  resv : Nat
  deriving DecidableEq, Repr

/-- Base address of the tide directory. -/
def State.tideBase (s : State) : Nat := s.get (.edge .TL_BASE) * 4096

/-- The directory entry of a PPI (R80). -/
def State.dirEntry (s : State) (ppi : Nat) : DirEntry :=
  let a := s.tideBase + 16 * (ppi - 1)
  ⟨s.readN a 2, s.readN (a + 2) 1, s.readN (a + 3) 1, s.readN (a + 4) 2, s.readN (a + 6) 1, s.readN (a + 8) 4,
    s.readN (a + 12) 4, s.readN (a + 7) 1⟩

/-- Address of a pattern (R80). -/
def State.patternAddr (s : State) (d : DirEntry) : Nat :=
  s.tideBase + (16 * s.get (.edge .TL_DIRN) + 4095) / 4096 * 4096 + d.offset

/-- The checks on the directory entry (R80, R81). R81's list does not name a PPI that differs from index + 1, which R80 forbids: here it
fails the load too. DESIGN CHOICE, log entry 78. -/
def DirEntry.ok (d : DirEntry) (p ppi : Nat) : Bool :=
  d.ppi == ppi && d.resv == 0 && d.count != 0 && decide (d.count ≤ 4096) && d.offset % 64 == 0 && d.store == p

/-- The checks on entry `k` of a pattern, given the previous ANGLE and the legs already seen at it (R76, R81). -/
def entryOk (d : DirEntry) (k e prev : Nat) (seen : List Nat) : Bool :=
  entState e != 3 && d.legs.testBit (entLeg e) && e / 2 ^ 37 == 0 && decide (prev ≤ entAngle e) &&
    !(entAngle e == prev && seen.contains (entLeg e)) && (entLast e == decide (k + 1 = d.count))

/-- Check and write the `n` entries left from entry `k` of the pattern at address `a`; the result says whether all
passed (R81). -/
def copyPattern (d : DirEntry) (p page a k prev : Nat) (seen : List Nat) (s : State) : Nat → Bool × State
  | 0 => (true, s)
  | n + 1 =>
    let e := s.readN (a + 8 * k) 8
    if !entryOk d k e prev seen then (false, s)
    else
      copyPattern d p page a (k + 1) (entAngle e) (if entAngle e = prev then entLeg e :: seen else [entLeg e])
        (s.writeN (tideAddr p page k) e 8) n

/-- End a load: LOADING clears; a failed one leaves the page invalid with tag 0 and its entries undefined (R81, R82). -/
def endLoad (p ppi : Nat) (ok : Bool) (s : State) : State :=
  let page := s.otherPage p
  let t := (s.off (.edge .TS_STAT_LOADING) p).off (.edge .TS_LD_PPI) p
  refreshSwap p (if ok then setTag p page ppi (setPageValid p page true t)
    else spoilPage p page (setTag p page 0 (setPageValid p page false t)))

/-- TIDE_LOAD_COMPLETE: the load in progress ends with its checks (R81, R82). -/
def tideLoadComplete (p : Nat) (s : State) : State :=
  if !s.flag (.edge .TS_STAT_LOADING) p then s
  else
    let ppi := s.get (.edge .TS_LD_PPI) p
    let d := s.dirEntry ppi
    if !d.ok p ppi then (endLoad p ppi false s).on (.edge .TS_STAT_LOAD_ERR) p
    else
      let r := copyPattern d p (s.otherPage p) (s.patternAddr d) 0 0 [] s d.count
      if r.1 then endLoad p ppi true r.2 else (endLoad p ppi false r.2).on (.edge .TS_STAT_LOAD_ERR) p

/-- TIDE_LOAD_CLOSED: CLOSED or ERROR from the memory strait ends the load (R82). -/
def tideLoadClosed (p : Nat) (s : State) : State :=
  if !s.flag (.edge .TS_STAT_LOADING) p then s
  else (endLoad p 0 false s).on (.edge .TS_STAT_LOAD_CLOSED) p

/-- The requests that arrived 2 us or more ago: how many of the waiting ones, oldest first (R86). -/
def State.oldRequests (s : State) (p : Nat) : Nat → Nat
  | 0 => 0
  | n + 1 => if s.get (.edge .TS_RQ_AT) p n + us 2 ≤ s.now then n + 1 else s.oldRequests p n

/-- The newest request that arrived 2 us or more ago is the effective one at a boundary now; the younger ones wait (R86). -/
def matureRequests (p : Nat) (s : State) : State :=
  let n := s.get (.edge .TS_RQN) p
  let k := s.oldRequests p n
  if k = 0 then s
  else
    let t := (s.set (.edge .TS_EFF) (s.get (.edge .TS_RQ_P) p (k - 1)) p).on (.edge .TS_EFF_HAS) p
    (t.forUpTo (n - k) (fun j t => (t.set (.edge .TS_RQ_P) (s.get (.edge .TS_RQ_P) p (k + j)) p j).set (.edge .TS_RQ_AT)
      (s.get (.edge .TS_RQ_AT) p (k + j)) p j)).set (.edge .TS_RQN) (n - k) p

/-- Note a request with its instant; one of the same instant is replaced (R84, R86). -/
def noteRequest (p ppi : Nat) (s : State) : State :=
  let n := s.get (.edge .TS_RQN) p
  let j := if n ≠ 0 ∧ s.get (.edge .TS_RQ_AT) p (n - 1) = s.now then n - 1 else n
  ((s.set (.edge .TS_RQ_P) ppi p j).set (.edge .TS_RQ_AT) s.now p j).set (.edge .TS_RQN) (j + 1) p

/-- A page request arrives: it becomes the pending request, effective at the first boundary that comes 2 us or more later; a PPI in
neither tag starts a load (R84, R86, R88). -/
def pageRequest (p ppi : Nat) (s : State) : State :=
  let t := noteRequest p ppi (matureRequests p s)
  let t := refreshSwap p ((t.set (.edge .TS_REQ) ppi p).on (.edge .TS_REQ_HAS) p)
  if ppi = 0 ∨ ppi = s.tagOf p 0 ∨ ppi = s.tagOf p 1 ∨ ppi > s.get (.edge .TL_DIRN) then t else startLoad p ppi t

/-- A sideband write to word `k` of a tide store (R79, R85, R87). -/
def tideStoreWrite (p k v : Nat) (s : State) : State :=
  let page := k / 8192
  if page = s.activePage p ∨ s.flag (.edge .TS_STAT_LOADING) p then s.on (.edge .TS_STAT_PAGE_BUSY) p
  else refreshSwap p (setPageValid p page false (s.writeN (0x1041000000 + 0x10000 * p + 4 * k) v 4))

/-- TIDE_STORE_WRITE (R79): a sideband write of a 32-bit half of an entry. -/
def execTideStoreWrite (w : Who) (p : PlayerIx) (k : Fin 16384) (v : Word) (s : State) : Host.Outcome State Fault Refusal :=
  done (sideband w (0x1041000000 + 0x10000 * p.val + 4 * k.val) v.toNat (tideStoreWrite p.val k.val v.toNat) s)

/-- TIDE_LOAD_COMPLETE (R81). -/
def execTideLoadComplete (p : PlayerIx) (s : State) : Host.Outcome State Fault Refusal := done (tideLoadComplete p.val s)

/-- TIDE_LOAD_CLOSED (R82). -/
def execTideLoadClosed (p : PlayerIx) (s : State) : Host.Outcome State Fault Refusal := done (tideLoadClosed p.val s)

/-- TIDE_MISS_LIMIT (R89): MISS_RUN has reached MISS_LIM, 0 acting as 1; the store's tide-miss source asserts. -/
def execTideMissLimit (p : PlayerIx) (s : State) : Host.Outcome State Fault Refusal :=
  done (if s.get (.edge .TS_STAT_MISS_RUN) p.val ≥ max 1 (s.get (.edge .TS_CTRL_MISS_LIM) p.val) then
    assertSource (64 + p.val) s else s)

end Sys2Proof.Machine
end

