-- ==== Sys2Proof/Machine/Charts.lean ====
section
/-!
DEFINITION. Operating charts (R58 to R74): axes, lookup and interpolation, the chart cache, the protected set, stalls and
tile fills.
-/
namespace Sys2Proof.Machine
open Sys2Proof

/-- Round a quotient to the nearest integer, ties to even (R64, R619). -/
def roundDiv (n : Int) (d : Nat) : Int :=
  let q := n / (d : Int)
  let r := n % (d : Int)
  if 2 * r < d then q else if 2 * r > d then q + 1 else if q % 2 = 0 then q else q + 1

/-- Breakpoints of an axis: 0 torque, 1 speed, 2 voltage, 3 temperature (R58, R59). -/
def axisPoints : Nat → Nat | 0 => 128 | 1 => 128 | 2 => 32 | _ => 8

/-- Byte offset of an axis in the axis section (R91). -/
def axisOffset : Nat → Nat | 0 => 0 | 1 => 256 | 2 => 512 | _ => 576

/-- Breakpoint `i` of axis `x` of motor `m` (R59). -/
def State.bp (s : State) (m x i : Nat) : Int :=
  toSigned 16 (s.readN (s.get (.loop .CH_AXIS) m + axisOffset x + 2 * i) 2)

/-- A point placed on an axis: cell index, numerator and denominator of the fraction, clamped (R63). -/
structure Placed where
  i : Nat
  num : Nat
  den : Nat
  clamp : Bool
  deriving DecidableEq, Repr

/-- The largest index below `n` whose breakpoint is at most `x`; 0 where none is (R63). -/
def State.cellOf (s : State) (m ax : Nat) (x : Int) : Nat → Nat
  | 0 => 0
  | n + 1 => if s.bp m ax n ≤ x then n else s.cellOf m ax x n

/-- Locate a value on one axis (R63). -/
def State.locate (s : State) (m ax : Nat) (x : Int) : Placed :=
  let n := axisPoints ax
  if x ≤ s.bp m ax 0 then ⟨0, 0, 1, decide (x < s.bp m ax 0)⟩
  else if x ≥ s.bp m ax (n - 1) then ⟨n - 2, 1, 1, decide (x > s.bp m ax (n - 1))⟩
  else
    let i := s.cellOf m ax x (n - 1)
    ⟨i, (x - s.bp m ax i).toNat, (s.bp m ax (i + 1) - s.bp m ax i).toNat, false⟩

/-- A query point: torque, speed, voltage, temperature. -/
abbrev Query := Int × Int × Int × Int

/-- The query placed on the four axes (R63). -/
def State.place (s : State) (m : Nat) (q : Query) : Placed × Placed × Placed × Placed :=
  (s.locate m 0 q.1, s.locate m 1 q.2.1, s.locate m 2 q.2.2.1, s.locate m 3 q.2.2.2)

/-- The four axes' bits of corner `c` of a cell, torque the highest (R65). -/
def cornerBit (c ax : Nat) : Nat := c / 2 ^ (3 - ax) % 2

/-- Weight of one side of an axis. -/
def Placed.side (p : Placed) (b : Nat) : Nat := if b = 1 then p.num else p.den - p.num

/-- Weight of corner `c`, over the product of the denominators (R64). -/
def cornerWeight (p : Placed × Placed × Placed × Placed) (c : Nat) : Nat :=
  p.1.side (cornerBit c 0) * p.2.1.side (cornerBit c 1) * p.2.2.1.side (cornerBit c 2) * p.2.2.2.side (cornerBit c 3)

/-- Tile number (a, b, c) of the node (t, s, v) (R62). -/
def tileOf (t sp v : Nat) : Nat := (t / 2 * 64 + sp / 2) * 16 + v / 2

/-- Place of a node in its tile: torque, speed and voltage parity, temperature. -/
def nodeInTile (t sp v w : Nat) : Nat := ((t % 2 * 2 + sp % 2) * 2 + v % 2) * 8 + w

/-- Address of a node of the chart of motor `m` (R61). -/
def State.nodeAddr (s : State) (m t sp v w : Nat) : Nat :=
  s.get (.loop .CHART_BASE) m * 2 ^ 26 + 16 * (((t * 128 + sp) * 32 + v) * 8 + w)

/-- Address at which node `n` of cache place `c` of motor `m` is kept: the caches' own storage, above the physical address
space. DESIGN CHOICE, log entry 5. -/
def cacheAddr (m c n : Nat) : Nat := 2 ^ 40 + ((m * 64 + c) * 64 + n) * 16

/-- The cache place that holds a tile (R69). -/
def State.cached (s : State) (m tile : Nat) : Option Nat :=
  (List.range 64).find? (fun c => s.get (.loop .CH_TILE) m c == tile + 1)

/-- The tiles that hold the corner nodes of a cell (R69). -/
def cellTiles (t sp v : Nat) : List Nat :=
  ((List.range 8).map (fun c => tileOf (t + c / 4) (sp + c / 2 % 2) (v + c % 2))).dedup

/-- Query value of axis `ax` of the lookup made `h` lookups ago (R69). -/
def State.query (s : State) (m h ax : Nat) : Int := s.sget (.loop .CH_Q) m (4 * h + ax)

/-- The lookup that gives the rate: eight earlier, or the oldest there is (R69). -/
def State.oldest (s : State) (m : Nat) : Nat := s.get (.loop .CH_N) m - 1

/-- Axle time in nanoseconds between the last lookup and that one (R69). Where it did not advance (two lookups of one instant, an axle time
that was set back) the rule gives no quotient: here 1. DESIGN CHOICE, log entry 78. -/
def State.rateTime (s : State) (m : Nat) : Nat :=
  max 1 (s.get (.loop .CH_QAT) m 0 - s.get (.loop .CH_QAT) m (s.oldest m))

/-- A coordinate of the last lookup point and of the predicted point, both clamped to the grid and scaled by the rate time
(R69). The rule clamps the predicted point; that the line starts at the last query point clamped to the grid as well is a DESIGN CHOICE,
log entry 78. -/
def State.predicted (s : State) (m ax : Nat) : Int × Int :=
  let d : Int := s.rateTime m
  let lo := d * s.bp m ax 0
  let hi := d * s.bp m ax (axisPoints ax - 1)
  let q := s.query m 0 ax
  let dq := q - s.query m (s.oldest m) ax
  (clampI lo hi (d * q), clampI lo hi (d * q + dq * (1000 * s.get (.loop .CHART_CTRL_LOOKAHEAD) : Nat)))

/-- The part of the line inside one axis's interval, as (enter, exit) fractions of the line with positive denominators;
`none` where the line misses it, no bound where the line does not move on the axis (R69). -/
def slab (p e lo hi : Int) : Option (List (Int × Int) × List (Int × Int)) :=
  let d := e - p
  if d = 0 then (if lo ≤ p ∧ p ≤ hi then some ([], []) else none)
  else if d > 0 then some ([(lo - p, d)], [(hi - p, d)])
  else some ([(p - hi, -d)], [(p - lo, -d)])

/-- First fraction is at most the second. -/
def leFrac (a b : Int × Int) : Bool := decide (a.1 * b.2 ≤ b.1 * a.2)

/-- The larger of the entering fractions: where the line enters a cell that it crosses, else `none` (R69). -/
def crosses (l : List (Option (List (Int × Int) × List (Int × Int)))) : Option (Int × Int) :=
  if l.any (·.isNone) then none
  else
    let en := (0, 1) :: (l.filterMap id).flatMap (·.1)
    let ex := (1, 1) :: (l.filterMap id).flatMap (·.2)
    if en.all (fun a => ex.all (leFrac a)) then some (en.foldl (fun a b => if leFrac a b then b else a) (0, 1)) else none

/-- The cells of an axis whose closed interval meets the line's extent. -/
def State.axisCells (s : State) (m ax : Nat) : List Nat :=
  let d : Int := s.rateTime m
  let p := s.predicted m ax
  (List.range (axisPoints ax - 1)).filter (fun i =>
    decide (d * s.bp m ax i ≤ max p.1 p.2) && decide (min p.1 p.2 ≤ d * s.bp m ax (i + 1)))

/-- The cells crossed by the line, each with the fraction of the line at which it is entered (R69). A line of one point on a breakpoint, as
with LOOKAHEAD 0, crosses the cells on both sides of it, since cells are closed; the field text of LOOKAHEAD speaks of the present cell
only. DESIGN CHOICE, log entry 78. -/
def State.crossed (s : State) (m : Nat) : List ((Nat × Nat × Nat) × (Int × Int)) :=
  let d : Int := s.rateTime m
  let sl (ax i : Nat) :=
    slab (s.predicted m ax).1 (s.predicted m ax).2 (d * s.bp m ax i) (d * s.bp m ax (i + 1))
  (s.axisCells m 0).flatMap (fun t => (s.axisCells m 1).flatMap (fun sp => (s.axisCells m 2).filterMap (fun v =>
    (crosses [sl 0 t, sl 1 sp, sl 2 v]).map (fun f => ((t, sp, v), f)))))

/-- Insert a cell by the place at which the line enters it. -/
def insertCell (c : (Nat × Nat × Nat) × (Int × Int)) :
    List ((Nat × Nat × Nat) × (Int × Int)) → List ((Nat × Nat × Nat) × (Int × Int))
  | [] => [c]
  | d :: r => if leFrac c.2 d.2 && !leFrac d.2 c.2 then c :: d :: r else d :: insertCell c r

/-- The protected set of a motor, near end of the line first, at most 64 tiles; empty until the first lookup since the cache
was emptied (R69, R70). -/
def State.protectedSet (s : State) (m : Nat) : List Nat :=
  if s.get (.loop .CH_N) m = 0 then []
  else
    let here := cellTiles (s.locate m 0 (s.query m 0 0)).i (s.locate m 1 (s.query m 0 1)).i (s.locate m 2 (s.query m 0 2)).i
    let cells := ((s.crossed m).foldl (fun l c => insertCell c l) []).map (·.1)
    ((here ++ cells.flatMap (fun c => cellTiles c.1 c.2.1 c.2.2)).reverse.dedup.reverse).take 64

/-- The motor's enable bit. -/
def enFld : Nat → Fld | 0 => .loop .CHART_CTRL_EN_A | _ => .loop .CHART_CTRL_EN_B
/-- The motor's warm bit. -/
def warmFld : Nat → Fld | 0 => .loop .CHART_STAT_WARM_A | _ => .loop .CHART_STAT_WARM_B

/-- The protected set is defined and every tile of it is in the cache (R69). -/
def State.warm (s : State) (m : Nat) : Bool :=
  s.get (.loop .CH_N) m != 0 && (s.protectedSet m).all (fun t => (s.cached m t).isSome)

/-- WARM_A, WARM_B and CHART_WARM as their descriptions give them. -/
def refreshWarm (s : State) : State :=
  let t := (s.setB (.loop .CHART_STAT_WARM_A) (s.warm 0)).setB (.loop .CHART_STAT_WARM_B) (s.warm 1)
  t.setB (.loop .CHART_STAT_CHART_WARM) (s.flag (.loop .CHART_STAT_LOADED) &&
    (s.warm 0 || !s.flag (enFld 0)) && (s.warm 1 || !s.flag (enFld 1)) && (s.flag (enFld 0) || s.flag (enFld 1)))

/-- The tiles of a lookup's corner nodes (R69). -/
def State.lookupTiles (s : State) (m : Nat) (q : Query) : List Nat :=
  let p := s.place m q
  cellTiles p.1.i p.2.1.i p.2.2.1.i

/-- The waiting lookup's query. -/
def State.waitQuery (s : State) (e : Nat) : Query :=
  (s.sget (.loop .CH_WQ) e 0, s.sget (.loop .CH_WQ) e 1, s.sget (.loop .CH_WQ) e 2, s.sget (.loop .CH_WQ) e 3)

/-- The engines whose lookup of motor `m` waits. -/
def State.waiters (s : State) (m : Nat) : List Nat := (List.range 16).filter (fun e => s.get (.loop .CH_WAIT) e == m + 1)

/-- A tile is wanted and not in the cache: of a protected set under PREFETCH, of a waiting lookup, or of one that ended LATE, whose fill
goes on (R69, R72, R73). -/
def State.wanted (s : State) (m tile : Nat) : Bool :=
  (s.cached m tile).isNone &&
    (s.bit (.loop .CH_FLY) tile m || (s.flag (.loop .CHART_CTRL_PREFETCH) && s.flag (enFld m) && (s.protectedSet m).contains tile) ||
      (s.waiters m).any (fun e => (s.lookupTiles m (s.waitQuery e)).contains tile))

/-- Node contents as the lookup reads them: the cached copy's field at byte offset `o` (R60). -/
def State.nodeField (s : State) (m t sp v w o : Nat) : Nat :=
  match s.cached m (tileOf t sp v) with
  | some c => s.readN (cacheAddr m c (nodeInTile t sp v w) + o) 2
  | none => 0

/-- The corner's node indices. -/
def cornerNode (p : Placed × Placed × Placed × Placed) (c : Nat) : Nat × Nat × Nat × Nat :=
  (p.1.i + cornerBit c 0, p.2.1.i + cornerBit c 1, p.2.2.1.i + cornerBit c 2, p.2.2.2.i + cornerBit c 3)

/-- A field of a corner. -/
def State.cornerField (s : State) (m : Nat) (p : Placed × Placed × Placed × Placed) (o c : Nat) : Nat :=
  let n := cornerNode p c
  s.nodeField m n.1 n.2.1 n.2.2.1 n.2.2.2 o

/-- A corner failed its CHECK when its tile arrived (R71). -/
def State.cornerBad (s : State) (m : Nat) (p : Placed × Placed × Placed × Placed) (c : Nat) : Bool :=
  let n := cornerNode p c
  match s.cached m (tileOf n.1 n.2.1 n.2.2.1) with
  | some k => s.bit (.loop .CH_BAD) (nodeInTile n.1 n.2.1 n.2.2.1 n.2.2.2) m k
  | none => false

/-- The corner of the largest weight, the lower index at a tie (R65). -/
def nearestCorner (p : Placed × Placed × Placed × Placed) : Nat :=
  (List.range 16).foldl (fun b c => if cornerWeight p c > cornerWeight p b then c else b) 0

/-- A field interpolated over the 16 corners, rounded to the nearest, ties to even (R64). -/
def State.interpolate (s : State) (m : Nat) (p : Placed × Placed × Placed × Placed) (o : Nat) (signed : Bool) : Int :=
  let val (c : Nat) : Int := if signed then toSigned 16 (s.cornerField m p o c) else (s.cornerField m p o c : Nat)
  roundDiv ((List.range 16).foldl (fun a c => a + (cornerWeight p c : Nat) * val c) 0)
    (p.1.den * p.2.1.den * p.2.2.1.den * p.2.2.2.den)

/-- Field `k` of the result, in node order: 2 PPI and 6 FLAGS come from the nearest corner, 3 LOSS is unsigned (R60, R64,
R65). -/
def State.resultField (s : State) (m : Nat) (p : Placed × Placed × Placed × Placed) (k : Nat) : Nat :=
  if k = 2 ∨ k = 6 then s.cornerField m p (2 * k) (nearestCorner p)
  else if k = 3 then (clampI 0 65535 (s.interpolate m p 6 false)).toNat
  else ofSigned 16 (satS 16 (s.interpolate m p (2 * k) true))

/-- Return status and values of a lookup to an engine. -/
def lookupResult (e st : Nat) (f : Nat → Nat) (s : State) : State :=
  ((s.forUpTo 7 (fun k t => t.set (.loop .CH_R) (f k) e k)).set (.loop .CH_RS) st e |>.on (.loop .CH_DONE) e).off
    (.loop .CH_WAIT) e

/-- Count a use of the tiles of a lookup (R70). -/
def touchTiles (m : Nat) (l : List Nat) (s : State) : State :=
  (s.forEach l (fun t u => match s.cached m t with
    | some c => u.set (.loop .CH_AGE) (s.get (.loop .CH_CLK) m + 1) m c
    | none => u)).inc (.loop .CH_CLK) m

/-- A lookup whose tiles are all present completes (R64 to R67). -/
def completeLookup (e m : Nat) (q : Query) (s : State) : State :=
  let p := s.place m q
  let clamped := p.1.clamp || p.2.1.clamp || p.2.2.1.clamp || p.2.2.2.clamp
  let t := touchTiles m (s.lookupTiles m q) s
  if (List.range 16).any (s.cornerBad m p) then lookupResult e 4 (fun k => s.get (.loop .CH_PREV) m k) t
  else if (List.range 16).any (fun c => s.cornerField m p 4 c == 0xFFFF) then
    lookupResult e 2 (fun k => s.get (.loop .CH_PREV) m k) t
  else
    lookupResult e (if clamped then 1 else 0) (s.resultField m p)
      (t.forUpTo 7 (fun k u => u.set (.loop .CH_PREV) (s.resultField m p k) m k))

/-- The tiles of a lookup are all in the cache. -/
def State.present (s : State) (m : Nat) (q : Query) : Bool :=
  (s.lookupTiles m q).all (fun t => (s.cached m t).isSome)

/-- The lookup enters the history that gives the rate of change (R69). -/
def recordQuery (m : Nat) (q : Query) (s : State) : State :=
  let old := (List.range 8)
  let t := s.forEach old.reverse (fun h u =>
    (u.forUpTo 4 (fun ax u => u.set (.loop .CH_Q) (s.get (.loop .CH_Q) m (4 * h + ax)) m (4 * (h + 1) + ax))).set
      (.loop .CH_QAT) (s.get (.loop .CH_QAT) m h) m (h + 1))
  let t := (t.sset (.loop .CH_Q) q.1 m 0).sset (.loop .CH_Q) q.2.1 m 1 |>.sset (.loop .CH_Q) q.2.2.1 m 2
    |>.sset (.loop .CH_Q) q.2.2.2 m 3
  (t.set (.loop .CH_QAT) s.axleTime m 0).set (.loop .CH_N) (min 9 (s.get (.loop .CH_N) m + 1)) m

/-- Locate a value `a / d` on one axis (R63); its cell is that of the integer at or below it. -/
def State.locateFrac (s : State) (m ax : Nat) (a : Int) (d : Nat) : Placed :=
  let p := s.locate m ax (a / d)
  if p.clamp || a ≥ d * s.bp m ax (axisPoints ax - 1) then p
  else ⟨p.i, (a - d * s.bp m ax p.i).toNat, (d * (s.bp m ax (p.i + 1) - s.bp m ax p.i)).toNat, false⟩

/-- The predicted point placed on the four axes; its temperature is the last one, which is not predicted (R69). -/
def State.predictedPlace (s : State) (m : Nat) : Placed × Placed × Placed × Placed :=
  let d := s.rateTime m
  (s.locateFrac m 0 (s.predicted m 0).2 d, s.locateFrac m 1 (s.predicted m 1).2 d, s.locateFrac m 2 (s.predicted m 2).2 d,
    s.locate m 3 (s.query m 0 3))

/-- The tile of a node index. -/
def tileOfNode (n : Nat × Nat × Nat × Nat) : Nat := tileOf n.1 n.2.1 n.2.2.1

/-- With AUTO set, a tide load starts for the PPI of the predicted point's nearest corner, where that node is in the cache, when the PPI is
in neither page, not loading and not above DIRN (R83); 0 and 0xFFFF name no pattern (R60). -/
def autoLoad (m : Nat) (s : State) : State :=
  let p := s.predictedPlace m
  let c := nearestCorner p
  if !s.flag (.edge .TS_CTRL_AUTO) m || s.get (.loop .CH_N) m == 0 || (s.cached m (tileOfNode (cornerNode p c))).isNone then s
  else
    let ppi := s.cornerField m p 4 c
    if ppi = 0 ∨ ppi = 0xFFFF ∨ ppi = s.tagOf m 0 ∨ ppi = s.tagOf m 1 ∨ ppi > s.get (.edge .TL_DIRN) ∨
        (s.flag (.edge .TS_STAT_LOADING) m ∧ s.get (.edge .TS_LD_PPI) m = ppi) then s
    else startLoad m ppi s

/-- A write of EDGE_TS[n]_CTRL, its fields stored: LOAD_PPI starts a load (R83), and with AUTO set the prefetcher may start one for TS0 and
TS1. -/
def tsCtrlWrite (p v : Nat) (s : State) : State :=
  let t := loadPpi p (v / 65536) s
  if v / 65536 = 0 ∧ p < 2 then autoLoad p t else t

/-- The fill of a lookup's absent tiles is asked for (R72). -/
def requestTiles (m : Nat) (q : Query) (s : State) : State :=
  s.forEach ((s.lookupTiles m q).filter (fun x => (s.cached m x).isNone)) (fun x t => t.setBit (.loop .CH_FLY) x m)

/-- A lookup of motor `m` by engine `e` (R63 to R74). -/
def chartLookup (e m : Nat) (q : Query) (s : State) : State :=
  if !s.flag (enFld m) || !s.flag (.loop .CHART_STAT_LOADED) then lookupResult e 5 (fun _ => 0) s
  else
    let p := s.place m q
    let clamped := p.1.clamp || p.2.1.clamp || p.2.2.1.clamp || p.2.2.2.clamp
    let t := (recordQuery m q s).when clamped (·.on (.loop .CHART_STAT_CLAMP))
    let t := if t.present m q then completeLookup e m q t
      else (((requestTiles m q t).incSat (.loop .CHART_CNT_STALLS) m).set (.loop .CH_WAIT) (m + 1) e).set (.loop .CH_WAT) s.now e
        |>.sset (.loop .CH_WQ) q.1 e 0 |>.sset (.loop .CH_WQ) q.2.1 e 1 |>.sset (.loop .CH_WQ) q.2.2.1 e 2
        |>.sset (.loop .CH_WQ) q.2.2.2 e 3
    autoLoad m (refreshWarm t)

/-- Record the length of a stall, in units of 50 ns (R72). -/
def recordStall (e m : Nat) (s : State) : State :=
  s.set (.loop .CHART_CNT_MAX_STALL) (max (s.get (.loop .CHART_CNT_MAX_STALL) m)
    (min 255 ((s.now - s.get (.loop .CH_WAT) e) / 320))) m

/-- LOOKUP_LATE: a lookup that has waited 8 us ends with status LATE, and its fill goes on (R73). Where a present corner failed its CHECK
the higher status NODE_ERR is returned (R67), and LATE and LATE_CNT still count the lookup. DESIGN CHOICE, log entry 78. -/
def lookupLate (e : Nat) (s : State) : State :=
  if s.get (.loop .CH_WAIT) e = 0 ∨ s.now < s.get (.loop .CH_WAT) e + us 8 then s
  else
    let m := s.get (.loop .CH_WAIT) e - 1
    let p := s.place m (s.waitQuery e)
    let bad := (List.range 16).any (s.cornerBad m p)
    lookupResult e (if bad then 4 else 3) (fun k => s.get (.loop .CH_PREV) m k)
      (((recordStall e m s).on (.loop .CHART_STAT_LATE)).incSat (.loop .CHART_CNT_LATE_CNT) m)

/-- One step of the CRC-16 with polynomial 0x1021 over one bit (R60). -/
def crc16Bit (c b : Nat) : Nat := if (c / 32768 % 2 + b) % 2 = 1 then (2 * c % 65536) ^^^ 0x1021 else 2 * c % 65536

/-- The CRC-16 over one byte, most significant bit first (R60). -/
def crc16Byte (c v : Nat) : Nat := (List.range 8).foldl (fun c i => crc16Bit c (v / 2 ^ (7 - i) % 2)) c

/-- CHECK of the node at an address: CRC-16 over bytes 0 to 13, initial value 0xFFFF (R60). -/
def State.nodeCheck (s : State) (a : Nat) : Nat := (List.range 14).foldl (fun c i => crc16Byte c (s.byte (a + i)).toNat) 0xFFFF

/-- The cache place a new tile goes to: an empty one, else the least recently used outside the protected set, else the least
recently used (R70). -/
def State.victim (s : State) (m : Nat) : Nat :=
  match (List.range 64).find? (fun c => s.get (.loop .CH_TILE) m c == 0) with
  | some c => c
  | none =>
    let prot := s.protectedSet m
    let free := (List.range 64).filter (fun c => !prot.contains (s.get (.loop .CH_TILE) m c - 1))
    let pool := if free.isEmpty then List.range 64 else free
    match pool with
    | [] => 0
    | c :: r => r.foldl (fun b c => if s.get (.loop .CH_AGE) m c < s.get (.loop .CH_AGE) m b then c else b) c

/-- Bring one node of a tile into the cache and check it (R71). -/
def fillNode (m tile c n : Nat) (s : State) : State :=
  let t := tile / 1024 * 2 + n / 32
  let sp := tile / 16 % 64 * 2 + n / 16 % 2
  let v := tile % 16 * 2 + n / 8 % 2
  let a := s.nodeAddr m t sp v (n % 8)
  let u := s.writeN (cacheAddr m c n) (s.readN a 16) 16
  if s.nodeCheck a = s.readN (a + 14) 2 then u.clrBit (.loop .CH_BAD) n m c
  else (u.setBit (.loop .CH_BAD) n m c).on (.loop .CHART_STAT_NODE_ERR)

/-- The lookups of a motor that have all their tiles proceed (R72). -/
def serveWaiters (m : Nat) (s : State) : State :=
  s.forEach (s.waiters m) (fun e t => if t.present m (t.waitQuery e) then completeLookup e m (t.waitQuery e) (recordStall e m t)
    else t)

/-- TILE_FILL_COMPLETE: a wanted tile arrives from DRAM (R71, R72). -/
def tileFill (m tile : Nat) (s : State) : State :=
  if !s.wanted m tile then s
  else
    let c := s.victim m
    let t := (((s.clrBit (.loop .CH_FLY) tile m).set (.loop .CH_TILE) (tile + 1) m c).set (.loop .CH_BAD) 0 m c).set (.loop .CH_AGE)
      (s.get (.loop .CH_CLK) m + 1) m c
    autoLoad m (refreshWarm (serveWaiters m ((t.forUpTo 64 (fun n u => fillNode m tile c n u)).inc (.loop .CH_CLK) m)))

/-- Empty a motor's cache (R69). -/
def emptyCache (m : Nat) (s : State) : State :=
  (s.forUpTo 64 (fun c t => t.set (.loop .CH_TILE) 0 m c)).set (.loop .CH_N) 0 m

/-- CHART_INVAL: both caches are emptied (R69). -/
def chartInval (s : State) : State := refreshWarm (emptyCache 1 (emptyCache 0 s))

/-- Address of LOOP_CHART_CTRL. -/
def chartCtrlAddr : Nat := 0x1031000010

/-- LOAD_PPI_WRITE (R83): a write of EDGE_TS[n]_CTRL; AUTO and MISS_LIM of the same word take effect under their codes. -/
def execLoadPpiWrite (w : Who) (p : PlayerIx) (v : Word) (s : State) : Host.Outcome State Fault Refusal :=
  let a := 0x1040000E10 + 0x10 * p.val
  done (sideband w a v.toNat (fun t => tsCtrlWrite p.val v.toNat (storeWord w a v.toNat t)) s)

/-- PAGE_REQUEST (R84): the PPI word of edge input channel 8 + p (R212). The prefetcher may start a load of TS0 or TS1 with it where the
request itself started none (R83). DEDUCED, log entries 21 and 78. -/
def execPageRequest (p : PlayerIx) (ppi : Half) (s : State) : Host.Outcome State Fault Refusal :=
  let t := pageRequest p.val ppi.toNat s
  done (if p.val < 2 ∧ t.get (.edge .TS_LD_PPI) p.val = s.get (.edge .TS_LD_PPI) p.val then autoLoad p.val t else t)

/-- LOOKUP_LATE (R73). DEDUCED, log entry 19. DESIGN CHOICE, log entry 20. -/
def execLookupLate (e : EngIx) (s : State) : Host.Outcome State Fault Refusal := done (lookupLate e.val s)

/-- TILE_FILL_COMPLETE (R71). -/
def execTileFillComplete (m : Fin 2) (tile : Fin 65536) (s : State) : Host.Outcome State Fault Refusal :=
  done (tileFill m.val tile.val s)

/-- TILE_FILL_CLOSED (R501): a tile fill receives CLOSED or ERROR. -/
def execTileFillClosed (s : State) : Host.Outcome State Fault Refusal := done (s.on (.loop .CHART_STAT_FILL_CLOSED))

/-- CHART_INVAL (R69): a write of LOOP_CHART_CTRL with INVAL 1; the other fields of the word take effect with it. -/
def execChartInval (w : Who) (v : Word) (s : State) : Host.Outcome State Fault Refusal :=
  done (sideband w chartCtrlAddr v.toNat (fun t =>
    let u := storeWord w chartCtrlAddr v.toNat t
    if v.toNat.testBit 3 then chartInval u else refreshWarm u) s)

end Sys2Proof.Machine
end

