-- ==== Sys2Proof/Machine/Supervise.lean ====
section
/-!
DEFINITION. What belongs to a loop slot across samples: working and shadowed registers (R131), escalation (R130), plant models
and plausibility (R147 to R159), trace (R160 to R167) and test-signal injection (R168 to R174).
-/
namespace Sys2Proof.Machine
open Sys2Proof

/-- Base address of an engine's window (R104). -/
def leBase (e : Nat) : Nat := 0x1030000000 + 0x100000 * e
/-- Address of a data-memory word (R104). -/
def dataAddr (e a : Nat) : Nat := leBase e + 0x60000 + a % 16384 / 4 * 4
/-- Address of a trace RAM byte (R104). -/
def trcAddr (e a : Nat) : Nat := leBase e + 0x80000 + a % 32768

/-- Index of the working copy of a shadowed slot register: slots 0 to 7 are the shadows a sideband access reaches, 8 to 15 the
working values, 16 to 23 what the last APPLY took (R131). -/
def work (k : Nat) : Nat := k + 8

/-- Working value of a shadowed slot register (R131). -/
def State.wget (s : State) (f : LoopFld) (e k : Nat) : Nat := s.get (.loop f) e (work k)
/-- Working value of a one-bit slot register. -/
def State.wflag (s : State) (f : LoopFld) (e k : Nat) : Bool := s.wget f e k != 0
/-- Working value of a signed slot register. -/
def State.wsget (s : State) (f : LoopFld) (e k : Nat) : Int := s.sget (.loop f) e (work k)

/-- The shadowed registers of a slot but its gain table (R131, R157). -/
def shadowed : List LoopFld :=
  [.LS_CFG_EN, .LS_CFG_LAW, .LS_CFG_SP_PORT, .LS_CFG_FB_PORT, .LS_CFG_PRE_PORT, .LS_CFG_PRE_EN, .LS_CFG_OPORT, .LS_CFG_OEN,
   .LS_SLEW_RISE, .LS_SLEW_FALL, .LS_GAINCFG_SCALE, .LS_GAINCFG_GT_EN, .LS_GAINCFG_APPLY_KI, .LS_GAINCFG_DFILT,
   .LS_LIMIT_OMIN, .LS_LIMIT_OMAX, .LS_KP, .LS_KI, .LS_KD, .LS_KT, .LS_SFPTR_ADDR, .LS_SFPTR_NSM1, .LS_ENTRY_ADDR,
   .LS_ENTRY_VALID, .LS_PM_CFG_FORM, .LS_PM_CFG_REACT, .LS_PM_CFG_MEAS_PORT, .LS_PM_CFG_PRED_PORT, .LS_PM_CFG_CFIELD,
   .LS_PM_CFG_RSHIFT, .LS_PM_CFG_PRIME, .LS_PM_A1, .LS_PM_A2, .LS_PM_B1, .LS_PM_B2, .LS_PM_THR_THR, .LS_PM_THR_CNT]

/-- Copy a slot's shadowed registers from one copy to another, all together (R131). -/
def copySlot (e a b : Nat) (s : State) : State :=
  (shadowed.foldl (fun t f => t.set (.loop f) (s.get (.loop f) e a) e b) s).forUpTo 32 (fun j t =>
    (t.set (.loop .LS_GT_G_LO) (s.get (.loop .LS_GT_G_LO) e (32 * a + j)) e (32 * b + j)).set (.loop .LS_GT_G_HI)
      (s.get (.loop .LS_GT_G_HI) e (32 * a + j)) e (32 * b + j))

/-- LOWEST group of a slot (R137). -/
def State.lowestOf (s : State) (e k : Nat) : Option Nat :=
  (List.range 4).find? (fun g => s.get (.loop .GRP_MODE) e g == 1 && s.bit (.loop .GRP_MEMBERS) k e g)

/-- CASCADE group whose inner slot is `k` (R138). -/
def State.cascadeOf (s : State) (e k : Nat) : Option Nat :=
  (List.range 4).find? (fun g => s.get (.loop .GRP_MODE) e g == 2 && s.get (.loop .GRP_INNER) e g == k)

/-- What is left of an ended injection goes with the sample of its slot that was in flight (R173, R174). -/
def injTail (e k : Nat) (s : State) : State :=
  if s.get (.loop .INJ_CSLOT) e = k ∧ !s.flag (.loop .INJ_STAT_ACTIVE) e then
    (s.off (.loop .INJ_IN) e).off (.loop .LS_PM_STAT_SUSPENDED) e k else s

/-- End an injection early: the sample in flight completes with its s, from the next one the signal is 0 (R173, R174). -/
def injAbort (e cause : Nat) (s : State) : State :=
  let s := s.off (.loop .INJ_END) e
  if s.flag (.loop .INJ_STAT_ACTIVE) e ∨ s.flag (.loop .INJ_PEND) e then
    let t := ((s.off (.loop .INJ_STAT_ACTIVE) e).off (.loop .INJ_PEND) e |>.on (.loop .INJ_STAT_ABORT) e).set
      (.loop .INJ_STAT_ABORT_CAUSE) cause e
    let k := s.get (.loop .INJ_CSLOT) e
    if s.flag (.loop .LE_RUN) e ∧ s.get (.loop .LE_SLOT) e = k then t else injTail e k t
  else s

/-- The engine asserts its escalation source (R130); an injection on it ends (R173). -/
def escalate (e : Nat) (s : State) : State := injAbort e 2 (assertSource (48 + e) (s.on (.loop .LE_ESC) e))

/-- Input port value as a signed Q1.15 number (R110). -/
def State.port (s : State) (e p : Nat) : Int := toSigned 16 (s.get (.loop .LE_IP) e p % 65536)
/-- The input port is fresh (R111). -/
def State.fresh? (s : State) (e p : Nat) : Bool := s.bit (.loop .IPFRESH) p e

/-- The signed value of a product with a Q8.23 gain, rounded to the LSB of the other factor (R619). -/
def mulQ23 (k x : Int) : Int := roundDiv (k * x) (2 ^ 23)

/-- Plant input of a slot: its committed U, or its LOWEST group's result (R148). -/
def State.plantU (s : State) (e k : Nat) : Int :=
  match s.lowestOf e k with
  | some g => s.sget (.loop .GRP_RES) e g
  | none => s.sget (.loop .LS_STAT_U) e k

/-- The chart field that CFIELD names, in node order (R147). -/
def cfield : Nat → Nat | 0 => 0 | 1 => 1 | 2 => 4 | _ => 5

/-- The prediction of the sample, or `none` where it is skipped (R147, R150). -/
def State.prediction (s : State) (e k : Nat) : Option Int :=
  let t (f g : LoopFld) : Int := mulQ23 (s.wsget f e k) (s.sget (.loop g) e k)
  match s.wget .LS_PM_CFG_FORM e k with
  | 1 => some (satS 16 (t .LS_PM_A1 .PM_Y1 + t .LS_PM_B1 .PM_PU))
  | 2 => some (satS 16 (t .LS_PM_A1 .PM_Y1 + t .LS_PM_A2 .PM_Y2 + t .LS_PM_B1 .PM_PU + t .LS_PM_B2 .PM_U2))
  | 3 => if s.flag (.loop .CH_DONE) e ∧ s.get (.loop .CH_RS) e < 2 then
      some (s.sget (.loop .CH_R) e (cfield (s.wget .LS_PM_CFG_CFIELD e k))) else none
  | 4 => if s.fresh? e (s.wget .LS_PM_CFG_PRED_PORT e k) then some (s.port e (s.wget .LS_PM_CFG_PRED_PORT e k)) else none
  | _ => none

/-- CNT of the slot, 0 acting as 1. -/
def State.pmCnt (s : State) (e k : Nat) : Nat := max 1 (s.wget .LS_PM_THR_CNT e k)

/-- Count a checked sample: consecutive failures, or while HOLDING consecutive passes (R152, R154). -/
def countSample (e k : Nat) (fails : Bool) (s : State) : State :=
  let t := s.set (.loop .PM_OUT) (if fails then 2 else 1) e k
  let holding := s.flag (.loop .LS_PM_STAT_HOLDING) e k
  if fails = holding then t.set (.loop .LS_PM_STAT_RUN) 0 e k
  else
    let u := t.incSat (.loop .LS_PM_STAT_RUN) e k
    if s.get (.loop .LS_PM_STAT_RUN) e k + 1 = s.pmCnt e k then u.setBit (.loop .PM_EV) (if holding then 1 else 0) e k else u

/-- The model step of a sample of slot `k`, once per sample (R147 to R152, R155, R156, R158). -/
def modelStep (e k : Nat) (s : State) : State :=
  if s.flag (.loop .PM_DID) e k then s
  else
    let y := s.port e (s.wget .LS_PM_CFG_MEAS_PORT e k)
    let t := (s.on (.loop .PM_DID) e k).sset (.loop .PM_Y) y e k
    if s.get (.loop .PM_SEED) e k ≠ 0 then t.set (.loop .LS_PM_RES_RES_F) 0 e k
    else
      let form := s.wget .LS_PM_CFG_FORM e k
      if form = 0 ∨ form > 4 then (t.set (.loop .LS_PM_RES_RES_F) 0 e k).set (.loop .LS_PM_RES_PRED) 0 e k
      else match s.prediction e k with
      | none => t
      | some yhat =>
        let r := satS 16 (y - yhat)
        let rf := s.sget (.loop .LS_PM_RES_RES_F) e k
        let rf := rf + (r - rf) / (2 ^ s.wget .LS_PM_CFG_RSHIFT e k : Nat)
        let u := (t.sset (.loop .LS_PM_RES_RES_F) rf e k).sset (.loop .LS_PM_RES_PRED) yhat e k
        if s.flag (.loop .LS_PM_STAT_LOOP_UNPRIMED) e k then
          (u.set (.loop .LS_PM_STAT_RUN) 0 e k).set (.loop .PM_OUT) 1 e k
        else if s.flag (.loop .LS_PM_STAT_SUSPENDED) e k then u
        else countSample e k (decide (rf.natAbs > s.wget .LS_PM_THR_THR e k)) u

/-- The report word of a violation, sent to the drive island that LOOP_PM_RPT names (R153). -/
def reportViolation (e k : Nat) (s : State) : State :=
  s.send .report (bits (s.get (.loop .PM_RPT)) (2 * e) 2)
    (e + 2 ^ 4 * k + 2 ^ 7 * (s.wget .LS_PM_CFG_REACT e k == 2 : Bool).toNat + 2 ^ 8 * s.get (.loop .LS_PM_RES_RES_F) e k +
      2 ^ 24 * s.get (.loop .LS_PM_RES_PRED) e k + 2 ^ 40 * s.get (.loop .LE_STAT_FCNT) e)

/-- Hold U at the last passing sample's: the U the sample commits, its limit flags and the integrator's tracking term are those of a law
step between limits that both equal it; a sample without a law step commits it too (R154). -/
def holdU (e k : Nat) (s : State) : State :=
  let hu := s.sget (.loop .PM_HU) e k
  let t := (s.on (.loop .LS_PM_STAT_HOLDING) e k).set (.loop .LS_PM_STAT_RUN) 0 e k
  let u := (t.sset (.loop .S_U) hu e k).setBit (.loop .S_HAS) 1 e k
  if s.bit (.loop .S_HAS) 1 e k then
    let uu := s.sget (.loop .S_UU) e k
    let integ := s.sget (.loop .S_IPRE) e k + roundDiv (s.wsget .LS_KT e k * (hu - uu)) 256
    (u.sset (.loop .S_INTEG) (satS 32 integ) e k).set (.loop .S_SAT) ((if uu > hu then 1 else 0) + (if uu < hu then 2 else 0)) e k
  else u

/-- A trigger of source `n` is seen by an armed trace: the next record is the trigger record (R164). -/
def trcSee (e n : Nat) (s : State) : State :=
  if s.flag (.loop .TRC_STAT_ARMED) e ∧ s.get (.loop .TRC_TRIG_TSRC) e = n then
    ((s.off (.loop .TRC_STAT_ARMED) e).on (.loop .TRC_STAT_TRIGGERED) e).on (.loop .TRC_NTRIG) e
  else s

/-- A charging session is running: NEGOTIATE to STOPPING (R417). -/
def State.chgRunning (s : State) : Bool := decide (2 ≤ s.get (.drv .CH_STATE)) && decide (s.get (.drv .CH_STATE) ≤ 7)
/-- The path is a DC path (R402). -/
def State.chgDc (s : State) : Bool := s.get (.drv .CH_PATH) == 2 || s.get (.drv .CH_PATH) == 3
/-- ISO 15118 runs over the 10BASE-T1S port, for a megawatt coupler, rather than over 1000BASE-T1 port 1 (R415). -/
def State.chgT1s (s : State) : Bool := s.readN (s.get (.drv .REC_ADDR) 4 + 1) 1 == 3

/-- Issue the stop of a DC session (R420). -/
def chgStop (s : State) : State :=
  if s.chgDc ∧ !s.flag (.drv .CH_STOP) then ((s.on (.drv .CH_STOP)).set (.drv .CH_STOP_AT) s.now).send .evse 1 0 s.chgT1s.toNat else s

/-- The end of a session with a code: within one millisecond the lowest code is recorded; codes 1 to 4 drop the request to 0 and
issue the stop at once (R410, R418, R420). -/
def chgEnd (code : Nat) (s : State) : State :=
  if !s.chgRunning then s
  else
    let old := s.get (.drv .CH_END)
    let t := if old = 0 then (s.set (.drv .CH_END) code).set (.drv .CH_END_AT) s.now
      else s.when (decide (code < old) && decide (s.now < s.get (.drv .CH_END_AT) + us 1000)) (·.set (.drv .CH_END) code)
    let t := t.set (.drv .CH_STATE) 7
    if code ≤ 4 then chgStop (t.off (.drv .CH_REQ)) else t

/-- A violation of the front end's current model, LE6 slot 0, within 20 ms of its enable shows a negative phase sequence and ends an AC session
(R406). -/
def gridSequence (e k : Nat) (s : State) : State :=
  if e = 6 ∧ k = 0 ∧ s.get (.drv .CH_PATH) = 1 ∧ s.get (.drv .CH_SW_AT) ≠ 0 ∧ s.now < s.get (.drv .CH_SW_AT) + us 20000 then chgEnd 4 s else s

/-- A violation: VIOL and the reaction that REACT selects (R152 to R154); one of the front end's current model may end a session (R406). -/
def plausibilityViolation (e k : Nat) (s' : State) : State :=
  if !s'.bit (.loop .PM_EV) 0 e k then s'
  else
    let s := gridSequence e k s'
    let t := ((s.clrBit (.loop .PM_EV) 0 e k).on (.loop .LS_PM_STAT_VIOL) e k).on (.loop .PM_VNOW) e k
    let t := t.when (s.get (.loop .TRC_CTRL_TSLOT) e == k) (trcSee e 4)
    match s.wget .LS_PM_CFG_REACT e k with
    | 0 => t
    | 1 => reportViolation e k t
    | 2 => holdU e k (reportViolation e k t)
    | _ => escalate e (reportViolation e k t)

/-- The end of HOLDING (R154). -/
def holdRelease (e k : Nat) (s : State) : State :=
  if !s.bit (.loop .PM_EV) 1 e k then s
  else ((s.clrBit (.loop .PM_EV) 1 e k).off (.loop .LS_PM_STAT_HOLDING) e k).set (.loop .LS_PM_STAT_RUN) 0 e k

/-- The end of the priming window (R156). -/
def primingEnd (e k : Nat) (s : State) : State :=
  if !s.bit (.loop .PM_EV) 2 e k then s
  else (s.clrBit (.loop .PM_EV) 2 e k).off (.loop .LS_PM_STAT_LOOP_UNPRIMED) e k

/-- The history at END (R155, R158): a seeding sample fills both places, another shifts. The U of a passing sample is kept for a hold, and
that of a first sample, before which none has passed (R154). DESIGN CHOICE, log entry 77. -/
def commitHistory (e k : Nat) (s : State) : State :=
  let y := s.get (.loop .PM_Y) e k
  let u := s.get (.loop .LS_STAT_U) e k
  let seed := s.get (.loop .PM_SEED) e k
  let t := if seed = 0 then
      ((s.set (.loop .PM_Y2) (s.get (.loop .PM_Y1) e k) e k).set (.loop .PM_Y1) y e k).set (.loop .PM_U2)
        (s.get (.loop .PM_PU) e k) e k
    else ((s.set (.loop .PM_Y2) y e k).set (.loop .PM_Y1) y e k).set (.loop .PM_U2) u e k
  let t := t.when (seed == 2) (·.on (.loop .LS_PM_STAT_RESEED) e k)
  let t := t.when (s.get (.loop .PM_OUT) e k == 1 || seed == 1) (·.set (.loop .PM_HU) u e k)
  if s.flag (.loop .LS_PM_STAT_LOOP_UNPRIMED) e k then
    let left := s.get (.loop .LS_PM_STAT_PRIME_LEFT) e k - 1
    (t.set (.loop .LS_PM_STAT_PRIME_LEFT) left e k).when (left == 0) (·.setBit (.loop .PM_EV) 2 e k)
  else t

/-- Length and taps of the PRBS register (R171). -/
def prbsTaps : Nat → Nat × Nat
  | 0 => (7, 6) | 1 => (9, 5) | 2 => (11, 9) | 3 => (15, 14) | 4 => (23, 18) | _ => (31, 28)

/-- Terms of the sine's series for an angle `x` in units of 2^-60 radian, from the term `t` of order `2 k - 1` on. -/
def sinTerms (x t k : Int) : Nat → Int
  | 0 => 0
  | n + 1 => t + sinTerms x (-(t * x / 2 ^ 60 * x / 2 ^ 60 / (2 * k * (2 * k + 1)))) (k + 1) n

/-- 2^60 times the sine of an angle of R11, 2^24 a turn: the series in the first quarter turn, the others by symmetry. -/
def sinAngle (phi : Nat) : Int :=
  let q := phi / 0x400000 % 4
  let f := phi % 0x400000
  let x : Int := (if q % 2 = 0 then f else 0x400000 - f) * 1811004864519280711 / 2 ^ 22
  let v := sinTerms x x 1 14
  if q < 2 then v else -v

/-- Amplitude times the sine of the phase. The rules state no rounding: where the product is no integer, a free bit says whether the next one
is taken (R170). DESIGN CHOICE, log entry 28. -/
def sineStep (e : Nat) (s : State) : State :=
  let a : Int := s.get (.loop .INJ_A) e
  match s.get (.loop .INJ_PHI) e with
  | 0 => s.set (.loop .INJ_S) 0 e
  | 0x400000 => s.sset (.loop .INJ_S) a e
  | 0x800000 => s.set (.loop .INJ_S) 0 e
  | 0xC00000 => s.sset (.loop .INJ_S) (-a) e
  | phi => (s.free 1).2.sset (.loop .INJ_S) (a * sinAngle phi / 2 ^ 60 + (s.free 1).1) e

/-- The signal of the present sample, from its count (R170, R171). -/
def injSignal (e : Nat) (s : State) : State :=
  let a : Int := s.get (.loop .INJ_A) e
  match s.get (.loop .INJ_CTRL_SIG) e with
  | 1 =>
    let l := (prbsTaps (s.get (.loop .INJ_PRBS_ORDER) e)).1
    s.sset (.loop .INJ_S) (if s.bit (.loop .INJ_LFSR) (l - 1) e then a else -a) e
  | 3 => s.sset (.loop .INJ_S) (if s.get (.loop .INJ_K) e < s.get (.loop .INJ_F0) e then 0 else a) e
  | 2 | 4 => sineStep e s
  | _ => s.set (.loop .INJ_S) 0 e

/-- One shift of the PRBS register, each bit held HOLD + 1 samples (R170, R171). -/
def prbsShift (e : Nat) (s : State) : State :=
  if s.get (.loop .INJ_HOLD) e < s.get (.loop .INJ_PRBS_HOLD) e then s.inc (.loop .INJ_HOLD) e
  else
    let t := prbsTaps (s.get (.loop .INJ_PRBS_ORDER) e)
    let b := (s.bit (.loop .INJ_LFSR) (t.1 - 1) e ^^ s.bit (.loop .INJ_LFSR) (t.2 - 1) e).toNat
    (s.set (.loop .INJ_LFSR) ((2 * s.get (.loop .INJ_LFSR) e + b) % 2 ^ t.1) e).off (.loop .INJ_HOLD) e

/-- Advance of the chirp: the increment rises linearly from F0 to F1 over NSAMP samples; where it is no integer a free bit says
whether the next one is taken (R170). -/
def chirpAdvance (e : Nat) (s : State) : State :=
  let f0 : Int := s.get (.loop .INJ_F0) e
  let f1 : Int := s.get (.loop .INJ_F1) e
  let n : Int := max 1 (s.get (.loop .INJ_LEN) e)
  let x := (f1 - f0) * s.get (.loop .INJ_K) e
  let inc := f0 + x / n
  let phi : Int := s.get (.loop .INJ_PHI) e
  if x % n = 0 then s.sset (.loop .INJ_PHI) (phi + inc) e
  else (s.free 1).2.sset (.loop .INJ_PHI) (phi + inc + (s.free 1).1) e

/-- The signal acts in the sample that begins, at its point; at FB the slot's checks are suspended (R172). -/
def injAct (e k : Nat) (s : State) : State :=
  (s.on (.loop .INJ_IN) e).setB (.loop .LS_PM_STAT_SUSPENDED) (s.get (.loop .INJ_CPT) e == 1) e k

/-- What the injection does as a sample of slot `k` begins (R168, R170, R173, R174). -/
def injSample (e k : Nat) (s : State) : State :=
  if s.flag (.loop .INJ_PEND) e ∧ s.get (.loop .INJ_CTRL_SLOT) e = k then
    if s.get (.loop .INJ_END) e ≠ 0 then injAbort e (s.get (.loop .INJ_END) e) s
    else
      let t := ((s.off (.loop .INJ_PEND) e).on (.loop .INJ_STAT_ACTIVE) e |>.off (.loop .INJ_K) e |>.off (.loop .INJ_PHI) e).set
        (.loop .INJ_LFSR) (2 ^ (prbsTaps (s.get (.loop .INJ_PRBS_ORDER) e)).1 - 1) e |>.off (.loop .INJ_HOLD) e
      let t := (t.set (.loop .INJ_CSLOT) k e).set (.loop .INJ_CPT) (s.get (.loop .INJ_CTRL_POINT) e) e
      injSignal e (trcSee e 6 (injAct e k t))
  else if s.get (.loop .INJ_CSLOT) e ≠ k then s
  else if s.flag (.loop .INJ_STAT_ACTIVE) e then
    if s.get (.loop .INJ_END) e ≠ 0 then (injTail e k (injAbort e (s.get (.loop .INJ_END) e) s)).set (.loop .INJ_S) 0 e
    else
      let t := (match s.get (.loop .INJ_CTRL_SIG) e with
        | 1 => prbsShift e s
        | 2 => chirpAdvance e s
        | 4 => s.set (.loop .INJ_PHI) (s.get (.loop .INJ_PHI) e + s.get (.loop .INJ_F0) e) e
        | _ => s).inc (.loop .INJ_K) e
      if t.get (.loop .INJ_K) e ≥ t.get (.loop .INJ_LEN) e then t.set (.loop .INJ_S) 0 e else injSignal e (injAct e k t)
  else (injTail e k s).set (.loop .INJ_S) 0 e

/-- The signal that the law of slot `k` sees at a point: 0 SP, 1 FB, 2 U (R172). -/
def State.injAt (s : State) (e k pt : Nat) : Int :=
  if s.flag (.loop .INJ_IN) e && s.get (.loop .INJ_CSLOT) e == k && s.get (.loop .INJ_CPT) e == pt then s.sget (.loop .INJ_S) e else 0

/-- A start is refused (R168, R170, R171; NSAMP 0). -/
def State.injRefused (s : State) (e : Nat) : Bool :=
  let k := s.get (.loop .INJ_CTRL_SLOT) e
  let sig := s.get (.loop .INJ_CTRL_SIG) e
  let pt := s.get (.loop .INJ_CTRL_POINT) e
  !s.bit (.loop .INJ_PERMIT) e || !s.wflag .LS_CFG_EN e k || pt == 3 || sig == 0 || decide (sig > 4) ||
    (pt == 2 && (s.lowestOf e k).isSome) || s.get (.loop .INJ_LEN) e == 0 ||
    (sig == 1 && decide (s.get (.loop .INJ_PRBS_ORDER) e ≥ 6))

/-- A write of INJ_CTRL with START (R168, R170). -/
def injStart (e : Nat) (s : State) : State :=
  if s.injRefused e then s.on (.loop .INJ_STAT_REFUSED) e
  else
    let amp := s.get (.loop .INJ_CTRL_AMP) e
    let lim := s.get (.loop .INJ_LIM) e
    ((s.on (.loop .INJ_PEND) e).set (.loop .INJ_A) (min amp lim) e).when (decide (amp > lim)) (·.on (.loop .INJ_STAT_LIMITED) e)

/-- Injection has reached NSAMP samples (R173). -/
def injDone (e : Nat) (s : State) : State :=
  if s.flag (.loop .INJ_STAT_ACTIVE) e ∧ s.get (.loop .INJ_K) e + 1 ≥ s.get (.loop .INJ_LEN) e then
    let t := ((s.off (.loop .INJ_STAT_ACTIVE) e).on (.loop .INJ_STAT_DONE) e).off (.loop .INJ_END) e
    let k := s.get (.loop .INJ_CSLOT) e
    if s.flag (.loop .LE_RUN) e ∧ s.get (.loop .LE_SLOT) e = k then t else injTail e k t
  else s

/-- A PERMIT bit clears; a running injection ends at the slot's next sample (R174). -/
def permitClear (e : Nat) (s : State) : State :=
  (s.clrBit (.loop .INJ_PERMIT) e).when (s.flag (.loop .INJ_STAT_ACTIVE) e || s.flag (.loop .INJ_PEND) e)
    (·.set (.loop .INJ_END) 1 e)

/-- Every PERMIT bit clears: the mode, or the sequence of the safety island, has ended (R169). -/
def clearPermits (s : State) : State := s.forUpTo 16 (fun e t => if t.bit (.loop .INJ_PERMIT) e then permitClear e t else t)

/-- Signals per record and size of a record (R161). -/
def State.trcN (s : State) (e : Nat) : Nat := s.get (.loop .TRC_CTRL_NSIGM1) e + 1
/-- Record size in bytes (R161). -/
def State.trcRec (s : State) (e : Nat) : Nat := (4 + 2 * s.trcN e + 3) / 4 * 4
/-- Records that fit in a block (R161). -/
def State.trcCap (s : State) (e : Nat) : Nat := (4096 - 16) / s.trcRec e

/-- Half of a port value (R162). -/
def highOr (h : Bool) (v lo : Nat) : Nat := if h then v / 2 ^ lo % 65536 else v % 65536

/-- Signal `i` of a record (R162). -/
def State.trcSig (s : State) (e i : Nat) : Nat :=
  let k := s.get (.loop .TRC_SIG_SLOT) e i
  let h := s.flag (.loop .TRC_SIG_HIGH) e i
  match s.get (.loop .TRC_SIG_KIND) e i with
  | 1 => highOr h (s.get (.loop .LE_IP) e (s.get (.loop .TRC_SIG_INDEX) e i)) 8
  | 2 => highOr h (s.get (.loop .LE_OP) e (s.get (.loop .TRC_SIG_INDEX) e i)) 8
  | 3 => s.get (.loop .LS_SP_SP) e k
  | 4 => s.get (.loop .LS_SP_TARGET) e k
  | 5 => s.get (.loop .LS_STAT_U) e k
  | 6 => s.get (.loop .LS_E) e k
  | 7 => s.get (.loop .LS_INTEG) e k / 65536
  | 8 => s.get (.loop .LS_GAIN) e k
  | 9 => s.get (.loop .LS_PM_RES_RES_F) e k
  | 10 => s.get (.loop .LS_PM_RES_PRED) e k
  | 11 => if s.get (.loop .INJ_CSLOT) e = k then s.get (.loop .INJ_S) e else 0
  | 12 => highOr h (s.readN (dataAddr e (s.get (.loop .TRC_SIG_ADDR) e i)) 4) 16
  | _ => 0

/-- The record about to be written is the trigger record: a trigger has been seen since the last one, or the armed trace sees its crossing at
this capture (R164). -/
def State.trcTrigger (s : State) (e : Nat) : Bool :=
  let v := toSigned 16 (s.trcSig e (s.get (.loop .TRC_TRIG_TSIG) e))
  let o := s.sget (.loop .TRC_LAST) e
  let lv := s.sget (.loop .TRC_TRIG_LEVEL) e
  let rise := s.flag (.loop .TRC_HAS) e && decide (o ≤ lv) && decide (lv < v)
  let fall := s.flag (.loop .TRC_HAS) e && decide (lv ≤ o) && decide (v < lv)
  s.flag (.loop .TRC_NTRIG) e || (s.flag (.loop .TRC_STAT_ARMED) e && match s.get (.loop .TRC_TRIG_TSRC) e with
    | 1 => rise
    | 2 => fall
    | 3 => rise || fall
    | _ => false)

/-- TRIGGERED: the post count starts at the record about to be written; POST above the capacity acts as it (R163, R164). -/
def trcFire (e : Nat) (s : State) : State :=
  ((s.off (.loop .TRC_STAT_ARMED) e).on (.loop .TRC_STAT_TRIGGERED) e |>.off (.loop .TRC_NTRIG) e).set (.loop .TRC_TPOS_TPOS)
    (s.get (.loop .TRC_STAT_WPTR) e) e |>.set (.loop .TRC_LEFT) (clampN 1 (8 * s.trcCap e) (s.get (.loop .TRC_POST_POST) e)) e

/-- Open a block: its bytes read 0, its header is written, the engine takes its stream permission and throttle (R161, R167). -/
def trcOpen (e : Nat) (s : State) : State :=
  let b := s.get (.loop .TRC_STAT_WPTR) e * 4
  let a := trcAddr e b
  let t : State := { s with mem := s.mem.filter (fun c => decide (c.1 < a) || decide (a + 4096 ≤ c.1)) }
  let t := (((t.writeN a s.axleTime 8).writeN (a + 8) e 1).writeN (a + 9) (s.trcN e) 1).writeN (a + 10) (s.trcRec e) 2
  let t := t.writeN (a + 14) (s.get (.loop .TRC_BDROP) e) 2
  ((t.off (.loop .TRC_BDROP) e).setB (.loop .TRC_SE) (s.bit (.loop .TRC_THROTTLE_STREAM_EN) e) e).set (.loop .TRC_MB)
    (s.get (.loop .TRC_THROTTLE_MAXBLK)) e |>.set (.loop .TRC_STAT_WPTR)
    (s.get (.loop .TRC_STAT_WPTR) e + 4) e

/-- Close a full block: it waits for its copy where the engine streams (R166, R167), and writing goes on in the next one. -/
def trcClose (e : Nat) (s : State) : State :=
  let b := (s.get (.loop .TRC_STAT_WPTR) e - 1) * 4 / 4096
  let t := s.when (s.get (.loop .TRC_CTRL_MODE) e == 3 && s.flag (.loop .TRC_SE) e)
    (fun t => (t.setBit (.loop .TRC_FULL) b e).on (.loop .TRC_STAT_STREAMING) e)
  (t.set (.loop .TRC_STAT_WPTR) ((b + 1) % 8 * 1024) e).off (.loop .TRC_CNT) e

/-- The trace takes the write that ended it (R165). -/
def trcFinish (e : Nat) (s : State) : State :=
  let v := s.get (.loop .TRC_PENDW) e
  (((s.off (.loop .TRC_CEND) e).set (.loop .TRC_CTRL_MODE) 0 e).set (.loop .TRC_CTRL_TSLOT) (bits v 2 3) e).set
    (.loop .TRC_CTRL_NSIGM1) (bits v 8 4) e |>.set (.loop .TRC_CTRL_DEC) (bits v 16 16) e

/-- A trace that starts opens a new block where the last one has left a part-filled one, whose records have another size or header (R161,
R165). DESIGN CHOICE, log entry 77. -/
def trcFresh (e : Nat) (s : State) : State :=
  if s.get (.loop .TRC_CNT) e = 0 then s
  else (s.set (.loop .TRC_STAT_WPTR) (((s.get (.loop .TRC_STAT_WPTR) e - 1) / 1024 + 1) % 8 * 1024) e).off (.loop .TRC_CNT) e

/-- Write one record at the write position (R161). -/
def trcRecord (e k : Nat) (trig miss : Bool) (s : State) : State :=
  let blk := s.get (.loop .TRC_STAT_WPTR) e * 4 / 4096 * 4096
  let a := trcAddr e (s.get (.loop .TRC_STAT_WPTR) e * 4)
  let w := s.get (.loop .LE_STAT_FCNT) e + 2 ^ 16 * k + 2 ^ 19 * trig.toNat +
    2 ^ 20 * (s.flag (.loop .INJ_STAT_ACTIVE) e || (s.flag (.loop .INJ_IN) e && s.get (.loop .INJ_CSLOT) e == k)).toNat + 2 ^ 21 * miss.toNat + 2 ^ 22 * s.get (.loop .PM_VNOW) e k
  let t := (s.writeN a w 4).forUpTo (s.trcN e) (fun i t => t.writeN (a + 4 + 2 * i) (s.trcSig e i) 2)
  let t := t.inc (.loop .TRC_CNT) e
  let t := t.writeN (trcAddr e blk + 12) (t.get (.loop .TRC_CNT) e) 2
  let t := t.set (.loop .TRC_STAT_WPTR) (s.get (.loop .TRC_STAT_WPTR) e + s.trcRec e / 4) e
  let t := t.when (s.flag (.loop .TRC_STAT_TRIGGERED) e) (fun t => t.set (.loop .TRC_LEFT) (t.get (.loop .TRC_LEFT) e - 1) e)
  if t.get (.loop .TRC_CNT) e ≥ s.trcCap e then trcClose e t else t

/-- The trace records at this moment: ring and stream always, one-shot from ARM until its last post record (R163). -/
def State.trcOn (s : State) (e : Nat) : Bool :=
  match s.get (.loop .TRC_CTRL_MODE) e with
  | 0 => false
  | 2 => s.flag (.loop .TRC_STAT_ARMED) e || s.flag (.loop .TRC_NTRIG) e ||
    (s.flag (.loop .TRC_STAT_TRIGGERED) e && s.get (.loop .TRC_LEFT) e != 0)
  | _ => true

/-- A capture of slot `k` (R160 to R166). -/
def trcCapture (e k : Nat) (miss : Bool) (s : State) : State :=
  if s.flag (.loop .TRC_CEND) e then trcFinish e s
  else if !s.trcOn e then s
  else
    let b := s.get (.loop .TRC_STAT_WPTR) e * 4 / 4096
    if s.get (.loop .TRC_CNT) e = 0 ∧ s.bit (.loop .TRC_FULL) b e then
      ((s.on (.loop .TRC_STAT_OVERRUN) e).incSat (.loop .TRC_TPOS_DROPPED) e).incSat (.loop .TRC_BDROP) e
    else
      let trig := s.trcTrigger e
      let v := s.trcSig e (s.get (.loop .TRC_TRIG_TSIG) e)
      let u := s.when (s.get (.loop .TRC_CNT) e == 0) (trcOpen e)
      let t := trcRecord e k trig miss (u.when trig (trcFire e))
      (t.set (.loop .TRC_LAST) v e).on (.loop .TRC_HAS) e

/-- The capture at the end of a sample of TSLOT, due under DEC (R160). -/
def trcSample (e k : Nat) (miss : Bool) (s : State) : State :=
  let n := s.get (.loop .LS_TOCC) e k
  let t := s.set (.loop .LS_TOCC) (n + 1) e k
  if s.get (.loop .TRC_CTRL_TSLOT) e = k ∧ (n % (s.get (.loop .TRC_CTRL_DEC) e + 1) = 0 ∨ s.flag (.loop .TRC_CEND) e) then
    trcCapture e k miss t else t

end Sys2Proof.Machine
end

