-- ==== Sys2Proof/Machine/Loop.lean ====
section
/-!
DEFINITION. Loop engines outside their instructions (R104 to R146): engine states, frames, schedule banks, sample triggers, END
and misses, slot registers, loop groups.
-/
namespace Sys2Proof.Machine
open Sys2Proof

/-- Address of a schedule bank (R104). -/
def bankAddr (e b : Nat) : Nat := leBase e + 0x1000 + 0x400 * b
/-- Word `k` of schedule entry `i` of a bank (R117). -/
def State.schedWord (s : State) (e b i k : Nat) : Nat := s.readN (bankAddr e b + 16 * i + 4 * k) 4

/-- A schedule entry (R117). -/
structure SEnt where
  en : Bool
  ls : Nat
  trig : Nat
  div : Nat
  phase : Nat
  inmask : Nat
  offset : Nat
  deadline : Nat
  resv : Bool
  deriving DecidableEq, Repr

/-- The entry that 16 bytes spell (R117). -/
def entOf (v : Nat) : SEnt :=
  ⟨v.testBit 0, bits v 1 3, bits v 4 2, bits v 6 10 + 1, bits v 16 10, bits v 32 32, bits v 64 20, bits v 96 20,
    bits v 26 6 != 0 || bits v 84 12 != 0 || bits v 116 12 != 0⟩

/-- Schedule entry `i` of a bank (R117). -/
def State.sent_ (s : State) (e b i : Nat) : SEnt := entOf (s.readN (bankAddr e b + 16 * i) 16)

/-- The bank an engine executes (R125). -/
def State.activeBank (s : State) (e : Nat) : Nat := s.get (.loop .SCHED_STAT_ACTIVE) e
/-- The entry of an occurrence, `q` being 64 times the bank plus the entry, as it stood when the occurrence fell due: a bank change
touches no occurrence that is open (R127). -/
def State.entry (s : State) (e q : Nat) : SEnt := entOf (s.get (.loop .LE_OCC) e q)
/-- Enabled entries of a bank. -/
def State.entries (s : State) (e b : Nat) : List (Nat × SEnt) :=
  ((List.range 64).map (fun i => (i, s.sent_ e b i))).filter (fun x => x.2.en)

/-- The CASCADE groups whose outer source is slot `k` itself (R138). -/
def State.outerSelf (s : State) (e k : Nat) : List Nat :=
  (List.range 4).filter (fun g => s.get (.loop .GRP_MODE) e g == 2 && s.get (.loop .GRP_OUTER) e g == k)

/-- The CASCADE groups whose outer source is the result of the slot's LOWEST group (R138). -/
def State.outerLow (s : State) (e k : Nat) : List Nat :=
  match s.lowestOf e k with
  | some l => (List.range 4).filter (fun g => s.get (.loop .GRP_MODE) e g == 2 && s.get (.loop .GRP_OUTER) e g == 8 + l)
  | none => []

/-- The CASCADE group that sets when an outer source's entry is due: of several the first (R138). DESIGN CHOICE, log entry 76. -/
def State.outerOf (s : State) (e k : Nat) : Option Nat := (s.outerSelf e k ++ s.outerLow e k).min?

/-- N of a CASCADE group (R138). -/
def State.cascN (s : State) (e g : Nat) : Nat := s.get (.loop .GRP_NM1) e g + 1

/-- The divider of an entry in a bank: its own, or for an outer entry N times that of its inner loop's entry, which may itself be the outer
entry of another group (R117, R138). -/
def State.divider (s : State) (e b : Nat) (x : SEnt) : Nat → Nat
  | 0 => x.div
  | n + 1 => match s.outerOf e x.ls with
    | none => x.div
    | some g => match (s.entries e b).find? (fun y => y.2.ls == s.get (.loop .GRP_INNER) e g) with
      | some y => s.cascN e g * s.divider e b y.2 n
      | none => x.div

/-- The start conditions of R114. -/
def State.startOk (s : State) (e : Nat) : Bool :=
  s.get (.loop .LE_STAT_STATE) e == 0 && s.frameOk e && !(s.entries e (s.activeBank e)).isEmpty &&
    (s.entries e (s.activeBank e)).all (fun x => s.wflag .LS_ENTRY_VALID e x.2.ls)

/-- A waiting lookup and staged results of the sample in flight are discarded (R109, R128). -/
def dropSample (e : Nat) (s : State) : State :=
  (injTail e (s.get (.loop .LE_SLOT) e) ((s.off (.loop .LE_RUN) e).off (.loop .LE_OPW) e |>.off (.loop .CH_WAIT) e)).forUpTo 8 (fun k t =>
    t.off (.loop .S_HAS) e k)

/-- The pending bank becomes the active one (R125). -/
def swapBank (e : Nat) (s : State) : State :=
  ((s.set (.loop .SCHED_STAT_ACTIVE) (1 - s.activeBank e) e).off (.loop .SCHED_STAT_COMMIT_PEND) e).off (.loop .LE_CSKIP) e

/-- No occurrence is open any more. -/
def dropOccurrences (e : Nat) (s : State) : State :=
  (((s.off (.loop .LE_DUE) e).off (.loop .LE_TRGD) e).off (.loop .LE_NXT) e).off (.loop .LE_FRE) e

/-- The engine reaches OFF: no sample, no due entry, its escalation source released; a pending bank takes effect (R113, R123,
R618). -/
def engineOff (e : Nat) (s : State) : State :=
  let t := dropOccurrences e (injAbort e 4 (dropSample e s))
  let t := ((t.set (.loop .LE_STAT_STATE) 0 e).off (.loop .LE_LIVE) e).off (.loop .LE_ESC) e
  let t := t.when (t.flag (.loop .SCHED_STAT_COMMIT_PEND) e) (swapBank e)
  deassertSource (48 + e) t

/-- ECC_FATAL, ILLEGAL or STACK: the engine is in FAULT, staged outputs are discarded, the escalation source asserts (R105,
R108, R113). -/
def engineFault (e : Nat) (flag : LoopFld) (s : State) : State :=
  let t := s.on (.loop flag) e
  escalate e (dropOccurrences e ((dropSample e t).set (.loop .LE_STAT_STATE) 4 e))

/-- An entry of the active bank falls due at a frame count: by its divider and phase, or for an outer entry by the occurrences of the
inner one, which may itself be an outer one (R117, R124, R138). -/
def State.fallsDue (s : State) (e fc : Nat) (l : List (Nat × SEnt)) (x : SEnt) : Nat → Bool
  | 0 => fc % x.div == x.phase
  | n + 1 => match s.outerOf e x.ls with
    | none => fc % x.div == x.phase
    | some g =>
      let inner := s.get (.loop .GRP_INNER) e g
      l.any (fun y => y.2.ls == inner && s.fallsDue e fc l y.2 n) && s.get (.loop .LS_NOCC) e inner % s.cascN e g == x.phase

/-- The occurrences that fall due at a frame count, of slots that run or come to run at their next sample (R117, R129, R131). -/
def State.dueList (s : State) (e fc : Nat) : List Nat :=
  let b := s.activeBank e
  let l := s.entries e b
  (l.filter (fun x => s.fallsDue e fc l x.2 4 && (s.wflag .LS_CFG_EN e x.2.ls || (s.flag (.loop .LS_CAPD) e x.2.ls &&
    s.flag (.loop .LS_CFG_EN) e (x.2.ls + 16))))).map (fun x => 64 * b + x.1)

/-- An occurrence of the entry is open: due, triggered, or the sample in flight. -/
def State.openOcc (s : State) (e q : Nat) : Bool :=
  s.bit (.loop .LE_DUE) q e || s.bit (.loop .LE_TRGD) q e || (s.flag (.loop .LE_RUN) e && s.get (.loop .LE_ENT) e == q)

/-- An occurrence is due from an instant. -/
def occDue (e q at_ : Nat) (s : State) : State :=
  let t := ((s.setBit (.loop .LE_DUE) q e).set (.loop .LE_DUE_AT) at_ e q).clrBit (.loop .LE_ENDED) q e
  t.when (t.lowestOf e (t.entry e q).ls).isSome (·.setBit (.loop .LE_FRE) (t.entry e q).ls e)

/-- An occurrence has ended; where the entry's next one has fallen due meanwhile, that one is due now (R128). -/
def occEnd (e q : Nat) (s : State) : State :=
  let t := (((s.clrBit (.loop .LE_DUE) q e).clrBit (.loop .LE_TRGD) q e).setBit (.loop .LE_ENDED) q e).set (.loop .LE_END_AT) (s.now + 1) e q
  if t.bit (.loop .LE_NXT) q e then occDue e q (t.get (.loop .LE_NXT_AT) e q) (t.clrBit (.loop .LE_NXT) q e) else t

/-- The working copy of a slot's shadowed registers takes the values of the last APPLY; a slot that comes to be enabled begins with
a first sample, one that is disabled ends its injection (R131, R145, R173). -/
def takeApply (e k a : Nat) (s : State) : State :=
  let was := s.wflag .LS_CFG_EN e k
  let t := (copySlot e a (work k) s).off (.loop .LS_STAT_APPLY_PEND) e k |>.off (.loop .LS_CAPD) e k
  let t := t.when (!was && t.wflag .LS_CFG_EN e k) (·.on (.loop .LS_STAT_FIRST) e k)
  t.when (was && !t.wflag .LS_CFG_EN e k && t.get (.loop .INJ_CTRL_SLOT) e == k) (injAbort e 5)

/-- What a first sample does before its slew and law steps: SP from the feedback, e_prev and d_f 0, the priming window opens
(R145, R155). -/
def firstSample (e k : Nat) (s : State) : State :=
  let t := ((s.sset (.loop .S_SP) (s.port e (s.wget .LS_CFG_FB_PORT e k)) e k).off (.loop .S_EP) e k).off (.loop .S_DF) e k
  let t := (t.on (.loop .LS_PM_STAT_LOOP_UNPRIMED) e k).set (.loop .LS_PM_STAT_PRIME_LEFT)
    (max 2 (s.wget .LS_PM_CFG_PRIME e k)) e k
  ((t.set (.loop .LS_PM_STAT_RUN) 0 e k).set (.loop .PM_SEED) 1 e k).clrBit (.loop .PM_EV) 2 e k

/-- Stage a slot's present state for the sample (R109). -/
def stageSlot (e k : Nat) (s : State) : State :=
  let c (f g : LoopFld) (t : State) : State := t.set (.loop g) (s.get (.loop f) e k) e k
  ((c .LS_SP_SP .S_SP (c .LS_SP_TARGET .S_TGT (c .LS_INTEG .S_INTEG (c .LS_DF .S_DF (c .LS_EP .S_EP (c .LS_STAT_U .S_U
    (c .LS_PD .S_PD s))))))).set (.loop .S_SAT) (s.get (.loop .LS_STAT_SAT_HI) e k + 2 * s.get (.loop .LS_STAT_SAT_LO) e k) e k).off
    (.loop .S_HAS) e k |>.off (.loop .PM_DID) e k |>.off (.loop .PM_OUT) e k |>.off (.loop .PM_VNOW) e k

/-- A sample of entry `i` of slot `k` starts: its registers are undefined, shadows take effect, first sample, injection
(R106, R119, R131, R145, R158, R168). -/
def startSample (e i k : Nat) (s : State) : State :=
  let t := (((s.on (.loop .LE_RUN) e).set (.loop .LE_ENT) i e).set (.loop .LE_SLOT) k e).set (.loop .LE_BEG) (2 ^ k) e
  let t := (t.forUpTo 32 (fun r t => t.setFree (.loop .LE_G) e r)).setFree (.loop .LE_A) e 0 |>.setFree (.loop .LE_A) e 1
  let t := (t.set (.loop .LE_PC) (t.wget .LS_ENTRY_ADDR e k) e).off (.loop .LE_DEPTH) e |>.off (.loop .LE_OPW) e
    |>.off (.loop .CH_DONE) e
  let t := t.forUpTo 8 (fun j t => stageSlot e j t)
  let t := primingEnd e k ((t.sset (.loop .PM_PU) (t.plantU e k) e k).set (.loop .PM_SEED)
    (if t.flag (.loop .PM_MISSED) e k then 2 else 0) e k)
  let t := (t.off (.loop .PM_MISSED) e k).when (t.flag (.loop .LS_STAT_FIRST) e k) (firstSample e k)
  injSample e k t

/-- The sample in flight can run: the engine is in RUN or DRAINING and no lookup of it waits (R72). -/
def State.running (s : State) (e : Nat) : Bool :=
  s.flag (.loop .LE_RUN) e && (s.get (.loop .LE_STAT_STATE) e == 1 || s.get (.loop .LE_STAT_STATE) e == 2) &&
    s.get (.loop .CH_WAIT) e == 0

/-- A CASCADE outer value reaches its inner slots' target (R138). -/
def cascadeTo (e src : Nat) (v : Nat) (s : State) : State :=
  s.forUpTo 4 (fun g t => if s.get (.loop .GRP_MODE) e g = 2 ∧ s.get (.loop .GRP_OUTER) e g = src then
    t.set (.loop .LS_CTGT) v e (s.get (.loop .GRP_INNER) e g) else t)

/-- The destination of an output port is closed: the edge island is out of RUN, or no drive island is in RUN (R34, R112). DEDUCED, log entry
76. -/
def State.portShut (s : State) (d : Nat) : Bool :=
  if d = 1 then s.get (.saf .ISL_STAT_STATE) 7 != 0 else (List.range 4).all (fun q => s.get (.saf .ISL_STAT_STATE) (q + 2) != 0)

/-- Write an output port and send its value to the destination; a closed one drops it and PORT_CLOSED is set (R34, R112). -/
def writePort (e p v : Nat) (s : State) : State :=
  let t := sourceSent 7 (32 * e + p) (s.set (.loop .LE_OP) v e p)
  let d := s.get (.loop .OPMAP_DEST) e p
  if (d = 1 ∨ d = 2) ∧ s.portShut d then t.on (.loop .LE_STAT_PORT_CLOSED) e
  else if d = 1 ∨ d = 2 then t.send .port (32 * e + p) (32 * d + s.get (.loop .OPMAP_CHAN) e p) (v % 2 ^ 32) else t

/-- No occurrence of a member of the LOWEST group is open any more (R137). -/
def State.lowestReady (s : State) (e g : Nat) : Bool := (s.get (.loop .GRP_MEMBERS) e g &&& s.get (.loop .LE_FRE) e) == 0

/-- The winner of a LOWEST group: the lowest U, under NEGATE the highest; the lower slot at a tie (R137). A member that is disabled, or not due
with the others, competes with the U it holds. DESIGN CHOICE, log entry 76. -/
def State.lowestWinner (s : State) (e g : Nat) : Option Nat :=
  let neg := s.flag (.loop .GRP_NEGATE) e g
  let u := fun k => if neg then -(s.sget (.loop .LS_STAT_U) e k) else s.sget (.loop .LS_STAT_U) e k
  ((List.range 8).filter (fun k => s.bit (.loop .GRP_MEMBERS) k e g)).foldl
    (fun b k => match b with | none => some k | some j => if u k < u j then some k else some j) none

/-- Resolve a LOWEST group: result, WINNER flags, the losers' integrators (but of members that missed), the group's port and its cascade
(R137, R138). DESIGN CHOICE, log entry 76. -/
def resolveLowest (e g : Nat) (s : State) : State :=
  match s.lowestWinner e g with
  | none => s
  | some w =>
    let u := s.sget (.loop .LS_STAT_U) e w
    let t := s.forUpTo 8 (fun k t =>
      if !s.bit (.loop .GRP_MEMBERS) k e g then t
      else
        let t := t.setB (.loop .LS_STAT_WINNER) (k == w) e k
        if k = w ∨ s.bit (.loop .LE_FRM) k e then t
        else t.sset (.loop .LS_INTEG) (satS 32 ((u - s.sget (.loop .LS_PD) e k) * 32768)) e k)
    let t := (t.sset (.loop .GRP_RES) u e g).when (s.flag (.loop .GRP_OEN) e g)
      (writePort e (s.get (.loop .GRP_OPORT) e g) (ofSigned 32 u))
    cascadeTo e (8 + g) (ofSigned 16 u) t

/-- A slot's occurrence has ended; its LOWEST group is resolved with its last member (R137). -/
def slotEnded (e k : Nat) (missed : Bool) (s : State) : State :=
  match s.lowestOf e k with
  | none => s
  | some g =>
    if !s.bit (.loop .LE_FRE) k e then s
    else
      let t := (s.clrBit (.loop .LE_FRE) k e).putBit (.loop .LE_FRM) k missed e
      if t.lowestReady e g then resolveLowest e g t else t

/-- The order in which waiting occurrences start: by entry; of one entry in both banks that of the bank left first (R119, R127). -/
def State.startOrder (s : State) (e : Nat) : List Nat :=
  (List.range 128).map (fun n => 64 * (if n % 2 = 0 then 1 - s.activeBank e else s.activeBank e) + n / 2)

/-- Start the lowest triggered entry while the engine is idle; an entry whose slot is disabled is passed (R119, R129). -/
def startNext (e : Nat) (s : State) : Nat → State
  | 0 => s
  | n + 1 =>
    if s.flag (.loop .LE_RUN) e ∨ s.get (.loop .LE_STAT_STATE) e ≠ 1 then s
    else match (s.startOrder e).find? (fun q => s.bit (.loop .LE_TRGD) q e) with
    | none => s
    | some q =>
      let k := (s.entry e q).ls
      let t := s.when (s.flag (.loop .LS_CAPD) e k) (takeApply e k (k + 16))
      if t.wflag .LS_CFG_EN e k then startSample e q k (t.clrBit (.loop .LE_TRGD) q e)
      else startNext e (occEnd e q (slotEnded e k false t)) n

/-- Every port of the entry's INMASK is fresh (R117). -/
def State.inputsFresh (s : State) (e : Nat) (x : SEnt) : Bool := (x.inmask &&& s.get (.loop .IPFRESH) e) == x.inmask

/-- A CHAIN entry waits for the entry before it where both fell due at one boundary (R118). -/
def State.chained (s : State) (e q due : Nat) : Bool :=
  q % 64 != 0 && (s.get (.loop .LE_DUE_AT) e (q - 1) == due ||
    (s.bit (.loop .LE_NXT) (q - 1) e && s.get (.loop .LE_NXT_AT) e (q - 1) == due))

/-- The entry before it has ended its occurrence of that boundary. -/
def State.chainEnded (s : State) (e q due : Nat) : Bool :=
  s.get (.loop .LE_DUE_AT) e (q - 1) == due && s.bit (.loop .LE_ENDED) (q - 1) e

/-- The triggering condition of an occurrence that fell due at `due - 1`: OFFSET has passed, its inputs are fresh, the entry before it has
ended, as TRIG asks (R118). -/
def State.triggerOk (s : State) (e q due : Nat) : Bool :=
  let x := s.entry e q
  decide (due - 1 + 64 * x.offset ≤ s.now) && match x.trig with
  | 0 => s.inputsFresh e x
  | 1 => true
  | 2 => s.inputsFresh e x && (!s.chained e q due || s.chainEnded e q due)
  | _ => false

/-- The deadline of the open occurrence has passed: DEADLINE after its trigger; for one whose inputs have not become fresh, DEADLINE after
the later of its boundary + OFFSET and the end of the entry before it (R120). -/
def State.deadlinePassed (s : State) (e q : Nat) : Bool :=
  let x := s.entry e q
  let due := s.get (.loop .LE_DUE_AT) e q
  if s.bit (.loop .LE_TRGD) q e || (s.flag (.loop .LE_RUN) e && s.get (.loop .LE_ENT) e == q) then
    decide (s.get (.loop .LE_TRG_AT) e q - 1 + 64 * x.deadline ≤ s.now)
  else
    let link := x.trig == 2 && s.chained e q due
    let from_ := max (due - 1 + 64 * x.offset) (if link then s.get (.loop .LE_END_AT) e (q - 1) - 1 else 0)
    x.trig != 1 && !s.inputsFresh e x && (!link || s.chainEnded e q due) && decide (from_ + 64 * x.deadline ≤ s.now)

/-- The cause of a miss of an entry (R128, Table: Miss causes). -/
def State.missCause (s : State) (e q : Nat) (late : Bool) : Nat :=
  if late then 4
  else if s.flag (.loop .LE_RUN) e && s.get (.loop .LE_ENT) e == q then 1
  else if s.bit (.loop .LE_TRGD) q e then 3 else 2

/-- An open occurrence misses (R128): its sample stops, staged state is discarded, the counters and cause are recorded, a trace waiting for a
miss of the slot triggers. One whose slot is disabled is neither a miss nor a success (R129). -/
def missEntry (e q : Nat) (late : Bool) (s : State) : State :=
  let k := (s.entry e q).ls
  let run := s.flag (.loop .LE_RUN) e && s.get (.loop .LE_ENT) e == q
  if !run && !s.wflag .LS_CFG_EN e k then occEnd e q (slotEnded e k false s)
  else
    let t := ((s.on (.loop .LS_STAT_MISS) e k).set (.loop .LS_STAT_MISS_CAUSE) (s.missCause e q late) e k).incSat
      (.loop .LS_MISS_MISS_RUN) e k |>.incSat (.loop .LS_MISS_MISS_CNT) e k |>.on (.loop .PM_MISSED) e k
    let t := t.when run (dropSample e)
    let t := t.when (s.get (.loop .TRC_CTRL_TSLOT) e == k) (trcSee e 5)
    trcSample e k true (occEnd e q (slotEnded e k true t))

/-- An occurrence triggers; it starts if the engine is idle (R119). -/
def trigger (e q : Nat) (s : State) : State :=
  startNext e (((s.clrBit (.loop .LE_DUE) q e).setBit (.loop .LE_TRGD) q e).set (.loop .LE_TRG_AT) (s.now + 1) e q) 64

/-- SAMPLE_TRIGGER: the occurrence of entry `i` triggers once its condition holds, in a halted engine without starting; where the entry's next
occurrence triggers while the last one is open, that one ends as a miss (R113, R118, R119, R128). -/
def sampleTrigger (e i : Nat) (s : State) : State :=
  if s.get (.loop .LE_STAT_STATE) e ≠ 1 ∧ s.get (.loop .LE_STAT_STATE) e ≠ 3 then s
  else
    let qs := [64 * (1 - s.activeBank e) + i, 64 * s.activeBank e + i]
    match qs.find? (fun q => s.bit (.loop .LE_DUE) q e && s.triggerOk e q (s.get (.loop .LE_DUE_AT) e q)) with
    | some q => trigger e q s
    | none => match qs.find? (fun q => s.bit (.loop .LE_NXT) q e && s.triggerOk e q (s.get (.loop .LE_NXT_AT) e q)) with
      | some q => trigger e q (missEntry e q true s)
      | none => s

/-- An entry falls due at a frame boundary: its occurrence is open, or waits behind the one that still is; behind a second one that waits
the first one misses (R117, R128). -/
def entryDue (e q : Nat) (s : State) : State :=
  let s := s.when (s.bit (.loop .LE_NXT) q e) (missEntry e q true)
  if s.openOcc e q then (s.setBit (.loop .LE_NXT) q e).set (.loop .LE_NXT_AT) (s.now + 1) e q
  else occDue e q (s.now + 1) (s.set (.loop .LE_OCC) (s.readN (bankAddr e (q / 64) + 16 * (q % 64)) 16) e q)

/-- A frame boundary of the engine has come: FDIV + 1 reload boundaries of its domain since the last one (R115). -/
def State.frameCome (s : State) (e : Nat) : Bool := decide (s.get (.loop .LE_CTRL_FDIV) e < s.get (.loop .LE_RBN) e)

/-- The loop island's clock runs: RUN or ISOLATED (R16). -/
def State.loopClocked (s : State) : Bool := s.get (.saf .ISL_STAT_STATE) 6 == 0 || s.get (.saf .ISL_STAT_STATE) 6 == 4

/-- FRAME_BOUNDARY (R111, R113, R115, R123, R126): freshness ends, the count advances, a pending bank takes effect, entries fall
due. -/
def frameBoundary (e : Nat) (s : State) : State :=
  if !s.frameCome e ∨ !s.loopClocked then s
  else
    let t := ((s.off (.loop .IPFRESH) e).set (.loop .LE_FAT) s.now e).off (.loop .LE_RBN) e
    let st := s.get (.loop .LE_STAT_STATE) e
    if st ≠ 1 ∧ st ≠ 3 then t
    else
      let live := s.flag (.loop .LE_LIVE) e
      let fc := if live then s.get (.loop .LE_FC) e + 1 else 0
      let t := t.when (!live) (fun t => t.forUpTo 8 (fun k t => t.off (.loop .LS_NOCC) e k))
      let t := ((t.on (.loop .LE_LIVE) e).set (.loop .LE_FC) fc e).set (.loop .LE_STAT_FCNT) fc e
      let t := if !t.flag (.loop .SCHED_STAT_COMMIT_PEND) e then t
        else if t.flag (.loop .LE_CSKIP) e then t.off (.loop .LE_CSKIP) e else swapBank e t
      let due := t.dueList e fc
      let slots := due.foldl (fun a q => a ||| 2 ^ (t.sent_ e (q / 64) (q % 64)).ls) 0
      let t := (t.set (.loop .LE_DUEF) (due.foldl (fun a q => a ||| 2 ^ q) 0) e).forEach due (entryDue e)
      let t := t.forUpTo 8 (fun k t => if slots.testBit k then t.inc (.loop .LS_NOCC) e k else t)
      if t.flag (.loop .LE_RUN) e then t else startNext e t 64

/-- The engine goes on after a sample: a draining one is OFF, a running one starts the next waiting entry (R119, R128, R143). -/
def afterSample (e : Nat) (s : State) : State :=
  if s.get (.loop .LE_STAT_STATE) e = 2 then engineOff e s else startNext e s 64

/-- The slot's sample began as a first sample (R145). -/
def State.isFirst (s : State) (e k : Nat) : Bool := s.get (.loop .PM_SEED) e k == 1

/-- Commit a slot's staged state (R109); a first sample commits the set-point, derivative state and e_prev it began with even where no law
step ran (R145). -/
def commitSlot (e k : Nat) (s : State) : State :=
  let c (f g : LoopFld) (t : State) : State := t.set (.loop g) (s.get (.loop f) e k) e k
  let t := s.when (s.bit (.loop .S_HAS) 0 e k || s.isFirst e k) (fun t => c .S_SP .LS_SP_SP (c .S_TGT .LS_SP_TARGET t))
  let t := t.when (s.isFirst e k) (fun t => c .S_DF .LS_DF (c .S_EP .LS_EP t))
  let t := t.when (s.bit (.loop .S_HAS) 1 e k) (fun t =>
    ((c .S_INTEG .LS_INTEG (c .S_DF .LS_DF (c .S_EP .LS_EP (c .S_U .LS_STAT_U (c .S_PD .LS_PD t))))).set (.loop .LS_STAT_SAT_HI)
      (bits (s.get (.loop .S_SAT) e k) 0 1) e k).set (.loop .LS_STAT_SAT_LO) (bits (s.get (.loop .S_SAT) e k) 1 1) e k)
  (t.off (.loop .S_HAS) e k).when (s.isFirst e k) (·.off (.loop .LS_STAT_FIRST) e k)

/-- The output ports an END writes: those the program staged, then U of the sample's slot, and of the slots stepped within it, where OEN is
set and no LOWEST group takes it; U goes over a value the program staged for the same port (R109, R112). DESIGN CHOICE, log entry 76. -/
def commitPorts (e k beg : Nat) (s : State) : State :=
  let m := s.get (.loop .LE_OPW) e
  let t := s.forUpTo 32 (fun p t => if m.testBit p then writePort e p (s.get (.loop .LE_OPS) e p) t else t)
  (t.forUpTo 8 (fun j t => if (j = k || beg.testBit j) && s.wflag .LS_CFG_OEN e j && (s.lowestOf e j).isNone then
    writePort e (s.wget .LS_CFG_OPORT e j) (ofSigned 32 (s.sget (.loop .LS_STAT_U) e j)) t else t)).off (.loop .LE_OPW) e

/-- END: the sample's staged state takes effect together, its ports are sent, groups resolve, the trace records (R109, R112,
R129, R137, R138, R143, R145, R149, R156, R160). -/
def sampleEnd (e : Nat) (s : State) : State :=
  if !s.running e then s
  else
    let k := s.get (.loop .LE_SLOT) e
    let q := s.get (.loop .LE_ENT) e
    let beg := s.get (.loop .LE_BEG) e
    let t := holdRelease e k (plausibilityViolation e k (modelStep e k s))
    let t := t.forUpTo 8 (fun j t => if j = k ∨ beg.testBit j then commitSlot e j t else t)
    let t := commitHistory e k (commitPorts e k beg t)
    let t := t.off (.loop .LS_MISS_MISS_RUN) e k
    let t := cascadeTo e k (t.get (.loop .LS_STAT_U) e k) (occEnd e q (slotEnded e k false t))
    let t := injTail e k (trcSample e k false t)
    afterSample e (t.off (.loop .LE_RUN) e)

/-- MISS_LIMIT_REACHED: MISS_RUN stands at MISS_LIM, 0 acting as 1 (R130). -/
def missLimit (e k : Nat) (s : State) : State :=
  if s.get (.loop .LS_MISS_MISS_RUN) e k ≥ max 1 (s.get (.loop .LS_MISS_MISS_LIM) e k) ∧ s.get (.loop .LE_STAT_STATE) e ≠ 0 then
    escalate e s
  else s

/-- DEADLINE_MISS of entry `i`: its open occurrence has passed its deadline; or (`late`) the entry's next occurrence triggers. The miss that
ends a draining engine's last sample asserts its source before the engine is OFF (R120, R128, R130, R143). -/
def deadlineMiss (e i : Nat) (late : Bool) (s : State) : State :=
  let st := s.get (.loop .LE_STAT_STATE) e
  let qs := [64 * (1 - s.activeBank e) + i, 64 * s.activeBank e + i]
  let past (q : Nat) : Bool := s.openOcc e q && (if late then
    s.bit (.loop .LE_NXT) q e && s.triggerOk e q (s.get (.loop .LE_NXT_AT) e q) else s.deadlinePassed e q)
  match (if st = 1 ∨ st = 2 then qs.find? past else none) with
  | none => s
  | some q =>
    let t := missEntry e q late s
    let t := if st = 2 then missLimit e (s.entry e q).ls t else t
    if t.flag (.loop .LE_RUN) e then t else afterSample e t

/-- A disable request: refused while a dependent group is enabled and FORCE is 0, else the groups are disabled first and the
engine drains; occurrences that wait are dropped and count as no miss (R113, R121, R143). DESIGN CHOICE, log entry 76. -/
def engineDisable (e : Nat) (s : State) : State :=
  let dep := s.get (.loop .LE_DEP) e &&& s.get (.edge .OG_EN)
  match s.get (.loop .LE_STAT_STATE) e with
  | 1 =>
    if dep ≠ 0 ∧ !s.flag (.loop .LE_CTRL_FORCE) e then (s.on (.loop .LE_STAT_DIS_REFUSED) e).send .level4 121 e
    else
      let t := injAbort e 4 (((disableGroups dep s).off (.loop .LE_CTRL_EN) e).set (.loop .LE_STAT_STATE) 2 e)
      if t.flag (.loop .LE_RUN) e then dropOccurrences e t else engineOff e t
  | 3 => engineOff e (s.off (.loop .LE_CTRL_EN) e)
  | _ => s.off (.loop .LE_CTRL_EN) e

/-- A write of 1 to EN (R113, R114). -/
def engineStart (e : Nat) (s : State) : State :=
  if s.get (.loop .LE_STAT_STATE) e = 1 ∨ s.get (.loop .LE_STAT_STATE) e = 3 then s
  else if s.startOk e then
    (((s.on (.loop .LE_CTRL_EN) e).set (.loop .LE_STAT_STATE) 1 e).off (.loop .LE_LIVE) e).forUpTo 8 (fun k t =>
      t.on (.loop .LS_STAT_FIRST) e k)
  else (s.on (.loop .LE_STAT_START_ERR) e).off (.loop .LE_CTRL_EN) e

/-- A write of LOOP_LE[n]_CTRL (R113, R114, R121): DOMAIN and FDIV change only while STATE is OFF. -/
def leCtrlWrite (e v : Nat) (s : State) : State :=
  let t := s.set (.loop .LE_CTRL_FORCE) (bits v 1 1) e
  let t := t.when (s.get (.loop .LE_STAT_STATE) e == 0) (fun t =>
    (t.set (.loop .LE_CTRL_DOMAIN) (bits v 5 3) e).set (.loop .LE_CTRL_FDIV) (bits v 8 4) e)
  if v.testBit 0 then engineStart e t
  else
    let t := engineDisable e t
    if v.testBit 12 ∧ t.get (.loop .LE_STAT_STATE) e = 4 then engineOff e t else t

/-- The loop island leaves RUN: samples in flight end at once, no miss is counted, the engines read OFF (R144), and EN with them. DESIGN
CHOICE, log entry 76. -/
def loopLeaves (s : State) : State :=
  s.forUpTo 16 (fun e t => if t.get (.loop .LE_STAT_STATE) e = 0 then t else engineOff e (t.off (.loop .LE_CTRL_EN) e))

/-- Sign-extend a 16-bit value to 32 bits (R110). -/
def ext16 (v : Nat) : Nat := ofSigned 32 (toSigned 16 (v % 65536))

/-- The value of a channel of the actuator island; none where the channel is reserved or sends nothing (R446, R447).
DESIGN CHOICE, log entry 70. -/
def State.actuatorValue (s : State) (c : Nat) : Option Nat :=
  if c ≤ 2 then some (s.get (.act .BR_STAT_HALL) c + 256 * s.get (.act .HALL_CNT) c)
  else if c ≤ 5 then some (ext16 (s.get (.act .HALL_DT) (c - 3)))
  else if c ≤ 8 then some (ext16 (s.get (.act .BR_STAT_I_LAST) (c - 6)))
  else if c ≤ 16 then (if s.flag (.act .SENT_DATA_VALID) (c - 9) then some (8 * s.get (.act .SENT_DATA_FC1) (c - 9)) else none)
  else if c ≤ 24 then (if s.flag (.act .SENT_DATA_VALID) (c - 17) then some (8 * s.get (.act .SENT_DATA_FC2) (c - 17)) else none)
  else none

/-- What a source last sent to the ports that name it: results of the sense island, a channel of the actuator island, another
engine's port, an angle; for a set-point channel the value that arrives (R110, R212, R285, R306, R312, R447). -/
def State.sourceValue (s : State) (kind chan eng v : Nat) : Nat :=
  match kind with
  | 1 => ext16 (s.get (.sns .SD_STAT_LAST) chan)
  | 2 => ext16 (s.get (.sns .FC_STAT_LAST) chan)
  | 3 => ext16 (if chan % 2 = 0 then s.get (.sns .RES_SIN) (chan / 2) else s.get (.sns .RES_COS) (chan / 2))
  | 4 => s.get (.sns .HK_SENT) chan
  | 6 => (s.actuatorValue chan).getD 0
  | 7 => s.get (.loop .LE_OP) eng chan
  | 8 => s.get (.edge .DOM_ANGLE) chan
  | _ => v

/-- The source of a port in the numbering of the sources' counts; none for a set-point channel, whose value comes with its arrival. -/
def State.sourceIx (s : State) (e p : Nat) : Option (Nat × Nat) :=
  let kind := s.get (.loop .IPMAP_KIND) e p
  let chan := s.get (.loop .IPMAP_CHAN) e p
  if kind = 5 then none else some (kind, if kind = 7 then 32 * s.get (.loop .IPMAP_ENG) e p + chan else chan)

/-- A value arrives at an input port. A source that has sent nothing since the port last took its value has nothing that could arrive, so the
port does not become fresh again (R111, R285). -/
def portArrival (e p v : Nat) (s : State) : State :=
  let kind := s.get (.loop .IPMAP_KIND) e p
  if s.get (.saf .ISL_STAT_STATE) 6 ≠ 0 ∨ kind = 0 ∨ kind ≥ 9 ∨ (kind = 6 ∧ (s.actuatorValue (s.get (.loop .IPMAP_CHAN) e p)).isNone) then s
  else
    let t := (s.set (.loop .LE_IP) (s.sourceValue kind (s.get (.loop .IPMAP_CHAN) e p) (s.get (.loop .IPMAP_ENG) e p) v) e p).setBit
      (.loop .IPFRESH) p e
    match s.sourceIx e p with
    | none => t
    | some (k, i) =>
      if s.get (.loop .SRC_SEQ) k i = s.get (.loop .LE_IPSEQ) e p then s
      else t.set (.loop .LE_IPSEQ) (s.get (.loop .SRC_SEQ) k i) e p

/-- The first failing check of a bank, or 0 (R122). The frame period is that of the active period even while the domain does not run, and
the PHASE of an outer entry is held against N. DEDUCED, log entry 32. -/
def State.commitCode (s : State) (e b : Nat) : Nat :=
  let l := s.entries e b
  let per := fun (x : SEnt) => s.frameTicks e * s.divider e b x 4
  let cnt := fun k => (l.filter (fun x => x.2.ls == k)).length
  let cascBad := fun g => s.get (.loop .GRP_MODE) e g == 2 &&
    (let o := s.get (.loop .GRP_OUTER) e g
     cnt (s.get (.loop .GRP_INNER) e g) != 1 || decide (o ≥ 12) || (decide (o < 8) && cnt o != 1) ||
      (decide (8 ≤ o) && decide (o < 12) && (s.get (.loop .GRP_MODE) e (o - 8) != 1 ||
        (List.range 8).any (fun k => s.bit (.loop .GRP_MEMBERS) k e (o - 8) && cnt k != 1))))
  let lowBad := fun g => s.get (.loop .GRP_MODE) e g == 1 &&
    (let m := l.filter (fun x => s.bit (.loop .GRP_MEMBERS) x.2.ls e g)
     (List.range 8).any (fun k => s.bit (.loop .GRP_MEMBERS) k e g && cnt k != 1) || (m.zip m.tail).any (fun x => x.1.1 + 1 != x.2.1 || x.1.2.div != x.2.2.div || x.1.2.phase != x.2.2.phase))
  if l.isEmpty then 1
  else if l.any (fun x => !s.wflag .LS_ENTRY_VALID e x.2.ls) then 2
  else if l.any (fun x => x.2.deadline == 0 || decide (64 * x.2.deadline > per x.2)) then 3
  else if l.any (fun x => match s.outerOf e x.2.ls with
    | some g => decide (x.2.phase ≥ s.cascN e g) | none => decide (x.2.phase ≥ x.2.div)) then 4
  else if l.any (fun x => x.1 == 0 && x.2.trig == 2) then 5
  else if l.any (fun x => x.2.trig == 3) then 6
  else if (List.range 4).any cascBad then 7
  else if (List.range 4).any lowBad then 8
  else if l.any (fun x => decide (per x.2 > us 10000)) then 9
  else if (List.range 64).any (fun i => (s.sent_ e b i).resv) then 10
  else 0

/-- COMMIT: the check of the inactive bank begins, or is ignored while a bank is pending (R122, R125). -/
def commitWrite (e : Nat) (s : State) : State :=
  if s.flag (.loop .SCHED_STAT_COMMIT_PEND) e then s.on (.loop .SCHED_STAT_SLOT_BUSY) e else s.on (.loop .LE_CHK) e

/-- COMMIT_CHECK_DONE (R122, R123, R126). -/
def commitCheck (e : Nat) (s : State) : State :=
  if !s.flag (.loop .LE_CHK) e then s
  else
    let t := s.off (.loop .LE_CHK) e
    let c := s.commitCode e (1 - s.activeBank e)
    if c ≠ 0 then (t.on (.loop .SCHED_STAT_SCHED_ERR) e).set (.loop .SCHED_STAT_ERR_CODE) c e
    else if s.get (.loop .LE_STAT_STATE) e = 0 then swapBank e t
    else
      let t := t.on (.loop .SCHED_STAT_COMMIT_PEND) e
      if s.now + us 2 ≤ s.get (.loop .LE_FAT) e + s.frameTicks e then t.off (.loop .LE_CSKIP) e
      else (t.on (.loop .LE_CSKIP) e).on (.loop .SCHED_STAT_LATE_COMMIT) e

/-- A write of a group register: discarded with CFG_BUSY unless the engine is OFF (R140). -/
def groupRegWrite (w : Who) (a v e : Nat) (s : State) : State :=
  if s.get (.loop .LE_STAT_STATE) e = 0 then storeWord w a v s else discardWord w a v (s.on (.loop .LE_STAT_CFG_BUSY) e)

/-- A write of LS_CTRL: APPLY schedules the shadowed writes or is refused, REPRIME sets FIRST (R131, R145). -/
def lsCtrlWrite (e k v : Nat) (s : State) : State :=
  let t := if !v.testBit 0 then s
    else if s.sget (.loop .LS_LIMIT_OMIN) e k > s.sget (.loop .LS_LIMIT_OMAX) e k then
      (copySlot e (work k) k s).on (.loop .LS_STAT_CFG_ERR) e k
    else if s.get (.loop .LE_STAT_STATE) e = 0 then takeApply e k k s
    else ((copySlot e k (k + 16) s).on (.loop .LS_CAPD) e k).on (.loop .LS_STAT_APPLY_PEND) e k
  t.when (v.testBit 1) (·.on (.loop .LS_STAT_FIRST) e k)

/-- A write of TRC_CTRL (R165). -/
def trcCtrlWrite (e v : Nat) (s : State) : State :=
  if v % 4 = 0 then
    let t := (s.on (.loop .TRC_CEND) e).set (.loop .TRC_PENDW) v e
    if s.get (.loop .TRC_CTRL_MODE) e = 0 ∨ s.get (.loop .LE_STAT_STATE) e = 0 then trcFinish e t else t
  else if s.get (.loop .TRC_CTRL_MODE) e ≠ 0 then s.on (.loop .LE_STAT_CFG_BUSY) e
  else (((trcFresh e s).set (.loop .TRC_CTRL_MODE) (v % 4) e).set (.loop .TRC_CTRL_TSLOT) (bits v 2 3) e).set (.loop .TRC_CTRL_NSIGM1)
    (bits v 8 4) e |>.set (.loop .TRC_CTRL_DEC) (bits v 16 16) e

/-- ARM: trace RAM is emptied and the trigger armed; TSRC 0 triggers at once (R163, R164). -/
def trcArm (e : Nat) (s : State) : State :=
  let a := trcAddr e 0
  let t : State := { s with mem := s.mem.filter (fun c => decide (c.1 < a) || decide (a + 32768 ≤ c.1)) }
  let t := (t.on (.loop .TRC_STAT_ARMED) e).off (.loop .TRC_STAT_TRIGGERED) e |>.off (.loop .TRC_STAT_DONE) e |>.off
    (.loop .TRC_STAT_WPTR) e |>.off (.loop .TRC_CNT) e |>.off (.loop .TRC_TPOS_DROPPED) e |>.off (.loop .TRC_BDROP) e |>.off
    (.loop .TRC_HAS) e |>.off (.loop .TRC_LEFT) e
  trcSee e 0 (t.off (.loop .TRC_NTRIG) e)

/-- FORCE is the trigger for TSRC 7 (R164). -/
def trcForce (e : Nat) (s : State) : State := trcSee e 7 s

/-- A debugger halts an engine that runs: the debug-halt source forces its dependent groups (R113, R224, R492). -/
def haltEngine (e : Nat) (s : State) : State :=
  if s.flag (.saf .DBG_UNLOCKED) ∧ s.get (.loop .LE_STAT_STATE) e = 1 then
    let t := injAbort e 4 (s.set (.loop .LE_STAT_STATE) 3 e)
    forceGroups (s.get (.loop .LE_DEP) e) 0x61 (t.on (.edge .STAT_HALT_FORCE))
  else s

/-- A debugger resumes an engine: deadlines that passed meanwhile count as misses (R113). -/
def resumeEngine (e : Nat) (s : State) : State :=
  if s.get (.loop .LE_STAT_STATE) e = 3 then
    let t := (s.set (.loop .LE_STAT_STATE) 1 e).forUpTo 128 (fun q u =>
      if u.openOcc e q && u.deadlinePassed e q then missEntry e q false u else u)
    if t.flag (.loop .LE_RUN) e then t else startNext e t 64
  else s

/-- The groups that an owner holds, by its code: 1 to 8 the core pairs, 9 the interface processor. A split pair named for OG0 to OG8 acts as
no owner (R224, R468). -/
def State.ownedBy (s : State) (o : Nat) : Nat :=
  ((List.range 16).filter (fun g => s.get (.edge .OWN) g == o &&
    !(decide (1 ≤ o) && decide (o ≤ 8) && s.get (.saf .CP_STATE) (o - 1) == 1 && decide (g ≤ 8)))).foldl (fun a g => a + 2 ^ g) 0

/-- A debugger halts an owner of groups: a core pair, one core of a split pair (codes 1 to 8), or the interface processor (9); its owned
groups are forced (R224, R492). -/
def haltOwner (o : Nat) (s : State) : State :=
  if !s.flag (.saf .DBG_UNLOCKED) then s
  else
    let m := s.ownedBy o
    let t := (s.when (o ≤ 8) (·.on (.saf .CP_DBG_HALT) (o - 1))).when (m != 0) (·.on (.edge .STAT_HALT_FORCE))
    forceGroups m 0x61 (t.forUpTo 16 (fun g t => if m.testBit g then t.on (.grd .HALTED) g else t))

/-- A debugger resumes an owner; its groups stay forced (R224). -/
def resumeOwner (o : Nat) (s : State) : State :=
  (s.when (o ≤ 8) (·.off (.saf .CP_DBG_HALT) (o - 1))).forUpTo 16 (fun g t => if (s.ownedBy o).testBit g then t.off (.grd .HALTED) g else t)

/-- ENGINE_START (R114): a write of LOOP_LE[n]_CTRL with EN 1. DEDUCED, log entry 23. -/
def execEngineStart (w : Who) (e : EngIx) (v : Word) (s : State) : Host.Outcome State Fault Refusal :=
  let v := v.toNat ||| 1
  done (sideband w (leBase e.val) v (leCtrlWrite e.val v) s)
/-- ENGINE_DISABLE (R121): a write of LOOP_LE[n]_CTRL with EN 0. DEDUCED, log entry 23. -/
def execEngineDisable (w : Who) (e : EngIx) (v : Word) (s : State) : Host.Outcome State Fault Refusal :=
  let v := andNot v.toNat 0x1001
  done (sideband w (leBase e.val) v (leCtrlWrite e.val v) s)
/-- FAULT_CLR (R113): a write of LOOP_LE[n]_CTRL with FAULT_CLR 1 and EN 0. -/
def execFaultClr (w : Who) (e : EngIx) (v : Word) (s : State) : Host.Outcome State Fault Refusal :=
  let v := andNot (v.toNat ||| 0x1000) 1
  done (sideband w (leBase e.val) v (leCtrlWrite e.val v) s)
/-- FRAME_BOUNDARY (R115). -/
def execFrameBoundary (e : EngIx) (s : State) : Host.Outcome State Fault Refusal := done (frameBoundary e.val s)
/-- INPUT_PORT_ARRIVAL (R111). DEDUCED, log entry 30. -/
def execInputPortArrival (e : EngIx) (p : Fin 32) (v : Word) (s : State) : Host.Outcome State Fault Refusal :=
  done (portArrival e.val p.val v.toNat s)
/-- SAMPLE_TRIGGER (R118). DEDUCED, log entry 25. DESIGN CHOICE, log entry 26. -/
def execSampleTrigger (e : EngIx) (i : Fin 64) (s : State) : Host.Outcome State Fault Refusal := done (sampleTrigger e.val i.val s)
/-- PORT_CLOSED (R112): the transfer of an output port is answered with CLOSED or ERROR. -/
def execPortClosed (e : EngIx) (s : State) : Host.Outcome State Fault Refusal := done (s.on (.loop .LE_STAT_PORT_CLOSED) e.val)
/-- DEADLINE_MISS (R128). -/
def execDeadlineMiss (e : EngIx) (i : Fin 64) (late : Bool) (s : State) : Host.Outcome State Fault Refusal :=
  done (deadlineMiss e.val i.val late s)
/-- MISS_LIMIT_REACHED (R130). -/
def execMissLimitReached (e : EngIx) (k : SlotIx) (s : State) : Host.Outcome State Fault Refusal := done (missLimit e.val k.val s)
/-- PROGRAM_MEMORY_WRITE (R104): 32-bit half `k` of the program memory. -/
def execProgramMemoryWrite (w : Who) (e : EngIx) (k : Fin 8192) (v : Word) (s : State) : Host.Outcome State Fault Refusal :=
  let a := leBase e.val + 0x40000 + 4 * k.val
  done (sideband w a v.toNat (fun t => if t.get (.loop .LE_STAT_STATE) e.val = 0 then t.writeN a v.toNat 4
    else t.on (.loop .LE_STAT_CFG_BUSY) e.val) s)
/-- SCHEDULE_BANK_WRITE (R125): word `k` of a schedule bank. -/
def execScheduleBankWrite (w : Who) (e : EngIx) (b : Fin 2) (k : Fin 256) (v : Word) (s : State) :
    Host.Outcome State Fault Refusal :=
  let a := bankAddr e.val b.val + 4 * k.val
  done (sideband w a v.toNat (fun t =>
    if t.activeBank e.val = b.val ∨ t.flag (.loop .SCHED_STAT_COMMIT_PEND) e.val then t.on (.loop .SCHED_STAT_SLOT_BUSY) e.val
    else t.writeN a v.toNat 4) s)
/-- COMMIT (R122): a write of LE_SCHED_CTRL with COMMIT 1. -/
def execCommit (w : Who) (e : EngIx) (s : State) : Host.Outcome State Fault Refusal :=
  done (sideband w (leBase e.val + 0x10) 1 (commitWrite e.val) s)
/-- COMMIT_CHECK_DONE (R126). DEDUCED, log entry 23. DEDUCED, log entry 32. -/
def execCommitCheckDone (e : EngIx) (s : State) : Host.Outcome State Fault Refusal := done (commitCheck e.val s)
/-- Address of a loop slot's register block (R131). -/
def lsAddr (e k : Nat) : Nat := leBase e + 0x400 + 0x100 * k
/-- APPLY (R131): a write of LS_CTRL with APPLY 1. DEDUCED, log entry 25. -/
def execApply (w : Who) (e : EngIx) (k : SlotIx) (v : Word) (s : State) : Host.Outcome State Fault Refusal :=
  let v := v.toNat ||| 1
  done (sideband w (lsAddr e.val k.val + 0x2C) v (lsCtrlWrite e.val k.val v) s)
/-- REPRIME (R145): a write of LS_CTRL with REPRIME 1. -/
def execReprime (w : Who) (e : EngIx) (k : SlotIx) (v : Word) (s : State) : Host.Outcome State Fault Refusal :=
  let v := v.toNat ||| 2
  done (sideband w (lsAddr e.val k.val + 0x2C) v (lsCtrlWrite e.val k.val v) s)
/-- GROUP_REGISTER_WRITE (R140). -/
def execGroupRegisterWrite (w : Who) (e : EngIx) (g : Fin 4) (v : Word) (s : State) : Host.Outcome State Fault Refusal :=
  let a := leBase e.val + 0xC00 + 4 * g.val
  done (sideband w a v.toNat (groupRegWrite w a v.toNat e.val) s)
/-- DEBUG_HALT (R224, R492): of an engine, or of an owner of groups: core pair `o`, or the interface processor (8). DEDUCED, log entry 24. -/
def execDebugHalt (x : EngIx ⊕ Fin 9) (s : State) : Host.Outcome State Fault Refusal :=
  done (match x with | .inl e => haltEngine e.val s | .inr o => haltOwner (o.val + 1) s)
/-- DEBUG_RESUME (R113, R224). -/
def execDebugResume (x : EngIx ⊕ Fin 9) (s : State) : Host.Outcome State Fault Refusal :=
  done (match x with | .inl e => resumeEngine e.val s | .inr o => resumeOwner (o.val + 1) s)
/-- PLAUSIBILITY_VIOLATION (R152). -/
def execPlausibilityViolation (e : EngIx) (k : SlotIx) (s : State) : Host.Outcome State Fault Refusal :=
  done (plausibilityViolation e.val k.val s)
/-- HOLD_RELEASE (R154). -/
def execHoldRelease (e : EngIx) (k : SlotIx) (s : State) : Host.Outcome State Fault Refusal := done (holdRelease e.val k.val s)
/-- PRIMING_END (R156). -/
def execPrimingEnd (e : EngIx) (k : SlotIx) (s : State) : Host.Outcome State Fault Refusal := done (primingEnd e.val k.val s)
/-- TRACE_DONE (R163): the post records are all written. -/
def execTraceDone (e : EngIx) (s : State) : Host.Outcome State Fault Refusal :=
  done (s.when (s.get (.loop .TRC_CTRL_MODE) e.val == 2 && s.flag (.loop .TRC_STAT_TRIGGERED) e.val &&
    !s.flag (.loop .TRC_NTRIG) e.val && s.get (.loop .TRC_LEFT) e.val == 0) (·.on (.loop .TRC_STAT_DONE) e.val))
/-- TRC_CTRL_WRITE (R165). DEDUCED, log entry 29. -/
def execTrcCtrlWrite (w : Who) (e : EngIx) (v : Word) (s : State) : Host.Outcome State Fault Refusal :=
  done (sideband w (leBase e.val + 0xD00) v.toNat (trcCtrlWrite e.val v.toNat) s)
/-- TRC_SIG_WRITE (R165). -/
def execTrcSigWrite (w : Who) (e : EngIx) (i : Fin 16) (v : Word) (s : State) : Host.Outcome State Fault Refusal :=
  let a := leBase e.val + 0xD40 + 4 * i.val
  done (sideband w a v.toNat (fun t => if t.get (.loop .TRC_CTRL_MODE) e.val = 0 then storeWord w a v.toNat t
    else t.on (.loop .LE_STAT_CFG_BUSY) e.val) s)
/-- ARM (R163): a write of TRC_POST with ARM 1; with FORCE in the same word, armed first. DEDUCED, log entry 29. -/
def execArm (w : Who) (e : EngIx) (v : Word) (s : State) : Host.Outcome State Fault Refusal :=
  let a := leBase e.val + 0xD08
  done (sideband w a (v.toNat ||| 0x10000) (fun t =>
    let t := trcArm e.val (t.set (.loop .TRC_POST_POST) (v.toNat % 65536) e.val)
    t.when (v.toNat.testBit 17) (trcForce e.val)) s)
/-- TRACE_FORCE (R164): a write of TRC_POST with FORCE 1 and ARM 0. -/
def execTraceForce (w : Who) (e : EngIx) (post : Half) (s : State) : Host.Outcome State Fault Refusal :=
  done (sideband w (leBase e.val + 0xD08) (0x20000 + post.toNat) (fun t =>
    trcForce e.val (t.set (.loop .TRC_POST_POST) post.toNat e.val)) s)
/-- TRACE_THROTTLE_WRITE (R167): the register changes; each engine takes its permission at its next block boundary. -/
def execTraceThrottleWrite (w : Who) (v : Word) (s : State) : Host.Outcome State Fault Refusal :=
  done (sideband w 0x1031000080 v.toNat (storeWord w 0x1031000080 v.toNat) s)
/-- Fields of a write of INJ_CTRL (R168). -/
def injFields (e v : Nat) (s : State) : State :=
  ((s.set (.loop .INJ_CTRL_SLOT) (bits v 4 3) e).set (.loop .INJ_CTRL_POINT) (bits v 8 2) e).set (.loop .INJ_CTRL_SIG)
    (bits v 12 3) e |>.set (.loop .INJ_CTRL_AMP) (bits v 16 16) e
/-- INJECTION_START (R168): a write of INJ_CTRL with START 1 and STOP 0. -/
def execInjectionStart (w : Who) (e : EngIx) (v : Word) (s : State) : Host.Outcome State Fault Refusal :=
  done (sideband w (leBase e.val + 0xE00) (v.toNat ||| 1) (fun t => injStart e.val (injFields e.val v.toNat t)) s)
/-- INJECTION_STOP (R173): a write of INJ_CTRL with STOP 1. -/
def execInjectionStop (w : Who) (e : EngIx) (v : Word) (s : State) : Host.Outcome State Fault Refusal :=
  done (sideband w (leBase e.val + 0xE00) (v.toNat ||| 2) (fun t => injFields e.val v.toNat (injAbort e.val 3 t)) s)
/-- INJECTION_DONE (R173). -/
def execInjectionDone (e : EngIx) (s : State) : Host.Outcome State Fault Refusal := done (injDone e.val s)
/-- PERMIT_CLEAR (R174): the safety island clears an engine's PERMIT bit; a running injection ends at the slot's next sample. -/
def execPermitClear (e : EngIx) (s : State) : Host.Outcome State Fault Refusal :=
  done (permitClear e.val s)

end Sys2Proof.Machine
end

