-- ==== Sys2Proof/Machine/LoopInstr.lean ====
section
/-!
DEFINITION. The loop engines' instructions, by group (R105 to R109, R132 to R139, R145, R149, R160). The operations of a group are
Ligraga's; the operands here name the operation, and a value the rules do not state is free.
-/
namespace Sys2Proof.Machine
open Sys2Proof

/-- A working register. -/
def State.g (s : State) (e : Nat) (r : RegIx) : Nat := s.get (.loop .LE_G) e r.val
/-- A working register as a signed number. -/
def State.gs (s : State) (e : Nat) (r : RegIx) : Int := s.sget (.loop .LE_G) e r.val
/-- Write a working register. -/
def setG (e : Nat) (r : RegIx) (v : Nat) (s : State) : State := s.set (.loop .LE_G) v e r.val
/-- Write a working register from a signed result: exact where it fits, else free. -/
def setGi (e : Nat) (r : RegIx) (v : Int) (s : State) : State :=
  if satS 32 v = v then s.sset (.loop .LE_G) v e r.val else s.setFree (.loop .LE_G) e r.val

/-- Address of the instruction that the engine executes next: 64 bits in its program memory (R104, R107). -/
def State.pcAddr (s : State) (e : Nat) : Nat := leBase e + 0x40000 + 8 * s.get (.loop .LE_PC) e
/-- GROUP of that instruction, in bits [63:60] (R107). -/
def State.groupAt (s : State) (e : Nat) : Nat := bits (s.readN (s.pcAddr e) 8) 60 4

/-- Fetch an instruction of the sample in flight and execute it: a fetch that corrects sets ECC_CORR and counts, one that cannot faults
the engine (R105, R506). -/
def fetch (e : Nat) (f : Ecc) (body : State → State) (s : State) : State :=
  if !s.running e then s
  else match f with
  | .fatal => engineFault e .LE_STAT_ECC_FATAL s
  | .corrected => body (((s.on (.loop .LE_STAT_ECC_CORR) e).incSat (.mem .SRAM_ERR_CE_CNT)).inc (.loop .LE_PC) e)
  | .clean => body (s.inc (.loop .LE_PC) e)

/-- Execute an instruction of group `n`: GROUP of the word in program memory says which group's instruction it is, and 0xE and 0xF are
illegal; the next instruction follows (R105, R107, R108). -/
def instr (e : Nat) (n : Nat) (f : Ecc) (body : State → State) (s : State) : State :=
  let g := s.groupAt e
  if 14 ≤ g then fetch e f (engineFault e .LE_STAT_ILLEGAL) s else if g = n then fetch e f body s else s

/-- A data-memory read of a sample with the outcome of its SEC-DED (R105, R506). -/
def dataRead (e : Nat) (f : Ecc) (body : State → State) (s : State) : State :=
  match f with
  | .fatal => engineFault e .LE_STAT_ECC_FATAL s
  | .corrected => body ((s.on (.loop .LE_STAT_ECC_CORR) e).incSat (.mem .SRAM_ERR_CE_CNT))
  | .clean => body s

/-- The first step of slot `k` within a sample that is another slot's: one without a schedule entry of its own begins its sample here, with
its shadows and as a first sample where FIRST is set (R131, R145, R320). DEDUCED, log entry 25. -/
def beginSlot (e k : Nat) (s : State) : State :=
  if s.bit (.loop .LE_BEG) k e then s
  else
    let t := (s.setBit (.loop .LE_BEG) k e).off (.loop .PM_SEED) e k
    if (s.entries e (s.activeBank e)).any (fun x => x.2.ls == k) then t
    else
      let t := t.when (t.flag (.loop .LS_CAPD) e k) (takeApply e k (k + 16))
      injSample e k (t.when (t.flag (.loop .LS_STAT_FIRST) e k) (firstSample e k))

/-- A CTRL instruction; PC already names the next instruction (R107, R108). A return without a call goes to a free place. -/
def ctrlOp (e : Nat) (o : CtrlOp) (s : State) : State :=
  match o with
  | .nop => s
  | .branch a => s.set (.loop .LE_PC) a.val e
  | .branchIf t a => if t then s.set (.loop .LE_PC) a.val e else s
  | .call a =>
    let d := s.get (.loop .LE_DEPTH) e
    if d ≥ 4 then engineFault e .LE_STAT_STACK s
    else ((s.set (.loop .LE_STK) (s.get (.loop .LE_PC) e) e d).set (.loop .LE_DEPTH) (d + 1) e).set (.loop .LE_PC) a.val e
  | .ret =>
    let d := s.get (.loop .LE_DEPTH) e
    if d = 0 then s.setFree (.loop .LE_PC) e
    else (s.set (.loop .LE_PC) (s.get (.loop .LE_STK) e (d - 1)) e).set (.loop .LE_DEPTH) (d - 1) e

/-- A MOVE instruction; data-memory writes take effect at once (R105, R109). -/
def moveOp (e : Nat) (o : MoveOp) (s : State) : State :=
  match o with
  | .reg d a => setG e d (s.g e a) s
  | .imm d v => setG e d v.toNat s
  | .load d a ecc => dataRead e ecc (fun t => setG e d (t.readN (dataAddr e a.toNat) 4) t) s
  | .store a r => s.writeN (dataAddr e a.toNat) (s.g e r) 4

/-- An ARITH instruction (R107). -/
def arithOp (e : Nat) (o : ArithOp) (d a b : RegIx) (s : State) : State :=
  let x := s.gs e a
  let y := s.gs e b
  match o with
  | .add => setGi e d (x + y) s
  | .sub => setGi e d (x - y) s
  | .shl => if s.g e b < 32 then setG e d (s.g e a * 2 ^ s.g e b % 2 ^ 32) s else s.setFree (.loop .LE_G) e d.val
  | .shr => if s.g e b < 32 then setG e d (s.g e a / 2 ^ s.g e b) s else s.setFree (.loop .LE_G) e d.val
  | .sar => if s.g e b < 32 then setGi e d (x / (2 ^ s.g e b : Nat)) s else s.setFree (.loop .LE_G) e d.val
  | .min => setGi e d (min x y) s
  | .max => setGi e d (max x y) s
  | .abs => setGi e d x.natAbs s
  | .sat n => setGi e d (satS (n.val + 1) x) s

/-- A MAC instruction (R107). Products of Q1.15 values are exact; for Q8.23 the rules state no accumulator format, and the result
is free, as is a sum beyond the accumulator. -/
def macOp (e : Nat) (f : MacFmt) (acc : Bool) (d : Fin 2) (a b : RegIx) (s : State) : State :=
  match f with
  | .q23 => s.setFree (.loop .LE_A) e d.val
  | .q15 =>
    let p := toSigned 16 (s.g e a % 65536) * toSigned 16 (s.g e b % 65536)
    let v := if acc then s.sget (.loop .LE_A) e d.val + p else p
    if satS 48 v = v then s.sset (.loop .LE_A) v e d.val else s.setFree (.loop .LE_A) e d.val

/-- A PORT instruction (R109, R110, R111); the converters' own write is `cvPorts`. -/
def portOp (e : Nat) (o : PortOp) (s : State) : State :=
  match o with
  | .read d p => setG e d (s.get (.loop .LE_IP) e p.val) s
  | .stage p r => (s.set (.loop .LE_OPS) (s.g e r) e p.val).setBit (.loop .LE_OPW) p.val e
  | .test d p => setG e d (s.fresh? e p.val).toNat s
  | .put p r => if s.get (.loop .IPMAP_KIND) e p.val = 0 then
      (s.set (.loop .LE_IP) (s.g e r) e p.val).setBit (.loop .IPFRESH) p.val e else s
  | .law _ => s

/-- The target of a slot: its port, or for a CASCADE inner slot the outer source's value (R132, R138). -/
def State.target (s : State) (e k : Nat) : Int :=
  if (s.cascadeOf e k).isSome then s.sget (.loop .LS_CTGT) e k else s.port e (s.wget .LS_CFG_SP_PORT e k)

/-- One slew step from a set-point towards a target (R132). -/
def slewTo (sp target : Int) (rise fall : Nat) : Int :=
  let d := target - sp
  let d := if rise ≠ 0 ∧ d > rise then (rise : Int) else d
  sp + (if fall ≠ 0 ∧ d < -(fall : Int) then -(fall : Int) else d)

/-- SLEW: one step of a slot's set-point, staged (R109, R132, R133). -/
def slewOp (e k : Nat) (s : State) : State :=
  let t := s.target e k
  let sp := slewTo (s.sget (.loop .S_SP) e k) t (s.wget .LS_SLEW_RISE e k) (s.wget .LS_SLEW_FALL e k)
  ((s.sset (.loop .S_SP) sp e k).sset (.loop .S_TGT) t e k).setBit (.loop .S_HAS) 0 e k

/-- Entry `i` of the working gain table (R134). -/
def State.gainEntry (s : State) (e k i : Nat) : Int :=
  let j := 32 * work k + i / 2
  if i % 2 = 0 then s.get (.loop .LS_GT_G_LO) e j else s.get (.loop .LS_GT_G_HI) e j

/-- The gain for an error (R134), in Q2.14. -/
def State.gainOf (s : State) (e k : Nat) (err : Int) : Int :=
  if !s.wflag .LS_GAINCFG_GT_EN e k then 0x4000
  else
    let x := min err.natAbs 32767 * 2 ^ min 8 (s.wget .LS_GAINCFG_SCALE e k)
    let i := x / 512
    let f : Int := x % 512
    if i ≥ 63 then s.gainEntry e k 63
    else s.gainEntry e k i + ((s.gainEntry e k (i + 1) - s.gainEntry e k i) * f + 256) / 512

/-- Set-point and feedback as the law sees them (R172). -/
def State.seenSp (s : State) (e k : Nat) : Int := satS 16 (s.sget (.loop .S_SP) e k + s.injAt e k 0)
/-- Feedback as the law sees it (R172). -/
def State.seenFb (s : State) (e k : Nat) : Int := satS 16 (s.port e (s.wget .LS_CFG_FB_PORT e k) + s.injAt e k 1)

/-- GAIN: the gain from the present error (R134). -/
def gainOp (e k : Nat) (s : State) : State :=
  let err := satS 16 (s.seenSp e k - s.seenFb e k)
  (s.sset (.loop .LS_GAIN) (s.gainOf e k err) e k).sset (.loop .LS_E) err e k

/-- The state terms of a state-feedback step, from data memory at SFPTR (R136, R619). -/
def State.stateTerms (s : State) (e k : Nat) : Int :=
  let a := s.wget .LS_SFPTR_ADDR e k
  (List.range (s.wget .LS_SFPTR_NSM1 e k + 1)).foldl (fun acc j =>
    acc + satS 16 (mulQ23 (toSigned 32 (s.readN (dataAddr e (a + 8 * j)) 4))
      (s.port e (s.readN (dataAddr e (a + 8 * j + 4)) 1 % 32)))) 0

/-- The hold that the inner slot of a CASCADE group asks for: (positive, negative) (R139). -/
def State.holdOf (s : State) (e g : Nat) : Bool × Bool :=
  let i := s.get (.loop .GRP_INNER) e g
  let hi := s.flag (.loop .LS_STAT_SAT_HI) e i
  let lo := s.flag (.loop .LS_STAT_SAT_LO) e i
  if s.flag (.loop .GRP_NEGATE) e g then (lo, hi) else (hi, lo)

/-- Which integral increments a slot leaves out, by every CASCADE group that it feeds: itself, or as the winner of its LOWEST group (R139). -/
def State.holds (s : State) (e k : Nat) : Bool × Bool :=
  let gs := s.outerSelf e k ++ (if s.flag (.loop .LS_STAT_WINNER) e k then s.outerLow e k else [])
  (gs.any (fun g => (s.holdOf e g).1), gs.any (fun g => (s.holdOf e g).2))

/-- The preset integrator of a first sample, with what NOPRESET becomes: u_unsat, with the step's d_f, comes to the value of PRE_PORT
(R135, R145). -/
def State.preset (s : State) (e k : Nat) (p df : Int) : Int × Bool :=
  let pp := s.wget .LS_CFG_PRE_PORT e k
  if s.wflag .LS_CFG_PRE_EN e k && s.fresh? e pp then (satS 32 ((s.port e pp - p - df) * 32768), false)
  else (satS 32 (-p * 32768), s.wflag .LS_CFG_PRE_EN e k)

/-- LAW: one control-law step of a slot, staged (R109, R135, R136, R139, R145, R154, R172, R619). In a first sample of state feedback p is
kp_eff x SP less the state terms. DESIGN CHOICE, log entry 76. -/
def lawOp (e k : Nat) (s : State) : State :=
  let law := s.wget .LS_CFG_LAW e k
  if law = 0 then s
  else
    let sp := s.seenSp e k
    let err := satS 16 (sp - s.seenFb e k)
    let g := s.gainOf e k err
    let kp := s.wsget .LS_KP e k
    let p := if law = 3 then satS 16 (roundDiv (kp * g * sp) (2 ^ 37)) - s.stateTerms e k
      else satS 16 (roundDiv (kp * g * err) (2 ^ 37))
    let df := s.sget (.loop .S_DF) e k
    let ep := s.sget (.loop .S_EP) e k
    let df := if law = 2 then
        let d := satS 16 (mulQ23 (s.wsget .LS_KD e k) (err - ep))
        satS 16 (df + roundDiv ((d - df) * (s.wget .LS_GAINCFG_DFILT e k + 1 : Nat)) 65536)
      else 0
    let first := s.isFirst e k
    let pre := s.preset e k p df
    let integ := if first then pre.1 else s.sget (.loop .S_INTEG) e k
    let t := s.when (first && pre.2) (·.on (.loop .LS_STAT_NOPRESET) e k)
    let pd := p + df + s.injAt e k 2
    let uu := satS 16 (satS 16 (p + df + roundDiv integ 32768) + s.injAt e k 2)
    let holding := s.flag (.loop .LS_PM_STAT_HOLDING) e k
    let omax := if holding then s.sget (.loop .PM_HU) e k else s.wsget .LS_LIMIT_OMAX e k
    let omin := if holding then s.sget (.loop .PM_HU) e k else s.wsget .LS_LIMIT_OMIN e k
    let u := clampI omin omax uu
    let ki := s.wsget .LS_KI e k
    let di := if s.wflag .LS_GAINCFG_APPLY_KI e k then roundDiv (ki * g * err) (2 ^ 22) else roundDiv (ki * err) 256
    let hold := s.holds e k
    let di := if (hold.1 && decide (di > 0)) || (hold.2 && decide (di < 0)) then 0 else di
    let pre2 := integ + di
    let ni := satS 32 (pre2 + roundDiv (s.wsget .LS_KT e k * (u - uu)) 256)
    let sat := (if uu > omax then 1 else 0) + (if uu < omin then 2 else 0)
    ((t.sset (.loop .S_INTEG) ni e k).sset (.loop .S_DF) df e k |>.sset (.loop .S_EP) err e k |>.sset (.loop .S_U) u e k
      |>.sset (.loop .S_IPRE) pre2 e k |>.sset (.loop .S_UU) uu e k |>.sset (.loop .S_PD) (satS 20 pd) e k |>.set (.loop .S_SAT)
      sat e k |>.sset (.loop .LS_E) err e k |>.sset (.loop .LS_GAIN) g e k).setBit (.loop .S_HAS) 1 e k

/-- CTRL (R107). DESIGN CHOICE, log entry 26. -/
def execCtrl (e : EngIx) (f : Ecc) (o : CtrlOp) (s : State) : Host.Outcome State Fault Refusal :=
  done (instr e.val 0 f (ctrlOp e.val o) s)
/-- MOVE (R107). -/
def execMove (e : EngIx) (f : Ecc) (o : MoveOp) (s : State) : Host.Outcome State Fault Refusal :=
  done (instr e.val 1 f (moveOp e.val o) s)
/-- ARITH (R107). DESIGN CHOICE, log entry 26. -/
def execArith (e : EngIx) (f : Ecc) (o : ArithOp) (d a b : RegIx) (s : State) : Host.Outcome State Fault Refusal :=
  done (instr e.val 2 f (arithOp e.val o d a b) s)
/-- MAC (R107). DESIGN CHOICE, log entry 26. -/
def execMac (e : EngIx) (f : Ecc) (q : MacFmt) (acc : Bool) (d : Fin 2) (a b : RegIx) (s : State) :
    Host.Outcome State Fault Refusal := done (instr e.val 3 f (macOp e.val q acc d a b) s)
/-- TRIG (R107): the rules state no rounding of these functions, so the result is free. DESIGN CHOICE, log entry 26. -/
def execTrig (e : EngIx) (f : Ecc) (_ : TrigOp) (d _ _ : RegIx) (s : State) : Host.Outcome State Fault Refusal :=
  done (instr e.val 4 f (fun t => t.setFree (.loop .LE_G) e.val d.val) s)
/-- XFORM (R107): the rules state neither scaling nor rounding of the transforms, so both results are free. DESIGN CHOICE, log entry 26. -/
def execXform (e : EngIx) (f : Ecc) (_ : XformOp) (d0 d1 _ _ _ : RegIx) (s : State) : Host.Outcome State Fault Refusal :=
  done (instr e.val 5 f (fun t => (t.setFree (.loop .LE_G) e.val d0.val).setFree (.loop .LE_G) e.val d1.val) s)
/-- CHART_LOOKUP (R63): a lookup, or the read of a result field or the status. DEDUCED, log entry 19. -/
def execChartLookup (e : EngIx) (f : Ecc) (o : ChartOp) (s : State) : Host.Outcome State Fault Refusal :=
  done (instr e.val 7 f (fun t => match o with
    | .lookup m a b c d =>
      let q (r : RegIx) : Int := toSigned 16 (t.g e.val r % 65536)
      chartLookup e.val m.val (q a, q b, q c, q d) t
    | .read d k => setG e.val d (if k.val = 7 then t.get (.loop .CH_RS) e.val else t.get (.loop .CH_R) e.val k.val) t) s)
/-- SLEW (R132). -/
def execSlew (e : EngIx) (f : Ecc) (k : SlotIx) (s : State) : Host.Outcome State Fault Refusal :=
  done (instr e.val 8 f (fun t => slewOp e.val k.val (beginSlot e.val k.val t)) s)
/-- GAIN (R134). DEDUCED, log entry 27. -/
def execGain (e : EngIx) (f : Ecc) (k : SlotIx) (s : State) : Host.Outcome State Fault Refusal :=
  done (instr e.val 9 f (fun t => gainOp e.val k.val (beginSlot e.val k.val t)) s)
/-- LAW (R105, R135): `d` is the outcome of reading the state terms of a state-feedback step. DEDUCED, log entry 27. -/
def execLaw (e : EngIx) (f : Ecc) (k : SlotIx) (d : Ecc) (s : State) : Host.Outcome State Fault Refusal :=
  done (instr e.val 0xA f (fun t =>
    let u := beginSlot e.val k.val t
    if u.wget .LS_CFG_LAW e.val k.val = 3 then dataRead e.val d (lawOp e.val k.val) u else lawOp e.val k.val u) s)
/-- MODEL (R147): the model step of the sample's slot. DEDUCED, log entry 27. -/
def execModel (e : EngIx) (f : Ecc) (s : State) : Host.Outcome State Fault Refusal :=
  done (instr e.val 0xB f (fun t => modelStep e.val (t.get (.loop .LE_SLOT) e.val) t) s)
/-- TRACE (R160): a capture; the injected signal of the sample is already in force (R168, R172). -/
def execTrace (e : EngIx) (f : Ecc) (o : TraceOp) (s : State) : Host.Outcome State Fault Refusal :=
  done (instr e.val 0xC f (fun t => match o with
    | .capture => trcCapture e.val (t.get (.loop .LE_SLOT) e.val) false t
    | .inject => t) s)
/-- ESC (R130): the escalation source asserts, or PFLAG of the sample's slot sets. -/
def execEsc (e : EngIx) (f : Ecc) (o : EscOp) (s : State) : Host.Outcome State Fault Refusal :=
  done (instr e.val 0xD f (fun t => match o with
    | .assert => escalate e.val t
    | .flag => t.on (.loop .LS_STAT_PFLAG) e.val (t.get (.loop .LE_SLOT) e.val)) s)
/-- ILLEGAL_INSTRUCTION (R108): GROUP 0xE or 0xF, or an OP that its group does not implement: ILLEGAL is set and the engine is in FAULT.
Which OPs a group implements is Ligraga's to say. -/
def execIllegalInstruction (e : EngIx) (f : Ecc) (s : State) : Host.Outcome State Fault Refusal :=
  done (fetch e.val f (engineFault e.val .LE_STAT_ILLEGAL) s)

end Sys2Proof.Machine
end

