-- ==== Sys2Proof/Machine/Edge.lean ====
section
/-!
DEFINITION. The edge island's operations (chapter 05): legs under dead time, minimum pulse and trim, the interlock, bootstrap
refresh, domains with their shadows and load-alls, tide playback, six-step and commutation mask, group enable.
-/
namespace Sys2Proof.Machine
open Sys2Proof

/-- A length in fine ticks as a leg takes it: an actuator leg ignores the fine-tick bits (R178). -/
def legTicks (n v : Nat) : Nat := if n < 32 then v else v / 8 * 8

/-- The dead time in use: at most 25,600 fine ticks (R178, R192). -/
def State.deadTime (s : State) (n : Nat) : Nat := legTicks n (min 25600 (s.get (.edge .LEG_A_DT) n))

/-- The trim in use: −128 to 128 fine ticks; actuator legs have none (R178, R192). -/
def State.trim (s : State) (n : Nat) : Int := if n < 32 then clampI (-128) 128 (s.sget (.edge .LEG_A_TRIM) n) else 0

/-- The active period of a domain, at least 80 fine ticks (R180). -/
def State.period (s : State) (d : Nat) : Nat := max 80 (s.get (.edge .DOM_A_PERIOD) d)

/-- Some legs take their edges from a player: TIDE while it plays, and SIXSTEP (R205, R209). -/
def State.byAngle (s : State) (n : Nat) : Bool :=
  let m := s.get (.edge .LEG_CFG_MODE) n
  m == 3 || (m == 2 && s.flag (.edge .TP_STAT_PLAYING) (s.get (.edge .LEG_CFG_PLAYER) n))

/-- The instant of the last event that changed what a leg's mode logic knows: values applied at a boundary, a player's rate, correction,
angle or page, a Hall change, the release of a force, an enable (R617). -/
def State.cause (s : State) (n : Nat) : Nat :=
  max (s.get (.edge .LEG_CAUSE) n) (if s.byAngle n then s.get (.edge .TP_CHG) (s.get (.edge .LEG_CFG_PLAYER) n)
    else s.get (.edge .DOM_APL) (s.get (.edge .LEG_CFG_DOMAIN) n))

/-- Where the edge with the untrimmed instant `u` is placed: with its trim in full where it was known 16 edge ticks before, else no earlier
than the edge tick after its cause; an actuator leg's at an edge-tick boundary (R178, R192 rule 4, R617). -/
def State.placeEdge (s : State) (n u : Nat) : Nat :=
  let e := ((u : Int) + s.trim n).toNat
  let c := s.cause n
  let e := if c ≠ 0 ∧ u < c + 128 then max e ((c / 8 + 1) * 8) else e
  if n < 32 then e else (e + 7) / 8 * 8

/-- A leg's on-request at the interlock is ignored and counted (R215 to R217). -/
def ilEvent (n : Nat) (s : State) : State := (s.on (.edge .LEG_STAT_INTERLOCK) n).incSat (.edge .LEG_STAT_IL_CNT) n

/-- A channel's request at the interlock, its honoured level, and the instant it last turned off. -/
def inFld : Chan → Fld | .hi => .edge .LEG_IN_HI | .lo => .edge .LEG_IN_LO
/-- The channel as the interlock honours it. -/
def ilFld : Chan → Fld | .hi => .edge .LEG_IL_HI | .lo => .edge .LEG_IL_LO
/-- The instant the channel last turned off. -/
def toffFld : Chan → Fld | .hi => .edge .LEG_TOFF_HI | .lo => .edge .LEG_TOFF_LO
/-- The other channel of a leg. -/
def otherChan : Chan → Chan | .hi => .lo | .lo => .hi

/-- The other channel blocks a turn-on: it is on, or turned off less than the dead time ago (R216). -/
def State.blocked (s : State) (n : Nat) (c : Chan) : Bool :=
  s.flag (ilFld (otherChan c)) n ||
    (s.get (toffFld (otherChan c)) n != 0 && decide (s.now < s.get (toffFld (otherChan c)) n + s.deadTime n))

/-- A request for a channel falls: the channel turns off at once. The other request, where it stands ignored, is honoured DT after this
withdrawal (R215). -/
def dropReq (n : Nat) (c : Chan) (s : State) : State :=
  let t := s.when (s.flag (inFld c) n && !s.flag (ilFld c) n && s.flag (inFld (otherChan c)) n) (·.set (toffFld c) s.now n)
  driveLeg n ((t.off (inFld c) n).off (ilFld c) n)

/-- A request for a channel rises: honoured, or ignored and counted as an interlock event (R216). -/
def raiseReq (n : Nat) (c : Chan) (s : State) : State :=
  if s.flag (inFld c) n then s
  else if s.blocked n c then ilEvent n (s.on (inFld c) n)
  else driveLeg n ((s.on (inFld c) n).on (ilFld c) n)

/-- The request levels that reach the interlock in one edge tick (R215, R216). -/
def requestLeg (n : Nat) (hi lo : Bool) (s : State) : State :=
  if hi && lo && !s.flag (.edge .LEG_IN_HI) n && !s.flag (.edge .LEG_IN_LO) n then
    ilEvent n ((s.on (.edge .LEG_IN_HI) n).on (.edge .LEG_IN_LO) n)
  else
    let t := s.when (!hi) (dropReq n .hi)
    let t := t.when (!lo) (dropReq n .lo)
    let t := t.when hi (raiseReq n .hi)
    t.when lo (raiseReq n .lo)

/-- ⌈a / b⌋ rounded up, for a positive divisor. -/
def ceilDiv (a b : Int) : Int := -((-a) / b)

/-- Edge ticks until a player's accumulator has moved by `d`, from its RATE and pending correction; 0 stands for never (R201, R206). -/
def State.ticksToMove (s : State) (p : Nat) (d : Int) : Nat :=
  let rate : Int := s.sget (.edge .TP_A_RATE) p
  let pend := s.sget (.edge .TP_PEND) p
  let c : Int := s.get (.edge .TP_CFG_CSTEP) p
  let k : Nat := if c = 0 then 0 else pend.natAbs / c.toNat
  let st := rate + (if pend < 0 then -c else c) * 65536
  if d ≤ 0 then 1
  else if 0 < st ∧ 0 < k ∧ d ≤ s.move p k then (ceilDiv d st).toNat
  else if d ≤ s.move p (k + 1) then k + 1
  else if rate ≤ 0 then 0
  else max (k + 1) (ceilDiv (d - pend * 65536) rate).toNat

/-- The first fine tick at which the accumulator, interpolated within an edge tick, has moved by `d` from where it stands; none where it
never does (R203). -/
def State.crossAt (s : State) (p : Nat) (d : Int) : Option Nat :=
  let at_ := s.get (.edge .TP_AT) p
  if d ≤ 0 then some (8 * at_)
  else if !s.flag (.edge .TP_CFG_EN) p then none
  else
    let n := s.ticksToMove p d
    if n = 0 then none
    else
      let m := s.move p (n - 1)
      some (8 * (at_ + n - 1) + (ceilDiv (8 * (d - m)) (s.move p n - m)).toNat)

/-- A player's integer angle at a fine tick, interpolated within its edge tick, from where the angle stands (R201, R203). -/
def State.angleAt (s : State) (p t : Nat) : Nat :=
  let n := t / 8 - s.get (.edge .TP_AT) p
  let m := s.move p n
  let v : Int := (s.get (.edge .TP_THETA) p : Int) + (if s.flag (.edge .TP_CFG_EN) p ∧ 8 * s.get (.edge .TP_AT) p ≤ t then m + (s.move p (n + 1) - m) * ((t % 8 : Nat) : Int) / 8 else 0)
  (v % (2 ^ 40 : Nat)).toNat / 65536

/-- Accumulator distance from θ forward to an angle, in (0, 2^40]. -/
def State.gapTo (s : State) (p a : Nat) : Nat :=
  let g := (a * 65536 + 2 ^ 40 - s.get (.edge .TP_THETA) p) % 2 ^ 40
  if g = 0 then 2 ^ 40 else g

/-- The entries of a page up to its LAST entry. -/
def State.pageEntries (s : State) (p page e : Nat) : Nat → List Nat
  | 0 => []
  | n + 1 =>
    let w := s.tideEntry p page e
    if entLast w then [w] else w :: s.pageEntries p page (e + 1) n

/-- The pattern in a store's active page. -/
def State.pattern (s : State) (p : Nat) : List Nat := s.pageEntries p (s.activePage p) 0 4096

/-- The leg's next entry at or after the player's next entry, counted cyclically. -/
def State.nextEntryOf (s : State) (p n : Nat) : Option Nat :=
  let l := s.pattern p
  (l.drop (s.get (.edge .TP_NEXT) p) ++ l.take (s.get (.edge .TP_NEXT) p)).find? (fun e => entLeg e == n)

/-- Accumulator distance from θ to an entry of the page, counted from the player's next entry on. -/
def State.entryGap (s : State) (p e : Nat) : Int :=
  let l := s.pattern p
  s.sget (.edge .TP_GAP) p + (((entAngle e + 2 ^ 24 - entAngle (l.getD (s.get (.edge .TP_NEXT) p) 0)) % 2 ^ 24 * 65536 : Nat) : Int)

/-- The high channel's on-interval in carrier PWM: its start after the reload boundary and its length (R178, R191). -/
def State.carrierOn (s : State) (n : Nat) : Nat × Nat :=
  let per := s.period (s.get (.edge .LEG_CFG_DOMAIN) n)
  let d := min per (s.get (.edge .LEG_A_DUTY) n)
  let d := if d = per then d else legTicks n d
  let phi := s.get (.edge .LEG_A_PHASE) n * per / 65536
  (legTicks n (if s.flag (.edge .LEG_CFG_ALIGN) n then phi + (per - d) / 2 else phi), d)

/-- What carrier PWM requests at a time after the reload boundary (R191). -/
def State.carrierState (s : State) (n time : Nat) : LegState :=
  let per := s.period (s.get (.edge .LEG_CFG_DOMAIN) n)
  let on := s.carrierOn n
  if on.2 = 0 then .lo else if on.2 = per then .hi
  else if (time + per - on.1 % per) % per < on.2 then .hi else .lo

/-- The time after the reload boundary of a leg's domain, modulo its period, at an instant. -/
def State.phaseAt (s : State) (n u : Nat) : Nat :=
  let d := s.get (.edge .LEG_CFG_DOMAIN) n
  (((u : Int) - s.get (.edge .DOM_BASE) d) % (s.period d : Nat)).toNat

/-- What carrier PWM requests at an instant (R191). -/
def State.carrierAt (s : State) (n u : Nat) : LegState := s.carrierState n (s.phaseAt n u)

/-- How long carrier PWM goes on requesting what it requests at an instant; none where that never ends (R191). -/
def State.carrierRest (s : State) (n u : Nat) : Option Nat :=
  let per := s.period (s.get (.edge .LEG_CFG_DOMAIN) n)
  let on := s.carrierOn n
  let x := (s.phaseAt n u + per - on.1 % per) % per
  if on.2 = 0 ∨ on.2 = per then none
  else some (if x < on.2 then on.2 - x else per - x)

/-- The index that a leg's source gives: the Hall state of bridge CSRC, or its player's marks; reserved sources act as 0 (R211). -/
def State.cmtSource (s : State) (n : Nat) : Nat :=
  let c := s.get (.edge .LEG_CFG_CSRC) n
  if c ≤ 2 then s.get (.edge .HALL) c else if c = 3 then s.get (.edge .TP_MARKS) (s.get (.edge .LEG_CFG_PLAYER) n) else 0

/-- The 2-bit entry of a leg's commutation mask that its index selects; reserved sources act as entry 0 (R210, R211). -/
def State.maskEntry (s : State) (n : Nat) : Nat :=
  let i := if s.get (.edge .LEG_CFG_CSRC) n ≤ 3 then s.get (.edge .LEG_STAT_CMT_IDX) n else 0
  bits (s.get (.edge .LEG_CMT) n) (2 * i) 2

/-- The untrimmed instant up to which a leg's mode logic looks: ahead by a negative trim (R617). -/
def State.lookAt (s : State) (n : Nat) : Nat := s.now + (-(min 0 (s.trim n))).toNat

/-- The state that a tide leg has at an instant: that of its next entry once the angle has reached it, else that of the last one fired
(R205, R617). -/
def State.tideAt (s : State) (n u : Nat) : Nat :=
  let p := s.get (.edge .LEG_CFG_PLAYER) n
  let old := s.get (.edge .LEG_TIDE) n
  if u ≤ s.now then old
  else match s.nextEntryOf p n with
  | none => old
  | some e => match s.crossAt p (s.entryGap p e) with
    | none => old
    | some t => if t ≤ u then entState e else old

/-- A tide STATE as a leg state (R75). -/
def tideState (st : Nat) : LegState := match st with | 1 => .hi | 2 => .lo | _ => .off

/-- What a leg's mode requests at an untrimmed instant (R186, R191, R205, R209, R210); an actuator leg's as at the start of the edge tick
(R178). -/
def State.modeAt (s : State) (n u' : Nat) : LegState :=
  let p := s.get (.edge .LEG_CFG_PLAYER) n
  let u := legTicks n u'
  match s.get (.edge .LEG_CFG_MODE) n with
  | 1 => s.carrierAt n u
  | 2 => if s.flag (.edge .TP_STAT_PLAYING) p then tideState (s.tideAt n u) else s.carrierAt n u
  | 3 => if (s.angleAt p u + 2 ^ 24 - s.get (.edge .LEG_SIX) n) % 2 ^ 24 < 2 ^ 23 then .hi else .lo
  | 4 => match s.maskEntry n with
    | 1 => s.carrierAt n u
    | 2 => .lo
    | 3 => .hi
    | _ => .off
  | _ => .off

/-- The remaining on-interval of a channel in fine ticks, from the turn-off instant that the mode logic holds when the delayed turn-on
falls due now; `none` where no turn-off is in sight (R192 rule 3). -/
def State.onLength (s : State) (n : Nat) (c : Chan) : Option Nat :=
  let p := s.get (.edge .LEG_CFG_PLAYER) n
  let u := ((s.now : Int) - s.trim n).toNat
  let until_ (d : Int) : Option Nat := (s.crossAt p d).map (fun t => t - u)
  match s.get (.edge .LEG_CFG_MODE) n with
  | 2 => if s.flag (.edge .TP_STAT_PLAYING) p then (s.nextEntryOf p n).bind (fun e => until_ (s.entryGap p e)) else s.carrierRest n u
  | 3 => until_ (s.gapTo p (match c with | .hi => (s.get (.edge .LEG_SIX) n + 2 ^ 23) % 2 ^ 24 | .lo => s.get (.edge .LEG_SIX) n))
  | 4 => if s.maskEntry n = 1 then s.carrierRest n u else none
  | _ => s.carrierRest n u

/-- The delayed turn-on is suppressed as shorter than MINP edge ticks (R192 rule 3). -/
def State.tooShort (s : State) (n : Nat) (c : Chan) : Bool :=
  match s.onLength n c with
  | none => false
  | some l => decide (l < 8 * s.get (.edge .LEG_A_MINP) n)

/-- The slot of a leg's next edge: that of its next entry while tide plays, else CFG.SLOT (R214). -/
def State.nextSlot (s : State) (n : Nat) : Nat :=
  let p := s.get (.edge .LEG_CFG_PLAYER) n
  if s.get (.edge .LEG_CFG_MODE) n = 2 ∧ s.flag (.edge .TP_STAT_PLAYING) p then
    match s.nextEntryOf p n with
    | some e => entSlot e
    | none => s.get (.edge .LEG_CFG_SLOT) n
  else s.get (.edge .LEG_CFG_SLOT) n

/-- Send SLOT_SELECT on a link; the frame is under way from now (R214, R278). -/
def slotFrame (n slot : Nat) (s : State) : State :=
  (((s.set (.edge .LEG_STAT_SLOT_SENT) slot n).on (.edge .LEG_SLOT_PEND) n).set (.edge .LEG_SLOT_AT) s.now n).send .lane n 5 slot

/-- Send a slot frame where the slot of a leg's next edge differs from the last one sent; only a link that is UP in STEPPED
takes slot frames (R214, R277). -/
def sendSlot (n slot : Nat) (s : State) : State :=
  if n < 32 ∧ s.get (.edge .FL_STAT_LSTATE) n = 5 ∧ s.get (.edge .FL_STAT_MODE) n = 0 ∧
      s.get (.edge .LEG_STAT_SLOT_SENT) n ≠ slot then
    slotFrame n slot s
  else s

/-- The slot of the next edge is sent once no edge of the present command is still to come (R214). -/
def slotNext (n : Nat) (s : State) : State :=
  if s.get (.edge .LEG_DUE) n = 0 ∧ s.get (.edge .LEG_QN) n = 0 then sendSlot n (s.nextSlot n) s else s

/-- A lane character of a link at its settled rate, in fine ticks: 0.2 us at 50 Mbit/s (R279). -/
def State.charTicks (s : State) (n : Nat) : Nat := match s.get (.edge .FL_STAT_RATE) n with | 0 => 5120 | 1 => 2560 | _ => 1280

/-- The edge that carries a new slot: SLOT_LATE where it begins less than 100 ns after the end of the slot frame, which takes 9 characters
once the lane is free and ends within T_SF, 55 characters (R214, R278, R279). Where the frame ends in between is not stated: a free bit says
whether it ended in time. DESIGN CHOICE, log entry 82. -/
def judgeSlot (n : Nat) (s : State) : State :=
  if s.flag (.edge .LEG_SLOT_PEND) n then
    let t := s.off (.edge .LEG_SLOT_PEND) n
    let gone := s.now - s.get (.edge .LEG_SLOT_AT) n
    if 55 * s.charTicks n + 640 ≤ gone then t
    else if gone < 9 * s.charTicks n + 640 then t.on (.edge .LEG_STAT_SLOT_LATE) n
    else (t.free 1).2.when ((t.free 1).1 == 1) (·.on (.edge .LEG_STAT_SLOT_LATE) n)
  else s

/-- The delayed turn-on of a channel falls due: judged against MINP once, then requested at the interlock (R192 rule 3). -/
def turnOn (n : Nat) (c : Chan) (s : State) : State :=
  let t := s.off (.edge .LEG_DUE) n
  if s.tooShort n c then slotNext n t else slotNext n ((raiseReq n c (judgeSlot n t)).set (.edge .LEG_EDGE_AT) s.now n)

/-- The output stage holds the leg, so that its mode does not drive it (R186, R221). -/
def State.modeDrives (s : State) (n : Nat) : Bool :=
  match s.groupOf n with
  | none => false
  | some g => !s.held g n && !s.flag (.edge .LEG_STAT_FORCED) n

/-- A leg state as it is filed. -/
def legCode : LegState → Nat | .off => 0 | .hi => 1 | .lo => 2

/-- An edge comes at its place: what goes off goes off at once, what goes on waits for the dead time after the other channel's turn-off
(R192 rules 1 and 2). -/
def applyCommand (n st : Nat) (s : State) : State :=
  let off := (st != 1 && s.flag (.edge .LEG_IN_HI) n) || (st != 2 && s.flag (.edge .LEG_IN_LO) n)
  let t := s.when off (judgeSlot n)
  let t := t.when (st != 1) (dropReq n .hi)
  let t := t.when (st != 2) (dropReq n .lo)
  let t := (t.off (.edge .LEG_DUE) n).set (.edge .LEG_EDGE_AT) s.now n
  let due (c : Chan) (k : Nat) : State :=
    if t.flag (inFld c) n then slotNext n t
    else if t.blocked n c then (t.set (.edge .LEG_DUE) k n).set (.edge .LEG_DUE_AT) (t.get (toffFld (otherChan c)) n + t.deadTime n) n
    else turnOn n c (t.set (.edge .LEG_DUE_AT) s.now n)
  match st with
  | 1 => due .hi 1
  | 2 => due .lo 2
  | _ => slotNext n t

/-- The mode logic commands a leg's state as from the untrimmed instant `x`: its edge is placed, and comes now or waits for its place
(R192, R617). During a refresh the command waits for its end (R218). -/
def commandLeg (n : Nat) (st : LegState) (x : Nat) (s : State) : State :=
  if !s.modeDrives n ∨ legCode st = s.get (.edge .LEG_CMD) n then s
  else
    let t := s.set (.edge .LEG_CMD) (legCode st) n
    if s.get (.edge .LEG_REF) n ≠ 0 then t
    else
      let e := s.placeEdge n x
      let q := s.get (.edge .LEG_QN) n
      if e ≤ s.now ∧ q = 0 then applyCommand n (legCode st) t
      else ((t.set (.edge .LEG_Q_AT) e n q).set (.edge .LEG_Q_ST) (legCode st) n q).set (.edge .LEG_QN) (q + 1) n

/-- The mode logic commands what a leg's mode requests now, as far as its trim lets it look ahead (R192, R617). -/
def syncLeg (n : Nat) (s : State) : State := commandLeg n (s.modeAt n (s.lookAt n)) (s.lookAt n) s

/-- The edges of a leg whose place has come are issued, in their order. -/
def issueEdges (n : Nat) (s : State) : Nat → State
  | 0 => s
  | f + 1 =>
    let q := s.get (.edge .LEG_QN) n
    if q = 0 ∨ s.now < s.get (.edge .LEG_Q_AT) n 0 then s
    else
      let t := (s.forUpTo (q - 1) (fun j t => (t.set (.edge .LEG_Q_AT) (s.get (.edge .LEG_Q_AT) n (j + 1)) n j).set (.edge .LEG_Q_ST)
        (s.get (.edge .LEG_Q_ST) n (j + 1)) n j)).set (.edge .LEG_QN) (q - 1) n
      issueEdges n (applyCommand n (s.get (.edge .LEG_Q_ST) n 0) t) f

/-- The players that a leg's edges depend on have their angle at the present edge tick. -/
def catchLeg (n : Nat) (s : State) : State := if s.byAngle n then catchUp (s.get (.edge .LEG_CFG_PLAYER) n) s else s

/-- CHANNEL_EDGE: the place of an edge has come, or the mode logic finds a commanded instant of a leg due; or request levels reach its
interlock (R186, R191, R192, R214 to R216). -/
def channelEdge (n : Nat) (r : EdgeReq) (s : State) : State :=
  match r with
  | .command => syncLeg n (let t := catchLeg n s; issueEdges n t (t.get (.edge .LEG_QN) n))
  | .request hi lo => requestLeg n hi lo s

/-- A standing request that the interlock ignored is honoured once the other channel has been off for DT (R215, R216). -/
def honour (n : Nat) (s : State) : State :=
  if s.flag (.edge .LEG_IN_HI) n ∧ !s.flag (.edge .LEG_IN_LO) n ∧ !s.blocked n .hi then driveLeg n (s.on (.edge .LEG_IL_HI) n)
  else if s.flag (.edge .LEG_IN_LO) n ∧ !s.flag (.edge .LEG_IN_HI) n ∧ !s.blocked n .lo then driveLeg n (s.on (.edge .LEG_IL_LO) n)
  else s

/-- The dead time after a channel's last turn-off has passed. -/
def State.deadOver (s : State) (n : Nat) (c : Chan) : Bool := decide (s.get (toffFld c) n + s.deadTime n ≤ s.now)

/-- DEAD_TIME_EXPIRY: the dead time of a leg has passed: the refresh sequence goes on, the delayed turn-on falls due, or a
standing request is honoured (R192, R216, R218). A refresh ends with what the mode logic commands by then. -/
def deadTimeExpiry (n : Nat) (s : State) : State :=
  match s.get (.edge .LEG_REF) n with
  | 1 => if s.deadOver n .hi then driveLeg n (((s.set (.edge .LEG_REF) 2 n).on (.edge .LEG_IN_LO) n).on (.edge .LEG_IL_LO) n) else s
  | 3 => if s.deadOver n .lo then syncLeg n (catchLeg n ((s.off (.edge .LEG_REF) n).off (.edge .LEG_CMD) n)) else s
  | _ => match s.get (.edge .LEG_DUE) n with
    | 1 => if s.get (.edge .LEG_DUE_AT) n ≤ s.now then turnOn n .hi (catchLeg n s) else s
    | 2 => if s.get (.edge .LEG_DUE_AT) n ≤ s.now then turnOn n .lo (catchLeg n s) else s
    | _ => honour n s

/-- The refresh pulse of a leg in fine ticks: 4 to 16 units of 250 ns (EDGE_LEG[n]_REFRESH). -/
def State.refreshPulse (s : State) (n : Nat) : Nat := 1600 * clampN 4 16 (s.get (.edge .LEG_REFRESH_PULSE) n)

/-- The refresh interval of a leg in fine ticks: 1 to 100 ms (EDGE_LEG[n]_REFRESH). -/
def State.refreshInterval (s : State) (n : Nat) : Nat := us (1000 * clampN 1 100 (s.get (.edge .LEG_REFRESH_INTERVAL) n))

/-- REFRESH_PULSE_END: the low-side pulse of a refresh ends (R218). -/
def refreshPulseEnd (n : Nat) (s : State) : State :=
  if s.get (.edge .LEG_REF) n = 2 ∧ s.get (.edge .LEG_LO_SINCE) n + s.refreshPulse n ≤ s.now then
    driveLeg n (((s.set (.edge .LEG_REF) 3 n).off (.edge .LEG_IN_LO) n).off (.edge .LEG_IL_LO) n)
  else s

/-- The high channel of a leg with BOOT_EN has been on without a break for INTERVAL, driven by the mode logic (R218). -/
def State.intervalOver (s : State) (n : Nat) : Bool :=
  s.flag (.edge .LEG_REFRESH_BOOT_EN) n && s.flag (.edge .LEG_STAT_HI) n && s.modeDrives n &&
    decide (s.get (.edge .LEG_HI_SINCE) n + s.refreshInterval n ≤ s.now)

/-- Start a refresh that is due at a reload boundary: high off, low on after DT (R218). -/
def refreshStart (n : Nat) (s : State) : State :=
  if (s.flag (.edge .LEG_REF_DUE) n ∨ s.intervalOver n) ∧ s.flag (.edge .LEG_STAT_HI) n ∧ s.modeDrives n then
    driveLeg n ((((s.off (.edge .LEG_REF_DUE) n).set (.edge .LEG_REF) 1 n).off (.edge .LEG_IN_HI) n).off (.edge .LEG_IL_HI) n)
  else s

/-- BOOT_INTERVAL_EXPIRY: the high channel has been on without a break for INTERVAL (R218). -/
def bootIntervalExpiry (n : Nat) (s : State) : State := if s.intervalOver n then s.on (.edge .LEG_REF_DUE) n else s

/-- A bootstrap under-voltage report arises; while the high channel is on it moves the next refresh forward (R219). -/
def bootUvReport (n : Nat) (s : State) : State :=
  let t := s.on (.edge .LEG_BUV) n
  t.when (s.flag (.edge .LEG_REFRESH_BOOT_EN) n && s.flag (.edge .LEG_STAT_HI) n && s.modeDrives n) (·.on (.edge .LEG_REF_DUE) n)

/-- A bootstrap under-voltage report ends (R220, R281). -/
def bootUvEnd (n : Nat) (s : State) : State := (s.off (.edge .LEG_BUV) n).off (.edge .LEG_BUV_STOOD) n

/-- BOOT_UV_TEST: 10 us after a low-side interval's end; a report that has stood throughout latches BOOT_UV, turns the high
channel off and forces the leg's group with CAUSE 0x60 (R220). -/
def bootUvTest (n : Nat) (s : State) : State :=
  let e := s.get (.edge .LEG_BUV_STOOD) n
  if s.flag (.edge .LEG_REFRESH_BOOT_EN) n ∧ s.flag (.edge .LEG_BUV) n ∧ e ≠ 0 ∧ e - 1 + us 10 ≤ s.now then
    let t := driveLeg n ((s.off (.edge .LEG_BUV_STOOD) n).on (.edge .LEG_STAT_BOOT_UV) n)
    match t.groupOf n with
    | some g => forceGroup g 0x60 t
    | none => t
  else s

/-- A leg force: both channels off on the level-1 path (R217, R222). -/
def legForce (n : Nat) (s : State) : State := driveLeg n (s.on (.edge .LEG_STAT_FORCED) n)

/-- IL_FAULT: the 17th interlock event of a period raises a leg fault, latched in the guard island and reported
(R217, R245, R246). -/
def ilFault (n : Nat) (s : State) : State :=
  if s.get (.edge .LEG_STAT_IL_CNT) n ≥ 17 then
    let t := legForce n (s.on (.edge .LEG_STAT_IL_FAULT) n)
    (if n < 32 then (t.setBit (.grd .LEGF_LATCH) n).setBit (.grd .LEGF_IL) n
      else t.setBit (.grd .ALEGF_LATCH) (n - 32)).send .level4 246 n
  else s

/-- The leg fault latch of a leg. -/
def State.legFault (s : State) (n : Nat) : Bool :=
  if n < 32 then s.bit (.grd .LEGF_LATCH) n else s.bit (.grd .ALEGF_LATCH) (n - 32)

/-- Some leg of an enabled group is bound to the domain (R185). -/
def State.domBusy (s : State) (d : Nat) : Bool :=
  (List.range 41).any (fun n => s.legEnabled n && s.get (.edge .LEG_CFG_DOMAIN) n == d)

/-- EN of a domain written 0: stopped, or refused as a whole (R185). -/
def domainStop (d : Nat) (s : State) : State :=
  if s.domBusy d then s.on (.edge .DOM_STAT_DIS_REFUSED) d
  else ((s.off (.edge .DOM_CTRL_EN) d).off (.edge .DOM_STAT_RUNNING) d).clrBit (.edge .STAT_RUNNING) d

/-- A load-all request for a domain is accepted (R196). -/
def loadAll (d : Nat) (s : State) : State :=
  if s.flag (.edge .DOM_STAT_LDALL_PENDING) d then s
  else (s.on (.edge .DOM_STAT_LDALL_PENDING) d).setB (.edge .DOM_STAT_DEFERRED) (s.flag (.edge .DOM_SAMPLED) d) d

/-- Load-all requests for the domains of a mask, accepted together (R196, R212). -/
def loadAllMask (m : Nat) (s : State) : State := s.forUpTo 8 (fun d t => if m.testBit d then loadAll d t else t)

/-- The legs bound to a domain. -/
def State.domLegs (s : State) (d : Nat) : List Nat := (List.range 41).filter (fun n => s.get (.edge .LEG_CFG_DOMAIN) n == d)

/-- The strict test: PERIOD and the DUTY of every CARRIER, TIDE and CMTMASK leg of the domain written since the last
apply (R198). -/
def State.strictOk (s : State) (d : Nat) : Bool :=
  s.flag (.edge .DOM_STAT_PER_W) d && (s.domLegs d).all (fun n =>
    !(s.get (.edge .LEG_CFG_MODE) n == 1 || s.get (.edge .LEG_CFG_MODE) n == 2 || s.get (.edge .LEG_CFG_MODE) n == 4) ||
      s.flag (.edge .LEG_DUTY_W) n)

/-- Capture a leg's shadows (R195, R196). -/
def captureLeg (n : Nat) (s : State) : State :=
  ((((s.set (.edge .LEG_C_DUTY) (s.get (.edge .LEG_DUTY) n) n).set (.edge .LEG_C_PHASE) (s.get (.edge .LEG_PHASE) n) n).set
    (.edge .LEG_C_DT) (s.get (.edge .LEG_DT_DT) n) n).set (.edge .LEG_C_MINP) (s.get (.edge .LEG_DT_MINP) n) n).set
    (.edge .LEG_C_TRIM) (s.get (.edge .LEG_TRIM) n) n |>.off (.edge .LEG_DUTY_WN) n

/-- Capture a domain's shadows for the coming boundary (R195, R196). -/
def captureDomain (d : Nat) (s : State) : State :=
  ((((s.on (.edge .DOM_CAP) d).off (.edge .DOM_PER_WN) d).set (.edge .DOM_C_PERIOD) (s.get (.edge .DOM_PERIOD) d) d).set
    (.edge .DOM_C_TRGA) (s.get (.edge .DOM_TRG_TRGA) d) d |>.set (.edge .DOM_C_TRGB) (s.get (.edge .DOM_TRG_TRGB) d) d).forEach
    (s.domLegs d) captureLeg

/-- Capture the player inputs of a domain (R206). -/
def capturePlayer (p : Nat) (s : State) : State :=
  let t := (s.set (.edge .TP_C_RATE) (s.get (.edge .TP_RATE) p) p).set (.edge .TP_C_SET) (s.get (.edge .TP_SET) p) p
  if s.flag (.edge .TP_CORR_NEW) p then
    ((t.set (.edge .TP_C_CORR) (s.get (.edge .TP_CORR) p) p).on (.edge .TP_C_CORR_NEW) p).off (.edge .TP_CORR_NEW) p
  else t

/-- The players of a domain. -/
def State.domPlayers (s : State) (d : Nat) : List Nat :=
  (List.range 4).filter (fun p => s.flag (.edge .TP_CFG_EN) p && s.get (.edge .TP_CFG_DOMAIN) p == d)

/-- What a sample instant does: the capture, and the strict test of a pending load-all; no player input is captured for a half boundary
(R181, R196, R198, R206). -/
def sample (d : Nat) (half : Bool) (s : State) : State :=
  let t := s.on (.edge .DOM_SAMPLED) d
  let t := t.when (!half) (fun t => t.forEach ((List.range 4).filter (fun p => s.get (.edge .TP_CFG_DOMAIN) p == d)) capturePlayer)
  if !s.flag (.edge .DOM_STAT_LDALL_PENDING) d then t
  else if s.flag (.edge .DOM_CTRL_STRICT) d ∧ !s.strictOk d then
    ((t.on (.edge .DOM_STAT_STRICT_REFUSED) d).off (.edge .DOM_STAT_LDALL_PENDING) d).off (.edge .DOM_STAT_DEFERRED) d
  else captureDomain d t

/-- The sample instant of a boundary: 4 edge ticks before the edge tick in which it falls (R196). -/
def sampleOf (b : Nat) : Nat := (b / 8 - 4) * 8

/-- The half boundary of the present period (R181). -/
def State.halfAt (s : State) (d : Nat) : Nat := s.get (.edge .DOM_RB) d + s.get (.edge .DOM_P0) d / 2

/-- A half boundary is still to come in the present period (R181). -/
def State.halfDue (s : State) (d : Nat) : Bool := s.flag (.edge .DOM_CTRL_DBL) d && !s.flag (.edge .DOM_HDONE) d && decide (s.now ≤ s.halfAt d)

/-- SAMPLE_INSTANT: the sample instant of the coming reload boundary, or of the coming half boundary, each once (R181, R196). -/
def sampleInstant (d : Nat) (half : Bool) (s : State) : State :=
  let at_ := sampleOf (if half then s.halfAt d else s.get (.edge .DOM_NEXT) d)
  if !s.domRuns d ∨ s.flag (.edge .DOM_SAMPLED) d ∨ half ≠ s.halfDue d ∨ s.now ≠ at_ then s else sample d half s

/-- Start a domain: its timebase counts from boundary 0, at the start of the fourth edge tick after the present one (R182). The sample
instant of boundary 0 is the start of the present edge tick, so that the capture is made with the start (R196). DEDUCED, log entry 81. -/
def startDomain (d : Nat) (s : State) : State :=
  let b := (s.now / 8 + 4) * 8
  sample d false (((((((s.on (.edge .DOM_CTRL_EN) d).on (.edge .DOM_STAT_RUNNING) d).setBit (.edge .STAT_RUNNING) d).off
    (.edge .DOM_STAT_BCNT) d).set (.edge .DOM_BASE) b d).set (.edge .DOM_NEXT) b d).on (.edge .DOM_HDONE) d |>.set (.edge .DOM_EVD) 7 d)

/-- EN of a domain written 1: a running domain ignores it (R182). -/
def domainStart (d : Nat) (s : State) : State := if s.flag (.edge .DOM_STAT_RUNNING) d then s else startDomain d s

/-- A write of EDGE_DOM[d]_CTRL: a refused stop is refused as a whole (R182, R185). -/
def domCtrlWrite (d v : Nat) (s : State) : State :=
  let cfg := fun t : State => (t.set (.edge .DOM_CTRL_DBL) (bits v 1 1) d).set (.edge .DOM_CTRL_STRICT) (bits v 2 1) d
  if v.testBit 0 then domainStart d (cfg s)
  else if !s.flag (.edge .DOM_CTRL_EN) d then cfg s
  else if s.domBusy d then domainStop d s else domainStop d (cfg s)

/-- Apply a leg's captured values; a duty above the applied period is applied as the period (R199). -/
def applyLeg (d n : Nat) (s : State) : State :=
  let per := s.period d
  let big := decide (s.get (.edge .LEG_C_DUTY) n > per)
  let t := (((s.set (.edge .LEG_A_DUTY) (min per (s.get (.edge .LEG_C_DUTY) n)) n).set (.edge .LEG_A_PHASE)
    (s.get (.edge .LEG_C_PHASE) n) n).set (.edge .LEG_A_DT) (s.get (.edge .LEG_C_DT) n) n).set (.edge .LEG_A_MINP)
    (s.get (.edge .LEG_C_MINP) n) n |>.set (.edge .LEG_A_TRIM) (s.get (.edge .LEG_C_TRIM) n) n
  let t := (t.set (.edge .LEG_DUTY_W) (s.get (.edge .LEG_DUTY_WN) n) n).off (.edge .LEG_DUTY_WN) n
  t.when big (fun t => (t.on (.edge .LEG_STAT_CLAMPED) n).on (.edge .DOM_STAT_CLAMP) d)

/-- ⌊a / b⌋ towards minus infinity. -/
def floorDiv (a b : Int) : Int := Int.fdiv a b

/-- The period of spread-spectrum step `j` (R370). -/
def ssPeriod (nom span nstep j : Nat) : Nat :=
  let t : Int := if j ≤ nstep then j else if j ≤ 3 * nstep then 2 * nstep - j else (j : Int) - 4 * nstep
  ((nom : Int) + floorDiv ((nom : Int) * span * t) (200 * nstep)).toNat

/-- The half-width in use: 4 to 20 steps of 0.5 % (EDGE_DOM[d]_SS). -/
def State.ssSpan (s : State) (d : Nat) : Nat := clampN 4 20 (s.get (.edge .DOM_SS_SPAN) d)

/-- The sequencer writes the PERIOD shadow; the write counts for strict mode, behind a standing capture for the next apply (R198, R370,
R371). -/
def ssWrite (d v : Nat) (s : State) : State :=
  ((s.set (.edge .DOM_PERIOD) v d).on (.edge .DOM_STAT_PER_W) d).when (s.flag (.edge .DOM_CAP) d) (·.on (.edge .DOM_PER_WN) d)

/-- SPREAD_SPECTRUM_STEP: one step per applied load-all (R370). -/
def ssStep (d : Nat) (s : State) : State :=
  if s.flag (.edge .DOM_SS_EN) d then
    let n := s.get (.edge .DOM_SS_NSM1) d + 1
    let j := (s.get (.edge .DOM_SS_STEP) d + 1) % (4 * n)
    ssWrite d (ssPeriod (s.get (.edge .DOM_SSNOM) d) (s.ssSpan d) n j) (s.set (.edge .DOM_SS_STEP) j d)
  else s

/-- SS_ENABLE: EN of the spread-spectrum control written 1 or 0 (R370, R372). -/
def ssEnable (d : Nat) (en : Bool) (s : State) : State :=
  if en then ssWrite d (s.get (.edge .DOM_SSNOM) d) ((s.on (.edge .DOM_SS_EN) d).off (.edge .DOM_SS_STEP) d)
  else s.off (.edge .DOM_SS_EN) d

/-- Apply a domain's captured shadows, all together (R195, R197). -/
def applyDomain (d : Nat) (s : State) : State :=
  if !s.flag (.edge .DOM_CAP) d then s
  else
    let t := ((s.set (.edge .DOM_A_PERIOD) (s.get (.edge .DOM_C_PERIOD) d) d).set (.edge .DOM_A_TRGA)
      (s.get (.edge .DOM_C_TRGA) d) d).set (.edge .DOM_A_TRGB) (s.get (.edge .DOM_C_TRGB) d) d
    let t := (((((t.off (.edge .DOM_CAP) d).off (.edge .DOM_STAT_LDALL_PENDING) d).off (.edge .DOM_STAT_DEFERRED) d).set (.edge .DOM_STAT_PER_W)
      (s.get (.edge .DOM_PER_WN) d) d).off (.edge .DOM_PER_WN) d).forEach (s.domLegs d) (applyLeg d)
    t

/-- Legs that follow a player in TIDE. -/
def State.tideLegs (s : State) (p : Nat) : List Nat :=
  (List.range 32).filter (fun n => s.get (.edge .LEG_CFG_MODE) n == 2 && s.get (.edge .LEG_CFG_PLAYER) n == p)

/-- The STATE a leg takes at a page start: that of its last entry at or before the angle, counted cyclically; 0b00 for a leg
the page does not name (R207). -/
def startState (l : List Nat) (angle n : Nat) : Nat :=
  let mine := l.filter (fun e => entLeg e == n)
  match (mine.filter (fun e => decide (entAngle e ≤ angle))).getLast?, mine.getLast? with
  | some e, _ => entState e
  | none, some e => entState e
  | none, none => 0

/-- The CMTMASK legs that count a player's marks (R208, R211). -/
def State.markLegs (s : State) (p : Nat) : List Nat :=
  (List.range 41).filter (fun n => s.get (.edge .LEG_CFG_MODE) n == 4 && s.get (.edge .LEG_CFG_CSRC) n == 3 &&
    s.get (.edge .LEG_CFG_PLAYER) n == p)

/-- A player's mark count changes: the mask legs that follow it take the new index (R208, R211). -/
def setMarks (p m : Nat) (s : State) : State :=
  (s.set (.edge .TP_MARKS) m p).forEach (s.markLegs p) (fun n t => syncLeg n (t.set (.edge .LEG_STAT_CMT_IDX) m n))

/-- Playback begins in the active page: the next entry is the first past θ, marks restart, legs take their states, slots
become known (R207, R211, R214). -/
def pageStart (p : Nat) (s : State) : State :=
  let l := s.pattern p
  let ang := s.get (.edge .TP_ANGLE) p
  let k := (l.findIdx? (fun e => decide (entAngle e > ang))).getD 0
  let t := s.set (.edge .TP_NEXT) k p
  let t := t.sset (.edge .TP_GAP) (t.gapTo p (entAngle (l.getD k 0))) p
  let t := setMarks p 0 (t.set (.edge .TP_CHG) s.now p)
  t.forEach (s.tideLegs p) (fun n t => slotNext n (syncLeg n (t.set (.edge .LEG_TIDE) (startState l ang n) n)))

/-- Tide playback ends: the player's legs go on in carrier PWM, each on the timebase of its own domain (R207). -/
def playEnd (p : Nat) (s : State) : State :=
  let t := ((s.off (.edge .TP_STAT_PPI) p).off (.edge .TP_STAT_PLAYING) p).forEach (s.tideLegs p) (fun n t => t.set (.edge .LEG_CAUSE) s.now n)
  t.forEach (s.tideLegs p) (fun n t => slotNext n (syncLeg n t))

/-- The classification of the effective request at a reload boundary: continue, swap, start, end or miss
(R84 to R86, R88, R207, R618). MISS_RUN stops at 255: R88 states no bound. DESIGN CHOICE, log entry 78. -/
def classify (p : Nat) (s₀ : State) : State :=
  let s := matureRequests p s₀
  let calm := fun t : State => refreshSwap p (deassertSource (64 + p) (t.off (.edge .TS_STAT_MISS_RUN) p))
  if !s.flag (.edge .TS_EFF_HAS) p then refreshSwap p s
  else
    let eff := s.get (.edge .TS_EFF) p
    let ppi := s.get (.edge .TP_STAT_PPI) p
    let play := fun t : State => ((t.set (.edge .TP_STAT_PPI) eff p).on (.edge .TP_STAT_PLAYING) p)
    let load := fun t : State => if ppi = 0 then (setTheta p (t.get (.edge .TP_A_SET) p * 65536) t).set (.edge .TP_AT) ((s.now + 7) / 8) p else t
    let other := s.otherPage p
    if eff = 0 then (if ppi = 0 then calm s else calm (playEnd p s))
    else if eff = s.tagOf p (s.activePage p) ∧ s.pageValid p (s.activePage p) then
      if ppi = eff then calm s else calm (pageStart p (play (load s)))
    else if eff = s.tagOf p other ∧ s.pageValid p other then
      calm (pageStart p (play (load (s.set (.edge .TS_STAT_ACTIVE) other p))))
    else refreshSwap p ((s.on (.edge .TS_STAT_PAGE_MISS) p).incSat (.edge .TS_STAT_MISS_RUN) p)

/-- A player's captured inputs at a reload boundary: RATE and ANGLE_SET first, then the classification; the correction acts
from the following edge tick (R184, R202, R206). -/
def playerBoundary (p : Nat) (s : State) : State :=
  let rate := toSigned 24 (s.get (.edge .TP_C_RATE) p)
  let t := s.when (decide (rate < 0)) (·.on (.edge .TP_STAT_RATE_NEG) p)
  let t := (t.setB (.edge .TP_STAT_STOPPED) (decide (rate ≤ 0)) p).set (.edge .TP_A_SET) (s.get (.edge .TP_C_SET) p) p
  classify p ((t.set (.edge .TP_NRATE) (max rate 0).toNat p).off (.edge .TP_NCORR) p)

/-- The captured correction is added to the pending one, or discarded where the sum exceeds 1,048,576 LSB; rate and correction act from the
following edge tick: at once where the boundary opens one (R184, R206). -/
def playerCorrection (p : Nat) (s : State) : State :=
  let c := toSigned 24 (s.get (.edge .TP_C_CORR) p)
  let big := decide ((s.sget (.edge .TP_PEND) p + c).natAbs > 1048576)
  let t := if s.flag (.edge .TP_C_CORR_NEW) p then
      (if big then s.on (.edge .TP_STAT_CORR_BIG) p else s.sset (.edge .TP_NCORR) c p).off (.edge .TP_C_CORR_NEW) p
    else s
  let t := t.when (t.get (.edge .TP_NRATE) p != t.get (.edge .TP_A_RATE) p || t.get (.edge .TP_NCORR) p != 0) (·.set (.edge .TP_CHG) s.now p)
  if s.now % 8 = 0 then takeRate p t else t.set (.edge .TP_NEW) (s.now / 8 + 1) p

/-- The domain angle: that of the lowest-numbered enabled player bound to the domain, 0 where there is none (R184). -/
def sampleAngle (d : Nat) (s : State) : State :=
  sourceSent 8 d (s.set (.edge .DOM_ANGLE) (match (s.domPlayers d).head? with | some p => s.get (.edge .TP_ANGLE) p | none => 0) d)

/-- Period of a resolver's locked excitation in fine ticks: EXDIV periods of its domain (R304). -/
def State.excLocked (s : State) (r : Nat) : Nat := (s.get (.sns .RES_CFG_EXDIVM1) r + 1) * s.period (s.get (.sns .RES_CFG_DOM) r)

/-- The frequency of a resolver's locked excitation lies from 4 kHz to 20 kHz (R304, R305). -/
def State.excInRange (s : State) (r : Nat) : Bool := decide (320000 ≤ s.excLocked r) && decide (s.excLocked r ≤ 1600000)

/-- A resolver locked to a domain at its reload boundary. An excitation period starts at every EXDIV-th boundary; out of range the excitation
runs on unlocked at the nearer limit with FREQ_ERR; it locks again once an excitation period was in range, and then waits to be valid again
(R304, R305, R308). -/
def resolverBoundary (d r : Nat) (s : State) : State :=
  if s.flag (.sns .RES_CFG_EN) r ∧ !s.flag (.sns .RES_CFG_FREE) r ∧ s.get (.sns .RES_CFG_DOM) r = d ∧ s.senseClocked then
    if s.excInRange r then
      if s.flag (.sns .RES_STAT_LOCKED) r then
        if s.get (.sns .RES_CFG_EXDIVM1) r ≤ s.get (.sns .RES_BN) r then
          (s.off (.sns .RES_BN) r).set (.sns .RES_T0) (s.now + 1) r
        else s.inc (.sns .RES_BN) r
      else
        let t := s.when (s.get (.sns .RES_FIX) r != 0) (fun t => (t.off (.sns .RES_STAT_VALID) r).set (.sns .RES_V_AT) s.now r)
        (((t.on (.sns .RES_STAT_LOCKED) r).off (.sns .RES_FIX) r).off (.sns .RES_BN) r).set (.sns .RES_T0) (s.now + 1) r
    else if s.flag (.sns .RES_STAT_LOCKED) r then
      (((s.off (.sns .RES_STAT_LOCKED) r).on (.sns .RES_STAT_FREQ_ERR) r).set (.sns .RES_FIX)
        (if s.excLocked r < 320000 then 1 else 2) r).set (.sns .RES_T0) (s.now + 1) r
    else s
  else s

/-- A leg at its domain's reload boundary: the leg of an enabled group leaves its safe level, IL_CNT returns to 0, the mode's
state at the boundary is commanded, a refresh that is due starts (R189, R193, R217, R218). -/
def legBoundary (n : Nat) (s : State) : State :=
  let t := s.off (.edge .LEG_STAT_IL_CNT) n
  let t := t.when (t.legEnabled n && !t.flag (.edge .LEG_LIVE) n) (fun t => (t.on (.edge .LEG_LIVE) n).set (.edge .LEG_CAUSE) s.now n)
  refreshStart n (syncLeg n (driveLeg n t))

/-- The coming boundary of a domain is boundary 0, with which it starts (R182). -/
def State.atStart (s : State) (d : Nat) : Bool := s.get (.edge .DOM_NEXT) d == s.get (.edge .DOM_BASE) d

/-- A domain event reaches the sense island 10 ns after its instant: the sigma-delta channels that take results at it wait for their next
modulator clock edge, the fast converters it triggers have their trigger (R30, R292, R301). -/
def senseEvent (d e : Nat) (s : State) : State :=
  if s.get (.saf .ISL_STAT_STATE) 9 ≠ 0 then s
  else
    let t := s.forUpTo 24 (fun c t => t.when (s.flag (.sns .SD_CFG_EN) c && s.flag (.sns .SD_CFG_SYNC) c &&
      s.get (.sns .SD_CFG_DOM) c == d && s.get (.sns .SD_CFG_EVT) c == e) (·.set (.sns .SD_ARM) (s.now + 65) c))
    t.forUpTo 8 (fun c t => t.when (s.get (.sns .FC_CFG_DOM) c == d && s.get (.sns .FC_CFG_EVT) c == e)
      (·.set (.sns .FC_EVT_AT) (s.now + 65) c))

/-- A domain event leaves the edge island only while that is in RUN; a BOUNDARY counts towards the frames of the loop engines on the domain
(R30, R115, R183). -/
def domainEvent (d e : Nat) (s : State) : State :=
  if s.get (.saf .ISL_STAT_STATE) 7 ≠ 0 then s
  else
    let t := senseEvent d e (s.send .domainEvent d e)
    if e = 0 then t.forUpTo 16 (fun k t => if t.get (.loop .LE_CTRL_DOMAIN) k = d then t.incSat (.loop .LE_RBN) k else t) else t

/-- RELOAD_BOUNDARY of a domain, at the instant that its timebase holds (R181 and the rules it gathers). DEDUCED, log entry 68. -/
def reloadBoundary (d : Nat) (s : State) : State :=
  if !s.domRuns d ∨ s.now ≠ s.get (.edge .DOM_NEXT) d then s
  else
    let applied := s.flag (.edge .DOM_CAP) d
    let t := s.forEach (s.domPlayers d) catchUp
    let t := (applyDomain d t).when applied (·.set (.edge .DOM_APL) s.now d)
    let t := (((t.when (!s.atStart d) (·.inc (.edge .DOM_STAT_BCNT) d)).off (.edge .DOM_SAMPLED) d).set
      (.edge .DOM_BASE) s.now d).set (.edge .DOM_NEXT) (s.now + t.period d) d
    let t := (((t.set (.edge .DOM_RB) s.now d).set (.edge .DOM_P0) (t.period d) d).off (.edge .DOM_HDONE) d).off (.edge .DOM_EVD) d
    let t := t.forEach (s.domPlayers d) playerBoundary
    let t := sampleAngle d t
    let t := t.forEach (s.domPlayers d) playerCorrection
    let t := t.forEach (s.domLegs d) legBoundary
    let t := t.when applied (ssStep d)
    let t := t.forUpTo 2 (resolverBoundary d)
    domainEvent d 0 t

/-- HALF_BOUNDARY of a domain with DBL set: it applies the shadows, moves the next reload boundary where a new period is applied, and does
nothing else of a reload boundary; the legs go on from the middle of the new period (R181, R193). -/
def halfBoundary (d : Nat) (s : State) : State :=
  if !s.domRuns d ∨ !s.halfDue d ∨ s.now ≠ s.halfAt d then s
  else
    let applied := s.flag (.edge .DOM_CAP) d
    let t := ((applyDomain d s).off (.edge .DOM_SAMPLED) d).on (.edge .DOM_HDONE) d
    if !applied then t
    else
      let p := t.period d
      let t := ((t.set (.edge .DOM_APL) s.now d).set (.edge .DOM_NEXT) (s.now + (p - p / 2)) d).set (.edge .DOM_BASE) (s.now - p / 2) d
      t.forEach (s.domLegs d) syncLeg

/-- The instant of HALF, TRGA or TRGB in the present period, from the period active at its reload boundary (R183). -/
def State.eventAt (s : State) (d e : Nat) : Nat :=
  let p := s.get (.edge .DOM_P0) d
  s.get (.edge .DOM_RB) d + (match e with
    | 1 => p / 2
    | 2 => s.get (.edge .DOM_A_TRGA) d * p / 65536
    | _ => s.get (.edge .DOM_A_TRGB) d * p / 65536)

/-- DOMAIN_TRIGGER_EVENT: HALF, TRGA or TRGB at its instant, once in a period (R183). -/
def triggerEvent (d e : Nat) (s : State) : State :=
  if !s.domRuns d ∨ s.bit (.edge .DOM_EVD) (e - 1) d ∨ s.now ≠ s.eventAt d e then s
  else domainEvent d e (s.setBit (.edge .DOM_EVD) (e - 1) d)

/-- One entry is fired: its leg takes its STATE, MARK and TRIG act; an entry whose leg does not follow the player is skipped
(R205, R208, R211, R214). -/
def fireEntry (p e : Nat) (s : State) : State :=
  let n := entLeg e
  if !(s.get (.edge .LEG_CFG_MODE) n == 2 && s.get (.edge .LEG_CFG_PLAYER) n == p) then s.on (.edge .TP_STAT_STRAY) p
  else
    let t := syncLeg n (s.set (.edge .LEG_TIDE) (entState e) n)
    let t := if entMark e then setMarks p ((t.get (.edge .TP_MARKS) p + 1) % 6) t else t
    let d := t.get (.edge .TP_CFG_DOMAIN) p
    let t := t.when ((entTrig e).testBit 0) (domainEvent d 4)
    let t := t.when ((entTrig e).testBit 1) (domainEvent d 5)
    slotNext n t

/-- The next entry is due at the present fine tick: the angle, interpolated within the edge tick, has reached it (R203, R204). -/
def State.entryDue (s : State) (p : Nat) : Bool :=
  let g := s.sget (.edge .TP_GAP) p
  decide (g ≤ 0) || (decide (s.get (.edge .TP_AT) p = s.now / 8) && decide (8 * g ≤ s.move p 1 * ((s.now % 8 : Nat) : Int)))

/-- Fire the entries that are due, at most `fuel`; SLIP where more are due (R203, R204). -/
def fireDue (p : Nat) (l : List Nat) (s : State) : Nat → State
  | 0 => s.when (s.entryDue p) (·.on (.edge .TP_STAT_SLIP) p)
  | f + 1 =>
    if !s.entryDue p then s
    else
      let k := s.get (.edge .TP_NEXT) p
      let e := l.getD k 0
      let k' := if k + 1 < l.length then k + 1 else 0
      let d : Nat := (entAngle (l.getD k' 0) + 2 ^ 24 - entAngle e) % 2 ^ 24 * 65536
      let d : Nat := if k' = 0 ∧ d = 0 then 2 ^ 40 else d
      let t := (s.set (.edge .TP_NEXT) k' p).sset (.edge .TP_GAP) (s.sget (.edge .TP_GAP) p + d) p
      fireDue p l (fireEntry p e (t.inc (.edge .TP_FN) p)) f

/-- TIDE_ENTRY_FIRE: the player fires the entries that its angle has reached, at most four in one edge tick (R201, R203 to R205). -/
def tideEntryFire (p : Nat) (s : State) : State :=
  let t := catchUp p s
  let k := s.now / 8
  let t := if t.get (.edge .TP_FT) p = k then t else (t.set (.edge .TP_FT) k p).off (.edge .TP_FN) p
  if t.flag (.edge .TP_CFG_EN) p ∧ t.flag (.edge .TP_STAT_PLAYING) p ∧ t.edgeClocked then
    fireDue p (t.pattern p) t (4 - t.get (.edge .TP_FN) p)
  else t

/-- SIXSTEP_CROSSING: a six-step leg requests high on for half a turn from SIX_ANG (R209). -/
def sixstepCrossing (n : Nat) (s : State) : State :=
  if s.get (.edge .LEG_CFG_MODE) n = 3 then syncLeg n (catchLeg n s) else s

/-- A bridge's Hall state at the edge island selects the mask entry of its CMTMASK legs (R210, R211). -/
def hallStateChange (b v : Nat) (s : State) : State :=
  let t := s.set (.edge .HALL) v b
  t.forEach ((List.range 41).filter (fun n => s.get (.edge .LEG_CFG_MODE) n == 4 && s.get (.edge .LEG_CFG_CSRC) n == b))
    (fun n u => syncLeg n ((u.set (.edge .LEG_STAT_CMT_IDX) v n).set (.edge .LEG_CAUSE) s.now n))

/-- HALL_STATE_CHANGE: the Hall state that has settled in the actuator island, in RUN, reaches the edge island (R30, R179). -/
def hallArrives (b v : Nat) (s : State) : State :=
  if s.get (.saf .ISL_STAT_STATE) 11 ≠ 0 ∨ !s.edgeClocked ∨ s.get (.act .BR_STAT_HALL) b ≠ v then s else hallStateChange b v s

/-- DUTY_CHANNEL_WRITE: the word's duty is converted with the period shadow of each named leg's own domain (R194). -/
def dutyChannelWrite (c v : Nat) (s : State) : State :=
  s.forUpTo 41 (fun n t =>
    if (if n < 32 then s.bit (.edge .DCH_LEGS) n c else s.bit (.edge .DCH_ALEGS) (n - 32) c) then
      let per := s.get (.edge .DOM_PERIOD) (s.get (.edge .LEG_CFG_DOMAIN) n)
      let x := toSigned 16 v
      let d := if x < 0 then 0 else if x = 32767 then per else x.toNat * per / 32768
      let u := (t.set (.edge .LEG_DUTY) d n).on (.edge .LEG_DUTY_W) n
      u.when (s.flag (.edge .DOM_CAP) (s.get (.edge .LEG_CFG_DOMAIN) n)) (·.on (.edge .LEG_DUTY_WN) n)
    else t)

/-- A sideband write of a leg's duty shadow (R198, R200). -/
def dutyWrite (n v : Nat) (s : State) : State :=
  ((s.set (.edge .LEG_DUTY) v n).on (.edge .LEG_DUTY_W) n).when
    (s.flag (.edge .DOM_CAP) (s.get (.edge .LEG_CFG_DOMAIN) n)) (·.on (.edge .LEG_DUTY_WN) n)

/-- A sideband write of a domain's period shadow; the spread-spectrum sequencer owns it while it runs (R198, R200, R371). -/
def periodWrite (d v : Nat) (s : State) : State :=
  if s.flag (.edge .DOM_SS_EN) d then s.on (.edge .DOM_SS_SS_BUSY) d
  else ((s.set (.edge .DOM_PERIOD) v d).on (.edge .DOM_STAT_PER_W) d).when (s.flag (.edge .DOM_CAP) d) (·.on (.edge .DOM_PER_WN) d)

/-- A CORR word arrives: of two before one sample instant the later replaces the earlier (R206). -/
def corrWord (p v : Nat) (s : State) : State := (s.set (.edge .TP_CORR) v p).on (.edge .TP_CORR_NEW) p

/-- The registers of a leg that may be written only while its group is disabled (R213). -/
inductive LegReg where
  | cfg | refresh | cmt | six
  deriving DecidableEq, Repr

/-- Offset of the register in the leg's block. -/
def LegReg.off : LegReg → Nat
  | .cfg => 0x00 | .refresh => 0x14 | .cmt => 0x20 | .six => 0x24

/-- A write to CFG, REFRESH, CMT or SIX of a leg: discarded with CFG_BUSY while the leg's group is enabled; a reserved MODE
sets CFG_ERR, and in CMTMASK the leg takes the present index of its source (R186, R211, R213). -/
def legCfgWrite (n : Nat) (r : LegReg) (v : Nat) (s : State) : State :=
  if s.legEnabled n then s.on (.edge .LEG_STAT_CFG_BUSY) n
  else match r with
  | .cfg =>
    let t := ((((s.set (.edge .LEG_CFG_MODE) (bits v 0 3) n).set (.edge .LEG_CFG_DOMAIN) (bits v 3 3) n).set
      (.edge .LEG_CFG_ALIGN) (bits v 6 1) n).set (.edge .LEG_CFG_PLAYER) (bits v 7 2) n).set (.edge .LEG_CFG_SLOT)
      (bits v 9 2) n |>.set (.edge .LEG_CFG_CSRC) (bits v 12 3) n
    let t := t.when (bits v 0 3 == 4) (fun t => t.set (.edge .LEG_STAT_CMT_IDX) (t.cmtSource n) n)
    slotNext n (t.when (decide (bits v 0 3 ≥ 5)) (·.on (.edge .LEG_STAT_CFG_ERR) n))
  | .refresh => ((s.set (.edge .LEG_REFRESH_PULSE) (bits v 0 5) n).set (.edge .LEG_REFRESH_INTERVAL) (bits v 16 7) n).set
      (.edge .LEG_REFRESH_BOOT_EN) (bits v 31 1) n
  | .cmt => s.set (.edge .LEG_CMT) (bits v 0 16) n
  | .six => s.set (.edge .LEG_SIX) (bits v 0 24) n

/-- Address of a leg's register block (R213). -/
def legAddr (n : Nat) : Nat := if n < 32 then 0x1040000400 + 0x40 * n else 0x1040001000 + 0x40 * (n - 32)

/-- A write to a player's CFG: discarded as a whole, with CFG_BUSY on each such leg, while the group of a leg that follows
the player is enabled (EDGE_TP[p]_CFG). -/
def playerCfgWrite (p v : Nat) (s : State) : State :=
  let busy := (List.range 41).filter (fun n => s.follows p n && s.legEnabled n)
  if busy = [] then
    let t := catchUp p s
    let t := t.when (!s.flag (.edge .TP_CFG_EN) p) (restartAngle p)
    ((t.set (.edge .TP_CFG_EN) (bits v 0 1) p).set (.edge .TP_CFG_DOMAIN) (bits v 1 3) p).set (.edge .TP_CFG_CSTEP) (bits v 4 8) p
  else s.forEach busy (fun n t => t.on (.edge .LEG_STAT_CFG_BUSY) n)

/-- The first failing check of Table: Group enable refusal causes, with the first offending leg (R188, R271). -/
def State.enableCause (s : State) (g : Nat) : Option (Nat × Nat) :=
  let legs := s.legsOf g
  let links := legs.filter (fun n => decide (n < 32))
  let lstate := fun n => s.get (.edge .FL_STAT_LSTATE) n
  let par := fun n => s.get (.edge .FL_CFG_PARID) n
  let settled := fun n => lstate n == 5 || lstate n == 6
  if !s.bit (.saf .MODE_GRP) g (s.get (.saf .AXLE_MODE_MODE)) then some (1, 63)
  else if s.bit (.grd .OG_LATCH) g then some (2, 63)
  else match legs.find? (fun n => decide ((s.groupsOf n).length > 1)) with
  | some n => some (3, n)
  | none => match legs.find? (fun n => s.get (.edge .LEG_CFG_MODE) n == 0 || decide (s.get (.edge .LEG_CFG_MODE) n ≥ 5) ||
      !s.flag (.edge .DOM_STAT_RUNNING) (s.get (.edge .LEG_CFG_DOMAIN) n)) with
  | some n => some (4, n)
  | none => match links.find? (fun n => settled n && par n != 0 && links.any (fun m => decide (m < n) && settled m &&
      par m == par n && s.get (.edge .FL_STAT_MODE) m != s.get (.edge .FL_STAT_MODE) n)) with
  | some n => some (5, n)
  | none => match links.find? (fun n => lstate n != 5) with
  | some n => some (6, n)
  | none => match legs.find? (fun n => s.flag (.edge .LEG_STAT_BOOT_UV) n) with
  | some n => some (7, n)
  | none => match legs.find? s.legFault with
  | some n => some (8, n)
  | none => none

/-- A write of 1 to a group's enable bit: enabled where every check passes, else refused with its cause (R188). -/
def groupEnable (g : Nat) (s : State) : State :=
  match s.enableCause g with
  | none => s.setBit (.edge .OG_EN) g
  | some (c, n) => (((s.setBit (.edge .OG_REF) g).set (.edge .OG_CAUSE_CODE) c).set (.edge .OG_CAUSE_GROUP) g).set
      (.edge .OG_CAUSE_LEG) n

/-- EDGE_CLOCK_LOSS: every leg off, CLK_LOST set, LOCK clear, the clock-loss source asserted (R223). -/
def edgeClockLoss (s : State) : State :=
  let t := ((s.on (.edge .STAT_CLK_LOST)).off (.edge .STAT_LOCK)).forUpTo 41 legForce
  assertSource 68 t

/-- A leg's force as its latches and the edge clock leave it (R221 order 1). A leg whose force is released takes what its mode requests by
then, as after an enable (R221 order 6, R617). -/
def refreshForce (n : Nat) (s : State) : State :=
  let f := s.legFault n || (s.flag (.edge .STAT_CLK_LOST) && !s.flag (.edge .STAT_LOCK))
  let t := s.setB (.edge .LEG_STAT_FORCED) f n
  if s.flag (.edge .LEG_STAT_FORCED) n ∧ !f then
    let live := s.get (.edge .LEG_LIVE) n
    syncLeg n (catchLeg n (driveLeg n (((withdrawLeg n t).set (.edge .LEG_LIVE) live n).set (.edge .LEG_CAUSE) s.now n)))
  else driveLeg n t

/-- A write to EDGE_STAT: CLK_LOST clears only while LOCK reads 1; HALT_FORCE clears as written (R223). -/
def edgeStatWrite (v : Nat) (s : State) : State :=
  let t := s.when (v.testBit 9) (·.off (.edge .STAT_HALT_FORCE))
  if v.testBit 8 ∧ s.flag (.edge .STAT_LOCK) then (t.off (.edge .STAT_CLK_LOST)).forUpTo 41 refreshForce else t

/-- Reset of the edge island: every register and internal quantity of the island at its reset value; leg forces follow the
guard island's latches (R226). -/
def edgeReset (s : State) : State :=
  let t := { s with vals := s.vals.filter (fun e => decide (e.k / 1000 ≠ 3)) }
  t.forUpTo 41 refreshForce

/-- The edge island leaves RUN: the players' angles stand where they are (R616). -/
def edgeLeaves (s : State) : State := s.forUpTo 4 catchUp

/-- Return of the edge island from GATED: every domain with EN starts afresh together, everything else is kept (R616). -/
def edgeReturn (s : State) : State :=
  (s.forUpTo 4 restartAngle).forUpTo 8 (fun d t => if t.flag (.edge .DOM_CTRL_EN) d then startDomain d t else t)

/-- Base of the EDGE window. -/
def edgeBase : Nat := 0x1040000000

/-- Address of a domain's register block. -/
def domAddr (d : Nat) : Nat := edgeBase + 0x100 + 0x20 * d

/-- DOMAIN_START (R182): a write that sets EN of a domain, or START of EDGE_SYNC for a mask of domains. DESIGN CHOICE, log entry 33. -/
def execDomainStart (w : Who) (m : BitVec 8) (s : State) : Host.Outcome State Fault Refusal :=
  done (sideband w (edgeBase + 0x0C) (m.toNat * 256)
    (fun t => t.forUpTo 8 (fun d u => if m.toNat.testBit d then domainStart d u else u)) s)

/-- SYNC_START (R182): a write of EDGE_SYNC; load-alls and starts of one write act together. -/
def execSyncStart (w : Who) (start ldall : BitVec 8) (s : State) : Host.Outcome State Fault Refusal :=
  done (sideband w (edgeBase + 0x0C) (start.toNat * 256 + ldall.toNat)
    (fun t => loadAllMask ldall.toNat (t.forUpTo 8 (fun d u => if start.toNat.testBit d then domainStart d u else u))) s)

/-- DOMAIN_STOP (R185): a write of EDGE_DOM[d]_CTRL with EN 0; its DBL and STRICT take effect unless the stop is refused. -/
def execDomainStop (w : Who) (d : DomIx) (dbl strict : Bool) (s : State) : Host.Outcome State Fault Refusal :=
  let v := 2 * dbl.toNat + 4 * strict.toNat
  done (sideband w (domAddr d.val) v (domCtrlWrite d.val v) s)

/-- LOAD_ALL_REQUEST (R196): from the sideband, or as a word of edge input channel 28 (`w = none`, R212). -/
def execLoadAllRequest (w : Option Who) (m : BitVec 8) (s : State) : Host.Outcome State Fault Refusal :=
  done (match w with
  | some w => sideband w (edgeBase + 0x0C) m.toNat (loadAllMask m.toNat) s
  | none => loadAllMask m.toNat s)

/-- SAMPLE_INSTANT (R196). -/
def execSampleInstant (d : DomIx) (half : Bool) (s : State) : Host.Outcome State Fault Refusal :=
  done (sampleInstant d.val half s)

/-- RELOAD_BOUNDARY (R181). -/
def execReloadBoundary (d : DomIx) (s : State) : Host.Outcome State Fault Refusal := done (reloadBoundary d.val s)

/-- SS_ENABLE (R370). -/
def execSsEnable (w : Who) (d : DomIx) (en : Bool) (s : State) : Host.Outcome State Fault Refusal :=
  done (sideband w (domAddr d.val + 0x14) en.toNat (ssEnable d.val en) s)

/-- HALF_BOUNDARY (R181). -/
def execHalfBoundary (d : DomIx) (s : State) : Host.Outcome State Fault Refusal := done (halfBoundary d.val s)

/-- DOMAIN_TRIGGER_EVENT (R183): HALF, TRGA or TRGB of a running domain is emitted. -/
def execDomainTriggerEvent (d : DomIx) (e : Fin 3) (s : State) : Host.Outcome State Fault Refusal :=
  done (triggerEvent d.val (e.val + 1) s)

/-- LEG_CFG_WRITE (R213). -/
def execLegCfgWrite (w : Who) (n : LegIx) (r : Fin 4) (v : Word) (s : State) : Host.Outcome State Fault Refusal :=
  let reg := match r with | 0 => LegReg.cfg | 1 => .refresh | 2 => .cmt | 3 => .six
  done (sideband w (legAddr n.val + reg.off) v.toNat (legCfgWrite n.val reg v.toNat) s)

/-- DUTY_CHANNEL_WRITE (R194). -/
def execDutyChannelWrite (c : Fin 12) (v : Half) (s : State) : Host.Outcome State Fault Refusal :=
  done (dutyChannelWrite c.val v.toNat s)

/-- RATE_WRITE (R206): from the sideband, or a word of edge input channel p (`w = none`). -/
def execRateWrite (w : Option Who) (p : PlayerIx) (v : BitVec 24) (s : State) : Host.Outcome State Fault Refusal :=
  done (match w with
  | some w => sideband w (edgeBase + 0x208 + 0x20 * p.val) v.toNat (·.set (.edge .TP_RATE) v.toNat p.val) s
  | none => s.set (.edge .TP_RATE) v.toNat p.val)

/-- CORR_WRITE (R206): a word of edge input channel 4 + p. -/
def execCorrWrite (p : PlayerIx) (v : BitVec 24) (s : State) : Host.Outcome State Fault Refusal :=
  done (corrWord p.val v.toNat s)

/-- ANGLE_SET_WRITE (R206): from the sideband, or a word of edge input channel 12 + p (`w = none`). -/
def execAngleSetWrite (w : Option Who) (p : PlayerIx) (v : BitVec 24) (s : State) : Host.Outcome State Fault Refusal :=
  done (match w with
  | some w => sideband w (edgeBase + 0x20C + 0x20 * p.val) v.toNat (·.set (.edge .TP_SET) v.toNat p.val) s
  | none => s.set (.edge .TP_SET) v.toNat p.val)

/-- CHANNEL_EDGE (R192). -/
def execChannelEdge (n : LegIx) (r : EdgeReq) (s : State) : Host.Outcome State Fault Refusal := done (channelEdge n.val r s)

/-- DEAD_TIME_EXPIRY (R192). -/
def execDeadTimeExpiry (n : LegIx) (s : State) : Host.Outcome State Fault Refusal := done (deadTimeExpiry n.val s)

/-- IL_FAULT (R217). -/
def execIlFault (n : LegIx) (s : State) : Host.Outcome State Fault Refusal := done (ilFault n.val s)

/-- TIDE_ENTRY_FIRE (R203). -/
def execTideEntryFire (p : PlayerIx) (s : State) : Host.Outcome State Fault Refusal := done (tideEntryFire p.val s)

/-- SIXSTEP_CROSSING (R209). DEDUCED, log entry 9. -/
def execSixstepCrossing (n : LegIx) (s : State) : Host.Outcome State Fault Refusal := done (sixstepCrossing n.val s)

/-- HALL_STATE_CHANGE (R211). -/
def execHallStateChange (b : Fin 3) (v : BitVec 3) (s : State) : Host.Outcome State Fault Refusal :=
  done (hallArrives b.val v.toNat s)

/-- BOOT_INTERVAL_EXPIRY (R218). -/
def execBootIntervalExpiry (n : LegIx) (s : State) : Host.Outcome State Fault Refusal := done (bootIntervalExpiry n.val s)

/-- REFRESH_PULSE_END (R218). -/
def execRefreshPulseEnd (n : LegIx) (s : State) : Host.Outcome State Fault Refusal := done (refreshPulseEnd n.val s)

/-- BOOT_UV_REPORT (R219): the stage's alert or the actuator island's comparator reports. -/
def execBootUvReport (n : LegIx) (s : State) : Host.Outcome State Fault Refusal := done (bootUvReport n.val s)

/-- BOOT_UV_TEST (R220). -/
def execBootUvTest (n : LegIx) (s : State) : Host.Outcome State Fault Refusal := done (bootUvTest n.val s)

/-- EDGE_CLOCK_LOSS (R223). -/
def execEdgeClockLoss (s : State) : Host.Outcome State Fault Refusal := done (edgeClockLoss s)

/-- CLK_LOST_CLEAR (R223): a write of EDGE_STAT. -/
def execClkLostClear (w : Who) (v : Word) (s : State) : Host.Outcome State Fault Refusal :=
  done (sideband w (edgeBase + 0x08) v.toNat (edgeStatWrite v.toNat) s)

/-- BOOTSTRAP_COMPARATOR_RELEASE (R440): the actuator island's comparator releases its report of an actuator leg. -/
def execBootstrapComparatorRelease (a : Fin 9) (s : State) : Host.Outcome State Fault Refusal :=
  done (bootUvEnd (32 + a.val) s)

end Sys2Proof.Machine
end

