-- ==== Sys2Proof/Machine/Guard.lean ====
section
/-!
DEFINITION. The guard island (chapter 06): input conditioning, latches and their clearing, safe dead time, bands.
-/
namespace Sys2Proof.Machine
open Sys2Proof

/-- Base of the GRD window. -/
def grdBase : Nat := 0x1050000000

/-- The filter time of a GFI in ns (GRD_GFI[i]_CFG.FILT). -/
def State.gfiFilt (s : State) (i : Nat) : Nat :=
  match s.get (.grd .GFI_CFG_FILT) i with | 0 => 0 | 1 => 50 | 2 => 100 | _ => 200

/-- What the glitch rejector does with a pulse of `ns`: shorter than 0.8 FILT is rejected, longer than 1.2 FILT passes, and in
between it may do either, which a free value decides (R231). -/
def gfiPasses (i ns : Nat) (s : State) : Bool × State :=
  let f := s.gfiFilt i
  if 5 * ns < 4 * f then (false, s)
  else if 5 * ns > 6 * f ∨ f = 0 then (true, s)
  else ((s.free 1).1 == 1, (s.free 1).2)

/-- GFI_ASSERT: the pin has stood at its asserting level for `ns` (R231). -/
def gfiAssert (i ns : Nat) (s : State) : State :=
  let r := gfiPasses i ns s
  if !r.1 then r.2
  else
    let t := r.2.set (.grd .GFI_CFG_PIN) (s.get (.grd .GFI_CFG_POL) i) i
    if s.flag (.grd .GFI_CFG_EN) i then assertSource i t else t

/-- GFI_GLITCH: a pulse of `ns` ends; rejected but longer than 10 ns it sets GLITCH (R231). -/
def gfiGlitch (i ns : Nat) (s : State) : State :=
  let r := gfiPasses i ns s
  if !r.1 ∧ ns > 10 then r.2.on (.grd .GFI_CFG_GLITCH) i else r.2

/-- GFI_DEASSERT: the pin leaves its asserting level (R231). -/
def gfiDeassert (i : Nat) (s : State) : State :=
  deassertSource i (s.set (.grd .GFI_CFG_PIN) (1 - s.get (.grd .GFI_CFG_POL) i) i)

/-- WINDOW_COMPARATOR_CHANGE: the comparator's input in 1/1024 of its range, with 4 units of hysteresis on the way back
(R232). -/
def windowChange (c v : Nat) (s : State) : State :=
  let hi := s.get (.grd .WC_CFG_THR_HI) c
  let lo := s.get (.grd .WC_CFG_THR_LO) c
  let above := decide (v > hi) || (s.flag (.grd .WC_HIGH) c && decide (v + 4 > hi))
  let below := decide (v < lo) || (s.flag (.grd .WC_LOW) c && decide (v < lo + 4))
  let out := (above && s.flag (.grd .WC_CFG_EN_HI) c) || (below && s.flag (.grd .WC_CFG_EN_LO) c)
  let t := (((s.set (.grd .WC_IN) v c).setB (.grd .WC_HIGH) above c).setB (.grd .WC_LOW) below c).setB (.grd .WC_CFG_OUT) out c
  if out then (if s.flag (.grd .SRC_ACT) (8 + c) then t else assertSource (8 + c) t) else deassertSource (8 + c) t

/-- A GFI's configuration has been written: it asserts while EN is set and the pin stands at POL, and with EN clear it never does (R231). -/
def gfiConfigured (i : Nat) (s : State) : State :=
  if s.flag (.grd .GFI_CFG_EN) i ∧ s.get (.grd .GFI_CFG_PIN) i = s.get (.grd .GFI_CFG_POL) i then
    (if s.flag (.grd .SRC_ACT) i then s else assertSource i s)
  else deassertSource i s

/-- A window comparator's configuration has been written: its thresholds and enables act on its present input (R232). -/
def windowConfigured (c : Nat) (s : State) : State := windowChange c (s.get (.grd .WC_IN) c) s

/-- The island whose clock a monitor watches; CM0 and CM1 are never masked (Table: Clock monitors, R233). -/
def cmIsland (m : Nat) : Option Nat :=
  match m with | 2 => some 7 | 3 => some 6 | 4 => some 9 | 5 => some 10 | 6 => some 11 | 7 => some 1 | _ => none

/-- A clock monitor is masked: its island is not in RUN, or its EN is clear (R233). -/
def State.cmMasked (s : State) (m : Nat) : Bool :=
  (match cmIsland m with
  | some n => s.get (.saf .ISL_STAT_STATE) n != 0
  | none => false) || !s.flag (.grd .CM_CFG_EN) m

/-- CM_WINDOW_END: a monitor window ends with a count (R233, R234). -/
def cmWindowEnd (m count : Nat) (s : State) : State :=
  if !s.flag (.grd .STAT_MON_RUN) then s
  else
    let t := s.set (.grd .CM_COUNT) count m
    if s.cmMasked m then deassertSource (69 + m) t
    else if count < s.get (.grd .CM_CFG_LO) m ∨ count > s.get (.grd .CM_CFG_HI) m then assertSource (69 + m) t
    else deassertSource (69 + m) t

/-- A write of GRD_SAF_FORCE by the safety island: bits newly set force their groups with CAUSE 0x62, bits cleared are
released (R239); bits kept for a failed self-test item are not cleared (R579). -/
def safForceWrite (v : Nat) (s : State) : State :=
  let old := s.get (.grd .SAF_FORCE)
  let m := v ||| s.get (.saf .KEPT_FORCE)
  forceGroups (andNot m old) 0x62 (s.set (.grd .SAF_FORCE) m)

/-- SOURCE_LATCH_CLEAR: a latch clears only if its source is deasserted at that moment (R241). -/
def sourceLatchClear (w m : Nat) (s : State) : State :=
  s.forUpTo 32 (fun b t => if m.testBit b ∧ !s.flag (.grd .SRC_ACT) (32 * w + b) then t.clrBit (.grd .SRC_LATCH) b w else t)

/-- What keeps a group latch from clearing: a set source latch that names the group, a force bit, BOOT_UV on a member leg, or
HALT_FORCE with the group's owner halted (R242). -/
def State.latchBlocked (s : State) (g : Nat) : Bool :=
  (List.range 77).any (fun src => s.srcLatched src && (s.route src).testBit g) || s.bit (.grd .SAF_FORCE) g ||
    (s.legsOf g).any (fun n => s.flag (.edge .LEG_STAT_BOOT_UV) n) ||
    (s.flag (.edge .STAT_HALT_FORCE) && s.flag (.grd .HALTED) g)

/-- A group latch clears: FORCED and CAUSE follow, the group stays disabled at its safe level (R240, R242). -/
def clearGroupLatch (g : Nat) (s : State) : State :=
  ((s.clrBit (.grd .OG_LATCH) g).off (.grd .OG_STAT_FORCED) g).set (.grd .OG_STAT_CAUSE) 0x7F g

/-- GROUP_LATCH_CLEAR: the safety island clears group latches only while LOCK is 1; a refused clear sets CLR_REFUSED
(R242, R479). -/
def groupLatchClear (m : Nat) (s : State) : State :=
  if !s.flag (.saf .LOCK_LOCK) then s
  else s.forUpTo 16 (fun g t =>
    if m.testBit g ∧ t.bit (.grd .OG_LATCH) g then
      (if t.latchBlocked g then t.on (.grd .STAT_CLR_REFUSED) else clearGroupLatch g t)
    else t)

/-- The leg's FAULT pair has shown a valid heartbeat for 2 us (R248). -/
def State.heartbeat2us (s : State) (n : Nat) : Bool :=
  s.flag (.edge .FL_STAT_HB_OK) n && decide (s.get (.edge .FL_HB_SINCE) n + us 2 ≤ s.now)

/-- LEG_FAULT_LATCH_CLEAR: a latch the interlock set clears at once, one the stage set only after 2 us of valid heartbeat
(R248). -/
def legFaultClear (m : Nat) (s : State) : State :=
  s.forUpTo 32 (fun n t =>
    if m.testBit n ∧ t.bit (.grd .LEGF_LATCH) n then
      (if t.flag (.grd .LEGF_STAGE) n ∧ !t.heartbeat2us n then t.on (.grd .STAT_CLR_REFUSED)
      else refreshForce n (((t.clrBit (.grd .LEGF_LATCH) n).clrBit (.grd .LEGF_IL) n).off (.grd .LEGF_STAGE) n))
    else t)

/-- ALEG_FAULT_LATCH_CLEAR: an actuator leg's latch clears at once (R248). -/
def alegFaultClear (m : Nat) (s : State) : State :=
  s.forUpTo 9 (fun a t =>
    if m.testBit a ∧ t.bit (.grd .ALEGF_LATCH) a then refreshForce (32 + a) (t.clrBit (.grd .ALEGF_LATCH) a) else t)

/-- The safe dead time of a group in fine ticks: (SDT_CODE + 1) × 100 ns (R237). -/
def State.safeDead (s : State) (g : Nat) : Nat := 640 * (s.get (.grd .OG_CFG_SDT_CODE) g + 1)

/-- The safe dead time of a leg has passed since the force or level change and since the other channel's turn-off: the channel its safe
level turns on goes on; a leg under leg force keeps both off (R237, R238). -/
def safeOn (g n : Nat) (s : State) : State :=
  let k := s.get (.edge .LEG_SAFE_DUE) n
  let off := s.get (.edge (if k = 1 then .LEG_TOFF_LO else .LEG_TOFF_HI)) n
  if k = 0 ∨ s.now < max (s.get (.edge .LEG_SAFE_AT) n) off + s.safeDead g then s
  else
    let t := s.off (.edge .LEG_SAFE_DUE) n
    if s.flag (.edge .LEG_STAT_FORCED) n then t else setOut n (k == 1) (k == 2) t

/-- SAFE_DEAD_TIME_EXPIRY: the safe dead time of a group has passed, which lies from SDT to 1.2 SDT (R237). -/
def safeDeadTimeExpiry (g : Nat) (s : State) : State :=
  let t := s.forEach (s.legsOf g) (safeOn g)
  if t.waitsSdt g then t else t.off (.grd .OG_STAT_MOVING) g

/-- The group is driven at its safe level. -/
def State.groupSafe (s : State) (g : Nat) : Bool := s.bit (.grd .OG_LATCH) g || !s.bit (.edge .OG_EN) g

/-- The safe level of a group has changed: a forced group moves to the new level through R237; latches and CAUSE stay (R244,
R251). A group that is only disabled takes the level on its legs, and no field of GRD_OG_STAT but LEVEL follows. -/
def levelChanged (g : Nat) (s : State) : State :=
  if s.bit (.grd .OG_LATCH) g then moveGroup g s
  else (s.set (.grd .OG_STAT_LEVEL) (s.safeLevel g) g).forEach (s.legsOf g) driveLeg

/-- A write of GRD_BAND (R251). -/
def bandWrite (m : Nat) (s : State) : State :=
  let t := s.set (.grd .BAND) m
  t.forUpTo 16 (fun g u => if s.safeLevel g ≠ t.safeLevel g then levelChanged g u else u)

/-- A write of GRD_OG[g]_CFG: SAFE and SDT_CODE (R235, R244). -/
def groupCfgWrite (g v : Nat) (s : State) : State :=
  let t := (s.set (.grd .OG_CFG_SAFE) (bits v 0 2) g).set (.grd .OG_CFG_SDT_CODE) (bits v 2 4) g
  if s.safeLevel g ≠ t.safeLevel g then levelChanged g t else t

/-- RING_OSCILLATOR_CHECK: the safety island compares the ring oscillator with its own every 100 us; a deviation beyond 10 %
(in permille), or a stop, sets every force bit and enters SAFE_HOLD (chapter 06, When the monitor clock stops). -/
def ringCheck (stopped : Bool) (dev : Nat) (s : State) : State :=
  if s.get (.saf .ISL_STAT_STATE) 0 ≠ 0 then s
  else
    let t := s.setB (.grd .STAT_MON_RUN) !stopped
    if stopped ∨ dev > 100 then enterSafeHold 6 (setSafForce 0xFFFF 5 t) else t

/-- An internal source releases under R618 (and R234, R296, R232, R231 for the conditioned sources). -/
def State.mayDeassert (s : State) (src : Nat) : Bool :=
  if 48 ≤ src ∧ src ≤ 63 then s.get (.loop .LE_STAT_STATE) (src - 48) == 0
  else if 64 ≤ src ∧ src ≤ 67 then s.get (.edge .TS_STAT_MISS_RUN) (src - 64) == 0
  else if src = 68 then s.get (.saf .ISL_STAT_STATE) 7 == 0 && s.flag (.edge .STAT_LOCK)
  else if 24 ≤ src ∧ src ≤ 47 then !s.flag (.sns .SD_STAT_TRIP) (src - 24)
  else if 69 ≤ src ∧ src ≤ 76 then decide (s.get (.grd .CM_CFG_LO) (src - 69) ≤ s.get (.grd .CM_COUNT) (src - 69)) &&
    decide (s.get (.grd .CM_COUNT) (src - 69) ≤ s.get (.grd .CM_CFG_HI) (src - 69))
  else if 8 ≤ src ∧ src ≤ 23 then !s.flag (.grd .WC_CFG_OUT) (src - 8)
  else s.get (.grd .GFI_CFG_PIN) src != s.get (.grd .GFI_CFG_POL) src || !s.flag (.grd .GFI_CFG_EN) src

/-- Every cause for which the safety island forces a group after a leg fault, an over-current or a lane loss has gone
(R247). -/
def State.forceCausesGone (s : State) (g : Nat) : Bool :=
  (s.legsOf g).all (fun n => !s.legFault n) &&
    (!(6 ≤ g && g ≤ 8 : Bool) || !s.flag (.act .BR_STAT_OC_LATCH) (g - 6)) &&
    (s.legsOf g).all (fun n => decide (n ≥ 32) || s.get (.edge .FL_STAT_LSTATE) n == 5 || !s.bit (.saf .FORCE_CAUSE) 2 g)

/-- SAF_FORCE_RELEASE: the safety island drops a force once every cause for it has gone; the group latch stays (R247). -/
def safForceRelease (g : Nat) (s : State) : State :=
  if s.forceCausesGone g then dropSafForce (2 ^ g) 2 (dropSafForce (2 ^ g) 1 (dropSafForce (2 ^ g) 0 s)) else s

/-- GFI_ASSERT (R231). DESIGN CHOICE, log entry 37. -/
def execGfiAssert (i : Fin 8) (ns : BitVec 32) (s : State) : Host.Outcome State Fault Refusal := done (gfiAssert i.val ns.toNat s)
/-- GFI_GLITCH (R231). DESIGN CHOICE, log entry 37. -/
def execGfiGlitch (i : Fin 8) (ns : BitVec 32) (s : State) : Host.Outcome State Fault Refusal := done (gfiGlitch i.val ns.toNat s)
/-- GFI_DEASSERT (R231). -/
def execGfiDeassert (i : Fin 8) (s : State) : Host.Outcome State Fault Refusal := done (gfiDeassert i.val s)
/-- WINDOW_COMPARATOR_CHANGE (R232). -/
def execWindowComparatorChange (c : Fin 16) (v : BitVec 10) (s : State) : Host.Outcome State Fault Refusal :=
  done (windowChange c.val v.toNat s)
/-- INTERNAL_SOURCE_DEASSERT (R618). -/
def execInternalSourceDeassert (src : Fin 77) (s : State) : Host.Outcome State Fault Refusal :=
  done (if s.mayDeassert src.val then deassertSource src.val s else s)
/-- CM_WINDOW_END (R233). -/
def execCmWindowEnd (m : Fin 8) (count : BitVec 12) (s : State) : Host.Outcome State Fault Refusal :=
  done (cmWindowEnd m.val count.toNat s)
/-- SAF_FORCE_WRITE (R239). -/
def execSafForceWrite (w : Who) (m : BitVec 16) (s : State) : Host.Outcome State Fault Refusal :=
  let a := grdBase + 0x8C
  done (sideband w a m.toNat (fun t => if w = .safety then safForceWrite m.toNat t
    else if m.toNat = t.get (.grd .SAF_FORCE) then t else logViolation 3 w a t) s)
/-- SOURCE_LATCH_CLEAR (R241). -/
def execSourceLatchClear (w : Who) (k : Fin 3) (m : Word) (s : State) : Host.Outcome State Fault Refusal :=
  done (sideband w (grdBase + 0x10 + 4 * k.val) m.toNat (sourceLatchClear k.val m.toNat) s)
/-- GROUP_LATCH_CLEAR (R242). DEDUCED, log entry 38. -/
def execGroupLatchClear (w : Who) (m : BitVec 16) (s : State) : Host.Outcome State Fault Refusal :=
  done (sideband w (grdBase + 0x80) m.toNat (groupLatchClear m.toNat) s)
/-- LEG_FAULT_LATCH_CLEAR (R248). -/
def execLegFaultLatchClear (w : Who) (m : Word) (s : State) : Host.Outcome State Fault Refusal :=
  done (sideband w (grdBase + 0x90) m.toNat (legFaultClear m.toNat) s)
/-- ALEG_FAULT_LATCH_CLEAR (R248). -/
def execAlegFaultLatchClear (w : Who) (m : BitVec 9) (s : State) : Host.Outcome State Fault Refusal :=
  done (sideband w (grdBase + 0x98) m.toNat (alegFaultClear m.toNat) s)
/-- SAFE_DEAD_TIME_EXPIRY (R237). -/
def execSafeDeadTimeExpiry (g : GroupIx) (s : State) : Host.Outcome State Fault Refusal := done (safeDeadTimeExpiry g.val s)
/-- BAND_SELECT_WRITE (R251). -/
def execBandSelectWrite (w : Who) (m : BitVec 16) (s : State) : Host.Outcome State Fault Refusal :=
  let a := grdBase + 0x88
  done (sideband w a m.toNat (fun t => if w = .safety then bandWrite m.toNat t
    else if m.toNat = t.get (.grd .BAND) then t else logViolation 3 w a t) s)
/-- RING_OSCILLATOR_CHECK (R233). -/
def execRingOscillatorCheck (stopped : Bool) (dev : BitVec 16) (s : State) : Host.Outcome State Fault Refusal :=
  done (ringCheck stopped dev.toNat s)
/-- SAF_FORCE_RELEASE (R247). -/
def execSafForceRelease (g : GroupIx) (s : State) : Host.Outcome State Fault Refusal := done (safForceRelease g.val s)

end Sys2Proof.Machine
end

