-- ==== Sys2Proof/Machine/Ferry.lean ====
section
/-!
DEFINITION. Ferry links (chapter 07): heartbeat and fault instants, link-up, lane transactions with their retries, telemetry,
alerts, diagnostics, drive profiles.
-/
namespace Sys2Proof.Machine
open Sys2Proof

/-- Address of a link's register block (R284). -/
def linkAddr (n : Nat) : Nat := edgeBase + 0x2000 + 0x40 * n

/-- Start a frame that expects a reply: the transaction is outstanding from now, no retry made yet (R263). -/
def startFrame (n code pay : Nat) (s : State) : State :=
  ((((s.set (.edge .FL_AWAIT) code n).off (.edge .FL_RETRY) n).set (.edge .FL_PAY) pay n).set (.edge .FL_AT) s.now n).send
    .lane n code pay

/-- The lane may carry a new transaction: none is outstanding, no silence and no wait before a new settling runs (R263, R268, R269). -/
def State.laneFree (s : State) (n : Nat) : Bool :=
  s.get (.edge .FL_AWAIT) n == 0 && !s.flag (.edge .FL_SILENCE) n && !s.flag (.edge .FL_RWAIT) n

/-- Begin a transaction: at once where the lane is free, else behind those that wait for it (R263). -/
def ask (n code pay : Nat) (s : State) : State :=
  if s.laneFree n then startFrame n code pay s
  else (s.set (.edge .FL_Q) (code * 2 ^ 40 + pay % 2 ^ 40) n (s.get (.edge .FL_QN) n)).inc (.edge .FL_QN) n

/-- The oldest transaction that waits for the lane starts where the lane is free (R263). -/
def nextFrame (n : Nat) (s : State) : State :=
  let k := s.get (.edge .FL_QN) n
  if s.laneFree n && k != 0 then
    let q := s.get (.edge .FL_Q) n 0
    let t := (s.forUpTo (k - 1) (fun i t => t.set (.edge .FL_Q) (s.get (.edge .FL_Q) n (i + 1)) n i)).off (.edge .FL_Q) n (k - 1)
    startFrame n (q / 2 ^ 40) (q % 2 ^ 40) (t.set (.edge .FL_QN) (k - 1) n)
  else s

/-- The outstanding transaction has ended: the next one that waits starts (R263). -/
def answered (n : Nat) (s : State) : State := nextFrame n ((s.off (.edge .FL_AWAIT) n).off (.edge .FL_RETRY) n)

/-- Give up every transaction of the lane, outstanding or waiting (R272). -/
def laneClear (n : Nat) (s : State) : State :=
  ((((s.off (.edge .FL_AWAIT) n).off (.edge .FL_RETRY) n).off (.edge .FL_SILENCE) n).off (.edge .FL_RWAIT) n).off
    (.edge .FL_QN) n

/-- Enter a link state (R272). -/
def toState (n st : Nat) (s : State) : State := s.set (.edge .FL_STAT_LSTATE) st n

/-- The link enters FAIL and starts again from WAIT after 10 ms (R269). -/
def linkFail (n : Nat) (s : State) : State := (toState n 8 (laneClear n s)).set (.edge .FL_W_AT) s.now n

/-- Leave every link activity and enter DOWN; a slot frame in flight is abandoned (R272). -/
def linkDown (n : Nat) (s : State) : State := toState n 0 ((laneClear n s).off (.edge .LEG_SLOT_PEND) n)

/-- The edge island is back from a state without its clock: the heartbeat is awaited afresh and the link restarts from DOWN (R620). -/
def linkReturn (n : Nat) (s : State) : State := linkDown n (s.off (.edge .FL_STAT_HB_OK) n)

/-- What a link does only while the edge island's clock runs (R16, R620). -/
def linkEvent (g : State → State) (s : State) : State := if s.edgeClocked then g s else s

/-- The configuration register's bits [17:0] (EDGE_FL[n]_CFG). -/
def State.linkCfg (s : State) (n : Nat) : Nat :=
  s.get (.edge .FL_CFG_RATE_MAX) n + 2 ^ 2 * s.get (.edge .FL_CFG_MODE_REQ) n + 2 ^ 4 * s.get (.edge .FL_CFG_TEL_REQ) n +
    2 ^ 9 * s.get (.edge .FL_CFG_DIAG_REQ) n + 2 ^ 12 * s.get (.edge .FL_CFG_PARID) n +
    2 ^ 16 * s.get (.edge .FL_CFG_PAR_ALIGN) n + 2 ^ 17 * s.get (.edge .FL_CFG_AUTO) n

/-- A link-up starts in WAIT at 12.5 Mbit/s and takes the configuration (R259, R272, R284). -/
def linkStart (n : Nat) (s : State) : State :=
  (toState n 1 (s.set (.edge .FL_CFG_ACT) (s.linkCfg n) n)).off (.edge .FL_CUR_RATE) n

/-- A lane character at a rate code, in fine ticks: 800, 400 or 200 ns (R260). -/
def laneChar (rate : Nat) : Nat := match rate with | 0 => 5120 | 1 => 2560 | _ => 1280

/-- Payload bytes of the module's frames (R265). -/
def lanePayload (code : Nat) : Nat := match code with | 2 => 4 | 3 => 5 | 4 => 1 | 5 => 1 | 7 => 1 | _ => 0

/-- The reply of the outstanding frame is absent: 8 characters have passed since its end, 8 + N characters after its start
(R261, R263). -/
def State.replyAbsent (s : State) (n : Nat) : Bool :=
  decide (s.get (.edge .FL_AT) n + (16 + lanePayload (s.get (.edge .FL_AWAIT) n)) * laneChar (s.get (.edge .FL_CUR_RATE) n) ≤ s.now)

/-- HEARTBEAT_TRANSITION: a level of FAULT has held for 40 ns, so the transition into it is valid, at the instant of its edge; from
DOWN with AUTO set the link goes to WAIT (R257, R272). -/
def heartbeat (n : Nat) (s : State) : State :=
  let t := (s.when (!s.flag (.edge .FL_STAT_HB_OK) n) (·.set (.edge .FL_HB_SINCE) (s.now - 256) n)).on (.edge .FL_STAT_HB_OK) n
  let t := t.set (.edge .FL_HB_AT) (s.now - 256) n
  t.when (s.get (.edge .FL_STAT_LSTATE) n == 0 && s.flag (.edge .FL_CFG_AUTO) n) (linkStart n)

/-- FAULT_INSTANT: t_HB, 300 ns at least, has passed since the last valid transition. The leg is forced off, its latch sets, the
link goes to DOWN and interrupted diagnostics read 0; at a static positive level FAULT_READ is sent at the rate last settled, else
FCAUSE is 0xFF (R222, R245, R246, R257, R259). -/
def faultInstant (n : Nat) (pos : Bool) (s : State) : State :=
  if !s.flag (.edge .FL_STAT_HB_OK) n || decide (s.now < s.get (.edge .FL_HB_AT) n + 1920) then s
  else
    let t := (s.off (.edge .FL_STAT_HB_OK) n).setB (.edge .FL_STAT_HB_LEVEL) pos n
    let t := t.when (s.get (.edge .FL_STAT_LSTATE) n == 6) (fun t => ((t.off (.edge .FL_DIAG_RES_GATE) n).off
      (.edge .FL_DIAG_RES_NODE) n).off (.edge .FL_DIAG_RES_DESAT) n)
    let t := (linkDown n t).set (.edge .FL_CUR_RATE) (s.get (.edge .FL_STAT_RATE) n) n
    let t := legForce n ((t.setBit (.grd .LEGF_LATCH) n).on (.grd .LEGF_STAGE) n)
    let t := if pos then ask n 9 0 t else t.set (.edge .FL_STAT_FCAUSE) 0xFF n
    t.send .level4 246 n

/-- LINK_WAIT_EXPIRY: the heartbeat has been valid for 10 us in WAIT: HELLO goes out at 12.5 Mbit/s once the lane is free
(R259, R263, R272). -/
def linkWaitExpiry (n : Nat) (s : State) : State :=
  if s.get (.edge .FL_STAT_LSTATE) n = 1 ∧ s.flag (.edge .FL_STAT_HB_OK) n ∧ s.laneFree n ∧
      s.get (.edge .FL_HB_SINCE) n + us 10 ≤ s.now then
    startFrame n 1 0 (toState n 2 s) else s

/-- The settled rate and mode of R267, under the configuration that this link-up took (R284): `none` is INCOMPAT. CAP bytes: 0 version, 1 rates, 2 modes. -/
def State.settle (s : State) (n ver rates modes : Nat) : Option (Nat × Nat) :=
  let cfg := fun m => s.get (.edge .FL_CFG_ACT) m
  let rm := min 2 (bits (cfg n) 0 2)
  let r := rates &&& (2 ^ (rm + 1) - 1)
  let rate := if r.testBit 2 then 2 else if r.testBit 1 then 1 else 0
  let par := bits (cfg n) 12 4
  let partner := (List.range 32).find? (fun m => m != n && par != 0 && bits (cfg m) 12 4 == par &&
    s.get (.edge .FL_STAT_LSTATE) m == 5)
  let best := if modes.testBit 0 then some 1 else if modes.testBit 1 then some 2 else none
  let req := match bits (cfg n) 2 2 with
    | 1 => if modes.testBit 0 then some 1 else none
    | 2 => if modes.testBit 1 then some 2 else none
    | _ => best
  let mode := match partner with
    | some m => if (cfg n).testBit 16 && modes.testBit (s.get (.edge .FL_STAT_MODE) m) then
        some (s.get (.edge .FL_STAT_MODE) m + 1) else req
    | none => req
  if ver ≠ 1 ∨ !rates.testBit 0 then none else mode.map (fun m => (rate, m))

/-- The SETTLE payload (R266). -/
def State.settlePay (s : State) (n : Nat) : Nat :=
  s.get (.edge .FL_S_RATE) n + 2 ^ 8 * s.get (.edge .FL_S_MODE) n + 2 ^ 16 * s.get (.edge .FL_S_TEL) n +
    2 ^ 24 * s.get (.edge .FL_S_DIAG) n

/-- CAP: the stage's capability frame arrives in PROBE; it is stored, compared with the previous one and settled, or the link
is INCOMPAT (R267, R272, STAGE_CHG). -/
def capFrame (n c : Nat) (s : State) : State :=
  if s.get (.edge .FL_STAT_LSTATE) n ≠ 2 ∨ s.get (.edge .FL_AWAIT) n ≠ 1 then s
  else
    let old := s.get (.edge .FL_CAP) n 0 + 2 ^ 32 * s.get (.edge .FL_CAP) n 1 + 2 ^ 64 * s.get (.edge .FL_CAP) n 2 +
      2 ^ 96 * s.get (.edge .FL_CAP) n 3
    let chg := s.flag (.edge .FL_CAP_SEEN) n && old % 2 ^ 112 != c % 2 ^ 112
    let t := (s.when chg (·.on (.edge .FL_STAT_STAGE_CHG) n)).on (.edge .FL_CAP_SEEN) n
    let t := t.forUpTo 4 (fun k u => u.set (.edge .FL_CAP) (bits c (32 * k) 32) n k)
    match s.settle n (bits c 0 8) (bits c 8 8) (bits c 16 8) with
    | none => toState n 7 (laneClear n t)
    | some (rate, mode) =>
      let u := (((t.set (.edge .FL_S_RATE) rate n).set (.edge .FL_S_MODE) mode n).set (.edge .FL_S_TEL)
        (bits c 24 5 &&& bits (s.get (.edge .FL_CFG_ACT) n) 4 5) n).set (.edge .FL_S_DIAG)
        (bits c 32 3 &&& bits (s.get (.edge .FL_CFG_ACT) n) 9 3) n
      startFrame n 2 (u.settlePay n) (toState n 3 u)

/-- Send the profile word of the next slot in LOAD (R272). -/
def sendProfile (n k : Nat) (s : State) : State := startFrame n 3 (k + 2 ^ 8 * s.get (.edge .FL_PROF) n k) s

/-- The link comes UP; in STEPPED with SLOT_SELECT of CFG.SLOT (R272, R277). -/
def linkUp (n : Nat) (s : State) : State :=
  let t := toState n 5 (answered n s)
  let t := t.set (.edge .FL_POLL_AT) s.now n
  if t.get (.edge .FL_STAT_MODE) n = 0 then slotFrame n (t.get (.edge .LEG_CFG_SLOT) n) t
  else t.off (.edge .LEG_STAT_SLOT_SENT) n

/-- ACK of a code, with the four echoed bytes of a SETTLE (R266, R268, R270, R272). -/
def ackFrame (n code echo : Nat) (s : State) : State :=
  if s.get (.edge .FL_AWAIT) n ≠ code ∨ code = 0 then s
  else if code = 2 then
    if echo ≠ s.settlePay n then s
    else if s.get (.edge .FL_S_RATE) n ≠ s.get (.edge .FL_CUR_RATE) n then
      answered n ((s.on (.edge .FL_SILENCE) n).set (.edge .FL_W_AT) s.now n)
    else startFrame n 6 0 s
  else if code = 3 ∧ s.get (.edge .FL_STAT_LSTATE) n = 4 then
    let k := s.get (.edge .FL_LOAD_IX) n + 1
    let t := s.set (.edge .FL_LOAD_IX) k n
    if k < (if s.get (.edge .FL_STAT_MODE) n = 0 then 4 else 1) then sendProfile n k t else linkUp n t
  else answered n s

/-- RATE_CHANGE_SILENCE_END: 16 characters of silence are over; the new rate is confirmed with TELEM_POLL (R268). -/
def silenceEnd (n : Nat) (s : State) : State :=
  if s.flag (.edge .FL_SILENCE) n ∧
      s.get (.edge .FL_W_AT) n + 16 * laneChar (s.get (.edge .FL_CUR_RATE) n) ≤ s.now then
    startFrame n 6 0 ((s.off (.edge .FL_SILENCE) n).set (.edge .FL_CUR_RATE) (s.get (.edge .FL_S_RATE) n) n) else s

/-- The confirmation of a settled rate has failed: at 12.5 Mbit/s the link enters FAIL, else it waits 100 us (R269). -/
def confirmFails (n : Nat) (s : State) : State :=
  if s.get (.edge .FL_CUR_RATE) n = 0 then linkFail n s
  else answered n ((s.on (.edge .FL_RWAIT) n).set (.edge .FL_W_AT) s.now n)

/-- NAK of a code: to SETTLE or to a PROFILE_WRITE in LOAD the link fails; a busy stage is polled again; a refused diagnostic
start ends DIAG (R269, R282). -/
def nakFrame (n code cause : Nat) (s : State) : State :=
  if s.get (.edge .FL_AWAIT) n ≠ code ∨ code = 0 then s
  else if code = 1 ∨ code = 2 ∨ (code = 3 ∧ s.get (.edge .FL_STAT_LSTATE) n = 4) then linkFail n s
  else if code = 6 ∧ s.get (.edge .FL_STAT_LSTATE) n = 3 then confirmFails n s
  else if code = 7 then toState n 5 (answered n s)
  else if code = 8 ∧ cause ≠ 4 then toState n 5 (answered n s)
  else if code = 9 then (answered n s).set (.edge .FL_STAT_FCAUSE) 0xFF n
  else answered n s

/-- LANE_LOST: a transaction in UP has failed after its retries: LINK_RESET, DOWN, a report at level 4; the leg is not forced
(R621). -/
def laneLost (n : Nat) (s : State) : State :=
  ((linkDown n (s.send .lane n 0x0B)).on (.edge .FL_STAT_LANE_LOST) n).send .level4 621 n

/-- REPLY_TIMEOUT: no reply has started in time: two retries, then the transaction has failed (R259, R263, R269, R621). -/
def replyTimeout (n : Nat) (s : State) : State :=
  let code := s.get (.edge .FL_AWAIT) n
  let st := s.get (.edge .FL_STAT_LSTATE) n
  if code = 0 ∨ !s.replyAbsent n then s
  else if s.get (.edge .FL_RETRY) n < 2 then
    ((s.inc (.edge .FL_RETRY) n).set (.edge .FL_AT) s.now n).send .lane n code (s.get (.edge .FL_PAY) n)
  else if st = 5 ∨ st = 6 then laneLost n s
  else if st = 3 ∧ code = 6 then confirmFails n s
  else if (st = 2 ∧ code = 1) ∨ (st = 3 ∧ code = 2) ∨ (st = 4 ∧ code = 3) then linkFail n s
  else if code = 9 then (answered n s).set (.edge .FL_STAT_FCAUSE) 0xFF n
  else answered n s

/-- SETTLE_RETRY_WAIT: 100 us after a failed confirmation the link settles again at 12.5 Mbit/s with the next lower common
rate (R269). -/
def settleRetry (n : Nat) (s : State) : State :=
  if !s.flag (.edge .FL_RWAIT) n ∨ s.now < s.get (.edge .FL_W_AT) n + us 100 then s
  else
    let r := bits (s.get (.edge .FL_CAP) n 0) 8 8 &&& (2 ^ s.get (.edge .FL_S_RATE) n - 1)
    let rate := if r.testBit 1 then 1 else 0
    let t := ((s.off (.edge .FL_RWAIT) n).off (.edge .FL_CUR_RATE) n).set (.edge .FL_S_RATE) rate n
    startFrame n 2 (t.settlePay n) t

/-- FAIL_TIMEOUT: 10 ms in FAIL are over (R269). -/
def failTimeout (n : Nat) (s : State) : State :=
  if s.get (.edge .FL_STAT_LSTATE) n = 8 ∧ s.get (.edge .FL_W_AT) n + us 10000 ≤ s.now then linkStart n s else s

/-- LANE_FRAME_ERROR: a frame is discarded and counted; CRC_ERR for one that R262 discards, not for one with a reserved code
(R262, R265). -/
def laneFrameError (n : Nat) (crc : Bool) (s : State) : State :=
  (s.when crc (·.on (.edge .FL_STAT_CRC_ERR) n)).incSat (.edge .FL_STAT_ERRCNT) n

/-- A 16-bit telemetry field: 0x8000 outside the settled mask (R281). -/
def State.telField (s : State) (n bit v : Nat) : Nat := if s.bit (.edge .FL_SET_TEL) bit n then v else 0x8000

/-- Store a telemetry frame (R281): the bootstrap report ends when STATUS bit 0 is clear; a slot other than SLOT_SENT is sent
again (R280). -/
def storeTelem (n v : Nat) (s : State) : State :=
  let st := bits v 64 8
  let t := s.set (.edge .FL_TEL) (s.telField n 0 (bits v 16 16) * 65536 + s.telField n 0 (bits v 0 16)) n 0
  let t := t.set (.edge .FL_TEL) (s.telField n 2 (bits v 48 16) * 65536 + s.telField n 1 (bits v 32 16)) n 1
  let t := t.set (.edge .FL_TEL) (s.telField n 4 (bits v 80 16) * 65536 + bits v 72 8 * 256 + st) n 2
  let t := t.when (!st.testBit 0) (bootUvEnd n)
  t.when (s.get (.edge .FL_STAT_MODE) n == 0 && bits st 3 2 != s.get (.edge .LEG_STAT_SLOT_SENT) n) (fun t =>
    slotFrame n (s.get (.edge .LEG_STAT_SLOT_SENT) n) (t.on (.edge .FL_STAT_SLOT_MISM) n))

/-- TELEM: it confirms a settled rate and starts LOAD, or is stored (R268, R272, R281). -/
def telemFrame (n v : Nat) (s : State) : State :=
  if s.get (.edge .FL_AWAIT) n ≠ 6 then s
  else if s.get (.edge .FL_STAT_LSTATE) n = 3 then
      let t := (((s.set (.edge .FL_STAT_RATE) (s.get (.edge .FL_S_RATE) n) n).set (.edge .FL_STAT_MODE)
        (s.get (.edge .FL_S_MODE) n - 1) n).set (.edge .FL_SET_TEL) (s.get (.edge .FL_S_TEL) n) n).set (.edge .FL_SET_DIAG)
        (s.get (.edge .FL_S_DIAG) n) n
      sendProfile n 0 ((toState n 4 t).off (.edge .FL_LOAD_IX) n)
  else if s.get (.edge .FL_STAT_LSTATE) n = 5 ∨ s.get (.edge .FL_STAT_LSTATE) n = 6 then storeTelem n v (answered n s)
  else answered n s

/-- TELEM_POLL_TIMER: TEL_INT microseconds have passed; polled only in UP (R281). -/
def telemPollTimer (n : Nat) (s : State) : State :=
  if s.get (.edge .FL_STAT_LSTATE) n = 5 ∧ s.get (.edge .FL_POLL) ≠ 0 ∧
      s.get (.edge .FL_POLL_AT) n + us (s.get (.edge .FL_POLL)) ≤ s.now then
    ask n 6 0 (s.set (.edge .FL_POLL_AT) s.now n) else s

/-- ALERT: the alert byte; bit 0 is the bootstrap report of a stage that declares BOOT (R219, R264, R281). -/
def alertFrame (n v : Nat) (s : State) : State :=
  let t := s.set (.edge .FL_ALERT) v n
  if bits (s.get (.edge .FL_CAP) n 1) 8 1 = 1 then (if v.testBit 0 then bootUvReport n t else bootUvEnd n t) else t

/-- FAULT_DATA: the cause is stored; a reserved cause is no valid reply (R259). -/
def faultData (n cause : Nat) (s : State) : State :=
  if s.get (.edge .FL_AWAIT) n ≠ 9 then s
  else (answered n s).set (.edge .FL_STAT_FCAUSE) (if cause ≤ 7 then cause else 0xFF) n

/-- DIAG_DATA: the results are stored and the link returns to UP (R272, R282). -/
def diagData (n gate node desat : Nat) (s : State) : State :=
  if s.get (.edge .FL_STAT_LSTATE) n ≠ 6 ∨ s.get (.edge .FL_AWAIT) n ≠ 8 then s
  else toState n 5 ((((answered n s).set (.edge .FL_DIAG_RES_GATE) gate n).set (.edge .FL_DIAG_RES_NODE) node n).set
    (.edge .FL_DIAG_RES_DESAT) desat n)

/-- DIAG_POLL: DIAG_READ every 100 us while in DIAG (R282). -/
def diagPoll (n : Nat) (s : State) : State :=
  if s.get (.edge .FL_STAT_LSTATE) n = 6 ∧ s.get (.edge .FL_DIAG_AT) n + us 100 ≤ s.now then
    ask n 8 0 (s.set (.edge .FL_DIAG_AT) s.now n) else s

/-- RELINK: LINK_RESET and DOWN; refused with CFG_BUSY while the group is enabled (EDGE_FL[n]_CTRL). -/
def relink (n : Nat) (s : State) : State :=
  if s.legEnabled n then s.on (.edge .FL_STAT_CFG_BUSY) n else linkDown n (s.send .lane n 0x0B)

/-- STAGE_CLR: STAGE_CLEAR at the rate last settled (R259). -/
def stageClr (n : Nat) (s : State) : State := ask n 0x0A 0 s

/-- DIAG_GO: accepted only in UP, with the leg's group disabled and both channels commanding off (R282). -/
def diagGo (n : Nat) (s : State) : State :=
  if s.get (.edge .FL_STAT_LSTATE) n = 5 ∧ !s.legEnabled n ∧ !s.flag (.edge .LEG_STAT_HI) n ∧ !s.flag (.edge .LEG_STAT_LO) n then
    ask n 7 (s.get (.edge .FL_DIAG_MASK) n &&& s.get (.edge .FL_SET_DIAG) n) ((toState n 6 s).set (.edge .FL_DIAG_AT) s.now n)
  else s.on (.edge .FL_STAT_DIAG_REF) n

/-- TEL_NOW: one poll at once in UP or DIAG, ignored otherwise (R281). -/
def telNow (n : Nat) (s : State) : State :=
  if s.get (.edge .FL_STAT_LSTATE) n = 5 ∨ s.get (.edge .FL_STAT_LSTATE) n = 6 then ask n 6 0 s else s

/-- PROFILE_SLOT_WRITE: discarded with CFG_BUSY while the leg's group is enabled; sent at once in UP (R284). -/
def profileWrite (n k v : Nat) (s : State) : State :=
  if s.legEnabled n then s.on (.edge .FL_STAT_CFG_BUSY) n
  else
    let t := s.set (.edge .FL_PROF) v n k
    if s.get (.edge .FL_STAT_LSTATE) n = 5 then ask n 3 (k + 2 ^ 8 * v) t else t

/-- A write of a link's CTRL register: its four bits act (EDGE_FL[n]_CTRL). -/
def linkCtrl (n v : Nat) (s : State) : State :=
  let t := s.when (v.testBit 0) (relink n)
  let t := t.when (v.testBit 1) (stageClr n)
  let t := t.when (v.testBit 2) (diagGo n)
  t.when (v.testBit 3) (telNow n)

/-- HEARTBEAT_TRANSITION (R257). -/
def execHeartbeatTransition (n : LinkIx) (s : State) : Host.Outcome State Fault Refusal := done (linkEvent (heartbeat n.val) s)
/-- FAULT_INSTANT (R257). -/
def execFaultInstant (n : LinkIx) (pos : Bool) (s : State) : Host.Outcome State Fault Refusal := done (linkEvent (faultInstant n.val pos) s)
/-- LINK_WAIT_EXPIRY (R272). -/
def execLinkWaitExpiry (n : LinkIx) (s : State) : Host.Outcome State Fault Refusal := done (linkEvent (linkWaitExpiry n.val) s)
/-- CAP (R267). DEDUCED, log entry 39. -/
def execCap (n : LinkIx) (c : BitVec 128) (s : State) : Host.Outcome State Fault Refusal := done (linkEvent (capFrame n.val c.toNat) s)
/-- ACK (R268). -/
def execAck (n : LinkIx) (code : BitVec 7) (echo : Word) (s : State) : Host.Outcome State Fault Refusal :=
  done (linkEvent (ackFrame n.val code.toNat echo.toNat) s)
/-- RATE_CHANGE_SILENCE_END (R268). -/
def execRateChangeSilenceEnd (n : LinkIx) (s : State) : Host.Outcome State Fault Refusal := done (linkEvent (silenceEnd n.val) s)
/-- NAK (R269). DEDUCED, log entry 39. -/
def execNak (n : LinkIx) (code : BitVec 7) (cause : BitVec 8) (s : State) : Host.Outcome State Fault Refusal :=
  done (linkEvent (nakFrame n.val code.toNat cause.toNat) s)
/-- REPLY_TIMEOUT (R263). DEDUCED, log entry 39. -/
def execReplyTimeout (n : LinkIx) (s : State) : Host.Outcome State Fault Refusal := done (linkEvent (replyTimeout n.val) s)
/-- SETTLE_RETRY_WAIT (R269). -/
def execSettleRetryWait (n : LinkIx) (s : State) : Host.Outcome State Fault Refusal := done (linkEvent (settleRetry n.val) s)
/-- FAIL_TIMEOUT (R269). -/
def execFailTimeout (n : LinkIx) (s : State) : Host.Outcome State Fault Refusal := done (linkEvent (failTimeout n.val) s)
/-- LANE_FRAME_ERROR (R262). -/
def execLaneFrameError (n : LinkIx) (crc : Bool) (s : State) : Host.Outcome State Fault Refusal := done (linkEvent (laneFrameError n.val crc) s)
/-- TELEM (R281). -/
def execTelem (n : LinkIx) (v : BitVec 96) (s : State) : Host.Outcome State Fault Refusal := done (linkEvent (telemFrame n.val v.toNat) s)
/-- TELEM_POLL_TIMER (R281). -/
def execTelemPollTimer (n : LinkIx) (s : State) : Host.Outcome State Fault Refusal := done (linkEvent (telemPollTimer n.val) s)
/-- ALERT (R264). -/
def execAlert (n : LinkIx) (v : BitVec 8) (s : State) : Host.Outcome State Fault Refusal := done (linkEvent (alertFrame n.val v.toNat) s)
/-- FAULT_DATA (R259). -/
def execFaultData (n : LinkIx) (cause : BitVec 8) (s : State) : Host.Outcome State Fault Refusal :=
  done (linkEvent (faultData n.val cause.toNat) s)
/-- DIAG_DATA (R282). -/
def execDiagData (n : LinkIx) (gate node desat : BitVec 8) (s : State) : Host.Outcome State Fault Refusal :=
  done (linkEvent (diagData n.val gate.toNat node.toNat desat.toNat) s)
/-- DIAG_POLL (R282). -/
def execDiagPoll (n : LinkIx) (s : State) : Host.Outcome State Fault Refusal := done (linkEvent (diagPoll n.val) s)
/-- RELINK (R272). -/
def execRelink (w : Who) (n : LinkIx) (s : State) : Host.Outcome State Fault Refusal :=
  done (sideband w (linkAddr n.val + 4) 1 (relink n.val) s)
/-- STAGE_CLR (R259). -/
def execStageClr (w : Who) (n : LinkIx) (s : State) : Host.Outcome State Fault Refusal :=
  done (sideband w (linkAddr n.val + 4) 2 (stageClr n.val) s)
/-- DIAG_GO (R282). -/
def execDiagGo (w : Who) (n : LinkIx) (s : State) : Host.Outcome State Fault Refusal :=
  done (sideband w (linkAddr n.val + 4) 4 (diagGo n.val) s)
/-- TEL_NOW (R281). -/
def execTelNow (w : Who) (n : LinkIx) (s : State) : Host.Outcome State Fault Refusal :=
  done (sideband w (linkAddr n.val + 4) 8 (telNow n.val) s)
/-- PROFILE_SLOT_WRITE (R284). -/
def execProfileSlotWrite (w : Who) (n : LinkIx) (k : Fin 4) (v : Word) (s : State) : Host.Outcome State Fault Refusal :=
  done (sideband w (linkAddr n.val + 0x20 + 4 * k.val) v.toNat (profileWrite n.val k.val v.toNat) s)

end Sys2Proof.Machine
end

