-- ==== Sys2Proof/Machine/SafetyIsland.lean ====
section
/-!
DEFINITION. The safety island (chapter 13): voting, core pairs, watchdogs and reactions, contactors, debug access.
-/
namespace Sys2Proof.Machine
open Sys2Proof

/-- Seconds in fine ticks. -/
def secs (n : Nat) : Nat := n * 6400000000

/-- The safety cores are held in reset after a fatal mismatch (R460). -/
def State.safHeld (s : State) : Bool := s.get (.saf .TMR_STAT_MODE) == 3

/-- A fatal mismatch, done by hardware: every force bit, the all-open sequence, SAFE_HOLD with CAUSE 0x06, the cores held
(R460). -/
def fatalMismatch (s : State) : State :=
  let t := openDrivers 0xFF true (setSafForce 0xFFFF 5 s)
  let t := (((t.set (.saf .AXLE_MODE_PREV) (s.get (.saf .AXLE_MODE_MODE))).set (.saf .AXLE_MODE_MODE) 6).set
    (.saf .AXLE_MODE_CAUSE) 6).off (.saf .AXLE_MODE_BUSY)
  (t.on (.saf .HOLD_LATCHED)).set (.saf .TMR_STAT_MODE) 3

/-- The reaction to a mismatch: one core odd (`some c`), or no majority (`none`). The third time within 10 s the odd core is
retired; a mismatch after a first one, or in PAIR_RETIRED, is fatal (R457, R459, R460). -/
def tmrMismatch (odd : Option Nat) (kind : Nat) (s : State) : State :=
  let t := (s.on (.saf .TMR_STAT_MISMATCH)).set (.saf .TMR_STAT_KIND) kind
  match s.get (.saf .TMR_STAT_MODE), odd with
  | 0, some c =>
    let third := s.get (.saf .TMR_T1) c != 0 && decide (s.now < s.get (.saf .TMR_T1) c - 1 + secs 10)
    let t := ((t.set (.saf .TMR_STAT_ODD) c).set (.saf .TMR_T1) (s.get (.saf .TMR_T2) c) c).set (.saf .TMR_T2) (s.now + 1) c
    if third then ((t.setBit (.saf .TMR_STAT_RETIRED) c).set (.saf .TMR_STAT_MODE) 2).send .level5 459 c
    else t.set (.saf .TMR_STAT_MODE) 1
  | 3, _ => s
  | _, _ => fatalMismatch t

/-- The cores that compare: all three, or without the odd or the retired one (R457, R459). -/
def State.votingCores (s : State) : List Nat :=
  match s.get (.saf .TMR_STAT_MODE) with
  | 0 => [0, 1, 2]
  | 1 => [0, 1, 2].filter (· != s.get (.saf .TMR_STAT_ODD))
  | 2 => [0, 1, 2].filter (fun c => !s.bit (.saf .TMR_STAT_RETIRED) c)
  | _ => []

/-- The majority of the compared items of the cores that vote (R454, R455). -/
def majority (l : List Nat) (x : Nat → Nat) : Option Nat :=
  (l.find? (fun c => decide (l.length < 2 * (l.filter (fun d => x d == x c)).length))).map x

/-- TMR_MISMATCH: the voter compares an item of the three cores, `x`; the majority value of a store to a local memory is written. One core that
differs from two is odd; without a majority the mismatch is three-way, and between a pair it is fatal (R454 to R457, R460). -/
def tmrCompare (kind : Nat) (word : Option Nat) (x : Nat → Nat) (s : State) : State :=
  let l := s.votingCores
  match majority l x, word with
  | none, _ => if l.isEmpty then s else tmrMismatch none (if l.length = 3 then 3 else kind) s
  | some v, w =>
    let t := match w with | some i => s.set (.saf .LM) v i | none => s
    match l.find? (fun c => x c != v) with
    | some c => tmrMismatch (some c) kind t
    | none => t

/-- RESYNC_COMPLETE: the pair's local state is copied into the odd core, the two copies being compared, and the three cores restart together; a
difference between the copies is fatal (R458, R460). -/
def resyncComplete (s : State) : State :=
  if s.get (.saf .TMR_STAT_MODE) = 1 then
    match majority s.votingCores (fun c => s.get (.saf .CORE) c) with
    | none => fatalMismatch (s.on (.saf .TMR_STAT_MISMATCH))
    | some v => ((((s.set (.saf .CORE) v (s.get (.saf .TMR_STAT_ODD))).off (.saf .TMR_STAT_MODE)).on (.saf .TMR_STAT_RESYNC_SEEN)).incSat
        (.saf .TMR_STAT_RESYNC_CNT)).send .level5 458
  else s

/-- The groups owned by a pair and those of its GRPS; an owner field that names a split pair for OG0 to OG8 acts as none
(R464, R468). -/
def State.pairGroups (s : State) (p : Nat) : Nat :=
  ((List.range 16).filter (fun g => s.get (.edge .OWN) g == p + 1 &&
    !(s.get (.saf .CP_STATE) p == 1 && decide (g ≤ 8)))).foldl (fun m g => m ||| 2 ^ g) (s.get (.saf .CP_GRPS) p)

/-- LOCKSTEP_MISMATCH: the pair halts; a second one within 1 h is remembered for its retirement (R463, R465). -/
def lockstepMismatch (p : Nat) (s : State) : State :=
  if s.get (.saf .CP_STATE) p ≠ 0 then s
  else
    let second := s.get (.saf .CP_MM_AT) p != 0 && decide (s.now < s.get (.saf .CP_MM_AT) p - 1 + secs 3600)
    ((((s.on (.saf .CP_MISMATCH) p).set (.saf .CP_STATE) 2 p).set (.saf .CP_MM_AT) (s.now + 1) p).setB
      (.saf .CP_SECOND) second p).send .level4 463 p

/-- PAIR_RESTART: the pair's groups are forced and the pair restarts, or stays away for good after a second mismatch within
1 h (R464, R465). -/
def pairRestart (p : Nat) (s : State) : State :=
  let t := setSafForce (s.pairGroups p) 3 s
  if s.get (.saf .CP_STATE) p = 3 then s
  else if s.get (.saf .CP_STATE) p = 2 ∧ s.flag (.saf .CP_SECOND) p then t.set (.saf .CP_STATE) 3 p
  else if s.get (.saf .CP_STATE) p = 1 then t
  else (t.off (.saf .CP_STATE) p).off (.saf .CP_OWNER_READY) p

/-- PAIR_READY_REPORT: the drive firmware on the pair reports its functions ready; the safety island releases those force bits
(R464), unless the pair is retired (R465). -/
def pairReady (p : Nat) (s : State) : State :=
  if s.get (.saf .CP_STATE) p = 3 ∨ s.get (.saf .CP_STATE) p = 2 then s
  else dropSafForce (s.pairGroups p) 3 (s.on (.saf .CP_OWNER_READY) p)

/-- The island whose answer or kick a watchdog watches (Table: Watchdogs); the pairs' watchdogs watch software. -/
def wdIsland (w : Nat) : Nat :=
  match w with | 9 => 6 | 10 => 7 | 11 => 8 | 12 => 9 | 13 => 10 | 14 => 11 | 15 => 12 | 0 => 1 | _ => 2 + (w - 1) / 2

/-- The watchdog counts: enabled, and its pair neither split nor halted (R467, R492). -/
def State.wdActive (s : State) (w : Nat) : Bool :=
  s.flag (.saf .WD_CFG_EN) w && !(1 ≤ w && w ≤ 8 && (s.get (.saf .CP_STATE) (w - 1) == 1 || s.flag (.saf .CP_DBG_HALT) (w - 1)) : Bool)

/-- A miss of a watchdog (R474, R475). -/
def wdMiss (w : Nat) (s : State) : State :=
  ((s.on (.saf .WD_STAT_MISS) w).incSat (.saf .WD_STAT_MRUN) w).incSat (.saf .WD_STAT_MCNT) w

/-- WATCHDOG_KICK: good from the watched initiator with the complement of TOKEN, at least OPEN after the previous good kick;
TOKEN then advances, to a value the specification does not state; anything else is a miss (R475). -/
def wdKick (k : Who) (w key : Nat) (s : State) : State :=
  if s.flag (.saf .WD_CFG_KIND) w ∨ !s.wdActive w then s
  else
    let good := wdWho w k && key == 0xFFFF - s.get (.saf .WD_KICK_TOKEN) w &&
      (!s.flag (.saf .WD_OPENED) w || decide (s.get (.saf .WD_GOOD_AT) w + us (10 * s.get (.saf .WD_CFG_OPEN) w) ≤ s.now))
    if good then ((((s.setFree (.saf .WD_KICK_TOKEN) w).off (.saf .WD_STAT_MRUN) w).set (.saf .WD_GOOD_AT) s.now w).on
      (.saf .WD_OPENED) w).set (.saf .WD_AT) s.now w
    else wdMiss w s

/-- WATCHDOG_CLOSE_EXPIRY: no good kick by CLOSE, counted from the last good kick, the last such miss, or the enable (R475). DEDUCED,
log entry 71. -/
def wdClose (w : Nat) (s : State) : State :=
  if s.flag (.saf .WD_CFG_KIND) w ∨ !s.wdActive w ∨ s.now < s.get (.saf .WD_AT) w + us (10 * s.get (.saf .WD_CFG_CLOSE) w) then s
  else (wdMiss w s).set (.saf .WD_AT) s.now w

/-- WATCHDOG_PROBE: the answer of the watched island's ISLAND_ID, read every CLOSE period; no probe is made while the island is out of RUN on request
(R474). -/
def wdProbe (w : Nat) (ans : Option Nat) (s : State) : State :=
  let n := wdIsland w
  if !s.flag (.saf .WD_CFG_KIND) w ∨ !s.wdActive w ∨ s.get (.saf .ISL_STAT_STATE) n ≠ 0 ∨
      s.now < s.get (.saf .WD_AT) w + us (10 * s.get (.saf .WD_CFG_CLOSE) w) then s
  else
    let t := s.set (.saf .WD_AT) s.now w
    if ans = some (islandId n) then t.off (.saf .WD_STAT_MRUN) w else wdMiss w t

/-- Permitted states of an island as Table: Islands lists them, for a request through SAF_ISL[n]_CTRL (R15). -/
def permitted (n st : Nat) : Bool :=
  if st ≥ 6 then false
  else match n with
  | 0 => st == 0
  | 12 => st == 0
  | 8 => st == 0 || st == 4
  | 13 => st == 0 || st == 2 || st == 3 || st == 5
  | _ => true

/-- The transitions of Table: Island transitions (R17). -/
def listed (a b : Nat) : Bool :=
  match b with
  | 1 => a == 0
  | 2 => a == 0 || a == 1
  | 3 => a == 0 || a == 1 || a == 2 || a == 4
  | 5 => a != 3 && a != 5
  | 4 => a == 0
  | 0 => a == 1 || a == 2 || a == 3 || a == 5 || a == 4
  | _ => false

/-- Start an island transition. A drain begins towards GATED, RETAIN and OFF from RUN; ISOLATED and RESET close at once
(R17, R38, R39); a transition of MEM out of RUN first puts DRAM in self-refresh (R622). -/
def beginIsland (n st : Nat) (s : State) : State :=
  let t := (((s.on (.saf .ISL_STAT_BUSY) n).set (.saf .ISL_TGT) st n).on (.saf .ISL_ASKED) n).set (.saf .ISL_AT) s.now n
  t.when (n == 10 && s.get (.saf .ISL_STAT_STATE) n == 0) (·.on (.mem .STAT_SELFREF))

/-- The island to which a reaction of an escalation applies, forced through GRD_SAF_FORCE (R21, R476). -/
def forceDependents (n : Nat) (s : State) : State := setSafForce (s.get (.saf .ISL_DEP) n) 3 s

/-- The next step of a restart: ISOLATED from RUN (LAG has no such state), then RESET, then RUN; an island in OFF or RESET goes
straight to RUN (R17, R35, R476, R477). -/
def continuePlan (n : Nat) (s : State) : State :=
  let st := s.get (.saf .ISL_STAT_STATE) n
  match s.get (.saf .ISL_PLAN) n with
  | 3 =>
    if st = 0 ∧ n ≠ 13 then beginIsland n 4 (s.set (.saf .ISL_PLAN) 2 n)
    else if st = 3 ∨ st = 5 then beginIsland n 0 (s.off (.saf .ISL_PLAN) n)
    else beginIsland n 5 (s.set (.saf .ISL_PLAN) 1 n)
  | 2 => beginIsland n 5 (s.set (.saf .ISL_PLAN) 1 n)
  | 1 => beginIsland n 0 (s.off (.saf .ISL_PLAN) n)
  | _ => s

/-- Move an island through ISOLATED and RESET back to RUN; a transition in progress ends first (R18, R35, R476, R477). -/
def restartIsland (n : Nat) (s : State) : State :=
  let t := (forceDependents n s).set (.saf .ISL_PLAN) 3 n
  if s.flag (.saf .ISL_STAT_BUSY) n then t else continuePlan n t

/-- Apply a reaction of Table: Safety reactions to an island, with the substitutions of R477. -/
def islandReaction (n code : Nat) (s : State) : State :=
  let c := if n = 0 ∧ code ≠ 0 then 3 else if n = 12 ∧ (code = 1 ∨ code = 2) then 0 else if n = 8 ∧ code = 2 then 3 else code
  match c with
  | 0 => s.send .level5 476 n
  | 1 => forceDependents n (s.send .level5 476 n)
  | 2 => restartIsland n (s.send .level5 476 n)
  | _ => enterSafeHold 4 s

/-- Apply a reaction to a core pair: RESTART restarts the pair (R464, R476). -/
def pairReaction (p code : Nat) (s : State) : State :=
  match code with
  | 0 => s.send .level5 476 (256 + p)
  | 1 => setSafForce (s.pairGroups p) 3 (s.send .level5 476 (256 + p))
  | 2 => pairRestart p (s.send .level5 476 (256 + p))
  | _ => enterSafeHold 4 s

/-- WATCHDOG_REACTION: MLIM consecutive misses (0 acting as 1) apply REACT (R476). -/
def wdReaction (w : Nat) (s : State) : State :=
  if s.wdActive w ∧ s.get (.saf .WD_STAT_MRUN) w ≥ max 1 (s.get (.saf .WD_CFG_MLIM) w) then
    let t := s.on (.saf .WD_STAT_FIRED) w
    if 1 ≤ w ∧ w ≤ 8 then pairReaction (w - 1) (s.get (.saf .WD_CFG_REACT) w) t
    else islandReaction (wdIsland w) (s.get (.saf .WD_CFG_REACT) w) t
  else s

/-- Set the safety lock and every island lock; the guard island shows it (R478). -/
def setLock (s : State) : State :=
  (((s.on (.saf .LOCK_LOCK)).off (.saf .LOCK_WINDOW)).set (.saf .LOCK_ISL_LOCK) 0x3FFF).on (.grd .STAT_LOCKED)

/-- Energise a coil driver: 100 % until its PULL time is over (R484). -/
def closeDriver (c : Nat) (s : State) : State :=
  (((s.on (.saf .CD_STAT_ON) c).off (.saf .CD_STAT_HOLDING) c).incSat (.saf .CD_STAT_CLOSES) c).set (.saf .PULL_AT) (s.now + 1) c

/-- The PULL time of an energised driver is over (R484). -/
def State.pulled (s : State) (c : Nat) : Bool :=
  decide (s.get (.saf .PULL_AT) c + us (10000 * max 1 (s.get (.saf .CD_CFG_PULL) c)) ≤ s.now + 1)

/-- The driver may close: its MODES bit is set for the present mode, or for the target of a mode change in progress; never
during EXTEST (R484, R493). -/
def State.mayClose (s : State) (c : Nat) : Bool :=
  !s.flag (.saf .EXTEST) && !s.safHeld && (s.bit (.saf .CD_CFG_MODES) (s.get (.saf .AXLE_MODE_MODE)) c ||
    (s.flag (.saf .AXLE_MODE_BUSY) && s.bit (.saf .CD_CFG_MODES) (s.get (.saf .MODE_TGT)) c))

/-- CONTACTOR_CLOSE_REQUEST: refused where the driver's MODES do not permit it (R484). -/
def closeRequest (c : Nat) (s : State) : State :=
  if s.mayClose c then (if s.flag (.saf .CD_STAT_ON) c then s else closeDriver c s) else s.on (.saf .CD_STAT_REFUSED) c

/-- COIL_PULL_END: the driver goes to its hold duty; the pack sequence goes on from CD1 to CD2, and from CD0 to CLOSED
(R484, R488). -/
def pullEnd (c : Nat) (s : State) : State :=
  if !s.flag (.saf .CD_STAT_ON) c ∨ s.flag (.saf .CD_STAT_HOLDING) c ∨ !s.pulled c then s
  else
    let t := s.on (.saf .CD_STAT_HOLDING) c
    if c = 1 ∧ s.get (.saf .CSEQ_PSTATE) = 1 then (closeDriver 2 t).set (.saf .CSEQ_PSTATE) 2
    else if c = 0 ∧ s.get (.saf .CSEQ_PSTATE) = 2 then
      ((t.off (.saf .CD_STAT_ON) 2).off (.saf .CD_STAT_HOLDING) 2).set (.saf .CSEQ_PSTATE) 3
    else t

/-- Start the pack-close sequence, refused while BMS_STATUS is absent (R488). -/
def packClose (s : State) : State := ((closeDriver 1 s).set (.saf .CSEQ_PSTATE) 1).set (.saf .PACK_AT) (s.now + 1)

/-- PACK_PRECHARGE_COMPARE: FC0 in 0.1 V against V_PACK; within PRE_TOL volts CD0 closes (R488). -/
def prechargeCompare (v : Nat) (s : State) : State :=
  if s.get (.saf .CSEQ_PSTATE) = 2 ∧ s.flag (.saf .CD_STAT_ON) 2 ∧ !s.flag (.saf .CD_STAT_ON) 0 ∧
      ((v : Int) - s.get (.drv .BMS_V_PACK)).natAbs ≤ 10 * s.get (.saf .CSEQ_PRE_TOL) then closeDriver 0 s
  else s

/-- PACK_PRECHARGE_TIMEOUT: step 4 was not reached within PRE_TMO: the three drivers open, PSTATE reads FAILED, the axle stays
in STOWED with REFUSED (R488). -/
def prechargeTimeout (s : State) : State :=
  if (s.get (.saf .CSEQ_PSTATE) = 1 ∨ s.get (.saf .CSEQ_PSTATE) = 2) ∧ !s.flag (.saf .CD_STAT_ON) 0 ∧
      s.get (.saf .PACK_AT) + us (10000 * s.get (.saf .CSEQ_PRE_TMO)) ≤ s.now + 1 then
    let t := s.forUpTo 3 (fun c t => (t.off (.saf .CD_STAT_ON) c).off (.saf .CD_STAT_HOLDING) c)
    ((t.set (.saf .CSEQ_PSTATE) 5).off (.saf .AXLE_MODE_BUSY)).on (.saf .AXLE_MODE_REFUSED)
  else s

/-- COIL_FAULT: OPEN_LOAD of a commanded coil, or SHORT, which turns it off; a fault on CD0 to CD2 enters SAFE_HOLD, one on
another driver is handed to its function (chapter 13, When a coil driver faults). -/
def coilFault (c : Nat) (short : Bool) (s : State) : State :=
  if !s.flag (.saf .CD_STAT_ON) c then s
  else
    let t := if short then ((s.on (.saf .CD_STAT_SHORT) c).off (.saf .CD_STAT_ON) c).off (.saf .CD_STAT_HOLDING) c
      else s.on (.saf .CD_STAT_OPEN_LOAD) c
    let t := t.send .level4 484 c
    if c ≤ 2 then enterSafeHold 4 t else t

/-- A JTAG instruction: without an unlock only BYPASS (0), IDCODE (1) and SAMPLE/PRELOAD (2) are served (R489). -/
def jtagInstruction (i : Nat) (s : State) : State :=
  if i ≤ 2 ∨ s.flag (.saf .DBG_UNLOCKED) then ((s.set (.saf .JTAG_IR) i).off (.saf .EXTEST)).answer .ok else s.answer .accessError

/-- EXTEST: accepted under an unlock while every group latch is set; the pairs, the coils and S2 stay off (R489, R493). -/
def extest (s : State) : State :=
  if s.flag (.saf .DBG_UNLOCKED) ∧ s.get (.grd .OG_LATCH) = 0xFFFF then
    let t := (s.on (.saf .EXTEST)).set (.saf .JTAG_IR) 3
    let t := t.forUpTo 41 (setOut · false false)
    let t := t.forUpTo 8 (fun c u => (u.off (.saf .CD_STAT_ON) c).off (.saf .CD_STAT_HOLDING) c)
    (t.off (.sns .CP_STAT_S2_ON)).answer .ok
  else s.answer .accessError

/-- Base of the SAF window. -/
def safBase : Nat := 0x1000000000

/-- TMR_MISMATCH (R457). -/
def execTmrMismatch (kind : Fin 3) (word : Option (Fin 49152)) (x0 x1 x2 : BitVec 64) (s : State) : Host.Outcome State Fault Refusal :=
  done (tmrCompare kind.val (word.map (·.val)) (fun c => if c = 0 then x0.toNat else if c = 1 then x1.toNat else x2.toNat) s)
/-- RESYNC_COMPLETE (R458). -/
def execResyncComplete (s : State) : Host.Outcome State Fault Refusal := done (resyncComplete s)
/-- SELF_WATCHDOG_EXPIRY (R461): acts as a fatal mismatch. -/
def execSelfWatchdogExpiry (s : State) : Host.Outcome State Fault Refusal := done (if s.safHeld then s else fatalMismatch s)
/-- LOCKSTEP_MISMATCH (R463). -/
def execLockstepMismatch (p : PairIx) (s : State) : Host.Outcome State Fault Refusal := done (lockstepMismatch p.val s)
/-- PAIR_RESTART (R464). -/
def execPairRestart (p : PairIx) (s : State) : Host.Outcome State Fault Refusal := done (pairRestart p.val s)
/-- PAIR_READY_REPORT (R464). -/
def execPairReadyReport (p : PairIx) (s : State) : Host.Outcome State Fault Refusal := done (pairReady p.val s)
/-- A write of a watchdog's KEY that the firewall has refused, since it comes from another initiator, is a miss too (R470, R472,
R475); `t` is the state the access left. -/
def refusedKick (k : Who) (a key : Nat) (t : State) : State :=
  if t.resp = .error 3 (some 0) ∧ safBase + 0x400 ≤ a ∧ a < safBase + 0x500 ∧ a % 16 = 4 then wdKick k ((a - (safBase + 0x400)) / 16) key t
  else t

/-- WATCHDOG_KICK (R475). -/
def execWatchdogKick (k : Who) (w : Fin 16) (key : Half) (s : State) : Host.Outcome State Fault Refusal :=
  let a := safBase + 0x404 + 0x10 * w.val
  done (refusedKick k a key.toNat (sideband k a (key.toNat * 65536) (wdKick k w.val key.toNat) s))
/-- WATCHDOG_CLOSE_EXPIRY (R475). -/
def execWatchdogCloseExpiry (w : Fin 16) (s : State) : Host.Outcome State Fault Refusal := done (wdClose w.val s)
/-- WATCHDOG_PROBE (R474). -/
def execWatchdogProbe (w : Fin 16) (ans : Option Word) (s : State) : Host.Outcome State Fault Refusal :=
  done (wdProbe w.val (ans.map (·.toNat)) s)
/-- WATCHDOG_REACTION (R476). -/
def execWatchdogReaction (w : Fin 16) (s : State) : Host.Outcome State Fault Refusal := done (wdReaction w.val s)
/-- LOCK (R478): the safety island sets the lock at the end of boot. -/
def execLock (s : State) : Host.Outcome State Fault Refusal := done (if s.safHeld then s else setLock s)
/-- CONTACTOR_CLOSE_REQUEST (R484). DEDUCED, log entry 47. -/
def execContactorCloseRequest (c : Fin 8) (s : State) : Host.Outcome State Fault Refusal := done (closeRequest c.val s)
/-- COIL_PULL_END (R484). -/
def execCoilPullEnd (c : Fin 8) (s : State) : Host.Outcome State Fault Refusal := done (pullEnd c.val s)
/-- OPENING_GAP_EXPIRY (R486). -/
def execOpeningGapExpiry (s : State) : Host.Outcome State Fault Refusal := done (openGap s)
/-- PACK_PRECHARGE_COMPARE (R488). -/
def execPackPrechargeCompare (v : Half) (s : State) : Host.Outcome State Fault Refusal := done (prechargeCompare v.toNat s)
/-- PACK_PRECHARGE_TIMEOUT (R488). -/
def execPackPrechargeTimeout (s : State) : Host.Outcome State Fault Refusal := done (prechargeTimeout s)
/-- COIL_FAULT (R484). -/
def execCoilFault (c : Fin 8) (short : Bool) (s : State) : Host.Outcome State Fault Refusal := done (coilFault c.val short s)
/-- JTAG_INSTRUCTION (R489). -/
def execJtagInstruction (i : Fin 6) (s : State) : Host.Outcome State Fault Refusal :=
  done (if i.val = 3 then extest s else jtagInstruction i.val s)
/-- EXTEST (R493). -/
def execExtest (s : State) : Host.Outcome State Fault Refusal := done (extest s)

end Sys2Proof.Machine
end

