-- ==== Sys2Proof/Machine/Sensing.lean ====
section
/-!
DEFINITION. The sense island (R285 to R317): sigma-delta inputs with trip filters, fast converters, resolvers, housekeeping.
-/
namespace Sys2Proof.Machine
open Sys2Proof

/-- Base address of the sense island. -/
def snsBase : Nat := 0x1060000000
/-- Address of SNS_SD[c]_CFG. -/
def sdAddr (c : Nat) : Nat := snsBase + 0x100 + 0x10 * c
/-- Address of SNS_FC[c]_CFG. -/
def fcAddr (c : Nat) : Nat := snsBase + 0x400 + 0x10 * c
/-- Address of SNS_RES[r]_CFG. -/
def resAddr (r : Nat) : Nat := snsBase + 0x500 + 0x20 * r

/-- A write of SNS_SDCLK[k] (R287). -/
def sdclkWrite (k v : Nat) (s : State) : State :=
  let busy := (List.range 24).any (fun c => s.flag (.sns .SD_CFG_EN) c && s.get (.sns .SD_CFG_CLKSEL) c == k)
  let t := s.clrMask (.sns .SDCLK_CLK_BUSY) (bits v 8 1) k
  if v % 4 ≠ s.get (.sns .SDCLK_FREQ) k ∧ busy then t.on (.sns .SDCLK_CLK_BUSY) k
  else (t.set (.sns .SDCLK_FREQ) (v % 4) k).when (v % 4 != s.get (.sns .SDCLK_FREQ) k) (·.set (.sns .SDCLK_AT) s.now k)

/-- Modulator period in nanoseconds; 0 where the clock is held low (R286). -/
def State.sdPeriod (s : State) (k : Nat) : Nat :=
  match s.get (.sns .SDCLK_FREQ) k with | 1 => 100 | 2 => 50 | 3 => 40 | _ => 0

/-- The trip setting detects within 1,200 ns at the clock (R297). -/
def State.tripOk (s : State) (clk tlen tcnt : Nat) : Bool :=
  s.sdPeriod clk != 0 && decide ((2 * clampN 4 16 tlen + tcnt) * s.sdPeriod clk + 50 ≤ 1200)

/-- TRIP and the trip source as the trip filter and a stuck input leave them (R296, R298). DEDUCED, log entry 42. -/
def sdSource (c : Nat) (s : State) : State :=
  let on := s.flag (.sns .SD_VT) c || (s.flag (.sns .SD_STAT_STUCK) c && s.flag (.sns .SD_CFG_STUCK_TRIP) c)
  let t := s.setB (.sns .SD_STAT_TRIP) on c
  if on then (if s.flag (.sns .SD_STAT_TRIP) c then t else assertSource (24 + c) t)
  else if s.flag (.sns .SD_STAT_TRIP) c then deassertSource (24 + c) t else t

/-- The channel begins to fill its filters (R294). -/
def sdRefill (c : Nat) (s : State) : State :=
  (((((s.off (.sns .SD_STAT_VALID) c).off (.sns .SD_PROC) c).off (.sns .SD_WAIT) c).off (.sns .SD_NB) c).off (.sns .SD_ARM) c).off
    (.sns .SD_K) c

/-- A channel that is disabled or begins anew holds no result and no trip (R294). -/
def sdRestart (c : Nat) (s : State) : State :=
  let t := ((((sdRefill c s).off (.sns .SD_STAT_STUCK) c).off (.sns .SD_VT) c).off (.sns .SD_SAME) c).off (.sns .SD_OUTN) c
  sdSource c ((t.off (.sns .SD_INN) c).set (.sns .SD_AT) s.now c)

/-- A write of SNS_SD[c]_CFG (R294, R297). RWL fields a lock freezes keep their values, and the checks see the values that would
result. -/
def sdCfgWrite (w : Who) (c v : Nat) (s : State) : State :=
  let t := storeWord w (sdAddr c) v s
  let chg (f : SnsFld) : Bool := s.get (.sns f) c != t.get (.sns f) c
  let was := s.flag (.sns .SD_CFG_EN) c
  let en := t.flag (.sns .SD_CFG_EN) c
  let trip := t.flag (.sns .SD_CFG_TRIP_EN) c
  if was ∧ (chg .SD_CFG_DEC ∨ chg .SD_CFG_CLKSEL ∨ chg .SD_CFG_EDGE) then
    discardWord w (sdAddr c) v (s.on (.sns .SD_STAT_CFG_BUSY) c)
  else if trip && (!s.flag (.sns .SD_CFG_TRIP_EN) c || chg .SD_CFG_TLEN || chg .SD_CFG_TCNTM1 || chg .SD_CFG_CLKSEL ||
      (en && !was)) && !t.tripOk (t.get (.sns .SD_CFG_CLKSEL) c) (t.get (.sns .SD_CFG_TLEN) c)
        (t.get (.sns .SD_CFG_TCNTM1) c + 1) then discardWord w (sdAddr c) v (s.on (.sns .SD_STAT_TRIP_REF) c)
  else if en ≠ was then sdRestart c t
  else sdSource c (t.when (!trip) (fun t => ((t.off (.sns .SD_VT) c).off (.sns .SD_OUTN) c).off (.sns .SD_INN) c))

/-- Period of a channel's modulator clock in fine ticks; 0 where it is held low (R286). -/
def State.sdTicks (s : State) (c : Nat) : Nat := s.sdPeriod (s.get (.sns .SD_CFG_CLKSEL) c) * 32 / 5

/-- Length of the data filter (R289). -/
def State.sdR (s : State) (c : Nat) : Nat := clampN 16 256 (s.get (.sns .SD_CFG_DEC) c)

/-- The channel may take and send results (R285, R294, R298). -/
def State.sdLive (s : State) (c : Nat) : Bool :=
  s.flag (.sns .SD_CFG_EN) c && s.flag (.sns .SD_STAT_VALID) c && !s.flag (.sns .SD_STAT_STUCK) c

/-- C(m, 2), 0 below 2. -/
def choose2 (m : Int) : Nat := if m < 2 then 0 else (m * (m - 1) / 2).toNat

/-- Weight of the bit `i` clocks back in a running sinc3 filter of length `r` (R289). -/
def sinc3Weight (r i : Nat) : Nat :=
  let m : Int := i + 2
  choose2 m + 3 * choose2 (m - 2 * r) - (3 * choose2 (m - r) + choose2 (m - 3 * r))

/-- Weight of the bit `i` clocks back in a running sinc2 filter of length `l` (R295). -/
def sinc2Weight (l i : Nat) : Nat := if i < l then i + 1 else 2 * l - 1 - i

/-- The weighted sum of the last `n` modulator bits. -/
def bitSum (h n : Nat) (w : Nat → Nat) : Nat := (List.range n).foldl (fun a i => if h.testBit i then a + w i else a) 0

/-- The data filter's sum over the last 3 (R - 1) + 1 bits (R289). -/
def State.sdSum (s : State) (c : Nat) : Nat := bitSum (s.get (.sns .SD_BITS) c) (3 * (s.sdR c - 1) + 1) (sinc3Weight (s.sdR c))

/-- Length of the trip filter (R295). -/
def State.sdL (s : State) (c : Nat) : Nat := clampN 4 16 (s.get (.sns .SD_CFG_TLEN) c)

/-- The normalised trip value, truncated towards zero and saturated, before OFFS and GAIN (R295). -/
def State.tripValue (s : State) (c : Nat) : Int :=
  let l := s.sdL c
  satS 16 (((2 * (bitSum (s.get (.sns .SD_BITS) c) (2 * l - 1) (sinc2Weight l) : Int) - (l * l : Nat)) * 32768).tdiv ((l * l : Nat) : Int))

/-- A result is taken: one in processing, one may wait, a third is dropped (R293). -/
def sdTake (c : Nat) (s : State) : State :=
  if !s.sdLive c then s
  else if !s.flag (.sns .SD_PROC) c then (s.on (.sns .SD_PROC) c).set (.sns .SD_SUM) (s.sdSum c) c
  else if !s.flag (.sns .SD_WAIT) c then (s.on (.sns .SD_WAIT) c).set (.sns .SD_SUM2) (s.sdSum c) c
  else s.on (.sns .SD_STAT_EVT_LOST) c

/-- The trip filter at a modulator clock: comparisons start once 2 L - 1 clocks have passed; TCNT clocks outside assert, 16 inside
deassert (R295, R296). -/
def sdTripClock (c : Nat) (s : State) : State :=
  if !s.flag (.sns .SD_CFG_TRIP_EN) c ∨ s.get (.sns .SD_NB) c < 2 * s.sdL c - 1 then s
  else
    let v := s.tripValue c
    if v > s.sget (.sns .SD_TRIP_THR_HI) c ∨ v < s.sget (.sns .SD_TRIP_THR_LO) c then
      let t := (s.incSat (.sns .SD_OUTN) c).off (.sns .SD_INN) c
      t.when (decide (s.get (.sns .SD_CFG_TCNTM1) c + 1 ≤ t.get (.sns .SD_OUTN) c)) (·.on (.sns .SD_VT) c)
    else
      let t := (s.incSat (.sns .SD_INN) c).off (.sns .SD_OUTN) c
      t.when (decide (16 ≤ t.get (.sns .SD_INN) c)) (·.off (.sns .SD_VT) c)

/-- The stuck monitor at a modulator clock: 64 clocks without a transition set STUCK, 64 with one in every 8 clear it and the channel
refills (R298). -/
def sdStuckClock (c : Nat) (s : State) : State :=
  if s.flag (.sns .SD_STAT_STUCK) c then
    let t := if 8 ≤ s.get (.sns .SD_SAME) c then s.off (.sns .SD_RUN) c else s.incSat (.sns .SD_RUN) c
    if 64 ≤ t.get (.sns .SD_RUN) c then sdRefill c ((t.off (.sns .SD_STAT_STUCK) c).off (.sns .SD_RUN) c) else t
  else if 64 ≤ s.get (.sns .SD_SAME) c then
    ((s.on (.sns .SD_STAT_STUCK) c).on (.sns .SD_STAT_STUCK_SEEN) c).off (.sns .SD_RUN) c
  else s

/-- Whether a result is due at a modulator clock at the instant `i`: every R clocks, or at the first clock at or after the arrival of
the event (R291, R292). -/
def State.sdDue (s : State) (c i : Nat) : Bool :=
  if s.flag (.sns .SD_CFG_SYNC) c then s.get (.sns .SD_ARM) c != 0 && decide (s.get (.sns .SD_ARM) c ≤ i + 1)
  else decide (s.sdR c ≤ s.get (.sns .SD_K) c)

/-- One modulator clock of a channel at the instant `i` with the sampled level `b` (R288 to R298). -/
def sdClock (c i : Nat) (b : Bool) (s : State) : State :=
  let t := if b = s.flag (.sns .SD_PIN) c then s.incSat (.sns .SD_SAME) c else (s.setB (.sns .SD_PIN) b c).off (.sns .SD_SAME) c
  let t := ((t.set (.sns .SD_BITS) (2 * s.get (.sns .SD_BITS) c + b.toNat) c).incSat (.sns .SD_NB) c).incSat (.sns .SD_K) c
  let t := sdSource c (sdStuckClock c (sdTripClock c t))
  let t := t.when (decide (3 * (t.sdR c - 1) + 1 ≤ t.get (.sns .SD_NB) c) && !t.flag (.sns .SD_STAT_STUCK) c) (·.on (.sns .SD_STAT_VALID) c)
  if t.sdDue c i then sdTake c ((t.off (.sns .SD_ARM) c).off (.sns .SD_K) c) else t

/-- How many sampling edges of a channel's clock lie at or before an instant: rising edges whole periods after the clock was set, falling
ones half a period later, as EDGE selects (R286, R288). DESIGN CHOICE, log entry 83. -/
def State.sdEdges (s : State) (c i : Nat) : Nat :=
  let p := s.sdTicks c
  let f := s.get (.sns .SDCLK_AT) (s.get (.sns .SD_CFG_CLKSEL) c) + (if s.flag (.sns .SD_CFG_EDGE) c then p / 2 else 0)
  if p = 0 ∨ i < f then 0 else (i - f) / p + 1

/-- The instant of the `n`-th sampling edge, counted from 0. -/
def State.sdEdgeAt (s : State) (c n : Nat) : Nat :=
  s.get (.sns .SDCLK_AT) (s.get (.sns .SD_CFG_CLKSEL) c) + (if s.flag (.sns .SD_CFG_EDGE) c then s.sdTicks c / 2 else 0) + n * s.sdTicks c

/-- The modulator clocks that have passed on a channel since it was last looked at are taken one by one. `l` gives the levels of SDDAT at the
rising and at the falling edge of each, the oldest first; past its end the pin keeps its level (R288). DEDUCED, log entry 83. -/
def sdFeed (c : Nat) (l : List (Bool × Bool)) (s : State) : State :=
  if !s.flag (.sns .SD_CFG_EN) c ∨ !s.senseClocked then s
  else
    let a := s.sdEdges c (s.get (.sns .SD_AT) c)
    let fall := s.flag (.sns .SD_CFG_EDGE) c
    let t := s.forUpTo (s.sdEdges c s.now - a) (fun n t =>
      sdClock c (s.sdEdgeAt c (a + n)) (match l[n]? with
        | some x => if fall then x.2 else x.1
        | none => t.flag (.sns .SD_PIN) c) t)
    t.set (.sns .SD_AT) s.now c

/-- Offset and gain of a result, with the arithmetic shift of R289 and R300. -/
def scaleQ (v offs : Int) (gain : Nat) : Int := (v - offs) * gain / 16384

/-- A result and whether either saturation limited (R289). -/
def State.sdResult (s : State) (c sum : Nat) : Int × Bool :=
  let r3 := s.sdR c ^ 3
  let raw := roundDiv ((2 * (sum : Int) - r3) * 32768) r3
  let v := satS 16 raw
  let x := scaleQ v (s.sget (.sns .SD_CAL_OFFS) c) (s.get (.sns .SD_CAL_GAIN) c)
  (satS 16 x, v != raw || satS 16 x != x)

/-- SD_RESULT_SEND (R285, R289, R293). -/
def sdSend (c : Nat) (s : State) : State :=
  if !s.flag (.sns .SD_PROC) c then s
  else
    let t := if s.sdLive c then
        let r := s.sdResult c (s.get (.sns .SD_SUM) c)
        sourceSent 1 c ((s.sset (.sns .SD_STAT_LAST) r.1 c).when r.2 (·.on (.sns .SD_STAT_SAT) c))
      else s
    if s.flag (.sns .SD_WAIT) c then (t.set (.sns .SD_SUM) (s.get (.sns .SD_SUM2) c) c).off (.sns .SD_WAIT) c
    else t.off (.sns .SD_PROC) c

/-- A write of SNS_FC[c]_CFG but for SWTRIG (R302): enabling starts the settling time. -/
def fcCfgWrite (w : Who) (c v : Nat) (s : State) : State :=
  let t := storeWord w (fcAddr c) v s
  if s.flag (.sns .FC_CFG_EN) c = t.flag (.sns .FC_CFG_EN) c then t
  else ((t.off (.sns .FC_STAT_VALID) c).off (.sns .FC_STAT_BUSY) c |>.off (.sns .FC_STAT_PEND) c).set (.sns .FC_EN_AT) s.now c

/-- The conversions of a result begin (R299). -/
def fcStart (c : Nat) (s : State) : State :=
  ((s.on (.sns .FC_STAT_BUSY) c).set (.sns .FC_AT) s.now c).set (.sns .FC_AVGN) (s.get (.sns .FC_CFG_AVG) c) c

/-- A trigger of a fast converter (R301, R302, R303). -/
def fcTrig (c : Nat) (s : State) : State :=
  if s.flag (.sns .FC_STAT_RES_OWNED) c ∨ !s.flag (.sns .FC_CFG_EN) c ∨ !s.flag (.sns .FC_STAT_VALID) c then s
  else if !s.flag (.sns .FC_STAT_BUSY) c then fcStart c s
  else if !s.flag (.sns .FC_STAT_PEND) c then s.on (.sns .FC_STAT_PEND) c
  else s.on (.sns .FC_STAT_TRIG_LOST) c

/-- The event of a converter has reached the sense island: it is the trigger, from its arrival to 10 ns later (R299, R301). -/
def fcEvent (c : Nat) (s : State) : State :=
  let a := s.get (.sns .FC_EVT_AT) c
  if a = 0 ∨ s.now + 1 < a ∨ a + 63 < s.now then s else fcTrig c (s.off (.sns .FC_EVT_AT) c)

/-- A fast-converter result and whether it saturated (R300). -/
def State.fcResult (s : State) (c code : Nat) : Int × Bool :=
  let x := scaleQ (2 * (code : Int)) (s.sget (.sns .FC_CAL_OFFS) c) (s.get (.sns .FC_CAL_GAIN) c)
  (satS 16 x, satS 16 x != x)

/-- FC_CONVERSION_COMPLETE: 2^AVG conversions of 100 ns each are over; the result is the mean of their codes. Where the mean is no whole number
its rounding is not stated: a free bit says whether the next code is taken (R299 to R301). DESIGN CHOICE, log entry 43. -/
def fcComplete (c codes : Nat) (s : State) : State :=
  let n := 2 ^ s.get (.sns .FC_AVGN) c
  if !s.flag (.sns .FC_STAT_BUSY) c ∨ s.now < s.get (.sns .FC_AT) c + 640 * n then s
  else
    let sum := (List.range n).foldl (fun a i => a + bits codes (14 * i) 14) 0
    let u := if sum % n = 0 then (sum / n, s) else ((s.free 1).1 + sum / n, (s.free 1).2)
    let r := s.fcResult c u.1
    let t := sourceSent 2 c ((u.2.sset (.sns .FC_STAT_LAST) r.1 c).when r.2 (·.on (.sns .FC_STAT_SAT) c))
    if s.flag (.sns .FC_STAT_PEND) c then fcStart c (t.off (.sns .FC_STAT_PEND) c) else t.off (.sns .FC_STAT_BUSY) c

/-- The excitation frequency of the setting lies from 4 kHz to 20 kHz (R304, R305). -/
def State.excOk (s : State) (r : Nat) : Bool :=
  if s.flag (.sns .RES_CFG_FREE) r then
    decide (4000 ≤ s.get (.sns .RES_EXC_EXFREQ) r) && decide (s.get (.sns .RES_EXC_EXFREQ) r ≤ 20000)
  else s.excInRange r

/-- A resolver stops: its converters are released (R303, R308, R309). -/
def resStop (r : Nat) (s : State) : State :=
  ((((s.off (.sns .RES_T0) r).off (.sns .RES_FIX) r).off (.sns .RES_CFG_EN) r).off (.sns .RES_STAT_LOCKED) r |>.off (.sns .RES_STAT_VALID) r |>.off (.sns .RES_STAT_LOS) r
    |>.off (.sns .RES_STAT_OVA) r |>.off (.sns .RES_OFF) r |>.off (.sns .RES_NLO) r |>.off (.sns .RES_NHI) r).off
      (.sns .FC_STAT_RES_OWNED) (4 + 2 * r) |>.off (.sns .FC_STAT_RES_OWNED) (5 + 2 * r)

/-- A write of SNS_RES[r]_CFG (R303, R305, R308). -/
def resCfgWrite (w : Who) (r v : Nat) (s : State) : State :=
  let was := s.flag (.sns .RES_CFG_EN) r
  let t := storeWord w (resAddr r) v s
  if !v.testBit 0 then (if was then resStop r t else t)
  else if was then t
  else if !t.excOk r then (t.off (.sns .RES_CFG_EN) r).on (.sns .RES_STAT_FREQ_ERR) r
  else
    let u := ((resStop r t).on (.sns .RES_CFG_EN) r).set (.sns .RES_V_AT) s.now r
    let u := u.when (t.flag (.sns .RES_CFG_FREE) r) (·.set (.sns .RES_T0) (s.now + 1) r)
    let u := (u.on (.sns .FC_STAT_RES_OWNED) (4 + 2 * r)).on (.sns .FC_STAT_RES_OWNED) (5 + 2 * r)
    u.forEach [4 + 2 * r, 5 + 2 * r] (fun c u => (u.off (.sns .FC_STAT_BUSY) c).off (.sns .FC_STAT_PEND) c)

/-- Integer square root of a number below 2^32. -/
def isqrt (n : Nat) : Nat :=
  (List.range 16).foldl (fun r i => if (r + 2 ^ (15 - i)) * (r + 2 ^ (15 - i)) ≤ n then r + 2 ^ (15 - i) else r) 0

/-- One consecutive-sample count of R307: `bad` samples set the condition after 2, good ones clear it after 2. -/
def resCount (cnt flag seen : SnsFld) (r : Nat) (bad : Bool) (s : State) : State :=
  if bad = s.flag (.sns flag) r then s.off (.sns cnt) r
  else if s.get (.sns cnt) r = 0 then s.set (.sns cnt) 1 r
  else ((s.off (.sns cnt) r).setB (.sns flag) bad r).when bad (·.on (.sns seen) r)

/-- The excitation period as a number of fine ticks over a denominator: EXFREQ in free mode, a limit while it is kept there, else EXDIV periods
of the domain (R304, R305). -/
def State.excPeriod (s : State) (r : Nat) : Nat × Nat :=
  if s.flag (.sns .RES_CFG_FREE) r then (6400000000, max 1 (s.get (.sns .RES_EXC_EXFREQ) r))
  else match s.get (.sns .RES_FIX) r with | 1 => (320000, 1) | 2 => (1600000, 1) | _ => (s.excLocked r, 1)

/-- Amplitude of the excitation in 100 mV peak: from 1.0 V to 10.0 V (R304). -/
def State.excAmplitude (s : State) (r : Nat) : Nat :=
  if s.get (.sns .RES_T0) r = 0 ∨ s.flag (.sns .RES_OFF) r then 0 else clampN 10 100 (s.get (.sns .RES_EXC_AMP) r)

/-- The excitation stands at phase `ph` / 65,536 of a period now (R306). -/
def State.excAt (s : State) (r ph : Nat) : Bool :=
  let (num, den) := s.excPeriod r
  let e := s.now + 1 - s.get (.sns .RES_T0) r
  let k := e * den / num
  let inst := fun k => (k * 65536 + ph % 65536) * num / (65536 * den)
  s.get (.sns .RES_T0) r != 0 && (inst k == e || inst (k + 1) == e || (k != 0 && inst (k - 1) == e))

/-- RESOLVER_SAMPLE, at the excitation phases 0.25 + PCOMP and 0.75 + PCOMP; the second sample is negated (R303, R306, R307). The rules state no rounding of MAG: where the root is no integer, a free bit says whether
the next one is taken. -/
def resSample (r a b : Nat) (s : State) : State :=
  let second := s.excAt r (49152 + s.get (.sns .RES_CFG_PCOMP) r)
  if !s.flag (.sns .RES_CFG_EN) r ∨ s.flag (.sns .RES_OFF) r ∨ !s.senseClocked ∨
      !(second || s.excAt r (16384 + s.get (.sns .RES_CFG_PCOMP) r)) then s
  else
    let x := s.fcResult (4 + 2 * r) a
    let y := s.fcResult (5 + 2 * r) b
    let sn := if second then satS 16 (-x.1) else x.1
    let cs := if second then satS 16 (-y.1) else y.1
    let sq := (sn * sn + cs * cs).toNat
    let q := isqrt sq
    let t := if q * q = sq then s.set (.sns .RES_STAT_MAG) q r else (s.free 1).2.set (.sns .RES_STAT_MAG) (q + (s.free 1).1) r
    let t := (t.when x.2 (·.on (.sns .FC_STAT_SAT) (4 + 2 * r))).when y.2 (·.on (.sns .FC_STAT_SAT) (5 + 2 * r))
    let m := t.get (.sns .RES_STAT_MAG) r
    let t := resCount .RES_NLO .RES_STAT_LOS .RES_STAT_LOS_SEEN r (decide (m < s.get (.sns .RES_MAG_LOS_THR) r)) t
    let t := resCount .RES_NHI .RES_STAT_OVA .RES_STAT_OVA_SEEN r (decide (m > s.get (.sns .RES_MAG_MAX_THR) r)) t
    if t.flag (.sns .RES_STAT_VALID) r && !t.flag (.sns .RES_STAT_LOS) r && !t.flag (.sns .RES_STAT_OVA) r then
      sourceSent 3 (2 * r + 1) (sourceSent 3 (2 * r) ((t.sset (.sns .RES_SIN) sn r).sset (.sns .RES_COS) cs r))
    else t

/-- The next scanned channel after `c`, wrapping (R310). -/
def State.hkNext (s : State) (c : Nat) : Option Nat :=
  ((List.range 32).map (fun i => (c + 1 + i) % 32)).find? (fun i => s.flag (.sns .HK_CH_SCAN) i)

/-- Begin the conversion that comes next: an urgent one if it waits, else the scan's (R310, R314). -/
def hkStart (next : Option Nat) (s : State) : State :=
  if s.flag (.sns .HK_STAT_INJ_PEND) then
    ((s.off (.sns .HK_STAT_INJ_PEND)).on (.sns .HK_CURI) |>.on (.sns .HK_STAT_BUSY)).set (.sns .HK_CUR)
      (s.get (.sns .HK_INJ_CHAN)) |>.set (.sns .HK_SCAN) (next.getD 0) |>.set (.sns .HK_AT) s.now
  else
    let t := s.off (.sns .HK_CURI)
    match next with
    | some c => if s.flag (.sns .HK_CTRL_EN) then
        ((t.on (.sns .HK_STAT_BUSY)).set (.sns .HK_CUR) c).set (.sns .HK_AT) s.now else t.off (.sns .HK_STAT_BUSY)
    | none => t.off (.sns .HK_STAT_BUSY)

/-- Write SNS_HK_DATA (R313). -/
def hkData (v c : Nat) (inj : Bool) (s : State) : State :=
  let t := s.when (s.flag (.sns .HK_DATA_NEW)) (fun t => (t.on (.sns .HK_STAT_OVR)).incSat (.sns .HK_STAT_OVR_CNT))
  ((t.set (.sns .HK_DATA_VALUE) v).set (.sns .HK_DATA_CHAN) c |>.setB (.sns .HK_DATA_INJ) inj).on (.sns .HK_DATA_NEW)

/-- In Park a result of HK0 below V_LOW starts the step to Storage at once, with its flush (R566, R567). -/
def parkSupply (c v : Nat) (s : State) : State :=
  if c = 0 ∧ s.get (.aon .LADDER_STAT_STATE) = 3 ∧ !s.flag (.aon .LADDER_STAT_MOVING) ∧ v < s.get (.aon .HKWIN_V_LOW) then
    ((s.on (.aon .LADDER_STAT_MOVING)).set (.aon .LAD_TGT) 4).set (.aon .FLUSH) 2
  else s

/-- The die temperature in 1/64 °C, while HK25 is valid (R316, R611). -/
def State.dieTemp (s : State) : Option Int := if s.bit (.sns .HK_VALID) 25 then some (Config.dieTemp (s.get (.sns .HK_SENT) 25)) else none

/-- A result of HK25 at 125 °C or more is reported as DIE_HOT at level 5 when it begins (R611). -/
def dieCheck (c : Nat) (s : State) : State :=
  if c ≠ 25 then s
  else match s.dieTemp with
  | none => s
  | some d =>
    let hot := decide (8000 ≤ d)
    (s.when (hot && !s.flag (.drv .DIE_HOT)) (·.send .level5 611)).setB (.drv .DIE_HOT) hot

/-- Accumulate a conversion of a channel; after the Nth the average is written and sent (R311, R312). -/
def hkAccumulate (c code : Nat) (s : State) : State :=
  let sum := s.get (.sns .HK_SUM) c + code
  let n := s.get (.sns .HK_N) c + 1
  if n ≤ s.get (.sns .HK_CH_NM1) c then (s.set (.sns .HK_SUM) sum c).set (.sns .HK_N) n c
  else
    let v := sum / 2 ^ min 8 (s.get (.sns .HK_CH_SHIFT) c)
    let t := ((s.off (.sns .HK_SUM) c).off (.sns .HK_N) c).setBit (.sns .HK_VALID) c
    let t := (hkData v c false t).set (.sns .HK_SENT) (min (8 * v) 32767) c
    parkSupply c v (dieCheck c (t.when (s.get (.saf .ISL_STAT_STATE) 9 == 0) (sourceSent 4 c)))

/-- Every accumulation is discarded and no channel is valid (R315). -/
def hkDiscard (s : State) : State :=
  (s.forUpTo 32 (fun c t => (t.off (.sns .HK_SUM) c).off (.sns .HK_N) c)).off (.sns .HK_VALID)

/-- HK_CONVERSION_COMPLETE, 1 us after the conversion began, in low-power mode 16 us (R310, R311, R314, R315). -/
def hkComplete (code : Nat) (s : State) : State :=
  if !s.flag (.sns .HK_STAT_BUSY) ∨ s.now < s.get (.sns .HK_AT) + us (if s.flag (.sns .HK_STAT_LP_ACTIVE) then 16 else 1) then s
  else
    let c := s.get (.sns .HK_CUR)
    let urgent := s.flag (.sns .HK_CURI)
    let t := if urgent then hkData code c true s else hkAccumulate c code s
    let t := if s.flag (.sns .HK_CTRL_LP) = s.flag (.sns .HK_STAT_LP_ACTIVE) then t
      else (hkDiscard t).setB (.sns .HK_STAT_LP_ACTIVE) (s.flag (.sns .HK_CTRL_LP))
    let next := if urgent then (if s.flag (.sns .HK_CH_SCAN) (s.get (.sns .HK_SCAN)) then some (s.get (.sns .HK_SCAN))
      else s.hkNext (s.get (.sns .HK_SCAN))) else s.hkNext c
    hkStart next t

/-- A write of SNS_HK_CTRL (R310, R315). -/
def hkCtrlWrite (v : Nat) (s : State) : State :=
  let t := (s.set (.sns .HK_CTRL_EN) (bits v 0 1)).set (.sns .HK_CTRL_LP) (bits v 1 1)
  if s.flag (.sns .HK_STAT_BUSY) then t
  else
    let t := if t.flag (.sns .HK_CTRL_LP) = s.flag (.sns .HK_STAT_LP_ACTIVE) then t
      else (hkDiscard t).setB (.sns .HK_STAT_LP_ACTIVE) (t.flag (.sns .HK_CTRL_LP))
    hkStart (t.hkNext 31) t

/-- A write of SNS_HK_INJ with GO (R314). -/
def hkUrgent (v : Nat) (s : State) : State :=
  if s.flag (.sns .HK_STAT_INJ_PEND) then s.on (.sns .HK_STAT_INJ_LOST)
  else
    let t := (s.set (.sns .HK_INJ_CHAN) (v % 32)).on (.sns .HK_STAT_INJ_PEND)
    if s.flag (.sns .HK_STAT_BUSY) then t else hkStart (t.hkNext 31) t

/-- A write of SNS_HK_CH[i]: a change of NM1 or SHIFT restarts the channel's accumulation and clears its VALID bit. -/
def hkChWrite (w : Who) (i v : Nat) (s : State) : State :=
  let t := storeWord w (snsBase + 0x700 + 4 * i) v s
  if t.get (.sns .HK_CH_NM1) i = s.get (.sns .HK_CH_NM1) i ∧ t.get (.sns .HK_CH_SHIFT) i = s.get (.sns .HK_CH_SHIFT) i then t
  else ((t.off (.sns .HK_SUM) i).off (.sns .HK_N) i).clrBit (.sns .HK_VALID) i

/-- SDCLK_WRITE (R287). -/
def execSdclkWrite (w : Who) (k : Fin 4) (v : Word) (s : State) : Host.Outcome State Fault Refusal :=
  done (sideband w (snsBase + 0x10 + 4 * k.val) v.toNat (sdclkWrite k.val v.toNat) s)
/-- SD_CFG_WRITE (R294, R297). DEDUCED, log entry 42. -/
def execSdCfgWrite (w : Who) (c : Fin 24) (v : Word) (s : State) : Host.Outcome State Fault Refusal :=
  done (sideband w (sdAddr c.val) v.toNat (sdCfgWrite w c.val v.toNat) s)
/-- SD_FILLED: the bit that fills the data filter (R294). -/
def execSdFilled (c : Fin 24) (l : List (Bool × Bool)) (s : State) : Host.Outcome State Fault Refusal := done (sdFeed c.val l s)
/-- SD_RESULT_TAKE: the modulator clock at which a result is due (R291, R292, R293). -/
def execSdResultTake (c : Fin 24) (l : List (Bool × Bool)) (s : State) : Host.Outcome State Fault Refusal := done (sdFeed c.val l s)
/-- SD_RESULT_SEND (R289). -/
def execSdResultSend (c : Fin 24) (s : State) : Host.Outcome State Fault Refusal := done (sdSend c.val s)
/-- SD_TRIP_ASSERT: the bits that take v_t outside the thresholds for TCNT clocks (R295, R296). -/
def execSdTripAssert (c : Fin 24) (l : List (Bool × Bool)) (s : State) : Host.Outcome State Fault Refusal := done (sdFeed c.val l s)
/-- SD_TRIP_DEASSERT: the bits that hold v_t inside the window for 16 clocks (R295, R296). -/
def execSdTripDeassert (c : Fin 24) (l : List (Bool × Bool)) (s : State) : Host.Outcome State Fault Refusal := done (sdFeed c.val l s)
/-- SD_STUCK: 64 bits without a transition (R298). DEDUCED, log entry 42. -/
def execSdStuck (c : Fin 24) (l : List (Bool × Bool)) (s : State) : Host.Outcome State Fault Refusal := done (sdFeed c.val l s)
/-- SD_UNSTUCK: 64 bits with a transition in every 8 (R298). -/
def execSdUnstuck (c : Fin 24) (l : List (Bool × Bool)) (s : State) : Host.Outcome State Fault Refusal := done (sdFeed c.val l s)
/-- FC_TRIGGER (R301). -/
def execFcTrigger (c : Fin 8) (x : Option (Who × Word)) (s : State) : Host.Outcome State Fault Refusal :=
  done (match x with
    | none => if s.senseClocked then fcEvent c.val s else s
    | some (w, v) => sideband w (fcAddr c.val) (v.toNat ||| 0x200) (fun t => fcTrig c.val (fcCfgWrite w c.val v.toNat t)) s)
/-- FC_CONVERSION_COMPLETE (R299). -/
def execFcConversionComplete (c : Fin 8) (codes : BitVec 112) (s : State) : Host.Outcome State Fault Refusal :=
  done (if s.senseClocked then fcComplete c.val codes.toNat s else s)
/-- FC_SETTLED (R302). -/
def execFcSettled (c : Fin 8) (s : State) : Host.Outcome State Fault Refusal :=
  done (s.when (s.flag (.sns .FC_CFG_EN) c.val && s.senseClocked && decide (s.get (.sns .FC_EN_AT) c.val + us 10 ≤ s.now))
    (·.on (.sns .FC_STAT_VALID) c.val))
/-- RESOLVER_ENABLE (R305). -/
def execResolverEnable (w : Who) (r : Fin 2) (v : Word) (s : State) : Host.Outcome State Fault Refusal :=
  let v := v.toNat ||| 1
  done (sideband w (resAddr r.val) v (resCfgWrite w r.val v) s)
/-- RESOLVER_SAMPLE (R306). DESIGN CHOICE, log entry 43. -/
def execResolverSample (r : Fin 2) (sinCode cosCode : BitVec 14) (s : State) : Host.Outcome State Fault Refusal :=
  done (resSample r.val sinCode.toNat cosCode.toNat s)
/-- RESOLVER_VALID (R308). -/
def execResolverValid (r : Fin 2) (s : State) : Host.Outcome State Fault Refusal :=
  let p := s.excPeriod r.val
  done (s.when (s.flag (.sns .RES_CFG_EN) r.val && !s.flag (.sns .RES_OFF) r.val && s.senseClocked &&
      (s.flag (.sns .RES_CFG_FREE) r.val || s.flag (.sns .RES_STAT_LOCKED) r.val) &&
      decide (s.get (.sns .RES_V_AT) r.val * p.2 + 4 * p.1 ≤ s.now * p.2)) (·.on (.sns .RES_STAT_VALID) r.val))
/-- EXC_FAULT (R309). -/
def execExcFault (r : Fin 2) (s : State) : Host.Outcome State Fault Refusal :=
  done (if s.flag (.sns .RES_CFG_EN) r.val && s.senseClocked then
    ((s.on (.sns .RES_STAT_EXC_FAULT) r.val).on (.sns .RES_OFF) r.val).off (.sns .RES_STAT_VALID) r.val |>.off
      (.sns .RES_STAT_LOCKED) r.val else s)
/-- HK_CONVERSION_COMPLETE (R310). -/
def execHkConversionComplete (code : BitVec 12) (s : State) : Host.Outcome State Fault Refusal := done (hkComplete code.toNat s)
/-- HK_URGENT_REQUEST (R314). -/
def execHkUrgentRequest (w : Who) (v : Word) (s : State) : Host.Outcome State Fault Refusal :=
  done (sideband w (snsBase + 0x608) (v.toNat ||| 0x20) (hkUrgent v.toNat) s)
/-- HK_DATA_READ (R313): the read answers the held word, then NEW reads 0. -/
def execHkDataRead (w : Who) (s : State) : Host.Outcome State Fault Refusal :=
  let a := snsBase + 0x604
  done (sidebandRead w a id s |> fun t => if t.resp = .data (s.readReg a) then t.off (.sns .HK_DATA_NEW) else t)

end Sys2Proof.Machine
end

