-- ==== Sys2Proof/Machine/Traction.lean ====
section
/-!
DEFINITION. Traction control of motors A and B (R318 to R358): what a sample of a current engine does beyond its instructions (sensors,
rotor position, catch and probe, bands and modulation), the drive firmware's command curve, trims, wear account and status blocks, and the safety island's band evaluation (R249, R346).
-/
namespace Sys2Proof.Machine
open Sys2Proof

/-- A quotient of which the rules state no rounding: where it is no integer a free bit says whether the next one is taken. DESIGN CHOICE, log entry 43. -/
def quot (n d : Nat) (s : State) : Nat × State :=
  if d = 0 ∨ n % d = 0 then (n / d, s) else (n / d + (s.free 1).1, (s.free 1).2)

/-- A signed quotient, in the same way. DESIGN CHOICE, log entry 43. -/
def quotI (n d : Int) (s : State) : Int × State :=
  if d = 0 ∨ n % d = 0 then (n / d, s) else (n / d + (s.free 1).1, (s.free 1).2)

/-- `n` bytes at an offset of a record of the parameter sets. DESIGN CHOICE, log entry 46. -/
def State.recN (s : State) (i off n : Nat) : Nat := s.readN (s.get (.drv .REC_ADDR) i + off) n
/-- A signed 16-bit field of a record. -/
def State.recS (s : State) (i off : Nat) : Int := toSigned 16 (s.recN i off 2)

/-- A positive IEEE 754 single as numerator and denominator (R90). -/
def singleQ (b : Nat) : Nat × Nat :=
  let e := bits b 23 8
  let m := (if e = 0 then 0 else 2 ^ 23) + bits b 0 23
  let e := max 1 e
  if e ≥ 150 then (m * 2 ^ (e - 150), 1) else (m, 2 ^ (150 - e))

/-- A Q1.15 speed is at or above `n` rpm times `num / den`, by the speed base of the active package (R346). -/
def State.speedAtLeast (s : State) (u : Int) (n num den : Nat) : Bool :=
  let b := singleQ (s.get (.drv .PK_BASE) 3)
  decide (u.natAbs * b.1 * den ≥ n * num * 32768 * b.2)

/-- Set or clear one flag of a motor's status (R353). -/
def trFlag (m i : Nat) (v : Bool) (s : State) : State := s.putBit (.drv .TR_FLAGS) i v m

/-- A torque cap derated with the die temperature: linear from 125 °C to 0 at 130 °C (R611). -/
def State.dieDerate (s : State) (cap : Nat) : Nat :=
  match s.dieTemp with
  | none => cap
  | some d =>
    if d ≤ 8000 then cap
    else
      let n := cap * (8320 - d).toNat
      n / 320 + (decide (n % 320 ≠ 0) && Config.capRoundsUp n).toNat

/-- The cap of R327: SENS_TCAP after a sensor failure, EMF_TCAP on the back-EMF source or with the resolver failed, else 1.0; derated on a
hot die (R335, R339, R354, R611). -/
def State.trCap (s : State) (m : Nat) : Nat :=
  let a := if s.get (.drv .TR_SENSF) m ≠ 0 then s.recN m 0x16 2 else 0x7FFF
  let b := if s.get (.drv .TR_POS) m = 1 ∨ s.bit (.drv .TR_FLAGS) 3 m then s.recN m 0x18 2 else 0x7FFF
  s.dieDerate (min a b)

/-- The first field of a motor's traction record outside its range; a curve's X must rise strictly (R322, R341). -/
def State.trBad (s : State) (m : Nat) : Option Nat :=
  let f := s.recN m
  if f 0 1 < 1 ∨ f 0 1 > 16 then some 0 else if f 1 1 < 1 ∨ f 1 1 > 16 ∨ f 0 1 % f 1 1 ≠ 0 then some 1
  else if f 2 1 > 1 then some 2 else if f 3 1 > 3 then some 3 else if f 7 1 ≠ 0 then some 4
  else if f 8 2 * f 0 1 > 120000 then some 8 else if f 0x0A 2 < 1 ∨ f 0x0A 2 > 200 then some 0x0A
  else if 20 * f 0x0C 2 > s.get (.saf .XOVER_XOVER) m then some 0x0C else if f 0x0E 2 > 0x7FFF then some 0x0E
  else if f 0x10 2 ≥ f 0x0E 2 then some 0x10 else if f 0x12 1 < 1 ∨ f 0x12 1 > 64 then some 0x12
  else if f 0x13 1 > 2 then some 0x13
  else match [0x20, 0x60].find? (fun o => !(List.range 15).all (fun i => decide (f (o + 4 * i) 2 < f (o + 4 * i + 4) 2))) with
    | some o => some o
    | none => if f 0xB4 12 ≠ 0 then some 0xB4 else none

/-- STUCK_TRIP is 0 on a motor's four sigma-delta channels, without which its traction record is not valid (R324). -/
def State.stuckTripOff (s : State) (m : Nat) : Bool := (List.range 4).all (fun c => !s.flag (.sns .SD_CFG_STUCK_TRIP) (4 * m + c))

/-- The current engine of a motor (R318). -/
def curEngine (m : Nat) : Nat := 2 * m
/-- The torque engine of a motor (R318). -/
def trqEngine (m : Nat) : Nat := 2 * m + 1

/-- A phase is lost: the escalation source asserts and PHASE_LOST is set. -/
def phaseLost (m : Nat) (s : State) : State := trFlag m 1 true (escalate (curEngine m) s)

/-- The input port of a current engine that takes a channel of a kind: the first whose mapping names it. -/
def State.portOf (s : State) (e kind chan : Nat) : Option Nat :=
  (List.range 32).find? (fun p => s.get (.loop .IPMAP_KIND) e p == kind && s.get (.loop .IPMAP_CHAN) e p == chan)

/-- The in-line sensor `x` of a motor as its port holds it: value, and whether the port is fresh (R318, R333). -/
def State.sensor (s : State) (m x : Nat) : Int × Bool :=
  match s.portOf (curEngine m) 1 (4 * m + x) with
  | some p => (s.port (curEngine m) p, s.fresh? (curEngine m) p)
  | none => (0, false)

/-- A sensor is implausible in the sample: its port is stale, or it differs from its partner and from its share `p / 2` where the partner does
not; once the partner has failed, the share alone is the measure (R333, R334). -/
def State.implausible (s : State) (m x : Nat) (p : Int) : Bool :=
  let a := s.sensor m x
  let b := s.sensor m (x ^^^ 1)
  let thr : Int := s.recN m 0x14 2
  let far (v : Int) : Bool := decide ((2 * v - p).natAbs > 2 * thr)
  if s.bit (.drv .TR_SENSF) (x ^^^ 1) m then !a.2 || far a.1
  else !a.2 || (decide ((a.1 - b.1).natAbs > thr) && far a.1 && !far b.1)

/-- The ratio of a sensor to its partner averaged over the samples held, from 0.8 to 1.25; a sample whose partner read 0 has no ratio; none where
no sample has one (R334). DESIGN CHOICE, log entry 84. -/
def State.shareRatio (s : State) (m x : Nat) : Option Rat :=
  let h := 2 * m + x / 2
  let l := (List.range (s.get (.drv .TR_HN) h)).filterMap (fun k =>
    let a := s.sget (if x % 2 = 0 then .drv .TR_HX else .drv .TR_HY) h k
    let b := s.sget (if x % 2 = 0 then .drv .TR_HY else .drv .TR_HX) h k
    if b = 0 then none else some ((a : Rat) / b))
  if l.isEmpty then none else some (max (4 / 5) (min (5 / 4) (l.foldl (· + ·) 0 / l.length)))

/-- The value that stands in a sensor's place: its own, or where it is replaced its partner's times the ratio. Where the product is no
integer, or no sample gives a ratio, the rules state no value (R323, R334). DESIGN CHOICE, log entries 43 and 84. -/
def seeSensor (m x : Nat) (replaced : Bool) (s : State) : State :=
  let i := 4 * m + x
  if !replaced then s.sset (.drv .TR_SEEN) (s.sensor m x).1 i
  else match s.shareRatio m x with
  | none => s.setFree (.drv .TR_SEEN) i
  | some r =>
    let v := quotI ((s.sensor m (x ^^^ 1)).1 * r.num) r.den s
    v.2.sset (.drv .TR_SEEN) v.1 i

/-- Hold a pair of plausible values of a phase (R334). -/
def holdPair (m ph : Nat) (s : State) : State :=
  let h := 2 * m + ph
  let k := s.get (.drv .TR_HP) h
  let t := (s.sset (.drv .TR_HX) (s.sensor m (2 * ph)).1 h k).sset (.drv .TR_HY) (s.sensor m (2 * ph + 1)).1 h k
  (t.set (.drv .TR_HP) (k + 1) h).set (.drv .TR_HN) (min 64 (s.get (.drv .TR_HN) h + 1)) h

/-- The phase currents from the sensors as seen, and the sums by which sharing is compared (R323, R325). -/
def phaseCurrents (m : Nat) (s : State) : State :=
  let v := fun x => s.sget (.drv .TR_SEEN) (4 * m + x)
  let t := (s.sset (.drv .TR_I) (v 0 + v 1) m 0).sset (.drv .TR_I) (v 2 + v 3) m 1
  let t := t.sset (.drv .TR_I) (-(v 0 + v 1 + (v 2 + v 3))) m 2
  t.forUpTo 4 (fun x t => t.incSat (.drv .TR_ABS) (4 * m + x) 0 (s.sensor m x).1.natAbs)

/-- The sensor checks of a sample, with the phase currents `p` that the chart's references give: a sensor implausible in two consecutive samples
has failed; both of a phase in one sample, or the remaining one twice after its partner failed, is a lost phase; an implausible or failed sensor
is replaced. The checks begin when the priming window of slot 0 has ended (R323, R333 to R335). -/
def sensorCheck (m : Nat) (p : Nat → Int) (s : State) : State :=
  if s.flag (.loop .LS_PM_STAT_LOOP_UNPRIMED) (curEngine m) 0 then
    phaseCurrents m (s.forUpTo 4 (fun x t => seeSensor m x (s.bit (.drv .TR_SENSF) x m) t))
  else
    let impl := fun x => s.implausible m x (p (x / 2))
    let t := s.forUpTo 4 (fun x t => t.set (.drv .TR_IMPL) (if impl x then min 2 (s.get (.drv .TR_IMPL) (4 * m + x) + 1) else 0) (4 * m + x))
    let bad := (List.range 4).filter (fun x => t.get (.drv .TR_IMPL) (4 * m + x) == 2)
    let lost := [0, 2].any (fun k => (impl k && impl (k + 1)) ||
      (s.bit (.drv .TR_SENSF) k m && bad.contains (k + 1)) || (s.bit (.drv .TR_SENSF) (k + 1) m && bad.contains k))
    let t := t.forEach bad (fun x t => if t.bit (.drv .TR_SENSF) x m then t else
      trFlag m 0 true (((t.setBit (.drv .TR_SENSF) x m).set (.drv .TR_SENSID) x m).on (.loop .LS_STAT_PFLAG) (curEngine m) 0))
    let t := t.forUpTo 4 (fun x t => seeSensor m x (impl x || t.bit (.drv .TR_SENSF) x m) t)
    let t := t.forUpTo 2 (fun h t => t.when (!impl (2 * h) && !impl (2 * h + 1) && !t.bit (.drv .TR_SENSF) (2 * h) m &&
      !t.bit (.drv .TR_SENSF) (2 * h + 1) m) (holdPair m h))
    phaseCurrents m (if lost then phaseLost m t else t)

/-- How far a rotor at the speed `u` (Q1.15 of the speed base) turns in `n` fine ticks, in electrical angle (R11, R327). -/
def elecMove (m : Nat) (u : Int) (n : Nat) (s : State) : Int × State :=
  let b := singleQ (s.get (.drv .PK_BASE) 3)
  quotI (u * (b.1 * s.recN m 0 1 * 2 ^ 24 * n : Nat)) (32768 * 60 * 6400000000 * b.2 : Nat) s

/-- The electrical speed in units of 2^-16 angle LSB per edge tick (R201, R330). -/
def elecRate (m : Nat) (u : Int) (s : State) : Int × State :=
  let b := singleQ (s.get (.drv .PK_BASE) 3)
  quotI (u * (b.1 * s.recN m 0 1 * 2 ^ 40 : Nat)) (32768 * 60 * 800000000 * b.2 : Nat) s

/-- The difference of two angles as a signed angle (R11). -/
def angleDiff (a b : Int) : Int := toSigned 24 (ofSigned 24 (a - b))

/-- A difference of angles is above `n` degrees. -/
def farApart (a b : Int) (n : Nat) : Bool := decide ((angleDiff a b).natAbs * 360 > n * 2 ^ 24)

/-- The resolver source is valid: the ports of its sine and cosine were fresh for the last sample of slot 2, and VALID, LOS and OVA allow results
(R337). DEDUCED, log entry 85. -/
def State.resSource (s : State) (m : Nat) : Bool :=
  s.get (.loop .LS_MISS_MISS_RUN) (curEngine m) 2 == 0 && s.flag (.sns .RES_STAT_VALID) m && !s.flag (.sns .RES_STAT_LOS) m &&
    !s.flag (.sns .RES_STAT_OVA) m

/-- The back-EMF source is valid: the speed is at or above N_EMF and slot 3 has been primed (R337). -/
def State.emfSource (s : State) (m : Nat) : Bool :=
  s.speedAtLeast (s.sget (.loop .LS_STAT_U) (curEngine m) 3) (s.recN m 0x0C 2) 1 1 &&
    !s.flag (.loop .LS_PM_STAT_LOOP_UNPRIMED) (curEngine m) 3

/-- A Q1.15 speed is above `n` rpm times `num / den`. -/
def State.speedAbove (s : State) (u : Int) (n num den : Nat) : Bool :=
  let b := singleQ (s.get (.drv .PK_BASE) 3)
  decide (u.natAbs * b.1 * den > n * num * 32768 * b.2)

/-- The rotor angles of the resolver and of the back-EMF observer now (R327, R337). -/
def rotorAngles (m : Nat) (x : MotorSample) (s : State) : (Int × Int) × State :=
  let e := curEngine m
  let a := elecMove m (s.sget (.loop .LS_STAT_U) e 2) x.resAge.toNat s
  let b := elecMove m (s.sget (.loop .LS_STAT_U) e 3) x.emfAge.toNat a.2
  ((x.resAngle.toNat * (s.recN m 0 1 / max 1 (s.recN m 1 1)) + s.recN m 4 3 + a.1, x.emfAngle.toNat + b.1), b.2)

/-- The angle extrapolated from the last agreed one, or from a probe's estimate, at its speed (R336, R356). -/
def extrapolated (m : Nat) (s : State) : Int × State :=
  let r := elecMove m (s.sget (.drv .TR_AGR_SPD) m) (s.now - s.get (.drv .TR_AGR_AT) m) s
  (r.1 + s.get (.drv .TR_AGR_ANG) m, r.2)

/-- Hold an angle and a speed from which the angle may be extrapolated. -/
def holdAngle (m : Nat) (a u : Int) (s : State) : State :=
  ((s.sset (.drv .TR_AGR_ANG) a m).sset (.drv .TR_AGR_SPD) u m).set (.drv .TR_AGR_AT) s.now m

/-- The comparison of the two angles while both sources are valid: rotor loss in the fourth consecutive sample more than 30 degrees apart; the
position source is LOST and the q-axis reference of the moment is held for its ramp (R338). -/
def angleCheck (m : Nat) (r b : Int) (s : State) : State :=
  if s.flag (.loop .LS_PM_STAT_LOOP_UNPRIMED) (curEngine m) 0 ∨ s.get (.drv .TR_POS) m = 3 ∨ !s.resSource m ∨ !s.emfSource m then
    s.off (.drv .TR_DIS) m
  else if !farApart r b 30 then holdAngle m r (s.sget (.loop .LS_STAT_U) (curEngine m) 2) (s.off (.drv .TR_DIS) m)
  else if s.get (.drv .TR_DIS) m ≥ 3 then
    let t := (((s.off (.drv .TR_DIS) m).set (.drv .TR_POS) 3 m).set (.drv .TR_LOST_AT) s.now m).off (.drv .TR_ACQ) m
    trFlag m 2 true (t.set (.drv .TR_IQ0) (s.get (.loop .CH_R) (curEngine m) 1) m)
  else s.inc (.drv .TR_DIS) m

/-- The position source is RES and its source has become invalid: EMF where that is valid; else, with the group enabled, the escalation source
asserts (R339). -/
def resolverGone (m : Nat) (s : State) : State :=
  if s.get (.drv .TR_POS) m ≠ 0 ∨ s.resSource m then s
  else if s.emfSource m then s.set (.drv .TR_POS) 1 m
  else if s.bit (.edge .OG_EN) m then escalate (curEngine m) s else s

/-- A lost rotor: 16 consecutive samples with the back-EMF angle within 10 degrees of the extrapolated one re-acquire it within 20 ms, and the
resolver is judged in that sample; past 20 ms the escalation source asserts (R354). -/
def rotorLost (m : Nat) (r b x : Int) (s : State) : State :=
  if s.get (.drv .TR_POS) m ≠ 3 then s
  else if s.get (.drv .TR_LOST_AT) m + us 20000 < s.now then escalate (curEngine m) s
  else if !s.emfSource m || farApart b x 10 then s.off (.drv .TR_ACQ) m
  else if s.get (.drv .TR_ACQ) m + 1 < 16 then s.inc (.drv .TR_ACQ) m
  else
    let t := (s.off (.drv .TR_ACQ) m).set (.drv .TR_POS) 1 m
    if s.resSource m && !farApart r b 10 then (t.on (.drv .TR_WATCH) m).set (.drv .TR_WATCHN) 1 m else trFlag m 3 true t

/-- The resolver is watched after re-acquisition: within 10 degrees for 16 consecutive samples it is the source again, else it has failed
(R354). DEDUCED, log entry 85. -/
def resolverWatch (m : Nat) (r b : Int) (s : State) : State :=
  if !s.flag (.drv .TR_WATCH) m then s
  else if !s.resSource m || farApart r b 10 then trFlag m 3 true (s.off (.drv .TR_WATCH) m)
  else if s.get (.drv .TR_WATCHN) m + 1 < 16 then s.inc (.drv .TR_WATCHN) m
  else (s.off (.drv .TR_WATCH) m).set (.drv .TR_POS) 0 m

/-- A probe begins: PROBE_EN is set and the resolver source invalid (R356). -/
def probeStart (m : Nat) (s : State) : State :=
  if s.resSource m ∨ !(s.recN m 3 1).testBit 1 ∨ s.get (.drv .TR_POS) m = 2 then s
  else ((s.set (.drv .TR_POS) 2 m).set (.drv .TR_PROBE_AT) s.now m).off (.drv .TR_PROBED) m

/-- A sample of a probe: pulses give the estimate below XOVER, the short-circuit current with ASC_LAG at or above it; without an estimate for
10 ms the escalation source asserts (R356, R357). -/
def probeSample (m : Nat) (p : Option Probe) (s : State) : State :=
  if s.get (.drv .TR_POS) m ≠ 2 ∨ s.flag (.drv .TR_PROBED) m then s
  else
    let fast (u : BitVec 16) : Bool := s.speedAtLeast u.toInt (s.get (.saf .XOVER_XOVER) m) 1 1
    match p with
    | some (.pulses a u) => if fast u then s else holdAngle m a.toNat u.toInt (s.on (.drv .TR_PROBED) m)
    | some (.shortCircuit a u) =>
      if fast u then holdAngle m (a.toNat + 256 * s.recN m 0xB2 2) u.toInt (s.on (.drv .TR_PROBED) m) else s
    | none => if s.get (.drv .TR_PROBE_AT) m + us 10000 < s.now then escalate (curEngine m) s else s

/-- A sample of a catch: 16 consecutive samples with both currents below CATCH_I complete it, and a probed source becomes EMF; after 50 ms the
escalation source asserts (R355 to R357). -/
def catchSample (m : Nat) (d q : Int) (s : State) : State :=
  if !s.bit (.drv .TR_FLAGS) 4 m then s
  else if s.get (.drv .TR_CATCH_AT) m + us 50000 < s.now then escalate (curEngine m) s
  else if decide (d.natAbs < s.recN m 0x1A 2) && decide (q.natAbs < s.recN m 0x1A 2) then
    if s.get (.drv .TR_CATCH_N) m + 1 < 16 then s.inc (.drv .TR_CATCH_N) m
    else
      let t := trFlag m 4 false (s.off (.drv .TR_CATCH_N) m)
      t.when (s.get (.drv .TR_POS) m == 2) (fun t => (t.set (.drv .TR_POS) 1 m).off (.drv .TR_PROBED) m)
  else s.off (.drv .TR_CATCH_N) m

/-- A catch begins with the enable of the group (R355). -/
def catchStart (m : Nat) (s : State) : State :=
  trFlag m 4 true ((s.set (.drv .TR_CATCH_AT) s.now m).off (.drv .TR_CATCH_N) m)

/-- The current references of the sample: the chart's; 0 during a catch; while the rotor is lost the q axis falls to 0 in 1.6 ms (R327, R355,
chapter 09 When the rotor is lost at speed). -/
def motorRefs (m : Nat) (s : State) : State :=
  let e := curEngine m
  if s.bit (.drv .TR_FLAGS) 4 m then (s.off (.drv .TR_REF) m 0).off (.drv .TR_REF) m 1
  else
    let t := s.set (.drv .TR_REF) (s.get (.loop .CH_R) e 0) m 0
    if s.get (.drv .TR_POS) m ≠ 3 then t.set (.drv .TR_REF) (s.get (.loop .CH_R) e 1) m 1
    else
      let gone := min (us 1600) (s.now - s.get (.drv .TR_LOST_AT) m)
      let q := quotI (s.sget (.drv .TR_IQ0) m * ((us 1600 - gone : Nat) : Int)) (us 1600 : Nat) t
      q.2.sset (.drv .TR_REF) q.1 m 1

/-- Send a value to an edge input channel through the output port that is mapped to it (R212). -/
def sendChan (e c v : Nat) (s : State) : State :=
  match (List.range 32).find? (fun p => s.get (.loop .OPMAP_DEST) e p == 1 && s.get (.loop .OPMAP_CHAN) e p == c) with
  | some p => writePort e p v s
  | none => s

/-- KIND and PULSES of a PPI; 0 and 0 for the carrier (R80, R328). -/
def State.patternKind (s : State) (ppi : Nat) : Nat × Nat := if ppi = 0 then (0, 0) else ((s.dirEntry ppi).kind, (s.dirEntry ppi).pulses)

/-- The pattern step of a d-axis output: the output over 2^13, rounded and limited to STEP_MAX, and further so that the entry keeps KIND and
PULSES (R329). -/
def State.patternStep (s : State) (m ppi : Nat) (d : Int) : Int :=
  let sm : Int := s.recN m 0x13 1
  let k := clampI (-sm) sm (roundDiv d 8192)
  let ok (j : Int) : Bool := let q := ((ppi : Int) + j).toNat; decide (1 ≤ (ppi : Int) + j) && decide (q ≤ s.get (.edge .TL_DIRN)) &&
    s.patternKind q == s.patternKind ppi
  if k = 0 ∨ !((s.patternKind ppi).1 = 1 ∨ (s.patternKind ppi).1 = 2) then 0
  else if ok k then k else if ok (k.sign) && decide (k.natAbs = 2) then k.sign else 0

/-- The PPI that a sample requests, with the band it keeps or takes: a new KIND, or new PULSES within KIND 1, only after BAND_HOLD consecutive
lookups have returned it; the PPI last requested stands until then (R329, R331). DEDUCED, log entry 86. -/
def bandRequest (m : Nat) (s : State) : State :=
  let e := curEngine m
  let ppi := s.get (.loop .CH_R) e 2
  let n := s.patternKind ppi
  let same := n.1 == s.get (.drv .TR_KIND) m && (n.1 != 1 || n.2 == s.get (.drv .TR_PULSES) m)
  let cnt := if n.1 = s.get (.drv .TR_NKIND) m ∧ n.2 = s.get (.drv .TR_NPULSES) m then min 64 (s.get (.drv .TR_NCNT) m + 1) else 1
  let t := ((s.set (.drv .TR_NKIND) n.1 m).set (.drv .TR_NPULSES) n.2 m).set (.drv .TR_NCNT) cnt m
  if same || decide (s.recN m 0x12 1 ≤ cnt) then
    let q := ((ppi : Int) + s.patternStep m ppi (s.sget (.loop .LS_STAT_U) e 0)).toNat
    ((t.set (.drv .TR_KIND) n.1 m).set (.drv .TR_PULSES) n.2 m).set (.drv .TR_PPI) q m
  else t

/-- The rotor angle at the next reload boundary of the motor's domain (R332). -/
def angleAtBoundary (m : Nat) (s : State) : Int × State :=
  let r := elecMove m (s.sget (.drv .TR_OMEGA) m) (s.get (.edge .DOM_NEXT) m - s.now) s
  (r.1 + s.get (.drv .TR_THETA) m, r.2)

/-- What the sample sends (R328, R330, R332): in carrier the duties and a load-all, with PPI 0 on the return from a tide band; in a tide band
RATE, PPI and, from carrier, ANGLE_SET, else CORR, which moves the player's angle towards the rotor angle plus the pattern's reference plus the
q-axis output by at most 131,072 LSB a frame. DEDUCED, log entry 86. -/
def modulate (m was : Nat) (x : MotorSample) (s : State) : State :=
  let e := curEngine m
  let kind := s.get (.drv .TR_KIND) m
  if kind = 0 then
    let t := s.when (was != 0) (sendChan e (8 + m) 0)
    let t := sendChan e (18 + 3 * m) x.dW.toNat (sendChan e (17 + 3 * m) x.dV.toNat (sendChan e (16 + 3 * m) x.dU.toNat t))
    sendChan e 28 (2 ^ m) t
  else
    let r := elecRate m (s.sget (.drv .TR_OMEGA) m) s
    let t := sendChan e (8 + m) (s.get (.drv .TR_PPI) m) (sendChan e m (ofSigned 24 (clampI (-(2 ^ 23)) (2 ^ 23 - 1) r.1)) r.2)
    if was = 0 then
      let a := angleAtBoundary m t
      sendChan e (12 + m) (ofSigned 24 (a.1 + x.vAngle.toNat)) a.2
    else
      let p := (catchUp m s).get (.edge .TP_ANGLE) m
      let c := angleDiff (s.get (.drv .TR_THETA) m + x.vAngle.toNat + 256 * s.sget (.loop .LS_STAT_U) e 1) p
      sendChan e (4 + m) (ofSigned 24 (clampI (-131072) 131072 c)) t

/-- Band code of the status block: 0 to 3 by KIND, 4 while a probe pattern plays (R328, R353). -/
def State.bandCode (s : State) (m : Nat) : Nat :=
  if s.get (.drv .TR_POS) m = 2 ∧ !s.flag (.drv .TR_PROBED) m then 4 else s.get (.drv .TR_KIND) m

/-- The PPI of the probe pattern: the first carrier pattern of the motor's store in the directory (R356). DEDUCED, log entry 85. -/
def State.probePpi (s : State) (m : Nat) : Option Nat :=
  ((List.range (s.get (.edge .TL_DIRN))).map (· + 1)).find? (fun p => (s.dirEntry p).kind == 4 && (s.dirEntry p).store == m)

/-- One sample of slot 0 of a current engine (R327): sensors, rotor angle and source, references, modulation. -/
def motorSample (m : Nat) (x : MotorSample) (s : State) : State :=
  let e := curEngine m
  let t := sensorCheck m (fun ph => if ph = 0 then x.pU.toInt else x.pV.toInt) s
  let a := rotorAngles m x t
  let g := extrapolated m a.2
  let t := probeSample m x.probe g.2
  let t := resolverWatch m a.1.1 a.1.2 t
  let t := rotorLost m a.1.1 a.1.2 g.1 t
  let t := resolverGone m (angleCheck m a.1.1 a.1.2 t)
  let pos := t.get (.drv .TR_POS) m
  let th := if pos = 0 then a.1.1 else if pos = 1 then a.1.2 else g.1
  let w := if pos = 0 then s.sget (.loop .LS_STAT_U) e 2 else if pos = 1 then s.sget (.loop .LS_STAT_U) e 3 else t.sget (.drv .TR_AGR_SPD) m
  let t := (t.sset (.drv .TR_THETA) th m).sset (.drv .TR_OMEGA) w m
  let t := catchSample m x.iD.toInt x.iQ.toInt t
  let t := if t.speedAbove w (t.recN m 8 2) 11 10 then trFlag m 7 true (escalate e t) else t
  let t := motorRefs m t
  let t := if t.get (.drv .TR_POS) m = 2 ∧ !t.flag (.drv .TR_PROBED) m then
      match t.probePpi m with | some p => sendChan e (8 + m) p t | none => t
    else modulate m (s.get (.drv .TR_KIND) m) x (bandRequest m t)
  t.set (.drv .TR_BAND) (t.bandCode m) m

/-- Stage U of a slot whose law the program computes. -/
def stageU (e k : Nat) (v : Int) (s : State) : State := (s.sset (.loop .S_U) (satS 16 v) e k).setBit (.loop .S_HAS) 1 e k

/-- What a motor's program does in a sample beyond its instructions (R320 to R357). -/
def tractionObs (o : ProgObs) (s : State) : State :=
  match o with
  | .motor m x => motorSample m.val x s
  | .observer m false v => stageU (curEngine m.val) 2 v.toInt s
  | .observer m true v => stageU (curEngine m.val) 3 (if s.speedAtLeast v.toInt (s.recN m.val 0x0C 2) 1 1 then v.toInt else 0) s
  | .torque m =>
    let v := s.sget (.loop .S_SP) (trqEngine m.val) 0
    stageU (trqEngine m.val) 0 (if s.flag (.drv .TR_SENSE) m.val then -v else v) s
  | .request m =>
    stageU (trqEngine m.val) 1 (clampI (s.wsget .LS_LIMIT_OMIN (trqEngine m.val) 1) (s.wsget .LS_LIMIT_OMAX (trqEngine m.val) 1)
      (if s.bit (.drv .TR_FLAGS) 4 m.val || s.flag (.loop .LS_PM_STAT_LOOP_UNPRIMED) (curEngine m.val) 0 then 0 else s.sget (.drv .TR_TQ) m.val)) s
  | _ => s

/-- Add to the TRIM of one leg and take from its partner's, within a bound, in fine ticks; it takes effect at the next load-all
(R325, R326). -/
def moveTrim (later earlier : Nat) (bound : Int) (s : State) : State :=
  let t := s.sset (.edge .LEG_TRIM) (clampI (-bound) bound (s.sget (.edge .LEG_TRIM) later + 1)) later
  t.sset (.edge .LEG_TRIM) (clampI (-bound) bound (s.sget (.edge .LEG_TRIM) earlier - 1)) earlier

/-- Current sharing of one phase: a module more than 2 % above the mean of the pair (R325). -/
def sharePair (a b ia ib : Nat) (s : State) : State :=
  if 200 * ia > 102 * (ia + ib) then moveTrim a b 128 s else if 200 * ib > 102 * (ia + ib) then moveTrim b a 128 s else s

/-- CURRENT_SHARING: every 10 ms the drive firmware compares the mean absolute currents of the modules of U and V, sums over the same samples
(R325). -/
def currentSharing (m : Nat) (s : State) : State :=
  if s.now < s.get (.drv .TR_SHARE_AT) m + us 10000 then s
  else
    let b := 6 * m
    let i := fun x => s.get (.drv .TR_ABS) (4 * m + x)
    let t := sharePair (b + 2) (b + 3) (i 2) (i 3) (sharePair b (b + 1) (i 0) (i 1) s)
    (t.forUpTo 4 (fun x t => t.off (.drv .TR_ABS) (4 * m + x))).set (.drv .TR_SHARE_AT) s.now m

/-- Interpolate a command curve: 16 points of X, Y from an offset of the record; below and above its ends it is flat. Where the
quotient is no integer a free bit says whether the next one is taken (R341). -/
def curveAt (m off : Nat) (c : Int) (s : State) : Int × State :=
  let x (i : Nat) : Int := s.recN m (off + 4 * i) 2
  let y (i : Nat) : Int := s.recS m (off + 4 * i + 2)
  if c ≤ x 0 then (y 0, s)
  else if c ≥ x 15 then (y 15, s)
  else
    let i := (List.range 15).foldl (fun b i => if x i ≤ c then i else b) 0
    let d := x (i + 1) - x i
    let n := (y (i + 1) - y i) * (c - x i)
    if n % d = 0 then (y i + n / d, s) else (y i + n / d + (s.free 1).1, (s.free 1).2)

/-- The Operator's torque limit in the torque base of the package: a cap on the torque request slot (R541). -/
def State.torqueLimit (s : State) (m : Nat) : Nat :=
  let b := singleQ (s.get (.drv .PK_BASE) 2)
  if b.1 = 0 then 0x7FFF else min 0x7FFF (s.get (.host .LIM) m * 32768 * b.2 / b.1)

/-- COMMAND_CURVE_EVAL: command input, engagement, direction, curve and what follows for the torque engine (R340 to R343,
R358). The pedals are the housekeeping channels HK20 and HK21 (R316). DEDUCED, log entry 87. -/
def curveEval (m : Nat) (s' : State) : State :=
  let p0 := s'.get (.sns .HK_SENT) 20
  let p1 := s'.get (.sns .HK_SENT) 21
  let pm := quot (p0 + p1) 2 s'
  let s := pm.2
  let limp := s.flag (.drv .TR_LIMP) m
  let flt := decide (20 * ((p0 : Int) - p1).natAbs > 32768)
  let c : Int := if limp then (if flt then 0 else (pm.1 : Int)) else s.get (.drv .TR_CMD) m
  let s := trFlag m 6 (limp && flt) s
  let eng := if c ≥ s.recN m 0x0E 2 then true else if c < s.recN m 0x10 2 then false else s.flag (.drv .TR_ENG) m
  let s := s.setB (.drv .TR_ENG) eng m
  let speed := s.sget (.loop .LS_STAT_U) (curEngine m) 2
  let dir := s.flag (.drv .TR_DIR) m
  let moving := s.speedAtLeast speed (s.recN m 0x0A 2 + 1) 1 1
  let rev := decide (speed < 0)
  let s := if moving then trFlag m 5 (rev != dir) (s.setB (.drv .TR_SENSE) (if rev != dir then rev else s.flag (.drv .TR_SENSE) m) m)
    else trFlag m 5 false (s.setB (.drv .TR_SENSE) dir m)
  let inSense := if s.flag (.drv .TR_SENSE) m then -speed else speed
  let y := if eng then curveAt m (if limp then 0x60 else 0x20) c s else (0, s)
  let s := y.2
  if s.bit (.drv .TR_FLAGS) 5 m then (s.set (.drv .TR_SPD) 0 m).set (.drv .TR_TQ) 0 m
  else if s.recN m 2 1 = 0 ∧ !limp then
    (s.sset (.drv .TR_SPD) (if eng then y.1 else inSense) m).set (.drv .TR_TQ) (if eng then s.torqueLimit m else 0) m
  else
    let b := singleQ (s.get (.drv .PK_BASE) 3)
    let nmax := min (s.recN m 8 2) (s.get (.host .LIM) 2) * 32768 * b.2 / max 1 b.1
    (s.set (.drv .TR_SPD) (min nmax 0x7FFF) m).sset (.drv .TR_TQ) (let c := if limp then min y.1 (s.recN m 0x1C 2) else y.1; clampI (-(s.torqueLimit m : Int)) (s.torqueLimit m) c) m

/-- LIMP_HOME_ENTRY: LIMP_EN set, DRIVE, no valid host command for 100 ms (R343). -/
def limpEntry (m : Nat) (s : State) : State :=
  if (s.recN m 3 1).testBit 0 ∧ s.get (.saf .AXLE_MODE_MODE) = 2 ∧ s.get (.drv .TR_CMD_AT) m + us 100000 ≤ s.now then
    s.on (.drv .TR_LIMP) m
  else s

/-- OMIN of the torque request and speed loop slots, with an APPLY, at most every 10 ms (R345). -/
def ominUpdate (m v : Nat) (s : State) : State :=
  if s.now < s.get (.drv .TR_OMIN_AT) m then s
  else
    let e := trqEngine m
    let t := s.forEach [1, 2] (fun k t => lsCtrlWrite e k 1 (t.set (.loop .LS_LIMIT_OMIN) v e k))
    t.set (.drv .TR_OMIN_AT) (s.now + us 10000) m

/-- Turning points of a module's residue, oldest first. -/
def State.residue (s : State) (x : Nat) : List Int := (List.range (s.get (.drv .TR_RESN) x)).map (fun i => s.sget (.drv .TR_RES) x i)

/-- Store a residue. -/
def setResidue (x : Nat) (l : List Int) (s : State) : State :=
  (l.zipIdx.foldl (fun t p => t.sset (.drv .TR_RES) p.1 x p.2) s).set (.drv .TR_RESN) l.length x

/-- Take a temperature into a list of turning points, newest first: it moves the last one on, or turns by more than 2 K, or is
dropped (R348). -/
def turn (v : Int) : List Int → List Int
  | [] => [v]
  | [a] => if (v - a).natAbs ≥ 128 then [v, a] else [a]
  | a :: b :: r =>
    if (a ≥ b ∧ v ≥ a) ∨ (a ≤ b ∧ v ≤ a) then v :: b :: r
    else if (v - a).natAbs ≥ 128 then v :: a :: b :: r else a :: b :: r

/-- Remove closed cycles from a list of turning points, newest first; the result counts them (R348). -/
def closeCycles : Nat → List Int → Nat × List Int
  | n + 1, d :: c :: b :: a :: r =>
    if (b - c).natAbs ≤ (a - b).natAbs ∧ (b - c).natAbs ≤ (c - d).natAbs then
      ((closeCycles n (d :: a :: r)).1 + 1, (closeCycles n (d :: a :: r)).2)
    else (0, d :: c :: b :: a :: r)
  | _, l => (0, l)

/-- Add the damage of one cycle; the rules give it by a formula over real numbers whose rounding they leave open, so the sum takes
a free addend (R348). -/
def addDamage (x : Nat) (s : State) : State :=
  (s.free 48).2.set (.drv .TR_D) (min (s.get (.drv .TR_D) x + (s.free 48).1) (2 ^ 64 - 1)) x

/-- JUNCTION_REPORT: an estimate of a module enters its rainflow count, unless the junction model, slot 7 of the torque engine, is unprimed or
holds, which marks the report word invalid; a 65th turning point counts the oldest half-cycle and removes it (R175, R176, R319, R348, R349). -/
def junctionReport (x : Nat) (v : Int) (s : State) : State :=
  if s.flag (.loop .LS_PM_STAT_LOOP_UNPRIMED) (trqEngine (x / 6)) 7 ∨ s.flag (.loop .LS_PM_STAT_HOLDING) (trqEngine (x / 6)) 7 then s
  else
    let r := closeCycles 64 (turn v (s.residue x).reverse)
    let t := s.forUpTo r.1 (fun _ t => addDamage x t)
    let l := r.2.reverse
    if l.length > 64 then setResidue x l.tail (addDamage x t) else setResidue x l t

/-- The largest D of a motor's modules (R350). -/
def State.maxDamage (s : State) (m : Nat) : Nat := (List.range 6).foldl (fun a x => max a (s.get (.drv .TR_D) (6 * m + x))) 0

/-- The largest D is held for every kilometre that the host's odometer has passed (R350, R539). -/
def holdDistance (m : Nat) (s : State) : State :=
  let km := s.get (.drv .VEH_ODO) / 100
  let n := min 128 (km - s.get (.drv .TR_KML) m)
  (s.forUpTo n (fun i t => t.set (.drv .TR_KMD) (s.maxDamage m) m ((km - i) % 128))).set (.drv .TR_KML) (max km (s.get (.drv .TR_KML) m)) m

/-- DAMAGE_RATE_EVAL: half the damage-rate ratio as a Q1.15 fraction limited to 1, from the increase of the largest D over the last 100 km; 0
before 100 km have been covered since the first snapshot (R350). Where the quotient is no integer a free bit says whether the next one is
taken. -/
def damageRate (m : Nat) (s' : State) : State :=
  let s := holdDistance m s'
  let km := s.get (.drv .TR_KML) m
  if s.get (.drv .TR_KM0) m = 0 ∨ km + 1 < s.get (.drv .TR_KM0) m + 100 then s.set (.drv .TR_RHO) 0 m
  else
    let inc := s.maxDamage m - s.get (.drv .TR_KMD) m ((km - 100) % 128)
    let q := quot (inc * s.recN m 0xAC 4 * 32768) (2 ^ 48 * 200) s
    q.2.set (.drv .TR_RHO) (min q.1 0x7FFF) m

/-- Copy a module's account into a snapshot record: damage and residue (R349, R351). -/
def saveModule (r x : Nat) (s : State) : State :=
  let t := (s.set (.drv .TR_SNAPD) (s.get (.drv .TR_D) x) (12 * r + x)).set (.drv .TR_SNAPN) (s.get (.drv .TR_RESN) x) (12 * r + x)
  t.forUpTo (s.get (.drv .TR_RESN) x) (fun k t => t.set (.drv .TR_SNAPR) (s.get (.drv .TR_RES) x k) (12 * r + x) k)

/-- WEAR_SNAPSHOT: the account goes to the older of two records in flash with the next sequence number (R351). -/
def wearSnapshot (s : State) : State :=
  let q := s.get (.drv .TR_SNAPQ) + 1
  let t := (s.set (.drv .TR_SNAPQ) q).forUpTo 12 (saveModule (q % 2))
  let t := t.forUpTo 2 (fun m t => if s.get (.drv .TR_KM0) m = 0 then
    (t.set (.drv .TR_KM0) (s.get (.drv .VEH_ODO) / 100 + 1) m).set (.drv .TR_KML) (s.get (.drv .VEH_ODO) / 100) m
      |>.set (.drv .TR_KMD) (s.maxDamage m) m (s.get (.drv .VEH_ODO) / 100 % 128) else t)
  (t.set (.drv .TR_SNAPAT) s.now (q % 2)).send .store 351 (q % 2) q

/-- Take a module's account from a snapshot record (R351). -/
def loadModule (r x : Nat) (s : State) : State :=
  let t := (s.set (.drv .TR_D) (s.get (.drv .TR_SNAPD) (12 * r + x)) x).set (.drv .TR_RESN) (s.get (.drv .TR_SNAPN) (12 * r + x)) x
  t.forUpTo (s.get (.drv .TR_SNAPN) (12 * r + x)) (fun k t => t.set (.drv .TR_RES) (s.get (.drv .TR_SNAPR) (12 * r + x) k) x k)

/-- Add the damage of 60 s at a module's average rate over the last snapshot interval; where the quotient is no integer a free bit
says whether the next one is taken, and without an interval the addend is free (R352). DESIGN CHOICE, log entry 69. -/
def addLostMinute (r x : Nat) (s : State) : State :=
  let n := (s.get (.drv .TR_SNAPD) (12 * r + x) - s.get (.drv .TR_SNAPD) (12 * (1 - r) + x)) * secs 60
  let d := s.get (.drv .TR_SNAPAT) r - s.get (.drv .TR_SNAPAT) (1 - r)
  if s.get (.drv .TR_SNAPQ) = 1 ∨ d = 0 then addDamage x s
  else
    let u := s.when (n % d != 0) (fun s => (s.free 1).2)
    let c := if n % d = 0 then 0 else (s.free 1).1
    u.set (.drv .TR_D) (min (s.get (.drv .TR_D) x + n / d + c) (2 ^ 64 - 1)) x

/-- The account is read at a start: it goes on from the newer record; after a run that ended without an orderly snapshot and whose
last record was older than 60 s, damage is added (R351, R352). DESIGN CHOICE, log entry 69. -/
def readAccount (s : State) : State :=
  if s.get (.drv .TR_SNAPQ) = 0 then s
  else
    let r := s.get (.drv .TR_SNAPQ) % 2
    let t := s.forUpTo 12 (loadModule r)
    let late := s.get (.drv .TR_LOST) != 0 && decide (s.get (.drv .TR_SNAPAT) r + secs 60 < s.get (.drv .TR_LOST) - 1)
    (if late then t.forUpTo 12 (addLostMinute r) else t).off (.drv .TR_LOST)

/-- The LOWEST slot of the torque engine that now wins (R344, R353). -/
def State.trWinner (s : State) (m : Nat) : Nat :=
  ((List.range 8).find? (fun k => decide (1 ≤ k) && s.flag (.loop .LS_STAT_WINNER) (trqEngine m) k)).getD 0

/-- DERATE of the status block (R353). -/
def State.trDerate (s : State) (m : Nat) : Nat :=
  let w := s.trWinner m
  (s.get (.drv .TR_SENSF) m != 0 : Bool).toNat + 2 * (w == 3 : Bool).toNat + 4 * (w == 4 : Bool).toNat + 8 * (w == 5 : Bool).toNat +
    16 * (w == 6 : Bool).toNat + 32 * (s.get (.drv .TR_POS) m == 1 || s.bit (.drv .TR_FLAGS) 3 m : Bool).toNat +
    64 * s.get (.drv .TR_LIMP) m

/-- Write consecutive little-endian fields (value, bytes) from an address. -/
def writeFields (a : Nat) : List (Nat × Nat) → State → State
  | [], s => s
  | (v, n) :: r, s => writeFields (a + n) r (s.writeN a v n)

/-- TRACTION_STATUS_WRITE: a motor's status block in the lagoon (R353). -/
def tractionStatus (m : Nat) (s : State) : State :=
  let e := curEngine m
  let cap := s.trCap m
  let tq := clampI (-(cap : Int)) cap (s.sget (.loop .LS_STAT_U) (trqEngine m) 0)
  writeFields (0x1800002000 + 0x80 * m)
    ([(s.axleTime, 8), (s.get (.drv .TR_POS) m, 1), (s.get (.drv .TR_BAND) m, 1), (s.get (.drv .TR_ENG) m, 1), (s.trDerate m, 1),
      (s.get (.drv .TR_FLAGS) m, 2), (s.get (.drv .TR_SENSID) m, 1), (s.trWinner m, 1), (s.get (.loop .LS_STAT_U) e 2, 2),
      (s.get (.loop .LS_STAT_U) e 3, 2), (ofSigned 16 tq, 2), (cap, 2)] ++
      (List.range 6).map (fun x => (s.get (.drv .TR_D) (6 * m + x), 8)) ++ [(0, 56)]) s

/-- A speed estimate is not older than 1 ms: its engine runs, its misses do not reach 1 ms, it is primed (R346). -/
def State.estimateValid (s : State) (e k : Nat) : Bool :=
  let per := match (s.entries e (s.activeBank e)).find? (fun x => x.2.ls == k) with
    | some x => s.frameTicks e * s.divider e (s.activeBank e) x.2 4
    | none => 0
  s.get (.loop .LE_STAT_STATE) e == 1 && decide (s.get (.loop .LS_MISS_MISS_RUN) e k * per < us 1000) &&
    !s.flag (.loop .LS_PM_STAT_LOOP_UNPRIMED) e k

/-- The band evaluation of one motor (R249, R250, R346). With no package active it is not made, and SEL stays 1 for every group (R581). -/
def bandMotor (k : Nat) (s : State) : State :=
  let x := s.get (.saf .XOVER_XOVER) k
  if !s.flag (.loop .CHART_STAT_LOADED) then bandWrite 0xFFFF s
  else if x = 0 then s
  else
    let er := s.get (.saf .SPDSRC_ENG_RES) k
    let sr := s.get (.saf .SPDSRC_SLOT_RES) k
    let ee := s.get (.saf .SPDSRC_ENG_EMF) k
    let se := s.get (.saf .SPDSRC_SLOT_EMF) k
    let u1 := s.sget (.loop .LS_STAT_U) er sr
    let u2 := s.sget (.loop .LS_STAT_U) ee se
    let v1 := s.estimateValid er sr
    let v2 := s.estimateValid ee se
    let apart := s.speedAtLeast (u1 - u2) x 1 10 && !(decide ((u1 - u2).natAbs * (singleQ (s.get (.drv .PK_BASE) 3)).1 * 10 =
      x * 32768 * (singleQ (s.get (.drv .PK_BASE) 3)).2))
    let t := (s.setB (.saf .SPDSRC_VALID_RES) v1 k).setB (.saf .SPDSRC_VALID_EMF) v2 k
    let t := (t.when apart (·.on (.saf .SPDSRC_DISAGREE) k)).when (!v1 || !v2) (·.on (.saf .SPDSRC_STALE) k)
    let grps := s.get (.saf .XOVER_GRPS) k
    let sel := s.get (.grd .BAND)
    if apart || !v1 || !v2 || s.speedAtLeast u1 x 1 1 then bandWrite (sel ||| grps) t
    else if s.speedAtLeast u1 x 95 100 then t
    else bandWrite (andNot sel grps) t

/-- BAND_EVALUATION (R249): both motors. DEDUCED, log entry 44. -/
def execBandEvaluation (s : State) : Host.Outcome State Fault Refusal := done (bandMotor 1 (bandMotor 0 s))
/-- CURRENT_SHARING (R325). -/
def execCurrentSharing (m : Fin 2) (s : State) : Host.Outcome State Fault Refusal := done (currentSharing m.val s)
/-- W_PHASE_TRIM (R326): temperatures of W1 and W2 in 1/64 °C. -/
def execWPhaseTrim (m : Fin 2) (w1 w2 : Half) (s : State) : Host.Outcome State Fault Refusal :=
  let b := 6 * m.val + 4
  let d := toSigned 16 w1.toNat - toSigned 16 w2.toNat
  done (if d > 192 then moveTrim b (b + 1) 32 s else if d < -192 then moveTrim (b + 1) b 32 s else s)
/-- LIMP_HOME_ENTRY (R343). -/
def execLimpHomeEntry (m : Fin 2) (s : State) : Host.Outcome State Fault Refusal := done (limpEntry m.val s)
/-- OMIN_UPDATE (R345): the rules give no formula for the value; the drive firmware's is the operand. DESIGN CHOICE, log entry 45. -/
def execOminUpdate (m : Fin 2) (v : Half) (s : State) : Host.Outcome State Fault Refusal := done (ominUpdate m.val v.toNat s)
/-- JUNCTION_REPORT (R348). DESIGN CHOICE, log entry 45. -/
def execJunctionReport (m : Fin 2) (x : Fin 6) (v : Half) (s : State) : Host.Outcome State Fault Refusal :=
  done (junctionReport (6 * m.val + x.val) (toSigned 16 v.toNat) s)
/-- DAMAGE_RATE_EVAL (R350). DESIGN CHOICE, log entry 45. -/
def execDamageRateEval (m : Fin 2) (s : State) : Host.Outcome State Fault Refusal := done (damageRate m.val s)
/-- WEAR_SNAPSHOT (R351). -/
def execWearSnapshot (s : State) : Host.Outcome State Fault Refusal := done (wearSnapshot s)
/-- TRACTION_STATUS_WRITE (R353). DESIGN CHOICE, log entry 66. -/
def execTractionStatusWrite (m : Fin 2) (s : State) : Host.Outcome State Fault Refusal := done (tractionStatus m.val s)

end Sys2Proof.Machine
end

