-- ==== Sys2Proof/Machine/Modes.lean ====
section
/-!
DEFINITION. Axle modes (R52 to R57): the conditions of Table: Mode transitions, the start of a change and its completion.
Modes: 0 STOWED, 1 READY, 2 DRIVE, 3 CHARGE, 4 LINE, 5 COMMISSION, 6 SAFE_HOLD.
-/
namespace Sys2Proof.Machine
open Sys2Proof

/-- Both motors turn below the standstill speed N_STILL (R54, R322). -/
def State.standstill (s : State) : Bool :=
  (List.range 2).all (fun m => !s.speedAtLeast (s.sget (.loop .LS_STAT_U) (curEngine m) 2) (s.recN m 0x0A 2) 1 1)

/-- The windows of the charging record in use: those whose T_LO differs from their T_HI (R401). -/
def State.usedWindows (s : State) : List Nat := (List.range 5).filter (fun k => s.recS 4 (0x10 + 8 * k) != s.recS 4 (0x12 + 8 * k))

/-- A field of the charging record lies outside its range, or its windows are out of order (R400, R401): the offset of the first. An unused
window takes no part in the order. DEDUCED, log entry 49. -/
def State.chgBad (s : State) : Option Nat :=
  let f := s.recN 4
  let lo (k : Nat) := s.recS 4 (0x10 + 8 * k)
  let hi (k : Nat) := s.recS 4 (0x12 + 8 * k)
  let next (k : Nat) := s.usedWindows.find? (fun j => decide (k < j))
  if f 0 1 ≥ 8 then some 0 else if f 1 1 > 3 then some 1 else if f 2 1 > 3 then some 2 else if f 3 1 > 1 then some 3
  else if f 3 1 = 1 ∧ f 4 4 ≥ 2048 then some 4
  else if f 8 2 < 20 ∨ f 8 2 > 1000 then some 8 else if f 0x0C 2 < 1 ∨ f 0x0C 2 > 1000 then some 0x0C
  else if f 0x0E 1 > 31 ∧ f 0x0E 1 ≠ 0xFF then some 0x0E else if f 0x0F 1 < 1 ∨ f 0x0F 1 > 10 then some 0x0F
  else match (List.range 5).find? (fun k => f (0x16 + 8 * k) 2 != 0 || decide (lo k > hi k) ||
      (s.usedWindows.contains k && (match next k with | some j => decide (hi k > lo j) | none => false))) with
  | some k => some (0x10 + 8 * k)
  | none =>
    if f 0x3A 2 < 10 ∨ f 0x3A 2 > 440 then some 0x3A else if f 0x40 2 < 5 ∨ f 0x40 2 > 50 then some 0x40
    else if f 0x42 1 ≥ 8 then some 0x42 else if f 0x43 1 > 7 then some 0x43 else if f 0x44 1 > 7 then some 0x44
    else if f 0x45 1 > 7 then some 0x45 else if f 0x48 56 ≠ 0 then some 0x48 else none

/-- Drivers of the DC charge contactors (R400). -/
def State.cdDcp (s : State) : Nat := s.recN 4 0x43 1
/-- Driver of the DC charge negative contactor. -/
def State.cdDcn (s : State) : Nat := s.recN 4 0x44 1
/-- Driver of the AC input contactor. -/
def State.cdAc (s : State) : Nat := s.recN 4 0x45 1

/-- The DC charge contactors are both closed. -/
def State.dcClosed (s : State) : Bool := s.flag (.saf .CD_STAT_ON) s.cdDcp && s.flag (.saf .CD_STAT_ON) s.cdDcn

/-- The line converter carries no current: it is off, or its last measured current is 0. DEDUCED, log entry 47. -/
def State.lineZero (s : State) : Bool := s.get (.drv .CV_STATE) 0 == 0 || s.get (.drv .CV_I) 0 == 0

/-- Charging carries no current (R54): nothing is requested, and the path in use is at zero: the AC charger's groups are disabled, or the
EVSE reports no current. -/
def State.chargeZero (s : State) : Bool :=
  s.get (.drv .CH_REQ) == 0 &&
    match s.get (.drv .CH_PATH) with
    | 1 => (s.get (.edge .OG_EN) &&& 0x18) == 0
    | 2 => s.get (.drv .CH_EVSE_I) == 0
    | 3 => s.get (.drv .CH_EVSE_I) == 0 && s.lineZero
    | _ => true

/-- The role entitled to clear the latched cause of SAFE_HOLD (Table: Fault items): 1 Operator, 2 Installer. -/
def State.holdRole (s : State) : Nat := if [7, 8].contains (s.get (.saf .AXLE_MODE_CAUSE)) then 1 else 2

/-- The conditions of Table: Mode transitions for a request by the host, with the role of its session, or by a firmware (R54); a change
of another pair of modes is refused. While UNLOCKED is 1, DRIVE, CHARGE and LINE are refused (R491). -/
def State.modeOk (s : State) (tgt role : Nat) (p : Pins) : Bool :=
  let locked := s.flag (.saf .DBG_UNLOCKED)
  match s.get (.saf .AXLE_MODE_MODE), tgt with
  | 0, 1 => s.flag (.loop .CHART_STAT_LOADED) && p.key && s.flag (.saf .STEST_PASS) && p.hvil && s.flag (.drv .BMS_SEEN)
  | 1, 0 => (andNot (s.get (.edge .OG_EN)) 0x1E0) == 0
  | 1, 2 => s.flag (.loop .CHART_STAT_CHART_WARM) && p.key && !p.coupler && !locked
  | 2, 1 => s.standstill
  | 1, 4 => p.line && !locked
  | 2, 4 => p.line && !locked
  | 4, 1 => s.lineZero
  | 4, 2 => s.lineZero && !locked
  | 1, 3 => p.coupler && s.standstill && s.get (.drv .PL_STATE) == 1 && s.chgBad.isNone && !locked
  | 3, 1 => s.chargeZero && !s.flag (.saf .CD_STAT_ON) s.cdDcp && !s.flag (.saf .CD_STAT_ON) s.cdDcn
  | 1, 5 => decide (2 ≤ role) && s.standstill
  | 5, 1 => (List.range 16).all (fun e => !s.flag (.loop .INJ_STAT_ACTIVE) e)
  | 6, 0 => decide (s.holdRole ≤ role) && !s.flag (.saf .HOLD_LATCHED) && (List.range 8).all (fun c => !s.flag (.saf .CD_STAT_ON) c)
  | _, _ => false

/-- Start a mode change: groups not permitted in the new mode go to their safe levels, the pack closes from STOWED to READY
(R52, R488). -/
def startMode (tgt : Nat) (s : State) : State :=
  let t := disableGroups (andNot 0xFFFF (s.get (.saf .MODE_GRP) tgt))
    (((s.on (.saf .AXLE_MODE_BUSY)).set (.saf .MODE_TGT) tgt).off (.saf .AXLE_MODE_REFUSED))
  t.when (s.get (.saf .AXLE_MODE_MODE) == 0 && tgt == 1) packClose

/-- The outcome of a mode request. -/
inductive ModeReply where
  | started | refused | busy
  deriving DecidableEq, Repr

/-- What a request for a mode other than SAFE_HOLD meets (R54, R55, R460). -/
def State.modeReply (s : State) (tgt role : Nat) (p : Pins) : ModeReply :=
  if s.flag (.saf .AXLE_MODE_BUSY) then .busy
  else if !s.safHeld && s.modeOk tgt role p then .started else .refused

/-- Request a mode (R54 to R57); SAFE_HOLD is always entered. -/
def requestMode (tgt role : Nat) (p : Pins) (s : State) : State :=
  if tgt = 6 then enterSafeHold 7 s
  else match s.modeReply tgt role p with
  | .started => startMode tgt s
  | _ => s.on (.saf .AXLE_MODE_REFUSED)

/-- The safe dead time still runs in a group that the mode does not permit. -/
def State.groupsMoving (s : State) (m : Nat) : Bool :=
  (List.range 16).any (fun g => !s.bit (.saf .MODE_GRP) g m && s.waitsSdt g)

/-- The package was lost: an axle in READY or COMMISSION goes to STOWED; a change in progress is completed first, and SAFE_HOLD stands
(R55, R102, R581). -/
def stowUnloaded (s : State) : State :=
  if s.flag (.saf .AXLE_MODE_BUSY) then s.on (.saf .STOW_DUE)
  else if s.get (.saf .AXLE_MODE_MODE) = 1 ∨ s.get (.saf .AXLE_MODE_MODE) = 5 then startMode 0 (s.off (.saf .STOW_DUE))
  else s.off (.saf .STOW_DUE)

/-- MODE_CHANGE_COMPLETE: a group that the new mode does not permit, and that was enabled meanwhile, goes to its safe level first; once
the groups are there, and the pack closed for READY from STOWED, MODE shows the new mode; the drivers not permitted in it open, and
PERMIT bits end with COMMISSION (R52, R169, R485, R486, R488). -/
def modeComplete (s' : State) : State :=
  let m := s'.get (.saf .MODE_TGT)
  let s := s'.when (s'.flag (.saf .AXLE_MODE_BUSY)) (disableGroups (s'.get (.edge .OG_EN) &&& andNot 0xFFFF (s'.get (.saf .MODE_GRP) m)))
  let old := s.get (.saf .AXLE_MODE_MODE)
  if !s.flag (.saf .AXLE_MODE_BUSY) ∨ s.groupsMoving m ∨ (old = 0 ∧ m = 1 ∧ s.get (.saf .CSEQ_PSTATE) ≠ 3) then s
  else
    let s := if old = 5 ∧ m ≠ 5 then clearPermits s else s
    let t := ((s.set (.saf .AXLE_MODE_PREV) old).set (.saf .AXLE_MODE_MODE) m).off (.saf .AXLE_MODE_BUSY)
    let open_ := ((List.range 8).filter (fun c => !s.bit (.saf .CD_CFG_MODES) m c)).foldl (fun a c => a + 2 ^ c) 0
    if m = 0 then openDrivers 0xFF true t else if m = 6 then t
    else
      let t := openDrivers open_ false t
      t.when (t.flag (.saf .STOW_DUE)) stowUnloaded

/-- MODE_CHANGE_COMPLETE (R52). -/
def execModeChangeComplete (s : State) : Host.Outcome State Fault Refusal := done (modeComplete s)

end Sys2Proof.Machine
end

