-- ==== Sys2Proof/Machine/Converters.lean ====
section
/-!
DEFINITION. The line converter (0) and the auxiliary converter (1), R359 to R397 and R404: states, reactions of the inner sample,
hiccup, open phases, set-points, the hand-over of domain 2 and the status blocks. States are the codes of R374.
-/
namespace Sys2Proof.Machine
open Sys2Proof

/-- The record of a converter in the parameter sets (R361, R362). -/
def State.cvRec (s : State) (c off n : Nat) : Nat := s.recN (2 + c) off n
/-- Output group of a converter (R359). -/
def cvGroup (c : Nat) : Nat := if c = 0 then 2 else 5
/-- Engine of a converter (R359). -/
def cvEngine (c : Nat) : Nat := 4 + c
/-- First leg of a converter (R359). -/
def cvLeg (c : Nat) : Nat := if c = 0 then 12 else 25
/-- Tide player of a converter (R359). -/
def cvPlayer (c : Nat) : Nat := 2 + c

/-- Phases fitted: NPH, and 4 for the auxiliary converter (R361, R366). -/
def State.cvFitted (s : State) (c : Nat) : Nat := if c = 0 then s.cvRec 0 0 1 else 4
/-- Phases in service. -/
def State.cvActive (s : State) (c : Nat) : List Nat :=
  (List.range (s.cvFitted c)).filter (fun k => !s.bit (.drv .CV_DROP) k c)
/-- Active phases for the effective limit (R366, R394). -/
def State.cvN (s : State) (c : Nat) : Nat :=
  if c = 0 then (s.cvActive 0).length else if s.get (.drv .CV_DROP) 1 = 0 then 4 else 3

/-- IDLE_PPI of a record. -/
def State.cvIdle (s : State) (c : Nat) : Nat := s.cvRec c (if c = 0 then 0x22 else 0x2A) 2
/-- HIC_N of a record. -/
def State.hicN (s : State) (c : Nat) : Nat := s.cvRec c (if c = 0 then 0x1A else 0x16) 1
/-- HIC_TRIES of a record. -/
def State.hicTries (s : State) (c : Nat) : Nat := s.cvRec c (if c = 0 then 0x1B else 0x17) 1
/-- OPEN_N of a record. -/
def State.openN (s : State) (c : Nat) : Nat := s.cvRec c (if c = 0 then 0x20 else 0x2D) 1
/-- HIC_OFF of a record. -/
def State.hicOffMs (s : State) (c : Nat) : Nat := s.cvRec c (if c = 0 then 0x1C else 0x18) 2
/-- SOFT_MS of a record. -/
def State.softMs (s : State) (c : Nat) : Nat := s.cvRec c (if c = 0 then 0x16 else 0x30) 2
/-- Output contactor of the line converter. -/
def State.cvContactor (s : State) : Nat := s.cvRec 0 0x21 1

/-- Offset of the first field of a converter record that lies outside its range (R361, R362, R363). -/
def State.cvBad (s : State) (c : Nat) : Option Nat :=
  let f := s.cvRec c
  if c = 0 then
    if f 0 1 < 2 ∨ f 0 1 > 6 then some 0 else if f 1 1 < 1 ∨ f 1 1 > f 0 1 then some 1 else if f 2 1 > 1 then some 2
    else if f 3 1 > 1 then some 3 else if f 4 2 > 500 then some 4 else if f 0x0C 2 ≥ f 0x0A 2 then some 0x0C
    else if f 0x0E 2 ≤ f 0x0A 2 then some 0x0E else if f 0x12 2 < 0x7333 ∨ f 0x12 2 > 0x7FFF then some 0x12
    else if f 0x16 2 < 1 ∨ f 0x16 2 > 1000 then some 0x16 else if f 0x18 2 > f 6 2 then some 0x18
    else if f 0x1A 1 < 1 then some 0x1A else if f 0x1C 2 < 10 ∨ f 0x1C 2 > 10000 then some 0x1C
    else if f 0x20 1 < 2 then some 0x20 else if f 0x21 1 > 7 then some 0x21
    else if f 0x24 1 < 4 ∨ f 0x24 1 > 20 then some 0x24 else if f 0x25 1 ≠ 0 then some 0x25
    else if f 0x26 2 < 1 ∨ f 0x26 2 > 1024 then some 0x26 else if f 0x28 24 ≠ 0 then some 0x28 else none
  else match (List.range 8).find? (fun k => f (2 * k) 2 != 0 && (decide (f (2 * k) 2 < 2000) || decide (f (2 * k) 2 > 3200))) with
  | some k => some (2 * k)
  | none =>
    if f 0x14 2 > f 0x10 2 then some 0x14 else if f 0x16 1 < 1 then some 0x16
    else if f 0x18 2 < 10 ∨ f 0x18 2 > 10000 then some 0x18 else if f 0x1C 2 ≤ f 0x1A 2 then some 0x1C
    else if f 0x1E 1 < 1 then some 0x1E else if f 0x1F 1 < 1 then some 0x1F
    else if f 0x26 1 < 1 ∨ f 0x26 1 > 64 then some 0x26 else if f 0x27 1 > 3 then some 0x27
    else if f 0x2C 1 < 4 ∨ f 0x2C 1 > 20 then some 0x2C else if f 0x2D 1 < 2 then some 0x2D
    else if f 0x2E 2 < 1 ∨ f 0x2E 2 > 1024 then some 0x2E else if f 0x30 2 < 1 ∨ f 0x30 2 > 1000 then some 0x30
    else if f 0x34 12 ≠ 0 then some 0x34 else none

/-- Enter a converter state. -/
def cvTo (c st : Nat) (s : State) : State := (s.set (.drv .CV_STATE) st c).set (.drv .CV_AT) s.now c
/-- The converter is to play a page: IDLE (1), the carrier (2) or FIRE (3). The program sends it, at the latest with its next sample (R368). -/
def cvPage (c how : Nat) (s : State) : State :=
  (s.set (.drv .CV_PGREQ) how c).send .page (cvPlayer c) (if how = 1 then s.cvIdle c else if how = 3 then s.cvRec 1 0x28 2 else 0)
/-- Enter a state in which the legs hold the IDLE page (R374). -/
def cvToIdle (c st : Nat) (s : State) : State := cvPage c 1 (cvTo c st s)
/-- Enter a state in which the legs run on the carrier (R368, R374). -/
def cvToCarrier (c st : Nat) (s : State) : State := cvPage c 2 (cvTo c st s)

/-- The program sends a page change in its frame: IDLE_PPI; for the carrier PPI 0, the duties of its channels and a load-all of its domain; for
FIRE its PPI, the RATE at which the pattern's pulses repeat at the nominal frequency, and ANGLE_SET 0 (R368, R392). -/
def cvSend (c : Nat) (d : Nat → Nat) (s : State) : State :=
  let e := cvEngine c
  let t := s.off (.drv .CV_PGREQ) c
  match s.get (.drv .CV_PGREQ) c with
  | 1 => sendChan e (8 + cvPlayer c) (s.cvIdle c) t
  | 2 =>
    let t := sendChan e (8 + cvPlayer c) 0 t
    let t := [0, 1, 2].foldl (fun t k => if c = 0 ∨ k = 0 then sendChan e (22 + 3 * c + k) (d k) t else t) t
    sendChan e 28 (2 ^ (2 + c)) t
  | 3 =>
    let ppi := s.cvRec 1 0x28 2
    let r := quot (2 ^ 40 * 8) ((s.patternKind ppi).2 * s.get (.edge .DOM_SSNOM) 3) t
    sendChan e (12 + cvPlayer c) 0 (sendChan e (cvPlayer c) r.1 (sendChan e (8 + cvPlayer c) ppi r.2))
  | _ => s
/-- Set a flag of byte 0x0B of the status block (R397). -/
def cvFlag (c b : Nat) (s : State) : State := s.setBit (.drv .CV_FLAGS) b c
/-- Open the line converter's output contactor. -/
def cvOpenContactor (c : Nat) (s : State) : State := if c = 0 then openDrivers (2 ^ s.cvContactor) false s else s

/-- Write LIMIT.OMAX of slot 1 with an APPLY (R366). -/
def writeOmax (c v : Nat) (s : State) : State :=
  lsCtrlWrite (cvEngine c) 1 1 (s.set (.loop .LS_LIMIT_OMAX) v (cvEngine c) 1)
/-- REPRIME slots 0 and 1 (R383, R387, R391). -/
def cvReprime (c : Nat) (s : State) : State := lsCtrlWrite (cvEngine c) 1 2 (lsCtrlWrite (cvEngine c) 0 2 s)
/-- Enter SOFT with OMAX at 0 (R366, R383). -/
def cvSoft (c : Nat) (s : State) : State := writeOmax c 0 (cvToCarrier c 4 s)

/-- The value of a converter's input as its program reads it: the port that takes the channel (R359). -/
def State.cvIn (s : State) (c kind chan : Nat) : Int := match s.portOf (cvEngine c) kind chan with
  | some p => s.port (cvEngine c) p
  | none => 0
/-- Current of phase `k` (R359). -/
def State.cvPhase (s : State) (c k : Nat) : Int := s.cvIn c 1 ((if c = 0 then 8 else 18) + k)
/-- Output current: the sum of the phase currents. Beyond Q1.15 it saturates. DEDUCED, log entry 48. -/
def State.cvTotal (s : State) (c : Nat) : Int := satS 16 (((List.range (s.cvFitted c)).map (s.cvPhase c)).foldl (· + ·) 0)
/-- Output voltage (R359). -/
def State.cvOut (s : State) (c : Nat) : Int := if c = 0 then s.cvIn 0 2 2 else s.cvIn 1 1 22
/-- Source voltage of the line converter: FC1 (R359). -/
def State.cvSource (s : State) : Int := s.cvIn 0 2 1

/-- FC1 lies from V_ON to V_LMAX (R375). -/
def State.srcIn (s : State) : Bool := decide ((s.cvRec 0 0x0A 2 : Int) ≤ s.cvSource) && decide (s.cvSource ≤ s.cvRec 0 0x0E 2)
/-- FC1 lies below V_DROP or above V_LMAX (R375). -/
def State.srcOut (s : State) : Bool := decide (s.cvSource < (s.cvRec 0 0x0C 2 : Int)) || decide (s.cvSource > s.cvRec 0 0x0E 2)
/-- The presence signal of the line converter's source: line presence in LINE, a session in CHARGING with the DC charge contactors closed in
CHARGE (R376, R405). -/
def State.cvPresence (s : State) (line : Bool) : Bool :=
  (s.get (.saf .AXLE_MODE_MODE) == 4 && line) ||
    (s.get (.saf .AXLE_MODE_MODE) == 3 && s.get (.drv .CH_STATE) == 5 && s.get (.drv .CH_PATH) == 3 && s.dcClosed)
/-- The source is present (R375). -/
def State.srcPresent (s : State) (line : Bool) : Bool := s.srcIn && s.cvPresence line

/-- The set-point that the drive firmware gives: VSET[CODE] for the auxiliary converter, the set-point channel for the line converter (R365,
R390). -/
def State.cvSet (s : State) (c : Nat) : Int :=
  if c = 1 then s.sget (.drv .CV_SPT) 1
  else match (List.range 32).find? (fun p => s.get (.loop .IPMAP_KIND) 4 p == 5) with
  | some p => s.port 4 p
  | none => 0

/-- The tracking target: FC0 + TRK_OFFS, or FC0 x TRK_RATIO, of which the rules state no rounding (R377). -/
def cvTarget (s : State) : Int × State :=
  let v := s.cvIn 0 2 0
  if s.cvRec 0 2 1 = 0 then (satS 16 (v + s.recS 2 0x10), s) else quotI (v * s.cvRec 0 0x12 2) 32768 s

/-- The mean output current over the outer sample period; without a sample in it the rules state none, and it is free (R365). -/
def cvMean (c : Nat) (s : State) : Int × State :=
  if s.get (.drv .CV_ICNT) c = 0 then (toSigned 16 (s.free 16).1, (s.free 16).2)
  else quotI (s.sget (.drv .CV_ISUM) c) (s.get (.drv .CV_ICNT) c) s

/-- v_out + k_pu x i_out, which the auxiliary converter takes with k_pu 0 (R365). DEDUCED, log entry 43. -/
def cvFeedback (c : Nat) (s : State) : Int × State :=
  if c = 1 then (s.cvOut 1, s)
  else
    let i := cvMean 0 s
    let ib := singleQ (s.get (.drv .PK_BASE) 0)
    let vb := singleQ (s.get (.drv .PK_BASE) 1)
    let k := quotI (i.1 * (s.cvRec 0 4 2 * ib.1 * vb.2 : Nat)) (10000 * ib.2 * vb.1 : Nat) i.2
    (satS 16 (s.cvOut 0 + k.1), k.2)

/-- Write an input port of KIND 0. -/
def putPort (e p : Nat) (v : Int) (s : State) : State :=
  if s.get (.loop .IPMAP_KIND) e p = 0 then (s.set (.loop .LE_IP) (ofSigned 32 v) e p).setBit (.loop .IPFRESH) p e else s

/-- The port writes of slot 1's program of a converter: SP_PORT takes the set-point, in TRACK the tracking target; FB_PORT the droop
feedback, with which the mean of the current begins again (R365, R377). -/
def cvPorts (e : Nat) (fb : Bool) (s : State) : State :=
  if e ≠ 4 ∧ e ≠ 5 then s
  else
    let c := e - 4
    if fb then
      let v := cvFeedback c s
      putPort e (s.wget .LS_CFG_FB_PORT e 1) v.1 ((v.2.off (.drv .CV_ISUM) c).off (.drv .CV_ICNT) c)
    else if c = 0 ∧ s.get (.drv .CV_STATE) 0 = 2 then
      let v := cvTarget s
      putPort e (s.wget .LS_CFG_SP_PORT e 1) v.1 v.2
    else putPort e (s.wget .LS_CFG_SP_PORT e 1) (s.cvSet c) s

/-- What an inner sample measures, with the history of the auxiliary output voltage (R365, R392, R397). -/
def cvMeasure (c : Nat) (s : State) : State :=
  let v := s.cvOut c
  let n := s.get (.drv .CV_VN) c
  let t := ((s.sset (.drv .CV_V) v c).sset (.drv .CV_I) (s.cvTotal c) c).sset (.drv .CV_SRCV) s.cvSource c
  let t := (t.sset (.drv .CV_ISUM) (s.sget (.drv .CV_ISUM) c + s.cvTotal c) c).incSat (.drv .CV_ICNT) c
  let t := t.sset (.drv .CV_DV) (if n < 4 then 0 else v - s.sget (.drv .CV_VH) c (n % 4)) c
  (t.sset (.drv .CV_VH) v c (n % 4)).inc (.drv .CV_VN) c

/-- The presence of the source in an inner sample; one that reappears during HANDOVER sets SRC_IGN (R375, R381). -/
def cvPresent (line : Bool) (s : State) : State :=
  let now := s.srcPresent line
  let rise := now && !s.flag (.drv .CV_PRES) 0
  let t := (s.setB (.drv .CV_PRES) now 0).when rise (·.set (.drv .CV_PRES_AT) s.now 0)
  t.when (rise && s.get (.drv .CV_STATE) 0 == 7) (cvFlag 0 3)

/-- Phase `k` is open in the sample: |i_k| below OPEN_THR, the mean of the other active phases at or above four times it (R386). -/
def State.cvIsOpen (s : State) (c k : Nat) : Bool :=
  let thr := s.cvRec c (if c = 0 then 0x1E else 0x32) 2
  let l := (s.cvActive c).filter (· != k)
  !l.isEmpty && decide ((s.cvPhase c k).natAbs < thr) &&
    decide (4 * thr * l.length ≤ (l.map (fun j => (s.cvPhase c j).natAbs)).foldl (· + ·) 0)

/-- Count the open samples of each phase; no test is made outside SOFT and RUN, or while slot 0 primes, and a sample without a test breaks a
run (R386, R394, R396). DEDUCED, log entry 48. -/
def cvOpenTest (c : Nat) (s : State) : State :=
  let test := (s.get (.drv .CV_STATE) c == 4 || s.get (.drv .CV_STATE) c == 5) && !s.flag (.loop .LS_PM_STAT_LOOP_UNPRIMED) (cvEngine c) 0
  s.forEach (s.cvActive c) (fun k t => t.set (.drv .CV_OPENC)
    (if test && s.cvIsOpen c k then min 255 (s.get (.drv .CV_OPENC) (8 * c + k) + 1) else 0) (8 * c + k))

/-- Some phase has been open in OPEN_N consecutive samples. -/
def State.cvPhaseOpen (s : State) (c : Nat) : Bool :=
  (s.cvActive c).any (fun k => decide (s.openN c ≤ s.get (.drv .CV_OPENC) (8 * c + k)) && s.openN c != 0)

/-- The state in which a limited frame counts (R383). -/
def State.cvCounts (s : State) (c : Nat) : Bool := [4, 5, 11, 12].contains (s.get (.drv .CV_STATE) c)

/-- A phase current is at or above IPH_MAX. -/
def State.cvPhaseMax (s : State) (c : Nat) : Bool :=
  (List.range (s.cvFitted c)).any (fun k => decide ((s.cvRec c (if c = 0 then 8 else 0x12) 2 : Int) ≤ s.cvPhase c k))

/-- Count a limited frame: the total current at or above HIC_I, or a phase current at or above IPH_MAX (R383). -/
def cvLimited (c : Nat) (s : State) : State :=
  if !s.cvCounts c then s
  else if decide ((s.cvRec c (if c = 0 then 0x18 else 0x14) 2 : Int) ≤ s.cvTotal c) || s.cvPhaseMax c then
    s.set (.drv .CV_LIM) (min 255 (s.get (.drv .CV_LIM) c + 1)) c
  else s.off (.drv .CV_LIM) c

/-- Begin HANDOVER from the measured current (R366). -/
def cvHandover (planned : Bool) (s : State) : State :=
  let t := ((s.set (.drv .CV_I0) (s.sget (.drv .CV_I) 0).toNat 0).setB (.drv .CV_PLANNED) planned 0).setB (.drv .CV_FROMRIDE) (!planned) 0
  cvTo 0 7 t

/-- A planned hand-over begins in SOFT or RUN (R376). -/
def cvLeave (s : State) : State :=
  if s.get (.drv .CV_STATE) 0 = 4 ∨ s.get (.drv .CV_STATE) 0 = 5 then cvHandover true s else s

/-- A source dropout: SOFT and RUN ride through; a planned hand-over asks for IDLE_PPI and its ramp runs on (R376, R380, R382). -/
def cvDropout (s : State) : State :=
  let st := s.get (.drv .CV_STATE) 0
  if st = 4 ∨ st = 5 then
    cvFlag 0 2 (cvToIdle 0 6 (((s.set (.drv .CV_PREV) st 0).set (.drv .CV_SOFTEL) (s.now - s.get (.drv .CV_AT) 0) 0).off (.drv .CV_LIM) 0))
  else if st = 7 ∧ s.flag (.drv .CV_PLANNED) 0 then cvPage 0 1 (s.off (.drv .CV_PLANNED) 0)
  else s

/-- The source is back within 2 ms: the state before RIDE goes on from what it held, SOFT with the time it had run (R376, R380). -/
def cvBack (s : State) : State :=
  let p := s.get (.drv .CV_PREV) 0
  (cvToCarrier 0 p s).when (p == 4) (·.set (.drv .CV_AT) (s.now - s.get (.drv .CV_SOFTEL) 0) 0)

/-- The transitions of the line converter that its program and the drive firmware take in an inner sample (R376). -/
def cvLine (line : Bool) (s : State) : State :=
  match s.get (.drv .CV_STATE) 0 with
  | 1 =>
    if s.flag (.drv .CV_PRES) 0 ∧ max (s.get (.drv .CV_PRES_AT) 0) (s.get (.drv .CV_AT) 0) + us 100000 ≤ s.now then
      ((cvToCarrier 0 2 s).off (.drv .CV_TRKN) 0).on (.loop .LS_STAT_FIRST) 4 1
    else s
  | 2 => if s.flag (.drv .CV_PRES) 0 then s else cvOpenContactor 0 (cvToIdle 0 1 s)
  | 3 => if s.flag (.drv .CV_PRES) 0 then s else cvOpenContactor 0 (cvToIdle 0 1 s)
  | 4 => if !s.cvPresence line ∨ s.get (.drv .CV_HOST) 0 ≠ 0 ∨ s.cvSet 0 = 0 then cvLeave s else s
  | 5 => if !s.cvPresence line ∨ s.get (.drv .CV_HOST) 0 ≠ 0 ∨ s.cvSet 0 = 0 then cvLeave s else s
  | 6 =>
    if s.get (.drv .CV_AT) 0 + us 2000 ≤ s.now then cvHandover false s
    else if s.srcIn then cvBack s else s
  | _ => s

/-- A voltage difference reaches `n` units of 10 mV (R391, R392). -/
def State.voltsAtLeast (s : State) (d : Int) (n : Nat) : Bool :=
  let b := singleQ (s.get (.drv .PK_BASE) 1)
  decide ((n * 32768 * b.2 : Int) ≤ d * 100 * b.1)

/-- The slewed set-point of the auxiliary converter's outer slot (R391). -/
def State.cvSp (s : State) : Int := s.sget (.loop .LS_SP_SP) 5 1

/-- An undershoot: v below SP, and its fall over four frames steeper than UNDER_SLOPE (R392). -/
def State.cvUnder (s : State) : Bool :=
  let b := singleQ (s.get (.drv .PK_BASE) 1)
  decide (s.sget (.drv .CV_V) 1 < s.cvSp) &&
    decide (-(s.sget (.drv .CV_DV) 1) * (b.1 * 6400000000 : Nat) > ((s.cvRec 1 0x24 2 * 10 * 32768 * 4 * s.frameTicks 5 * b.2 : Nat) : Int))

/-- FIRE begins in RUN, SLEEP and BURST (R392). -/
def cvFire (s : State) : State := cvPage 1 3 (cvFlag 1 5 (cvTo 1 12 (s.off (.drv .CV_FIREN) 1)))

/-- The transitions of the auxiliary converter that its program takes in an inner sample (R391, R393). A burst after a short sleep goes to RUN
before its thresholds are looked at, and SLEEP comes before RUN. DEDUCED, log entry 48. -/
def cvAux (s : State) : State :=
  let v := s.sget (.drv .CV_V) 1
  let i := s.sget (.drv .CV_I) 1
  match s.get (.drv .CV_STATE) 1 with
  | 5 =>
    let t := s.set (.drv .CV_BURSTN) (if i < s.cvRec 1 0x1A 2 then min 255 (s.get (.drv .CV_BURSTN) 1 + 1) else 0) 1
    if (s.cvRec 1 0x27 1).testBit 1 ∧ s.cvRec 1 0x1E 1 ≤ t.get (.drv .CV_BURSTN) 1 ∧ s.get (.drv .CV_FIREAT) 1 ≤ s.now then
      cvToIdle 1 10 ((t.off (.drv .CV_BURSTN) 1).off (.drv .CV_SLEEPN) 1)
    else t
  | 10 =>
    let t := s.incSat (.drv .CV_SLEEPN) 1
    if s.voltsAtLeast (s.cvSp - v) (s.cvRec 1 0x20 2) then cvToCarrier 1 11 t else t
  | 11 =>
    if s.get (.drv .CV_SLEEPN) 1 < s.cvRec 1 0x1F 1 then cvTo 1 5 s
    else if s.voltsAtLeast (v - s.cvSp) (s.cvRec 1 0x22 2) then cvToIdle 1 10 (s.off (.drv .CV_SLEEPN) 1)
    else if (s.cvRec 1 0x1C 2 : Int) ≤ i then cvTo 1 5 s
    else s
  | 12 =>
    let t := s.incSat (.drv .CV_FIREN) 1
    if s.cvSp ≤ v ∨ 0 ≤ s.sget (.drv .CV_DV) 1 ∨ s.cvRec 1 0x26 1 ≤ t.get (.drv .CV_FIREN) 1 ∨ s.cvPhaseMax 1 then
      cvToCarrier 1 5 ((t.set (.drv .CV_FIREAT) (s.now + us 100000) 1).off (.drv .CV_BURSTN) 1)
    else t
  | _ => s

/-- HIC_N consecutive limited frames have been counted (R383). -/
def State.cvHiccup (s : State) (c : Nat) : Bool := s.cvCounts c && s.hicN c != 0 && decide (s.hicN c ≤ s.get (.drv .CV_LIM) c)

/-- The state that an inner sample decides, by Table: Converter event precedence (R395). -/
def cvDecide (c : Nat) (line : Bool) (s : State) : State :=
  if c = 0 ∧ s.cvPhaseOpen 0 ∧ (s.get (.drv .CV_STATE) 0 = 4 ∨ s.get (.drv .CV_STATE) 0 = 5) then
    s.when s.srcOut (·.on (.drv .CV_NODROP) 0)
  else if c = 0 ∧ s.srcOut ∧ (s.get (.drv .CV_STATE) 0 = 4 ∨ s.get (.drv .CV_STATE) 0 = 5 ∨
      (s.get (.drv .CV_STATE) 0 = 7 ∧ s.flag (.drv .CV_PLANNED) 0)) then cvDropout s
  else
    let s := cvLimited c s
    if s.cvHiccup c then s
    else if c = 0 then cvLine line s
    else if [5, 10, 11].contains (s.get (.drv .CV_STATE) 1) && s.cvUnder then cvFire s
    else cvAux s

/-- One inner sample of a converter (R376, R391, R395); page changes go out in its frame, with the duties `d` that its program computes
(R368). -/
def cvSample (c : Nat) (line : Bool) (d : Nat → Nat) (s : State) : State :=
  let s := (cvMeasure c s).when (c == 0) (cvPresent line)
  if s.get (.drv .CV_STATE) c = 0 then cvSend c d s else cvSend c d (cvDecide c line (cvOpenTest c s))

/-- One outer sample of the line converter: 16 consecutive ones in TRACK with FC2 within TRK_TOL of the tracking target lead to CLOSE, in which
the contactor's closure is asked for (R376, R378). -/
def cvOuter (s : State) : State :=
  if s.get (.drv .CV_STATE) 0 ≠ 2 then s
  else
    let v := cvTarget s
    let t := v.2
    if (s.cvOut 0 - v.1).natAbs ≤ s.cvRec 0 0x14 2 then
      if s.get (.drv .CV_TRKN) 0 + 1 < 16 then t.inc (.drv .CV_TRKN) 0
      else closeRequest s.cvContactor (cvTo 0 3 (t.off (.drv .CV_TRKN) 0))
    else t.off (.drv .CV_TRKN) 0

/-- The effective limit: min(I_LIM, n × IPH_MAX) × n / NPH (R366). -/
def effLimit (c : Nat) (s : State) : Nat × State :=
  let n := s.cvN c
  let i := if c = 0 then s.cvRec 0 6 2 else s.cvRec 1 0x10 2
  let p := if c = 0 then s.cvRec 0 8 2 else s.cvRec 1 0x12 2
  quot (min i (n * p) * n) (max 1 (s.cvFitted c)) s

/-- OMAX_UPDATE: OMAX of slot 1 for SOFT, RUN or HANDOVER, at most once per millisecond (R366). -/
def omaxUpdate (c : Nat) (s : State) : State :=
  if s.now < s.get (.drv .CV_OMAX_AT) c then s
  else
    let r := effLimit c s
    let t := r.2.set (.drv .CV_EFF) r.1 c
    let el := s.now - s.get (.drv .CV_AT) c
    let soft := us (1000 * s.softMs c)
    let v := match s.get (.drv .CV_STATE) c with
      | 4 => some (quot (r.1 * min el soft) (max 1 soft) t)
      | 5 => some (r.1, t)
      | 7 => some (quot (s.get (.drv .CV_I0) c * (us 20000 - min (us 20000) el)) (us 20000) t)
      | _ => none
    match v with
    | some x => (writeOmax c x.1 x.2).set (.drv .CV_OMAX_AT) (s.now + us 1000) c
    | none => s

/-- CONTACTOR_CLOSED_REPORT: CLOSE ends in SOFT once the contactor is closed (R376, R378). -/
def contactorClosed (s : State) : State :=
  if s.get (.drv .CV_STATE) 0 = 3 ∧ s.flag (.saf .CD_STAT_ON) s.cvContactor then writeOmax 0 0 (cvTo 0 4 s) else s

/-- SOFT_START_END: SOFT_MS has elapsed (R376, R391). -/
def softEnd (c : Nat) (s : State) : State :=
  if s.get (.drv .CV_STATE) c = 4 ∧ s.get (.drv .CV_AT) c + us (1000 * s.softMs c) ≤ s.now then cvTo c 5 s else s

/-- HANDOVER_RAMP_END: the 20 ms of the ramp are over; CONTACTOR is opened; the converter goes to REQUAL or OFF, and the mode follows (R376, R379, R381). -/
def handoverEnd (p : Pins) (s : State) : State :=
  if s.get (.drv .CV_STATE) 0 ≠ 7 ∨ s.now < s.get (.drv .CV_AT) 0 + us 20000 then s
  else
    let back := s.flag (.drv .CV_FROMRIDE) 0 && s.cvPresence p.line
    let h := s.get (.drv .CV_HOST) 0
    let t := cvOpenContactor 0 ((s.off (.drv .CV_PLANNED) 0).off (.drv .CV_HOST) 0)
    let t := if back then cvToIdle 0 1 t else (cvToIdle 0 0 t).off (.drv .CV_I) 0
    if h ≠ 0 then requestMode (h - 1) 1 p t
    else if s.get (.saf .AXLE_MODE_MODE) = 4 ∧ !p.line then
      requestMode (if s.bit (.edge .OG_EN) 0 || s.bit (.edge .OG_EN) 1 then 2 else 1) 1 p t
    else t

/-- HICCUP_ENTRY: HIC_N consecutive limited frames; IDLE_PPI goes out in the same sample (R383, R384, R385). -/
def hiccupEntry (c : Nat) (s : State) : State :=
  if s.cvHiccup c then
    let t := s.off (.drv .CV_LIM) c
    if s.hicTries c ≠ 0 ∧ s.get (.drv .CV_HICRUN) c + 1 > s.hicTries c then
      cvSend c (fun _ => 0) (cvOpenContactor c (cvFlag c 0 (cvToIdle c 13 t)))
    else cvSend c (fun _ => 0) <| cvFlag c 4 (cvToIdle c 8 ((t.incSat (.drv .CV_HICRUN) c).incSat (.drv .CV_HICCNT) c))
  else s

/-- HIC_OFF_EXPIRY: slots reprimed, OMAX 0, SOFT; the line converter without its source goes to REQUAL with its contactor opened
(R376, R383, R391). -/
def hicOff (c : Nat) (line : Bool) (s : State) : State :=
  if s.get (.drv .CV_STATE) c ≠ 8 ∨ s.now < s.get (.drv .CV_AT) c + us (1000 * s.hicOffMs c) then s
  else if c = 0 ∧ !s.srcPresent line then cvOpenContactor 0 (cvTo 0 1 (writeOmax 0 0 (cvReprime 0 s)))
  else cvSoft c (cvReprime c s)

/-- HIC_RUN_RESET: after 1 s in RUN without interruption (R384). -/
def hicRunReset (c : Nat) (s : State) : State :=
  if s.get (.drv .CV_STATE) c = 5 ∧ s.get (.drv .CV_AT) c + us 1000000 ≤ s.now then s.off (.drv .CV_HICRUN) c else s

/-- PHASE_OPEN: a phase declared open; the line converter enters RECONF (R386, R394). -/
def phaseOpen (c k : Nat) (s : State) : State :=
  if (s.cvActive c).contains k ∧ s.openN c ≠ 0 ∧ s.openN c ≤ s.get (.drv .CV_OPENC) (8 * c + k) ∧
      (s.get (.drv .CV_STATE) c = 4 ∨ s.get (.drv .CV_STATE) c = 5) then
    let t := (((s.setBit (.drv .CV_DROP) k c).off (.drv .CV_OPENC) (8 * c + k)).on (.loop .LS_STAT_PFLAG) (cvEngine c) 0).send
      .level4 386 c k
    let t := cvFlag c 1 t
    if c = 0 then (cvTo 0 9 t).set (.drv .CV_OPENP) k 0 |>.off (.drv .CV_RSTEP) 0 else t
  else s

/-- The interleave of the phases in service: PHASE of the m-th is round(m × 65,536 / n) (R387). -/
def interleave (s : State) : State :=
  let l := s.cvActive 0
  let n := l.length
  l.zipIdx.foldl (fun t p => t.set (.edge .LEG_PHASE) ((2 * p.2 * 65536 + n) / (2 * max 1 n)) (cvLeg 0 + p.1)) s

/-- Steps 1 to 5 of a reconfiguration; below MIN_PH the converter locks out (R376, R385, R387). -/
def reconfigure (s : State) : State :=
  let k := s.get (.drv .CV_OPENP) 0
  let n := cvLeg 0 + k
  let t := cvTo 0 9 (disableGroup 2 s)
  if (s.cvActive 0).length < s.cvRec 0 1 1 then cvOpenContactor 0 (cvFlag 0 0 (cvToIdle 0 13 t))
  else
    let t := (t.set (.edge .LEG_CFG_MODE) 4 n).off (.edge .LEG_CMT) n
    let t := t.forUpTo 12 (fun c t => t.clrBit (.edge .DCH_LEGS) n c)
    (loadAll 2 (interleave t)).on (.drv .CV_RSTEP) 0

/-- PHASE_RECONFIGURATION: its first five steps, then, once LDALL_PENDING reads 0, the sixth (R387, R395 order 2). -/
def phaseReconfiguration (line : Bool) (s : State) : State :=
  if s.get (.drv .CV_STATE) 0 ≠ 9 then s
  else if !s.flag (.drv .CV_RSTEP) 0 then reconfigure s
  else if s.flag (.edge .DOM_STAT_LDALL_PENDING) 2 then s
  else
    let g := groupEnable 2 s
    let t := cvReprime 0 (g.off (.drv .CV_RSTEP) 0)
    if !g.bit (.edge .OG_EN) 2 then g
    else if s.flag (.drv .CV_NODROP) 0 ∧ !s.srcPresent line then cvToIdle 0 1 (t.off (.drv .CV_NODROP) 0)
    else cvSoft 0 (t.off (.drv .CV_NODROP) 0)

/-- A voltage in 10 mV as Q1.15 of the voltage base (R390). -/
def voltQ (mv10 : Nat) (s : State) : Nat × State :=
  let b := singleQ (s.get (.drv .PK_BASE) 1)
  quot (mv10 * 32768 * b.2) (max 1 (100 * b.1)) s

/-- The auxiliary converter starts once OG5 is enabled, VALID is set and the set-point is not 0 (R363, R391). -/
def auxStart (s : State) : State :=
  if s.get (.drv .CV_STATE) 1 = 0 ∧ s.bit (.edge .OG_EN) 5 ∧ s.flag (.sns .VSEL_VALID) ∧ (s.cvBad 1).isNone ∧
      s.cvRec 1 (2 * s.get (.sns .VSEL_CODE)) 2 ≠ 0 then cvSoft 1 (cvReprime 1 s) else s

/-- VSEL_READ: VSET[CODE] becomes the set-point; 0 turns the converter off (R390, R391). -/
def vselRead (s : State) : State :=
  if !s.flag (.sns .VSEL_VALID) then s
  else
    let v := s.cvRec 1 (2 * s.get (.sns .VSEL_CODE)) 2
    if v = 0 then
      let t := (cvFlag 1 6 s).off (.drv .CV_SPT) 1
      if [4, 5, 10, 11, 12].contains (s.get (.drv .CV_STATE) 1) then cvToIdle 1 0 t else t
    else
      let r := voltQ v s
      auxStart (r.2.set (.drv .CV_SPT) r.1 1)

/-- The line converter starts with OG2 enabled in LINE, or in CHARGE on the DC_CONVERTED path, with its source present
(R363, R376, R405). -/
def lineStart (p : Pins) (s : State) : State :=
  if s.get (.drv .CV_STATE) 0 = 0 ∧ s.bit (.edge .OG_EN) 2 ∧ (s.cvBad 0).isNone ∧ s.cvPresence p.line then cvToIdle 0 1 s else s

/-- A host clear of a converter (R376, R385, R388, R391, R397, Table: Fault items): LOCKOUT goes to OFF, the flags clear; with
PH_DROP set the Installer's clear puts the phases back in service. -/
def clearConverter (c : Nat) (s : State) : State :=
  let t := s.when (s.get (.drv .CV_STATE) c == 13) (cvTo c 0)
  let t := t.when (s.bit (.drv .CV_FLAGS) 1 c) (fun t =>
    let l := (List.range 6).filter (fun k => s.bit (.drv .CV_DROP) k c)
    let t := (t.off (.drv .CV_DROP) c).set (.drv .CV_OPENP) 7 c
    if c = 0 then
      interleave (t.forEach l (fun k t => (t.set (.edge .LEG_CFG_MODE) 2 (12 + k)).setBit (.edge .DCH_LEGS) (12 + k) (6 + k % 3)))
    else t)
  t.off (.drv .CV_FLAGS) c

/-- CONVERTER_STATUS_WRITE (R397). -/
def converterStatus (c : Nat) (s : State) : State :=
  let g (f : DrvFld) := s.get (.drv f) c
  let src := if c = 0 then g .CV_SRCV else s.get (.loop .LS_SP_SP) 5 1
  writeFields (0x1800002100 + 0x40 * c)
    [(s.axleTime, 8), (g .CV_STATE, 1), (s.cvN c, 1), (g .CV_HICRUN, 1), (g .CV_FLAGS, 1), (g .CV_V, 2), (g .CV_I, 2), (src, 2),
      (g .CV_EFF, 2), (g .CV_DROP, 1), (if c = 0 then 0xFF else s.get (.sns .VSEL_CODE), 1), (0, 2), (g .CV_HICCNT, 4), (0, 36)] s

/-- Duty channels 6 to 8 as OG2 (line converter) or OG3 (front end) needs them; the legs of dropped phases stay out (R387, R388, R403). -/
def chargeChannels (line : Bool) (s : State) : State :=
  let leg (k : Nat) : Nat := if s.bit (.drv .CV_DROP) k 0 then 0 else 2 ^ (12 + k)
  s.forUpTo 3 (fun k t => t.set (.edge .DCH_LEGS) (if line then leg k + leg (3 + k) else 2 ^ (18 + k)) (6 + k))

/-- The legs of the new use of domain 2, its channel map and CSTEP (R359, R367, R387, R403, R404, R407). -/
def domainUse (dab : Bool) (s : State) : State :=
  if dab then
    let t := chargeChannels false s
    let t := [21, 22].foldl (fun t n => ((t.set (.edge .LEG_CFG_MODE) 1 n).set (.edge .LEG_CFG_DOMAIN) 2 n).off (.edge .LEG_CFG_ALIGN) n
      |>.set (.edge .LEG_PHASE) (if n = 21 then 0 else 0x8000) n) t
    let t := [23, 24].foldl (fun t n => ((t.set (.edge .LEG_CFG_MODE) 2 n).set (.edge .LEG_CFG_DOMAIN) 2 n).set (.edge .LEG_CFG_PLAYER) 2 n
      |>.off (.edge .LEG_DUTY) n) t
    (t.set (.edge .DCH_LEGS) 0x600000 10).set (.edge .TP_CFG_CSTEP) 0x10 2
  else
    let t := chargeChannels true s
    let t := (s.cvActive 0).foldl (fun t k => ((t.set (.edge .LEG_CFG_MODE) 2 (12 + k)).set (.edge .LEG_CFG_DOMAIN) 2 (12 + k)).set
      (.edge .LEG_CFG_PLAYER) 2 (12 + k) |>.off (.edge .LEG_DUTY) (12 + k)) t
    interleave t

/-- Groups OG2, OG3 and OG4 are disabled (R404). -/
def State.use2Free (s : State) : Bool := (s.get (.edge .OG_EN) &&& 0x1C) == 0

/-- What a step of the hand-over of domain 2 waits for has come: the old engine is OFF, the load-all applied (R404). -/
def State.handoverReady (s : State) (step : Nat) (dab : Bool) : Bool :=
  match step with
  | 1 => s.get (.loop .LE_STAT_STATE) (if dab then 4 else 7) == 0
  | 4 => !s.flag (.edge .DOM_STAT_LDALL_PENDING) 2
  | _ => true

/-- One of the seven steps of the hand-over of domain 2, to the dual active bridge (`dab`) or the line converter; `trg` are the
trigger instants of the new use (R404). -/
def handoverStep (step : Nat) (dab : Bool) (trgA trgB : Nat) (s : State) : State :=
  let old := if dab then 4 else 7
  let new := if dab then 7 else 4
  match step with
  | 0 => engineDisable old (s.off (.loop .LE_CTRL_FORCE) old)
  | 1 => ssEnable 2 false s
  | 2 => domainUse dab (((periodWrite 2 (if dab then 0xFA00 else 0x1F400) s).set (.edge .DOM_TRG_TRGA) trgA 2).set
      (.edge .DOM_TRG_TRGB) trgB 2)
  | 3 => loadAll 2 s
  | 4 =>
    if dab then s
    else ssEnable 2 ((s.cvRec 0 3 1).testBit 0) (((s.set (.edge .DOM_SSNOM) 0x1F400 2).set (.edge .DOM_SS_SPAN)
      (s.cvRec 0 0x24 1) 2).set (.edge .DOM_SS_NSM1) (s.cvRec 0 0x26 2 - 1) 2)
  | 5 => loadPpi 2 (if dab then s.recN 4 0x46 2 else s.cvIdle 0) s
  | _ =>
    engineStart new (((s.when (s.get (.loop .LE_STAT_STATE) new == 0) (fun t =>
      (t.set (.loop .LE_CTRL_DOMAIN) 2 new).off (.loop .LE_CTRL_FDIV) new)).set (.drv .CV_D2) (if dab then 2 else 1)))

/-- DOMAIN_HANDOVER: the steps are taken in their order, each once what it waits for has come; the first begins a hand-over anew (R404). -/
def domainHandover (step : Nat) (dab : Bool) (trgA trgB : Nat) (s : State) : State :=
  if !s.use2Free then s.send .level5 404
  else if (step ≠ 0 ∧ (s.get (.drv .CV_D2N) ≠ step ∨ s.flag (.drv .CV_D2DIR) ≠ dab)) ∨ !s.handoverReady step dab then s
  else handoverStep step dab trgA trgB ((s.set (.drv .CV_D2N) ((step + 1) % 7)).setB (.drv .CV_D2DIR) dab)

/-- VSEL_DEBOUNCE: the pins show `raw`; CODE takes it once RAW has held it for DEB milliseconds, of which 0 acts as 1 (R389). -/
def vselDebounce (raw : Nat) (s : State) : State :=
  if !s.senseClocked then s
  else if s.get (.sns .VSEL_RAW) ≠ raw then (s.set (.sns .VSEL_RAW) raw).set (.sns .VSEL_AT) s.now
  else if s.now < s.get (.sns .VSEL_AT) + us (1000 * max 1 (s.get (.sns .VSEL_DEB))) then s
  else
    let t := s.on (.sns .VSEL_VALID)
    if s.get (.sns .VSEL_CODE) = raw then t else (t.set (.sns .VSEL_CODE) raw).on (.sns .VSEL_CHG)

/-- PORT (R109): a converter's program writes its set-point and feedback ports by R365. -/
def execPort (e : EngIx) (f : Ecc) (o : PortOp) (s : State) : Host.Outcome State Fault Refusal :=
  done (instr e.val 6 f (match o with | .law fb => cvPorts e.val fb | o => portOp e.val o) s)
/-- VSEL_DEBOUNCE (R389). -/
def execVselDebounce (raw : BitVec 3) (s : State) : Host.Outcome State Fault Refusal := done (vselDebounce raw.toNat s)
/-- OMAX_UPDATE (R366). -/
def execOmaxUpdate (c : Fin 2) (s : State) : Host.Outcome State Fault Refusal := done (omaxUpdate c.val s)
/-- CONTACTOR_CLOSED_REPORT (R378). -/
def execContactorClosedReport (s : State) : Host.Outcome State Fault Refusal := done (contactorClosed s)
/-- SOFT_START_END (R376). -/
def execSoftStartEnd (c : Fin 2) (s : State) : Host.Outcome State Fault Refusal := done (softEnd c.val s)
/-- HANDOVER_RAMP_END (R379). -/
def execHandoverRampEnd (p : Pins) (s : State) : Host.Outcome State Fault Refusal := done (handoverEnd p s)
/-- HICCUP_ENTRY (R383). -/
def execHiccupEntry (c : Fin 2) (s : State) : Host.Outcome State Fault Refusal := done (hiccupEntry c.val s)
/-- HIC_OFF_EXPIRY (R383). -/
def execHicOffExpiry (c : Fin 2) (line : Bool) (s : State) : Host.Outcome State Fault Refusal := done (hicOff c.val line s)
/-- HIC_RUN_RESET (R384). -/
def execHicRunReset (c : Fin 2) (s : State) : Host.Outcome State Fault Refusal := done (hicRunReset c.val s)
/-- PHASE_OPEN (R386). -/
def execPhaseOpen (c : Fin 2) (k : Fin 6) (s : State) : Host.Outcome State Fault Refusal := done (phaseOpen c.val k.val s)
/-- PHASE_RECONFIGURATION (R387). DEDUCED, log entry 48. -/
def execPhaseReconfiguration (line : Bool) (s : State) : Host.Outcome State Fault Refusal := done (phaseReconfiguration line s)
/-- VSEL_READ (R390). -/
def execVselRead (s : State) : Host.Outcome State Fault Refusal := done (vselRead s)
/-- CONVERTER_STATUS_WRITE (R397). DESIGN CHOICE, log entry 66. -/
def execConverterStatusWrite (c : Fin 2) (s : State) : Host.Outcome State Fault Refusal := done (converterStatus c.val s)
/-- DOMAIN_HANDOVER (R404). DEDUCED, log entry 48. -/
def execDomainHandover (step : Fin 7) (dab : Bool) (trgA trgB : Half) (s : State) : Host.Outcome State Fault Refusal :=
  done (domainHandover step.val dab trgA.toNat trgB.toNat s)

end Sys2Proof.Machine
end

