-- ==== Sys2Proof/Machine/Charging.lean ====
section
/-!
DEFINITION. Charging and the battery bus (R398 to R433): pilot and proximity, BMS messages, the charging target, sessions, the DC
charge contactors and the status block. Session states and end codes are those of R417 and R418; currents are in 0.1 A.
-/
namespace Sys2Proof.Machine
open Sys2Proof

/-- Set a flag of byte 0x0D of the status block (R433). -/
def chgFlag (b : Nat) (s : State) : State := s.setBit (.drv .CH_FLAGS) b

/-- The charge limit of the BMS; after a timeout outside CHARGE it is held for 1 s and then falls to 0 over 10 s (R426). -/
def bmsScaled (f : DrvFld) (s : State) : Nat × State :=
  let i := s.get (.drv f)
  let on := (List.range 3).filter (fun k => s.flag (.drv .BMS_TMO_ON) k)
  if on.isEmpty then (i, s)
  else
    let d := on.foldl (fun d k => max d (s.now - s.get (.drv .BMS_TMO_AT) k)) 0
    if d ≤ us 1000000 then (i, s) else quot (i * (us 11000000 - min d (us 11000000))) (us 10000000) s

/-- The window of a temperature after an evaluation: the present one within its hysteresis, else the one that holds it, else none
(R423). -/
def State.window (s : State) (w : Nat) (t : Int) : Nat :=
  let lo (k : Nat) := s.recS 4 (0x10 + 8 * k)
  let hi (k : Nat) := s.recS 4 (0x12 + 8 * k)
  let h : Int := s.recN 4 0x0F 1 * 64
  if w < 5 ∧ lo w - h ≤ t ∧ t < hi w + h then w else ((List.range 5).find? (fun k => decide (lo k ≤ t) && decide (t < hi k))).getD 5

/-- FACTOR of a window; no window contributes 0 (R424). -/
def State.factorOf (s : State) (w : Nat) : Nat := if w < 5 then s.recN 4 (0x14 + 8 * w) 2 else 0

/-- Evaluate the windows of all temperatures (R422 to R424). The largest value of Q0.16 stands for 1. -/
def evalWindows (s : State) : State :=
  let ts := [(0, s.sget (.drv .BMS_T_MIN)), (1, s.sget (.drv .BMS_T_MAX))] ++
    (if s.recN 4 0x0E 1 = 0xFF then [] else [(2, s.sget (.drv .CH_TMOD))])
  let t := ts.foldl (fun t p => t.set (.drv .CH_WIN) (s.window (s.get (.drv .CH_WIN) p.1) p.2) p.1) s
  let ws := ts.map (fun p => t.get (.drv .CH_WIN) p.1)
  let f := (ws.map t.factorOf).foldl min 0xFFFF
  let w := (ws.find? (fun w => t.factorOf w == f)).getD 5
  (((t.set (.drv .CH_FACTOR) f).set (.drv .CH_WSET) (if w < 5 then w else 0xFF))).when (f != 0xFFFF) (chgFlag 4)

/-- A Q1.15 value as a number of tenths of its base's unit (R90). -/
def tenths (v : Int) (base : Nat) (s : State) : Int × State :=
  let b := singleQ (s.get (.drv .PK_BASE) base)
  quotI (v * (10 * b.1 : Nat)) (32768 * b.2 : Nat) s

/-- The last result of a fast channel, or of a sigma-delta channel, as a signed number. -/
def State.lastOf (s : State) (f : SnsFld) (c : Nat) : Int := toSigned 16 (s.get (.sns f) c % 65536)

/-- The charging current delivered onto the bus, in 0.1 A, by the path in use (R399). -/
def delivered (s : State) : Int × State :=
  match s.get (.drv .CH_PATH) with
  | 1 => tenths (s.lastOf .SD_STAT_LAST 17) 0 s
  | 2 => (s.get (.drv .CH_EVSE_I), s)
  | 3 => tenths (s.sget (.drv .CV_I) 0) 0 s
  | _ => (0, s)

/-- The system draw: what is delivered less the pack current, averaged over the evaluations of the last 100 ms (R399). -/
def systemDraw (s : State) : Int × State :=
  let d := delivered s
  let n := s.get (.drv .CH_DRN)
  let t := (d.2.sset (.drv .CH_DR) (d.1 - s.sget (.drv .BMS_I_PACK)) (n % 100)).inc (.drv .CH_DRN)
  let m := min 100 (n + 1)
  quotI (((List.range m).map (fun i => t.sget (.drv .CH_DR) i)).foldl (· + ·) 0) m t

/-- Energy into the pack: voltage times current over the time since the last evaluation; E_WH shows whole watt-hours, none below 0 (R433).
DEDUCED, log entry 49. -/
def packEnergy (s : State) : State :=
  let p := s.sget (.drv .BMS_I_PACK) * (s.get (.drv .BMS_V_PACK) : Int) * ((s.now - s.get (.drv .CH_EV_AT) : Nat) : Int)
  let t := (s.when s.chgRunning (fun t => t.sset (.drv .CH_EACC) (t.sget (.drv .CH_EACC) + p))).set (.drv .CH_EV_AT) s.now
  t.set (.drv .CH_E_WH) (t.sget (.drv .CH_EACC) / (100 * secs 3600 : Nat)).toNat

/-- The voltage of the vehicle side in 0.1 V: FC0 in DC_DIRECT, FC1 in DC_CONVERTED (R419). -/
def vehicleVolts (s : State) : Int × State := tenths (s.lastOf .FC_STAT_LAST (if s.get (.drv .CH_PATH) = 3 then 1 else 0)) 1 s

/-- Whether the EVSE's reported voltage lies within MATCH_TOL of the vehicle side, and since when (R419). -/
def matchTrack (s : State) : State :=
  let v := vehicleVolts s
  let t := v.2
  if s.get (.drv .CH_STATE) = 4 ∧ s.chgDc ∧ ((s.get (.drv .CH_EVSE_V) : Int) - v.1).natAbs ≤ 10 * s.recN 4 0x40 2 then
    t.when (s.get (.drv .CH_MATCH_AT) == 0) (·.set (.drv .CH_MATCH_AT) (s.now + 1))
  else t.off (.drv .CH_MATCH_AT)

/-- The path's own limit (R409): `ac` is the current that the pilot duty and the negotiated maximum allow, as output current. -/
def pathLimit (ac : Nat) (draw : Int) (vbus : Nat) (s : State) : Nat × State :=
  match s.get (.drv .CH_PATH) with
  | 1 =>
    let r := quot (s.recN 4 0x3A 2 * 10000) (max 1 vbus) s
    (min r.1 ac, r.2)
  | 0 => (0, s)
  | _ => (((s.get (.drv .CH_EVSE_IMAX) : Int) - draw).toNat, s)

/-- The request moves by no more than 1 A per millisecond (R410). -/
def rampReq (goal : Nat) (s : State) : State :=
  let r := s.get (.drv .CH_REQ)
  s.set (.drv .CH_REQ) (if goal > r then min goal (r + 10) else max goal (r - 10))

/-- What ends a session at the evaluation: a charging group forced or SAFE_HOLD (3), a BMS that ended charging (0x0A) (R418). -/
def chgCauses (s : State) : State :=
  let groups := match s.get (.drv .CH_PATH) with | 1 => [3, 4] | 3 => [2] | _ => []
  let hold := s.get (.saf .AXLE_MODE_MODE) == 6 || (s.flag (.saf .AXLE_MODE_BUSY) && s.get (.saf .MODE_TGT) == 6)
  if hold || groups.any (fun g => s.bit (.grd .OG_LATCH) g) then chgEnd 3 s
  else if s.get (.drv .BMS_FAULT) = 2 ∨ (s.get (.drv .CH_STATE) = 5 ∧ s.get (.drv .BMS_I_CHG) = 0) then chgEnd 0x0A s else s

/-- The end of a stopping session whose request is at 0 (R417, R420): DC issues the stop and waits for its contactors; otherwise OG3
and OG4 are disabled and the AC contactor opens. -/
def chgStopping (s : State) : State :=
  if s.get (.drv .CH_REQ) ≠ 0 then s
  else if s.chgDc then (if s.flag (.saf .CD_STAT_ON) s.cdDcp || s.flag (.saf .CD_STAT_ON) s.cdDcn then chgStop s
    else (chgStop s).set (.drv .CH_STATE) 9)
  else (openDrivers (2 ^ s.cdAc) false (disableGroups 0x18 s)).set (.drv .CH_STATE) 9

/-- The session has ended and its current is at zero with the DC charge contactors open: CHARGE is left for READY (R54). -/
def chgDone (s : State) : State :=
  if s.get (.drv .CH_STATE) = 9 ∧ s.get (.saf .AXLE_MODE_MODE) = 3 ∧ s.modeReply 1 1 ⟨false, false, false, false, false⟩ = .started then
    startMode 1 s
  else s

/-- CHARGING_TARGET_EVAL (R399, R402, R405, R409, R410, R423, R424): windows, target, request, suspension and the ends it finds. `ac` is the
output current that the pilot duty and the negotiated maximum allow by IEC 61851-1, `tmod` the temperature of PACK_HK by its sensor table. -/
def targetEval (ac tmod : Nat) (s : State) : State :=
  let v := tenths (s.lastOf .FC_STAT_LAST 0) 1 s
  let s := packEnergy ((v.2.set (.drv .CH_VBUS) v.1.toNat).set (.drv .CH_TMOD) (if s.recN 4 0x0E 1 = 0xFF then 0x8000 else tmod))
  let d := systemDraw (matchTrack s)
  let s := evalWindows d.2
  let b := bmsScaled .BMS_I_CHG s
  let p := pathLimit ac d.1 v.1.toNat b.2
  let lim := min (min b.1 p.1) (s.get (.host .LIM) 3)
  let f := s.get (.drv .CH_FACTOR)
  let q := if f = 0xFFFF then (lim, p.2) else quot (lim * f) 65536 p.2
  let t := chgCauses (q.2.set (.drv .CH_TARGET) q.1)
  let t := t.when (t.get (.drv .CH_STATE) == 4 && t.dcClosed) (·.set (.drv .CH_STATE) 5)
  let halt := f == 0 || t.flag (.drv .CH_PAUSE)
  let t := if t.get (.drv .CH_STATE) = 5 ∧ halt then (t.set (.drv .CH_STATE) 6).set (.drv .CH_SUSP_AT) t.now
    else if t.get (.drv .CH_STATE) = 6 ∧ !halt then t.set (.drv .CH_STATE) 5 else t
  let t := match t.get (.drv .CH_STATE) with
    | 5 => rampReq ((q.1 : Int) + d.1).toNat t
    | 6 => rampReq 0 t
    | 7 => chgStopping (rampReq 0 t)
    | _ => t.off (.drv .CH_REQ)
  chgDone (t.when (t.get (.drv .CH_PATH) == 2 && t.chgRunning) (·.send .evse 0 (t.get (.drv .CH_REQ)) t.chgT1s.toNat))

/-- SUSPEND_TIMEOUT (R424). -/
def suspendTimeout (s : State) : State :=
  let m := s.recN 4 0x38 2
  if s.get (.drv .CH_STATE) = 6 ∧ m ≠ 0 ∧ s.get (.drv .CH_SUSP_AT) + us (m * 1000000) ≤ s.now then chgEnd 9 s else s

/-- A decoded coupler with the pilot in state B is PLUGGED (R417). -/
def plugged (s : State) : State :=
  if s.get (.drv .CH_STATE) = 0 ∧ s.flag (.drv .CH_COUPLER) ∧ s.get (.sns .CP_STAT_STATE) = 2 then s.set (.drv .CH_STATE) 1 else s

/-- PROXIMITY_DECODE: a coupler is removed when two consecutive decodes show none (R413, R417, R418). -/
def proximity (shown : Bool) (s : State) : State :=
  if s.recN 4 1 1 = 0 then s
  else if shown then plugged ((s.on (.drv .CH_COUPLER)).off (.drv .CH_EMPTY))
  else
    let n := min 2 (s.get (.drv .CH_EMPTY) + 1)
    let t := s.set (.drv .CH_EMPTY) n
    if n < 2 then t
    else
      let t := t.off (.drv .CH_COUPLER)
      if t.chgRunning then chgEnd 5 t
      else if t.get (.drv .CH_STATE) = 1 ∨ t.get (.drv .CH_STATE) = 9 then t.off (.drv .CH_STATE) else t

/-- The pilot state of a high level in 0.01 V; a level below -10.5 V is F while static, and while oscillating none (Table: Pilot states). -/
def pilotState (h : Int) (osc : Bool) : Nat :=
  if h ≥ 1050 then 1 else if h ≥ 750 then 2 else if h ≥ 450 then 3 else if h ≥ 150 then 4 else if h ≥ -1050 then 5 else if osc then 0 else 6

/-- PILOT_STATE_CHANGE: one PWM period of the pilot, or one millisecond of a static level: its high and low level in 0.01 V and its duty. STATE
takes a new value after four equal decodes in a row while the pilot oscillates, at once from a static millisecond; state D, E or F ends a
session (R411, R418). -/
def pilotChange (osc : Bool) (h low : Int) (duty : Nat) (s : State) : State :=
  if !s.flag (.sns .CP_CTRL_EN) ∨ !s.senseClocked then s
  else
    let d := pilotState h osc
    let n := if !osc then 4 else if s.get (.sns .CP_CNT) ≠ 0 ∧ s.get (.sns .CP_DEC) = d then min 4 (s.get (.sns .CP_CNT) + 1) else 1
    let t := (((s.set (.sns .CP_DEC) d).set (.sns .CP_CNT) (if osc then n else 0)).setB (.sns .CP_STAT_OSC) osc).set (.sns .CP_STAT_DUTY)
      (if osc then min duty 1000 else 0)
    let t := t.when (osc && decide (low > -1050)) (·.on (.sns .CP_STAT_LOW_ERR))
    if n < 4 then t
    else
      let t := (t.set (.sns .CP_STAT_STATE) d).when (s.get (.sns .CP_STAT_STATE) != d) (·.on (.sns .CP_STAT_CHG))
      if d ≥ 4 then chgEnd 4 t else plugged t

/-- A write of SNS_CP_CTRL: S2 follows its bit, except during EXTEST; with EN 0 the pilot reads INVALID (R412, R493). -/
def cpWrite (v : Nat) (s : State) : State :=
  let t := (s.set (.sns .CP_CTRL_EN) (bits v 0 1)).set (.sns .CP_CTRL_S2) (bits v 1 1)
  let t := t.setB (.sns .CP_STAT_S2_ON) (v.testBit 1 && !t.flag (.saf .EXTEST))
  t.when (!v.testBit 0) (fun t => (t.off (.sns .CP_STAT_STATE)).off (.sns .CP_STAT_OSC) |>.off (.sns .CP_STAT_DUTY)
    |>.off (.sns .CP_CNT))

/-- Take the ALIVE of a BMS message (R426). -/
def takeAlive (k a : Nat) (s : State) : State :=
  let bad := s.flag (.drv .BMS_GOT) k && a != (s.get (.drv .BMS_ALIVE) k + 1) % 16
  ((s.set (.drv .BMS_ALIVE) a k).on (.drv .BMS_GOT) k).set (.drv .BMS_STALL) (if bad then min 3 (s.get (.drv .BMS_STALL) k + 1) else 0) k

/-- Which BMS message a CAN frame is: it comes on BMS_PORT in the format of BMS_FMT at BMS_ID + 0 to 2 (R425). -/
def State.bmsKind (s : State) (port : Nat) (xl : Bool) (id : Nat) : Option Nat :=
  if port = s.recN 4 2 1 ∧ xl.toNat = s.recN 4 3 1 ∧ s.recN 4 4 4 ≤ id ∧ id < s.recN 4 4 4 + 3 then some (id - s.recN 4 4 4) else none

/-- BMS_STATUS (0), BMS_LIMITS (1) or BMS_TEMP (2), byte 0 in the low bits (R425 to R427). -/
def bmsMessage (k v : Nat) (s : State) : State :=
  let t := if k = 0 then
      takeAlive 0 (bits v 24 4) (((((s.set (.drv .BMS_STAT) (bits v 0 3)).set (.drv .BMS_SOC) (bits v 8 8)).set (.drv .BMS_FAULT)
        (bits v 16 8)).set (.drv .BMS_I_PACK) (bits v 32 16)).set (.drv .BMS_V_PACK) (bits v 48 16))
    else if k = 1 then
      (((s.set (.drv .BMS_I_CHG) (bits v 0 16)).set (.drv .BMS_I_DIS) (bits v 16 16)).set (.drv .BMS_V_MAX) (bits v 32 16)).set
        (.drv .BMS_V_MIN) (bits v 48 16)
    else takeAlive 2 (bits v 32 4) ((s.set (.drv .BMS_T_MIN) (bits v 0 16)).set (.drv .BMS_T_MAX) (bits v 16 16))
  let t := (t.set (.drv .BMS_AT) s.now k).when (t.get (.drv .BMS_STALL) k == 0) (·.off (.drv .BMS_TMO_ON) k)
  let t := t.when (k == 0) (·.on (.drv .BMS_SEEN))
  let open_ := k == 0 && (bits v 0 2 != 3 || bits v 16 8 == 3)
  t.when (open_ && t.chgRunning && s.get (.saf .AXLE_MODE_MODE) == 3 && s.get (.drv .CH_REM) == 0) (·.set (.drv .CH_REM) 2)

/-- BMS_MESSAGE_RECEIVED: a frame on a CAN port (R425). -/
def bmsFrame (port : Nat) (xl : Bool) (id v : Nat) (s : State) : State :=
  match s.bmsKind port xl id with
  | some k => bmsMessage k v s
  | none => s

/-- BMS_TIMEOUT: a message absent for BMS_TMO, or whose ALIVE has failed to advance in three messages (R426). -/
def bmsTimeout (k : Nat) (s : State) : State :=
  if s.now < s.get (.drv .BMS_AT) k + us (1000 * s.recN 4 8 2) ∧ s.get (.drv .BMS_STALL) k < 3 then s
  else
    let t := (chgFlag 3 (s.when (k == 0) (·.off (.drv .BMS_SEEN)))).send .level5 426 k
    if s.get (.saf .AXLE_MODE_MODE) = 3 then chgEnd 6 t
    else if s.flag (.drv .BMS_TMO_ON) k then t else (t.on (.drv .BMS_TMO_ON) k).set (.drv .BMS_TMO_AT) s.now k

/-- MOD_STATUS_SEND: the message at BMS_ID + 3 (R425). -/
def modStatus (s : State) : State :=
  let a := (s.get (.drv .CH_ALIVE) + 1) % 16
  let v := s.get (.drv .CH_STATE) + 2 ^ 8 * s.get (.drv .CH_END) + 2 ^ 16 * s.get (.drv .CH_TARGET) + 2 ^ 32 * s.get (.drv .CH_VBUS) +
    2 ^ 48 * a + 2 ^ 56 * s.get (.saf .AXLE_MODE_MODE)
  (s.set (.drv .CH_ALIVE) a).send .can 425 (s.recN 4 4 4 + 3) v

/-- The stop of R408, in one frame of LE7: the primary's duty channel gets 0, player 2 PPI 0, and domain 2 a load-all. -/
def dabStop (s : State) : State := sendChan 7 28 4 (sendChan 7 10 0 (sendChan 7 26 0 s))

/-- One sample of the bus supervision, LE7 slot 3: the bus voltage of eight samples ago is compared; where it has risen faster than DVDT_TRIP in
CHARGE with a request above 0, the battery is declared removed (R427, R428). -/
def busSample (s : State) : State :=
  let n := s.get (.drv .CH_FCN)
  let v := match s.portOf 7 2 0 with | some p => s.port 7 p | none => 0
  let d := v - s.sget (.drv .CH_FC0) (n % 8)
  let b := singleQ (s.get (.drv .PK_BASE) 1)
  let t := (s.sset (.drv .CH_FC0) v (n % 8)).inc (.drv .CH_FCN)
  if 8 ≤ n ∧ d * (100 * b.1 : Nat) > ((s.recN 4 0x0C 2 * 8 * 32768 * b.2 : Nat) : Int) ∧ s.get (.saf .AXLE_MODE_MODE) = 3 ∧
      s.get (.drv .CH_REQ) ≠ 0 ∧ s.get (.drv .CH_REM) = 0 then
    (dabStop (((t.set (.drv .CH_REM) 1).off (.loop .LS_SP_TARGET) 7 1).on (.loop .LS_STAT_PFLAG) 7 3)).send .level4 428
  else t

/-- BATTERY_REMOVED_REACTION: S2 opens, OG3 and OG4 are disabled, the AC contactor opens or the DC stop is issued, BAT_LOST is set,
the session ends with code 1 or 2 (R428). -/
def batteryRemoved (s : State) : State :=
  let r := s.get (.drv .CH_REM)
  if r = 0 then s
  else
    let t := disableGroups 0x18 ((s.off (.sns .CP_CTRL_S2)).off (.sns .CP_STAT_S2_ON))
    let t := if s.chgDc then t else openDrivers (2 ^ s.cdAc) false t
    (chgEnd r (chgFlag 2 t)).off (.drv .CH_REM)

/-- PRECHARGE_MATCH: the EVSE's voltage has stayed within MATCH_TOL of the vehicle side for 10 ms; the safety island closes the DC charge
contactors (R419, R421). -/
def prechargeMatch (s' : State) : State :=
  let s := matchTrack s'
  if s.get (.drv .CH_MATCH_AT) ≠ 0 ∧ s.get (.drv .CH_MATCH_AT) + us 10000 ≤ s.now + 1 then closeRequest s.cdDcn (closeRequest s.cdDcp s) else s

/-- PRECHARGE_TIMEOUT of a session, after 10 s (R418): named apart from that of the pack. -/
def matchTimeout (s : State) : State :=
  if s.get (.drv .CH_STATE) = 4 ∧ !s.dcClosed ∧ s.get (.drv .CH_PRE_AT) + secs 10 ≤ s.now then chgEnd 8 s else s

/-- The DC charge contactors are to open: 5 A or less, or 20 ms, after the stop; WC0 asserted; SAFE_HOLD (R420). -/
def State.dcMustOpen (s : State) : Bool :=
  (s.flag (.drv .CH_STOP) && (decide (s.get (.drv .CH_EVSE_I) ≤ 50) || decide (s.get (.drv .CH_STOP_AT) + us 20000 ≤ s.now))) ||
    s.flag (.grd .SRC_ACT) 8 || s.get (.saf .AXLE_MODE_MODE) == 6 ||
    (s.flag (.saf .AXLE_MODE_BUSY) && s.get (.saf .MODE_TGT) == 6)

/-- DC_CONTACTOR_OPEN (R417, R420): an opening above 5 A sets OPEN_LOADED. -/
def dcOpen (s : State) : State :=
  if s.chgDc ∧ s.chgRunning ∧ s.dcMustOpen then
    let t := openDrivers (2 ^ s.cdDcp ||| 2 ^ s.cdDcn) false s
    let t := t.when (decide (s.get (.drv .CH_EVSE_I) > 50)) (chgFlag 1)
    let t := if s.get (.drv .CH_END) = 0 then chgEnd 3 t else t
    ((t.set (.drv .CH_STATE) 8).off (.drv .CH_REQ)).set (.drv .CH_OPEN_AT) s.now
  else s

/-- WELD_CHECK_TIMEOUT: the EVSE voltage has not fallen below WELD_V within 2 s (R421). -/
def weldTimeout (s : State) : State :=
  if s.get (.drv .CH_STATE) = 8 ∧ s.get (.drv .CH_OPEN_AT) + us 2000000 ≤ s.now then
    (s.when (decide (10 * s.recN 4 0x3E 2 ≤ s.get (.drv .CH_EVSE_V))) (chgFlag 0)).set (.drv .CH_STATE) 9
  else s

/-- The path chosen from PATHS and the EVSE's offer, of AC service and of DC service from `vmin` to `vmax` in 0.1 V: DC_DIRECT first, whose range
covers the pack's, then DC_CONVERTED, which covers V_SRC_REQ and needs OG2 in CHARGE, then AC; no DC path while WELD is set (R402, R405, R421). -/
def State.choosePath (s : State) (ac dc : Bool) (vmin vmax : Nat) : Option Nat :=
  let p := s.recN 4 0 1
  let weld := s.bit (.drv .CH_FLAGS) 0
  let req := 10 * s.recN 4 0x3C 2
  let direct := dc && decide (vmin ≤ s.get (.drv .BMS_V_MIN)) && decide (s.get (.drv .BMS_V_MAX) ≤ vmax)
  if direct && p.testBit 1 && !weld then some 2
  else if dc && !direct && decide (vmin ≤ req) && decide (req ≤ vmax) && p.testBit 2 && !weld && s.bit (.saf .MODE_GRP) 2 3 then some 3
  else if ac && p.testBit 0 then some 1 else none

/-- The exchange goes on to CHECK on a path; on AC the safety island is asked to close the AC input contactor (R398, R417). -/
def chgCheck (p : Nat) (s : State) : State :=
  let t := (s.set (.drv .CH_PATH) p).set (.drv .CH_STATE) 3
  if p = 1 then closeRequest s.cdAc t else t

/-- The EVSE selects neither protocol: basic charging on AC with a duty from 10 % to 96 %, else the end of the session (R416). -/
def chgBasic (s : State) : State :=
  if (s.recN 4 0 1).testBit 0 ∧ 100 ≤ s.get (.sns .CP_STAT_DUTY) ∧ s.get (.sns .CP_STAT_DUTY) ≤ 960 then chgCheck 1 (s.set (.drv .CH_PROTO) 3)
  else chgEnd 7 s

/-- A protocol is one that the module offers: by PROTO, and over 10BASE-T1S ISO 15118-20 alone (R416). -/
def State.offered (s : State) (v2 : Bool) : Bool :=
  if v2 then (s.recN 4 0x42 1).testBit 1 && !s.chgT1s else (s.recN 4 0x42 1).testBit 0

/-- CHARGING_COMMUNICATION_MESSAGE: what the EVSE tells advances the session; ISO 15118 runs over one port by the coupler, and what another port
brings is none of it (R402, R415 to R421). -/
def evseMessage (t1s : Bool) (m : EvseMsg) (s : State) : State :=
  let st := s.get (.drv .CH_STATE)
  if s.get (.drv .CH_PROTO) ≠ 3 ∧ t1s ≠ s.chgT1s then s
  else match m with
  | .selected v2 => if st ≠ 2 then s else if s.offered v2 then s.set (.drv .CH_PROTO) (if v2 then 2 else 1) else chgBasic s
  | .noProtocol => if st ≠ 2 then s else chgBasic s
  | .offer ac dc vmin vmax imax =>
    if st ≠ 2 then s
    else match s.choosePath ac dc vmin.toNat vmax.toNat with
    | some p => chgCheck p (s.set (.drv .CH_EVSE_IMAX) imax.toNat)
    | none => chgEnd 7 s
  | .check ok =>
    if st ≠ 3 then s
    else if !ok then chgEnd 4 s
    else if s.chgDc then (s.set (.drv .CH_STATE) 4).set (.drv .CH_PRE_AT) s.now
    else if s.flag (.saf .CD_STAT_ON) s.cdAc then s.set (.drv .CH_STATE) 5 else s
  | .reports v i =>
    let t := matchTrack ((s.set (.drv .CH_EVSE_V) v.toNat).set (.drv .CH_EVSE_I) i.toNat)
    if st = 8 ∧ v.toNat < 10 * s.recN 4 0x3E 2 then t.set (.drv .CH_STATE) 9 else t
  | .stop => chgEnd 4 s
  | .failed => if st = 2 then chgEnd 7 s else chgEnd 4 s

/-- CHARGING_PROTOCOL_TIMEOUT: in NEGOTIATE the session ends with 0x07, later with the EVSE stop 0x04 (R416, R418). -/
def protocolTimeout (s : State) : State := if s.get (.drv .CH_STATE) = 2 then chgEnd 7 s else chgEnd 4 s

/-- Start a session (R401, R417). -/
def chgStart (s : State) : State :=
  (((((s.set (.drv .CH_STATE) 2).off (.drv .CH_END)).off (.drv .CH_PROTO)).off (.drv .CH_PATH)).off (.drv .CH_REQ) |>.off (.drv .CH_STOP)
    |>.off (.drv .CH_E_WH) |>.off (.drv .CH_EACC) |>.off (.drv .CH_DRN) |>.off (.drv .CH_MATCH_AT) |>.off (.drv .CH_PAUSE) |>.off (.drv .CH_REM)).off (.drv .CH_END_AT)

/-- CHARGING_STATUS_WRITE (R433). -/
def chargingStatus (s : State) : State :=
  let g (f : DrvFld) := s.get (.drv f)
  writeFields 0x1800002180
    [(s.axleTime, 8), (g .CH_STATE, 1), (g .CH_PROTO, 1), (g .CH_PATH, 1), (g .CH_END, 1), (g .CH_WSET, 1), (g .CH_FLAGS, 1),
      (g .CH_FACTOR, 2), (g .CH_TARGET, 2), (g .CH_REQ, 2), (g .BMS_I_PACK, 2), (g .CH_VBUS, 2), (g .BMS_T_MAX, 2), (g .CH_TMOD, 2),
      (g .CH_E_WH, 4), (0, 32)] s

/-- PILOT_STATE_CHANGE (R411). -/
def execPilotStateChange (osc : Bool) (h low : Half) (duty : BitVec 10) (s : State) : Host.Outcome State Fault Refusal :=
  done (pilotChange osc h.toInt low.toInt duty.toNat s)
/-- S2_WRITE (R412): a write of SNS_CP_CTRL. -/
def execS2Write (w : Who) (v : Word) (s : State) : Host.Outcome State Fault Refusal :=
  done (sideband w (snsBase + 0x810) v.toNat (cpWrite v.toNat) s)
/-- CHARGING_TARGET_EVAL (R409). DEDUCED, log entry 49. -/
def execChargingTargetEval (ac tmod : Half) (s : State) : Host.Outcome State Fault Refusal :=
  done (targetEval ac.toNat tmod.toNat s)
/-- SUSPEND_TIMEOUT (R424). -/
def execSuspendTimeout (s : State) : Host.Outcome State Fault Refusal := done (suspendTimeout s)
/-- PROXIMITY_DECODE (R413). -/
def execProximityDecode (shown : Bool) (s : State) : Host.Outcome State Fault Refusal := done (proximity shown s)
/-- BMS_MESSAGE_RECEIVED (R425). -/
def execBmsMessageReceived (port : Fin 4) (xl : Bool) (id : Word) (v : BitVec 64) (s : State) : Host.Outcome State Fault Refusal :=
  done (bmsFrame port.val xl id.toNat v.toNat s)
/-- BMS_TIMEOUT (R426). -/
def execBmsTimeout (k : Fin 3) (s : State) : Host.Outcome State Fault Refusal := done (bmsTimeout k.val s)
/-- MOD_STATUS_SEND (R425). -/
def execModStatusSend (s : State) : Host.Outcome State Fault Refusal := done (modStatus s)
/-- BATTERY_REMOVED_REACTION (R428). -/
def execBatteryRemovedReaction (s : State) : Host.Outcome State Fault Refusal := done (batteryRemoved s)
/-- PRECHARGE_MATCH (R419). -/
def execPrechargeMatch (s : State) : Host.Outcome State Fault Refusal := done (prechargeMatch s)
/-- PRECHARGE_TIMEOUT (R418). -/
def execPrechargeTimeout (s : State) : Host.Outcome State Fault Refusal := done (matchTimeout s)
/-- DC_CONTACTOR_OPEN (R420). -/
def execDcContactorOpen (s : State) : Host.Outcome State Fault Refusal := done (dcOpen s)
/-- WELD_CHECK_TIMEOUT (R421). -/
def execWeldCheckTimeout (s : State) : Host.Outcome State Fault Refusal := done (weldTimeout s)
/-- CHARGING_STATUS_WRITE (R433). DESIGN CHOICE, log entry 66. -/
def execChargingStatusWrite (s : State) : Host.Outcome State Fault Refusal := done (chargingStatus s)
/-- CHARGING_COMMUNICATION_MESSAGE (R416). -/
def execChargingCommunicationMessage (t1s : Bool) (m : EvseMsg) (s : State) : Host.Outcome State Fault Refusal := done (evseMessage t1s m s)
/-- CHARGING_PROTOCOL_TIMEOUT (R416). DEDUCED, log entry 49. -/
def execChargingProtocolTimeout (s : State) : Host.Outcome State Fault Refusal := done (protocolTimeout s)

end Sys2Proof.Machine
end

