-- ==== Sys2Proof/Machine/Gearbox.lean ====
section
/-!
DEFINITION. Gearbox actuators (R434 to R453): shunt conversion and over-current, off-state diagnostics, Hall and SENT inputs,
gear shifts and the park lock. Phases and causes are the codes of R449 and R450.
-/
namespace Sys2Proof.Machine
open Sys2Proof

/-- Base of the ACT window. -/
def actBase : Nat := 0x1080000000
/-- Address of a bridge's register block. -/
def brAddr (b : Nat) : Nat := actBase + 0x100 + 0x20 * b
/-- Address of a SENT channel's register block. -/
def sentAddr (c : Nat) : Nat := actBase + 0x400 + 0x10 * c
/-- Group of a bridge (R434). -/
def brGroup (b : Nat) : Nat := 6 + b

/-- A gate of a bridge as its MOSFET sees it: the edge island's level; off while OC_LATCH is 1 and while the actuator island is in RETAIN, OFF or
RESET (R16, R438, R439, R453). -/
def State.gate (s : State) (a : Nat) (c : Chan) : Bool :=
  !([2, 3, 5].contains (s.get (.saf .ISL_STAT_STATE) 11)) && !s.flag (.act .BR_STAT_OC_LATCH) (a / 3) &&
    s.flag (match c with | .hi => .edge .LEG_STAT_HI | .lo => .edge .LEG_STAT_LO) (32 + a)

/-- Table: Actuator drive current codes, in mA. -/
def driveCurrents : List Nat := [20, 40, 60, 80, 100, 150, 200, 250, 300, 400, 500, 600, 800, 1000, 1250, 1500]

/-- How a bridge drives an edge: its current in mA with the time in nanoseconds for which it holds, the last for as long as the level stands:
SRC or SNK in STEPPED, the three phases of the word in PROFILE3 (R276, R437). -/
def State.gateDrive (s : State) (b : Nat) (on : Bool) : List (Nat × Option Nat) :=
  let i (c : Nat) : Nat := driveCurrents.getD c 0
  if s.flag (.act .BR_CFG_DMODE) b then
    let w := s.get (.act .BR_P3) b
    [(i (bits w 0 4), some ((bits w 12 4 + 1) * 50)), (i (bits w 4 4), some ((bits w 16 4 + 1) * 100)), (i (bits w 8 4), none)]
  else [(i (s.get (.act (if on then .BR_CFG_SRC else .BR_CFG_SNK)) b), none)]

/-- The stall of the park lock's bridge: since when its current has lain at or above PL_STALL_I (R451). -/
def stallTrack (b : Nat) (s : State) : State :=
  if b ≠ 2 then s
  else if (s.sget (.act .BR_STAT_I_LAST) 2).natAbs ≥ s.recN 5 0x4C 2 then
    s.when (s.get (.drv .PL_ST_AT) == 0) (·.set (.drv .PL_ST_AT) (s.now + 1))
  else s.off (.drv .PL_ST_AT)

/-- SHUNT_CONVERSION, of 12 bits every 10 µs: I_LAST in Q1.15, OC against OCTHR; the value goes to the loop ports (R439, R447). -/
def shunt (b : Nat) (code : BitVec 12) (s : State) : State :=
  if !s.actClocked ∨ s.now + 1 < s.get (.act .SH_AT) b + us 10 then s
  else
    let above := decide (code.toInt.natAbs * 16 > 8 * s.get (.act .BR_CFG_OCTHR) b)
    let t := (((s.set (.act .SH_AT) (s.now + 1) b).sset (.act .BR_STAT_I_LAST) (16 * code.toInt) b).setB (.act .BR_STAT_OC) above b).set
      (.act .BR_OC_RUN) (if above then min 2 (s.get (.act .BR_OC_RUN) b + 1) else 0) b
    stallTrack b (sourceSent 6 (6 + b) t)

/-- OVER_CURRENT: two consecutive conversions above OCTHR with OC_EN set turn every gate off and set OC_LATCH, reported at level 4
(R439). -/
def overCurrent (b : Nat) (s : State) : State :=
  if s.flag (.act .BR_CFG_OC_EN) b ∧ s.get (.act .BR_OC_RUN) b = 2 then
    (s.on (.act .BR_STAT_OC_LATCH) b).send .level4 439 b
  else s

/-- A write of ACT_BR[b]_CFG or _P3: discarded with CFG_BUSY while the bridge's group is enabled (R438). -/
def brCfgWrite (w : Who) (b : Nat) (p3 : Bool) (v : Nat) (s : State) : State :=
  let a := brAddr b + (if p3 then 4 else 0)
  if s.bit (.edge .OG_EN) (brGroup b) then discardWord w a v (s.on (.act .BR_STAT_CFG_BUSY) b) else storeWord w a v s

/-- The phases under test, ascending. -/
def State.diagPhases (s : State) (b : Nat) : List Nat := (List.range 3).filter (fun k => s.bit (.act .DIAG_MASK) k b)

/-- The test currents of a bridge now: the phase driven with 1 mA and the phase that it is drawn from (R441). -/
def State.diagCurrents (s : State) (b : Nat) : Option (Nat × Nat) :=
  let l := s.diagPhases b
  let n := s.get (.act .DIAG_STEP) b
  if !s.flag (.act .BR_DIAG_BUSY) b then none
  else match l[n / 2]?, l[(n / 2 + 1) % l.length]? with
  | some k, some p => some (if n % 2 = 0 then (k, p) else (p, k))
  | _, _ => none

/-- The result field of a phase. -/
def resFld : Nat → Fld | 0 => .act .BR_DIAG_RES0 | 1 => .act .BR_DIAG_RES1 | _ => .act .BR_DIAG_RES2

/-- A write of ACT_BR[b]_DIAG: SETTLE and PH_MASK are stored, GO starts the test of the phases named, or is refused; a phase that a test leaves
out reads as not run (R441). DEDUCED, log entry 50. -/
def diagWrite (b v : Nat) (s : State) : State :=
  let t := (s.set (.act .BR_DIAG_SETTLE) (bits v 4 4) b).set (.act .BR_DIAG_PH_MASK) (bits v 8 3) b
  let t := t.when (v.testBit 2) (·.off (.act .BR_DIAG_DIAG_REF) b)
  if !v.testBit 0 then t
  else if s.bit (.edge .OG_EN) (brGroup b) || s.flag (.act .BR_DIAG_BUSY) b ||
      decide (((List.range 3).filter (fun k => (bits v 8 3).testBit k)).length < 2) then
    t.on (.act .BR_DIAG_DIAG_REF) b
  else
    let t := (((t.on (.act .BR_DIAG_BUSY) b).off (.act .DIAG_STEP) b).set (.act .DIAG_MASK) (bits v 8 3) b).set (.act .DIAG_AT) s.now b
    t.forUpTo 3 (fun k t => t.off (resFld k) b)

/-- Classification of a phase by its zones in steps A and B (R441). -/
def classifyNode : Nat → Nat → Nat
  | 1, 1 => 1 | 2, 2 => 2 | 0, 0 => 3 | 2, 0 => 4 | _, _ => 5

/-- The number of a zone. -/
def zoneNum : Zone → Nat | .low => 0 | .mid => 1 | .high => 2

/-- ACT_DIAG_STEP_END: SETTLE milliseconds have passed, of which 0 acts as 1; step A keeps its zone, step B classifies the phase; the last ends the test (R441). -/
def diagStep (b : Nat) (z : Zone) (s : State) : State :=
  if !s.flag (.act .BR_DIAG_BUSY) b ∨ s.now < s.get (.act .DIAG_AT) b + us (1000 * max 1 (s.get (.act .BR_DIAG_SETTLE) b)) then s
  else
    let n := s.get (.act .DIAG_STEP) b
    let s := s.set (.act .DIAG_AT) s.now b
    if n % 2 = 0 then (s.set (.act .DIAG_ZONE) (zoneNum z) b).set (.act .DIAG_STEP) (n + 1) b
    else
      let l := s.diagPhases b
      let t := match l[n / 2]? with
        | some k => s.set (resFld k) (classifyNode (s.get (.act .DIAG_ZONE) b) (zoneNum z)) b
        | none => s
      if n / 2 + 1 < l.length then t.set (.act .DIAG_STEP) (n + 1) b else (t.off (.act .BR_DIAG_BUSY) b).off (.act .DIAG_STEP) b

/-- ACT_DIAG_ABORT: an enable of the bridge's group ends the test; phases whose step B had not ended read 6 (R442). -/
def diagAbort (b : Nat) (s : State) : State :=
  if !s.flag (.act .BR_DIAG_BUSY) b then s
  else
    let n := s.get (.act .DIAG_STEP) b
    ((s.forEach ((s.diagPhases b).drop (n / 2)) (fun k t => t.set (resFld k) 6 b)).off (.act .BR_DIAG_BUSY) b).off (.act .DIAG_STEP) b

/-- The Hall sequence of R444, forward. -/
def hallSeq : List Nat := [5, 1, 3, 2, 6, 4]
/-- `b` follows `a` in the Hall sequence. -/
def hallNext (a b : Nat) : Bool := (List.range 6).any (fun i => hallSeq[i]? == some a && hallSeq[(i + 1) % 6]? == some b)

/-- The time between the last two accepted edges, in whole microseconds, positive forward; free before a second edge, and of free
sign between states that are not adjacent (R447). DESIGN CHOICE, log entry 70. -/
def hallTime (b old v : Nat) (s : State) : State :=
  let d := min 32767 ((s.now - s.get (.act .HALL_AT) b) / us 1)
  if !s.flag (.act .HALL_HAD) b then s.setFree (.act .HALL_DT) b
  else if hallNext old v then s.set (.act .HALL_DT) d b
  else if hallNext v old then s.sset (.act .HALL_DT) (-(d : Int)) b
  else (s.free 1).2.sset (.act .HALL_DT) (if (s.free 1).1 = 1 then (d : Int) else -(d : Int)) b

/-- An accepted Hall state; it goes to the loop ports, as does the time of an edge (R443, R444, R447). -/
def hallTake (b v : Nat) (s : State) : State :=
  let old := s.get (.act .BR_STAT_HALL) b
  let bad := v == 0 || v == 7 || (s.flag (.act .HALL_HAD) b && !(hallNext old v || hallNext v old))
  let t := (((((hallTime b old v s).set (.act .BR_STAT_HALL) v b).inc (.act .HALL_CNT) b).set (.act .HALL_AT) s.now b).on (.act .HALL_HAD) b).when bad
    (·.on (.act .BR_STAT_HALL_ERR) b)
  sourceSent 6 (3 + b) (sourceSent 6 b t)

/-- HALL_ACCEPT: the pins show a level; a new state is accepted once they have held it for HFILT, of which 0 acts as 1 (R443). -/
def hallAccept (b raw : Nat) (s : State) : State :=
  let v := if s.flag (.act .BR_HALL_INV) b then 7 - raw else raw
  if !s.flag (.act .BR_HALL_EN) b ∨ !s.actClocked then s
  else if s.get (.act .HALL_RAW) b ≠ raw then (s.set (.act .HALL_RAW) raw b).set (.act .HALL_RAW_AT) s.now b
  else if v = s.get (.act .BR_STAT_HALL) b ∨ s.now < s.get (.act .HALL_RAW_AT) b + 640 * max 1 (s.get (.act .BR_HALL_HFILT) b) then s
  else hallTake b v s

/-- HALL_FAULT: a state of 0 or 7 has lasted HINV microseconds, of which 0 acts as 1; reported at level 4, the drive firmware disables the group
(R444). -/
def hallFault (b : Nat) (s : State) : State :=
  let v := s.get (.act .BR_STAT_HALL) b
  if s.flag (.act .BR_HALL_EN) b ∧ (v = 0 ∨ v = 7) ∧ s.get (.act .HALL_AT) b + us (max 1 (s.get (.act .BR_HALL_HINV) b)) ≤ s.now then
    disableGroup (brGroup b) ((s.on (.act .BR_STAT_HALL_FAULT) b).send .level4 444 b)
  else s

/-- Count a refused SENT frame. -/
def sentRefuse (c : Nat) (f : ActFld) (s : State) : State := (s.on (.act f) c).incSat (.act .SENT_STAT_ERRCNT) c

/-- SENT_FRAME_RECEIVED: tick in nanoseconds, format and CRC checks, fast values, a completed slow message (R445, R446). -/
def sentFrame (c tick : Nat) (six crc : Bool) (fc1 fc2 scn : Nat) (slow : Option (Nat × Nat)) (s : State) : State :=
  if !s.flag (.act .SENT_CFG_EN) c ∨ !s.actClocked then s
  else
    let nom : Int := 500 * s.get (.act .SENT_CFG_TICK) c
    let prev : Int := s.get (.act .SENT_TICK) c
    let t := s.set (.act .SENT_TICK) tick c
    if ((tick : Int) - nom).natAbs * 5 > nom.natAbs ∨ (prev ≠ 0 ∧ ((tick : Int) - prev).natAbs * 64 > prev.natAbs) then
      sentRefuse c .SENT_STAT_CAL_ERR t
    else if !six then sentRefuse c .SENT_STAT_NIB_ERR t
    else if !crc then sentRefuse c .SENT_STAT_CRC_ERR t
    else
      let t := (((t.set (.act .SENT_DATA_FC1) fc1 c).set (.act .SENT_DATA_FC2) fc2 c).set (.act .SENT_DATA_SCN) scn c).on
        (.act .SENT_DATA_VALID) c
      let t := sourceSent 6 (17 + c) (sourceSent 6 (9 + c) (t.set (.act .SENT_AT) s.now c))
      match slow with
      | some m => ((t.set (.act .SENT_SLOW_ID) m.1 c).set (.act .SENT_SLOW_DATA) m.2 c).on (.act .SENT_SLOW_NEW) c
      | none => t

/-- SENT_TIMEOUT: no valid frame for TMO x 100 µs, of which 0 acts as 1 (R446). -/
def sentTimeout (c : Nat) (s : State) : State :=
  if s.flag (.act .SENT_CFG_EN) c ∧ s.actClocked ∧ s.get (.act .SENT_AT) c + us (100 * max 1 (s.get (.act .SENT_CFG_TMO) c)) ≤ s.now then (s.off (.act .SENT_DATA_VALID) c).on (.act .SENT_STAT_TMO_ERR) c else s

/-- A field of the gearbox record. -/
def State.gb (s : State) (off n : Nat) : Nat := s.recN 5 off n

/-- Offset of the first field of the gearbox record outside its range (R448). -/
def State.gbBad (s : State) : Option Nat :=
  let f := s.gb
  let p (k : Nat) := s.recS 5 (0x16 + 2 * k)
  if f 0 1 < 1 ∨ f 0 1 > 4 then some 0 else if f 1 1 < 1 ∨ f 1 1 > 3 then some 1
  else match (List.range 3).find? (fun k => decide (f (2 + k) 1 > 11)) with
  | some k => some (2 + k)
  | none => if f 5 1 ≠ 0 then some 5 else match (List.range 8).find? (fun k => decide (f (0x0E + k) 1 > 1)) with
  | some k => some (0x0E + k)
  | none => match (List.range 2).find? (fun k => decide (p (3 * k) ≥ p (3 * k + 1)) || decide (p (3 * k + 1) ≥ p (3 * k + 2))) with
  | some k => some (0x16 + 6 * k)
  | none =>
    if f 0x36 2 < 500 ∨ f 0x36 2 > 10000 then some 0x36 else if f 0x38 2 < 1 ∨ f 0x38 2 > 100 then some 0x38
    else if f 0x3C 2 < 10 ∨ f 0x3C 2 > 500 then some 0x3C else if f 0x3E 1 < 5 ∨ f 0x3E 1 > 100 then some 0x3E
    else if f 0x3F 1 ≠ 0 then some 0x3F else if f 0x4E 1 < 5 then some 0x4E else if f 0x4F 1 < 5 then some 0x4F
    else if f 0x56 42 ≠ 0 then some 0x56 else none

/-- Fork of a gear. -/
def State.gearFork (s : State) (g : Nat) : Nat := s.gb (0x0E + 2 * (g - 1)) 1 % 2
/-- Whether a gear lies at position B of its fork. -/
def State.gearB (s : State) (g : Nat) : Bool := s.gb (0x0F + 2 * (g - 1)) 1 == 1

/-- Move a fork: the masks of the direction are written, then its group is enabled (R436, R449). -/
def moveFork (f : Nat) (fwd : Bool) (s : State) : State :=
  let t := s.forUpTo 3 (fun k t => t.set (.edge .LEG_CMT) (s.gb ((if fwd then 0x40 else 0x46) + 2 * k) 2) (32 + 3 * f + k))
  groupEnable (6 + f) t

/-- The motors of the gearbox. -/
def State.gbMotors (s : State) : List Nat := (List.range 2).filter (fun m => (s.gb 1 1).testBit m)

/-- A value in a unit of one of the base values, times `num / den`, as Q1.15 (R90). -/
def perBase (i v num den : Nat) (s : State) : Nat × State :=
  let b := singleQ (s.get (.drv .PK_BASE) i)
  quot (v * num * 32768 * b.2) (max 1 (den * b.1)) s

/-- Begin a phase of a shift. -/
def gbPhase (p : Nat) (s : State) : State :=
  ((((s.set (.drv .GB_PHASE) p).set (.drv .GB_AT) s.now).off (.drv .GB_OK_AT)).off (.drv .GB_OPP_AT)).off (.drv .GB_EQ)

/-- Begin UNLOAD: the speed target goes to N_MAX, the command starts from the curve output (R449). -/
def startUnload (s : State) : State :=
  let t := gbPhase 1 (s.set (.drv .GB_TQ) (s.get (.drv .TR_TQ) (s.gbMotors.headD 0)))
  t.forEach s.gbMotors (fun m t => (perBase 3 (s.recN m 8 2) 1 1 t).2.set (.drv .TR_SPD)
    (min 0x7FFF (perBase 3 (s.recN m 8 2) 1 1 t).1) m)

/-- Begin DISENGAGE: the fork of the engaged gear moves to N. -/
def startDisengage (s : State) : State :=
  let g := s.get (.drv .GB_GEAR)
  moveFork (s.gearFork g) (!s.gearB g) (gbPhase 2 s)

/-- Begin SYNC: the speed target of the new gear, and the speed loop's limits at SYNC_TQ (R449). -/
def startSync (s : State) : State :=
  let g := s.get (.drv .GB_TGT)
  let v := (s.sget (.drv .VEH_SPD)).natAbs * s.gb (6 + 2 * (g - 1)) 2
  (gbPhase 3 s).forEach s.gbMotors (fun m t =>
    let r := perBase 3 v 1 10000 t
    let q := perBase 2 (s.gb 0x3A 2) 1 1 r.2
    let sp := if s.sget (.drv .VEH_SPD) < 0 then -(r.1 : Int) else r.1
    let t := ((q.2.sset (.drv .TR_SPD) (satS 16 sp) m).set (.loop .LS_LIMIT_OMAX) (min q.1 0x7FFF) (trqEngine m) 2).sset
      (.loop .LS_LIMIT_OMIN) (-(min q.1 0x7FFF : Nat)) (trqEngine m) 2
    lsCtrlWrite (trqEngine m) 2 1 t)

/-- Begin ENGAGE: the fork of the target gear moves to its position. -/
def startEngage (s : State) : State :=
  let g := s.get (.drv .GB_TGT)
  moveFork (s.gearFork g) (s.gearB g) (gbPhase 4 s)

/-- The shift ends: a final reply is owed (R449, R539). -/
def shiftDone (phase : Nat) (s : State) : State := (gbPhase phase (s.off (.drv .GB_BUSY))).off (.drv .GB_UNWIND)

/-- An accepted shift request (R449). -/
def startShift (tgt : Nat) (s : State) : State :=
  startUnload (((((s.set (.drv .GB_TGT) tgt).on (.drv .GB_BUSY)).set (.drv .GB_START) s.now).off (.drv .GB_CAUSE)).off (.drv .GB_ABPH))

/-- Why a shift request is refused (R448 to R450, R539): 1 running, 2 park lock, 3 target, 4 mode, 5 record, 6 UNKNOWN not cleared, 7
VEHICLE_STATE older than 100 ms. -/
def State.shiftRefusal (s : State) (tgt : Nat) : Option Nat :=
  if s.flag (.drv .GB_BUSY) then some 1
  else if s.get (.drv .PL_STATE) ≠ 0 then some 2
  else if tgt > s.gb 0 1 then some 3
  else if !([1, 2, 4].contains (s.get (.saf .AXLE_MODE_MODE))) then some 4
  else if s.gbBad.isSome then some 5
  else if s.get (.drv .GB_GEAR) = 7 ∧ s.get (.drv .GB_CAUSE) ≠ 0 then some 6
  else if s.get (.drv .VEH_AT) = 0 ∨ s.get (.drv .VEH_AT) - 1 + us 100000 < s.now then some 7
  else none

/-- The raw value of a position source, as the loop ports take it; none while it is invalid: SENT channels 0 to 7, APOS0 to APOS3 (R446 to R448).
DEDUCED, log entry 50. -/
def State.posRaw (s : State) (src : Nat) : Option Int :=
  if src < 8 then (if s.flag (.act .SENT_DATA_VALID) src then some (8 * s.get (.act .SENT_DATA_FC1) src : Nat) else none)
  else if s.bit (.sns .HK_VALID) (20 + src) then some (s.get (.sns .HK_SENT) (20 + src)) else none

/-- Position of a fork in 0.01 µm (R448). -/
def State.forkPos (s : State) (f : Nat) : Option Int :=
  (s.posRaw (s.gb (2 + f) 1)).map (fun r => (r - s.gb (0x24 + 2 * f) 2) * s.gb (0x28 + 2 * f) 2)

/-- The position of N of a fork, and that of a gear, in 0.01 mm. -/
def State.forkN (s : State) (f : Nat) : Int := s.recS 5 (0x18 + 6 * f)
/-- The position of a gear. -/
def State.gearPos (s : State) (g : Nat) : Int := s.recS 5 (0x16 + 6 * s.gearFork g + (if s.gearB g then 4 else 0))

/-- The fork that moves now, its target in 0.01 mm and whether it moves forward (R449, R450). -/
def State.gbMove (s : State) : Option (Nat × Int × Bool) :=
  let gear := s.get (.drv .GB_GEAR)
  let tgt := s.get (.drv .GB_TGT)
  let toN (g : Nat) := some (s.gearFork g, s.forkN (s.gearFork g), !s.gearB g)
  let toG (g : Nat) := some (s.gearFork g, s.gearPos g, s.gearB g)
  match s.get (.drv .GB_UNWIND), s.get (.drv .GB_PHASE) with
  | 1, _ => toG gear
  | 2, _ => if s.get (.drv .GB_ABPH) = 4 then toN tgt else toN gear
  | 0, 2 => toN gear
  | 0, 4 => toG tgt
  | _, _ => none

/-- The completion condition of the present phase holds now (R449, R450). -/
def State.gbMet (s : State) : Bool :=
  match s.gbMove with
  | some (f, v, _) => match s.forkPos f with
    | some p => decide ((p - 1000 * v).natAbs ≤ 1000 * s.gb 0x22 2)
    | none => false
  | none => match s.get (.drv .GB_PHASE) with
    | 1 => s.gbMotors.all (fun m => s.get (.drv .TR_TQ) m == 0)
    | 3 => s.gbMotors.all (fun m =>
        let b := singleQ (s.get (.drv .PK_BASE) 3)
        decide ((s.sget (.loop .LS_STAT_U) (curEngine m) 2 - s.sget (.drv .TR_SPD) m).natAbs * b.1 ≤ s.gb 0x3C 2 * 32768 * b.2))
    | 5 => s.gbMotors.all (fun m => s.bit (.drv .GB_EQ) m)
    | _ => false

/-- The completion condition counts as met: a position or a speed once it has held for SETTLE_MS (R449). -/
def State.gbSettled (s : State) : Bool :=
  if s.gbMove.isNone && s.get (.drv .GB_PHASE) != 3 then s.gbMet
  else s.get (.drv .GB_OK_AT) != 0 && decide (s.get (.drv .GB_OK_AT) + us (1000 * s.gb 0x3E 1) ≤ s.now + 1)

/-- Since when the completion condition holds. -/
def gbTrack (s : State) : State :=
  if !s.flag (.drv .GB_BUSY) ∨ !s.gbMet then s.off (.drv .GB_OK_AT)
  else s.when (s.get (.drv .GB_OK_AT) == 0) (·.set (.drv .GB_OK_AT) (s.now + 1))

/-- A fork that moves opposite to its command, judged from one millisecond to the next (R450). -/
def gbOpposite (s : State) : State :=
  let opp := match s.gbMove with
    | some (f, _, fwd) => match s.forkPos f with
      | some p => if fwd then decide (p < s.sget (.drv .GB_LASTP) f) else decide (s.sget (.drv .GB_LASTP) f < p)
      | none => false
    | none => false
  let t := if opp then s.when (s.get (.drv .GB_OPP_AT) == 0) (·.set (.drv .GB_OPP_AT) (s.now + 1)) else s.off (.drv .GB_OPP_AT)
  t.forUpTo 2 (fun f t => match s.forkPos f with | some p => t.sset (.drv .GB_LASTP) p f | none => t)

/-- SHIFT_PHASE_COMPLETE: the completion condition of the present phase, or of an abort's return, is met (R449, R450). -/
def shiftPhase (s' : State) : State :=
  let s := gbTrack s'
  if !s.flag (.drv .GB_BUSY) ∨ !s.gbSettled then s
  else
    let tgt := s.get (.drv .GB_TGT)
    let gear := s.get (.drv .GB_GEAR)
    match s.get (.drv .GB_UNWIND), s.get (.drv .GB_PHASE) with
    | 1, _ => gbPhase 5 ((disableGroups 0xC0 s).set (.drv .GB_UNWIND) 3)
    | 2, _ => shiftDone 6 ((disableGroups 0xC0 s).off (.drv .GB_GEAR))
    | 3, _ => shiftDone 0 s
    | _, 1 =>
      let t := s.off (.drv .GB_TQ)
      if gear ≠ 0 ∧ gear ≤ 4 then startDisengage t else if tgt = 0 then shiftDone 6 t else startSync t
    | _, 2 =>
      let t := (disableGroups 0xC0 s).off (.drv .GB_GEAR)
      if tgt = 0 then shiftDone 6 t else startSync t
    | _, 3 => startEngage s
    | _, 4 => gbPhase 5 ((disableGroups 0xC0 s).set (.drv .GB_GEAR) tgt)
    | _, 5 => shiftDone 0 s
    | _, _ => s

/-- The budget of a phase in fine ticks. -/
def State.budget (s : State) (p : Nat) : Nat := us (1000 * s.gb (0x2A + 2 * p) 2)

/-- The phase whose budget bounds the present motion: the return to the old gear has that of ENGAGE, the way to N that of DISENGAGE (R450). -/
def State.budgetPhase (s : State) : Nat :=
  match s.get (.drv .GB_UNWIND) with | 1 => 4 | 2 => 2 | 3 => 5 | _ => s.get (.drv .GB_PHASE)

/-- An abort cause holds (R450): budgets by time, a forced group by its latch, HALL_FAULT of the moving bridge, its position source, a motion
opposite to the command, an axle mode that allows no shift. The unwinding of an abort is no shift that SHIFT_MAX or the mode could end. DEDUCED,
log entry 50. -/
def State.abortHolds (s : State) (c : Nat) : Bool :=
  match c with
  | 1 => decide (s.get (.drv .GB_AT) + s.budget s.budgetPhase ≤ s.now)
  | 2 => s.get (.drv .GB_UNWIND) == 0 && decide (s.get (.drv .GB_START) + us (1000 * s.gb 0x36 2) ≤ s.now)
  | 3 => s.bit (.grd .OG_LATCH) 6 || s.bit (.grd .OG_LATCH) 7 || s.flag (.act .BR_STAT_OC_LATCH) 0 ||
      s.flag (.act .BR_STAT_OC_LATCH) 1
  | 4 => match s.gbMove with | some m => s.flag (.act .BR_STAT_HALL_FAULT) m.1 | none => false
  | 5 => match s.gbMove with | some m => (s.forkPos m.1).isNone | none => false
  | 6 => s.get (.drv .GB_OPP_AT) != 0 && decide (s.get (.drv .GB_OPP_AT) + us 10000 ≤ s.now + 1)
  | 7 => s.get (.drv .GB_UNWIND) == 0 && (!([1, 2, 4].contains (s.get (.saf .AXLE_MODE_MODE))) || s.flag (.saf .AXLE_MODE_BUSY))
  | _ => false

/-- SHIFT_ABORT: OG6 and OG7 are disabled, the command is held at 0, and the shift is unwound by the phase in which it fell; an abort
of the unwinding itself takes the next way out (R450). -/
def shiftAbort (c : Nat) (s : State) : State :=
  if !s.flag (.drv .GB_BUSY) ∨ !s.abortHolds c then s
  else
    let p := s.get (.drv .GB_PHASE)
    let t := ((disableGroups 0xC0 s).off (.drv .GB_TQ)).send .level5 450 p c
    let t := t.when (s.get (.drv .GB_UNWIND) == 0) (fun t => (t.set (.drv .GB_CAUSE) c).set (.drv .GB_ABPH) p)
    let unknown := fun t => shiftDone 6 (t.set (.drv .GB_GEAR) 7)
    let toN (f : Nat) (fwd : Bool) (t : State) := moveFork f fwd ((gbPhase p t).set (.drv .GB_UNWIND) 2)
    let tgt := s.get (.drv .GB_TGT)
    let gear := s.get (.drv .GB_GEAR)
    match s.get (.drv .GB_UNWIND) with
    | 1 => if 3 ≤ c ∧ c ≤ 6 then unknown t else toN (s.gearFork gear) (!s.gearB gear) t
    | 2 => unknown t
    | 3 => shiftDone 6 t
    | _ => match p with
      | 1 => gbPhase 5 (t.set (.drv .GB_UNWIND) 3)
      | 2 =>
        if 3 ≤ c ∧ c ≤ 6 then unknown t
        else moveFork (s.gearFork gear) (s.gearB gear) ((gbPhase 4 t).set (.drv .GB_UNWIND) 1)
      | 3 => shiftDone 6 t
      | 4 => if 3 ≤ c ∧ c ≤ 6 then unknown t else toN (s.gearFork tgt) (!s.gearB tgt) t
      | _ => shiftDone 6 t

/-- The command of one motor while a shift, NEUTRAL or an UNKNOWN gear holds it: UNLOAD ramps it to 0 and LOAD towards the curve at
TQ_RAMP, the speed target of SYNC and ENGAGE stays (R449, R450). -/
def gearTorque (m : Nat) (old s : State) : State :=
  let p := s.get (.drv .GB_PHASE)
  if !(s.gb 1 1).testBit m ∨ (p = 0 ∧ s.get (.drv .GB_GEAR) ≠ 7) then s
  else
    let r := perBase 2 (s.gb 0x38 2) 1 1 s
    let cur := old.sget (.drv .TR_TQ) m
    let step : Int := r.1
    let goal : Int := if p = 5 then s.sget (.drv .TR_TQ) m else 0
    let v := if p = 1 ∨ p = 5 then (if goal > cur then min goal (cur + step) else max goal (cur - step)) else 0
    let t := ((r.2.sset (.drv .TR_TQ) v m).sset (.drv .GB_TQ) v).putBit (.drv .GB_EQ) m (decide (p = 5) && decide (v = goal))
    if p = 1 ∨ p = 3 ∨ p = 4 then t.set (.drv .TR_SPD) (old.get (.drv .TR_SPD) m) m else t

/-- Why a park-lock request is refused (R448, R452): 1 a shift runs, 2 a motor turns at N_STILL or faster, 3 CHARGE, 4 a move runs,
5 the record. -/
def State.parkRefusal (s : State) (engage : Bool) : Option Nat :=
  if s.flag (.drv .GB_BUSY) then some 1
  else if s.get (.drv .PL_MOVE) ≠ 0 then some 4
  else if s.gbBad.isSome then some 5
  else if engage && s.gbMotors.any (fun m => s.speedAtLeast (s.sget (.loop .LS_STAT_U) (curEngine m) 2) (s.recN m 0x0A 2) 1 1) then some 2
  else if !engage && s.get (.saf .AXLE_MODE_MODE) == 3 then some 3
  else none

/-- Write the duties of ALEG6 and ALEG7 with a load-all for domain 5 (R451). -/
def parkDuty (a b : Nat) (s : State) : State := loadAll 5 (dutyWrite 39 b (dutyWrite 38 a s))

/-- Start a park-lock move: duties, load-all, OG8 enabled (R451). -/
def startPark (engage : Bool) (s : State) : State :=
  let per := s.get (.edge .DOM_PERIOD) 5
  let t := parkDuty (if engage then per else 0) (if engage then 0 else per) s
  (((groupEnable 8 t).set (.drv .PL_MOVE) (if engage then 1 else 2)).set (.drv .PL_AT) s.now).off (.drv .PL_ST_AT)

/-- PARK_MOVE_END: position held for SETTLE_MS, a stall of PL_STALL_MS in position, or PL_MAX; the rules give the park lock's position no scale, so
that it has reached its place is the drive firmware's finding; both duties 0 with a load-all, OG8 disabled (R451). -/
def parkEnd (e : MoveEnd) (s : State) : State :=
  let m := s.get (.drv .PL_MOVE)
  if m = 0 ∨ (e = .timeout ∧ s.now < s.get (.drv .PL_AT) + us (10000 * s.gb 0x4F 1)) ∨
      (e = .stall ∧ (s.get (.drv .PL_ST_AT) = 0 ∨ s.now + 1 < s.get (.drv .PL_ST_AT) + us (1000 * s.gb 0x4E 1))) then s
  else
    let st := match e with | .timeout => 3 | _ => if m = 1 then 1 else 0
    ((disableGroup 8 (parkDuty 0 0 s)).off (.drv .PL_MOVE)).set (.drv .PL_STATE) st

/-- COMMAND_CURVE_EVAL (R341, R449). -/
def execCommandCurveEval (m : Fin 2) (s : State) : Host.Outcome State Fault Refusal :=
  done (gbTrack (State.when (gearTorque m.val s (curveEval m.val s)) (m.val == 0) gbOpposite))
/-- OVER_CURRENT (R439). -/
def execOverCurrent (b : Fin 3) (s : State) : Host.Outcome State Fault Refusal := done (overCurrent b.val s)
/-- ACT_BR_CFG_WRITE (R438). -/
def execActBrCfgWrite (w : Who) (b : Fin 3) (p3 : Bool) (v : Word) (s : State) : Host.Outcome State Fault Refusal :=
  done (sideband w (brAddr b.val + (if p3 then 4 else 0)) v.toNat (brCfgWrite w b.val p3 v.toNat) s)
/-- ACT_DIAG_GO (R441). -/
def execActDiagGo (w : Who) (b : Fin 3) (v : Word) (s : State) : Host.Outcome State Fault Refusal :=
  done (sideband w (brAddr b.val + 8) v.toNat (diagWrite b.val v.toNat) s)
/-- ACT_DIAG_STEP_END (R441). -/
def execActDiagStepEnd (b : Fin 3) (z : Zone) (s : State) : Host.Outcome State Fault Refusal := done (diagStep b.val z s)
/-- HALL_ACCEPT (R443). DEDUCED, log entry 50. -/
def execHallAccept (b : Fin 3) (v : BitVec 3) (s : State) : Host.Outcome State Fault Refusal := done (hallAccept b.val v.toNat s)
/-- HALL_FAULT (R444). DEDUCED, log entry 50. -/
def execHallFault (b : Fin 3) (s : State) : Host.Outcome State Fault Refusal := done (hallFault b.val s)
/-- SENT_FRAME_RECEIVED (R445). DEDUCED, log entry 50. -/
def execSentFrameReceived (c : Fin 8) (tick : BitVec 17) (six crc : Bool) (fc1 fc2 : BitVec 12) (scn : BitVec 4)
    (slow : Option (BitVec 8 × Half)) (s : State) : Host.Outcome State Fault Refusal :=
  done (sentFrame c.val tick.toNat six crc fc1.toNat fc2.toNat scn.toNat (slow.map (fun m => (m.1.toNat, m.2.toNat))) s)
/-- SENT_TIMEOUT (R446). -/
def execSentTimeout (c : Fin 8) (s : State) : Host.Outcome State Fault Refusal := done (sentTimeout c.val s)
/-- SENT_SLOW_READ (R445). -/
def execSentSlowRead (w : Who) (c : Fin 8) (s : State) : Host.Outcome State Fault Refusal :=
  done (sidebandRead w (sentAddr c.val + 0x0C) (·.off (.act .SENT_SLOW_NEW) c.val) s)
/-- SHIFT_PHASE_COMPLETE (R449). -/
def execShiftPhaseComplete (s : State) : Host.Outcome State Fault Refusal := done (shiftPhase s)
/-- SHIFT_ABORT (R450). DEDUCED, log entry 50. -/
def execShiftAbort (c : Fin 8) (s : State) : Host.Outcome State Fault Refusal := done (shiftAbort c.val s)
/-- PARK_MOVE_END (R451). -/
def execParkMoveEnd (e : MoveEnd) (s : State) : Host.Outcome State Fault Refusal := done (parkEnd e s)
/-- SHUNT_CONVERSION (R439). -/
def execShuntConversion (b : Fin 3) (code : BitVec 12) (s : State) : Host.Outcome State Fault Refusal := done (shunt b.val code s)

end Sys2Proof.Machine
end

