-- ==== Sys2Proof/Machine/Memory.lean ====
section
/-!
DEFINITION. The memory island (chapter 14): transactions at the requester ports, the arbiter, the symbol code, the scrubbers,
DRAM initialisation and the flight recorder's allocator.
Beside physical addresses the byte list holds, above 2^40, write data on its way (2^42), the errors in the lines' codewords (2^43), and
the flash (2^41); none of them is an address of R48.
-/
namespace Sys2Proof.Machine
open Sys2Proof

/-- Base of the register window of MEM. -/
def memBase : Nat := 0x1070000000
/-- Where the data of a write waiting at a port is kept. -/
def waitData (p : Nat) : Nat := 2 ^ 42 + 256 * p
/-- Where the data of a write in a place of the strait is kept. DESIGN CHOICE, log entry 5. -/
def placeData (i : Nat) : Nat := 2 ^ 42 + 2 ^ 14 + 256 * i
/-- Where the errors in a line's codeword are kept, a byte for each of its 76 symbols. DESIGN CHOICE, log entry 5. -/
def lineMark (l : Nat) : Nat := 2 ^ 43 + 128 * l
/-- Number of usable lines (R503). -/
def lineCount : Nat := 117440512

/-- Multiplication by α in GF(2^8), whose field polynomial is x^8 + x^4 + x^3 + x^2 + 1 (R499). -/
def gfTimesAlpha (x : Nat) : Nat := if x < 128 then 2 * x else (2 * x - 256) ^^^ 0x1D

/-- The product of two symbols (R499). -/
def gfMul (a b : Nat) : Nat :=
  [7, 6, 5, 4, 3, 2, 1, 0].foldl (fun r k => gfTimesAlpha r ^^^ (if b.testBit k then a else 0)) 0

/-- α to the n-th power. -/
def alphaPow : Nat → Nat
  | 0 => 1
  | n + 1 => gfTimesAlpha (alphaPow n)

/-- The generator polynomial, roots α^0 to α^7, its highest coefficient first (R499). -/
def rsGenerator : List Nat :=
  (List.range 8).foldl (fun g k => List.zipWith (· ^^^ ·) (g ++ [0]) (0 :: g.map (gfMul (alphaPow k)))) [1]

/-- The eight check symbols of the message symbols: what dividing by the generator polynomial leaves (R499). -/
def rsCheck (msg : List Nat) : List Nat :=
  msg.foldl (fun r m => List.zipWith (fun x g => x ^^^ gfMul (m ^^^ r.headD 0) g) (r.drop 1 ++ [0]) (rsGenerator.drop 1)) (List.replicate 8 0)

/-- The four symbols of the line index, address bits [32:6]; their order, which the rules do not give, is the highest first. DESIGN CHOICE,
log entry 11. -/
def indexSymbols (l : Nat) : List Nat := [3, 2, 1, 0].map (fun k => l / 256 ^ k % 256)

/-- The codeword of a line: its index, data bytes 0 to 63, check bytes 0 to 7 (R499). -/
def State.codeword (s : State) (l : Nat) : List Nat :=
  let m := indexSymbols l ++ (List.range 64).map (fun k => (s.byte (64 * l + k)).toNat)
  m ++ rsCheck m

/-- The internal offset of the check symbols of the line at an address (R497). -/
def checkOffset (a : Nat) : Nat := 0x1C0000000 + 8 * (a / 64)

/-- The channel of an internal offset: address bit 8 (R496). -/
def dramChannel (a : Nat) : Nat := a / 256 % 2

/-- The symbol as DRAM holds it, errors and all: the place among the 76, from 4 on. -/
def State.storedSymbol (s : State) (l k : Nat) : Nat := (s.codeword l).getD k 0 ^^^ (s.byte (lineMark l + k)).toNat

/-- The errors in a line's codeword: places and bits. -/
def State.lineErrors (s : State) (l : Nat) : List (Nat × Nat) :=
  ((List.range 76).map (fun k => (k, (s.byte (lineMark l + k)).toNat))).filter (fun x => x.2 != 0)

/-- The eight syndromes that the errors leave: the code is linear, so the codeword itself adds nothing (R499). -/
def syndromes (e : List (Nat × Nat)) : List Nat :=
  (List.range 8).map (fun r => e.foldl (fun x p => x ^^^ gfMul p.2 (alphaPow (r * (75 - p.1) % 255))) 0)

/-- The places of a codeword with their locators. -/
def locators : List (Nat × Nat) := (List.range 76).map (fun k => (k, alphaPow (75 - k)))

/-- What is left of the syndromes when an error at the locator is taken out; all zero when it was the only one. -/
def strike (x : Nat) (t : List Nat) : List Nat := List.zipWith (fun b a => b ^^^ gfMul x a) (t.drop 1) t

/-- The place of a single error that explains the syndromes. -/
def oneError (t : List Nat) : Option Nat := (locators.find? (fun p => (strike p.2 t).all (· == 0))).map Prod.fst

/-- The decoder: the places of the at most two errors that explain the syndromes, if there are such. -/
def rsDecode (t : List Nat) : Option (List Nat) :=
  if t.all (· == 0) then some []
  else match oneError t with
  | some p => some [p]
  | none => locators.findSome? (fun p => (oneError (strike p.2 t)).map (fun q => [p.1, q]))

/-- The decoder's outcome for the errors of a line (R500). -/
def rsOutcome (e : List (Nat × Nat)) : LineOut :=
  if e = [] then .clean
  else match rsDecode (syndromes e) with
  | none => .uncorrectable
  | some [] => .silent
  | some l => if l.any (fun p => decide (p < 4)) then .uncorrectable else if e.length ≤ 2 then .corrected else .miscorrected

/-- The outcome of reading a line as it stands: one that is uncorrectable stays so until it is written whole (R500, R502). -/
def State.lineOut (s : State) (l : Nat) : LineOut := rsOutcome (s.lineErrors l)

/-- The line is uncorrectable as it stands. -/
def State.badLine (s : State) (l : Nat) : Bool := decide (s.lineOut l = .uncorrectable)

/-- Errors come up in a line's codeword. -/
def flipLine (l : Nat) (f : Flips) (s : State) : State :=
  f.foldl (fun t x => t.setByte (lineMark l + x.1.val) (t.byte (lineMark l + x.1.val) ^^^ x.2)) s

/-- Errors come up in lines, in order. -/
def flipLines (ls : List Nat) (os : List Flips) (s : State) : State := (ls.zip os).foldl (fun t x => flipLine x.1 x.2 t) s

/-- Fill `n` bytes from an address with free bytes. -/
def freeBytes (a : Nat) : Nat → State → State
  | 0, s => s
  | n + 1, s => freeBytes (a + 1) n ((s.free 8).2.setByte a (BitVec.ofNat 8 (s.free 8).1))

/-- Copy `n` bytes. -/
def copyBytes (src dst n : Nat) (s : State) : State :=
  (List.range n).foldl (fun t k => t.setByte (dst + k) (s.byte (src + k))) s

/-- Make `n` bytes from an address read as 0. -/
def zeroBytes (a n : Nat) (s : State) : State :=
  { s with mem := s.mem.filter (fun c => decide (c.1 < a) || decide (a + n ≤ c.1)) }

/-- A line was corrected (R500). -/
def lineCorrected (s : State) : State := (s.on (.mem .ECC_STAT_CE)).incSat (.mem .ECC_STAT_CE_CNT)

/-- A line was uncorrectable: recorded, logged once since VALID was cleared, reported at level 4 (R500). -/
def lineLost (l p kind : Nat) (s : State) : State :=
  let t := (s.on (.mem .ECC_STAT_UE)).incSat (.mem .ECC_STAT_UE_CNT)
  (t.when (!t.flag (.mem .ECC_LOG_VALID)) (fun t =>
    ((t.set (.mem .ECC_LOG_PORT) p).set (.mem .ECC_LOG_KIND) kind |>.set (.mem .ECC_ADDR) l).on (.mem .ECC_LOG_VALID))).send
    .level4 500 l p

/-- A line is encoded afresh: its codeword has no errors. -/
def encodeLine (l : Nat) (s : State) : State := zeroBytes (lineMark l) 128 s

/-- The lines a transaction touches. -/
def linesOf (a n : Nat) : List Nat := (List.range ((a + n + 63) / 64 - a / 64)).map (· + a / 64)

/-- Each line of a transaction with the outcome of its read. -/
def State.outcomes (s : State) (ls : List Nat) : List (Nat × LineOut) := ls.map (fun l => (l, s.lineOut l))

/-- Record what the decoder found in the lines read (R500). -/
def recordLines (p kind : Nat) (l : List (Nat × LineOut)) (s : State) : State :=
  l.foldl (fun t x => match x.2 with
    | .clean | .silent => t
    | .corrected | .miscorrected => lineCorrected t
    | .uncorrectable => lineLost x.1 p kind t) s

/-- The outcome leaves undefined data: miscorrected, or errors that the decoder does not see (R500). -/
def garbled (o : LineOut) : Bool := decide (o = .miscorrected) || decide (o = .silent)

/-- The lines' data is undefined where the decoder was wrong (R500). -/
def garble (l : List (Nat × LineOut)) (s : State) : State :=
  l.foldl (fun t x => if garbled x.2 then freeBytes (64 * x.1) 64 t else t) s

/-- Lines read are written back: undefined data stays in them, and they are encoded afresh (R502, R503). -/
def writeBack (l : List (Nat × LineOut)) (s : State) : State := l.foldl (fun t x => encodeLine x.1 t) (garble l s)

/-- The number of the present 1 ms window. -/
def State.msNow (s : State) : Nat := s.now / us 1000

/-- Count bytes moved by a port in the running 1 ms window. -/
def kibAdd (p n : Nat) (s : State) : State :=
  let w := s.msNow
  let at_ := s.get (.mem .KIB_AT) p
  if at_ = w then s.set (.mem .KIB_ACC) (s.get (.mem .KIB_ACC) p + n) p
  else
    let last := if at_ + 1 = w then min 0xFFFF (s.get (.mem .KIB_ACC) p / 1024) else 0
    ((s.set (.mem .PORT_STAT_KIB) last p).set (.mem .KIB_ACC) n p).set (.mem .KIB_AT) w p

/-- DRAM answers for a line: powered, out of self-refresh, and initialised so far (R498). -/
def State.dramReady (s : State) (a : Nat) : Bool :=
  s.flag (.mem .DRAM_ON) && !s.flag (.mem .STAT_SELFREF) && (s.flag (.mem .STAT_INIT_DONE) ||
    (s.flag (.mem .STAT_INIT_CHART) && decide (0x1B0000000 ≤ a) && decide (a < 0x1C0000000)))

/-- An on-chip word was read with the outcome of its SEC-DED (R506). -/
def sramRead (island : Nat) (o : Ecc) (s : State) : State :=
  match o with
  | .clean => s
  | .corrected => s.incSat (.mem .SRAM_ERR_CE_CNT)
  | .fatal => (s.on (.mem .SRAM_ERR_DE)).set (.mem .SRAM_ERR_SRC) island

/-- A lagoon access is answered at once. A write of whole 64-bit words reads none; any other reads its words first, and one with a double-bit
error ends it with ERROR 4, nothing written (R506). -/
def lagoonAccess (wr : Bool) (a n : Nat) (data : List (BitVec 8)) (e : Ecc) (s : State) : State :=
  if wr ∧ a % 8 = 0 ∧ n % 8 = 0 then (s.writeBytes a (data.take n)).answer .ok
  else
    let t := sramRead 13 e s
    if e = .fatal then t.answer (.error 4 (some 13))
    else if wr then (t.writeBytes a (data.take n)).answer .ok
    else t.answer (.data (t.readN a n))

/-- Put a transaction at a port, where it waits for its grant (R509). -/
def postRequest (p : Nat) (wr : Bool) (a n : Nat) (s : State) : State :=
  (((s.set (.mem .MQ_KIND) (if wr then 2 else 1) p).set (.mem .MQ_ADDR) a p).set (.mem .MQ_LEN) n p).set (.mem .MQ_AT) s.now p

/-- MEMORY_REQUEST: a transaction of 1 to 256 bytes within one aligned block waits at its port (R509); refused before that are
unmapped addresses, closed islands and guest writes into a region (R32, R49, R472). -/
def memoryRequest (w : Who) (p : Nat) (wr : Bool) (a n : Nat) (data : List (BitVec 8)) (e : Ecc) (s : State) : State :=
  if 22 ≤ p ∨ n = 0 ∨ 256 < n ∨ a / 256 ≠ (a + n - 1) / 256 ∨ s.get (.mem .MQ_KIND) p ≠ 0 then s
  else match windowOf a with
  | none => s.answer (.error 2)
  | some i =>
    if s.get (.saf .ISL_STAT_STATE) i ≠ 0 ∨ s.draining i then (s.on (.saf .ISL_STAT_CLOSED_SEEN) i).answer .closed
    else if wr && !s.mayWrite w a 0 then (logViolation 1 w a s).answer (.error 3 (some i))
    else if i = 13 then lagoonAccess wr a n data e s
    else if 0x1C0000000 ≤ a then s.answer (.error 2)
    else
      let t := postRequest p wr a n s
      if wr then (zeroBytes (waitData p) 256 t).writeBytes (waitData p) (data.take n) else t

/-- Transactions in flight that a port may have; 0 acts as 1, above 16 as 16. -/
def State.portLimit (s : State) (p : Nat) : Nat := clampN 1 16 (s.get (.mem .PORT_CFG_LIMIT) p)

/-- A free place of the strait (R508). -/
def State.freePlace (s : State) : Option Nat := (List.range 64).find? (fun i => s.get (.mem .IF_KIND) i == 0)

/-- The port has a waiting transaction for which it may have a place (R508, R509). -/
def State.portWaits (s : State) (p : Nat) : Bool :=
  s.get (.mem .MQ_KIND) p != 0 && decide (s.get (.mem .PORT_STAT_INFLIGHT) p < s.portLimit p)

/-- The port granted next: the highest class that has a waiting port, in it the first after the port last granted (R510). -/
def State.grantPort (s : State) : Option Nat :=
  match [3, 2, 1, 0].find? (fun c => (List.range 32).any (fun p => s.portWaits p && s.get (.mem .PORT_CFG_CLASS) p == c)) with
  | none => none
  | some c =>
    ((List.range 32).map (fun k => (s.get (.mem .ARB_LAST) c + 1 + k) % 32)).find? (fun p =>
      s.portWaits p && s.get (.mem .PORT_CFG_CLASS) p == c)

/-- Grant a port's transaction a place; MAXWAIT keeps the longest wait in units of 50 ns. -/
def grant (p i : Nat) (s : State) : State :=
  let c := s.get (.mem .PORT_CFG_CLASS) p
  let k := s.get (.mem .MQ_KIND) p
  let wait := (s.now - s.get (.mem .MQ_AT) p) / 320
  let t := (((((s.set (.mem .IF_KIND) k i).set (.mem .IF_PORT) p i).set (.mem .IF_ADDR) (s.get (.mem .MQ_ADDR) p) i).set
    (.mem .IF_LEN) (s.get (.mem .MQ_LEN) p) i).set (.mem .IF_CLASS) c i).set (.mem .ARB_LAST) p c
  let t := (t.incSat (.mem .PORT_STAT_INFLIGHT) p).set (.mem .PORT_STAT_MAXWAIT) (min 0xFF (max (s.get (.mem .PORT_STAT_MAXWAIT) p)
    wait)) p
  let t := t.when (k == 2) (copyBytes (waitData p) (placeData i) 256)
  ((t.off (.mem .MQ_KIND) p).off (.mem .MQ_ADDR) p |>.off (.mem .MQ_LEN) p).off (.mem .MQ_AT) p |> zeroBytes (waitData p) 256

/-- Free a place of the strait. -/
def freeIn (i : Nat) (s : State) : State :=
  let p := s.get (.mem .IF_PORT) i
  (((((s.set (.mem .PORT_STAT_INFLIGHT) (s.get (.mem .PORT_STAT_INFLIGHT) p - 1) p).off (.mem .IF_KIND) i).off (.mem .IF_PORT) i).off
    (.mem .IF_ADDR) i).off (.mem .IF_LEN) i).off (.mem .IF_CLASS) i |> zeroBytes (placeData i) 256

/-- A transaction that the memory island turns away tells the trace streamer so at its own port (R166, R501). -/
def tellStreamer (p : Nat) (s : State) : State := s.when (p == 14) (·.on (.loop .STRM_SHUT))

/-- A read's response: the data, or ERROR 4 for the whole transaction (R500, R501). -/
def readResponse (i p a n : Nat) (s : State) : State :=
  let r := s.outcomes (linesOf a n)
  let t := freeIn i (recordLines p 1 r s)
  if r.any (fun x => decide (x.2 = .uncorrectable)) then (tellStreamer p t).answer (.error 4 (some 10))
  else
    let g := garble r t
    kibAdd p n ({ t with fresh := g.fresh }.answer (.data (g.readN a n)))

/-- The transaction covers a line whole. -/
def coversLine (a n l : Nat) : Bool := decide (a ≤ 64 * l) && decide (64 * l + 64 ≤ a + n)

/-- The lines a write covers only in part, with the outcomes of their reads (R502). -/
def State.partLines (s : State) (a n : Nat) : List (Nat × LineOut) := s.outcomes ((linesOf a n).filter (fun l => !coversLine a n l))

/-- What a write does to its lines: those it covers whole are encoded without a read, the others read, merged and written back (R502). -/
def writeLines (a n : Nat) (s : State) : State :=
  writeBack (s.partLines a n) (((linesOf a n).filter (coversLine a n)).foldl (fun t l => encodeLine l t) s)

/-- A write's response: partial lines are read and merged; nothing is written when one of those reads is uncorrectable (R502). -/
def writeResponse (i p a n : Nat) (s : State) : State :=
  let r := s.partLines a n
  let t := recordLines p 2 r s
  if r.any (fun x => decide (x.2 = .uncorrectable)) then
    (tellStreamer p (freeIn i (t.on (.mem .ECC_STAT_UE_WR)))).answer (.error 4 (some 10))
  else kibAdd p n ((freeIn i (copyBytes (placeData i) a n (writeLines a n t))).answer .ok)

/-- MEMORY_RESPONSE: the transaction in place `i` completes; `os` are the errors that have come up in its lines, in order. A line not
yet initialised keeps it waiting (R498, R500 to R502). -/
def memoryResponse (i : Nat) (os : List Flips) (s : State) : State :=
  let a := s.get (.mem .IF_ADDR) i
  let n := s.get (.mem .IF_LEN) i
  let p := s.get (.mem .IF_PORT) i
  let t := flipLines (linesOf a n) os s
  if s.get (.saf .ISL_STAT_STATE) 10 ≠ 0 ∨ !s.dramReady a then s
  else match s.get (.mem .IF_KIND) i with
  | 1 => readResponse i p a n t
  | 2 => writeResponse i p a n t
  | _ => s

/-- Every transaction at the memory strait ends with CLOSED (R38, R39, R166). -/
def closeTransactions (s' : State) : State :=
  let s := s'.when (s'.get (.mem .MQ_KIND) 14 != 0 || s'.get (.mem .PORT_STAT_INFLIGHT) 14 != 0) (tellStreamer 14)
  ((s.forUpTo 64 (fun i t => if t.get (.mem .IF_KIND) i = 0 then t else freeIn i t)).forUpTo 32 (fun p t =>
    if t.get (.mem .MQ_KIND) p = 0 then t
    else ((t.off (.mem .MQ_KIND) p).off (.mem .MQ_ADDR) p |>.off (.mem .MQ_LEN) p).off (.mem .MQ_AT) p |> zeroBytes (waitData p) 256))

/-- INT of the scrubber in µs; below 16 it acts as 16 (R503). -/
def State.scrubInt (s : State) : Nat := max 16 (s.get (.mem .SCRUB_CTRL_INT))

/-- SCRUB_STEP: every INT µs one line is read, `f` the errors that have come up in it; a correction is written back, an uncorrectable line
logged and left; PTR moves on (R503 to R505). -/
def scrubStep (f : Flips) (s : State) : State :=
  let l := s.get (.mem .SCRUB_STAT_PTR)
  if !s.flag (.mem .SCRUB_CTRL_EN) ∨ s.get (.saf .ISL_STAT_STATE) 10 ≠ 0 ∨ !s.dramReady (64 * l) ∨
      s.now < s.get (.mem .SCRUB_STEP_AT) + us s.scrubInt then s
  else
    let t := flipLine l f s
    let r := t.outcomes [l]
    let t := (recordLines 15 3 r t).set (.mem .SCRUB_STEP_AT) s.now
    let t := writeBack (r.filter (fun x => decide (x.2 = .corrected) || decide (x.2 = .miscorrected))) t
    if l + 1 = lineCount then (t.set (.mem .SCRUB_STAT_PTR) 0).set (.mem .SCRUB_AT) s.now
    else t.set (.mem .SCRUB_STAT_PTR) (l + 1)

/-- SCRUB_PASS_LATE: the pass has taken longer than 9 h (R505). -/
def scrubLate (s : State) : State :=
  if s.get (.mem .SCRUB_AT) + secs 32400 < s.now then s.on (.mem .SCRUB_STAT_LATE) else s

/-- LAGOON_SCRUB_STEP: each µs the next word of the lagoon's 1,048,576 (R507). -/
def lagoonScrub (o : Ecc) (s : State) : State :=
  if s.get (.saf .ISL_STAT_STATE) 13 ≠ 0 ∨ s.now < s.get (.mem .LAG_STEP_AT) + us 1 then s
  else ((sramRead 13 o s).inc (.mem .LAG_PTR)).set (.mem .LAG_STEP_AT) s.now

/-- DRAM comes up from off: its content is lost, initialisation begins, the scrubber restarts (R498, R505). -/
def dramPowerUp (s : State) : State :=
  let t : State := { s with mem := s.mem.filter (fun c => decide (0x1C0000000 ≤ c.1) && decide (c.1 < 2 ^ 43)) }
  (((((t.on (.mem .DRAM_ON)).off (.mem .STAT_SELFREF)).off (.mem .STAT_INIT_CHART)).off (.mem .STAT_INIT_DONE)).off
    (.mem .SCRUB_STAT_PTR)).set (.mem .SCRUB_AT) s.now

/-- DRAM is powered off (R622). -/
def dramOff (s : State) : State :=
  (((s.off (.mem .DRAM_ON)).off (.mem .STAT_SELFREF)).off (.mem .STAT_INIT_CHART)).off (.mem .STAT_INIT_DONE)
    |>.off (.mem .SCRUB_STAT_PTR)

/-- DRAM_INIT_CHART_DONE (R498). -/
def initChart (s : State) : State :=
  if s.flag (.mem .DRAM_ON) ∧ !s.flag (.mem .STAT_SELFREF) then s.on (.mem .STAT_INIT_CHART) else s

/-- DRAM_INIT_DONE (R498): after the chart region. -/
def initDone (s : State) : State :=
  if s.flag (.mem .STAT_INIT_CHART) ∧ !s.flag (.mem .STAT_SELFREF) then s.on (.mem .STAT_INIT_DONE) else s

/-- Slots of the flight recorder (R515). -/
def State.frSlots (s : State) : Nat := 255 * s.get (.mem .FR_SIZE_SEGS)

/-- Base address of the flight recorder. -/
def State.frBase (s : State) : Nat := s.get (.mem .FR_BASE) * 2 ^ 20

/-- Address of slot `k`'s data (R515). -/
def State.frData (s : State) (k : Nat) : Nat := s.frBase + 0x100000 * (k / 255) + 4096 * (1 + k % 255)

/-- Address of slot `k`'s descriptor (R515). -/
def State.frDesc (s : State) (k : Nat) : Nat := s.frBase + 0x100000 * (k / 255) + 16 * (k % 255)

/-- Allocate a slot: its descriptor is zeroed first, SEQ counts and skips 0 (R516). -/
def frTake (s : State) : State :=
  let k := s.get (.mem .FR_NEXT)
  let q := if s.get (.mem .FR_SEQ) = 2 ^ 32 - 1 then 1 else s.get (.mem .FR_SEQ) + 1
  ((zeroBytes (s.frDesc k) 16 s).set (.mem .FR_SEQ) q).set (.mem .FR_NEXT) ((k + 1) % s.frSlots)

/-- A read of MEM_FR_ALLOC (R516). -/
def frAlloc (s : State) : State :=
  if s.flag (.mem .FR_SIZE_EN) then ((frTake s).set (.mem .FR_ALLOC_SLOT) (s.get (.mem .FR_NEXT))).on (.mem .FR_ALLOC_VALID)
  else s.off (.mem .FR_ALLOC_VALID)

/-- The ring is bad: SEGS outside 1 to 4,096, or it would leave usable DRAM. -/
def State.frBad (s : State) : Bool :=
  s.get (.mem .FR_SIZE_SEGS) == 0 || decide (4096 < s.get (.mem .FR_SIZE_SEGS)) ||
    decide (0x1C0000000 < s.frBase + 0x100000 * s.get (.mem .FR_SIZE_SEGS))

/-- A write of MEM_FR_SIZE (R516): CFG_ERR clears by 1; SEGS takes a value while EN is 0, a new one restarting the ring at slot 0;
EN 1 is refused for a bad ring. -/
def frSizeWrite (v : Nat) (s : State) : State :=
  let t := s.when (v.testBit 30) (·.off (.mem .FR_SIZE_CFG_ERR))
  if s.flag (.mem .FR_SIZE_EN) then t.setB (.mem .FR_SIZE_EN) (v.testBit 31)
  else
    let t := t.when (bits v 0 13 != s.get (.mem .FR_SIZE_SEGS)) (fun t => (t.set (.mem .FR_SIZE_SEGS) (bits v 0 13)).off (.mem .FR_NEXT))
    if !v.testBit 31 then t
    else if t.frBad then t.on (.mem .FR_SIZE_CFG_ERR)
    else t.on (.mem .FR_SIZE_EN)

/-- A write of MEM_FR_BASE (R516). -/
def frBaseWrite (v : Nat) (s : State) : State :=
  if s.flag (.mem .FR_SIZE_EN) ∨ bits v 0 20 = s.get (.mem .FR_BASE) then s
  else (s.set (.mem .FR_BASE) (bits v 0 20)).off (.mem .FR_NEXT)

/-- The oldest block of an engine that waits for its copy: the first after the one being written (R166). -/
def State.streamBlock (s : State) (e : Nat) : Option Nat :=
  let b := s.get (.loop .TRC_STAT_WPTR) e * 4 / 4096
  ((List.range 8).map (fun k => (b + k) % 8)).find? (fun k => s.bit (.loop .TRC_FULL) k e)

/-- The engine whose block the streamer copies next: the lowest that has one and whose throttle allows another copy in this 1 ms window (R166,
R167). DESIGN CHOICE, log entry 77. -/
def State.streamNext (s : State) : Option Nat :=
  let n := if s.get (.loop .STRM_MS) = s.msNow then s.get (.loop .STRM_N) else 0
  (List.range 16).find? (fun e => (s.streamBlock e).isSome &&
    (s.get (.loop .TRC_MB) e == 0 || decide (n < s.get (.loop .TRC_MB) e)))

/-- Begin the copy of a block: it takes a recorder slot; with the allocator disabled there is nothing to write (R166, R516). -/
def streamBegin (e b : Nat) (s : State) : State :=
  let n := if s.get (.loop .STRM_MS) = s.msNow then s.get (.loop .STRM_N) else 0
  let t := ((s.set (.loop .STRM_E) (e + 1)).set (.loop .STRM_B) b |>.off (.loop .STRM_SHUT) |>.set (.loop .STRM_MS) s.msNow).set
    (.loop .STRM_N) (n + 1)
  if !s.flag (.mem .FR_SIZE_EN) then t.set (.loop .STRM_P) 17
  else
    let u := (frTake t).set (.loop .STRM_SLOT) (s.get (.mem .FR_NEXT)) |>.off (.loop .STRM_P)
    u.set (.loop .STRM_SEQ) (u.get (.mem .FR_SEQ))

/-- The streamer puts a write at port 14, its data at the port already; a closed island or the firewall turns it away (R32, R166, R472). -/
def streamPost (a n : Nat) (s : State) : State :=
  if s.get (.saf .ISL_STAT_STATE) 10 ≠ 0 ∨ s.draining 10 then (s.on (.saf .ISL_STAT_CLOSED_SEEN) 10).on (.loop .STRM_SHUT)
  else if !s.mayWrite .tracer a 0 then (logViolation 1 .tracer a s).on (.loop .STRM_SHUT)
  else (postRequest 14 true a n s).inc (.loop .STRM_P)

/-- The next piece of the copy: 256 bytes of the block, or, when all of those writes have completed, the slot's descriptor as one write of 16
bytes (R166, R515, R517). -/
def streamPiece (s : State) : State :=
  let e := s.get (.loop .STRM_E) - 1
  let src := trcAddr e (4096 * s.get (.loop .STRM_B))
  let k := s.get (.loop .STRM_SLOT)
  let p := s.get (.loop .STRM_P)
  let d := waitData 14
  if p < 16 then streamPost (s.frData k + 256 * p) 256 (copyBytes (src + 256 * p) d 256 s)
  else if p = 16 ∧ s.get (.mem .PORT_STAT_INFLIGHT) 14 = 0 then
    let t := ((((zeroBytes d 256 s).writeN d (s.get (.loop .STRM_SEQ)) 4).writeN (d + 4) (0x10 + e) 1).writeN (d + 6) 4096 2).writeN
      (d + 8) (s.readN src 8) 8
    streamPost (s.frDesc k) 16 t
  else s

/-- What the trace streamer offers at port 14 before an arbitration: it begins a copy where none runs, and puts the next piece at the port when
that is free (R166, R509). -/
def streamOffer (s : State) : State :=
  if s.get (.mem .MQ_KIND) 14 ≠ 0 ∨ s.get (.saf .ISL_STAT_STATE) 6 ≠ 0 then s
  else
    let t := if s.get (.loop .STRM_E) ≠ 0 then s
      else match s.streamNext with
      | none => s
      | some e => streamBegin e ((s.streamBlock e).getD 0) s
    if t.get (.loop .STRM_E) = 0 ∨ t.flag (.loop .STRM_SHUT) then t else streamPiece t

/-- ARBITER_GRANT (R508 to R512): at most one grant in each cycle of 800 MHz, after the trace streamer has offered its next piece. -/
def arbiterGrant (s' : State) : State :=
  let s := streamOffer s'
  if s.get (.mem .ARB_CYC) = s.now / 8 + 1 then s
  else match s.freePlace, s.grantPort with
  | some i, some p => grant p i (s.set (.mem .ARB_CYC) (s.now / 8 + 1))
  | _, _ => s

/-- STREAM_COPY_COMPLETE: the copy of the engine's block ends, every piece of it written or the rest given up after CLOSED or ERROR, which sets
STREAM_CLOSED; the block is free again (R166, R516). -/
def streamCopy (e : Nat) (s : State) : State :=
  if s.get (.loop .STRM_E) ≠ e + 1 ∨ s.get (.mem .MQ_KIND) 14 ≠ 0 ∨ s.get (.mem .PORT_STAT_INFLIGHT) 14 ≠ 0 ∨
      (s.get (.loop .STRM_P) < 17 ∧ !s.flag (.loop .STRM_SHUT)) then s
  else
    let t := s.clrBit (.loop .TRC_FULL) (s.get (.loop .STRM_B)) e
    let t := t.setB (.loop .TRC_STAT_STREAMING) (t.get (.loop .TRC_FULL) e != 0) e
    ((t.when (s.flag (.loop .STRM_SHUT)) (·.on (.loop .TRC_STAT_STREAM_CLOSED) e)).off (.loop .STRM_SHUT)).off (.loop .STRM_E)

/-- MEMORY_REQUEST (R509). DESIGN CHOICE, log entry 51. -/
def execMemoryRequest (w : Who) (p : Fin 32) (wr : Bool) (a : BitVec 40) (n : Fin 257) (data : List (BitVec 8)) (e : Ecc)
    (s : State) : Host.Outcome State Fault Refusal := done (memoryRequest w p.val wr a.toNat n.val data e s)
/-- ARBITER_GRANT (R510). DESIGN CHOICE, log entry 51. -/
def execArbiterGrant (s : State) : Host.Outcome State Fault Refusal := done (arbiterGrant s)
/-- MEMORY_RESPONSE (R500 to R502). -/
def execMemoryResponse (i : Fin 64) (os : List Flips) (s : State) : Host.Outcome State Fault Refusal :=
  done (memoryResponse i.val os s)
/-- PORT_CLASS_WRITE (R511): a write of MEM_PORT[p]_CFG; the next arbitration sees it. -/
def execPortClassWrite (w : Who) (p : Fin 32) (v : Word) (s : State) : Host.Outcome State Fault Refusal :=
  let a := memBase + 0x100 + 4 * p.val
  done (sideband w a v.toNat (storeWord w a v.toNat) s)
/-- SCRUB_STEP (R503). -/
def execScrubStep (f : Flips) (s : State) : Host.Outcome State Fault Refusal := done (scrubStep f s)
/-- SCRUB_PASS_LATE (R505). -/
def execScrubPassLate (s : State) : Host.Outcome State Fault Refusal := done (scrubLate s)
/-- LAGOON_SCRUB_STEP (R507). -/
def execLagoonScrubStep (o : Ecc) (s : State) : Host.Outcome State Fault Refusal := done (lagoonScrub o s)
/-- DRAM_INIT_CHART_DONE (R498). -/
def execDramInitChartDone (s : State) : Host.Outcome State Fault Refusal := done (initChart s)
/-- DRAM_INIT_DONE (R498). -/
def execDramInitDone (s : State) : Host.Outcome State Fault Refusal := done (initDone s)
/-- FR_ALLOC_READ (R516). -/
def execFrAllocRead (w : Who) (s : State) : Host.Outcome State Fault Refusal :=
  done (sidebandReadAfter w (memBase + 0x68) frAlloc s)
/-- FR_ENABLE (R516): a write of MEM_FR_SIZE. DEDUCED, log entry 52. -/
def execFrEnable (w : Who) (v : Word) (s : State) : Host.Outcome State Fault Refusal :=
  done (sideband w (memBase + 0x64) v.toNat (frSizeWrite v.toNat) s)
/-- STREAM_COPY_COMPLETE (R166). -/
def execStreamCopyComplete (e : EngIx) (s : State) : Host.Outcome State Fault Refusal := done (streamCopy e.val s)

end Sys2Proof.Machine
end

