-- ==== Sys2Proof/Machine/Session.lean ====
section
/-!
DEFINITION. The host interface's shared operations (chapter 15): mailboxes and replies, frames, sessions, the audit log, and
the end of data port transfers.
-/
namespace Sys2Proof.Machine
open Sys2Proof

/-- Where the flash is kept, by offset of Table: Flash areas: above the physical address space. DESIGN CHOICE, log entry 5. -/
def flashAddr (o : Nat) : Nat := 2 ^ 41 + o

/-- `n` little-endian bytes of a number. -/
def bytesOf (v : Nat) : Nat → List (BitVec 8)
  | 0 => []
  | n + 1 => BitVec.ofNat 8 v :: bytesOf (v / 256) n

/-- The number whose little-endian bytes are given. -/
def leNat (l : List (BitVec 8)) : Nat := l.foldr (fun b n => b.toNat + 256 * n) 0

/-- The little-endian number in the `n` bytes from place `o` of a byte string. -/
def fieldOf (l : List (BitVec 8)) (o n : Nat) : Nat := leNat ((l.drop o).take n)

/-- The number whose little-endian bytes are the given fields (value, size), one after the other. -/
def packFields : List (Nat × Nat) → Nat
  | [] => 0
  | (v, n) :: r => v % 256 ^ n + 256 ^ n * packFields r

/-- The bytes from an address. -/
def State.readBytes (s : State) (a n : Nat) : List (BitVec 8) := (List.range n).map (fun k => s.byte (a + k))

/-- Address of an audit entry (R557). -/
def auditAddr (q : Nat) : Nat := flashAddr (0x15400000 + 256 * (q % 65536))

/-- Write an audit entry (R556, R557); the sector that a new group of 1,024 entries begins is erased first. -/
def auditEntry (role port code key status : Nat) (det : List (BitVec 8)) (s : State) : State :=
  let q := s.get (.host .AUD_SEQ) + 1
  let a := auditAddr q
  let d := det.take 164
  let t := if q % 1024 = 0 then zeroBytes a (1024 * 256) s else zeroBytes a 256 s
  let t := ((((((t.writeN a q 4).writeN (a + 4) s.axleTime 8).writeN (a + 12) role 1).writeN (a + 13) port 1).writeN (a + 14) code
    2).writeN (a + 16) key 8).writeN (a + 24) status 1
  let t := ((t.writeN (a + 26) d.length 2).writeBytes (a + 28) d).writeN (a + 192) (s.get (.host .AUD_HASH)) 32
  let h := sha256 (t.readBytes a 224)
  (((t.writeN (a + 224) h 32).set (.host .AUD_SEQ) q).set (.host .AUD_HASH) h).off (.host .AUD_BAR)

/-- The audit entry could not be written: AUDIT_ERR is set in the interface status block (R556). -/
def auditFail (s : State) : State := s.setBit (.host .FLAGS) 0

/-- Audit, or note that it failed. -/
def auditTry (ok : Bool) (role port code key status : Nat) (det : List (BitVec 8)) (s : State) : State :=
  if ok then auditEntry role port code key status det s else auditFail s

/-- `n` free values of 64 bits, as one number. -/
def State.freeWords (s : State) : Nat → Nat × State
  | 0 => (0, s)
  | n + 1 =>
    let r := s.free 64
    let t := r.2.freeWords n
    (r.1 + 2 ^ 64 * t.1, t.2)

/-- PARAM of a mailbox's command, a little-endian number of PLEN bytes. -/
def State.mbParam (s : State) (n : Nat) : Nat := s.get (.host .MB_PARAM) n % 256 ^ s.get (.host .MB_PLEN) n

/-- The session slot of a mailbox's command, plus 1; 0 outside a session, or once that session has ended. -/
def State.mbSession (s : State) (n : Nat) : Nat :=
  let k := s.get (.host .MB_SES) n
  if k = 0 ∨ s.get (.host .SES_ID) (k - 1) = 0 then 0 else k

/-- The role of a mailbox's command; 0 none. -/
def State.mbRole (s : State) (n : Nat) : Nat := if s.mbSession n = 0 then 0 else s.get (.host .SES_ROLE) (s.mbSession n - 1)

/-- The key of a mailbox's session. -/
def State.mbKey (s : State) (n : Nat) : Nat := if s.mbSession n = 0 then 0 else s.get (.host .SES_KEY) (s.mbSession n - 1)

/-- Send a frame in a session, with the next SEQ of the module (R529); `k` is the slot plus 1, 0 outside a session. -/
def nextSeq (k : Nat) (s : State) : State := if k = 0 then s else s.inc (.host .SES_OUT) (k - 1)

/-- The module's SEQ in a session. -/
def State.outSeq (s : State) (k : Nat) : Nat := if k = 0 then 0 else s.get (.host .SES_OUT) (k - 1)

/-- Send the reply of a mailbox, stored for a repetition (R531, R536). -/
def sendReply (n st det val : Nat) (s : State) : State :=
  let t := nextSeq (s.mbSession n) s
  t.send .reply (n + 16 * t.outSeq (t.mbSession n)) (st + 256 * det) val

/-- Answer the command of a mailbox: the reply is stored and sent; the mailbox is free again unless the answer is IN_PROGRESS
(R531, R535, R536). -/
def reply (n st det val : Nat) (s : State) : State :=
  let t := (((s.set (.host .MB_ST) st n).set (.host .MB_DET) det n).set (.host .MB_VAL) val n).set (.host .MB_AT) s.now n
  sendReply n st det val ((t.setB (.host .MB_BUSY) (st == 1) n).setB (.host .MB_RUN) (st == 1) n)

/-- What a command answers: STATUS, DETAIL, parameter bytes, and the state it leaves. -/
structure Ans where
  st : Nat
  det : Nat
  val : Nat
  s : State

/-- An answer that changes nothing. -/
def ans (st det : Nat) (s : State) : Ans := ⟨st, det, 0, s⟩

/-- An answer OK. -/
def ansOk (val : Nat) (s : State) : Ans := ⟨0, 0, val, s⟩

/-- A refusal whose cause code the rules do not state: DETAIL is a free value. DESIGN CHOICE, log entry 54. -/
def ansRefused (s : State) : Ans := ⟨9, (s.free 8).1, 0, (s.free 8).2⟩

/-- The mailbox holds this command, waiting, and it is its turn: mailbox 0 before any other, then in rotation (R533). -/
def State.servable (s : State) (n code : Nat) : Bool :=
  let waits (m : Nat) := s.flag (.host .MB_BUSY) m && !s.flag (.host .MB_RUN) m
  waits n && s.get (.host .MB_CODE) n == code && (n == 0 || (!waits 0 &&
    ((List.range 15).map (fun k => (s.get (.host .MB_LAST) + k) % 15 + 1)).find? waits == some n))

/-- The Narrows firmware executes. -/
def State.narrows (s : State) : Bool := s.get (.saf .ISL_STAT_STATE) 1 == 0

/-- Serve the command that waits in a mailbox: placement, length, session and role are checked before the command itself
(R532, Table: Status codes). `par` is PARAM as the row's operands spell it: it is the command in the mailbox only where that one's PARAM
is the same. DEDUCED, log entry 55. -/
def serve (n code least : Nat) (lenOk : Nat → Bool) (par : Nat) (body : State → Ans) (s : State) : State :=
  if !s.narrows ∨ !s.servable n code ∨ (lenOk (s.get (.host .MB_PLEN) n) ∧ s.mbParam n ≠ par) then s
  else
    let t := if n = 0 then s else s.set (.host .MB_LAST) n
    if (decide (0x100 ≤ code) && decide (code < 0x200)) != (n == 0) then reply n 0x0A 0 0 t
    else if !lenOk (s.get (.host .MB_PLEN) n) then reply n 4 0 0 t
    else if least ≠ 0 ∧ s.mbSession n = 0 then reply n 6 0 0 t
    else if s.mbRole n < least then reply n 7 0 0 t
    else
      let r := body t
      reply n r.st r.det r.val r.s

/-- A change is made only with its audit entry, whose DETAIL is the command's PARAM, then the values replaced, `old`; `always`: outcomes
that change nothing are recorded too (R556, R557). -/
def audited (aud always : Bool) (n code : Nat) (old : List (BitVec 8)) (body : State → Ans) (s : State) : Ans :=
  let r := body s
  if !always ∧ 2 ≤ r.st then r
  else if aud then
    let det := bytesOf (s.mbParam n) (s.get (.host .MB_PLEN) n) ++ old
    { r with s := auditEntry (s.mbRole n) (s.get (.host .MB_PORT) n) code (s.mbKey n) r.st det r.s }
  else ans 0x0E 0 (auditFail s)

/-- A data port transfer ends early: DP_ABORT is set; a write transfer's closing entry is written (R548, R556). -/
def cutTransfer (k : Nat) (aud : Bool) (s : State) : State :=
  if !s.flag (.host .DP_OPEN) k then s
  else
    let t := ((s.off (.host .DP_OPEN) k).on (.host .DP_CUT) k).setBit (.host .FLAGS) 1
    if !s.flag (.host .DP_DIR) k then t
    else
      let u := auditTry aud (s.get (.host .SES_ROLE) k) (s.get (.host .SES_PORT) k) 0x0602 (s.get (.host .SES_KEY) k) 0x10
        (bytesOf (s.get (.host .DP_START) k) 5 ++ bytesOf (s.get (.host .DP_COUNT) k) 8) t
      if aud then u else u.on (.host .AUD_BAR)

/-- End a session: its transfer is cut; the end of an Installer session in COMMISSION asks for READY; subscriptions go
(R554, R548). DEDUCED, log entry 56. -/
def endSession (k : Nat) (aud : Bool) (s : State) : State :=
  if s.get (.host .SES_ID) k = 0 then s
  else
    let t := cutTransfer k aud s
    let t := t.when (s.get (.host .SES_ROLE) k == 2 && s.get (.saf .AXLE_MODE_MODE) == 5)
      (requestMode 1 2 ⟨false, false, false, false, false⟩)
    ((((((((t.off (.host .SES_ID) k).off (.host .SES_ROLE) k).off (.host .SES_KEY) k).off (.host .SES_PORT) k).off
      (.host .SES_IN) k).off (.host .SES_OUT) k).off (.host .SES_AT) k).off (.host .SES_VER) k).off (.host .SUB_MASK) k
      |>.off (.host .SUB_PERIOD) k |>.off (.host .SUB_TRACE) k |>.off (.host .SUB_SEQ) k |>.off (.host .SES_SK) k
      |>.off (.host .DP_CUT) k |>.off (.host .SUB_AT) k

/-- End every session. -/
def endSessions (aud : Bool) (s : State) : State := s.forUpTo 4 (fun k t => endSession k aud t)

/-- The codes of Table: Commands. -/
def commandCodes : List Nat := [0x0001, 0x0002, 0x0003, 0x0004, 0x0005, 0x0101, 0x0102, 0x0103, 0x0201, 0x0202, 0x0203, 0x0204, 0x0301,
  0x0302, 0x0303, 0x0401, 0x0402, 0x0403, 0x0501, 0x0502, 0x0601, 0x0602, 0x0701, 0x0702, 0x0703, 0x0704, 0x0801, 0x0802, 0x0803,
  0x0804, 0x0805, 0x0901, 0x0902, 0x0903, 0x0A01, 0x0A02, 0x0A03, 0x0A04, 0x0A05, 0x0A06]

/-- The slot of an open session. -/
def State.sessionOf (s : State) (id : Nat) : Option Nat :=
  if id = 0 then none else (List.range 4).find? (fun k => s.get (.host .SES_ID) k == id)

/-- A command arrives in a mailbox (R529, R536 and When a command arrives in a busy mailbox): a repetition gets the stored reply, a busy
mailbox answers BUSY, an unlisted code UNKNOWN_CODE, a command outside a session NO_SESSION but for the login codes. `l` is the mailbox
message; a PLEN that is not its own length is wrong for every code. -/
def mailboxArrival (n port ses : Nat) (l : List (BitVec 8)) (s : State) : State :=
  let code := fieldOf l 0 2
  let plen := if fieldOf l 4 2 + 8 = l.length ∧ fieldOf l 4 2 ≤ 256 then fieldOf l 4 2 else 511
  let same := s.flag (.host .MB_SEEN) n && s.get (.host .MB_CODE) n == code && s.get (.host .MB_MTAG) n == fieldOf l 2 2
  let busy := s.flag (.host .MB_BUSY) n
  if same then
    (if busy && !s.flag (.host .MB_RUN) n then s
    else sendReply n (s.get (.host .MB_ST) n) (s.get (.host .MB_DET) n) (s.get (.host .MB_VAL) n) s)
  else if busy then
    let t := nextSeq ses (s.incSat (.host .BUSY_CNT))
    t.send .reply (n + 16 * t.outSeq ses) (2 + 256) 0
  else
    let t := ((((((((s.on (.host .MB_SEEN) n).on (.host .MB_BUSY) n).off (.host .MB_RUN) n).set (.host .MB_CODE) code n).set
      (.host .MB_MTAG) (fieldOf l 2 2) n).set (.host .MB_PLEN) plen n).set (.host .MB_PARAM) (fieldOf l 8 256) n).set (.host .MB_SES)
      ses n).set (.host .MB_PORT) port n
    if ses = 0 ∧ code ∉ [1, 2, 3] then reply n 6 0 0 t
    else if code ∉ commandCodes then reply n 3 0 0 t else t

/-- MAGIC is right and the major version is 3 (R528). -/
def frameMagic (l : List (BitVec 8)) : Bool := fieldOf l 0 2 == 0x574E && fieldOf l 2 1 / 16 == 3 && decide (16 ≤ l.length)

/-- LEN agrees with the bytes that arrived: the TAG of 16 bytes is absent when SESSION is 0 (R528). -/
def frameLen (l : List (BitVec 8)) : Bool :=
  decide (fieldOf l 14 2 ≤ 4112) && l.length == 16 + fieldOf l 14 2 + (if fieldOf l 4 4 = 0 then 0 else 16)

/-- TAG is the AES-128-CMAC under the session's key over bytes 0 to 15 + LEN (R528). -/
def State.frameTag (s : State) (k : Nat) (l : List (BitVec 8)) : Bool :=
  let m := l.take (16 + fieldOf l 14 2)
  cmac ((bytesOf (s.get (.host .SES_SK) k) 16).map (·.toNat)) (m.map (·.toNat)) == (l.drop (16 + fieldOf l 14 2)).map (·.toNat)

/-- The module listens for the frame on the UDP port it came to: mailbox 0, mailboxes 1 to 15 and the data port each have their own on an
Ethernet port; CAN carries mailbox frames only (R523, R530). Another frame is counted nowhere. DEDUCED, log entry 80. -/
def State.frameHeard (s : State) (f : Frame) : Bool :=
  let t := fieldOf f.bytes 3 1
  if 2 ≤ f.port.val then t == 1
  else f.udp.toNat == s.get (.host .UDP_PORT) (if t ≠ 1 then 2 else if fieldOf f.bytes 12 2 = 0 then 0 else 1)

/-- The mailbox message of a frame that has passed the checks: it goes to the mailbox that CHAN names (R531). -/
def deliver (f : Frame) (ses : Nat) (s : State) : State :=
  let n := fieldOf f.bytes 12 2
  let l := (f.bytes.drop 16).take (fieldOf f.bytes 14 2)
  if fieldOf f.bytes 3 1 = 1 ∧ n < 16 ∧ 8 ≤ l.length ∧ s.frameHeard f then mailboxArrival n f.port.val ses l s else s

/-- A frame has passed into the module: one to a UDP port that is not listened on goes nowhere; it is checked in the order of R528,
counted, and a mailbox command is put in its mailbox. Data port frames have commands of their own. -/
def frameReceived (f : Frame) (s : State) : State :=
  let l := f.bytes
  if !s.narrows ∨ (f.port.val < 2 ∧ f.udp.toNat ∉ (List.range 3).map (s.get (.host .UDP_PORT) ·)) then s
  else if f.full then s.incSat (.host .DROP_CNT)
  else
    let ses := s.sessionOf (fieldOf l 4 4)
    if !frameMagic l ∨ fieldOf l 3 1 ∉ [1, 4, 6] ∨ !frameLen l ∨ (fieldOf l 4 4 ≠ 0 ∧ ses.isNone) then s.incSat (.host .SEQ_ERR)
    else match ses with
    | none => deliver f 0 s
    | some k =>
      if !s.frameTag k l then s.incSat (.host .TAG_ERR)
      else if fieldOf l 8 4 ≤ s.get (.host .SES_IN) k then s.incSat (.host .SEQ_ERR)
      else deliver f (k + 1) ((s.set (.host .SES_IN) (fieldOf l 8 4) k).set (.host .SES_AT) s.now k)

/-- Forget a partial frame (R530). -/
def dropSegments (p n : Nat) (s : State) : State :=
  (((s.off (.host .SEG_ON) p n).off (.host .SEG_IX) p n).off (.host .SEG_BUF) p n).off (.host .SEG_LEN) p n |>.off (.host .SEG_AT) p n

/-- A CAN segment of a mailbox's frame: header and bytes; the last one completes the frame (R530, R534). A frame of more than the 296 bytes
of a mailbox frame is discarded. -/
def segmentReceived (p n hdr : Nat) (full : Bool) (data : List (BitVec 8)) (s : State) : State :=
  let first := hdr.testBit 7
  let ix := hdr % 64
  if !s.narrows then s
  else if full then s.incSat (.host .DROP_CNT)
  else
    let good := first || (s.flag (.host .SEG_ON) p n && ix == (s.get (.host .SEG_IX) p n + 1) % 64)
    let old := if first then 0 else s.get (.host .SEG_LEN) p n
    let len := old + data.length
    let buf := (if first then 0 else s.get (.host .SEG_BUF) p n) + 256 ^ old * leNat data
    if !good ∨ 296 < len then dropSegments p n s
    else if hdr.testBit 6 then
      let t := dropSegments p n s
      let l := bytesOf buf len
      if fieldOf l 12 2 = n ∧ fieldOf l 3 1 = 1 then frameReceived ⟨Fin.ofNat 8 (3 + p), 0, false, l⟩ t else t
    else
      (((s.on (.host .SEG_ON) p n).set (.host .SEG_IX) ix p n).set (.host .SEG_BUF) buf p n).set (.host .SEG_LEN) len p n
        |>.set (.host .SEG_AT) s.now p n

/-- SEGMENT_TIMEOUT: the next segment has not arrived within 50 ms (R530). -/
def segmentTimeout (p n : Nat) (s : State) : State :=
  if !s.flag (.host .SEG_ON) p n ∨ s.now < s.get (.host .SEG_AT) p n + us 50000 then s else dropSegments p n s

/-- IDLE_TMO of a role in fine ticks: 5 s for Operator, 600 s otherwise (R554). -/
def idleTmo (role : Nat) : Nat := if role = 1 then secs 5 else secs 600

/-- SESSION_IDLE_TIMEOUT (R554): the expiry is audited (R556). -/
def sessionIdle (k : Nat) (aud : Bool) (s : State) : State :=
  if s.get (.host .SES_ID) k = 0 ∨ s.now < s.get (.host .SES_AT) k + idleTmo (s.get (.host .SES_ROLE) k) then s
  else endSession k aud (auditTry aud (s.get (.host .SES_ROLE) k) (s.get (.host .SES_PORT) k) 4 (s.get (.host .SES_KEY) k) 0 [] s)

end Sys2Proof.Machine
end

