-- ==== Sys2Proof/Machine/Islands.lean ====
section
/-!
DEFINITION. Island transitions and what they keep or lose (R15 to R23), straits (R24 to R37), escalations from them, and the oscillator
check (R31).
-/
namespace Sys2Proof.Machine
open Sys2Proof

/-- The thousand of the field keys that an island's registers and internal quantities have; the drive islands and the lagoon have none. -/
def islandKeys (n : Nat) : Option Nat :=
  match n with
  | 0 => some 0 | 1 => some 1 | 6 => some 2 | 7 => some 3 | 8 => some 4 | 9 => some 5 | 10 => some 6 | 11 => some 7 | _ => none

/-- Quantities that an island's reset leaves: time, which the always-on island keeps (R526), and what DRAM itself does (R520, R622). -/
def keptFlds : List Fld := [.ifc .T_OFFS, .ifc .T_REM, .ifc .T_SLEW_AT, .ifc .T_PPM, .ifc .TSYNC_STAT_STATE, .ifc .TSYNC_STAT_STEPPED,
  .ifc .TSYNC_STAT_PORT, .ifc .TSYNC_STAT_OFFS, .mem .DRAM_ON, .mem .STAT_INIT_CHART, .mem .STAT_INIT_DONE, .mem .STAT_SELFREF]

/-- The key of an RWL field: those come back with the values of the parameter sets when the island returns (R563). -/
def rwlKey (k : Nat) : Bool := regTable.any (fun r => r.places.any (fun p => p.f.key == k && p.f.spec.acc == .rwl))

/-- What the safety island's retention cells hold in Storage (R563, R576): the locks, which cores and pairs are retired, the unlock of the
debug port, the island states that its own supply switches show; and its internal quantities, which are its local state. DESIGN CHOICE,
log entry 72. -/
def safRetained (k : Nat) : Bool :=
  decide ((Fld.saf .MODE_TGT).key ≤ k) || [Fld.saf .LOCK_LOCK, .saf .LOCK_WINDOW, .saf .LOCK_ISL_LOCK, .saf .ISL_STAT_STATE, .saf .TMR_STAT_MODE,
    .saf .TMR_STAT_ODD, .saf .TMR_STAT_RETIRED, .saf .CP_STATE, .saf .DBG_UNLOCKED].any (fun f => f.key == k)

/-- Registers of an island at their reset values; once the safety lock has been set, the RWL fields are those that were locked
(R16, R563). The safety island's own registers are lost but for its retention cells. DESIGN CHOICE, log entry 72. -/
def resetRegs (n : Nat) (s : State) : State :=
  match islandKeys n with
  | none => s
  | some c =>
    let locked := s.bit (.saf .LOCK_ISL_LOCK) n && s.flag (.saf .LOCK_LOCK)
    { s with vals := s.vals.filter (fun e => decide (e.k / 1000 ≠ c) || keptFlds.any (fun f => f.key == e.k) ||
        (locked && rwlKey e.k) || (n == 0 && safRetained e.k)) }

/-- Quantities of the host interface and the safety island that stand in flash and outlive a module reset: keys, certificates,
packages, floor, firmware slots, boot header, audit log, limits, wear snapshots and converter records of state (R351, R394, R397,
R518, R541, R557). DESIGN CHOICE, log entry 69. -/
def flashFlds : List Fld := [.host .KEY_ROLE, .host .KEY_ID, .host .KEY_X, .host .KEY_Y, .host .CERT, .host .SLOT_PTR, .host .PKG_FULL,
  .host .PKG_SIZE, .host .FLOOR, .host .FW_SLOT, .host .FW_FULL, .host .SPLIT, .host .AUD_SEQ, .host .AUD_HASH, .host .LIM,
  .host .LIM_INST, .host .LIM_MAKER, .host .UDP_PORT, .drv .TR_SNAPQ, .drv .TR_SNAPD,
  .drv .TR_SNAPN, .drv .TR_SNAPR, .drv .TR_SNAPAT, .drv .TR_LOST, .drv .CV_HICCNT, .drv .CV_DROP, .saf .RUN_MS]

/-- Quantities that the safety island keeps for the firmware across the ladder and an activation, and those the chart region holds
(R95, R99, R101). -/
def heldFlds : List Fld := [.host .ACT_ON, .host .ACT_SLOT, .host .ACT_STEP, .host .ACT_OLD, .host .ACT_OLDS, .host .ACT_SAVE, .host .ACT_KIND,
  .host .ACT_CODE, .host .HELD_LOADED, .host .HELD_SLOT, .host .DIRN_HELD, .drv .REC_ADDR, .drv .PK_BASE,
  .host .SEC_N, .host .SEC_IMG]

/-- Firmware contents lost with the supply of the island that runs it: the Narrows firmware's in IFC, the drive firmware's once no drive
island is left (R16, R615). DESIGN CHOICE, log entry 72. -/
def loseFirmware (n : Nat) (s : State) : State :=
  let cut (c : Nat) (t : State) : State :=
    { t with vals := t.vals.filter (fun e => decide (e.k / 1000 ≠ c) || flashFlds.any (fun f => f.key == e.k) ||
        heldFlds.any (fun f => f.key == e.k)) }
  if n = 1 then cut 10 s
  else if 2 ≤ n ∧ n ≤ 5 ∧ (List.range 4).all (fun q => q + 2 == n || s.get (.saf .ISL_STAT_STATE) (q + 2) == 3) then cut 9 s
  else s

/-- Byte addresses of an island's memories (R48, and the chart caches of LOOP). -/
def islandBytes (n a : Nat) : Bool :=
  match n with
  | 6 => decide (0x1030000000 ≤ a) && decide (a < 0x1032000000) || (decide (2 ^ 40 ≤ a) && decide (a < 2 ^ 41))
  | 7 => decide (0x1041000000 ≤ a) && decide (a < 0x1041040000)
  | 13 => decide (0x1800000000 ≤ a) && decide (a < 0x1800800000)
  | _ => false

/-- Memories of an island lost with its supply (R16). -/
def loseBytes (n : Nat) (s : State) : State := { s with mem := s.mem.filter (fun c => !islandBytes n c.1) }

/-- The schedule banks, which read 0 after a reset of LOOP (R104, R117). -/
def bankByte (a : Nat) : Bool :=
  decide (0x1030000000 ≤ a) && decide (a < 0x1031000000) && decide (0x1000 ≤ a % 0x100000) && decide (a % 0x100000 < 0x1800)

/-- The transaction over a strait is over. -/
def strClear (i j : Nat) (s : State) : State := ((s.off (.saf .STR_BUF) i j).off (.saf .STR_N) i j).off (.saf .STR_BAD) i j

/-- The level lines into and out of an island that has left RUN (R30): while EDGE is not in RUN the guard island and the pad hold cells hold
every pair off (R226), and the Hall states read 0 while ACT is not. -/
def linesDown (n : Nat) (s : State) : State :=
  match n with
  | 7 => s.forUpTo 41 (fun n t => setOut n false false t)
  | 11 => s.forUpTo 3 (fun b t => hallStateChange b 0 t)
  | _ => s

/-- The level lines of an island that is back in RUN carry what it sends again (R30). -/
def linesUp (n : Nat) (s : State) : State :=
  match n with
  | 7 => s.forUpTo 41 refreshForce
  | 11 => s.forUpTo 3 (fun b t => hallStateChange b (t.get (.act .BR_STAT_HALL) b) t)
  | _ => s

/-- Every transaction over a strait from or to the island ends with CLOSED on both sides (R39). -/
def closeStraits (n : Nat) (s : State) : State :=
  s.forUpTo 14 (fun k t =>
    let shut (i j : Nat) (t : State) : State :=
      if t.get (.saf .STR_N) i j = 0 ∧ !t.flag (.saf .STR_BAD) i j then t
      else (strClear i j t).on (.saf .ISL_STAT_CLOSED_SEEN) j |>.answer .closed
    shut k n (shut n k t))

/-- An island leaves RUN: what its blocks do, and the transactions in flight end (R144, R38, R39, R548). -/
def leaveRun (n : Nat) (s' : State) : State :=
  let s := if s'.flag (.saf .ISL_STAT_DRAINED) n then s' else closeStraits n s'
  match n with
  | 1 => s.forUpTo 4 (fun k t => cutTransfer k true t)
  | 6 => loopLeaves s
  | 7 => edgeLeaves s
  | 10 => closeTransactions s
  | _ => s

/-- What is lost on entry into a state: registers in RETAIN, OFF and RESET, with them the island lock; memories in OFF; the scrubber
restarts after OFF or RESET (R16, R478, R622). -/
def enterState (n st : Nat) (s : State) : State :=
  if st = 2 ∨ st = 3 ∨ st = 5 then
    let ptr := s.get (.mem .SCRUB_STAT_PTR)
    let t := resetRegs n s
    let t := t.when (n == 10 && st == 2) (·.set (.mem .SCRUB_STAT_PTR) ptr)
    let t := t.when (n == 7) (fun t => t.forUpTo 41 (fun n t => setOut n false false t))
    let t := t.when (n == 6) (fun t => { t with mem := t.mem.filter (fun c => !bankByte c.1) })
    let t := t.when (st == 3) (fun t => loseFirmware n (loseBytes n t))
    if n = 0 then t else t.clrBit (.saf .LOCK_ISL_LOCK) n
  else s

/-- The Hall state that the actuator island's level lines carry: 0 while it is out of RUN (R30). -/
def State.hallLine (s : State) (b : Nat) : Nat := if s.get (.saf .ISL_STAT_STATE) 11 = 0 then s.get (.act .BR_STAT_HALL) b else 0

/-- An island is back in RUN (R563, R616, R620, R622); the edge PLL has locked again where the island comes from RESET, OFF or RETAIN
(R223). -/
def enterRun (n old : Nat) (s : State) : State :=
  let t := match n with
    | 7 => (((if old = 1 then edgeReturn s else s).when (old != 1 && old != 4) (·.on (.edge .STAT_LOCK))).when (old != 4) (·.forUpTo 32 linkReturn)).forUpTo 3 (fun b t => hallStateChange b (t.hallLine b) t)
    | 9 => if old = 1 then s.forUpTo 24 (fun c t => t.set (.sns .SD_AT) s.now c) else s
    | 10 => s.off (.mem .STAT_SELFREF)
    | _ => s
  t.when (s.flag (.saf .LOCK_LOCK) && (old == 2 || old == 3 || old == 5)) (·.setBit (.saf .LOCK_ISL_LOCK) n)

/-- The island shows a new state, with everything that goes with it (R16, R17). -/
def setIsland (n st : Nat) (s : State) : State :=
  let old := s.get (.saf .ISL_STAT_STATE) n
  if old = st then s
  else
    let t := if old = 0 then linesDown n (leaveRun n s) else s
    let t := t.when (n == 10 && old == 0) (·.on (.mem .STAT_SELFREF))
    let t := enterState n st t
    let t := ((t.set (.saf .ISL_STAT_STATE) st n).off (.saf .ISL_STAT_BUSY) n).setB (.saf .ISL_STAT_DRAINED) (st != 0) n
    (if st = 0 then linesUp n (enterRun n old t) else t).off (.saf .ISL_ASKED) n

/-- Answer the ISLAND_REQ commands that wait for an island, once BUSY is 0 (R542). -/
def answerIsland (n : Nat) (s : State) : State :=
  s.forUpTo 16 (fun m t =>
    if t.get (.host .MB_CODE) m = 0x0805 ∧ t.flag (.host .MB_RUN) m ∧ t.get (.host .MB_PAR) m = n ∧ !t.flag (.saf .ISL_STAT_BUSY) n then
      reply m 0 0 (packFields [(t.get (.saf .ISL_STAT_STATE) n, 1), (t.readReg (0x1000000104 + 16 * n), 4),
        (t.get (.saf .ISL_DEP) n, 2)]) t
    else t)

/-- ISLAND_TRANSITION_COMPLETE: a drain must have ended first; the next step of a restart follows (R17, R38, R476). -/
def transitionComplete (n : Nat) (s : State) : State :=
  if !s.flag (.saf .ISL_STAT_BUSY) n ∨ (s.draining n ∧ !s.flag (.saf .ISL_STAT_DRAINED) n) then s
  else
    let asked := s.get (.saf .ISL_ASKED) n
    let t := (setIsland n (s.get (.saf .ISL_TGT) n) s).off (.saf .ISL_STAT_BUSY) n
    let t := t.when (t.get (.saf .ISL_STAT_STATE) n != 0) (·.set (.saf .ISL_ASKED) asked n)
    continuePlan n (answerIsland n t)

/-- The groups of an island that are enabled (R20). -/
def State.depEnabled (s : State) (n : Nat) : Nat := s.get (.saf .ISL_DEP) n &&& s.get (.edge .OG_EN)

/-- A request for an island state by the safety island (R17, R18, R20). -/
def requestIsland (n st : Nat) (force : Bool) (s : State) : State :=
  let old := s.get (.saf .ISL_STAT_STATE) n
  let refuse := s.on (.saf .ISL_STAT_REFUSED) n
  if s.flag (.saf .ISL_STAT_BUSY) n then refuse
  else if st = old then s
  else if !permitted n st ∨ !listed old st then refuse
  else if old = 0 ∧ s.depEnabled n ≠ 0 then
    (if force then beginIsland n st (disableGroups (s.depEnabled n) s) else refuse)
  else beginIsland n st s

/-- A write of SAF_ISL[n]_CTRL: REQ_STATE of SAF and AON reads 0 and ignores writes. -/
def islandCtrl (n v : Nat) (s : State) : State :=
  let t := s.set (.saf .ISL_CTRL_FORCE) (bits v 4 1) n
  if n = 0 ∨ n = 12 then t
  else requestIsland n (bits v 0 3) (v.testBit 4) (t.set (.saf .ISL_CTRL_REQ_STATE) (bits v 0 3) n)

/-- Address of SAF_ISL[n]_CTRL. -/
def islandCtrlAddr (n : Nat) : Nat := 0x1000000100 + 0x10 * n

/-- No transaction of the island is under way: on its straits, and for MEM at its ports and in the memory strait (R38). -/
def State.straitsEmpty (s : State) (n : Nat) : Bool :=
  (List.range 14).all (fun k => s.get (.saf .STR_N) n k == 0 && s.get (.saf .STR_N) k n == 0 && !s.flag (.saf .STR_BAD) n k &&
    !s.flag (.saf .STR_BAD) k n) &&
  (n != 10 || ((List.range 64).all (fun i => s.get (.mem .IF_KIND) i == 0) && (List.range 32).all (fun p => s.get (.mem .MQ_KIND) p == 0)))

/-- DRAIN_COMPLETE: every strait of the island is empty (R38). -/
def drainComplete (n : Nat) (s : State) : State :=
  if s.draining n && s.straitsEmpty n then s.on (.saf .ISL_STAT_DRAINED) n else s

/-- DRAIN_TIMEOUT: what is incomplete 2 us after the drain began ends with CLOSED on both sides, and TIMEOUT is set (R39, R35). -/
def drainTimeout (n : Nat) (s : State) : State :=
  if s.draining n ∧ !s.flag (.saf .ISL_STAT_DRAINED) n ∧ s.get (.saf .ISL_AT) n + us 2 ≤ s.now then
    let t := ((closeStraits n s).on (.saf .ISL_STAT_DRAINED) n).on (.saf .ISL_STAT_TIMEOUT) n
    (t.when (n == 10) closeTransactions).send .level4 39 n
  else s

/-- The bits that are 1 in a number of `n` bits. -/
def ones (v : Nat) : Nat → Nat
  | 0 => 0
  | n + 1 => v % 2 + ones (v / 2) n

/-- Every parity bit gives odd parity over its bits (R24). -/
def parityOk (payload par kind : Nat) (kpar : Bool) : Bool :=
  (List.range 8).all (fun i => (ones (payload / 256 ^ i) 8 + ones (par / 2 ^ i) 1) % 2 == 1) && (ones kind 2 + kpar.toNat) % 2 == 1

/-- The instants of an island's last parity errors stand in a ring of 256, so that PAR_LIM of them can be held against one second
(R477). -/
def parityNote (j : Nat) (s : State) : State :=
  (s.set (.saf .PAR_AT) (s.now + 1) j (s.get (.saf .PAR_IX) j)).inc (.saf .PAR_IX) j

/-- PAR_CNT of the island has risen by `lim` within the last second (R477). -/
def State.parityRisen (s : State) (j lim : Nat) : Bool :=
  let at_ := s.get (.saf .PAR_AT) j ((s.get (.saf .PAR_IX) j + 256 - lim) % 256)
  at_ != 0 && decide (s.now < at_ + secs 1)

/-- A word with wrong parity is discarded: ERROR with cause 0x01 from the receiver, PARITY in both islands, PAR_CNT of the receiver
(R25, R36). -/
def parityError (i j : Nat) (s : State) : State :=
  (parityNote j ((((s.on (.saf .STR_BAD) i j).on (.saf .ISL_STAT_PARITY) i).on (.saf .ISL_STAT_PARITY) j).incSat
    (.saf .ISL_SERR_PAR_CNT) j)).answer (.error 1 (some j)) |>.send .level4 36 i j

/-- STRAIT_WORD_RECEIVE from island `i` to island `j`: closed islands answer CLOSED, a draining one takes no new transaction; a
transaction is delivered whole with its LAST word, or ends with ERROR if a word of it was discarded (R24, R25, R32, R36 to R38). -/
def strWord (i j payload par kind : Nat) (kpar : Bool) (s : State) : State :=
  let n := s.get (.saf .STR_N) i j
  let fresh := n == 0 && !s.flag (.saf .STR_BAD) i j
  if s.get (.saf .ISL_STAT_STATE) i ≠ 0 then s
  else if s.get (.saf .ISL_STAT_STATE) j ≠ 0 ∨ (s.draining j ∧ fresh) then ((strClear i j s).on (.saf .ISL_STAT_CLOSED_SEEN) j).answer .closed
  else
    let t := if parityOk payload par kind kpar then s else parityError i j s
    match kind with
    | 0 => if t.flag (.saf .STR_BAD) i j then t
      else (t.set (.saf .STR_BUF) (t.get (.saf .STR_BUF) i j + payload * 2 ^ (64 * n)) i j).incSat (.saf .STR_N) i j
    | 1 =>
      if t.flag (.saf .STR_BAD) i j then (strClear i j t).answer (.error 1 (some j))
      else ((strClear i j t).answer .ok).send .strait (16 * i + j) (n + 1) (t.get (.saf .STR_BUF) i j + payload * 2 ^ (64 * n))
    | 2 => if t.flag (.saf .STR_BAD) i j then strClear i j t else t.answer .closed
    | _ => if t.flag (.saf .STR_BAD) i j then strClear i j t else t.answer (.error (bits payload 8 8) (some (bits payload 0 8)))

/-- STRAIT_TIMEOUT: a handshake from island `i` with island `n` in RUN has not completed in 2 us; its lines are released (R33, R35). -/
def strTimeout (i n : Nat) (s : State) : State :=
  if s.get (.saf .ISL_STAT_STATE) n ≠ 0 then s
  else
    (((((strClear i n s).on (.saf .ISL_STAT_TIMEOUT) n).incSat (.saf .ISL_SERR_TMO_CNT) n).on (.saf .ISL_STAT_CLOSED_SEEN) n).answer
      .closed).send .level4 35 n

/-- REQ_STATE_WRITE (R17): a write of SAF_ISL[n]_CTRL. -/
def execReqStateWrite (w : Who) (n : IslandIx) (st : Fin 8) (force : Bool) (s : State) : Host.Outcome State Fault Refusal :=
  let v := st.val + 16 * force.toNat
  done (sideband w (islandCtrlAddr n.val) v (islandCtrl n.val v) s)
/-- ISLAND_TRANSITION_COMPLETE (R17). -/
def execIslandTransitionComplete (n : IslandIx) (s : State) : Host.Outcome State Fault Refusal := done (transitionComplete n.val s)
/-- DRAIN_COMPLETE (R38). -/
def execDrainComplete (n : IslandIx) (s : State) : Host.Outcome State Fault Refusal := done (drainComplete n.val s)
/-- DRAIN_TIMEOUT (R39). DEDUCED, log entry 9. -/
def execDrainTimeout (n : IslandIx) (s : State) : Host.Outcome State Fault Refusal := done (drainTimeout n.val s)
/-- STRAIT_WORD_RECEIVE (R24). DESIGN CHOICE, log entry 14. -/
def execStraitWordReceive (i j : IslandIx) (payload : BitVec 64) (par : BitVec 8) (kind : Fin 4) (kpar : Bool) (s : State) :
    Host.Outcome State Fault Refusal := done (strWord i.val j.val payload.toNat par.toNat kind.val kpar s)
/-- STRAIT_TIMEOUT (R33). -/
def execStraitTimeout (i n : IslandIx) (s : State) : Host.Outcome State Fault Refusal := done (strTimeout i.val n.val s)
/-- TIMEOUT_REACTION (R35, R477): the reaction of TMO_REACT to a reported TIMEOUT. -/
def execTimeoutReaction (n : IslandIx) (s : State) : Host.Outcome State Fault Refusal :=
  done (if s.flag (.saf .ISL_STAT_TIMEOUT) n.val ∧ !s.safHeld then islandReaction n.val (s.get (.saf .ESC_TMO_REACT)) s else s)
/-- PARITY_REACTION (R477): PAR_CNT has risen by PAR_LIM, 0 acting as 1, within 1 s. -/
def execParityReaction (n : IslandIx) (s : State) : Host.Outcome State Fault Refusal :=
  done (if s.parityRisen n.val (max 1 (s.get (.saf .ESC_PAR_LIM))) ∧ !s.safHeld then
    islandReaction n.val (s.get (.saf .ESC_PAR_REACT)) s else s)
/-- AON_OSCILLATOR_CHECK (R31): a deviation in permille beyond 100, or a stop, enters SAFE_HOLD with CAUSE 0x06. -/
def execAonOscillatorCheck (stopped : Bool) (dev : Half) (s : State) : Host.Outcome State Fault Refusal :=
  done (if s.get (.saf .ISL_STAT_STATE) 0 = 0 ∧ (stopped ∨ 100 < dev.toNat) then enterSafeHold 6 s else s)

end Sys2Proof.Machine
end

