-- ==== Sys2Proof/Machine/Package.lean ====
section
/-!
DEFINITION. The chart package as a byte image: header, section table, sections, signature block, and the codes of its checks (R90 to R97).
-/
namespace Sys2Proof.Machine
open Sys2Proof

/-- Where the flash area of a package slot begins (R518). -/
def slotAddr (slot : Nat) : Nat := flashAddr (if slot = 0 then 0x04400000 else 0x0CC00000)

/-- A section of a package (R91). -/
structure Section where
  typ : Nat
  inst : Nat
  optional : Bool
  off : Nat
  size : Nat
  hash : Nat
  deriving DecidableEq, Repr

/-- The section whose entry of 48 bytes is this little-endian number (R91). -/
def Section.ofNat (e : Nat) : Section :=
  ⟨bits e 0 16, bits e 16 16, e.testBit 32, bits e 64 32, bits e 96 32, bits e 128 256⟩

/-- The first `n` sections of a section table, given as one little-endian number. -/
def sectionsOf (n img : Nat) : List Section := (List.range n).map (fun k => Section.ofNat (img / 2 ^ (384 * k)))

/-- SEC_COUNT of the image at an address (R90). -/
def State.secCount (s : State) (a : Nat) : Nat := s.readN (a + 0x28) 2

/-- The section table of the image at an address, 64 entries at most (R90, R91). -/
def State.secImage (s : State) (a : Nat) : Nat := s.readN (a + s.readN (a + 0x2C) 4) (48 * min 64 (s.secCount a))

/-- The sections of the image at an address (R91). -/
def State.sections (s : State) (a : Nat) : List Section := sectionsOf (min 64 (s.secCount a)) (s.secImage a)

/-- PKG_SIZE of the image at an address (R90). -/
def State.pkgSize (s : State) (a : Nat) : Nat := s.readN (a + 0xC) 8

/-- A type of Table: Section types, in its range of instances and of its size; any instance and size of an unknown type that may be skipped
(R91). DEDUCED, log entry 79. -/
def Section.known (x : Section) : Bool :=
  match x.typ with
  | 1 => decide (x.inst < 2) && x.size == 592
  | 2 => decide (x.inst < 2) && x.size == 67108864
  | 5 => decide (x.inst < 16)
  | 3 | 4 | 6 | 7 => x.inst == 0
  | _ => x.optional

/-- No two sections overlap. -/
def apart : List Section → Bool
  | [] => true
  | x :: r => r.all (fun y => decide (x.off + x.size ≤ y.off) || decide (y.off + y.size ≤ x.off)) && apart r

/-- The section table is well formed: its length, known types, boundaries, bounds, no overlap, the parameter sets present
(R90, R91, code 0x07). DEDUCED, log entry 79. -/
def tableOk (count size : Nat) (l : List Section) : Bool :=
  decide (1 ≤ count) && decide (count ≤ 64) && l.all (fun x => x.known && x.off % 4096 == 0 && decide (256 + 48 * count ≤ x.off) &&
    decide (x.off + x.size + 128 ≤ size)) && apart l && l.any (fun x => x.typ == 7)

/-- The place in the key store of the Installer or Maker key with a KEY_ID (R92). -/
def State.packageKey (s : State) (id : Nat) : Option Nat :=
  (List.range 28).find? (fun k => decide (2 ≤ s.get (.host .KEY_ROLE) k) && s.get (.host .KEY_ID) k == id)

/-- The signature block of the image at an address names a stored key and its signature over header and section table verifies
(R92). The numbers r and s stand little-endian, as the image does (R90). DEDUCED, log entry 79. -/
def State.signatureOk (s : State) (a : Nat) : Bool :=
  let b := a + s.pkgSize a - 128
  let n := 256 + 48 * s.secCount a
  s.readN b 4 == 0x4749535A && s.readN (b + 4) 2 == 1 && s.readN (b + 14) 4 == n &&
    match s.packageKey (s.readN (b + 6) 8) with
    | none => false
    | some k =>
      ecdsaOk (s.get (.host .KEY_X) k) (s.get (.host .KEY_Y) k) (s.readN (b + 18) 32) (s.readN (b + 50) 32) (s.readBytes a n)

/-- The check of header, section table and signature of the image at an address: the code of Table: Package check codes, the lowest that
applies (R90 to R93, R95, R97). The order of the codes is not stated: DESIGN CHOICE, log entry 79. -/
def State.headerCode (s : State) (a : Nat) : Nat :=
  let l := s.sections a
  if s.readN a 4 ≠ 0x4B50435A ∨ s.readN (a + 8) 4 ≠ 256 ∨ s.readN (a + 0x2C) 4 ≠ 0x100 then 1
  else if s.readN (a + 4) 2 ≠ 3 then 2
  else if s.readN (a + 0x18) 8 ≠ 0x00303038342D5A59 ∨ 3 < s.readN (a + 0x20) 1 then 3
  else if 3 * 256 + 4 < 256 * s.readN (a + 0x21) 1 + s.readN (a + 0x22) 1 then 4
  else if !s.signatureOk a then 5
  else if s.readN (a + 0x14) 4 < s.get (.host .FLOOR) then 6
  else if !tableOk (s.secCount a) (s.pkgSize a) l then 7
  else if 138412032 < (l.map (·.size)).sum then 9
  else 0

/-- The section's bytes in the image at an address have the hash that its entry gives (R91). -/
def State.hashOk (s : State) (a : Nat) (x : Section) : Bool := sha256 (s.readBytes (a + x.off) x.size) == x.hash

/-- The `n` breakpoints from an address rise strictly (R59). -/
def State.rising (s : State) (a : Nat) : Nat → Bool
  | 0 => true
  | 1 => true
  | n + 2 => decide (toSigned 16 (s.readN a 2) < toSigned 16 (s.readN (a + 2) 2)) && s.rising (a + 2) (n + 1)

/-- The four axes of an axis section rise strictly (R59, R91). -/
def State.axesOk (s : State) (a : Nat) : Bool :=
  s.rising a 128 && s.rising (a + 256) 128 && s.rising (a + 512) 32 && s.rising (a + 576) 8

/-- Size of the tide patterns of a package. -/
def patternsSize (l : List Section) : Nat := ((l.find? (fun x => x.typ == 4)).map (·.size)).getD 0

/-- The `n` directory entries from entry `k` are well formed: PPI sequence, COUNT, OFFSET alignment and range, STORE (R80, code 0x0B). -/
def State.directoryOk (s : State) (a room k : Nat) : Nat → Bool
  | 0 => true
  | n + 1 =>
    let e := a + 16 * k
    let c := s.readN (e + 4) 2
    let o := s.readN (e + 8) 4
    s.readN e 2 == k + 1 && c != 0 && decide (c ≤ 4096) && o % 64 == 0 && decide (o + 8 * c ≤ room) && decide (s.readN (e + 6) 1 ≤ 3) &&
      s.directoryOk a room (k + 1) n

/-- The check of the sections of the image at an address: the code of Table: Package check codes; `unread`: the flash could not be
read (R95, R98). -/
def State.sectionCode (s : State) (a : Nat) (unread : Bool) : Nat :=
  let l := s.sections a
  if unread then 0x0D
  else if l.any (fun x => !s.hashOk a x) then 8
  else if l.any (fun x => x.typ == 1 && !s.axesOk (a + x.off)) then 0x0A
  else if l.any (fun x => x.typ == 3 && (x.size % 16 != 0 || !s.directoryOk (a + x.off) (patternsSize l) 0 (x.size / 16))) then 0x0B
  else 0

end Sys2Proof.Machine
end

