-- ==== Sys2Proof/Machine/Activation.lean ====
section
/-!
DEFINITION. Chart packages in flash and in the chart region, and the activation of a package (R90 to R103, R141, R142).
-/
namespace Sys2Proof.Machine
open Sys2Proof

/-- Copy the bytes listed in one range to another place; the target range holds nothing else afterwards. -/
def moveRange (src n dst : Nat) (s : State) : State :=
  (s.mem.filter (fun c => decide (src ≤ c.1) && decide (c.1 < src + n))).foldl
    (fun t c => t.setByte (dst + (c.1 - src)) c.2) (zeroBytes dst n s)

/-- Round up to a 4,096-byte boundary. -/
def pageUp (a : Nat) : Nat := (a + 4095) / 4096 * 4096

/-- Address in the chart region of the tide patterns: the next boundary after the directory (R93). -/
def patternsAt (l : List Section) : Nat :=
  pageUp (0x1B8000000 + ((l.find? (fun x => x.typ == 3)).map (·.size)).getD 0)

/-- Where each section goes in the chart region: charts, directory and patterns at their places, the rest in table order on
boundaries after the patterns (R93). -/
def placeSections (next patterns : Nat) : List Section → List (Section × Nat)
  | [] => []
  | x :: r =>
    match x.typ with
    | 2 => (x, if x.inst = 0 then 0x1B0000000 else 0x1B4000000) :: placeSections next patterns r
    | 3 => (x, 0x1B8000000) :: placeSections next patterns r
    | 4 => (x, patterns) :: placeSections next patterns r
    | _ => (x, next) :: placeSections (pageUp (next + x.size)) patterns r

/-- The sections of a package with their places in the chart region; a section of an unknown type is skipped (R91, R93). -/
def regionPlan (l : List Section) : List (Section × Nat) :=
  let p := patternsAt l
  placeSections (pageUp (p + patternsSize l)) p (l.filter (fun x => decide (1 ≤ x.typ) && decide (x.typ ≤ 7)))

/-- The sections of the package that the chart region holds, from its section table, which the firmware keeps (R99). DESIGN CHOICE, log
entry 79. -/
def State.regionSections (s : State) : List Section := sectionsOf (s.get (.host .SEC_N)) (s.get (.host .SEC_IMG))

/-- Both chart caches are emptied, as their contents are another package's (R69). -/
def emptyCaches (s : State) : State := refreshWarm (emptyCache 1 (emptyCache 0 s))

/-- Copy the sections of the package in a slot into the chart region (step 3); axes, base values and the section table follow (R93,
R98). -/
def copySections (slot : Nat) (s : State) : State :=
  let a := slotAddr slot
  let plan := regionPlan (s.sections a)
  let t := plan.foldl (fun t x => moveRange (a + x.1.off) x.1.size x.2 t) s
  let t := plan.foldl (fun t x => if x.1.typ = 1 then t.set (.loop .CH_AXIS) x.2 x.1.inst else t) t
  let t := (t.set (.host .SEC_N) (min 64 (s.secCount a))).set (.host .SEC_IMG) (s.secImage a)
  emptyCaches (t.forUpTo 6 (fun k t => t.set (.drv .PK_BASE) (s.readN (a + 0x30 + 4 * k) 4) k))

/-- Number of entries of the tide directory in the chart region (R80). -/
def State.dirEntries (s : State) : Nat :=
  ((s.regionSections.find? (fun x => x.typ == 3)).map (·.size)).getD 0 / 16

/-- The engines that a package names (R142). -/
def State.namedEngines (s : State) (slot : Nat) : List Nat :=
  ((s.sections (slotAddr slot)).filter (fun x => x.typ == 5)).map (·.inst % 16)

/-- Write a word into an engine's register from a section. -/
def imageWord (dst src : Nat) (s : State) : State := storeWord .safety dst (s.readN src 4) s

/-- Write a loop program section at an address into the registers and memories of its engine, which is OFF: a FAULT is cleared first; each
slot's LS_CTRL comes after the slot's other registers, so that an APPLY in its image takes them (R131, R141). DEDUCED, log entry 79. -/
def loadEngine (e a : Nat) (s : State) : State :=
  let b := 0x1030000000 + 0x100000 * e
  let t := s.when (s.get (.loop .LE_STAT_STATE) e == 4) (engineOff e)
  let t := leCtrlWrite e (s.readN (a + 0x10) 4 / 2 * 2) t
  let t := imageWord (b + 8) (a + 0x14) t
  let t := t.forUpTo 4 (fun g t => imageWord (b + 0xC00 + 4 * g) (a + 0x18 + 4 * g) t)
  let t := t.forUpTo 32 (fun p t => imageWord (b + 0x180 + 4 * p) (a + 0xC0 + 4 * p) (imageWord (b + 0x100 + 4 * p) (a + 0x40 + 4 * p) t))
  let t := t.forUpTo 512 (fun k t => if k % 64 = 0xB then t else imageWord (b + 0x400 + 4 * k) (a + 0x140 + 4 * k) t)
  let t := t.forUpTo 8 (fun k t => lsCtrlWrite e k (s.readN (a + 0x140 + 256 * k + 0x2C) 4) t)
  let n := 8 * s.readN (a + 2) 2
  let t := moveRange (a + 0x940) 1024 (bankAddr e (1 - s.get (.loop .SCHED_STAT_ACTIVE) e)) t
  moveRange (a + 0xD40 + n) (s.readN (a + 4) 2) (b + 0x60000) (moveRange (a + 0xD40) n (b + 0x40000) t)

/-- Load the engines that the package in the chart region names (R99, R141). -/
def loadEngines (s : State) : State :=
  (regionPlan s.regionSections).foldl (fun t x => if x.1.typ = 5 then loadEngine (x.1.inst % 16) x.2 t else t) s

/-- The loop program, schedule and parameter-set sections in the chart region have their hashes (R99). -/
def State.regionOk (s : State) : Bool :=
  (regionPlan s.regionSections).all (fun x => !([5, 6, 7].contains x.1.typ) || sha256 (s.readBytes x.2 x.1.size) == x.1.hash)

/-- Group and mode state permit activation: STOWED, READY or COMMISSION with OG0 to OG4 disabled (R94). -/
def State.activationOk (s : State) : Bool :=
  [0, 1, 5].contains (s.get (.saf .AXLE_MODE_MODE)) && (s.get (.edge .OG_EN) &&& 0x1F) == 0

/-- Begin an activation of a slot: step 1 clears LOADED, CHART_WARM, EN_A, EN_B and AUTO (R98). -/
def startActivation (kind slot : Nat) (s : State) : State :=
  let save := s.get (.loop .CHART_CTRL_EN_A) + 2 * s.get (.loop .CHART_CTRL_EN_B) +
    8 * ((List.range 4).map (fun p => 2 ^ p * s.get (.edge .TS_CTRL_AUTO) p)).sum
  let t := ((((s.set (.host .ACT_OLD) (s.get (.loop .CHART_STAT_LOADED))).set (.host .ACT_OLDS) (s.get (.loop .CHART_STAT_SLOT))).set
    (.host .ACT_SAVE) save).set (.host .ACT_KIND) kind).set (.host .ACT_SLOT) slot
  let t := (((t.on (.host .ACT_ON)).set (.host .ACT_STEP) 1).off (.host .ACT_CODE)).off (.loop .CHART_STAT_LOADED)
    |>.off (.loop .CHART_STAT_CHART_WARM)
  (((t.off (.loop .CHART_CTRL_EN_A)).off (.loop .CHART_CTRL_EN_B)).forUpTo 4 (fun p t => t.off (.edge .TS_CTRL_AUTO) p))

/-- No package is active: LOCK is set over the values in force; SEL is 1 for every group; an axle in READY or COMMISSION goes to STOWED
(R102, R581). -/
def noPackage (s : State) : State :=
  stowUnloaded (setLock (bandWrite 0xFFFF ((((s.off (.host .ACT_ON)).off (.loop .CHART_STAT_LOADED)).off (.loop .CHART_STAT_CHART_WARM)).off
    (.host .HELD_LOADED))))

/-- The package that the slot pointer names is activated (R101). -/
def activatePrevious (s : State) : State :=
  (((s.set (.host .ACT_KIND) 2).set (.host .ACT_SLOT) (s.get (.host .SLOT_PTR))).set (.host .ACT_STEP) 1).off (.loop .CHART_STAT_LOADED)
    |>.off (.loop .CHART_STAT_CHART_WARM)

/-- An activation ends with a code (R101): at step 2 the package in the region is taken up again, at step 3, and where a restore fails
(R99), the one that the slot pointer names is activated; at boot, or where that fails too, none is left. -/
def activationFails (code : Nat) (s : State) : State :=
  let t := (s.set (.host .ACT_CODE) code).send .level5 101 code (s.get (.host .ACT_SLOT))
  let k := s.get (.host .ACT_KIND)
  if k = 2 ∨ k = 3 then noPackage t
  else if k = 4 then activatePrevious t
  else if !s.flag (.host .ACT_OLD) then noPackage t
  else if s.get (.host .ACT_STEP) = 1 then
    ((t.set (.host .ACT_KIND) 1).set (.host .ACT_SLOT) (s.get (.host .ACT_OLDS))).set (.host .ACT_STEP) 3
  else activatePrevious t

/-- Report the records outside their ranges (R322, R361, R401, R448). -/
def reportRecords (s : State) : State :=
  let rep (r : Nat) (b : Option Nat) (t : State) : State := match b with | some o => t.send .level5 r o | none => t
  rep 448 s.gbBad (rep 401 s.chgBad (rep 361 (s.cvBad 1) (rep 361 (s.cvBad 0) (rep 322 (s.trBad 1) (rep 322 (s.trBad 0) s)))))

/-- Step 4: DIRN, and the settings of the parameter sets; after a code at step 2 EN_A, EN_B and AUTO are as before, and PREFETCH was not
touched (R98, R101). -/
def activationSettings (a : ActStep) (s : State) : State :=
  let again := s.get (.host .ACT_KIND) == 1
  let old := s.get (.host .ACT_SAVE)
  let v (b : Bool) (k : Nat) : Bool := if again then old.testBit k else b
  let t := (s.set (.edge .TL_BASE) (0x1B8000000 / 4096)).set (.edge .TL_DIRN) s.dirEntries
  let t := t.set (.host .DIRN_HELD) (t.get (.edge .TL_DIRN))
  let t := (t.setB (.loop .CHART_CTRL_EN_A) (v a.enA 0)).setB (.loop .CHART_CTRL_EN_B) (v a.enB 1)
  let t := t.forUpTo 4 (fun p t => t.setB (.edge .TS_CTRL_AUTO) (v (a.auto.getLsbD p) (3 + p)) p)
  if again then t
  else reportRecords ((t.setB (.loop .CHART_CTRL_PREFETCH) a.prefetch).forUpTo 6 (fun k t =>
    t.set (.drv .REC_ADDR) ((a.recs[k]?.map (·.toNat)).getD 0) k))

/-- Step 5: the slot pointer is written; the safety island sets LOADED and SLOT, and keeps them across the ladder (R98, R99). -/
def activationLoaded (s : State) : State :=
  let k := s.get (.host .ACT_SLOT)
  let t := (s.on (.loop .CHART_STAT_LOADED)).set (.loop .CHART_STAT_SLOT) k
  let t := (t.on (.host .HELD_LOADED)).set (.host .HELD_SLOT) k
  if s.get (.host .ACT_KIND) = 1 then t else (t.set (.host .SLOT_PTR) k).send .store 98 k

/-- An enabled motor's part of step 6: the first lookup since its cache was emptied, at the measured point; its protected set is filled,
whatever PREFETCH says; its store is loaded with the PPI of the point, if that names a pattern (R65, R69, R98). -/
def activationMotor (m : Nat) (q : Query) (s : State) : State :=
  let t := recordQuery m q (emptyCache m s)
  let t := t.forEach (t.protectedSet m) (fun x t => t.setBit (.loop .CH_FLY) x m)
  let t := (t.protectedSet m).foldl (fun t x => tileFill m x t) t
  let p := t.place m q
  let ppi := t.cornerField m p 4 (nearestCorner p)
  if ppi = 0xFFFF then t else loadPpi m ppi t

/-- Step 6: protected sets around the measured points, and the stores' patterns (R98). -/
def activationFill (a : ActStep) (s : State) : State :=
  let p (k : Nat) : Int := toSigned 16 ((a.points[k]?.map (·.toNat)).getD 0)
  let t := s.forUpTo 2 (fun m t => if t.flag (enFld m) then
    activationMotor m (p (4 * m), p (4 * m + 1), p (4 * m + 2), p (4 * m + 3)) t else t)
  (refreshWarm (t.forUpTo 2 (fun k t => loadPpi (2 + k) ((a.ppis[k]?.map (·.toNat)).getD 0) t))).off (.loop .CHART_STAT_CHART_WARM)

/-- Step 3 of an activation: the engines that the package names are disabled, and a refusal ends it; the sections are copied and checked
(R98, R142). -/
def activationCopy (a : ActStep) (s : State) : State :=
  let slot := s.get (.host .ACT_SLOT)
  let t := (s.namedEngines slot).foldl (fun t e => engineDisable e (t.off (.loop .LE_CTRL_FORCE) e)) s
  if (s.namedEngines slot).any (fun e => t.get (.loop .LE_STAT_STATE) e == 1) then activationFails 0x0C t
  else
    let c := s.sectionCode (slotAddr slot) a.unread
    let u := copySections slot t
    if c ≠ 0 then activationFails c u else u.set (.host .ACT_STEP) 3

/-- Step 3 of a restore: the sections that the engines are loaded from are hashed in the chart region, and the engines loaded from them
(R99). -/
def restoreCopy (s : State) : State :=
  if s.regionOk then (loadEngines s).set (.host .ACT_STEP) 3 else activationFails 8 s

/-- An engine that the package names still drains: the writing of its images waits (R141, R142). -/
def State.enginesDrain (s : State) : Bool :=
  s.regionSections.any (fun x => x.typ == 5 && s.get (.loop .LE_STAT_STATE) (x.inst % 16) == 2)

/-- The step that may come next: the one after the last, but a restore has no step 5 (R98, R99). -/
def State.nextStep (s : State) (k : Nat) : Bool :=
  let n := s.get (.host .ACT_STEP)
  if s.get (.host .ACT_KIND) = 4 then (if n = 4 then k == 6 else k == n + 1) else k == n + 1

/-- ACTIVATION_STEP: the next step of Table: Activation, with what it finds (R98 to R102, R142). -/
def activationStep (a : ActStep) (s : State) : State :=
  if !s.flag (.host .ACT_ON) ∨ !s.nextStep a.step.val then s
  else
    let kind := s.get (.host .ACT_KIND)
    let go (t : State) : State := t.set (.host .ACT_STEP) a.step.val
    match a.step.val with
    | 2 =>
      let c := s.headerCode (slotAddr (s.get (.host .ACT_SLOT)))
      if c ≠ 0 then activationFails c s else go s
    | 3 => if kind = 4 then restoreCopy s else activationCopy a s
    | 4 =>
      if kind = 1 ∨ kind = 4 then go (activationSettings a s)
      else if s.enginesDrain then s
      else go (loadEngines (activationSettings a s))
    | 5 => go (activationLoaded s)
    | 6 => go (activationFill a s)
    | 7 => (go (refreshWarm s)).off (.host .ACT_ON)
    | _ => s

/-- ACTIVATION_STEP (R98). DESIGN CHOICE, log entry 46. -/
def execActivationStep (a : ActStep) (s : State) : Host.Outcome State Fault Refusal := done (activationStep a s)

end Sys2Proof.Machine
end

