-- ==== Sys2Proof/Machine/Power.lean ====
section
/-!
DEFINITION. The power ladder, start-up, live insertion and brown-out (chapter 16).
Ladder states: 0 Run, 1 Hold, 2 Standby, 3 Park, 4 Storage, 5 Transport.
-/
namespace Sys2Proof.Machine
open Sys2Proof

/-- The ladder state. -/
def State.ladder (s : State) : Nat := s.get (.aon .LADDER_STAT_STATE)

/-- Table: Island states per ladder state (R562). -/
def ladderIsland (lad n : Nat) : Nat :=
  let drive := n == 6 || n == 7 || (decide (2 ≤ n) && decide (n ≤ 5))
  match lad with
  | 0 => 0
  | 1 => if drive || n == 11 then 1 else 0
  | 2 => if drive || n == 1 || n == 10 || n == 13 then 2 else if n = 11 then 3 else 0
  | 3 => if drive || n == 1 || n == 11 then 3 else if n = 9 then 1 else if n = 10 ∨ n = 13 then 2 else 0
  | 4 => if n = 12 then 0 else if n = 0 then 2 else 3
  | _ => if n = 12 then 0 else 3

/-- A transition in progress ends before the ladder controller requests the next one; commands that wait for it are answered (R18,
R542). -/
def finishTransition (n : Nat) (s : State) : State :=
  if s.flag (.saf .ISL_STAT_BUSY) n then
    answerIsland n ((setIsland n (s.get (.saf .ISL_TGT) n) (s.off (.saf .ISL_PLAN) n)).off (.saf .ISL_STAT_BUSY) n)
  else s.off (.saf .ISL_PLAN) n

/-- Put an island where the ladder wants it, by transitions of Table: Island transitions: a state that the present one does not lead to is
reached through RUN (R17, R18, R19, R562). DEDUCED, log entry 73. -/
def ladderSet (n st : Nat) (s : State) : State :=
  let t := finishTransition n s
  let old := t.get (.saf .ISL_STAT_STATE) n
  let t := t.when (old != st && !listed old st) (setIsland n 0)
  (setIsland n st t).setB (.saf .ISL_ASKED) (st != 0) n |>.off (.saf .ISL_STAT_BUSY) n

/-- Put every island where a ladder state wants it; SAF comes last. -/
def ladderIslands (lad : Nat) (s : State) : State :=
  s.forEach [1, 2, 3, 4, 5, 6, 7, 8, 9, 10, 11, 13, 0] (fun n t => ladderSet n (ladderIsland lad n) t)

/-- A module reset, or the loss of the supplies: everything but the always-on island, time and flash is at its reset value
(R554, R590). -/
def moduleReset (s : State) : State :=
  let keep (e : Entry) : Bool := e.k / 1000 == 8 || keptFlds.any (fun f => f.key == e.k) || flashFlds.any (fun f => f.key == e.k)
  let byte (c : Host.Cell) : Bool := decide (c.1 < 0x1C0000000) || decide (2 ^ 41 ≤ c.1)
  let t : State := { s with vals := s.vals.filter keep, mem := s.mem.filter byte }
  t.forUpTo 2 (fun c t => t.when (s.bit (.drv .CV_FLAGS) 1 c) (·.setBit (.drv .CV_FLAGS) 1 c))

/-- A loss of the supplies ends a run that has had no orderly snapshot (R352). -/
def noteLoss (s : State) : State :=
  s.when (decide (s.ladder < 2) && !s.flag (.aon .BOOTING) && s.get (.drv .TR_LOST) == 0) (·.set (.drv .TR_LOST) (s.now + 1))

/-- Sense channels are disabled on the way to Standby (R566). -/
def disableSense (s : State) : State :=
  let t := s.forUpTo 24 (fun c t => (t.off (.sns .SD_CFG_EN) c).off (.sns .SD_STAT_VALID) c)
  let t := t.forUpTo 8 (fun c t => (t.off (.sns .FC_CFG_EN) c).off (.sns .FC_STAT_VALID) c)
  t.forUpTo 2 (fun r t => resStop r (t.off (.sns .RES_CFG_EN) r))

/-- The descent conditions of R564 that the state shows, with the inputs. -/
def State.mayHold (s : State) (p : Pins) : Bool :=
  s.get (.saf .AXLE_MODE_MODE) == 0 && !s.flag (.saf .AXLE_MODE_BUSY) && !p.key && s.get (.edge .OG_EN) == 0 &&
    (List.range 16).all (fun n => !s.flag (.host .MB_BUSY) n) && (List.range 4).all (fun k => !s.flag (.host .DP_OPEN) k) &&
    !p.coupler && decide (s.get (.sns .CP_STAT_STATE) ≤ 1) && !p.line && !p.wake

/-- The dwell of a ladder state in fine ticks; 0 stops the descent (R565). -/
def State.dwell (s : State) (lad : Nat) : Nat :=
  match lad with
  | 0 => us (100000 * s.get (.aon .LADDER_DWELL_T_HOLD))
  | 1 => secs (s.get (.aon .LADDER_DWELL_T_STBY))
  | 2 => secs (60 * s.get (.aon .LADDER_DWELL_T_PARK))
  | 3 => secs (3600 * s.get (.aon .LADDER_DWELL_T_STOR))
  | _ => 0

/-- A step down begins: the snapshot and the sense channels of Hold to Standby, the flush of Park to Storage and of Transport
(R351, R430, R566). -/
def startStep (tgt : Nat) (flush : Bool) (s : State) : State :=
  let t := (s.on (.aon .LADDER_STAT_MOVING)).set (.aon .LAD_TGT) tgt
  let t := if tgt = 2 then disableSense (wearSnapshot t) else t
  if flush then t.set (.aon .FLUSH) 2 else t

/-- LADDER_DWELL_EXPIRY (R564, R565): the conditions or the dwell have lasted. -/
def dwellExpiry (p : Pins) (s : State) : State :=
  let l := s.ladder
  if s.flag (.aon .LADDER_STAT_MOVING) ∨ s.flag (.aon .BOOTING) ∨ 4 ≤ l ∨ s.dwell l = 0 then s
  else if l = 0 then (if s.mayHold p then startStep 1 false s else s)
  else if s.now < s.get (.aon .LAD_AT) + s.dwell l then s
  else startStep (l + 1) (l == 3) s

/-- The newest recorder slots are in the flush area; a flush on a warning carries the warning's axle time in its header (R566, R585). -/
def flushed (s : State) : State :=
  (((s.set (.aon .FLUSH_SEQ) (s.get (.mem .FR_SEQ))).when (s.get (.aon .FLUSH) == 1) (·.set (.aon .FLUSH_TIME) (s.get (.aon .WARN_TIME)))).off
    (.aon .FLUSH)).send .flash 0x17000000 (if s.get (.aon .FLUSH) = 1 then 0x8000 else 0x800000)

/-- The module rests in a ladder state (R560 to R563, R566). -/
def enterLadder (lad : Nat) (s : State) : State :=
  let t := s.when (s.get (.aon .FLUSH) == 2) flushed
  let t := if 4 ≤ lad then endSessions true t else t
  let t := t.when (lad == 3) (fun t => t.on (.sns .HK_CTRL_LP))
  let t := if 4 ≤ lad then dramOff (ladderIslands lad t) else ladderIslands lad t
  let t := if lad = 5 then moduleReset t else t
  let t := t.when (lad == 5) (fun t => (t.set (.saf .ISL_STAT_STATE) 3 0))
  let t := t.when (s.get (.aon .RUN_LEFT) == 0) (·.set (.aon .RUN_LEFT) (s.now + 1))
  ((((t.set (.aon .LADDER_STAT_STATE) lad).off (.aon .LADDER_STAT_MOVING)).set (.aon .LAD_AT) s.now).set (.aon .LADDER_STAT_DEEPEST)
    (if s.ladder = 0 then lad else max lad (s.get (.aon .LADDER_STAT_DEEPEST)))).set (.aon .LAD_TGT) lad

/-- LADDER_STEP_COMPLETE (R566): the actions of the step in progress are done. -/
def stepComplete (s : State) : State :=
  if s.flag (.aon .LADDER_STAT_MOVING) ∧ !s.flag (.aon .BOOTING) ∧ s.ladder < s.get (.aon .LAD_TGT) then
    enterLadder (s.get (.aon .LAD_TGT)) s
  else s

/-- The ladder states in which a wake source acts (Table: Wake sources). -/
def wakeStates (src : Nat) : List Nat :=
  match src with
  | 1 => [1, 2, 3, 4, 5] | 2 => [1, 2, 3, 4] | 3 => [1, 2, 3, 4, 5] | 4 => [1, 2, 3, 4, 5] | 5 => [1, 2, 3, 4, 5]
  | 6 => [1] | 7 => [2] | 8 => [2, 3] | 9 => [1, 2, 3] | 10 => [2, 3, 4] | _ => []

/-- The source's bit in AON_WAKE_EN is set (R569). -/
def State.wakeEnabled (s : State) (src : Nat) : Bool :=
  if src = 2 then s.flag (.aon .WAKE_EN_EN_KEY)
  else if 6 ≤ src ∧ src ≤ 10 then s.bit (.aon .WAKE_EN_EN_MISC) (src - 6)
  else decide (1 ≤ src) && decide (src ≤ 5)

/-- A boot begins: its kind is 0 first 24 V or a module reset, 1 Storage, 2 Transport, 3 brown-out; all but Storage run a FULL self-test
(R575 to R577). -/
def startBoot (kind step : Nat) (s : State) : State :=
  (((s.on (.aon .BOOTING)).set (.aon .BOOT_KIND) kind).set (.aon .BOOT) step).off (.aon .STOPPED)

/-- The module is in Run again: hours of Run go on counting (R578). -/
def backInRun (s : State) : State :=
  let left := s.get (.aon .RUN_LEFT)
  let t := s.when (left != 0) (·.set (.saf .RUN_MS) (s.get (.saf .RUN_MS) + (s.now + 1 - left)))
  (((t.off (.aon .RUN_LEFT)).off (.aon .LADDER_STAT_STATE)).off (.aon .LADDER_STAT_MOVING)).set (.aon .LAD_AT) s.now |>.off (.aon .LAD_TGT)

/-- After a wake from Standby or Park the loop and edge islands are restored from the chart region: LOADED, SLOT and DIRN as held, then
the hashes and the engines (step 3 of the restore) and steps 4, 6 and 7 of the activation (R99). -/
def restoreRegion (s : State) : State :=
  if s.flag (.host .HELD_LOADED) then
    let t := ((s.on (.loop .CHART_STAT_LOADED)).set (.loop .CHART_STAT_SLOT) (s.get (.host .HELD_SLOT))).set (.edge .TL_DIRN)
      (s.get (.host .DIRN_HELD))
    (((t.on (.host .ACT_ON)).set (.host .ACT_KIND) 4).set (.host .ACT_SLOT) (s.get (.host .HELD_SLOT))).set (.host .ACT_STEP) 2
  else s

/-- A wake is taken: cause recorded, a step down in progress abandoned, the module brought back to Run; from Storage and Transport by a
boot (R569, R571, R572, R575, R576). -/
def wake (src : Nat) (s : State) : State :=
  let l := s.ladder
  let t := s.when (s.flag (.aon .LADDER_STAT_MOVING)) (fun t => (t.on (.aon .LADDER_STAT_ABANDONED)).off (.aon .FLUSH))
  let t := (((t.off (.aon .LADDER_STAT_MOVING)).set (.aon .WAKE_CAUSE_SRC) src).set (.aon .WAKE_CAUSE_FROM) l).incSat (.aon .WAKE_CAUSE_CNT)
  if 4 ≤ l then
    let t := ladderSet 0 0 t
    let t := ((t.set (.saf .STEST_DEPTH) (if l = 4 then 1 else 2)).on (.saf .STEST_RUNNING)).off (.saf .STEST_PASS)
    (startBoot (if l = 4 then 1 else 2) (if l = 4 then 5 else 2) t).on (.aon .LADDER_STAT_MOVING)
  else
    let t := t.when (l == 3) (fun t => t.off (.sns .HK_CTRL_LP))
    let t := backInRun (ladderIslands 0 t)
    let t := t.when (l == 3) readAccount
    if 2 ≤ l then restoreRegion t else t

/-- WAKE_QUALIFIED (R568, R569, R572). -/
def wakeQualified (src : Nat) (s : State) : State :=
  let l := s.ladder
  let at_ := if l = 0 ∧ s.flag (.aon .LADDER_STAT_MOVING) then 1 else l
  if s.flag (.aon .BOOTING) ∨ at_ = 0 ∨ !s.wakeEnabled src ∨ !(wakeStates src).contains at_ then s else wake src s

/-- STORAGE_SUPPLY_SAMPLE: below V_CRIT with AUTO_TR the module goes to Transport, without a flush (R567). -/
def supplySample (code : Nat) (s : State) : State :=
  if s.ladder = 4 ∧ !s.flag (.aon .BOOTING) ∧ s.flag (.aon .HKWIN_AUTO_TR) ∧ code < s.get (.aon .HKWIN_V_CRIT) then
    enterLadder 5 (wearSnapshot s)
  else s

/-- ALARM_EXPIRY: MIN minutes after its write the alarm wakes by source 10 (R568). -/
def alarmExpiry (s : State) : State :=
  let m := s.get (.aon .ALARM)
  let at_ := s.get (.aon .ALARM_AT)
  if m = 0 ∨ at_ = 0 ∨ s.now < at_ - 1 + secs (60 * m) then s else wakeQualified 10 (s.off (.aon .ALARM_AT))

/-- SUPPLY_RISE: the rail rises above 16.0 V; AON leaves power-on reset (R574). -/
def supplyRise (s : State) : State :=
  if s.flag (.aon .SUPPLY) then s else startBoot 0 1 (s.on (.aon .SUPPLY))

/-- PRES_N_QUALIFIED (R574): asserted for 10 ms; the boot proceeds. -/
def presQualified (s : State) : State :=
  let t := s.on (.aon .PRESENT)
  if s.flag (.aon .BOOTING) ∧ s.get (.aon .BOOT) = 1 then t.set (.aon .BOOT) 2 else t

/-- The boot step's own event has happened: initialisation of the chart region, the self-test, initialisation of all DRAM, the end of
the activation (R574). -/
def State.bootReady (s : State) (k : Nat) : Bool :=
  match k with
  | 8 => s.flag (.mem .STAT_INIT_CHART)
  | 14 => !s.flag (.saf .STEST_RUNNING)
  | 15 => s.flag (.mem .STAT_INIT_DONE)
  | 18 => !s.flag (.host .ACT_ON)
  | _ => true

/-- The flush that an earlier PRES_N warning left in the head: moved to the ring if its header is valid, discarded with FLUSH_BAD
otherwise; the head is erased (R585, R588). -/
def checkHead (s : State) : State :=
  if s.flag (.aon .HEAD_ERASED) then s
  else
    let t := if s.flag (.aon .HEAD_VALID) then s.send .flash 0x17008000 0x8000 else (s.on (.aon .LADDER_STAT_FLUSH_BAD)).send .level5 588
    (t.on (.aon .HEAD_ERASED)).off (.aon .HEAD_VALID)

/-- What a step of Table: Boot from first 24 V does. -/
def bootAction (k : Nat) (s : State) : State :=
  match k with
  | 4 => (((ladderSet 0 0 s).off (.saf .TMR_STAT_MODE)).set (.saf .STEST_DEPTH) 2).on (.saf .STEST_RUNNING) |>.off (.saf .STEST_PASS)
  | 5 => s.forUpTo 8 (fun p t => t.setB (.saf .CP_STATE) (decide (2 ≤ p) && s.bit (.host .SPLIT) p) p)
  | 6 =>
    let t := ladderSet 8 0 s
    let t := t.forUpTo 16 (fun g t => t.setBit (.grd .OG_LATCH) g)
    t.forEach [1, 2, 3, 4, 5, 6, 7, 9, 10, 11, 13] (fun n t => ladderSet n 0 t)
  | 7 => if s.flag (.mem .DRAM_ON) then s.off (.mem .STAT_SELFREF) else dramPowerUp s
  | 10 => backInRun s
  | 11 => if s.flag (.host .PKG_FULL) (s.get (.host .SLOT_PTR)) then startActivation 3 (s.get (.host .SLOT_PTR)) s
    else ((s.off (.host .HELD_LOADED)).set (.host .ACT_CODE) 0x0E).send .level5 581
  | 16 => groupLatchClear 0xFFFF (setLock (readAccount (s.when (s.get (.drv .TR_SNAPQ) == 0) (·.send .level5 580))))
  | 17 => ((s.off (.saf .AXLE_MODE_MODE)).off (.saf .AXLE_MODE_BUSY)).send .frame 3 5 (s.get (.aon .WAKE_CAUSE_SRC))
  | 18 => checkHead (s.off (.aon .BOOTING))
  | _ => s

/-- BOOT_STEP: the next step of the boot is reached (R574 to R577). -/
def bootStep (k : Nat) (s : State) : State :=
  if !s.flag (.aon .BOOTING) ∨ s.flag (.aon .STOPPED) ∨ k ≠ s.get (.aon .BOOT) + 1 ∨ k < 3 ∨ 18 < k ∨ !s.flag (.aon .PRESENT) ∨ !s.bootReady k then s
  else bootAction k (s.set (.aon .BOOT) k)

/-- The groups an island's failure forces. -/
def State.depsOf (s : State) (m : Nat) : Nat :=
  (List.range 14).foldl (fun a n => if m.testBit n then a ||| s.get (.saf .ISL_DEP) n else a) 0

/-- The failed items as a mask (Table: Start-up self-test items). -/
def selfTestItems (x : SelfTest) : Nat :=
  let l := [x.cores != 0, x.local_, x.voter || x.pairs != 0, x.groups != 0, x.monitors != 0, x.legs != 0, x.straits != 0, x.dram,
    x.srams != 0, x.engines != 0, x.logic != 0, x.openLoad != 0 || x.shorts != 0]
  (List.range 12).foldl (fun a i => if l[i]?.getD false then a + 2 ^ i else a) 0

/-- The force bits that the failed items keep (R579). -/
def selfTestForced (x : SelfTest) (s : State) : Nat :=
  let mon := (List.range 8).foldl (fun a m => if x.monitors.toNat.testBit m then a ||| s.route (69 + m) else a) 0
  let legs := (List.range 41).foldl (fun a n => if x.legs.toNat.testBit n then
    (match s.groupOf n with | some g => a ||| 2 ^ g | none => a) else a) 0
  let eng := (List.range 16).foldl (fun a e => if x.engines.toNat.testBit e then a ||| s.get (.loop .LE_DEP) e else a) 0
  x.groups.toNat ||| mon ||| legs ||| eng ||| (if x.dram then 3 else 0) ||| s.depsOf (x.straits.toNat ||| x.srams.toNat ||| x.logic.toNat)

/-- The boot stops: SC0 to SC2 held in reset, every output off (R579). -/
def stopBoot (s : State) : State :=
  (((setSafForce 0xFFFF 5 s).set (.saf .TMR_STAT_MODE) 3).on (.aon .STOPPED)).forUpTo 8
    (fun c t => (t.off (.saf .CD_STAT_ON) c).off (.saf .CD_STAT_HOLDING) c)

/-- SELF_TEST_COMPLETE (R577, R579): failed items are recorded, with what the table does on each; bits kept for items that now pass are
released. -/
def selfTestComplete (x : SelfTest) (s : State) : State :=
  if !s.flag (.saf .STEST_RUNNING) then s
  else
    let m := selfTestItems x
    let f := selfTestForced x s
    let nCores := ones x.cores.toNat 3
    let s := s.when (s.get (.saf .AXLE_MODE_MODE) != 5) clearPermits
    let t := ((s.off (.saf .STEST_RUNNING)).set (.saf .STEST_FAIL) m).setB (.saf .STEST_PASS) (m == 0)
    let t := t.when (m != 0) (·.send .level5 579 m)
    let t := t.when (m == 0 && s.get (.saf .STEST_DEPTH) == 2) (fun t => (t.set (.saf .RUN_MS) s.now).off (.saf .STEST_AGE))
    let t := t.when (nCores == 1) (fun t => (t.set (.saf .TMR_STAT_RETIRED) x.cores.toNat).set (.saf .TMR_STAT_MODE) 2)
    let t := t.forUpTo 8 (fun p t => if x.pairs.toNat.testBit p then t.set (.saf .CP_STATE) 3 p else t)
    let t := t.forUpTo 41 (fun n t => if x.legs.toNat.testBit n then
      refreshForce n (if n < 32 then (t.setBit (.grd .LEGF_LATCH) n).setBit (.grd .LEGF_IL) n else t.setBit (.grd .ALEGF_LATCH) (n - 32)) else t)
    let t := t.forUpTo 14 (fun n t =>
      if (x.straits.toNat.testBit n || x.srams.toNat.testBit n) && permitted n 5 then ladderSet n 5 t
      else if x.logic.toNat.testBit n && permitted n 3 then ladderSet n 3 t else t)
    let t := t.forUpTo 16 (fun e t => if x.engines.toNat.testBit e then engineOff e (t.off (.loop .LE_CTRL_EN) e) else t)
    let t := t.forUpTo 8 (fun c t => (t.when (x.openLoad.toNat.testBit c) (·.on (.saf .CD_STAT_OPEN_LOAD) c)).when
      (x.shorts.toNat.testBit c) (·.on (.saf .CD_STAT_SHORT) c))
    let t := dropSafForce (andNot (t.get (.saf .KEPT_FORCE)) f) 7 t
    let t := setSafForce f 7 (t.set (.saf .KEPT_FORCE) f)
    if 2 ≤ nCores ∨ x.local_ ∨ x.voter then stopBoot t else t

/-- SELF_TEST_DUE: 24 h of Run since the last FULL self-test (R578). -/
def selfTestDue (s : State) : State :=
  if 24 ≤ s.runHours then (s.on (.saf .STEST_DUE)).send .level5 578 else s

/-- Every coil is released at once (R487). -/
def releaseCoils (s : State) : State :=
  ((s.forUpTo 8 (fun c t => (t.off (.saf .CD_STAT_ON) c).off (.saf .CD_STAT_HOLDING) c)).off (.saf .OPEN_MASK)).when
    (s.get (.saf .CSEQ_PSTATE) != 5) (·.set (.saf .CSEQ_PSTATE) 0)

/-- PRES_N_WARNING: in Run and Hold every force bit, the coils, SAFE_HOLD with CAUSE 0x08, the snapshot and the flush; lower only
PRES_WARN (R585, R586). -/
def presWarning (s : State) : State :=
  let t := ((s.on (.aon .LADDER_STAT_PRES_WARN)).off (.aon .PRESENT)).set (.aon .WARN_TIME) s.axleTime
  if 2 ≤ s.ladder ∨ s.flag (.aon .BOOTING) then t
  else
    let t := wearSnapshot (enterSafeHold 8 (releaseCoils (setSafForce 0xFFFF 5 t)))
    if s.flag (.aon .HEAD_ERASED) then ((releaseCoils t).set (.aon .FLUSH) 1).off (.aon .HEAD_ERASED) else releaseCoils t

/-- FLUSH_COMPLETE: slots and header are programmed (R585). -/
def flushComplete (s : State) : State :=
  if s.get (.aon .FLUSH) = 1 then (flushed s).on (.aon .HEAD_VALID) else if s.get (.aon .FLUSH) = 2 then flushed s else s

/-- BROWNOUT: a fall of more than 500 us; forces, coils, and every island but AON without supply; no snapshot and no flush (R590). -/
def brownout (s : State) : State :=
  if !s.flag (.aon .DIP_ON) ∨ s.now ≤ s.get (.aon .DIP_AT) + us 500 then s
  else
    let t := moduleReset (releaseCoils (setSafForce 0xFFFF 5 (noteLoss s)))
    let t := dramOff { t with mem := t.mem.filter (fun c => decide (2 ^ 41 ≤ c.1)) }
    ((((t.set (.saf .ISL_STAT_STATE) 3 0).on (.aon .LADDER_STAT_BROWNOUT)).off (.aon .DIP_ON)).off (.aon .SUPPLY)).off (.aon .FLUSH) |>.off
      (.aon .BOOTING)

/-- BROWNOUT_RECOVERY: the rail has stayed above 16.0 V for 10 ms; a FULL boot from step 3 with wake cause 12 (R591). -/
def brownoutRecovery (s : State) : State :=
  if s.flag (.aon .SUPPLY) ∨ !s.flag (.aon .LADDER_STAT_BROWNOUT) then s
  else
    let t := (((s.on (.aon .SUPPLY)).set (.aon .WAKE_CAUSE_SRC) 12).set (.aon .WAKE_CAUSE_FROM) s.ladder).incSat (.aon .WAKE_CAUSE_CNT)
    startBoot 3 2 (t.off (.aon .LADDER_STAT_STATE))

/-- AON_POWER_ON_RESET: the rail below 6.0 V; AON's registers and axle time start again (R592). -/
def aonReset (s : State) : State :=
  let t := moduleReset (noteLoss s)
  let head := s.get (.aon .HEAD_ERASED)
  let valid := s.get (.aon .HEAD_VALID)
  let keep (e : Entry) : Bool := e.k / 1000 != 8 && e.k / 1000 != 1 && e.k / 1000 != 6
  let byte (c : Host.Cell) : Bool := decide (2 ^ 41 ≤ c.1)
  let t : State := { t with vals := t.vals.filter keep, mem := t.mem.filter byte }
  ((t.set (.ifc .T_OFFS) (ofSigned 64 (-(t.nsNow : Int)))).set (.aon .HEAD_ERASED) head).set (.aon .HEAD_VALID) valid

/-- LADDER_DWELL_EXPIRY (R564). -/
def execLadderDwellExpiry (p : Pins) (s : State) : Host.Outcome State Fault Refusal := done (dwellExpiry p s)
/-- LADDER_STEP_COMPLETE (R566). DEDUCED, log entry 18. -/
def execLadderStepComplete (s : State) : Host.Outcome State Fault Refusal := done (stepComplete s)
/-- WAKE_QUALIFIED (R569). DEDUCED, log entry 18. DEDUCED, log entry 61. -/
def execWakeQualified (src : Fin 16) (s : State) : Host.Outcome State Fault Refusal := done (wakeQualified src.val s)
/-- STORAGE_SUPPLY_SAMPLE (R567). -/
def execStorageSupplySample (code : BitVec 12) (s : State) : Host.Outcome State Fault Refusal := done (supplySample code.toNat s)
/-- ALARM_EXPIRY (R568). -/
def execAlarmExpiry (s : State) : Host.Outcome State Fault Refusal := done (alarmExpiry s)
/-- SUPPLY_RISE (R574). -/
def execSupplyRise (s : State) : Host.Outcome State Fault Refusal := done (supplyRise s)
/-- PRES_N_QUALIFIED (R574). -/
def execPresNQualified (s : State) : Host.Outcome State Fault Refusal := done (presQualified s)
/-- BOOT_STEP (R574). -/
def execBootStep (k : Fin 19) (s : State) : Host.Outcome State Fault Refusal := done (bootStep k.val s)
/-- SELF_TEST_COMPLETE (R579). DEDUCED, log entry 60. -/
def execSelfTestComplete (x : SelfTest) (s : State) : Host.Outcome State Fault Refusal := done (selfTestComplete x s)
/-- SELF_TEST_DUE (R578). -/
def execSelfTestDue (s : State) : Host.Outcome State Fault Refusal := done (selfTestDue s)
/-- PRES_N_WARNING (R585). -/
def execPresNWarning (s : State) : Host.Outcome State Fault Refusal := done (presWarning s)
/-- FLUSH_COMPLETE (R585). -/
def execFlushComplete (s : State) : Host.Outcome State Fault Refusal := done (flushComplete s)
/-- PRES_N_REASSERT (R587): asserted again for 10 ms with the rail kept; no reboot. -/
def execPresNReassert (s : State) : Host.Outcome State Fault Refusal := done (s.on (.aon .PRESENT))
/-- SUPPLY_DIP (R589). -/
def execSupplyDip (s : State) : Host.Outcome State Fault Refusal := done ((s.on (.aon .DIP_ON)).set (.aon .DIP_AT) s.now)
/-- DIP_RIDE_THROUGH (R589). -/
def execDipRideThrough (s : State) : Host.Outcome State Fault Refusal :=
  done (if s.flag (.aon .DIP_ON) ∧ s.now ≤ s.get (.aon .DIP_AT) + us 500 then
    (s.off (.aon .DIP_ON)).incSat (.aon .LADDER_STAT_BOR_DIP) else s)
/-- BROWNOUT (R590). -/
def execBrownout (s : State) : Host.Outcome State Fault Refusal := done (brownout s)
/-- BROWNOUT_RECOVERY (R591). -/
def execBrownoutRecovery (s : State) : Host.Outcome State Fault Refusal := done (brownoutRecovery s)
/-- AON_POWER_ON_RESET (R592). DEDUCED, log entry 61. -/
def execAonPowerOnReset (s : State) : Host.Outcome State Fault Refusal := done (aonReset s)

end Sys2Proof.Machine
end

