-- ==== Sys2Proof/Machine/Commands.lean ====
section
/-!
DEFINITION. The mailbox commands of the host (chapter 15): login and sessions, modes, drive, status, charging, faults, packages, limits,
islands, keys, firmware and debug. Roles: 1 Operator, 2 Installer, 3 Maker.
-/
namespace Sys2Proof.Machine
open Sys2Proof

/-- PLEN equal to a number. -/
def lenIs (n : Nat) : Nat → Bool := fun l => l == n

/-- Minutes in fine ticks. -/
def mins (n : Nat) : Nat := secs (60 * n)

/-- HELLO (Table: Commands): the highest version both speak, from 3.0 to 3.4, and the module's identity. -/
def hello (pvMin pvMax : Nat) (s : State) : Ans :=
  if pvMax < pvMin ∨ pvMax < 0x30 ∨ 0x34 < pvMin then ans 5 0 s
  else
    let t := s.set (.host .PV) (min pvMax 0x34)
    ansOk (packFields [(min pvMax 0x34, 1), (0x0030303834_2D5A59, 8), (3, 1), (3 + 256 * 4, 2), (s.get (.host .SERIAL), 8),
      (Config.devKeyId.toNat, 8), (s.get (.saf .AXLE_MODE_MODE), 1), (s.get (.saf .AXLE_MODE_CAUSE), 1)]) t

/-- The sessions open, and whether one of them is an Installer or Maker session (R553). -/
def State.openSessions (s : State) : Nat := ((List.range 4).filter (fun k => s.get (.host .SES_ID) k != 0)).length
/-- A login for the role would break a limit of R553. -/
def State.loginFull (s : State) (role : Nat) : Bool :=
  decide (4 ≤ s.openSessions) || (decide (2 ≤ role) && (List.range 4).any (fun k => decide (2 ≤ s.get (.host .SES_ROLE) k)))

/-- LOGIN_START (R552, R553, R555): M_NONCE, the ephemeral private key and M_SIG, which the device key signs, are free values; M_EPH is the
public key of the private one. -/
def loginStart (n role key : Nat) (s : State) : Ans :=
  if role = 0 ∨ 3 < role then ans 5 0 s
  else if s.flag (.host .BARRED) role then ans 0x0F 0 s
  else if s.loginFull role then ans 2 2 s
  else
    let a := s.freeWords 4
    let b := a.2.freeWords 4
    let c := b.2.freeWords 8
    let d := 1 + b.1 % (p256N - 1)
    let q := p256Public d
    ansOk (packFields [(a.1, 32), (q.1, 32), (q.2, 32), (c.1, 64)]) ((((((c.2.on (.host .LG_ON) n).set (.host .LG_ROLE) role n).set
      (.host .LG_KEY) key n).set (.host .LG_AT) s.now n).set (.host .LG_NONCE) a.1 n).set (.host .LG_EPH) d n)

/-- The place of a key stored for a role. -/
def State.keyPlace (s : State) (role key : Nat) : Option Nat :=
  (List.range 28).find? (fun x => s.get (.host .KEY_ROLE) x == role && s.get (.host .KEY_ID) x == key)

/-- A key is stored for a role. -/
def State.keyStored (s : State) (role key : Nat) : Bool := (s.keyPlace role key).isSome

/-- The signature is that of the message under the key stored for a role (R552). -/
def State.signed (s : State) (role key sig : Nat) (msg : List (BitVec 8)) : Bool :=
  match s.keyPlace role key with
  | none => false
  | some x => ecdsaOk (s.get (.host .KEY_X) x) (s.get (.host .KEY_Y) x) (sig % 2 ^ 256) (sig / 2 ^ 256) msg

/-- M_NONCE ‖ M_EPH ‖ H_EPH ‖ ROLE ‖ KEY_ID ‖ SERIAL, which H_SIG signs (R552). -/
def State.loginMsg (s : State) (n heph : Nat) : List (BitVec 8) :=
  let q := p256Public (s.get (.host .LG_EPH) n)
  bytesOf (packFields [(s.get (.host .LG_NONCE) n, 32), (q.1, 32), (q.2, 32), (heph, 64), (s.get (.host .LG_ROLE) n, 1),
    (s.get (.host .LG_KEY) n, 8), (s.get (.host .SERIAL), 8)]) 177

/-- The session key: HKDF with salt M_NONCE over the shared secret, info "NW-SK" ‖ SESSION ‖ ROLE (R552). -/
def State.sessionKey (s : State) (n heph id : Nat) : Nat :=
  let z := ecdh (s.get (.host .LG_EPH) n) (heph % 2 ^ 256) (heph / 2 ^ 256)
  let nonce := (bytesOf (s.get (.host .LG_NONCE) n) 32).map (·.toNat)
  let info := [0x4E, 0x57, 0x2D, 0x53, 0x4B] ++ (bytesOf (id + 2 ^ 32 * s.get (.host .LG_ROLE) n) 5).map (·.toNat)
  leNat ((hkdf16 nonce z info).map (BitVec.ofNat 8))

/-- The ephemeral keys and the nonce of a login are discarded at its end (R552). -/
def loginOver (n : Nat) (s : State) : State := ((s.off (.host .LG_ON) n).off (.host .LG_NONCE) n).off (.host .LG_EPH) n

/-- A failed LOGIN_PROVE: counted; the fifth within 10 min bars the Installer or Maker role (R555). The status of the answer is not
stated: a free value. -/
def loginFails (n role : Nat) (s : State) : Ans :=
  let t := ((loginOver n s).incSat (.host .LOGIN_FAIL)).forUpTo 4 (fun i t => t.set (.host .FAIL_AT)
    (s.get (.host .FAIL_AT) role (3 - i)) role (4 - i))
  let t := t.set (.host .FAIL_AT) (s.now + 1) role 0
  let old := t.get (.host .FAIL_AT) role 4
  let t := t.when (decide (2 ≤ role) && old != 0 && decide (s.now < old - 1 + mins 10)) (·.on (.host .BARRED) role)
  ⟨(t.free 8).1, 0, 0, (t.free 8).2⟩

/-- LOGIN_PROVE: H_SIG is verified under the key named, and a session opens with an identifier that no open session has (R552 to R555). An
H_EPH that is no point of the curve fails as a signature does. DEDUCED, log entry 80. -/
def loginProve (n heph hsig : Nat) (s : State) : Ans :=
  let role := s.get (.host .LG_ROLE) n
  if !s.flag (.host .LG_ON) n ∨ s.get (.host .LG_AT) n + secs 10 < s.now then ans 5 0 (loginOver n s)
  else if !p256On (heph % 2 ^ 256) (heph / 2 ^ 256) ∨ !s.signed role (s.get (.host .LG_KEY) n) hsig (s.loginMsg n heph) then
    loginFails n role s
  else if s.loginFull role then ans 2 2 (loginOver n s)
  else match (List.range 4).find? (fun k => s.get (.host .SES_ID) k == 0) with
  | none => ans 2 2 s
  | some k =>
    let r := s.free 29
    let id := 8 * r.1 + k + 1
    let t := ((((loginOver n r.2).set (.host .SES_ID) id k).set (.host .SES_ROLE) role k).set (.host .SES_KEY)
      (s.get (.host .LG_KEY) n) k).set (.host .SES_PORT) (s.get (.host .MB_PORT) n) k
    let t := ((t.set (.host .SES_AT) s.now k).set (.host .SES_VER) (s.get (.host .PV)) k).off (.host .SES_IN) k |>.off (.host .SES_OUT) k
    ansOk (packFields [(id, 4), (if role = 1 then 5 else 600, 2)]) (t.set (.host .SES_SK) (s.sessionKey n heph id) k)

/-- The session of a mailbox's command, by slot. -/
def State.mbSlot (s : State) (n : Nat) : Nat := s.mbSession n - 1

/-- LOGOUT (R554): the reply goes out in the session, which then ends. -/
def logout (n : Nat) (aud : Bool) (s : State) : State :=
  let k := s.mbSlot n
  let t := serve n 4 1 (lenIs 0) 0 (audited aud false n 4 [] (ansOk 0)) s
  if s.servable n 4 ∧ s.mbSession n ≠ 0 ∧ t.get (.host .MB_ST) n = 0 ∧ !t.flag (.host .MB_BUSY) n then endSession k aud t else t

/-- MODE_REQ (R537): the safety island decides; every refusal sets REFUSED (R54, R55); LINE is left through the converter's planned
hand-over while it carries current (R376). -/
def modeReq (n tgt : Nat) (p : Pins) (s : State) : Ans :=
  let val (t : State) := t.get (.saf .AXLE_MODE_MODE) + 256 * t.get (.saf .AXLE_MODE_PREV)
  if 6 < tgt then ans 5 0 (s.on (.saf .AXLE_MODE_REFUSED))
  else if tgt = 5 ∧ s.mbRole n < 2 then ans 7 0 (s.on (.saf .AXLE_MODE_REFUSED))
  else if tgt = 6 then let t := enterSafeHold 7 s; ansOk (val t) t
  else if s.get (.saf .AXLE_MODE_MODE) = 4 ∧ (tgt = 1 ∨ tgt = 2) ∧ !s.flag (.saf .AXLE_MODE_BUSY) ∧ !s.lineZero ∧
      (s.get (.drv .CV_STATE) 0 = 4 ∨ s.get (.drv .CV_STATE) 0 = 5) then
    let t := cvLeave (s.set (.drv .CV_HOST) (tgt + 1) 0)
    ansOk (val t) t
  else match s.modeReply tgt (s.mbRole n) p with
  | .started => let t := startMode tgt s; ansOk (val t) t
  | .busy => ans 2 2 (s.on (.saf .AXLE_MODE_REFUSED))
  | .refused => ans 9 tgt (s.on (.saf .AXLE_MODE_REFUSED))

/-- TRANSPORT_REQ (R430): coils opened, snapshot written, the descent to Transport begun with its flush (R566). -/
def transportReq (p : Pins) (s : State) : Ans :=
  if s.get (.saf .AXLE_MODE_MODE) ≠ 0 ∨ s.flag (.saf .AXLE_MODE_BUSY) then ans 8 0 s
  else if 1 < s.get (.sns .CP_STAT_STATE) ∨ p.coupler ∨ p.line ∨ p.wake ∨ s.flag (.aon .LADDER_STAT_MOVING) then ansRefused s
  else ansOk 0 (startStep 5 true (wearSnapshot (openDrivers 0xFF true s)))

/-- DRIVE_CMD (R538): a valid command supplies both motors, and ends limp-home (R343). -/
def driveCmd (ca da cb db alive : Nat) (s : State) : Ans :=
  if 0x7FFF < ca ∨ 0x7FFF < cb ∨ 1 < da ∨ 1 < db then ans 5 0 s
  else if s.get (.saf .AXLE_MODE_MODE) ≠ 2 ∧ s.get (.saf .AXLE_MODE_MODE) ≠ 4 then ans 8 0 s
  else if s.get (.host .DRV_ALIVE) = alive + 1 then ansOk 0 s
  else
    let one (m c d : Nat) (t : State) := (((t.set (.drv .TR_CMD) c m).set (.drv .TR_DIR) d m).set (.drv .TR_CMD_AT) s.now m).off (.drv .TR_LIMP) m
    ansOk 0 (one 1 cb db (one 0 ca da (s.set (.host .DRV_ALIVE) (alive + 1))))

/-- VEHICLE_STATE (R539). -/
def vehicleState (spd odo : Nat) (s : State) : Ans :=
  ansOk 0 (((s.set (.drv .VEH_SPD) spd).set (.drv .VEH_ODO) odo).set (.drv .VEH_AT) (s.now + 1))

/-- SHIFT_REQ (R449, R539): a long command. -/
def shiftReq (n tgt : Nat) (s : State) : Ans :=
  match s.shiftRefusal tgt with
  | none => ⟨1, 0, 0, (startShift tgt s).set (.drv .GB_MBX) (n + 1)⟩
  | some 1 => ans 2 2 s
  | some 3 => ans 5 0 s
  | some 4 => ans 8 0 s
  | _ => ansRefused s

/-- PARK_REQ (R451, R452): a long command. -/
def parkReq (n v : Nat) (s : State) : Ans :=
  if 1 < v then ans 5 0 s
  else match s.parkRefusal (v == 1) with
  | none => ⟨1, 0, 0, (startPark (v == 1) s).set (.drv .PL_MBX) (n + 1)⟩
  | some 1 => ans 2 2 s
  | some 4 => ans 2 2 s
  | some 3 => ans 8 0 s
  | _ => ansRefused s

/-- Lagoon address and size of a status block (R540). -/
def blockOf (b : Nat) : Nat × Nat :=
  match b with
  | 0 => (0x1800002000, 128)
  | 1 => (0x1800002080, 128)
  | 2 => (0x1800002100, 64)
  | 3 => (0x1800002140, 64)
  | 4 => (0x1800002180, 64)
  | _ => (0x18000021C0, 64)

/-- STATUS_READ (R540). -/
def statusRead (b : Nat) (s : State) : Ans :=
  if 5 < b then ans 5 0 s else ansOk (s.readN (blockOf b).1 (blockOf b).2) s

/-- SUBSCRIBE (R540): it replaces the session's previous one. -/
def subscribe (n mask period trace : Nat) (s : State) : Ans :=
  if 0x3F < mask ∨ period < 10 ∨ 10000 < period then ans 5 0 s
  else
    let k := s.mbSlot n
    ansOk 0 (((((s.set (.host .SUB_MASK) mask k).set (.host .SUB_PERIOD) period k).set (.host .SUB_TRACE) trace k).set (.host .SUB_SEQ)
      (s.get (.mem .FR_SEQ)) k).set (.host .SUB_AT) s.now k)

/-- Send a REPORT of a block in a session (R540). -/
def report (k chan val : Nat) (s : State) : State := (nextSeq (k + 1) s).send .frame 3 chan val

/-- The engine whose trace block a recorder slot holds, with its SEQ above `since` (R515, R540). -/
def State.slotEngine (s : State) (slot since : Nat) : Option Nat :=
  let d := s.frDesc slot
  let src := s.readN (d + 4) 1
  if s.readN d 4 ≤ since ∨ src < 0x10 ∨ 0x1F < src then none else some (src - 0x10)

/-- SUBSCRIPTION_REPORT (R540): every PERIOD each selected block, then each new trace slot of the selected engines. -/
def subscriptionReport (k : Nat) (s : State) : State :=
  if s.get (.host .SES_ID) k = 0 ∨ s.get (.host .SUB_PERIOD) k = 0 ∨ !s.narrows ∨
      s.now < s.get (.host .SUB_AT) k + us (1000 * s.get (.host .SUB_PERIOD) k) then s
  else
    let t := (s.set (.host .SUB_AT) s.now k).forUpTo 6 (fun b t => if s.bit (.host .SUB_MASK) b k then report k b (s.readN (blockOf b).1 (blockOf b).2) t else t)
    let since := s.get (.host .SUB_SEQ) k
    let cnt := min (s.get (.mem .FR_SEQ) - since) s.frSlots
    let t := t.forUpTo cnt (fun i t =>
      let slot := (s.get (.mem .FR_NEXT) + s.frSlots - cnt + i) % max 1 s.frSlots
      match s.slotEngine slot since with
      | some e => if s.bit (.host .SUB_TRACE) e k then report k (0x10 + e) (s.readN (s.frData slot) 4096) t else t
      | none => t)
    t.set (.host .SUB_SEQ) (s.get (.mem .FR_SEQ)) k

/-- FR_INFO. -/
def frInfo (s : State) : Ans :=
  ansOk (packFields [(s.frBase, 5), (s.get (.mem .FR_SIZE_SEGS), 2), (s.get (.mem .FR_SIZE_EN), 1), (s.get (.mem .FR_SEQ), 4),
    (s.get (.mem .FR_ALLOC_SLOT), 4)]) s

/-- CHG_START (R401, R417). -/
def chgStartReq (s : State) : Ans :=
  if s.chgRunning then ans 2 2 s
  else if s.get (.saf .AXLE_MODE_MODE) ≠ 3 ∨ s.flag (.saf .AXLE_MODE_BUSY) then ans 8 0 s
  else if !s.flag (.drv .CH_COUPLER) ∨ s.chgBad.isSome then ansRefused s
  else let t := chgStart s; ansOk (t.get (.drv .CH_STATE)) t

/-- CHG_STOP: end code 0x0B (R418). -/
def chgStopReq (s : State) : Ans :=
  if !s.chgRunning then ansRefused s else let t := chgEnd 0x0B s; ansOk (t.get (.drv .CH_END)) t

/-- CHG_PAUSE (R417, R424). -/
def chgPause (v : Nat) (s : State) : Ans :=
  if 1 < v then ans 5 0 s else if !s.chgRunning then ansRefused s else ansOk 0 (s.set (.drv .CH_PAUSE) v)

/-- The fault items that are present: (ITEM, INDEX) (Table: Fault items). -/
def State.faultItems (s : State) : List (Nat × Nat) :=
  ((List.range 77).filter s.srcLatched).map (1, ·) ++ ((List.range 16).filter (fun g => s.bit (.grd .OG_LATCH) g)).map (2, ·) ++
    ((List.range 41).filter (fun n => if n < 32 then s.bit (.grd .LEGF_LATCH) n else s.bit (.grd .ALEGF_LATCH) (n - 32))).map (3, ·) ++
    ((List.range 41).filter (fun n => s.flag (.edge .LEG_STAT_BOOT_UV) n)).map (4, ·) ++
    ((List.range 2).filter (fun m => s.get (.drv .TR_FLAGS) m &&& 0xB != 0)).map (5, ·) ++
    ((List.range 2).filter (fun c => s.get (.drv .CV_FLAGS) c != 0)).map (6, ·) ++
    (if s.get (.drv .CH_FLAGS) / 2 ≠ 0 then [(7, 0)] else []) ++ (if s.bit (.drv .CH_FLAGS) 0 then [(8, 0)] else []) ++
    (if s.get (.drv .GB_GEAR) = 7 ∧ s.get (.drv .GB_CAUSE) ≠ 0 then [(9, 0)] else []) ++
    (if s.flag (.saf .HOLD_LATCHED) then [(10, 0)] else []) ++
    ((List.range 8).filter (fun c => s.flag (.saf .CD_STAT_OPEN_LOAD) c || s.flag (.saf .CD_STAT_SHORT) c)).map (11, ·) ++
    (if s.get (.host .FLAGS) ≠ 0 then [(12, 0)] else []) ++
    ((List.range 3).filter (fun b => s.flag (.act .BR_STAT_OC_LATCH) b)).map (13, ·)

/-- FAULT_LIST: at most 31 entries; CLASS and DETAIL of an entry are not stated: free values. -/
def faultList (s : State) : Ans :=
  let l := s.faultItems.take 31
  let r := l.foldl (fun (x : Nat × Nat × State) it =>
    let f := x.2.2.free 40
    (x.1 + (it.1 + 256 * it.2 + 2 ^ 24 * f.1) * 256 ^ (1 + 8 * x.2.1), x.2.1 + 1, f.2)) (l.length, 0, s)
  ansOk r.1 r.2.2

/-- The indices of a fault item (Table: Fault items). -/
def itemIndices (item : Nat) : Nat :=
  match item with
  | 1 => 77 | 2 => 16 | 3 => 41 | 4 => 41 | 5 => 2 | 6 => 2 | 7 => 1 | 8 => 1 | 9 => 1 | 10 => 1 | 11 => 8 | 12 => 1 | 13 => 3 | _ => 0

/-- The least role that clears a fault item (Table: Fault items). -/
def State.itemRole (s : State) (item ix : Nat) : Nat :=
  match item with
  | 2 => if [0x61, 0x62].contains (s.get (.grd .OG_STAT_CAUSE) ix) then 1 else 2
  | 6 => if s.bit (.drv .CV_FLAGS) 1 ix then 2 else 1
  | 7 => 1
  | 10 => s.holdRole
  | 12 => 1
  | _ => 2

/-- Clear a fault item; none where the latch rules refuse it (R241, R242, R248, R551). -/
def clearItem (item ix : Nat) (s : State) : Option State :=
  match item with
  | 1 =>
    let t := sourceLatchClear (ix / 32) (2 ^ (ix % 32)) s
    if t.srcLatched ix then none else some t
  | 2 =>
    let t := groupLatchClear (2 ^ ix) s
    if t.bit (.grd .OG_LATCH) ix then none else some t
  | 3 =>
    if ix < 32 then
      let t := legFaultClear (2 ^ ix) s
      if t.bit (.grd .LEGF_LATCH) ix then none
      else some ((t.off (.edge .LEG_STAT_IL_FAULT) ix).off (.edge .LEG_STAT_INTERLOCK) ix)
    else some (((alegFaultClear (2 ^ (ix - 32)) s).off (.edge .LEG_STAT_IL_FAULT) ix).off (.edge .LEG_STAT_INTERLOCK) ix)
  | 4 => some (driveLeg ix (s.off (.edge .LEG_STAT_BOOT_UV) ix))
  | 5 =>
    let t := trFlag ix 0 false (trFlag ix 1 false (trFlag ix 3 false s))
    some ((t.off (.drv .TR_SENSF) ix).forUpTo 4 (fun x t => t.off (.drv .TR_IMPL) (4 * ix + x)))
  | 6 => some (clearConverter ix s)
  | 7 => some (s.set (.drv .CH_FLAGS) (s.get (.drv .CH_FLAGS) % 2))
  | 8 => some (s.clrBit (.drv .CH_FLAGS) 0)
  | 9 => some (s.off (.drv .GB_CAUSE))
  | 10 => some (s.off (.saf .HOLD_LATCHED))
  | 11 => some ((s.off (.saf .CD_STAT_OPEN_LOAD) ix).off (.saf .CD_STAT_SHORT) ix)
  | 12 => some ((((((s.off (.host .FLAGS)).off (.host .TAG_ERR)).off (.host .SEQ_ERR)).off (.host .BUSY_CNT)).off (.host .DROP_CNT)).off
      (.host .LOGIN_FAIL))
  | _ => if s.flag (.act .BR_STAT_OC) ix then none else some (s.off (.act .BR_STAT_OC_LATCH) ix)

/-- FAULT_CLEAR (R551). -/
def faultClear (n item ix : Nat) (s : State) : Ans :=
  if itemIndices item ≤ ix then ans 5 0 s
  else if s.mbRole n < s.itemRole item ix then ans 7 0 s
  else match clearItem item ix s with
  | some t => ansOk 0 t
  | none => ans 9 1 s

/-- Where a package is staged (R559). -/
def stagingBase : Nat := 0x1A0000000

/-- The check of a staged image against codes 0x01 to 0x09 of Table: Package check codes (R559). -/
def State.stagedCode (s : State) : Nat :=
  let c := s.headerCode stagingBase
  if c ≠ 0 then c else if s.sectionCode stagingBase false = 8 then 8 else 0

/-- PKG_COMMIT (R559): the slot in use and too large an image are refused; a failed image check leaves the slot unchanged; otherwise the
slot is erased and programmed. -/
def pkgCommit (n slot size : Nat) (s : State) : Ans :=
  if 1 < slot ∨ slot = s.get (.host .SLOT_PTR) ∨ 142606336 < size then ans 5 0 s
  else
    let chk := s.stagedCode
    let t := (s.set (.host .MB_PAR) (chk + 256 * slot + 512 * size) n)
    if chk ≠ 0 then ⟨1, 0, 0, t⟩
    else ⟨1, 0, 0, ((zeroBytes (slotAddr slot) 0x8800000 t).off (.host .PKG_FULL) slot).send .flash (slotAddr slot) size⟩

/-- PKG_ACTIVATE (R94, R96): codes 0x0C and 0x0E are checked when the command arrives. -/
def pkgActivate (slot : Nat) (s : State) : Ans :=
  if 1 < slot then ans 5 0 s
  else if s.flag (.host .ACT_ON) then ans 2 2 s
  else if !s.activationOk then ans 0x0C 0x0C s
  else if !s.flag (.host .PKG_FULL) slot then ans 0x0C 0x0E s
  else ⟨1, 0, 0, startActivation 0 slot s⟩

/-- FLOOR_RAISE (R97): the floor becomes the SEQ of the active package, and is never lowered. -/
def floorRaise (s : State) : Ans :=
  if !s.flag (.loop .CHART_STAT_LOADED) then ansRefused s
  else
    let f := max (s.get (.host .FLOOR)) (s.readN (slotAddr (s.get (.loop .CHART_STAT_SLOT)) + 0x14) 4)
    ansOk f (s.set (.host .FLOOR) f)

/-- PKG_INFO: SEQ, AXLE_CFG and BUILD_TIME of both slots; the codes of STATE are not stated: free values. -/
def pkgInfo (s : State) : Ans :=
  let one (k : Nat) : List (Nat × Nat) := [(s.readN (slotAddr k + 0x14) 4, 4), (s.readN (slotAddr k + 0x24) 4, 4), (s.readN (slotAddr k + 0x48) 8, 8)]
  let a := s.free 8
  let b := a.2.free 8
  ansOk (packFields (one 0 ++ [(a.1, 1)] ++ one 1 ++ [(b.1, 1)])) b.2

/-- Size of a record of the parameter sets (R322, R361, R400, R448). -/
def recordSize (i : Nat) : Nat := match i with | 0 => 192 | 1 => 192 | 2 => 64 | 3 => 64 | _ => 128

/-- PARAM_WRITE (R523, R541, R580): DATA is the bound, the damage, the UDP port or bytes of the record. A record that governs RWL fields
waits for a reconfiguration window, in which the registers are written. -/
def paramWrite (r : ParamRec) (off : Nat) (data : List (BitVec 8)) (s : State) : Ans :=
  match r with
  | .record i =>
    if s.get (.drv .REC_ADDR) i.val = 0 then ansRefused s
    else if data.length = 0 ∨ recordSize i.val < off + data.length then ans 5 0 s
    else ansOk 0 (s.writeBytes (s.get (.drv .REC_ADDR) i.val + off) data)
  | .bound i =>
    if s.get (.host .LIM_MAKER) i.val < leNat data then ans 0x0B 0 s else ansOk 0 (s.set (.host .LIM_INST) (leNat data) i.val)
  | .wear x => ansOk 0 (wearSnapshot (s.set (.drv .TR_D) (leNat data) x.val))
  | .udp i => ansOk 0 (s.set (.host .UDP_PORT) (leNat data) i.val)
  | .locked => ansOk 0 s
  | .unknown => ans 5 0 s

/-- What a PARAM_WRITE replaces, for its audit entry (R556). -/
def State.paramOld (s : State) (r : ParamRec) (off n : Nat) : List (BitVec 8) :=
  match r with
  | .record i => s.readBytes (s.get (.drv .REC_ADDR) i.val + off) n
  | .bound i => bytesOf (s.get (.host .LIM_INST) i.val) n
  | .wear x => bytesOf (s.get (.drv .TR_D) x.val) n
  | .udp i => bytesOf (s.get (.host .UDP_PORT) i.val) n
  | .locked | .unknown => []

/-- LIMIT_SET (R541). -/
def limitSet (l v : Nat) (s : State) : Ans :=
  if 3 < l then ans 5 0 s
  else if s.get (.host .LIM_INST) l < v then ans 0x0B 0 s
  else ansOk v (s.set (.host .LIM) v l)

/-- ABS_LIMIT_SET (R541). -/
def absLimitSet (l v : Nat) (s : State) : Ans := if 3 < l then ans 5 0 s else ansOk 0 (s.set (.host .LIM_MAKER) v l)

/-- INJECT: the images are written; the last written is INJ_CTRL (R168). -/
def injectReq (n e : Nat) (img : List Word) (s : State) : Ans :=
  if 15 < e then ans 5 0 s
  else if s.get (.saf .AXLE_MODE_MODE) ≠ 5 then ans 8 0 s
  else
    let b := 0x1030000000 + 0x100000 * e + 0xE00
    let w (k : Nat) : Nat := (img[k]?.map (·.toNat)).getD 0
    let t := [1, 2, 3, 4].foldl (fun t k => storeWord .ifc (b + 4 * k) (w k) t) s
    let t := injFields e (w 0) (t.off (.loop .INJ_STAT_REFUSED) e)
    let t := if (w 0).testBit 1 then injAbort e 3 t else if (w 0).testBit 0 then injStart e t else t
    ⟨1, 0, 0, t.set (.host .MB_PAR) e n⟩

/-- AUDIT_EXPORT (R557): a long command. -/
def auditExport (n first cnt : Nat) (s : State) : Ans :=
  if 65536 < cnt then ans 5 0 s else ⟨1, 0, 0, s.set (.host .MB_PAR) (first + 2 ^ 32 * cnt) n⟩

/-- The entries an export copies: those of the range that are held (R557). -/
def State.exported (s : State) (first cnt : Nat) : List Nat :=
  let newest := s.get (.host .AUD_SEQ)
  let oldest := max 1 (max first (newest + 1 - 65536))
  (List.range (min (first + cnt) (newest + 1) - oldest)).map (· + oldest)

/-- Copy audit entries into the export buffer from its base, in SEQ order (R557). -/
def exportEntries (l : List Nat) (s : State) : State :=
  (l.zipIdx).foldl (fun t x => moveRange (auditAddr x.1) 256 (0x1AF000000 + 256 * x.2) t) s

/-- ISLAND_REQ (R542): the reply to a transition is given once BUSY is 0. -/
def islandReq (n i st : Nat) (force : Bool) (s : State) : Ans :=
  let read (t : State) := packFields [(t.get (.saf .ISL_STAT_STATE) i, 1), (t.readReg (0x1000000104 + 16 * i), 4), (t.get (.saf .ISL_DEP) i, 2)]
  if !([0, 1, 5, 6].contains (s.get (.saf .AXLE_MODE_MODE))) then ans 8 0 s
  else if i = 0 ∨ i = 12 ∨ 13 < i ∨ (5 < st ∧ st ≠ 0xFF) then ans 5 0 s
  else if st = 0xFF then ansOk (read s) s
  else
    let t := islandCtrl i (st + 16 * force.toNat) (s.off (.saf .ISL_STAT_REFUSED) i)
    let u := t.set (.saf .ISL_STAT_REFUSED) (s.get (.saf .ISL_STAT_REFUSED) i) i
    if t.flag (.saf .ISL_STAT_REFUSED) i then ans 9 1 (t.off (.saf .ISL_STAT_REFUSED) i)
    else if t.flag (.saf .ISL_STAT_BUSY) i then ⟨1, 0, i, u.set (.host .MB_PAR) i n⟩
    else ansOk (read u) u

/-- ISLAND_REQ in its mailbox: while the island moves the command waits without a reply (R542). -/
def islandReqServe (n i st : Nat) (force aud : Bool) (s : State) : State :=
  let t := serve n 0x0805 2 (lenIs 3) (i + 256 * st + 65536 * force.toNat) (audited aud false n 0x0805 [] (islandReq n i st force)) s
  if t.flag (.host .MB_RUN) n ∧ !s.flag (.host .MB_RUN) n then { t with sent := t.sent.tail } else t

/-- The slots of the key store for a role: 4 Maker, 8 Installer, 16 Operator keys. -/
def keySlots (role : Nat) : List Nat :=
  match role with
  | 3 => List.range 4 | 2 => (List.range 8).map (· + 4) | 1 => (List.range 16).map (· + 12) | _ => []

/-- KEY_INSTALL: Maker keys are written at manufacture only; KEY_ID is the head of the key's digest. -/
def keyInstall (n role x y : Nat) (s : State) : Ans :=
  if role ≠ 1 ∧ role ≠ 2 then ans 5 0 s
  else if s.mbRole n < role + 1 then ans 7 0 s
  else
    let id := sha256 (bytesOf x 32 ++ bytesOf y 32) % 2 ^ 64
    if s.keyStored role id then ansOk id s
    else match (keySlots role).find? (fun k => s.get (.host .KEY_ROLE) k == 0) with
    | none => ansRefused s
    | some k => ansOk id ((((s.set (.host .KEY_ROLE) role k).set (.host .KEY_ID) id k).set (.host .KEY_X) x k).set (.host .KEY_Y) y k)

/-- KEY_REVOKE: the key goes, and its sessions end (R554). -/
def keyRevoke (n key : Nat) (s : State) : Ans :=
  match (List.range 28).find? (fun k => s.get (.host .KEY_ROLE) k != 0 && s.get (.host .KEY_ID) k == key) with
  | none => ans 5 0 s
  | some k =>
    let role := s.get (.host .KEY_ROLE) k
    if role = 3 ∨ s.mbRole n < role + 1 then ans 7 0 s
    else
      let t := (((s.off (.host .KEY_ROLE) k).off (.host .KEY_ID) k).off (.host .KEY_X) k).off (.host .KEY_Y) k
      ansOk 0 (t.forUpTo 4 (fun i t => if s.get (.host .SES_KEY) i = key ∧ s.get (.host .SES_ID) i ≠ 0 then endSession i true t else t))

/-- CERT_INSTALL: the staged contract certificate is kept in the key store (R416). -/
def certInstall (size : Nat) (s : State) : Ans := ansOk 0 ((s.set (.host .CERT) size).send .store 0x0903 size)

/-- FW_COMMIT: an image of a firmware area, 32 MiB, other than the running one. -/
def fwCommit (n slot size chk : Nat) (s : State) : Ans :=
  if 1 < slot ∨ slot = s.get (.host .FW_SLOT) ∨ 0x2000000 < size then ans 5 0 s
  else
    let t := s.set (.host .MB_PAR) (chk + 256 * slot) n
    if chk ≠ 0 then ⟨1, 0, 0, t⟩ else ⟨1, 0, 0, (t.off (.host .FW_FULL) slot).send .flash (0x00400000 + 0x2000000 * slot) size⟩

/-- FW_ACTIVATE: OK, then a module reset, which boots from the slot. -/
def fwActivate (slot : Nat) (s : State) : Ans :=
  if 1 < slot ∨ (!s.flag (.host .FW_FULL) slot ∧ slot ≠ s.get (.host .FW_SLOT)) then ans 5 0 s
  else ansOk 0 (s.set (.host .FW_SLOT) slot)

/-- FW_ACTIVATE in its mailbox: the module reset follows the reply. -/
def fwActivateServe (n slot : Nat) (aud : Bool) (s : State) : State :=
  let t := serve n 0x0A02 3 (lenIs 1) slot (audited aud false n 0x0A02 [] (fwActivate slot)) s
  if s.servable n 0x0A02 ∧ s.narrows ∧ t.get (.host .MB_ST) n = 0 then
    startBoot 0 2 (moduleReset (setSafForce 0xFFFF 5 t))
  else t

/-- DEBUG_START: the challenge D_NONCE is a free value (R490). -/
def debugStart (s : State) : Ans :=
  let r := s.freeWords 4
  ansOk r.1 (((r.2.on (.host .DBG_REQ)).set (.host .DBG_AT) s.now).set (.host .DBG_NONCE) r.1)

/-- DEBUG_PROVE: the Maker key of the session signs D_NONCE ‖ SERIAL; granted only in STOWED or COMMISSION, and as a login within 10 s of its
challenge (R490, R552); a refusal sets REFUSED. DEDUCED, log entry 55. -/
def debugProve (n sig : Nat) (s : State) : Ans :=
  let m := s.get (.saf .AXLE_MODE_MODE)
  let ok := s.signed 3 (s.mbKey n) sig (bytesOf (s.get (.host .DBG_NONCE) + 2 ^ 256 * s.get (.host .SERIAL)) 40)
  if s.flag (.host .DBG_REQ) ∧ s.now ≤ s.get (.host .DBG_AT) + secs 10 ∧ ok ∧ (m = 0 ∨ m = 5) then
    ansOk 0 (((s.on (.saf .DBG_UNLOCKED)).off (.host .DBG_REQ)).off (.host .DBG_NONCE))
  else ansRefused (((s.on (.saf .DBG_REFUSED)).off (.host .DBG_REQ)).off (.host .DBG_NONCE))

/-- BOOT_HEADER: the signed SPLIT byte for the next boot (R466). -/
def bootHeader (split : Nat) (sigOk : Bool) (s : State) : Ans :=
  if sigOk then ansOk 0 ((s.set (.host .SPLIT) split).send .store 0x0A05 split) else ansRefused s

/-- The final reply of a long command, once its work is done: STATUS, DETAIL, parameters and the state (R535, R539). `st` is the outcome of
the flash's programming, of the export, or of the firmware image; a package is verified by its section hashes as programmed (R559). -/
def finalAnswer (n st : Nat) (s : State) : Option Ans :=
  let par := s.get (.host .MB_PAR) n
  match s.get (.host .MB_CODE) n with
  | 0x0203 =>
    if s.flag (.drv .GB_BUSY) then none
    else some ⟨if s.get (.drv .GB_CAUSE) = 0 then 0 else 0x10, 0, s.get (.drv .GB_ABPH) + 256 * s.get (.drv .GB_CAUSE), s.off (.drv .GB_MBX)⟩
  | 0x0204 => if s.get (.drv .PL_MOVE) ≠ 0 then none else some ⟨0, 0, s.get (.drv .PL_STATE), s.off (.drv .PL_MBX)⟩
  | 0x0701 =>
    let chk := par % 256
    let slot := par / 256 % 2
    let size := par / 512
    if chk ≠ 0 then some ⟨0x0C, chk, chk, s⟩
    else if st = 0x0D then some ⟨0x0D, 0, 0, s⟩
    else
      let t := ((moveRange stagingBase size (slotAddr slot) s).on (.host .PKG_FULL) slot).set (.host .PKG_SIZE) size slot
      if st = 0 ∧ t.sectionCode (slotAddr slot) false ≠ 8 then some ⟨0, 0, 0, t⟩ else some ⟨0x0C, 8, 8, t⟩
  | 0x0702 =>
    if s.flag (.host .ACT_ON) then none
    else
      let c := s.get (.host .ACT_CODE)
      some ⟨if c = 0 then 0 else 0x0C, c, c, s⟩
  | 0x0803 =>
    let e := par
    if s.flag (.loop .INJ_STAT_ACTIVE) e ∨ s.flag (.loop .INJ_PEND) e then none
    else some ⟨if s.flag (.loop .INJ_STAT_REFUSED) e then 9 else 0, 0, s.readReg (0x1030000E14 + 0x100000 * e), s⟩
  | 0x0804 =>
    let l := s.exported (par % 2 ^ 32) (par / 2 ^ 32)
    if st = 0 then some ⟨0, 0, l.length, exportEntries l s⟩ else some ⟨0x0D, 0, 0, s⟩
  | 0x0A01 =>
    let chk := par % 256
    if chk ≠ 0 then some ⟨0x0C, chk, chk, s⟩
    else if st = 0 then some ⟨0, 0, 0, s.on (.host .FW_FULL) (par / 256 % 2)⟩
    else some ⟨0x0D, 0, 0, s⟩
  | _ => none

/-- LONG_COMMAND_COMPLETE: the final reply is sent (R536, R539). -/
def longComplete (n st : Nat) (s : State) : State :=
  if !s.flag (.host .MB_RUN) n ∨ !s.narrows then s
  else match finalAnswer n st s with
  | some r => reply n r.st r.det r.val r.s
  | none => s

/-- IN_PROGRESS_REPEAT (R535). -/
def progressRepeat (n : Nat) (s : State) : State :=
  if s.flag (.host .MB_RUN) n ∧ s.narrows ∧ s.get (.host .MB_CODE) n ≠ 0x0805 then
    sendReply n 1 0 0 (s.set (.host .MB_AT) s.now n)
  else s

/-- LOGIN_BAR_EXPIRY (R555): 10 min after the fifth failure. -/
def barExpiry (role : Nat) (s : State) : State :=
  if s.flag (.host .BARRED) role ∧ s.get (.host .FAIL_AT) role 0 - 1 + mins 10 ≤ s.now then
    (s.off (.host .BARRED) role).forUpTo 5 (fun i t => t.off (.host .FAIL_AT) role i)
  else s

/-- HELLO (R529). DEDUCED, log entry 55. -/
def execHello (n : Fin 16) (pvMin pvMax : BitVec 8) (s : State) : Host.Outcome State Fault Refusal :=
  done (serve n.val 1 0 (lenIs 2) (pvMin.toNat + 256 * pvMax.toNat) (hello pvMin.toNat pvMax.toNat) s)
/-- LOGIN_START (R552). DESIGN CHOICE, log entry 53. -/
def execLoginStart (n : Fin 16) (role : BitVec 8) (key : BitVec 64) (s : State) : Host.Outcome State Fault Refusal :=
  done (serve n.val 2 0 (lenIs 9) (role.toNat + 256 * key.toNat) (loginStart n.val role.toNat key.toNat) s)
/-- LOGIN_PROVE (R552): logins and refused logins are audited (R556). DESIGN CHOICE, log entry 53. -/
def execLoginProve (n : Fin 16) (heph hsig : BitVec 512) (aud : Bool) (s : State) : Host.Outcome State Fault Refusal :=
  done (serve n.val 3 0 (lenIs 128) (heph.toNat + 2 ^ 512 * hsig.toNat) (audited aud true n.val 3 []
    (loginProve n.val heph.toNat hsig.toNat)) s)
/-- LOGOUT (R554). -/
def execLogout (n : Fin 16) (aud : Bool) (s : State) : Host.Outcome State Fault Refusal := done (logout n.val aud s)
/-- KEEPALIVE (R554). -/
def execKeepalive (n : Fin 16) (s : State) : Host.Outcome State Fault Refusal :=
  done (serve n.val 5 1 (lenIs 0) 0 (fun t => ansOk t.axleTime t) s)
/-- MODE_REQ (R537): requests and their outcomes are audited (R556). DEDUCED, log entry 55. -/
def execModeReq (n : Fin 16) (tgt : BitVec 8) (p : Pins) (aud : Bool) (s : State) : Host.Outcome State Fault Refusal :=
  done (serve n.val 0x0101 1 (lenIs 1) tgt.toNat (audited (aud || tgt == 6) true n.val 0x0101 [] (modeReq n.val tgt.toNat p)) s)
/-- SAFE_HOLD_REQ (R543): a stop acts whether or not it can be audited. -/
def execSafeHoldReq (n : Fin 16) (s : State) : Host.Outcome State Fault Refusal :=
  done (serve n.val 0x0102 1 (lenIs 0) 0 (fun t => let u := enterSafeHold 7 t; ansOk (u.get (.saf .AXLE_MODE_CAUSE)) u) s)
/-- TRANSPORT_REQ (R430). DEDUCED, log entry 55. -/
def execTransportReq (n : Fin 16) (p : Pins) (s : State) : Host.Outcome State Fault Refusal :=
  done (serve n.val 0x0103 1 (lenIs 0) 0 (transportReq p) s)
/-- DRIVE_CMD (R538). -/
def execDriveCmd (n : Fin 16) (ca : Half) (da : BitVec 8) (cb : Half) (db alive : BitVec 8) (s : State) : Host.Outcome State Fault Refusal :=
  done (serve n.val 0x0201 1 (lenIs 7) (packFields [(ca.toNat, 2), (da.toNat, 1), (cb.toNat, 2), (db.toNat, 1), (alive.toNat, 1)])
    (driveCmd ca.toNat da.toNat cb.toNat db.toNat alive.toNat) s)
/-- VEHICLE_STATE (R539). -/
def execVehicleState (n : Fin 16) (spd : Half) (odo : Word) (alive : BitVec 8) (s : State) : Host.Outcome State Fault Refusal :=
  done (serve n.val 0x0202 1 (lenIs 7) (packFields [(spd.toNat, 2), (odo.toNat, 4), (alive.toNat, 1)]) (vehicleState spd.toNat odo.toNat) s)
/-- SHIFT_REQ (R449). -/
def execShiftReq (n : Fin 16) (tgt : BitVec 8) (s : State) : Host.Outcome State Fault Refusal :=
  done (serve n.val 0x0203 1 (lenIs 1) tgt.toNat (shiftReq n.val tgt.toNat) s)
/-- PARK_REQ (R451). -/
def execParkReq (n : Fin 16) (v : BitVec 8) (s : State) : Host.Outcome State Fault Refusal :=
  done (serve n.val 0x0204 1 (lenIs 1) v.toNat (parkReq n.val v.toNat) s)
/-- STATUS_READ (R540). -/
def execStatusRead (n : Fin 16) (b : BitVec 8) (s : State) : Host.Outcome State Fault Refusal :=
  done (serve n.val 0x0301 1 (lenIs 1) b.toNat (statusRead b.toNat) s)
/-- SUBSCRIBE (R540). -/
def execSubscribe (n : Fin 16) (mask : BitVec 8) (period trace : Half) (s : State) : Host.Outcome State Fault Refusal :=
  done (serve n.val 0x0302 1 (lenIs 5) (packFields [(mask.toNat, 1), (period.toNat, 2), (trace.toNat, 2)]) (subscribe n.val mask.toNat period.toNat trace.toNat) s)
/-- SUBSCRIPTION_REPORT (R540). DESIGN CHOICE, log entry 62. -/
def execSubscriptionReport (k : Fin 4) (s : State) : Host.Outcome State Fault Refusal := done (subscriptionReport k.val s)
/-- FR_INFO. -/
def execFrInfo (n : Fin 16) (s : State) : Host.Outcome State Fault Refusal := done (serve n.val 0x0303 1 (lenIs 0) 0 frInfo s)
/-- CHG_START (R417). -/
def execChgStart (n : Fin 16) (s : State) : Host.Outcome State Fault Refusal := done (serve n.val 0x0401 1 (lenIs 0) 0 chgStartReq s)
/-- CHG_STOP (R418). -/
def execChgStop (n : Fin 16) (s : State) : Host.Outcome State Fault Refusal := done (serve n.val 0x0402 1 (lenIs 0) 0 chgStopReq s)
/-- CHG_PAUSE (R417). -/
def execChgPause (n : Fin 16) (v : BitVec 8) (s : State) : Host.Outcome State Fault Refusal :=
  done (serve n.val 0x0403 1 (lenIs 1) v.toNat (chgPause v.toNat) s)
/-- FAULT_LIST. DESIGN CHOICE, log entry 54. -/
def execFaultList (n : Fin 16) (s : State) : Host.Outcome State Fault Refusal := done (serve n.val 0x0501 1 (lenIs 0) 0 faultList s)
/-- FAULT_CLEAR (R551). -/
def execFaultClear (n : Fin 16) (item : BitVec 8) (ix : Half) (aud : Bool) (s : State) : Host.Outcome State Fault Refusal :=
  done (serve n.val 0x0502 1 (lenIs 3) (item.toNat + 256 * ix.toNat) (audited aud false n.val 0x0502 []
    (faultClear n.val item.toNat ix.toNat)) s)
/-- PKG_COMMIT (R559). -/
def execPkgCommit (n : Fin 16) (slot : BitVec 8) (size : BitVec 64) (aud : Bool) (s : State) :
    Host.Outcome State Fault Refusal :=
  done (serve n.val 0x0701 2 (lenIs 9) (slot.toNat + 256 * size.toNat) (audited aud false n.val 0x0701 []
    (pkgCommit n.val slot.toNat size.toNat)) s)
/-- PKG_ACTIVATE (R94). -/
def execPkgActivate (n : Fin 16) (slot : BitVec 8) (aud : Bool) (s : State) : Host.Outcome State Fault Refusal :=
  done (serve n.val 0x0702 2 (lenIs 1) slot.toNat (audited aud false n.val 0x0702 [] (pkgActivate slot.toNat)) s)
/-- FLOOR_RAISE (R97). -/
def execFloorRaise (n : Fin 16) (aud : Bool) (s : State) : Host.Outcome State Fault Refusal :=
  done (serve n.val 0x0703 2 (lenIs 0) 0 (audited aud false n.val 0x0703 (bytesOf (s.get (.host .FLOOR)) 4) floorRaise) s)
/-- PKG_INFO. DESIGN CHOICE, log entry 54. -/
def execPkgInfo (n : Fin 16) (s : State) : Host.Outcome State Fault Refusal := done (serve n.val 0x0704 1 (lenIs 0) 0 pkgInfo s)
/-- PARAM_WRITE (R541). DESIGN CHOICE, log entry 57. -/
def execParamWrite (n : Fin 16) (r : ParamRec) (off : Half) (data : List (BitVec 8)) (aud : Bool) (s : State) :
    Host.Outcome State Fault Refusal :=
  let par := s.mbParam n.val % 256 + 256 * (off.toNat + 65536 * leNat data)
  done (serve n.val 0x0801 2 (fun l => decide (4 ≤ l) && decide (l ≤ 256))
    (if s.get (.host .MB_PLEN) n.val = 3 + data.length then par else 2 ^ 2048)
    (audited aud false n.val 0x0801 (s.paramOld r off.toNat data.length) (paramWrite r off.toNat data)) s)
/-- LIMIT_SET (R541): PARAM, then the value replaced, is audited (R556). DESIGN CHOICE, log entry 57. -/
def execLimitSet (n : Fin 16) (l : BitVec 8) (v : Word) (aud : Bool) (s : State) : Host.Outcome State Fault Refusal :=
  done (serve n.val 0x0802 1 (lenIs 5) (l.toNat + 256 * v.toNat) (audited aud false n.val 0x0802
    (bytesOf (s.get (.host .LIM) l.toNat) 4) (limitSet l.toNat v.toNat)) s)
/-- INJECT (R168). -/
def execInject (n : Fin 16) (e : BitVec 8) (img : List Word) (aud : Bool) (s : State) : Host.Outcome State Fault Refusal :=
  done (serve n.val 0x0803 2 (lenIs 21) (e.toNat + 256 * packFields (img.map (fun w => (w.toNat, 4)))) (audited aud false n.val 0x0803 []
    (injectReq n.val e.toNat img)) s)
/-- AUDIT_EXPORT (R557). -/
def execAuditExport (n : Fin 16) (first cnt : Word) (s : State) : Host.Outcome State Fault Refusal :=
  done (serve n.val 0x0804 1 (lenIs 8) (first.toNat + 2 ^ 32 * cnt.toNat) (auditExport n.val first.toNat cnt.toNat) s)
/-- ISLAND_REQ (R542). -/
def execIslandReq (n : Fin 16) (i st : BitVec 8) (force aud : Bool) (s : State) : Host.Outcome State Fault Refusal :=
  done (islandReqServe n.val i.toNat st.toNat force aud s)
/-- KEY_INSTALL. -/
def execKeyInstall (n : Fin 16) (role : BitVec 8) (x y : BitVec 256) (aud : Bool) (s : State) : Host.Outcome State Fault Refusal :=
  done (serve n.val 0x0901 2 (lenIs 65) (packFields [(role.toNat, 1), (x.toNat, 32), (y.toNat, 32)]) (audited aud false n.val 0x0901 []
    (keyInstall n.val role.toNat x.toNat y.toNat)) s)
/-- KEY_REVOKE. -/
def execKeyRevoke (n : Fin 16) (key : BitVec 64) (aud : Bool) (s : State) : Host.Outcome State Fault Refusal :=
  done (serve n.val 0x0902 2 (lenIs 8) key.toNat (audited aud false n.val 0x0902 [] (keyRevoke n.val key.toNat)) s)
/-- CERT_INSTALL (R416). -/
def execCertInstall (n : Fin 16) (size : Half) (aud : Bool) (s : State) : Host.Outcome State Fault Refusal :=
  done (serve n.val 0x0903 2 (lenIs 2) size.toNat (audited aud false n.val 0x0903 [] (certInstall size.toNat)) s)
/-- FW_COMMIT: the checks of a firmware image are not stated, so their code is an operand. DESIGN CHOICE, log entry 80. -/
def execFwCommit (n : Fin 16) (slot : BitVec 8) (size : BitVec 64) (chk : BitVec 8) (aud : Bool) (s : State) :
    Host.Outcome State Fault Refusal :=
  done (serve n.val 0x0A01 3 (lenIs 9) (slot.toNat + 256 * size.toNat) (audited aud false n.val 0x0A01 []
    (fwCommit n.val slot.toNat size.toNat chk.toNat)) s)
/-- FW_ACTIVATE. DEDUCED, log entry 60. -/
def execFwActivate (n : Fin 16) (slot : BitVec 8) (aud : Bool) (s : State) : Host.Outcome State Fault Refusal :=
  done (fwActivateServe n.val slot.toNat aud s)
/-- DEBUG_START (R490). -/
def execDebugStart (n : Fin 16) (s : State) : Host.Outcome State Fault Refusal := done (serve n.val 0x0A03 3 (lenIs 0) 0 debugStart s)
/-- DEBUG_PROVE (R490). -/
def execDebugProve (n : Fin 16) (sig : BitVec 512) (aud : Bool) (s : State) : Host.Outcome State Fault Refusal :=
  done (serve n.val 0x0A04 3 (lenIs 64) sig.toNat (audited aud true n.val 0x0A04 [] (debugProve n.val sig.toNat)) s)
/-- BOOT_HEADER (R466): what the signature covers is not stated, so its outcome is an operand. DESIGN CHOICE, log entry 80. -/
def execBootHeader (n : Fin 16) (split : BitVec 8) (sig : BitVec 512) (sigOk aud : Bool) (s : State) : Host.Outcome State Fault Refusal :=
  done (serve n.val 0x0A05 3 (lenIs 65) (split.toNat + 256 * sig.toNat) (audited aud false n.val 0x0A05
    (bytesOf (s.get (.host .SPLIT)) 1) (bootHeader split.toNat sigOk)) s)
/-- ABS_LIMIT_SET (R541). -/
def execAbsLimitSet (n : Fin 16) (l : BitVec 8) (v : Word) (aud : Bool) (s : State) : Host.Outcome State Fault Refusal :=
  done (serve n.val 0x0A06 3 (lenIs 5) (l.toNat + 256 * v.toNat) (audited aud false n.val 0x0A06
    (bytesOf (s.get (.host .LIM_MAKER) l.toNat) 4) (absLimitSet l.toNat v.toNat)) s)
/-- LONG_COMMAND_COMPLETE (R539). -/
def execLongCommandComplete (n : Fin 16) (st : BitVec 8) (s : State) : Host.Outcome State Fault Refusal := done (longComplete n.val st.toNat s)
/-- IN_PROGRESS_REPEAT (R535). -/
def execInProgressRepeat (n : Fin 16) (s : State) : Host.Outcome State Fault Refusal := done (progressRepeat n.val s)
/-- SESSION_IDLE_TIMEOUT (R554). DEDUCED, log entry 56. -/
def execSessionIdleTimeout (k : Fin 4) (aud : Bool) (s : State) : Host.Outcome State Fault Refusal := done (sessionIdle k.val aud s)
/-- LOGIN_BAR_EXPIRY (R555). -/
def execLoginBarExpiry (role : Fin 4) (s : State) : Host.Outcome State Fault Refusal := done (barExpiry role.val s)
/-- NARROWS_FRAME_RECEIVED (R528). DEDUCED, log entry 55. -/
def execNarrowsFrameReceived (f : Frame) (s : State) : Host.Outcome State Fault Refusal := done (frameReceived f s)
/-- CAN_SEGMENT_RECEIVED (R530). -/
def execCanSegmentReceived (p : Fin 4) (n : Fin 16) (hdr : BitVec 8) (full : Bool) (data : List (BitVec 8)) (s : State) :
    Host.Outcome State Fault Refusal := done (segmentReceived p.val n.val hdr.toNat full data s)
/-- SEGMENT_TIMEOUT (R530). -/
def execSegmentTimeout (p : Fin 4) (n : Fin 16) (s : State) : Host.Outcome State Fault Refusal :=
  done (segmentTimeout p.val n.val s)

end Sys2Proof.Machine
end

