-- ==== Sys2Proof/Machine/DataPort.lean ====
section
/-!
DEFINITION. The data port (R545 to R549), the stop frame (R544), CAN format probing (R524), axle time (R526), the answers of the network
stack (R522), and the interface status block (R558).
-/
namespace Sys2Proof.Machine
open Sys2Proof

/-- A data port window: first address, address above it, least role that reads, least role that writes (4: none). -/
structure Window where
  lo : Nat
  hi : Nat
  rd : Nat
  wr : Nat
  deriving DecidableEq, Repr

/-- The windows of Table: Data port windows that name their addresses, in its order. -/
def State.windows (s : State) : List Window :=
  [⟨s.frBase, s.frBase + 0x100000 * s.get (.mem .FR_SIZE_SEGS), 1, 4⟩, ⟨0x1800002000, 0x1800002200, 1, 4⟩,
    ⟨0x1AF000000, 0x1B0000000, 1, 4⟩, ⟨0x1A0000000, 0x1AF000000, 2, 2⟩, ⟨0x1B0000000, 0x1C0000000, 2, 4⟩]

/-- The window an address lies in: a named one, or the usable DRAM or lagoon around them up to the next named one (R545). DESIGN CHOICE, log entry 63. -/
def State.windowAt (s : State) (a : Nat) : Option Window :=
  match s.windows.find? (fun x => decide (x.lo ≤ a) && decide (a < x.hi)) with
  | some x => some x
  | none =>
    let stop (hi : Nat) : Nat := ((s.windows.filter (fun x => decide (a < x.lo) && decide (x.lo < x.hi))).map (·.lo)).foldl min hi
    if a < 0x1C0000000 then some ⟨0, stop 0x1C0000000, 2, 3⟩
    else if 0x1800000000 ≤ a ∧ a < 0x1800800000 then some ⟨0x1800000000, stop 0x1800800000, 2, 3⟩
    else none

/-- DP_OPEN (R545, R556): one transfer per session; no write transfer is opened while a closing entry is missing. -/
def dpOpen (n addr inc dir : Nat) (s : State) : Ans :=
  let k := s.mbSession n - 1
  if s.flag (.host .DP_OPEN) k then ans 2 2 s
  else if 1 < dir ∨ inc ∉ [1, 2, 4, 8] ∨ addr % inc ≠ 0 then ans 5 0 s
  else match s.windowAt addr with
  | none => ans 5 0 s
  | some x =>
    if s.mbRole n < (if dir = 1 then x.wr else x.rd) then ans 5 0 s
    else if dir = 1 ∧ s.flag (.host .AUD_BAR) then ans 0x0E 0 s
    else
      let h := (s.get (.host .LAST_HANDLE) + 1) % 0x10000
      let t := ((((s.set (.host .LAST_HANDLE) h).off (.host .DP_CUT) k |>.on (.host .DP_OPEN) k).set (.host .DP_HANDLE) h k).set (.host .DP_ADDR) addr k).set
        (.host .DP_START) addr k
      let t := ((((t.set (.host .DP_INC) inc k).set (.host .DP_DIR) dir k).off (.host .DP_BIDX) k).off (.host .DP_COUNT) k).set
        (.host .DP_HIGH) x.hi k
      ansOk h t

/-- The closing audit entry of a write transfer, or its want (R556). -/
def dpCloseAudit (k : Nat) (aud : Bool) (s : State) : State :=
  let t := auditTry aud (s.get (.host .SES_ROLE) k) (s.get (.host .SES_PORT) k) 0x0602 (s.get (.host .SES_KEY) k) 0
    (bytesOf (s.get (.host .DP_START) k) 5 ++ bytesOf (s.get (.host .DP_COUNT) k) 8) s
  if aud then t else t.on (.host .AUD_BAR)

/-- DP_CLOSE (R548): COUNT and ADDR, also of a transfer that ended early. -/
def dpClose (n handle : Nat) (aud : Bool) (s : State) : Ans :=
  let k := s.mbSession n - 1
  let v := packFields [(s.get (.host .DP_COUNT) k, 8), (s.get (.host .DP_ADDR) k, 5)]
  if s.get (.host .DP_HANDLE) k ≠ handle ∨ (!s.flag (.host .DP_OPEN) k ∧ !s.flag (.host .DP_CUT) k) then ans 5 0 s
  else if !s.flag (.host .DP_OPEN) k then ansOk v (s.off (.host .DP_CUT) k)
  else
    let t := (s.off (.host .DP_OPEN) k).when (s.flag (.host .DP_DIR) k) (dpCloseAudit k aud)
    ansOk v t

/-- Send DATA_ACK with the expected position (R547). -/
def dataAck (k handle bidx st : Nat) (s : State) : State :=
  let v := packFields [(bidx, 4), (st, 1), (0, 3), (s.get (.host .DP_COUNT) k, 8), (s.get (.host .DP_ADDR) k, 5), (0, 3)]
  (nextSeq (k + 1) s).send .frame 5 handle v

/-- Send DATA_RD. -/
def dataRd (k handle bidx st data n : Nat) (s : State) : State :=
  (nextSeq (k + 1) s).send .frame 7 handle (packFields [(bidx, 4), (st, 1), (0, 3), (data, n)])

/-- The transfer in a session that a burst's handle names, in direction `wr`. -/
def State.dpOpenFor (s : State) (k handle : Nat) (wr : Bool) : Bool :=
  s.flag (.host .DP_OPEN) k && s.get (.host .DP_HANDLE) k == handle && s.flag (.host .DP_DIR) k == wr

/-- A transfer moves on by `n` bytes and one burst (R546, R547). -/
def dpAdvance (k n : Nat) (s : State) : State :=
  let a := s.get (.host .DP_ADDR) k
  ((s.set (.host .DP_ADDR) (a + n) k).set (.host .DP_COUNT) (s.get (.host .DP_COUNT) k + n) k).inc (.host .DP_BIDX) k

/-- The memory behind an address answers the data port mover at memory port 10 (R32, R498). -/
def State.dpReady (s : State) (a : Nat) : Bool :=
  if a < 0x1C0000000 then s.islandOpen 10 .ifc && s.dramReady a else s.islandOpen 13 .ifc

/-- The lines of a burst; the lagoon has none. -/
def burstLines (a n : Nat) : List Nat := if a < 0x1C0000000 then linesOf a n else []

/-- A burst that could not be moved: the transfer ends early, and the answer's status, which the rules do not state, is free (R548,
Table: CLOSED as seen by requesters). -/
def dpCut (k : Nat) (aud : Bool) (s : State) : Nat × State :=
  let r := s.free 8
  (r.1, cutTransfer k aud r.2)

/-- Write a burst: lines covered whole become good, partial lines are merged (R502, R546). -/
def dpStore (a : Nat) (data : List (BitVec 8)) (s : State) : State :=
  kibAdd 10 data.length ((if a < 0x1C0000000 then writeLines a data.length s else s).writeBytes a data)

/-- A DATA_WR burst; `os` are the errors that have come up in its DRAM lines, in order (R546, R547). -/
def dataWr (k handle bidx : Nat) (data : List (BitVec 8)) (os : List Flips) (aud : Bool) (s : State) : State :=
  if !s.narrows ∨ s.get (.host .SES_ID) k = 0 then s
  else if !s.dpOpenFor k handle true then
    let r := s.free 8
    dataAck k handle bidx r.1 r.2
  else
    let n := data.length
    let a := s.get (.host .DP_ADDR) k
    if bidx < s.get (.host .DP_BIDX) k then dataAck k handle bidx 0 s
    else if s.get (.host .DP_BIDX) k < bidx then dataAck k handle bidx 2 s
    else if n = 0 ∨ 4096 < n ∨ n % s.get (.host .DP_INC) k ≠ 0 then dataAck k handle bidx 5 s
    else if s.get (.host .DP_HIGH) k < a + n then dataAck k handle bidx 0x0B s
    else if !s.dpReady a then
      let c := dpCut k aud s
      dataAck k handle bidx c.1 c.2
    else
      let s := flipLines (burstLines a n) os s
      let part := if a < 0x1C0000000 then s.partLines a n else []
      if part.any (fun x => decide (x.2 = .uncorrectable)) then
        let c := dpCut k aud ((recordLines 10 2 part s).on (.mem .ECC_STAT_UE_WR))
        dataAck k handle bidx c.1 c.2
      else dataAck k handle bidx 0 (dpAdvance k n (dpStore a data (recordLines 10 2 part s)))

/-- A DATA_RD_REQ burst; `os` are the errors that have come up in its DRAM lines, in order (R546). -/
def dataRdReq (k handle bidx n : Nat) (os : List Flips) (aud : Bool) (s : State) : State :=
  if !s.narrows ∨ s.get (.host .SES_ID) k = 0 then s
  else if !s.dpOpenFor k handle false then
    let r := s.free 8
    dataRd k handle bidx r.1 0 0 r.2
  else
    let a := s.get (.host .DP_ADDR) k
    if n = 0 ∨ 4096 < n ∨ n % s.get (.host .DP_INC) k ≠ 0 then dataRd k handle bidx 5 0 0 s
    else if s.get (.host .DP_HIGH) k < a + n then dataRd k handle bidx 0x0B 0 0 s
    else if !s.dpReady a then
      let c := dpCut k aud s
      dataRd k handle bidx c.1 0 0 c.2
    else
      let s := flipLines (burstLines a n) os s
      let r := s.outcomes (burstLines a n)
      let t := recordLines 10 1 r s
      if r.any (fun x => decide (x.2 = .uncorrectable)) then
        let c := dpCut k aud t
        dataRd k handle bidx c.1 0 0 c.2
      else
        let g := garble r t
        let t : State := { t with fresh := g.fresh }
        dataRd k handle bidx 0 (g.readN a n) n (dpAdvance k n (kibAdd 10 n t))

/-- The frame carries the stop identifier in its format (R544). -/
def State.stopId (s : State) (id : Nat) (ide : Bool) : Bool :=
  let own := s.get (.saf .STOP_CFG_ID)
  if s.flag (.saf .STOP_CFG_IDE) then ide && id == own else !ide && id % 2048 == own % 2048

/-- The other conditions of a stop frame: classical, or FD without bit-rate switch; 0xC3, 0x3C in its first bytes (R544). -/
def stopForm (fmt : CanFmt) (data : List (BitVec 8)) : Bool :=
  (fmt == .classical || fmt == .fd) && data.take 2 == [0xC3, 0x3C]

/-- A frame on CAN port 0 as the receiver of the safety island sees it (R543, R544). -/
def stopFrame (id : Nat) (ide : Bool) (fmt : CanFmt) (data : List (BitVec 8)) (s : State) : State :=
  if !s.flag (.saf .STOP_CFG_EN) ∨ !s.stopId id ide then s
  else if stopForm fmt data then enterSafeHold 7 ((s.on (.saf .STOP_STAT_SEEN)).incSat (.saf .STOP_STAT_CNT))
  else s.on (.saf .STOP_STAT_BAD)

/-- A CAN port settles on a candidate of its list (R524). -/
def canSettle (p k : Nat) (cands : List (BitVec 4)) (s : State) : State :=
  ((s.set (.host .CAN_CAND) k p).on (.host .CAN_SET) p).set (.host .CAN_FMT) ((cands[k]?.map (·.toNat)).getD 0) p

/-- 250 ms of listening on a candidate have passed; `ok`: 8 frames arrived without error (R524). -/
def canProbe (p : Nat) (ok : Bool) (cands : List (BitVec 4)) (s : State) : State :=
  let k := s.get (.host .CAN_CAND) p
  if s.flag (.host .CAN_SET) p ∨ !s.narrows ∨ s.now < s.get (.host .CAN_AT) p + us 250000 then s
  else if ok then canSettle p k cands s
  else if k + 1 < min 4 cands.length then (s.set (.host .CAN_CAND) (k + 1) p).set (.host .CAN_AT) s.now p
  else canSettle p 0 cands s

/-- A CAN port reaches bus-off (R524). -/
def canBusOff (p : Nat) (s : State) : State :=
  (((s.off (.host .CAN_SET) p).off (.host .CAN_CAND) p).off (.host .CAN_FMT) p).set (.host .CAN_AT) s.now p

/-- No synchronisation on a port in the last 3 s (R526). -/
def State.tsQuiet (s : State) (p : Nat) : Bool :=
  s.get (.host .TS_AT) p == 0 || decide (s.get (.host .TS_AT) p - 1 + secs 3 ≤ s.now)

/-- OFFS: the measured offset in 10 ns, saturated; where it is no whole number of them a free bit says which neighbour is shown. -/
def measured (off : Int) (s : State) : State :=
  let r := quotI off 10 s
  r.2.sset (.ifc .TSYNC_STAT_OFFS) (clampI (-32767) 32767 r.1)

/-- A synchronisation with gPTP time `t` in ns arrives on a port: one step out of FREE, slewing from then on (R526, R527). -/
def timeSync (p t : Nat) (s : State) : State :=
  if !s.narrows then s
  else
    let u := s.set (.host .TS_AT) (s.now + 1) p
    if p = 1 ∧ !s.tsQuiet 0 then u
    else
      let off := toSigned 64 ((t + 2 ^ 64 - s.axleTime) % 2 ^ 64)
      let u := measured off (u.set (.ifc .TSYNC_STAT_PORT) p)
      if s.get (.ifc .TSYNC_STAT_STATE) = 0 then
        let v := ((u.set (.ifc .T_OFFS) (t + 2 ^ 64 - s.nsNow % 2 ^ 64)).off (.ifc .T_REM)).set (.ifc .T_SLEW_AT) s.nsNow
        (((v.set (.ifc .TSYNC_STAT_STATE) 1).on (.ifc .TSYNC_STAT_STEPPED)).setBit (.host .FLAGS) 2).send .level5 526
      else
        let r := u.free 8
        let v := (r.2.sset (.ifc .T_OFFS) (toSigned 64 (s.get (.ifc .T_OFFS)) + s.slewed)).sset (.ifc .T_REM) off
        ((v.set (.ifc .T_SLEW_AT) s.nsNow).set (.ifc .T_PPM) (1 + r.1 % 200)).set (.ifc .TSYNC_STAT_STATE) 1

/-- No synchronisation has arrived for 3 s (R526). -/
def timeHoldover (s : State) : State :=
  if s.get (.ifc .TSYNC_STAT_STATE) = 1 ∧ s.tsQuiet 0 ∧ s.tsQuiet 1 then s.set (.ifc .TSYNC_STAT_STATE) 2 else s

/-- CAN_FMT of a port as the status block shows it: port 0 runs classical and FD at NBR (R525, R558). -/
def State.canFormat (s : State) (p : Nat) : Nat :=
  if p = 0 then 2 + 4 * s.get (.saf .STOP_STAT_NBR) else s.get (.host .CAN_FMT) p

/-- The Narrows firmware writes the interface status block (R558). -/
def interfaceStatus (s : State) : State :=
  if !s.narrows then s
  else writeFields 0x18000021C0
    ([(s.axleTime, 8), (s.get (.saf .AXLE_MODE_MODE), 1), (s.get (.saf .AXLE_MODE_CAUSE), 1), (s.get (.ifc .TSYNC_STAT_STATE), 1),
      (s.openSessions, 1)] ++ (List.range 4).map (fun p => (s.canFormat p, 1)) ++
      [(s.get (.host .TAG_ERR), 2), (s.get (.host .SEQ_ERR), 2), (s.get (.host .BUSY_CNT), 2), (s.get (.host .DROP_CNT), 2),
      (s.get (.host .LOGIN_FAIL), 2), (0, 2), (s.get (.host .AUD_SEQ), 4), (s.get (.host .FLAGS), 1), (0, 31)]) s

/-- A read of IFC_ATIME_LO latches the high word of axle time (R14). -/
def latchTime (s : State) : State := s.set (.ifc .ATIME_HI) (s.axleTime / 2 ^ 32)

/-- DP_OPEN (R545): write transfers are audited as they open (R556). -/
def execDpOpen (n : Fin 16) (addr : BitVec 40) (inc dir : BitVec 8) (aud : Bool) (s : State) : Host.Outcome State Fault Refusal :=
  let par := addr.toNat + 2 ^ 40 * inc.toNat + 2 ^ 48 * dir.toNat
  let body := dpOpen n.val addr.toNat inc.toNat dir.toNat
  done (serve n.val 0x0601 1 (lenIs 7) par (if dir = 1 then audited aud false n.val 0x0601 [] body else body) s)
/-- DP_CLOSE (R548). DESIGN CHOICE, log entry 63. -/
def execDpClose (n : Fin 16) (handle : Half) (aud : Bool) (s : State) : Host.Outcome State Fault Refusal :=
  done (serve n.val 0x0602 1 (lenIs 2) handle.toNat (dpClose n.val handle.toNat aud) s)
/-- DATA_WR (R546, R547). DESIGN CHOICE, log entry 63. -/
def execDataWr (k : Fin 4) (handle : Half) (bidx : Word) (data : List (BitVec 8)) (os : List Flips) (aud : Bool) (s : State) :
    Host.Outcome State Fault Refusal :=
  done (dataWr k.val handle.toNat bidx.toNat data os aud s)
/-- DATA_RD_REQ (R546). DESIGN CHOICE, log entry 63. -/
def execDataRdReq (k : Fin 4) (handle : Half) (bidx : Word) (n : Half) (os : List Flips) (aud : Bool) (s : State) :
    Host.Outcome State Fault Refusal :=
  done (dataRdReq k.val handle.toNat bidx.toNat n.toNat os aud s)
/-- STOP_FRAME (R544). DEDUCED, log entry 64. -/
def execStopFrame (id : BitVec 29) (ide : Bool) (fmt : CanFmt) (data : List (BitVec 8)) (s : State) : Host.Outcome State Fault Refusal :=
  done (stopFrame id.toNat ide fmt data s)
/-- CAN_PROBE_TIMEOUT (R524): CAN ports 1 to 3. DEDUCED, log entry 64. -/
def execCanProbeTimeout (p : Fin 3) (ok : Bool) (cands : List (BitVec 4)) (s : State) : Host.Outcome State Fault Refusal :=
  done (canProbe (p.val + 1) ok cands s)
/-- CAN_BUS_OFF (R524). -/
def execCanBusOff (p : Fin 3) (s : State) : Host.Outcome State Fault Refusal := done (canBusOff (p.val + 1) s)
/-- TIME_SYNC_RECEIVED (R526). DESIGN CHOICE, log entry 58. -/
def execTimeSyncReceived (p : Fin 2) (t : BitVec 64) (s : State) : Host.Outcome State Fault Refusal := done (timeSync p.val t.toNat s)
/-- TIME_SYNC_HOLDOVER (R526). -/
def execTimeSyncHoldover (s : State) : Host.Outcome State Fault Refusal := done (timeHoldover s)
/-- ARP_REQUEST (R522). -/
def execArpRequest (p : Fin 2) (s : State) : Host.Outcome State Fault Refusal := done (s.when s.narrows (·.send .net 0 p.val))
/-- ICMP_ECHO (R522). -/
def execIcmpEcho (p : Fin 2) (s : State) : Host.Outcome State Fault Refusal := done (s.when s.narrows (·.send .net 1 p.val))
/-- ATIME_READ (R14). -/
def execAtimeRead (w : Who) (s : State) : Host.Outcome State Fault Refusal := done (sidebandReadAfter w 0x1010000040 latchTime s)
/-- INTERFACE_STATUS_WRITE (R558). DESIGN CHOICE, log entry 66. -/
def execInterfaceStatusWrite (s : State) : Host.Outcome State Fault Refusal := done (interfaceStatus s)

end Sys2Proof.Machine
end

