-- ==== Sys2Proof/Machine/GroupCommands.lean ====
section
/-!
DEFINITION. Group enable and disable as the registers take them (R188, R225), what the drive firmware does with an enable, the reactions of
the safety island to leg faults and group forces (R246, R482), reconfiguration windows (R480, R481), and END with what the program found.
-/
namespace Sys2Proof.Machine
open Sys2Proof

/-- The four sigma-delta channels, FC0, the module and winding temperatures of a motor hold results (When traction starts for the first
time after power-up). -/
def State.senseReady (s : State) (m : Nat) : Bool :=
  (List.range 4).all (fun c => s.flag (.sns .SD_STAT_VALID) (4 * m + c)) && s.flag (.sns .FC_STAT_VALID) 0 &&
    (List.range 7).all (fun t => s.bit (.sns .HK_VALID) (4 + 8 * m + t))

/-- The angle of a motor is known: the resolver is valid, or a probe has completed (R356). -/
def State.angleReady (s : State) (m : Nat) : Bool := s.resSource m || s.get (.drv .TR_POS) m == 1 || s.flag (.drv .TR_PROBED) m

/-- The drive firmware withholds an enable: the first condition not met, by the rule that gives it (R322, R363, R401, R435, chapter 09;
chapter 11 for OG2 against OG4). DEDUCED, log entry 36. -/
def State.withheld (s : State) (g : Nat) : Option Nat :=
  if g < 2 then
    if (s.trBad g).isSome then some 322
    else if !s.stuckTripOff g then some 324
    else if s.bit (.drv .TR_FLAGS) 1 g then some 353
    else if !s.flag (.loop .CHART_STAT_CHART_WARM) || !s.senseReady g || !s.angleReady g then some 355
    else none
  else if g = 2 then
    (if (s.cvBad 0).isSome then some 363 else if s.bit (.edge .OG_EN) 3 then some 403
      else if s.bit (.edge .OG_EN) 4 || s.get (.drv .CV_D2) == 2 then some 404 else none)
  else if g = 3 then (if s.chgBad.isSome then some 401 else if s.bit (.edge .OG_EN) 2 then some 403 else none)
  else if g = 4 then (if s.chgBad.isSome then some 401 else if s.bit (.edge .OG_EN) 2 || s.get (.drv .CV_D2) == 1 then some 404 else none)
  else if g = 5 then (if (s.cvBad 1).isSome then some 363 else none)
  else if g = 6 then (if s.bit (.edge .OG_EN) 7 then some 435 else none)
  else if g = 7 then (if s.bit (.edge .OG_EN) 6 then some 435 else none)
  else none

/-- The drive firmware sets the spread-spectrum control of a converter's domain from the record (R372). -/
def cvSpread (c : Nat) (s : State) : State :=
  let d := s.get (.edge .LEG_CFG_DOMAIN) (cvLeg c)
  let t := (s.set (.edge .DOM_SS_SPAN) (s.cvRec c (if c = 0 then 0x24 else 0x2C) 1) d).set (.edge .DOM_SS_NSM1)
    (s.cvRec c (if c = 0 then 0x26 else 0x2E) 2 - 1) d
  ssEnable d ((s.cvRec c (if c = 0 then 3 else 0x27) 1).testBit 0) t

/-- The drive firmware writes a converter's enable. -/
def cvFirmware (w : Who) (c : Nat) (s : State) : State := match w with | .pair _ => cvSpread c s | _ => s

/-- What follows an enable of a group: a bridge's diagnostics end (R442), a motor catches (R355), a converter starts (R372, R376, R391). -/
def groupStarted (w : Who) (p : Pins) (g : Nat) (s : State) : State :=
  match g with
  | 0 => catchStart 0 s
  | 1 => catchStart 1 s
  | 2 => lineStart p (cvFirmware w 0 (s.set (.drv .CV_D2) 1))
  | 3 => s.set (.drv .CH_SW_AT) (s.now + 1)
  | 4 => s.set (.drv .CV_D2) 2
  | 5 => auxStart (cvFirmware w 1 s)
  | 6 => diagAbort 0 s
  | 7 => diagAbort 1 s
  | 8 => diagAbort 2 s
  | _ => s

/-- What the drive firmware writes before it enables a charging group: the maps of duty channels 6 to 8 for OG2 or OG3, the pattern of the dual
active bridge for OG4 (R403, chapter 11 The on-board charger). -/
def firmwarePrepares (w : Who) (g : Nat) (s : State) : State :=
  match w, g with
  | .pair _, 2 => chargeChannels true s
  | .pair _, 3 => chargeChannels false s
  | .pair _, 4 => loadPpi 2 (s.recN 4 0x46 2) s
  | _, _ => s

/-- A 1 written to the enable bit of a group that is disabled (R188). -/
def groupOn (w : Who) (p : Pins) (g : Nat) (s : State) : State :=
  let t := groupEnable g (firmwarePrepares w g s)
  if t.bit (.edge .OG_EN) g then groupStarted w p g t else t

/-- A write of EDGE_OG_EN: a 1 for a disabled group is an enable, a 0 for an enabled one a disable (R188, R225). -/
def ogEnWrite (w : Who) (p : Pins) (v : Nat) (s : State) : State :=
  s.forUpTo 16 (fun g t =>
    if v.testBit g then (if s.bit (.edge .OG_EN) g then t else groupOn w p g t)
    else if s.bit (.edge .OG_EN) g then disableGroup g t else t)

/-- The drive firmware does not write an enable it withholds; it reports it at level 5. DEDUCED, log entry 36. -/
def firmwareHolds (w : Who) (g : Nat) (s : State) : Option Nat := match w with | .pair _ => s.withheld g | _ => none

/-- An enable of one group by a write of EDGE_OG_EN; one that the drive firmware withholds for want of a motor's angle starts a probe (R356). DEDUCED,
log entry 85. -/
def enableWrite (w : Who) (p : Pins) (g : Nat) (s : State) : State :=
  match firmwareHolds w g s with
  | some r => (s.when (r == 355 && g < 2 && !s.angleReady g) (probeStart g)).send .level5 r g
  | none =>
    let v := s.get (.edge .OG_EN) ||| 2 ^ g
    sideband w (edgeBase + 0x20) v (ogEnWrite w p v) s

/-- A disable of one group by a write of EDGE_OG_EN. -/
def disableWrite (w : Who) (g : Nat) (s : State) : State :=
  let v := andNot (s.get (.edge .OG_EN)) (2 ^ g)
  sideband w (edgeBase + 0x20) v (ogEnWrite w ⟨false, false, false, false, false⟩ v) s

/-- The cause for a level 4 reaction is present in a group: 0 a leg fault, 1 an over-current, 2 a lost lane (R246, R439). -/
def State.reactCause (s : State) (g why : Nat) : Bool :=
  match why with
  | 0 => (s.legsOf g).any s.legFault
  | 1 => decide (6 ≤ g) && decide (g ≤ 8) && s.flag (.act .BR_STAT_OC_LATCH) (g - 6)
  | _ => (s.legsOf g).any (fun n => decide (n < 32) && s.flag (.edge .FL_STAT_LANE_LOST) n && s.get (.edge .FL_STAT_LSTATE) n != 5)

/-- LEG_FAULT_REACTION: the safety island forces the group (R246, R439, R247). -/
def legFaultReaction (g why : Nat) (s : State) : State :=
  if !s.safHeld ∧ s.reactCause g why then setSafForce (2 ^ g) why s else s

/-- A source for which a group latch enters SAFE_HOLD: a GFI in GFI_HOLD, ECL, CM0 to CM2 (R482). -/
def State.holdSource (s : State) (src : Nat) : Bool := (decide (src < 8) && s.bit (.saf .ESC_GFI_HOLD) src) || (decide (68 ≤ src) && decide (src ≤ 71))

/-- The latch of the group comes from such a source: by its CAUSE, or because the source stands asserted and names the group. -/
def State.holdCause (s : State) (g : Nat) : Bool :=
  s.holdSource (s.get (.grd .OG_STAT_CAUSE) g) ||
    (List.range 77).any (fun src => s.holdSource src && s.flag (.grd .SRC_ACT) src && (s.route src).testBit g)

/-- GROUP_FORCE_REACTION (R482). -/
def groupForceReaction (g : Nat) (s : State) : State :=
  if s.safHeld ∨ !s.bit (.grd .OG_LATCH) g then s
  else if s.holdCause g then enterSafeHold 2 s
  else s.send .level4 482 g (s.get (.grd .OG_STAT_CAUSE) g)

/-- The purpose of a reconfiguration window is given: an activation from step 3 to step 5, or an Installer session (R480). -/
def State.windowPurpose (s : State) (act : Bool) : Bool :=
  if act then s.flag (.host .ACT_ON) && decide (2 ≤ s.get (.host .ACT_STEP)) && decide (s.get (.host .ACT_STEP) ≤ 4)
  else (List.range 4).any (fun k => s.get (.host .SES_ID) k != 0 && decide (2 ≤ s.get (.host .SES_ROLE) k))

/-- Every group of a mask is disabled and held by GRD_SAF_FORCE (R480). -/
def State.heldOff (s : State) (m : Nat) : Bool :=
  s.get (.edge .OG_EN) &&& m == 0 && s.get (.grd .SAF_FORCE) &&& m == m

/-- RECONFIGURATION_WINDOW_OPEN; an activation touches OG0 to OG4 (R480). -/
def windowOpen (act : Bool) (m : Nat) (s : State) : State :=
  let m := if act then m ||| 0x1F else m
  if s.safHeld ∨ !s.flag (.saf .LOCK_LOCK) ∨ !s.windowPurpose act ∨ s.get (.saf .AXLE_MODE_MODE) ∉ [0, 1, 5] ∨ !s.heldOff m then s
  else
    let t := s.forUpTo 16 (fun g t => if m.testBit g then t.setBit (.saf .FORCE_CAUSE) 4 g else t)
    (((t.off (.saf .LOCK_LOCK)).on (.saf .LOCK_WINDOW)).off (.saf .LOCK_ISL_LOCK)).off (.grd .STAT_LOCKED) |>.setB (.saf .WIN_PURPOSE) (!act)

/-- The groups held for the open window. -/
def State.windowGroups (s : State) : Nat := ((List.range 16).filter (fun g => s.bit (.saf .FORCE_CAUSE) 4 g)).foldl (fun m g => m + 2 ^ g) 0

/-- The end of a window: LOCK is set; on a match its force bits are released, else SAFE_HOLD is entered (R481). -/
def windowClose (ok : Bool) (s : State) : State :=
  if !s.flag (.saf .LOCK_WINDOW) then s
  else if ok then dropSafForce s.windowGroups 4 (setLock s)
  else enterSafeHold 6 (setLock s)

/-- What a converter's program does in a sample beyond its instructions (R376 to R394). -/
def converterObs (o : ProgObs) (s : State) : State :=
  match o with
  | .converter c line d0 d1 d2 => cvSample c.val line (fun k => if k = 0 then d0.toNat else if k = 1 then d1.toNat else d2.toNat) s
  | .outer => cvOuter s
  | .bus => busSample s
  | _ => s

/-- What the program of the sample in flight found by its inputs (R333 to R357, R376 to R394, R427). -/
def applyObs (obs : List ProgObs) (s : State) : State :=
  obs.foldl (fun t o => converterObs o (tractionObs o t)) s

/-- GROUP_ENABLE (R188). DEDUCED, log entry 34. DEDUCED, log entry 35. DEDUCED, log entry 36. -/
def execGroupEnable (w : Who) (g : GroupIx) (p : Pins) (s : State) : Host.Outcome State Fault Refusal := done (enableWrite w p g.val s)
/-- GROUP_DISABLE (R225). DESIGN CHOICE, log entry 33. -/
def execGroupDisable (w : Who) (g : GroupIx) (s : State) : Host.Outcome State Fault Refusal := done (disableWrite w g.val s)
/-- INTERNAL_SOURCE_ASSERT (R228, R239); that of an engine's escalation source ends its injection (R173). -/
def execInternalSourceAssert (src : Fin 77) (s : State) : Host.Outcome State Fault Refusal :=
  let t := assertSource src.val s
  done (if 48 ≤ src.val ∧ src.val ≤ 63 then injAbort (src.val - 48) 2 t else t)
/-- LEG_FAULT_REACTION (R246). DEDUCED, log entry 40. -/
def execLegFaultReaction (g : GroupIx) (why : Fin 3) (s : State) : Host.Outcome State Fault Refusal := done (legFaultReaction g.val why.val s)
/-- GROUP_FORCE_REACTION (R482). DEDUCED, log entry 40. -/
def execGroupForceReaction (g : GroupIx) (s : State) : Host.Outcome State Fault Refusal := done (groupForceReaction g.val s)
/-- RECONFIGURATION_WINDOW_OPEN (R480). DEDUCED, log entry 41. -/
def execReconfigurationWindowOpen (act : Bool) (m : Half) (s : State) : Host.Outcome State Fault Refusal := done (windowOpen act m.toNat s)
/-- RECONFIGURATION_WINDOW_CLOSE (R481). DEDUCED, log entry 41. -/
def execReconfigurationWindowClose (ok : Bool) (s : State) : Host.Outcome State Fault Refusal := done (windowClose ok s)
/-- WINDOW_TIMEOUT (R481). DEDUCED, log entry 41. -/
def execWindowTimeout (s : State) : Host.Outcome State Fault Refusal := done (windowClose false s)
/-- END (R109). DEDUCED, log entry 27. -/
def execSampleEnd (e : EngIx) (f : Ecc) (obs : List ProgObs) (s : State) : Host.Outcome State Fault Refusal :=
  done (instr e.val 0 f (fun t => sampleEnd e.val (applyObs obs t)) s)

end Sys2Proof.Machine
end

