-- ==== Sys2Proof/Machine/Writes.lean ====
section
/-!
DEFINITION. A sideband write to any register: the effect each register's own rule gives it, else its fields under their access codes (R7).
-/
namespace Sys2Proof.Machine
open Sys2Proof

/-- The safety island writes SAF_AXLE_MODE: REFUSED clears by 1, and another value of MODE is a request for that mode by the safety island
itself, with the conditions of Table: Mode transitions, the reserved code refused (R50, R52, R54, R55). DEDUCED, log entry 75. -/
def modeRegWrite (p : Pins) (v : Nat) (s : State) : State :=
  let t := s.clrMask (.saf .AXLE_MODE_REFUSED) (bits v 9 1)
  let m := bits v 0 3
  if m = t.get (.saf .AXLE_MODE_MODE) then t else if m = 6 then enterSafeHold 6 t else requestMode m 3 p t

/-- A write into the SAF window, at its offset. -/
def safWrite (w : Who) (p : Pins) (a v o : Nat) (s : State) : State :=
  if o = 0x80 then (if w = .safety then modeRegWrite p v s else storeWord w a v s)
  else if o = 0x20 then
    (if w = .safety then (if v.testBit 0 && !s.flag (.saf .LOCK_LOCK) then setLock s else s) else storeWord w a v s)
  else if 0x100 ≤ o ∧ o < 0x1E0 ∧ o % 16 = 0 then
    (if w = .safety then islandCtrl ((o - 0x100) / 16) v s else storeWord w a v s)
  else if 0x400 ≤ o ∧ o < 0x500 ∧ o % 16 = 4 then wdKick w ((o - 0x400) / 16) (v / 65536) s
  else if 0x400 ≤ o ∧ o < 0x500 ∧ o % 16 = 0 then
    let k := (o - 0x400) / 16
    let t := storeWord w a v s
    t.when (!s.flag (.saf .WD_CFG_EN) k && t.flag (.saf .WD_CFG_EN) k) (fun u => (u.set (.saf .WD_AT) s.now k).off (.saf .WD_OPENED) k)
  else storeWord w a v s

/-- A write into a loop engine's window, at its offset. -/
def engineWrite (w : Who) (a v e o : Nat) (s : State) : State :=
  let quiet := s.get (.loop .TRC_CTRL_MODE) e == 0
  if o = 0 then leCtrlWrite e v s
  else if o = 0x10 then (if v.testBit 0 then commitWrite e s else s)
  else if 0x400 ≤ o ∧ o < 0xC00 ∧ o % 256 = 0x2C then lsCtrlWrite e ((o - 0x400) / 256) v s
  else if 0x400 ≤ o ∧ o < 0xC00 ∧ o % 256 = 0x28 then
    let k := (o - 0x400) / 256
    let t := storeWord w a v s
    t.when (!t.flag (.loop .LS_STAT_MISS) e k) (·.off (.loop .LS_STAT_MISS_CAUSE) e k)
  else if 0xC00 ≤ o ∧ o < 0xC10 then groupRegWrite w a v e s
  else if o = 0xD00 then trcCtrlWrite e v s
  else if o = 0xD08 then
    let t := s.set (.loop .TRC_POST_POST) (v % 65536) e
    let t := t.when (v.testBit 16) (trcArm e)
    t.when (v.testBit 17) (trcForce e)
  else if 0xD40 ≤ o ∧ o < 0xD80 then (if quiet then storeWord w a v s else s.on (.loop .LE_STAT_CFG_BUSY) e)
  else if o = 0xE00 then
    (if v.testBit 1 then injFields e v (injAbort e 3 s)
    else if v.testBit 0 then injStart e (injFields e v s) else injFields e v s)
  else storeWord w a v s

/-- The safety island may set PERMIT bits: in COMMISSION, or while a self-test runs (R169). -/
def State.permitOk (s : State) : Bool := s.get (.saf .AXLE_MODE_MODE) == 5 || s.flag (.saf .STEST_RUNNING)

/-- A write into the LOOP window; the safety island sets no PERMIT bit where it may not (R169). -/
def loopWrite (w : Who) (a x : Nat) (s : State) : State :=
  let v := if a = 0x1031000088 ∧ w = .safety ∧ !s.permitOk then x &&& s.get (.loop .INJ_PERMIT) else x
  if a < 0x1031000000 then engineWrite w a v ((a - 0x1030000000) / 0x100000) (a % 0x100000) s
  else
    let t := storeWord w a v s
    if a = chartCtrlAddr then (if v.testBit 3 then chartInval t else refreshWarm t)
    else if a = 0x1031000088 then
      s.forUpTo 16 (fun e u => if s.bit (.loop .INJ_PERMIT) e && !t.bit (.loop .INJ_PERMIT) e then permitClear e u else u) |>
        storeWord w a v
    else t

/-- A write of EDGE_DOM[d]_SS: EN acts where it changes (R370). -/
def domSsWrite (w : Who) (a d v : Nat) (s : State) : State :=
  let was := s.flag (.edge .DOM_SS_EN) d
  let t := storeWord w a v s
  if v.testBit 0 == was then t else ssEnable d (v.testBit 0) t

/-- A write into a domain's block, at its offset. -/
def domWrite (w : Who) (a v d r : Nat) (s : State) : State :=
  match r with
  | 0x00 => domCtrlWrite d v s
  | 0x04 => periodWrite d (v % 2 ^ 27) s
  | 0x08 => if v.testBit 0 then loadAll d s else s
  | 0x14 => domSsWrite w a d v s
  | 0x18 => if s.flag (.edge .DOM_SS_EN) d then s.on (.edge .DOM_SS_SS_BUSY) d else storeWord w a v s
  | _ => storeWord w a v s

/-- A write into a leg's block, at its offset (R198, R213). -/
def legWrite (w : Who) (a v n r : Nat) (s : State) : State :=
  match r with
  | 0x00 => legCfgWrite n .cfg v s
  | 0x04 => dutyWrite n (v % 2 ^ 27) s
  | 0x14 => legCfgWrite n .refresh v s
  | 0x20 => legCfgWrite n .cmt v s
  | 0x24 => legCfgWrite n .six v s
  | _ => storeWord w a v s

/-- A write into a link's block, at its offset (R284, EDGE_FL[n]_CTRL). -/
def linkWrite (w : Who) (a v n r : Nat) (s : State) : State :=
  if r = 4 then linkCtrl n v s
  else if 0x20 ≤ r ∧ r < 0x30 then profileWrite n ((r - 0x20) / 4) v s
  else storeWord w a v s

/-- A write into the EDGE window, at its offset. -/
def edgeWrite (w : Who) (p : Pins) (a v o : Nat) (s : State) : State :=
  if o = 0x08 then edgeStatWrite v s
  else if o = 0x0C then
    loadAllMask (v % 256) (s.forUpTo 8 (fun d u => if v.testBit (8 + d) then domainStart d u else u))
  else if o = 0x20 then ogEnWrite w p v s
  else if 0x100 ≤ o ∧ o < 0x200 then domWrite w a v ((o - 0x100) / 0x20) (o % 0x20) s
  else if 0x200 ≤ o ∧ o < 0x280 ∧ o % 0x20 = 0 then playerCfgWrite ((o - 0x200) / 0x20) v s
  else if 0x400 ≤ o ∧ o < 0xC00 then legWrite w a v ((o - 0x400) / 0x40) (o % 0x40) s
  else if 0x1000 ≤ o ∧ o < 0x1240 then legWrite w a v (32 + (o - 0x1000) / 0x40) (o % 0x40) s
  else if 0xE10 ≤ o ∧ o < 0xE50 ∧ o % 16 = 0 then tsCtrlWrite ((o - 0xE10) / 16) v (storeWord w a v s)
  else if 0x2000 ≤ o ∧ o < 0x2800 then linkWrite w a v ((o - 0x2000) / 0x40) (o % 0x40) s
  else storeWord w a v s

/-- A write into the GRD window, at its offset. -/
def grdWrite (w : Who) (a v o : Nat) (s : State) : State :=
  if 0x10 ≤ o ∧ o < 0x1C then sourceLatchClear ((o - 0x10) / 4) v s
  else if o = 0x80 then groupLatchClear v s
  else if o = 0x88 then (if w = .safety then bandWrite (v % 65536) s else storeWord w a v s)
  else if o = 0x8C then (if w = .safety then safForceWrite (v % 65536) s else storeWord w a v s)
  else if o = 0x90 then legFaultClear v s
  else if o = 0x98 then alegFaultClear v s
  else if 0x100 ≤ o ∧ o < 0x140 then
    let g := (o - 0x100) / 4
    let t := storeWord w a v s
    if s.safeLevel g ≠ t.safeLevel g then levelChanged g t else t
  else if 0x200 ≤ o ∧ o < 0x220 then gfiConfigured ((o - 0x200) / 4) (storeWord w a v s)
  else if 0x300 ≤ o ∧ o < 0x340 then windowConfigured ((o - 0x300) / 4) (storeWord w a v s)
  else storeWord w a v s

/-- A write into the SNS window, at its offset. -/
def snsWrite (w : Who) (a v o : Nat) (s : State) : State :=
  if 0x10 ≤ o ∧ o < 0x20 then sdclkWrite ((o - 0x10) / 4) v s
  else if 0x100 ≤ o ∧ o < 0x280 ∧ o % 16 = 0 then sdCfgWrite w ((o - 0x100) / 16) v s
  else if 0x400 ≤ o ∧ o < 0x480 ∧ o % 16 = 0 then
    let c := (o - 0x400) / 16
    (fcCfgWrite w c v s).when (v.testBit 9) (fcTrig c)
  else if 0x500 ≤ o ∧ o < 0x540 ∧ o % 32 = 0 then resCfgWrite w ((o - 0x500) / 32) v s
  else if o = 0x600 then hkCtrlWrite v s
  else if o = 0x608 ∧ v.testBit 5 then hkUrgent v s
  else if 0x700 ≤ o ∧ o < 0x780 then hkChWrite w ((o - 0x700) / 4) v s
  else if o = 0x810 then cpWrite v s
  else storeWord w a v s

/-- A write into the ACT window, at its offset; OC_LATCH clears only while OC reads 0. -/
def actWrite (w : Who) (a v o : Nat) (s : State) : State :=
  if 0x100 ≤ o ∧ o < 0x160 then
    let b := (o - 0x100) / 0x20
    match o % 0x20 with
    | 0x00 => brCfgWrite w b false v s
    | 0x04 => brCfgWrite w b true v s
    | 0x08 => diagWrite b v s
    | 0x10 => storeWord w a (if s.flag (.act .BR_STAT_OC) b then andNot v 0x100 else v) s
    | _ => storeWord w a v s
  else storeWord w a v s

/-- A write of a word of a memory that is read as words: tide stores (R79), schedule banks (R125), program memory (R104), data memory;
the trace RAM is read only. -/
def wordMemWrite (a v : Nat) (s : State) : State :=
  if 0x1041000000 ≤ a then tideStoreWrite ((a - 0x1041000000) / 0x10000) (a % 0x10000 / 4) v s
  else
    let e := (a - 0x1030000000) / 0x100000
    let o := a % 0x100000
    if o < 0x1800 then
      (if s.activeBank e = (o - 0x1000) / 0x400 ∨ s.flag (.loop .SCHED_STAT_COMMIT_PEND) e then s.on (.loop .SCHED_STAT_SLOT_BUSY) e
      else s.writeN a v 4)
    else if o < 0x48000 then
      (if s.get (.loop .LE_STAT_STATE) e = 0 then s.writeN a v 4 else s.on (.loop .LE_STAT_CFG_BUSY) e)
    else if o < 0x64000 then s.writeN a v 4
    else s

/-- The effect of a word written to a register, by its island. -/
def registerEffect (w : Who) (p : Pins) (a v : Nat) (s : State) : State :=
  if memWindow a then wordMemWrite a v s
  else match windowOf a with
  | some 0 => safWrite w p a v (a - 0x1000000000) s
  | some 6 => loopWrite w a v s
  | some 7 => edgeWrite w p a v (a - 0x1040000000) s
  | some 8 => grdWrite w a v (a - 0x1050000000) s
  | some 9 => snsWrite w a v (a - 0x1060000000) s
  | some 10 =>
    if a = 0x1070000060 then frBaseWrite v s else if a = 0x1070000064 then frSizeWrite v s else storeWord w a v s
  | some 11 => actWrite w a v (a - 0x1080000000) s
  | some 12 =>
    let t := storeWord w a v s
    if a = 0x1090000028 then t.set (.aon .ALARM_AT) (if v % 2 ^ 24 = 0 then 0 else s.now + 1) else t
  | _ => storeWord w a v s

/-- A sideband access that is narrower than 32 bits or unaligned, to an open island, is answered with an access error (R5). -/
def misfit (w : Who) (a : Nat) (s : State) : State :=
  match windowOf a with
  | none => s.answer (.error 2)
  | some n => if !s.islandOpen n w then (s.on (.saf .ISL_STAT_CLOSED_SEEN) n).answer .closed else s.answer .accessError

/-- The bits of the register at an address that a written 1 clears (R7). -/
def w1cBits (a : Nat) : Nat :=
  match findReg a regTable with
  | some (r, _, _) => (r.places.map (fun p => if p.f.spec.acc = .w1c then (2 ^ p.f.spec.w - 1) * 2 ^ p.lo else 0)).sum
  | none => 0

/-- What a write leaves of its W1C bits where hardware sets bits in the same sideband cycle: the hardware set wins, and a bit that it sets
stays 1 (R9). DEDUCED, log entry 74. -/
def settled (a v same : Nat) : Nat := if same = 0 then v else andNot v (same &&& w1cBits a)

/-- A sideband write of a word, or (`wide` false) of less. -/
def registerWrite (w : Who) (p : Pins) (a v : Nat) (wide : Bool) (s : State) : State :=
  if !wide ∨ a % 4 ≠ 0 then misfit w a s
  else refusedKick w a (v / 65536) (sideband w a v (registerEffect w p a v) s)

/-- REGISTER_WRITE (R7, R9). DEDUCED, log entry 15. -/
def execRegisterWrite (w : Who) (a : BitVec 40) (wide : Bool) (v : Word) (p : Pins) (same : Word) (s : State) :
    Host.Outcome State Fault Refusal :=
  done (registerWrite w p a.toNat (settled a.toNat v.toNat same.toNat) wide s)

end Sys2Proof.Machine
end

