-- ==== Sys2Proof/Machine/Dispatch.lean ====
section
/-!
DEFINITION. What each command does, on everything but the queue: one arm per constructor.
-/
namespace Sys2Proof.Machine
open Sys2Proof

def exec (i : Instr) (s : State) : Host.Outcome State Fault Refusal :=
  match i with
  | .registerWrite w a wide v p same => Sys2Proof.Machine.execRegisterWrite w a wide v p same s
  | .reqStateWrite w n st force => Sys2Proof.Machine.execReqStateWrite w n st force s
  | .islandTransitionComplete n => Sys2Proof.Machine.execIslandTransitionComplete n s
  | .drainComplete n => Sys2Proof.Machine.execDrainComplete n s
  | .drainTimeout n => Sys2Proof.Machine.execDrainTimeout n s
  | .straitWordReceive src dst payload par kind kpar => Sys2Proof.Machine.execStraitWordReceive src dst payload par kind kpar s
  | .straitTimeout q n => Sys2Proof.Machine.execStraitTimeout q n s
  | .timeoutReaction n => Sys2Proof.Machine.execTimeoutReaction n s
  | .parityReaction n => Sys2Proof.Machine.execParityReaction n s
  | .aonOscillatorCheck stopped dev => Sys2Proof.Machine.execAonOscillatorCheck stopped dev s
  | .modeChangeComplete => Sys2Proof.Machine.execModeChangeComplete s
  | .chartLookup e f o => Sys2Proof.Machine.execChartLookup e f o s
  | .lookupLate e => Sys2Proof.Machine.execLookupLate e s
  | .tileFillComplete m tile => Sys2Proof.Machine.execTileFillComplete m tile s
  | .tileFillClosed => Sys2Proof.Machine.execTileFillClosed s
  | .chartInval w v => Sys2Proof.Machine.execChartInval w v s
  | .tideStoreWrite w p k v => Sys2Proof.Machine.execTideStoreWrite w p k v s
  | .loadPpiWrite w p v => Sys2Proof.Machine.execLoadPpiWrite w p v s
  | .tideLoadComplete p => Sys2Proof.Machine.execTideLoadComplete p s
  | .tideLoadClosed p => Sys2Proof.Machine.execTideLoadClosed p s
  | .pageRequest p ppi => Sys2Proof.Machine.execPageRequest p ppi s
  | .tideMissLimit p => Sys2Proof.Machine.execTideMissLimit p s
  | .activationStep a => Sys2Proof.Machine.execActivationStep a s
  | .engineStart w e v => Sys2Proof.Machine.execEngineStart w e v s
  | .engineDisable w e v => Sys2Proof.Machine.execEngineDisable w e v s
  | .faultClr w e v => Sys2Proof.Machine.execFaultClr w e v s
  | .frameBoundary e => Sys2Proof.Machine.execFrameBoundary e s
  | .inputPortArrival e p v => Sys2Proof.Machine.execInputPortArrival e p v s
  | .sampleTrigger e idx => Sys2Proof.Machine.execSampleTrigger e idx s
  | .sampleEnd e f obs => Sys2Proof.Machine.execSampleEnd e f obs s
  | .portClosed e => Sys2Proof.Machine.execPortClosed e s
  | .deadlineMiss e idx late => Sys2Proof.Machine.execDeadlineMiss e idx late s
  | .missLimitReached e k => Sys2Proof.Machine.execMissLimitReached e k s
  | .ctrl e f o => Sys2Proof.Machine.execCtrl e f o s
  | .move e f o => Sys2Proof.Machine.execMove e f o s
  | .arith e f o d a b => Sys2Proof.Machine.execArith e f o d a b s
  | .mac e f q acc d a b => Sys2Proof.Machine.execMac e f q acc d a b s
  | .trig e f o d a b => Sys2Proof.Machine.execTrig e f o d a b s
  | .xform e f o d0 d1 a b c => Sys2Proof.Machine.execXform e f o d0 d1 a b c s
  | .port e f o => Sys2Proof.Machine.execPort e f o s
  | .slew e f k => Sys2Proof.Machine.execSlew e f k s
  | .gain e f k => Sys2Proof.Machine.execGain e f k s
  | .law e f k d => Sys2Proof.Machine.execLaw e f k d s
  | .model e f => Sys2Proof.Machine.execModel e f s
  | .plausibilityViolation e k => Sys2Proof.Machine.execPlausibilityViolation e k s
  | .holdRelease e k => Sys2Proof.Machine.execHoldRelease e k s
  | .primingEnd e k => Sys2Proof.Machine.execPrimingEnd e k s
  | .trace e f o => Sys2Proof.Machine.execTrace e f o s
  | .esc e f o => Sys2Proof.Machine.execEsc e f o s
  | .illegalInstruction e f => Sys2Proof.Machine.execIllegalInstruction e f s
  | .programMemoryWrite w e k v => Sys2Proof.Machine.execProgramMemoryWrite w e k v s
  | .scheduleBankWrite w e b k v => Sys2Proof.Machine.execScheduleBankWrite w e b k v s
  | .commit w e => Sys2Proof.Machine.execCommit w e s
  | .commitCheckDone e => Sys2Proof.Machine.execCommitCheckDone e s
  | .apply w e k v => Sys2Proof.Machine.execApply w e k v s
  | .reprime w e k v => Sys2Proof.Machine.execReprime w e k v s
  | .groupRegisterWrite w e g v => Sys2Proof.Machine.execGroupRegisterWrite w e g v s
  | .debugHalt x => Sys2Proof.Machine.execDebugHalt x s
  | .debugResume x => Sys2Proof.Machine.execDebugResume x s
  | .traceDone e => Sys2Proof.Machine.execTraceDone e s
  | .streamCopyComplete e => Sys2Proof.Machine.execStreamCopyComplete e s
  | .trcCtrlWrite w e v => Sys2Proof.Machine.execTrcCtrlWrite w e v s
  | .trcSigWrite w e idx v => Sys2Proof.Machine.execTrcSigWrite w e idx v s
  | .arm w e v => Sys2Proof.Machine.execArm w e v s
  | .traceForce w e post => Sys2Proof.Machine.execTraceForce w e post s
  | .traceThrottleWrite w v => Sys2Proof.Machine.execTraceThrottleWrite w v s
  | .injectionStart w e v => Sys2Proof.Machine.execInjectionStart w e v s
  | .injectionStop w e v => Sys2Proof.Machine.execInjectionStop w e v s
  | .injectionDone e => Sys2Proof.Machine.execInjectionDone e s
  | .permitClear e => Sys2Proof.Machine.execPermitClear e s
  | .domainStart w m => Sys2Proof.Machine.execDomainStart w m s
  | .syncStart w start ldall => Sys2Proof.Machine.execSyncStart w start ldall s
  | .domainStop w d dbl strict => Sys2Proof.Machine.execDomainStop w d dbl strict s
  | .loadAllRequest w m => Sys2Proof.Machine.execLoadAllRequest w m s
  | .sampleInstant d half => Sys2Proof.Machine.execSampleInstant d half s
  | .reloadBoundary d => Sys2Proof.Machine.execReloadBoundary d s
  | .ssEnable w d en => Sys2Proof.Machine.execSsEnable w d en s
  | .halfBoundary d => Sys2Proof.Machine.execHalfBoundary d s
  | .domainTriggerEvent d e => Sys2Proof.Machine.execDomainTriggerEvent d e s
  | .groupEnable w g p => Sys2Proof.Machine.execGroupEnable w g p s
  | .groupDisable w g => Sys2Proof.Machine.execGroupDisable w g s
  | .legCfgWrite w n r v => Sys2Proof.Machine.execLegCfgWrite w n r v s
  | .dutyChannelWrite c v => Sys2Proof.Machine.execDutyChannelWrite c v s
  | .rateWrite w p v => Sys2Proof.Machine.execRateWrite w p v s
  | .corrWrite p v => Sys2Proof.Machine.execCorrWrite p v s
  | .angleSetWrite w p v => Sys2Proof.Machine.execAngleSetWrite w p v s
  | .channelEdge n r => Sys2Proof.Machine.execChannelEdge n r s
  | .deadTimeExpiry n => Sys2Proof.Machine.execDeadTimeExpiry n s
  | .ilFault n => Sys2Proof.Machine.execIlFault n s
  | .tideEntryFire p => Sys2Proof.Machine.execTideEntryFire p s
  | .sixstepCrossing n => Sys2Proof.Machine.execSixstepCrossing n s
  | .hallStateChange b v => Sys2Proof.Machine.execHallStateChange b v s
  | .bootIntervalExpiry n => Sys2Proof.Machine.execBootIntervalExpiry n s
  | .refreshPulseEnd n => Sys2Proof.Machine.execRefreshPulseEnd n s
  | .bootUvReport n => Sys2Proof.Machine.execBootUvReport n s
  | .bootUvTest n => Sys2Proof.Machine.execBootUvTest n s
  | .edgeClockLoss => Sys2Proof.Machine.execEdgeClockLoss s
  | .clkLostClear w v => Sys2Proof.Machine.execClkLostClear w v s
  | .gfiAssert idx ns => Sys2Proof.Machine.execGfiAssert idx ns s
  | .gfiGlitch idx ns => Sys2Proof.Machine.execGfiGlitch idx ns s
  | .gfiDeassert idx => Sys2Proof.Machine.execGfiDeassert idx s
  | .windowComparatorChange c v => Sys2Proof.Machine.execWindowComparatorChange c v s
  | .internalSourceAssert src => Sys2Proof.Machine.execInternalSourceAssert src s
  | .internalSourceDeassert src => Sys2Proof.Machine.execInternalSourceDeassert src s
  | .cmWindowEnd m count => Sys2Proof.Machine.execCmWindowEnd m count s
  | .safForceWrite w m => Sys2Proof.Machine.execSafForceWrite w m s
  | .sourceLatchClear w k m => Sys2Proof.Machine.execSourceLatchClear w k m s
  | .groupLatchClear w m => Sys2Proof.Machine.execGroupLatchClear w m s
  | .legFaultLatchClear w m => Sys2Proof.Machine.execLegFaultLatchClear w m s
  | .alegFaultLatchClear w m => Sys2Proof.Machine.execAlegFaultLatchClear w m s
  | .safeDeadTimeExpiry g => Sys2Proof.Machine.execSafeDeadTimeExpiry g s
  | .bandEvaluation => Sys2Proof.Machine.execBandEvaluation s
  | .bandSelectWrite w m => Sys2Proof.Machine.execBandSelectWrite w m s
  | .ringOscillatorCheck stopped dev => Sys2Proof.Machine.execRingOscillatorCheck stopped dev s
  | .legFaultReaction g why => Sys2Proof.Machine.execLegFaultReaction g why s
  | .safForceRelease g => Sys2Proof.Machine.execSafForceRelease g s
  | .groupForceReaction g => Sys2Proof.Machine.execGroupForceReaction g s
  | .heartbeatTransition n => Sys2Proof.Machine.execHeartbeatTransition n s
  | .faultInstant n pos => Sys2Proof.Machine.execFaultInstant n pos s
  | .linkWaitExpiry n => Sys2Proof.Machine.execLinkWaitExpiry n s
  | .cap n c => Sys2Proof.Machine.execCap n c s
  | .ack n code echo => Sys2Proof.Machine.execAck n code echo s
  | .rateChangeSilenceEnd n => Sys2Proof.Machine.execRateChangeSilenceEnd n s
  | .nak n code cause => Sys2Proof.Machine.execNak n code cause s
  | .replyTimeout n => Sys2Proof.Machine.execReplyTimeout n s
  | .settleRetryWait n => Sys2Proof.Machine.execSettleRetryWait n s
  | .failTimeout n => Sys2Proof.Machine.execFailTimeout n s
  | .laneFrameError n crc => Sys2Proof.Machine.execLaneFrameError n crc s
  | .telem n v => Sys2Proof.Machine.execTelem n v s
  | .telemPollTimer n => Sys2Proof.Machine.execTelemPollTimer n s
  | .alert n v => Sys2Proof.Machine.execAlert n v s
  | .faultData n cause => Sys2Proof.Machine.execFaultData n cause s
  | .diagData n gate node desat => Sys2Proof.Machine.execDiagData n gate node desat s
  | .diagPoll n => Sys2Proof.Machine.execDiagPoll n s
  | .relink w n => Sys2Proof.Machine.execRelink w n s
  | .stageClr w n => Sys2Proof.Machine.execStageClr w n s
  | .diagGo w n => Sys2Proof.Machine.execDiagGo w n s
  | .telNow w n => Sys2Proof.Machine.execTelNow w n s
  | .profileSlotWrite w n k v => Sys2Proof.Machine.execProfileSlotWrite w n k v s
  | .sdclkWrite w k v => Sys2Proof.Machine.execSdclkWrite w k v s
  | .sdCfgWrite w c v => Sys2Proof.Machine.execSdCfgWrite w c v s
  | .sdFilled c l => Sys2Proof.Machine.execSdFilled c l s
  | .sdResultTake c l => Sys2Proof.Machine.execSdResultTake c l s
  | .sdResultSend c => Sys2Proof.Machine.execSdResultSend c s
  | .sdTripAssert c l => Sys2Proof.Machine.execSdTripAssert c l s
  | .sdTripDeassert c l => Sys2Proof.Machine.execSdTripDeassert c l s
  | .sdStuck c l => Sys2Proof.Machine.execSdStuck c l s
  | .sdUnstuck c l => Sys2Proof.Machine.execSdUnstuck c l s
  | .fcTrigger c x => Sys2Proof.Machine.execFcTrigger c x s
  | .fcConversionComplete c codes => Sys2Proof.Machine.execFcConversionComplete c codes s
  | .fcSettled c => Sys2Proof.Machine.execFcSettled c s
  | .resolverEnable w r v => Sys2Proof.Machine.execResolverEnable w r v s
  | .resolverSample r sinCode cosCode => Sys2Proof.Machine.execResolverSample r sinCode cosCode s
  | .resolverValid r => Sys2Proof.Machine.execResolverValid r s
  | .excFault r => Sys2Proof.Machine.execExcFault r s
  | .hkConversionComplete code => Sys2Proof.Machine.execHkConversionComplete code s
  | .hkUrgentRequest w v => Sys2Proof.Machine.execHkUrgentRequest w v s
  | .hkDataRead w => Sys2Proof.Machine.execHkDataRead w s
  | .pilotStateChange osc h low duty => Sys2Proof.Machine.execPilotStateChange osc h low duty s
  | .s2Write w v => Sys2Proof.Machine.execS2Write w v s
  | .vselDebounce raw => Sys2Proof.Machine.execVselDebounce raw s
  | .currentSharing m => Sys2Proof.Machine.execCurrentSharing m s
  | .wPhaseTrim m w1 w2 => Sys2Proof.Machine.execWPhaseTrim m w1 w2 s
  | .commandCurveEval m => Sys2Proof.Machine.execCommandCurveEval m s
  | .limpHomeEntry m => Sys2Proof.Machine.execLimpHomeEntry m s
  | .ominUpdate m v => Sys2Proof.Machine.execOminUpdate m v s
  | .junctionReport m x v => Sys2Proof.Machine.execJunctionReport m x v s
  | .damageRateEval m => Sys2Proof.Machine.execDamageRateEval m s
  | .wearSnapshot => Sys2Proof.Machine.execWearSnapshot s
  | .tractionStatusWrite m => Sys2Proof.Machine.execTractionStatusWrite m s
  | .omaxUpdate c => Sys2Proof.Machine.execOmaxUpdate c s
  | .contactorClosedReport => Sys2Proof.Machine.execContactorClosedReport s
  | .softStartEnd c => Sys2Proof.Machine.execSoftStartEnd c s
  | .handoverRampEnd p => Sys2Proof.Machine.execHandoverRampEnd p s
  | .hiccupEntry c => Sys2Proof.Machine.execHiccupEntry c s
  | .hicOffExpiry c present => Sys2Proof.Machine.execHicOffExpiry c present s
  | .hicRunReset c => Sys2Proof.Machine.execHicRunReset c s
  | .phaseOpen c k => Sys2Proof.Machine.execPhaseOpen c k s
  | .phaseReconfiguration present => Sys2Proof.Machine.execPhaseReconfiguration present s
  | .vselRead => Sys2Proof.Machine.execVselRead s
  | .converterStatusWrite c => Sys2Proof.Machine.execConverterStatusWrite c s
  | .domainHandover step dab trgA trgB => Sys2Proof.Machine.execDomainHandover step dab trgA trgB s
  | .chargingTargetEval ac tmod => Sys2Proof.Machine.execChargingTargetEval ac tmod s
  | .suspendTimeout => Sys2Proof.Machine.execSuspendTimeout s
  | .proximityDecode shown => Sys2Proof.Machine.execProximityDecode shown s
  | .bmsMessageReceived port xl id v => Sys2Proof.Machine.execBmsMessageReceived port xl id v s
  | .bmsTimeout k => Sys2Proof.Machine.execBmsTimeout k s
  | .modStatusSend => Sys2Proof.Machine.execModStatusSend s
  | .batteryRemovedReaction => Sys2Proof.Machine.execBatteryRemovedReaction s
  | .prechargeMatch => Sys2Proof.Machine.execPrechargeMatch s
  | .prechargeTimeout => Sys2Proof.Machine.execPrechargeTimeout s
  | .dcContactorOpen => Sys2Proof.Machine.execDcContactorOpen s
  | .weldCheckTimeout => Sys2Proof.Machine.execWeldCheckTimeout s
  | .chargingStatusWrite => Sys2Proof.Machine.execChargingStatusWrite s
  | .overCurrent b => Sys2Proof.Machine.execOverCurrent b s
  | .actBrCfgWrite w b p3 v => Sys2Proof.Machine.execActBrCfgWrite w b p3 v s
  | .actDiagGo w b v => Sys2Proof.Machine.execActDiagGo w b v s
  | .actDiagStepEnd b z => Sys2Proof.Machine.execActDiagStepEnd b z s
  | .hallAccept b v => Sys2Proof.Machine.execHallAccept b v s
  | .hallFault b => Sys2Proof.Machine.execHallFault b s
  | .sentFrameReceived c tick six crc fc1 fc2 scn slow => Sys2Proof.Machine.execSentFrameReceived c tick six crc fc1 fc2 scn slow s
  | .sentTimeout c => Sys2Proof.Machine.execSentTimeout c s
  | .sentSlowRead w c => Sys2Proof.Machine.execSentSlowRead w c s
  | .shiftPhaseComplete => Sys2Proof.Machine.execShiftPhaseComplete s
  | .shiftAbort c => Sys2Proof.Machine.execShiftAbort c s
  | .parkMoveEnd e => Sys2Proof.Machine.execParkMoveEnd e s
  | .tmrMismatch kind word x0 x1 x2 => Sys2Proof.Machine.execTmrMismatch kind word x0 x1 x2 s
  | .resyncComplete => Sys2Proof.Machine.execResyncComplete s
  | .selfWatchdogExpiry => Sys2Proof.Machine.execSelfWatchdogExpiry s
  | .lockstepMismatch p => Sys2Proof.Machine.execLockstepMismatch p s
  | .pairRestart p => Sys2Proof.Machine.execPairRestart p s
  | .pairReadyReport p => Sys2Proof.Machine.execPairReadyReport p s
  | .watchdogKick k w key => Sys2Proof.Machine.execWatchdogKick k w key s
  | .watchdogCloseExpiry w => Sys2Proof.Machine.execWatchdogCloseExpiry w s
  | .watchdogProbe w ans => Sys2Proof.Machine.execWatchdogProbe w ans s
  | .watchdogReaction w => Sys2Proof.Machine.execWatchdogReaction w s
  | .lock => Sys2Proof.Machine.execLock s
  | .reconfigurationWindowOpen act m => Sys2Proof.Machine.execReconfigurationWindowOpen act m s
  | .reconfigurationWindowClose ok => Sys2Proof.Machine.execReconfigurationWindowClose ok s
  | .windowTimeout => Sys2Proof.Machine.execWindowTimeout s
  | .contactorCloseRequest c => Sys2Proof.Machine.execContactorCloseRequest c s
  | .coilPullEnd c => Sys2Proof.Machine.execCoilPullEnd c s
  | .openingGapExpiry => Sys2Proof.Machine.execOpeningGapExpiry s
  | .packPrechargeCompare v => Sys2Proof.Machine.execPackPrechargeCompare v s
  | .packPrechargeTimeout => Sys2Proof.Machine.execPackPrechargeTimeout s
  | .coilFault c short => Sys2Proof.Machine.execCoilFault c short s
  | .jtagInstruction idx => Sys2Proof.Machine.execJtagInstruction idx s
  | .extest => Sys2Proof.Machine.execExtest s
  | .memoryRequest w p wr a n data e => Sys2Proof.Machine.execMemoryRequest w p wr a n data e s
  | .arbiterGrant => Sys2Proof.Machine.execArbiterGrant s
  | .memoryResponse x os => Sys2Proof.Machine.execMemoryResponse x os s
  | .portClassWrite w p v => Sys2Proof.Machine.execPortClassWrite w p v s
  | .scrubStep f => Sys2Proof.Machine.execScrubStep f s
  | .scrubPassLate => Sys2Proof.Machine.execScrubPassLate s
  | .lagoonScrubStep o => Sys2Proof.Machine.execLagoonScrubStep o s
  | .dramInitChartDone => Sys2Proof.Machine.execDramInitChartDone s
  | .dramInitDone => Sys2Proof.Machine.execDramInitDone s
  | .frAllocRead w => Sys2Proof.Machine.execFrAllocRead w s
  | .frEnable w v => Sys2Proof.Machine.execFrEnable w v s
  | .narrowsFrameReceived f => Sys2Proof.Machine.execNarrowsFrameReceived f s
  | .canSegmentReceived p n hdr full data => Sys2Proof.Machine.execCanSegmentReceived p n hdr full data s
  | .segmentTimeout p n => Sys2Proof.Machine.execSegmentTimeout p n s
  | .hello n pvMin pvMax => Sys2Proof.Machine.execHello n pvMin pvMax s
  | .loginStart n role key => Sys2Proof.Machine.execLoginStart n role key s
  | .loginProve n heph hsig aud => Sys2Proof.Machine.execLoginProve n heph hsig aud s
  | .logout n aud => Sys2Proof.Machine.execLogout n aud s
  | .keepalive n => Sys2Proof.Machine.execKeepalive n s
  | .modeReq n tgt p aud => Sys2Proof.Machine.execModeReq n tgt p aud s
  | .safeHoldReq n => Sys2Proof.Machine.execSafeHoldReq n s
  | .transportReq n p => Sys2Proof.Machine.execTransportReq n p s
  | .driveCmd n ca da cb db alive => Sys2Proof.Machine.execDriveCmd n ca da cb db alive s
  | .vehicleState n spd odo alive => Sys2Proof.Machine.execVehicleState n spd odo alive s
  | .shiftReq n tgt => Sys2Proof.Machine.execShiftReq n tgt s
  | .parkReq n v => Sys2Proof.Machine.execParkReq n v s
  | .statusRead n b => Sys2Proof.Machine.execStatusRead n b s
  | .subscribe n mask period trace => Sys2Proof.Machine.execSubscribe n mask period trace s
  | .subscriptionReport k => Sys2Proof.Machine.execSubscriptionReport k s
  | .frInfo n => Sys2Proof.Machine.execFrInfo n s
  | .chgStart n => Sys2Proof.Machine.execChgStart n s
  | .chgStop n => Sys2Proof.Machine.execChgStop n s
  | .chgPause n v => Sys2Proof.Machine.execChgPause n v s
  | .faultList n => Sys2Proof.Machine.execFaultList n s
  | .faultClear n item ix aud => Sys2Proof.Machine.execFaultClear n item ix aud s
  | .dpOpen n addr inc dir aud => Sys2Proof.Machine.execDpOpen n addr inc dir aud s
  | .dpClose n handle aud => Sys2Proof.Machine.execDpClose n handle aud s
  | .dataWr k handle bidx data os aud => Sys2Proof.Machine.execDataWr k handle bidx data os aud s
  | .dataRdReq k handle bidx n os aud => Sys2Proof.Machine.execDataRdReq k handle bidx n os aud s
  | .pkgCommit n slot size aud => Sys2Proof.Machine.execPkgCommit n slot size aud s
  | .pkgActivate n slot aud => Sys2Proof.Machine.execPkgActivate n slot aud s
  | .floorRaise n aud => Sys2Proof.Machine.execFloorRaise n aud s
  | .pkgInfo n => Sys2Proof.Machine.execPkgInfo n s
  | .paramWrite n r off data aud => Sys2Proof.Machine.execParamWrite n r off data aud s
  | .limitSet n l v aud => Sys2Proof.Machine.execLimitSet n l v aud s
  | .inject n e img aud => Sys2Proof.Machine.execInject n e img aud s
  | .auditExport n first cnt => Sys2Proof.Machine.execAuditExport n first cnt s
  | .islandReq n idx st force aud => Sys2Proof.Machine.execIslandReq n idx st force aud s
  | .keyInstall n role x y aud => Sys2Proof.Machine.execKeyInstall n role x y aud s
  | .keyRevoke n key aud => Sys2Proof.Machine.execKeyRevoke n key aud s
  | .certInstall n size aud => Sys2Proof.Machine.execCertInstall n size aud s
  | .fwCommit n slot size chk aud => Sys2Proof.Machine.execFwCommit n slot size chk aud s
  | .fwActivate n slot aud => Sys2Proof.Machine.execFwActivate n slot aud s
  | .debugStart n => Sys2Proof.Machine.execDebugStart n s
  | .debugProve n sig aud => Sys2Proof.Machine.execDebugProve n sig aud s
  | .bootHeader n split sig sigOk aud => Sys2Proof.Machine.execBootHeader n split sig sigOk aud s
  | .absLimitSet n l v aud => Sys2Proof.Machine.execAbsLimitSet n l v aud s
  | .longCommandComplete n st => Sys2Proof.Machine.execLongCommandComplete n st s
  | .inProgressRepeat n => Sys2Proof.Machine.execInProgressRepeat n s
  | .sessionIdleTimeout k aud => Sys2Proof.Machine.execSessionIdleTimeout k aud s
  | .loginBarExpiry role => Sys2Proof.Machine.execLoginBarExpiry role s
  | .stopFrame id ide fmt data => Sys2Proof.Machine.execStopFrame id ide fmt data s
  | .canProbeTimeout p ok cands => Sys2Proof.Machine.execCanProbeTimeout p ok cands s
  | .canBusOff p => Sys2Proof.Machine.execCanBusOff p s
  | .timeSyncReceived p t => Sys2Proof.Machine.execTimeSyncReceived p t s
  | .timeSyncHoldover => Sys2Proof.Machine.execTimeSyncHoldover s
  | .arpRequest p => Sys2Proof.Machine.execArpRequest p s
  | .icmpEcho p => Sys2Proof.Machine.execIcmpEcho p s
  | .atimeRead w => Sys2Proof.Machine.execAtimeRead w s
  | .interfaceStatusWrite => Sys2Proof.Machine.execInterfaceStatusWrite s
  | .ladderDwellExpiry p => Sys2Proof.Machine.execLadderDwellExpiry p s
  | .ladderStepComplete => Sys2Proof.Machine.execLadderStepComplete s
  | .wakeQualified src => Sys2Proof.Machine.execWakeQualified src s
  | .storageSupplySample code => Sys2Proof.Machine.execStorageSupplySample code s
  | .alarmExpiry => Sys2Proof.Machine.execAlarmExpiry s
  | .supplyRise => Sys2Proof.Machine.execSupplyRise s
  | .presNQualified => Sys2Proof.Machine.execPresNQualified s
  | .bootStep k => Sys2Proof.Machine.execBootStep k s
  | .selfTestComplete x => Sys2Proof.Machine.execSelfTestComplete x s
  | .selfTestDue => Sys2Proof.Machine.execSelfTestDue s
  | .presNWarning => Sys2Proof.Machine.execPresNWarning s
  | .flushComplete => Sys2Proof.Machine.execFlushComplete s
  | .presNReassert => Sys2Proof.Machine.execPresNReassert s
  | .supplyDip => Sys2Proof.Machine.execSupplyDip s
  | .dipRideThrough => Sys2Proof.Machine.execDipRideThrough s
  | .brownout => Sys2Proof.Machine.execBrownout s
  | .brownoutRecovery => Sys2Proof.Machine.execBrownoutRecovery s
  | .aonPowerOnReset => Sys2Proof.Machine.execAonPowerOnReset s
  | .chargingCommunicationMessage t1s m => Sys2Proof.Machine.execChargingCommunicationMessage t1s m s
  | .chargingProtocolTimeout => Sys2Proof.Machine.execChargingProtocolTimeout s
  | .shuntConversion b code => Sys2Proof.Machine.execShuntConversion b code s
  | .bootstrapComparatorRelease a => Sys2Proof.Machine.execBootstrapComparatorRelease a s

end Sys2Proof.Machine
end

