-- ==== Sys2Proof/Safety.lean ====
section
/-!
DEFINITION. What holds of every state that a run can show: the two lists of the state stand in their canonical forms, so that equal
contents are equal data. And what a carried-out command leaves alone.
-/
namespace Sys2Proof.Machine
open Sys2Proof

/-- An entry names a quantity of the list, holds a value within its width (R6), and is not the reset value. -/
def Entry.ok (e : Entry) : Prop :=
  (∃ f : Fld, f.key = e.k) ∧ ∀ f : Fld, f.key = e.k → e.v < 2 ^ f.spec.w ∧ e.v ≠ f.spec.rst e.i e.j

/-- The entry comes before another: by key, then first index, then second. -/
def Entry.before (a b : Entry) : Prop := b.after a.k a.i a.j = true

/-- The canonical form of the quantities: rising, no two under one name, each of them in order. -/
def valsWf (l : List Entry) : Prop := l.Pairwise Entry.before ∧ ∀ e ∈ l, e.ok

/-- The invariant of the state: quantities and memory in canonical form. -/
def State.Inv (s : State) : Prop := valsWf s.vals ∧ memWf s.mem = true

/-- No instant passes and no waiting command is touched. -/
def State.SameQueue (s t : State) : Prop := t.pending = s.pending ∧ t.now = s.now

/-- Every quantity but those of a list reads as before, at every index. -/
def State.SameBut (l : List Fld) (s t : State) : Prop := ∀ f : Fld, f ∉ l → ∀ i j : Nat, t.get f i j = s.get f i j

/-- Every byte of memory reads as before. -/
def State.SameMem (s t : State) : Prop := ∀ a : Nat, t.byte a = s.byte a

/-- A sideband write of `v` at `a` by `w` is carried out: the address is mapped, the island is open to the initiator, a register
stands there, and the firewall lets the write pass (R32, R42, R43, R49, R470). -/
def State.reaches (s : State) (w : Who) (a v : Nat) : Prop :=
  (∃ n, windowOf a = some n ∧ s.islandOpen n w = true) ∧ regExists a = true ∧ s.mayWrite w a v = true

/-- A sideband read is carried out; the firewall refuses no read (R470). -/
def State.readable (s : State) (w : Who) (a : Nat) : Prop := (∃ n, windowOf a = some n ∧ s.islandOpen n w = true) ∧ regExists a = true

/-- The axle is neither in SAFE_HOLD nor changing its mode (R52). -/
def State.settled (s : State) : Prop := s.get (.saf .AXLE_MODE_MODE) ≠ 6 ∧ s.get (.saf .AXLE_MODE_BUSY) = 0

/-- `t` shows the beginning of SAFE_HOLD with a cause (R56, R57, R225, R412): the change is in progress, the cause recorded, every
group disabled, S2 open. -/
def State.HoldBegins (t : State) (cause : Nat) : Prop :=
  t.get (.saf .AXLE_MODE_BUSY) = 1 ∧ t.get (.saf .MODE_TGT) = 6 ∧ t.get (.saf .AXLE_MODE_CAUSE) = cause ∧
    t.get (.saf .HOLD_LATCHED) = 1 ∧ t.get (.edge .OG_EN) = 0 ∧ t.get (.sns .CP_CTRL_S2) = 0 ∧ t.get (.sns .CP_STAT_S2_ON) = 0

/-- A group is forced: its latch stands and it is not enabled (R239, R240). -/
def State.Forced (t : State) (g : Nat) : Prop := t.bit (.grd .OG_LATCH) g = true ∧ t.bit (.edge .OG_EN) g = false

/-- A frame comes in on a CAN port, or to a UDP port that the module listens on (R523). -/
def State.Heard (s : State) (f : Frame) : Prop :=
  s.narrows = true ∧ (2 ≤ f.port.val ∨ f.udp.toNat ∈ (List.range 3).map (s.get (.host .UDP_PORT) ·))

/-- A frame passes the checks of its header and finds room: MAGIC, version, TYPE and LEN (R528, R534). -/
def State.Sound (s : State) (f : Frame) : Prop :=
  s.Heard f ∧ f.full = false ∧ frameMagic f.bytes = true ∧ fieldOf f.bytes 3 1 ∈ [1, 4, 6] ∧ frameLen f.bytes = true

/-- The command of a code waits in mailbox `n` with PLEN `len` and PARAM `par`; it is its turn, it stands in the mailbox its code belongs to, and its
session has at least the role it asks (R532, R533). -/
def State.inTurn (s : State) (n code role len par : Nat) : Prop :=
  s.narrows = true ∧ s.servable n code = true ∧ ((0x100 ≤ code ∧ code < 0x200) ↔ n = 0) ∧ s.get (.host .MB_PLEN) n = len ∧ s.mbParam n = par ∧
    (role = 0 ∨ (s.mbSession n ≠ 0 ∧ role ≤ s.mbRole n))

/-- The command of a mailbox has been answered with STATUS, DETAIL and parameters; the mailbox is free unless the answer is
IN_PROGRESS (R531, R535, R536). -/
def State.Answers (t : State) (n st det val : Nat) : Prop :=
  t.get (.host .MB_ST) n = st ∧ t.get (.host .MB_DET) n = det ∧ t.get (.host .MB_VAL) n = val ∧
    t.get (.host .MB_BUSY) n = (if st = 1 then 1 else 0) ∧ t.get (.host .MB_RUN) n = (if st = 1 then 1 else 0)

/-- What serving a mailbox changes whatever the command does. -/
def mailFlds : List Fld := [.host .MB_ST, .host .MB_DET, .host .MB_VAL, .host .MB_AT, .host .MB_BUSY, .host .MB_RUN, .host .MB_LAST,
  .host .SES_OUT]

/-- What serving a mailbox and writing an audit entry change. -/
def auditFlds : List Fld := mailFlds ++ [.host .AUD_SEQ, .host .AUD_HASH, .host .AUD_BAR, .host .FLAGS]

/-- Every byte at a physical address reads as before; the flash stands above them. -/
def State.SameRam (s t : State) : Prop := ∀ a < 2 ^ 41, t.byte a = s.byte a

end Sys2Proof.Machine
end

