-- ==== Sys2Proof/Certificates/Slice0/Obligations.lean ====
section
/-!
DEFINITION. The statements for the provers, one definition each; a docstring names the rules of spec/ it speaks of and, where a clause
rests on a choice of the model, the entry of notes/assumptions.
-/
open Sys2Proof Sys2Proof.Machine

/-- A request for an island state by the safety island (R17, R18, R20): refused while a transition is in progress; refused while an
enabled group depends on the island, without FORCE; else the transition begins. The end of a drain and of a transition that only gates
(R16, R17, R38, R39), and the timeout of a handshake (R33). Next states of their own effect: REQ_STATE_WRITE, DRAIN_COMPLETE,
DRAIN_TIMEOUT, STRAIT_TIMEOUT, ISLAND_TRANSITION_COMPLETE. Where a clause touches them it follows the model's choices of log entries 9,
15, 16. -/
def Obligations.IslandTransitions : Prop :=
  (∀ (n : IslandIx) (st : Fin 8) (f : Bool) (s : State), n.val ≠ 0 → n.val ≠ 12 →
    s.reaches .safety (islandCtrlAddr n.val) (st.val + 16 * f.toNat) → s.get (.saf .ISL_STAT_BUSY) n.val = 1 →
    exec (.reqStateWrite .safety n st f) s = .next ((((s.set (.saf .ISL_CTRL_FORCE) f.toNat n.val).set
      (.saf .ISL_CTRL_REQ_STATE) st.val n.val).set (.saf .ISL_STAT_REFUSED) 1 n.val).answer .ok)) ∧
  (∀ (n : IslandIx) (s : State), n.val ∉ [0, 8, 10, 12, 13] → s.reaches .safety (islandCtrlAddr n.val) 1 →
    s.get (.saf .ISL_STAT_BUSY) n.val = 0 → s.get (.saf .ISL_STAT_STATE) n.val = 0 →
    s.get (.saf .ISL_DEP) n.val &&& s.get (.edge .OG_EN) = 0 →
    exec (.reqStateWrite .safety n 1 false) s = .next ((((((s.set (.saf .ISL_CTRL_FORCE) 0 n.val).set
      (.saf .ISL_CTRL_REQ_STATE) 1 n.val).set (.saf .ISL_STAT_BUSY) 1 n.val).set (.saf .ISL_TGT) 1 n.val).set
      (.saf .ISL_ASKED) 1 n.val |>.set (.saf .ISL_AT) s.now n.val).answer .ok)) ∧
  (∀ (n : IslandIx) (s : State), n.val ∉ [0, 8, 10, 12, 13] → s.reaches .safety (islandCtrlAddr n.val) 1 →
    s.get (.saf .ISL_STAT_BUSY) n.val = 0 → s.get (.saf .ISL_STAT_STATE) n.val = 0 →
    s.get (.saf .ISL_DEP) n.val &&& s.get (.edge .OG_EN) ≠ 0 →
    exec (.reqStateWrite .safety n 1 false) s = .next ((((s.set (.saf .ISL_CTRL_FORCE) 0 n.val).set
      (.saf .ISL_CTRL_REQ_STATE) 1 n.val).set (.saf .ISL_STAT_REFUSED) 1 n.val).answer .ok)) ∧
  (∀ (n : IslandIx) (s : State), n.val ∉ [0, 12] → s.reaches .safety (islandCtrlAddr n.val) 0 →
    s.get (.saf .ISL_STAT_BUSY) n.val = 0 → s.get (.saf .ISL_STAT_STATE) n.val = 3 →
    exec (.reqStateWrite .safety n 0 false) s = .next ((((((s.set (.saf .ISL_CTRL_FORCE) 0 n.val).set
      (.saf .ISL_CTRL_REQ_STATE) 0 n.val).set (.saf .ISL_STAT_BUSY) 1 n.val).set (.saf .ISL_TGT) 0 n.val).set
      (.saf .ISL_ASKED) 1 n.val |>.set (.saf .ISL_AT) s.now n.val).answer .ok)) ∧
  (∀ (n : IslandIx) (s : State), s.get (.saf .ISL_STAT_BUSY) n.val = 1 → s.get (.saf .ISL_STAT_STATE) n.val = 0 →
    s.get (.saf .ISL_TGT) n.val ∈ [1, 2, 3] → s.straitsEmpty n.val = true →
    exec (.drainComplete n) s = .next (s.set (.saf .ISL_STAT_DRAINED) 1 n.val)) ∧
  (∀ (n : IslandIx) (s : State), n.val ≠ 10 → s.get (.saf .ISL_STAT_BUSY) n.val = 1 → s.get (.saf .ISL_STAT_STATE) n.val = 0 →
    s.get (.saf .ISL_TGT) n.val ∈ [1, 2, 3] → s.get (.saf .ISL_STAT_DRAINED) n.val = 0 → s.get (.saf .ISL_AT) n.val + us 2 ≤ s.now →
    ∃ t, exec (.drainTimeout n) s = .next t ∧ t.get (.saf .ISL_STAT_DRAINED) n.val = 1 ∧ t.get (.saf .ISL_STAT_TIMEOUT) n.val = 1 ∧
      t.sent = ⟨.level4, 39, n.val, 0⟩ :: s.sent ∧
      (∀ k < 14, t.get (.saf .STR_N) n.val k = 0 ∧ t.get (.saf .STR_N) k n.val = 0 ∧ t.get (.saf .STR_BAD) n.val k = 0 ∧
        t.get (.saf .STR_BAD) k n.val = 0) ∧
      s.SameBut [.saf .ISL_STAT_DRAINED, .saf .ISL_STAT_TIMEOUT, .saf .ISL_STAT_CLOSED_SEEN, .saf .STR_BUF, .saf .STR_N, .saf .STR_BAD] t ∧
      s.SameMem t ∧ s.SameQueue t) ∧
  (∀ (i n : IslandIx) (s : State), s.get (.saf .ISL_STAT_STATE) n.val = 0 →
    exec (.straitTimeout i n) s = .next ((((((s.set (.saf .STR_BUF) 0 i.val n.val).set (.saf .STR_N) 0 i.val n.val).set (.saf .STR_BAD) 0
      i.val n.val).set (.saf .ISL_STAT_TIMEOUT) 1 n.val).set (.saf .ISL_SERR_TMO_CNT)
      (min (s.get (.saf .ISL_SERR_TMO_CNT) n.val + 1) (2 ^ (Fld.saf .ISL_SERR_TMO_CNT).spec.w - 1)) n.val).set
      (.saf .ISL_STAT_CLOSED_SEEN) 1 n.val |>.answer .closed |>.send .level4 35 n.val)) ∧
  (∀ (n : IslandIx) (s : State), n.val ∉ [1, 6, 7, 10, 11] → s.get (.saf .ISL_STAT_BUSY) n.val = 1 →
    s.get (.saf .ISL_STAT_STATE) n.val = 0 → s.get (.saf .ISL_TGT) n.val = 1 → s.get (.saf .ISL_STAT_DRAINED) n.val = 1 →
    s.get (.saf .ISL_PLAN) n.val = 0 → (∀ m, s.get (.host .MB_RUN) m = 0) →
    ∃ t, exec (.islandTransitionComplete n) s = .next t ∧ t.get (.saf .ISL_STAT_STATE) n.val = 1 ∧
      t.get (.saf .ISL_STAT_BUSY) n.val = 0 ∧ t.get (.saf .ISL_STAT_DRAINED) n.val = 1 ∧
      s.SameBut [.saf .ISL_STAT_STATE, .saf .ISL_STAT_BUSY, .saf .ISL_STAT_DRAINED, .saf .ISL_ASKED] t ∧ s.SameMem t ∧
      s.SameQueue t) ∧
  (∀ s : State, s.get (.saf .ISL_STAT_BUSY) 7 = 1 → s.get (.saf .ISL_STAT_STATE) 7 = 0 → s.get (.saf .ISL_TGT) 7 = 1 →
    s.get (.saf .ISL_STAT_DRAINED) 7 = 1 → s.get (.saf .ISL_PLAN) 7 = 0 → (∀ m, s.get (.host .MB_RUN) m = 0) →
    ∃ t, exec (.islandTransitionComplete 7) s = .next t ∧ t.get (.saf .ISL_STAT_STATE) 7 = 1 ∧ (∀ a < 41, t.get (.edge .LEG_STAT_HI) a = 0 ∧ t.get (.edge .LEG_STAT_LO) a = 0) ∧
      s.SameBut [.saf .ISL_STAT_STATE, .saf .ISL_STAT_BUSY, .saf .ISL_STAT_DRAINED, .saf .ISL_ASKED, .edge .LEG_STAT_HI,
        .edge .LEG_STAT_LO, .edge .LEG_TOFF_HI, .edge .LEG_TOFF_LO, .edge .LEG_BUV_STOOD, .edge .LEG_REF_DUE,
        .edge .TP_THETA, .edge .TP_ANGLE, .edge .TP_PEND, .edge .TP_GAP, .edge .TP_AT, .edge .TP_A_RATE, .edge .TP_NEW] t ∧
      s.SameMem t ∧ s.SameQueue t) ∧
  (∀ s : State, s.get (.saf .ISL_STAT_BUSY) 11 = 1 → s.get (.saf .ISL_STAT_STATE) 11 = 0 → s.get (.saf .ISL_TGT) 11 = 1 →
    s.get (.saf .ISL_STAT_DRAINED) 11 = 1 → s.get (.saf .ISL_PLAN) 11 = 0 → (∀ m, s.get (.host .MB_RUN) m = 0) →
    ∃ t, exec (.islandTransitionComplete 11) s = .next t ∧ t.get (.saf .ISL_STAT_STATE) 11 = 1 ∧
      (∀ b < 3, t.get (.edge .HALL) b = 0) ∧ s.SameMem t ∧ s.SameQueue t)

/-- A strait word (R24, R25, R32, R36): a closed island answers CLOSED; a DATA word with right parity joins the transaction; its LAST word
delivers it whole; a word with wrong parity is discarded and shown on both sides. What the safety island does about a TIMEOUT, a parity
count and the oscillator check (R31, R35, R476, R477): a reaction code of 0 reports only, a code of 1 forces the groups that depend on the
island; the axle enters SAFE_HOLD where the oscillator stops or strays. Next states of their own effect: STRAIT_WORD_RECEIVE,
TIMEOUT_REACTION, PARITY_REACTION, AON_OSCILLATOR_CHECK. Where a clause touches them it follows the model's choices of log entries 14, 38.
-/
def Obligations.Straits : Prop :=
  (∀ (i j : IslandIx) (d : BitVec 64) (par : BitVec 8) (k : Fin 4) (kp : Bool) (s : State), s.get (.saf .ISL_STAT_STATE) i.val = 0 →
    s.get (.saf .ISL_STAT_STATE) j.val ≠ 0 →
    exec (.straitWordReceive i j d par k kp) s = .next (((((s.set (.saf .STR_BUF) 0 i.val j.val).set (.saf .STR_N) 0 i.val j.val).set
      (.saf .STR_BAD) 0 i.val j.val).set (.saf .ISL_STAT_CLOSED_SEEN) 1 j.val).answer .closed)) ∧
  (∀ (i j : IslandIx) (d : BitVec 64) (par : BitVec 8) (kp : Bool) (s : State), s.get (.saf .ISL_STAT_STATE) i.val = 0 →
    s.get (.saf .ISL_STAT_STATE) j.val = 0 → s.get (.saf .ISL_STAT_BUSY) j.val = 0 → s.get (.saf .STR_BAD) i.val j.val = 0 →
    parityOk d.toNat par.toNat 0 kp = true →
    exec (.straitWordReceive i j d par 0 kp) s = .next ((s.set (.saf .STR_BUF) (s.get (.saf .STR_BUF) i.val j.val +
      d.toNat * 2 ^ (64 * s.get (.saf .STR_N) i.val j.val)) i.val j.val).incSat (.saf .STR_N) i.val j.val)) ∧
  (∀ (i j : IslandIx) (d : BitVec 64) (par : BitVec 8) (kp : Bool) (s : State), s.get (.saf .ISL_STAT_STATE) i.val = 0 →
    s.get (.saf .ISL_STAT_STATE) j.val = 0 → s.get (.saf .ISL_STAT_BUSY) j.val = 0 → s.get (.saf .STR_BAD) i.val j.val = 0 →
    parityOk d.toNat par.toNat 1 kp = true →
    exec (.straitWordReceive i j d par 1 kp) s = .next (((((s.set (.saf .STR_BUF) 0 i.val j.val).set (.saf .STR_N) 0 i.val j.val).set
      (.saf .STR_BAD) 0 i.val j.val).answer .ok).send .strait (16 * i.val + j.val) (s.get (.saf .STR_N) i.val j.val + 1)
      (s.get (.saf .STR_BUF) i.val j.val + d.toNat * 2 ^ (64 * s.get (.saf .STR_N) i.val j.val)))) ∧
  (∀ (i j : IslandIx) (d : BitVec 64) (par : BitVec 8) (kp : Bool) (s : State), s.get (.saf .ISL_STAT_STATE) i.val = 0 →
    s.get (.saf .ISL_STAT_STATE) j.val = 0 → s.get (.saf .ISL_STAT_BUSY) j.val = 0 →
    parityOk d.toNat par.toNat 0 kp = false →
    exec (.straitWordReceive i j d par 0 kp) s = .next (((((s.set (.saf .STR_BAD) 1 i.val j.val).set (.saf .ISL_STAT_PARITY) 1 i.val).set
      (.saf .ISL_STAT_PARITY) 1 j.val).incSat (.saf .ISL_SERR_PAR_CNT) j.val |>.set (.saf .PAR_AT) (s.now + 1) j.val
      (s.get (.saf .PAR_IX) j.val) |>.inc (.saf .PAR_IX) j.val).answer (.error 1 (some j.val)) |>.send .level4 36 i.val j.val)) ∧
  (∀ (n : IslandIx) (s : State), s.get (.saf .ISL_STAT_TIMEOUT) n.val = 1 → s.get (.saf .TMR_STAT_MODE) ≠ 3 →
    s.get (.saf .ESC_TMO_REACT) = 0 → exec (.timeoutReaction n) s = .next (s.send .level5 476 n.val)) ∧
  (∀ (n : IslandIx) (s : State), s.get (.saf .TMR_STAT_MODE) ≠ 3 → s.get (.saf .ESC_PAR_REACT) = 0 →
    s.parityRisen n.val (max 1 (s.get (.saf .ESC_PAR_LIM))) = true →
    exec (.parityReaction n) s = .next (s.send .level5 476 n.val)) ∧
  (∀ (n : IslandIx) (s : State), n.val ≠ 0 → n.val ≠ 12 → s.get (.saf .ISL_STAT_TIMEOUT) n.val = 1 →
    s.get (.saf .TMR_STAT_MODE) ≠ 3 → s.get (.saf .ESC_TMO_REACT) = 1 →
    ∃ t, exec (.timeoutReaction n) s = .next t ∧ s.SameQueue t ∧ s.SameMem t ∧
      ∀ g < 16, (s.get (.saf .ISL_DEP) n.val).testBit g = true → t.Forced g ∧ t.bit (.grd .SAF_FORCE) g = true) ∧
  (∀ (stopped : Bool) (dev : Half) (s : State), s.get (.saf .ISL_STAT_STATE) 0 = 0 → s.settled →
    (stopped = true ∨ 100 < dev.toNat) →
    ∃ t, exec (.aonOscillatorCheck stopped dev) s = .next t ∧ t.HoldBegins 6 ∧ s.SameMem t ∧ s.SameQueue t) ∧
  (∀ (dev : Half) (s : State), dev.toNat ≤ 100 → exec (.aonOscillatorCheck false dev) s = .next s)

/-- The end of a mode change (R52): once no group moves, MODE shows the target and PREV the mode left; a change into DRIVE from READY
touches nothing else but the contactors that the mode does not permit. The safety lock (R478) and the contactors (R484, R486, R488): a
driver closes only in a mode its MODES names; the pull-in time leads the pack sequence on; pre-charge ends by voltage or fails; a faulty
coil is reported. Next states of their own effect: MODE_CHANGE_COMPLETE, LOCK, CONTACTOR_CLOSE_REQUEST, COIL_PULL_END, OPENING_GAP_EXPIRY,
PACK_PRECHARGE_COMPARE, PACK_PRECHARGE_TIMEOUT, COIL_FAULT. Where a clause touches them it follows the model's choices of log entries 38,
47. -/
def Obligations.ModesAndContactors : Prop :=
  (∀ (s : State), s.get (.saf .AXLE_MODE_BUSY) = 1 → s.get (.saf .AXLE_MODE_MODE) = 1 → s.get (.saf .MODE_TGT) = 2 →
    s.get (.edge .OG_EN) = 0 → s.get (.saf .STOW_DUE) = 0 → s.groupsMoving 2 = false → (∀ c, s.get (.saf .CD_STAT_ON) c = 0) →
    ∃ t, exec .modeChangeComplete s = .next t ∧ t.get (.saf .AXLE_MODE_MODE) = 2 ∧ t.get (.saf .AXLE_MODE_PREV) = 1 ∧
      t.get (.saf .AXLE_MODE_BUSY) = 0 ∧
      s.SameBut [.saf .AXLE_MODE_MODE, .saf .AXLE_MODE_PREV, .saf .AXLE_MODE_BUSY, .saf .OPEN_MASK, .saf .CSEQ_PSTATE,
        .saf .CD_STAT_ON, .saf .CD_STAT_HOLDING] t ∧ s.SameMem t ∧ s.SameQueue t) ∧
  (∀ (s : State), s.get (.saf .AXLE_MODE_BUSY) = 0 → exec .modeChangeComplete s = .next s) ∧
  (∀ (s : State), s.get (.saf .TMR_STAT_MODE) ≠ 3 → exec .lock s = .next ((((s.set (.saf .LOCK_LOCK) 1).set (.saf .LOCK_WINDOW) 0).set
    (.saf .LOCK_ISL_LOCK) 0x3FFF).set (.grd .STAT_LOCKED) 1)) ∧
  (∀ (c : Fin 8) (s : State), s.mayClose c.val = true → s.get (.saf .CD_STAT_ON) c.val = 0 →
    exec (.contactorCloseRequest c) s = .next (((s.set (.saf .CD_STAT_ON) 1 c.val).set (.saf .CD_STAT_HOLDING) 0 c.val).incSat
      (.saf .CD_STAT_CLOSES) c.val |>.set (.saf .PULL_AT) (s.now + 1) c.val)) ∧
  (∀ (c : Fin 8) (s : State), s.mayClose c.val = false →
    exec (.contactorCloseRequest c) s = .next (s.set (.saf .CD_STAT_REFUSED) 1 c.val)) ∧
  (∀ (c : Fin 8) (s : State), s.get (.saf .CD_STAT_ON) c.val = 1 → s.get (.saf .CD_STAT_HOLDING) c.val = 0 → s.pulled c.val = true →
    3 ≤ c.val → exec (.coilPullEnd c) s = .next (s.set (.saf .CD_STAT_HOLDING) 1 c.val)) ∧
  (∀ (s : State), s.get (.saf .CD_STAT_ON) 1 = 1 → s.get (.saf .CD_STAT_HOLDING) 1 = 0 → s.pulled 1 = true → s.get (.saf .CSEQ_PSTATE) = 1 →
    exec (.coilPullEnd 1) s = .next (((((s.set (.saf .CD_STAT_HOLDING) 1 1).set (.saf .CD_STAT_ON) 1 2).set (.saf .CD_STAT_HOLDING) 0 2).incSat (.saf .CD_STAT_CLOSES) 2 |>.set (.saf .PULL_AT) (s.now + 1) 2).set
      (.saf .CSEQ_PSTATE) 2)) ∧
  (∀ (s : State), s.get (.saf .OPEN_AT) ≠ 0 → s.get (.saf .OPEN_AT) - 1 + us (1000 * s.get (.saf .CSEQ_GAP)) ≤ s.now →
    s.get (.saf .OPEN_MASK) = 6 → s.get (.saf .CD_CFG_ORDER) 1 < s.get (.saf .CD_CFG_ORDER) 2 →
    exec .openingGapExpiry s = .next ((((s.set (.saf .CD_STAT_ON) 0 1).set (.saf .CD_STAT_HOLDING) 0 1).clrBit (.saf .OPEN_MASK) 1).set
      (.saf .OPEN_AT) (s.now + 1))) ∧
  (∀ (s : State), s.get (.saf .OPEN_AT) ≠ 0 → s.now < s.get (.saf .OPEN_AT) - 1 + us (1000 * s.get (.saf .CSEQ_GAP)) →
    exec .openingGapExpiry s = .next s) ∧
  (∀ (v : Half) (s : State), s.get (.saf .CSEQ_PSTATE) = 2 → s.get (.saf .CD_STAT_ON) 2 = 1 → s.get (.saf .CD_STAT_ON) 0 = 0 →
    ((v.toNat : Int) - s.get (.drv .BMS_V_PACK)).natAbs ≤ 10 * s.get (.saf .CSEQ_PRE_TOL) →
    exec (.packPrechargeCompare v) s = .next (((s.set (.saf .CD_STAT_ON) 1 0).set (.saf .CD_STAT_HOLDING) 0 0).incSat
      (.saf .CD_STAT_CLOSES) 0 |>.set (.saf .PULL_AT) (s.now + 1) 0)) ∧
  (∀ (s : State), s.get (.saf .CSEQ_PSTATE) = 2 → s.get (.saf .CD_STAT_ON) 0 = 0 →
    s.get (.saf .PACK_AT) + us (10000 * s.get (.saf .CSEQ_PRE_TMO)) ≤ s.now + 1 →
    ∃ t, exec .packPrechargeTimeout s = .next t ∧ t.get (.saf .CSEQ_PSTATE) = 5 ∧ t.get (.saf .AXLE_MODE_BUSY) = 0 ∧
      t.get (.saf .AXLE_MODE_REFUSED) = 1 ∧ (∀ c < 3, t.get (.saf .CD_STAT_ON) c = 0) ∧
      s.SameBut [.saf .CSEQ_PSTATE, .saf .AXLE_MODE_BUSY, .saf .AXLE_MODE_REFUSED, .saf .CD_STAT_ON, .saf .CD_STAT_HOLDING] t ∧
      s.SameMem t ∧ s.SameQueue t) ∧
  (∀ (c : Fin 8) (s : State), s.get (.saf .CD_STAT_ON) c.val = 1 → 3 ≤ c.val →
    exec (.coilFault c true) s = .next ((((s.set (.saf .CD_STAT_SHORT) 1 c.val).set (.saf .CD_STAT_ON) 0 c.val).set
      (.saf .CD_STAT_HOLDING) 0 c.val).send .level4 484 c.val)) ∧
  (∀ (c : Fin 8) (s : State), s.get (.saf .CD_STAT_ON) c.val = 1 → c.val ≤ 2 → s.settled →
    ∃ t, exec (.coilFault c false) s = .next t ∧ t.HoldBegins 4 ∧ t.get (.saf .CD_STAT_OPEN_LOAD) c.val = 1 ∧ s.SameMem t ∧ s.SameQueue t)

/-- Voting of the safety cores (R457 to R461): the odd core is named and the voter resynchronises; a word of local memory on which all
agree is kept; a second mismatch meanwhile is fatal, as the self-watchdog is: every group forced, the axle in SAFE_HOLD, the cores held. A
lockstep pair (R463 to R465): a mismatch halts it; the reaction forces its groups and restarts it, or retires it after a second mismatch
within an hour; the ready report releases that force. Next states of their own effect: TMR_MISMATCH, RESYNC_COMPLETE,
SELF_WATCHDOG_EXPIRY, LOCKSTEP_MISMATCH, PAIR_RESTART, PAIR_READY_REPORT. -/
def Obligations.SafetyCores : Prop :=
  (∀ (c : Fin 3) (k : Fin 3) (x y : BitVec 64) (s : State), s.get (.saf .TMR_STAT_MODE) = 0 → s.get (.saf .TMR_T1) c.val = 0 → x ≠ y →
    exec (.tmrMismatch k none (if c = 0 then y else x) (if c = 1 then y else x) (if c = 2 then y else x)) s = .next ((((((s.set (.saf .TMR_STAT_MISMATCH) 1).set (.saf .TMR_STAT_KIND) k.val).set
      (.saf .TMR_STAT_ODD) c.val).set (.saf .TMR_T1) (s.get (.saf .TMR_T2) c.val) c.val).set (.saf .TMR_T2) (s.now + 1) c.val).set
      (.saf .TMR_STAT_MODE) 1)) ∧
  (∀ (k : Fin 3) (i : Fin 49152) (x : BitVec 64) (s : State), s.get (.saf .TMR_STAT_MODE) ≠ 3 →
    exec (.tmrMismatch k (some i) x x x) s = .next (s.set (.saf .LM) x.toNat i.val)) ∧
  (∀ (k : Fin 3) (x y z : BitVec 64) (s : State), s.get (.saf .TMR_STAT_MODE) = 0 → x ≠ y → y ≠ z → x ≠ z →
    ∃ t, exec (.tmrMismatch k none x y z) s = .next t ∧ t.get (.saf .TMR_STAT_KIND) = 3 ∧ t.get (.saf .TMR_STAT_MODE) = 3 ∧
      t.get (.saf .AXLE_MODE_MODE) = 6 ∧ (∀ g < 16, t.Forced g) ∧ s.SameMem t ∧ s.SameQueue t) ∧
  (∀ (k : Fin 3) (x y : BitVec 64) (s : State), s.get (.saf .TMR_STAT_MODE) = 1 → s.get (.saf .TMR_STAT_ODD) = 0 → x ≠ y →
    ∃ t, exec (.tmrMismatch k none x x y) s = .next t ∧ t.get (.saf .TMR_STAT_MODE) = 3 ∧ t.get (.saf .AXLE_MODE_MODE) = 6 ∧
      t.get (.saf .AXLE_MODE_CAUSE) = 6 ∧ t.get (.saf .AXLE_MODE_BUSY) = 0 ∧ t.get (.saf .HOLD_LATCHED) = 1 ∧
      (∀ g < 16, t.Forced g) ∧ s.SameMem t ∧ s.SameQueue t) ∧
  (∀ (s : State), s.get (.saf .TMR_STAT_MODE) = 1 → s.get (.saf .TMR_STAT_ODD) = 0 → s.get (.saf .CORE) 1 = s.get (.saf .CORE) 2 →
    exec .resyncComplete s = .next (((((s.set (.saf .CORE) (s.get (.saf .CORE) 1) 0).set (.saf .TMR_STAT_MODE) 0).set (.saf .TMR_STAT_RESYNC_SEEN) 1).incSat
      (.saf .TMR_STAT_RESYNC_CNT)).send .level5 458)) ∧
  (∀ (s : State), s.get (.saf .TMR_STAT_MODE) ≠ 3 →
    ∃ t, exec .selfWatchdogExpiry s = .next t ∧ t.get (.saf .TMR_STAT_MODE) = 3 ∧ t.get (.saf .AXLE_MODE_MODE) = 6 ∧
      t.get (.saf .AXLE_MODE_CAUSE) = 6 ∧ (∀ g < 16, t.Forced g) ∧ s.SameMem t ∧ s.SameQueue t) ∧
  (∀ (p : PairIx) (s : State), s.get (.saf .CP_STATE) p.val = 0 → s.get (.saf .CP_MM_AT) p.val = 0 →
    exec (.lockstepMismatch p) s = .next (((((s.set (.saf .CP_MISMATCH) 1 p.val).set (.saf .CP_STATE) 2 p.val).set
      (.saf .CP_MM_AT) (s.now + 1) p.val).set (.saf .CP_SECOND) 0 p.val).send .level4 463 p.val)) ∧
  (∀ (p : PairIx) (s : State), s.get (.saf .CP_STATE) p.val = 2 → s.get (.saf .CP_SECOND) p.val = 1 →
    ∃ t, exec (.pairRestart p) s = .next t ∧ t.get (.saf .CP_STATE) p.val = 3 ∧
      (∀ g < 16, (s.pairGroups p.val).testBit g = true → t.Forced g) ∧ s.SameMem t ∧ s.SameQueue t) ∧
  (∀ (p : PairIx) (s : State), s.get (.saf .CP_STATE) p.val = 2 → s.get (.saf .CP_SECOND) p.val = 0 →
    ∃ t, exec (.pairRestart p) s = .next t ∧ t.get (.saf .CP_STATE) p.val = 0 ∧ t.get (.saf .CP_OWNER_READY) p.val = 0 ∧
      (∀ g < 16, (s.pairGroups p.val).testBit g = true → t.Forced g) ∧ s.SameMem t ∧ s.SameQueue t) ∧
  (∀ (p : PairIx) (s : State), s.get (.saf .CP_STATE) p.val = 0 →
    ∃ t, exec (.pairReadyReport p) s = .next t ∧ t.get (.saf .CP_OWNER_READY) p.val = 1 ∧
      (∀ g < 16, (s.pairGroups p.val).testBit g = true → t.bit (.saf .FORCE_CAUSE) 3 g = false) ∧
      s.SameBut [.saf .CP_OWNER_READY, .saf .FORCE_CAUSE, .grd .SAF_FORCE] t ∧ s.SameMem t ∧ s.SameQueue t)

/-- Watchdogs (R474 to R476): a good kick ends the run of misses and advances TOKEN; a wrong key, a kick that the firewall refuses, a
CLOSE period without a good kick and a wrong probe answer are misses; before CLOSE has passed nothing happens; MLIM misses fire the
reaction, which with code 0 only reports. Next states of their own effect: WATCHDOG_KICK, WATCHDOG_CLOSE_EXPIRY, WATCHDOG_PROBE,
WATCHDOG_REACTION. Where a clause touches them it follows the model's choices of log entries 1, 15, 71. -/
def Obligations.Watchdogs : Prop :=
  (∀ (w : Fin 16) (key : Half) (p : PairIx) (s : State), w.val = p.val + 1 →
    s.reaches (.pair p) (0x1000000404 + 0x10 * w.val) (key.toNat * 65536) → s.wdActive w.val = true →
    s.get (.saf .WD_CFG_KIND) w.val = 0 → key.toNat = 0xFFFF - s.get (.saf .WD_KICK_TOKEN) w.val →
    s.get (.saf .WD_OPENED) w.val = 0 →
    exec (.watchdogKick (.pair p) w key) s = .next (((((s.setFree (.saf .WD_KICK_TOKEN) w.val).set (.saf .WD_STAT_MRUN) 0 w.val).set
      (.saf .WD_GOOD_AT) s.now w.val).set (.saf .WD_OPENED) 1 w.val).set (.saf .WD_AT) s.now w.val |>.answer .ok)) ∧
  (∀ (k : Who) (w : Fin 16) (key : Half) (s : State), s.reaches k (0x1000000404 + 0x10 * w.val) (key.toNat * 65536) →
    s.wdActive w.val = true → s.get (.saf .WD_CFG_KIND) w.val = 0 → key.toNat ≠ 0xFFFF - s.get (.saf .WD_KICK_TOKEN) w.val →
    exec (.watchdogKick k w key) s = .next ((((s.set (.saf .WD_STAT_MISS) 1 w.val).incSat (.saf .WD_STAT_MRUN) w.val).incSat
      (.saf .WD_STAT_MCNT) w.val).answer .ok)) ∧
  (∀ (k : Who) (w : Fin 16) (key : Half) (s : State), s.islandOpen 0 k = true →
    s.mayWrite k (0x1000000404 + 0x10 * w.val) (key.toNat * 65536) = false → s.wdActive w.val = true →
    s.get (.saf .WD_CFG_KIND) w.val = 0 →
    ∃ t, exec (.watchdogKick k w key) s = .next t ∧ t.resp = .error 3 (some 0) ∧ t.get (.saf .WD_STAT_MISS) w.val = 1 ∧
      t.get (.saf .VIOL_VALID) = 1 ∧ t.get (.saf .WD_KICK_TOKEN) w.val = s.get (.saf .WD_KICK_TOKEN) w.val ∧
      s.SameBut [.saf .WD_STAT_MISS, .saf .WD_STAT_MRUN, .saf .WD_STAT_MCNT, .saf .VIOL_VALID, .saf .VIOL_TYPE, .saf .VIOL_INIT,
        .saf .VIOL_AHI, .saf .VIOL_ADDR] t ∧ s.SameMem t ∧ s.SameQueue t) ∧
  (∀ (w : Fin 16) (s : State), s.wdActive w.val = true → s.get (.saf .WD_CFG_KIND) w.val = 0 →
    s.get (.saf .WD_AT) w.val + us (10 * s.get (.saf .WD_CFG_CLOSE) w.val) ≤ s.now →
    exec (.watchdogCloseExpiry w) s = .next ((((s.set (.saf .WD_STAT_MISS) 1 w.val).incSat (.saf .WD_STAT_MRUN) w.val).incSat
      (.saf .WD_STAT_MCNT) w.val).set (.saf .WD_AT) s.now w.val)) ∧
  (∀ (w : Fin 16) (s : State), s.now < s.get (.saf .WD_AT) w.val + us (10 * s.get (.saf .WD_CFG_CLOSE) w.val) →
    exec (.watchdogCloseExpiry w) s = .next s) ∧
  (∀ (w : Fin 16) (ans : Option Word) (s : State), s.wdActive w.val = true → s.get (.saf .WD_CFG_KIND) w.val = 1 →
    s.get (.saf .ISL_STAT_STATE) (wdIsland w.val) = 0 →
    s.get (.saf .WD_AT) w.val + us (10 * s.get (.saf .WD_CFG_CLOSE) w.val) ≤ s.now →
    exec (.watchdogProbe w ans) s = .next (if ans.map (·.toNat) = some (islandId (wdIsland w.val)) then
        (s.set (.saf .WD_AT) s.now w.val).set (.saf .WD_STAT_MRUN) 0 w.val
      else (((s.set (.saf .WD_AT) s.now w.val).set (.saf .WD_STAT_MISS) 1 w.val).incSat (.saf .WD_STAT_MRUN) w.val).incSat
        (.saf .WD_STAT_MCNT) w.val)) ∧
  (∀ (w : Fin 16) (s : State), s.wdActive w.val = true → 9 ≤ w.val → s.get (.saf .WD_CFG_REACT) w.val = 0 →
    1 ≤ s.get (.saf .WD_STAT_MRUN) w.val → s.get (.saf .WD_CFG_MLIM) w.val ≤ s.get (.saf .WD_STAT_MRUN) w.val →
    exec (.watchdogReaction w) s = .next ((s.set (.saf .WD_STAT_FIRED) 1 w.val).send .level5 476 (wdIsland w.val)))

/-- The debug port (R489, R493): without an unlock only BYPASS, IDCODE and SAMPLE/PRELOAD are served; EXTEST runs only under an unlock
with every group latch set, and turns every pair and coil off. Halting under a debugger (R113, R224, R492): without an unlock nothing
halts; a halted engine forces the groups that depend on it, a halted core pair or interface processor the groups it owns; a resume
restores the state, and the groups stay forced. Next states of their own effect: JTAG_INSTRUCTION, EXTEST, DEBUG_HALT, DEBUG_RESUME. Where
a clause touches them it follows the model's choices of log entries 24, 38. -/
def Obligations.DebugAccess : Prop :=
  (∀ (i : Fin 6) (s : State), i.val ≠ 3 → (i.val ≤ 2 ∨ s.get (.saf .DBG_UNLOCKED) ≠ 0) →
    exec (.jtagInstruction i) s = .next (((s.set (.saf .JTAG_IR) i.val).set (.saf .EXTEST) 0).answer .ok)) ∧
  (∀ (i : Fin 6) (s : State), 3 ≤ i.val → s.get (.saf .DBG_UNLOCKED) = 0 →
    exec (.jtagInstruction i) s = .next (s.answer .accessError)) ∧
  (∀ (s : State), s.get (.saf .DBG_UNLOCKED) = 0 → exec .extest s = .next (s.answer .accessError)) ∧
  (∀ (s : State), s.get (.saf .DBG_UNLOCKED) = 1 → s.get (.grd .OG_LATCH) = 0xFFFF →
    ∃ t, exec .extest s = .next t ∧ t.resp = .ok ∧ t.get (.saf .EXTEST) = 1 ∧ t.get (.saf .JTAG_IR) = 3 ∧
      (∀ n < 41, t.get (.edge .LEG_STAT_HI) n = 0 ∧ t.get (.edge .LEG_STAT_LO) n = 0) ∧
      (∀ c < 8, t.get (.saf .CD_STAT_ON) c = 0) ∧ t.get (.sns .CP_STAT_S2_ON) = 0 ∧ s.SameMem t ∧ s.SameQueue t) ∧
  (∀ (x : EngIx ⊕ Fin 9) (s : State), s.get (.saf .DBG_UNLOCKED) = 0 → exec (.debugHalt x) s = .next s) ∧
  (∀ (e : EngIx) (s : State), s.get (.saf .DBG_UNLOCKED) = 1 → s.get (.loop .LE_STAT_STATE) e.val = 1 →
    ∃ t, exec (.debugHalt (.inl e)) s = .next t ∧ t.get (.loop .LE_STAT_STATE) e.val = 3 ∧ t.get (.edge .STAT_HALT_FORCE) = 1 ∧
      (∀ g < 16, (s.get (.loop .LE_DEP) e.val).testBit g = true → t.Forced g) ∧ s.SameMem t ∧ s.SameQueue t) ∧
  (∀ (o : Fin 9) (s : State), s.get (.saf .DBG_UNLOCKED) = 1 →
    ∃ t, exec (.debugHalt (.inr o)) s = .next t ∧ (o.val < 8 → t.get (.saf .CP_DBG_HALT) o.val = 1) ∧ (s.ownedBy (o.val + 1) ≠ 0 → t.get (.edge .STAT_HALT_FORCE) = 1) ∧
      (∀ g < 16, (s.ownedBy (o.val + 1)).testBit g = true → t.Forced g ∧ t.get (.grd .HALTED) g = 1) ∧ s.SameMem t ∧ s.SameQueue t) ∧
  (∀ (e : EngIx) (s : State), s.get (.loop .LE_STAT_STATE) e.val = 3 →
    ∃ t, exec (.debugResume (.inl e)) s = .next t ∧ t.get (.loop .LE_STAT_STATE) e.val = 1 ∧
      (∀ g < 16, s.bit (.grd .OG_LATCH) g = true → t.bit (.grd .OG_LATCH) g = true) ∧ s.SameQueue t) ∧
  (∀ (e : EngIx) (s : State), s.get (.loop .LE_STAT_STATE) e.val = 3 → s.get (.loop .LE_RUN) e.val = 1 →
    (∀ q < 128, (s.set (.loop .LE_STAT_STATE) 1 e.val).openOcc e.val q = true →
      (s.set (.loop .LE_STAT_STATE) 1 e.val).deadlinePassed e.val q = false) →
    exec (.debugResume (.inl e)) s = .next (s.set (.loop .LE_STAT_STATE) 1 e.val)) ∧
  (∀ (o : Fin 9) (s : State),
    ∃ t, exec (.debugResume (.inr o)) s = .next t ∧ (o.val < 8 → t.get (.saf .CP_DBG_HALT) o.val = 0) ∧
      (∀ g < 16, (s.ownedBy (o.val + 1)).testBit g = true → t.get (.grd .HALTED) g = 0) ∧
      s.SameBut [.saf .CP_DBG_HALT, .grd .HALTED] t ∧ s.SameMem t ∧ s.SameQueue t)

/-- Chart lookups (R63, R65, R73): without an enabled and loaded chart the status is NOT_READY with every value 0; a result is read back
in node order; a lookup whose tiles are in the cache ends at once, one that meets a cold tile waits; a lookup that has waited 8 us ends
LATE with the values of the lookup before it. The chart caches (R69 to R71, R501): a wanted tile takes the victim's place, an unwanted one
changes nothing; a refused fill is shown; INVAL empties both caches. Next states of their own effect: CHART_LOOKUP, LOOKUP_LATE,
TILE_FILL_COMPLETE, TILE_FILL_CLOSED, CHART_INVAL. Where a clause touches them it follows the model's choices of log entries 15, 19, 20,
29, 78. -/
def Obligations.Charts : Prop :=
  (∀ (e : EngIx) (m : Fin 2) (a b c d : RegIx) (s : State), s.running e.val = true → s.groupAt e.val = 7 → s.get (.loop .CHART_STAT_LOADED) = 0 →
    ∃ t, exec (.chartLookup e .clean (.lookup m a b c d)) s = .next t ∧ t.get (.loop .CH_RS) e.val = 5 ∧
      t.get (.loop .CH_DONE) e.val = 1 ∧ t.get (.loop .CH_WAIT) e.val = 0 ∧ (∀ k < 7, t.get (.loop .CH_R) e.val k = 0) ∧
      s.SameBut [.loop .LE_PC, .loop .CH_R, .loop .CH_RS, .loop .CH_DONE, .loop .CH_WAIT] t ∧ s.SameMem t ∧ s.SameQueue t) ∧
  (∀ (e : EngIx) (d : RegIx) (k : Fin 8) (s : State), s.running e.val = true → s.groupAt e.val = 7 → k.val < 7 →
    exec (.chartLookup e .clean (.read d k)) s = .next ((s.inc (.loop .LE_PC) e.val).set (.loop .LE_G)
      (s.get (.loop .CH_R) e.val k.val) e.val d.val)) ∧
  (∀ (e : EngIx) (d : RegIx) (s : State), s.running e.val = true → s.groupAt e.val = 7 →
    exec (.chartLookup e .clean (.read d 7)) s = .next ((s.inc (.loop .LE_PC) e.val).set (.loop .LE_G)
      (s.get (.loop .CH_RS) e.val) e.val d.val)) ∧
  (∀ (e : EngIx) (m : Fin 2) (a b c d : RegIx) (q : Query) (s : State), s.running e.val = true → s.groupAt e.val = 7 →
    s.get (enFld m.val) = 1 → s.get (.loop .CHART_STAT_LOADED) = 1 →
    q = (toSigned 16 (s.g e.val a % 65536), toSigned 16 (s.g e.val b % 65536), toSigned 16 (s.g e.val c % 65536),
      toSigned 16 (s.g e.val d % 65536)) → s.present m.val q = true →
    ∃ t, exec (.chartLookup e .clean (.lookup m a b c d)) s = .next t ∧ t.get (.loop .CH_DONE) e.val = 1 ∧
      t.get (.loop .CH_WAIT) e.val = 0 ∧ t.get (.loop .CH_RS) e.val ∈ [0, 1, 2, 4] ∧ s.SameQueue t) ∧
  (∀ (e : EngIx) (m : Fin 2) (a b c d : RegIx) (q : Query) (s : State), s.running e.val = true → s.groupAt e.val = 7 →
    s.get (enFld m.val) = 1 → s.get (.loop .CHART_STAT_LOADED) = 1 →
    q = (toSigned 16 (s.g e.val a % 65536), toSigned 16 (s.g e.val b % 65536), toSigned 16 (s.g e.val c % 65536),
      toSigned 16 (s.g e.val d % 65536)) → s.present m.val q = false →
    ∃ t, exec (.chartLookup e .clean (.lookup m a b c d)) s = .next t ∧ t.get (.loop .CH_WAIT) e.val = m.val + 1 ∧
      t.get (.loop .CH_WAT) e.val = s.now ∧ s.SameQueue t) ∧
  (∀ (e : EngIx) (m : Fin 2) (s : State), s.get (.loop .CH_WAIT) e.val = m.val + 1 →
    s.get (.loop .CH_WAT) e.val + us 8 ≤ s.now → (List.range 16).any (s.cornerBad m.val (s.place m.val (s.waitQuery e.val))) = false →
    ∃ t, exec (.lookupLate e) s = .next t ∧ t.get (.loop .CH_RS) e.val = 3 ∧ t.get (.loop .CH_WAIT) e.val = 0 ∧
      t.get (.loop .CHART_STAT_LATE) = 1 ∧ (∀ k < 7, t.get (.loop .CH_R) e.val k = s.get (.loop .CH_PREV) m.val k % 2 ^ 16) ∧
      s.SameBut [.loop .CH_R, .loop .CH_RS, .loop .CH_DONE, .loop .CH_WAIT, .loop .CHART_STAT_LATE, .loop .CHART_CNT_LATE_CNT,
        .loop .CHART_CNT_MAX_STALL] t ∧ s.SameMem t ∧ s.SameQueue t) ∧
  (∀ (m : Fin 2) (tile : Fin 65536) (s : State), s.wanted m.val tile.val = true →
    ∃ t, exec (.tileFillComplete m tile) s = .next t ∧ t.get (.loop .CH_TILE) m.val (s.victim m.val) = tile.val + 1 ∧
      (∀ c, c ≠ s.victim m.val → t.get (.loop .CH_TILE) m.val c = s.get (.loop .CH_TILE) m.val c) ∧ s.SameQueue t) ∧
  (∀ (m : Fin 2) (tile : Fin 65536) (s : State), s.wanted m.val tile.val = false → exec (.tileFillComplete m tile) s = .next s) ∧
  (∀ (s : State), exec .tileFillClosed s = .next (s.set (.loop .CHART_STAT_FILL_CLOSED) 1)) ∧
  (∀ (w : Who) (v : Word) (s : State), s.reaches w chartCtrlAddr v.toNat → v.toNat.testBit 3 = true →
    ∃ t, exec (.chartInval w v) s = .next t ∧ t.resp = .ok ∧ (∀ m < 2, t.get (.loop .CH_N) m = 0) ∧
      (∀ m < 2, ∀ c < 64, t.get (.loop .CH_TILE) m c = 0) ∧ s.SameMem t ∧ s.SameQueue t)

/-- Writes to a tide store and the load of a pattern (R79 to R83): the page that plays, or any page during a load, is busy; a write clears
the VALID of its page; a load ends with its page valid under its PPI, or invalid under tag 0 with its error shown. Page requests (R84,
R86, R89): a request for a page already in the store becomes the pending request and is noted with its instant; MISS_LIM misses in a row
force the groups of the store's tide-miss source. Next states of their own effect: TIDE_STORE_WRITE, LOAD_PPI_WRITE, TIDE_LOAD_COMPLETE,
TIDE_LOAD_CLOSED, PAGE_REQUEST, TIDE_MISS_LIMIT. Where a clause touches them it follows the model's choices of log entries 15, 21, 29, 38,
78. -/
def Obligations.TideStores : Prop :=
  (∀ (w : Who) (p : PlayerIx) (k : Fin 16384) (v : Word) (s : State), s.reaches w (0x1041000000 + 0x10000 * p.val + 4 * k.val) v.toNat →
    (k.val / 8192 = s.get (.edge .TS_STAT_ACTIVE) p.val ∨ s.get (.edge .TS_STAT_LOADING) p.val = 1) →
    exec (.tideStoreWrite w p k v) s = .next ((s.set (.edge .TS_STAT_PAGE_BUSY) 1 p.val).answer .ok)) ∧
  (∀ (w : Who) (p : PlayerIx) (k : Fin 16384) (v : Word) (s : State), s.reaches w (0x1041000000 + 0x10000 * p.val + 4 * k.val) v.toNat →
    k.val < 8192 → s.get (.edge .TS_STAT_ACTIVE) p.val = 1 → s.get (.edge .TS_STAT_LOADING) p.val = 0 →
    ∃ t, exec (.tideStoreWrite w p k v) s = .next t ∧ t.resp = .ok ∧ t.get (.edge .TS_STAT_VALID0) p.val = 0 ∧
      t.readN (0x1041000000 + 0x10000 * p.val + 4 * k.val) 4 = v.toNat ∧
      (∀ a, (a < 0x1041000000 + 0x10000 * p.val + 4 * k.val ∨ 0x1041000000 + 0x10000 * p.val + 4 * k.val + 4 ≤ a) →
        t.byte a = s.byte a) ∧ s.SameBut [.edge .TS_STAT_VALID0, .edge .TS_STAT_SWAP_PEND] t ∧ s.SameQueue t) ∧
  (∀ (w : Who) (p : PlayerIx) (v : Word) (s : State), s.reaches w (0x1040000E10 + 0x10 * p.val) v.toNat → v.toNat / 65536 ≠ 0 →
    v.toNat / 65536 ≤ s.get (.edge .TL_DIRN) → s.get (.edge .TS_STAT_LOADING) p.val = 0 → s.get (.edge .TS_STAT_ACTIVE) p.val = 0 →
    ∃ t, exec (.loadPpiWrite w p v) s = .next t ∧ t.resp = .ok ∧ t.get (.edge .TS_STAT_LOADING) p.val = 1 ∧
      t.get (.edge .TS_LD_PPI) p.val = v.toNat / 65536 ∧ t.get (.edge .TS_STAT_VALID1) p.val = 0 ∧ s.SameMem t ∧ s.SameQueue t) ∧
  (∀ (p : PlayerIx) (s : State), s.get (.edge .TS_STAT_LOADING) p.val = 1 → s.get (.edge .TS_STAT_ACTIVE) p.val = 0 →
    (s.dirEntry (s.get (.edge .TS_LD_PPI) p.val)).ok p.val (s.get (.edge .TS_LD_PPI) p.val) = false →
    ∃ t, exec (.tideLoadComplete p) s = .next t ∧ t.get (.edge .TS_STAT_LOAD_ERR) p.val = 1 ∧
      t.get (.edge .TS_STAT_LOADING) p.val = 0 ∧ t.get (.edge .TS_STAT_VALID1) p.val = 0 ∧ t.get (.edge .TS_TAG_TAG1) p.val = 0 ∧
      (∀ a, (a < tideAddr p.val 1 0 ∨ tideAddr p.val 1 0 + 0x8000 ≤ a) → t.byte a = s.byte a) ∧ s.SameQueue t) ∧
  (∀ (p : PlayerIx) (ppi : Nat) (d : DirEntry) (r : Bool × State) (s : State), s.get (.edge .TS_STAT_LOADING) p.val = 1 →
    s.get (.edge .TS_STAT_ACTIVE) p.val = 0 → s.get (.edge .TS_LD_PPI) p.val = ppi → ppi < 65536 → s.dirEntry ppi = d →
    d.ok p.val ppi = true → copyPattern d p.val 1 (s.patternAddr d) 0 0 [] s d.count = r → r.1 = true →
    ∃ t, exec (.tideLoadComplete p) s = .next t ∧ t.get (.edge .TS_STAT_LOADING) p.val = 0 ∧
      t.get (.edge .TS_STAT_VALID1) p.val = 1 ∧ t.get (.edge .TS_TAG_TAG1) p.val = ppi ∧ t.mem = r.2.mem ∧ s.SameQueue t) ∧
  (∀ (p : PlayerIx) (s : State), s.get (.edge .TS_STAT_LOADING) p.val = 1 → s.get (.edge .TS_STAT_ACTIVE) p.val = 0 →
    ∃ t, exec (.tideLoadClosed p) s = .next t ∧ t.get (.edge .TS_STAT_LOAD_CLOSED) p.val = 1 ∧
      t.get (.edge .TS_STAT_LOADING) p.val = 0 ∧ t.get (.edge .TS_STAT_VALID1) p.val = 0 ∧ t.get (.edge .TS_TAG_TAG1) p.val = 0 ∧
      (∀ a, (a < tideAddr p.val 1 0 ∨ tideAddr p.val 1 0 + 0x8000 ≤ a) → t.byte a = s.byte a) ∧ s.SameQueue t) ∧
  (∀ (p : PlayerIx) (ppi : Half) (s : State), ppi.toNat = s.get (.edge .TS_TAG_TAG0) p.val → s.get (.edge .TS_RQN) p.val = 0 →
    ∃ t, exec (.pageRequest p ppi) s = .next t ∧ t.get (.edge .TS_REQ) p.val = ppi.toNat ∧ t.get (.edge .TS_REQ_HAS) p.val = 1 ∧ t.get (.edge .TS_RQN) p.val = 1 ∧ t.get (.edge .TS_RQ_P) p.val 0 = ppi.toNat ∧
      s.SameBut [.edge .TS_REQ, .edge .TS_REQ_HAS, .edge .TS_RQN, .edge .TS_RQ_P, .edge .TS_RQ_AT, .edge .TS_STAT_SWAP_PEND] t ∧
      s.SameMem t ∧ s.SameQueue t) ∧
  (∀ (p : PlayerIx) (s : State), 1 ≤ s.get (.edge .TS_STAT_MISS_RUN) p.val →
    s.get (.edge .TS_CTRL_MISS_LIM) p.val ≤ s.get (.edge .TS_STAT_MISS_RUN) p.val →
    ∃ t, exec (.tideMissLimit p) s = .next t ∧ t.get (.grd .SRC_ACT) (64 + p.val) = 1 ∧ t.srcLatched (64 + p.val) = true ∧
      (∀ g < 16, (s.get (.grd .ROUTE) (64 + p.val)).testBit g = true → t.Forced g) ∧ s.SameMem t ∧ s.SameQueue t)

/-- Starting, stopping and clearing a loop engine (R113, R114, R121, R143): a start with its conditions met puts the engine into RUN with
every slot's first sample due, one without sets START_ERR; a disable is refused while an enabled group depends on the engine without
FORCE, and drains it otherwise; FAULT_CLR takes a faulted engine to OFF and releases its escalation source. Next states of their own
effect: ENGINE_START, ENGINE_DISABLE, FAULT_CLR. Where a clause touches them it follows the model's choices of log entries 15, 23, 76. -/
def Obligations.EngineStates : Prop :=
  (∀ (w : Who) (e : EngIx) (v : Word) (u s : State), s.reaches w (leBase e.val) (v.toNat ||| 1) → s.get (.loop .LE_STAT_STATE) e.val = 0 →
    u = ((s.set (.loop .LE_CTRL_FORCE) (bits (v.toNat ||| 1) 1 1) e.val).set (.loop .LE_CTRL_DOMAIN) (bits (v.toNat ||| 1) 5 3) e.val).set
      (.loop .LE_CTRL_FDIV) (bits (v.toNat ||| 1) 8 4) e.val → u.startOk e.val = true →
    ∃ t, exec (.engineStart w e v) s = .next t ∧ t.resp = .ok ∧ t.get (.loop .LE_STAT_STATE) e.val = 1 ∧
      t.get (.loop .LE_CTRL_EN) e.val = 1 ∧ (∀ k < 8, t.get (.loop .LS_STAT_FIRST) e.val k = 1) ∧
      s.SameBut [.loop .LE_CTRL_FORCE, .loop .LE_CTRL_DOMAIN, .loop .LE_CTRL_FDIV, .loop .LE_CTRL_EN, .loop .LE_STAT_STATE,
        .loop .LE_LIVE, .loop .LS_STAT_FIRST] t ∧ s.SameMem t ∧ s.SameQueue t) ∧
  (∀ (w : Who) (e : EngIx) (v : Word) (u s : State), s.reaches w (leBase e.val) (v.toNat ||| 1) → s.get (.loop .LE_STAT_STATE) e.val = 0 →
    u = ((s.set (.loop .LE_CTRL_FORCE) (bits (v.toNat ||| 1) 1 1) e.val).set (.loop .LE_CTRL_DOMAIN) (bits (v.toNat ||| 1) 5 3) e.val).set
      (.loop .LE_CTRL_FDIV) (bits (v.toNat ||| 1) 8 4) e.val → u.startOk e.val = false →
    exec (.engineStart w e v) s = .next (((u.set (.loop .LE_STAT_START_ERR) 1 e.val).set (.loop .LE_CTRL_EN) 0 e.val).answer .ok)) ∧
  (∀ (w : Who) (e : EngIx) (v : Word) (s : State), s.reaches w (leBase e.val) (andNot v.toNat 0x1001) →
    s.get (.loop .LE_STAT_STATE) e.val = 1 → v.toNat.testBit 1 = false → s.get (.loop .LE_DEP) e.val &&& s.get (.edge .OG_EN) ≠ 0 →
    exec (.engineDisable w e v) s = .next ((((s.set (.loop .LE_CTRL_FORCE) 0 e.val).set (.loop .LE_STAT_DIS_REFUSED) 1 e.val).send
      .level4 121 e.val).answer .ok)) ∧
  (∀ (w : Who) (e : EngIx) (v : Word) (s : State), s.reaches w (leBase e.val) (andNot v.toNat 0x1001) →
    s.get (.loop .LE_STAT_STATE) e.val = 1 → s.get (.loop .LE_RUN) e.val = 1 →
    (v.toNat.testBit 1 = true ∨ s.get (.loop .LE_DEP) e.val &&& s.get (.edge .OG_EN) = 0) →
    ∃ t, exec (.engineDisable w e v) s = .next t ∧ t.resp = .ok ∧ t.get (.loop .LE_STAT_STATE) e.val = 2 ∧
      t.get (.loop .LE_CTRL_EN) e.val = 0 ∧ t.get (.loop .LE_DUE) e.val = 0 ∧ t.get (.loop .LE_TRGD) e.val = 0 ∧
      (∀ g < 16, (s.get (.loop .LE_DEP) e.val).testBit g = true → t.bit (.edge .OG_EN) g = false) ∧ s.SameMem t ∧ s.SameQueue t) ∧
  (∀ (w : Who) (e : EngIx) (v : Word) (s : State), s.reaches w (leBase e.val) (andNot (v.toNat ||| 0x1000) 1) →
    s.get (.loop .LE_STAT_STATE) e.val = 4 →
    ∃ t, exec (.faultClr w e v) s = .next t ∧ t.resp = .ok ∧ t.get (.loop .LE_STAT_STATE) e.val = 0 ∧
      t.get (.loop .LE_CTRL_EN) e.val = 0 ∧ t.get (.loop .LE_DUE) e.val = 0 ∧ t.get (.loop .LE_RUN) e.val = 0 ∧
      t.get (.grd .SRC_ACT) (48 + e.val) = 0 ∧ (∀ k, t.get (.grd .SRC_LATCH) k = s.get (.grd .SRC_LATCH) k) ∧ s.SameMem t ∧ s.SameQueue t)

/-- Frames, input ports and triggers of a loop engine (R111, R113, R115, R118, R119, R123): a frame boundary ends freshness, advances the
frame count and takes a pending bank, and nothing happens before it has come; a port takes the value that arrives and is fresh; a trigger
waits for a busy engine, else its sample starts at the slot's entry address. Next states of their own effect: FRAME_BOUNDARY,
INPUT_PORT_ARRIVAL, SAMPLE_TRIGGER. Where a clause touches them it follows the model's choices of log entries 25, 26, 30, 70. -/
def Obligations.FramesAndTriggers : Prop :=
  (∀ (e : EngIx) (l : List Nat) (s : State), s.frameCome e.val = true → s.loopClocked = true → s.get (.loop .LE_STAT_STATE) e.val = 1 →
    s.get (.loop .LE_LIVE) e.val = 1 → s.get (.loop .SCHED_STAT_COMMIT_PEND) e.val = 0 → s.get (.loop .LE_RUN) e.val = 1 →
    l = s.dueList e.val (s.get (.loop .LE_FC) e.val + 1) → s.get (.loop .LE_NXT) e.val = 0 →
    ∃ t, exec (.frameBoundary e) s = .next t ∧ t.get (.loop .IPFRESH) e.val = 0 ∧
      t.get (.loop .LE_STAT_FCNT) e.val = (s.get (.loop .LE_FC) e.val + 1) % 65536 ∧ t.get (.loop .LE_RBN) e.val = 0 ∧
      (∀ q ∈ l, q < 128 → s.openOcc e.val q = false → t.bit (.loop .LE_DUE) q e.val = true ∧
        t.get (.loop .LE_DUE_AT) e.val q = (s.now + 1) % 2 ^ 64) ∧
      (∀ q ∈ l, q < 128 → s.openOcc e.val q = true → t.bit (.loop .LE_NXT) q e.val = true) ∧
      s.SameBut [.loop .IPFRESH, .loop .LE_FAT, .loop .LE_RBN, .loop .LE_LIVE, .loop .LE_FC, .loop .LE_STAT_FCNT, .loop .LE_DUEF,
        .loop .LE_DUE, .loop .LE_DUE_AT, .loop .LE_NXT, .loop .LE_NXT_AT, .loop .LE_OCC, .loop .LE_ENDED, .loop .LE_FRE,
        .loop .LS_NOCC] t ∧ s.SameMem t ∧ s.SameQueue t) ∧
  (∀ (e : EngIx) (s : State), s.frameCome e.val = true → s.loopClocked = true → s.get (.loop .LE_STAT_STATE) e.val = 1 →
    s.get (.loop .SCHED_STAT_COMMIT_PEND) e.val = 1 → s.get (.loop .LE_CSKIP) e.val = 0 → s.get (.loop .LE_NXT) e.val = 0 →
    ∃ t, exec (.frameBoundary e) s = .next t ∧ t.get (.loop .SCHED_STAT_ACTIVE) e.val = 1 - s.get (.loop .SCHED_STAT_ACTIVE) e.val ∧
      t.get (.loop .SCHED_STAT_COMMIT_PEND) e.val = 0 ∧ s.SameMem t ∧ s.SameQueue t) ∧
  (∀ (e : EngIx) (s : State), s.frameCome e.val = false → exec (.frameBoundary e) s = .next s) ∧
  (∀ (e : EngIx) (p : Fin 32) (v : Word) (s : State), s.get (.saf .ISL_STAT_STATE) 6 = 0 → s.get (.loop .IPMAP_KIND) e.val p.val = 5 →
    exec (.inputPortArrival e p v) s = .next ((s.set (.loop .LE_IP) v.toNat e.val p.val).setBit (.loop .IPFRESH) p.val e.val)) ∧
  (∀ (e : EngIx) (p : Fin 32) (v : Word) (n : Nat) (s : State), s.get (.saf .ISL_STAT_STATE) 6 = 0 →
    s.get (.loop .IPMAP_KIND) e.val p.val = 7 →
    n = s.get (.loop .SRC_SEQ) 7 (32 * s.get (.loop .IPMAP_ENG) e.val p.val + s.get (.loop .IPMAP_CHAN) e.val p.val) →
    n ≠ s.get (.loop .LE_IPSEQ) e.val p.val →
    exec (.inputPortArrival e p v) s = .next (((s.set (.loop .LE_IP) (s.get (.loop .LE_OP) (s.get (.loop .IPMAP_ENG) e.val p.val)
      (s.get (.loop .IPMAP_CHAN) e.val p.val)) e.val p.val).setBit (.loop .IPFRESH) p.val e.val).set (.loop .LE_IPSEQ) n e.val p.val)) ∧
  (∀ (e : EngIx) (p : Fin 32) (v : Word) (s : State), s.get (.loop .IPMAP_KIND) e.val p.val = 0 →
    exec (.inputPortArrival e p v) s = .next s) ∧
  (∀ (e : EngIx) (i : Fin 64) (q : Nat) (s : State), s.get (.loop .LE_STAT_STATE) e.val = 1 → q = 64 * s.activeBank e.val + i.val →
    s.bit (.loop .LE_DUE) (64 * (1 - s.activeBank e.val) + i.val) e.val = false → s.bit (.loop .LE_DUE) q e.val = true →
    s.triggerOk e.val q (s.get (.loop .LE_DUE_AT) e.val q) = true → s.get (.loop .LE_RUN) e.val = 1 →
    exec (.sampleTrigger e i) s = .next (((s.clrBit (.loop .LE_DUE) q e.val).setBit (.loop .LE_TRGD) q e.val).set (.loop .LE_TRG_AT)
      (s.now + 1) e.val q)) ∧
  (∀ (e : EngIx) (i : Fin 64) (q k : Nat) (s : State), s.get (.loop .LE_STAT_STATE) e.val = 1 → s.activeBank e.val ≤ 1 →
    q = 64 * s.activeBank e.val + i.val →
    s.bit (.loop .LE_DUE) (64 * (1 - s.activeBank e.val) + i.val) e.val = false → s.bit (.loop .LE_DUE) q e.val = true →
    s.triggerOk e.val q (s.get (.loop .LE_DUE_AT) e.val q) = true →
    s.get (.loop .LE_RUN) e.val = 0 → s.get (.loop .LE_TRGD) e.val = 0 → (s.entry e.val q).ls = k →
    s.get (.loop .LS_CAPD) e.val k = 0 → s.wget .LS_CFG_EN e.val k = 1 →
    ∃ t, exec (.sampleTrigger e i) s = .next t ∧ t.get (.loop .LE_RUN) e.val = 1 ∧ t.get (.loop .LE_ENT) e.val = q ∧
      t.get (.loop .LE_SLOT) e.val = k ∧ t.get (.loop .LE_PC) e.val = s.wget .LS_ENTRY_ADDR e.val k % 4096 ∧
      t.get (.loop .LE_DEPTH) e.val = 0 ∧ t.bit (.loop .LE_DUE) q e.val = false ∧ s.SameMem t ∧ s.SameQueue t) ∧
  (∀ (e : EngIx) (p : Fin 32) (v : Word) (n : Nat) (s : State), s.get (.saf .ISL_STAT_STATE) 6 = 0 →
    s.get (.loop .IPMAP_KIND) e.val p.val = 6 → s.get (.loop .IPMAP_CHAN) e.val p.val ≤ 2 →
    n = s.get (.loop .SRC_SEQ) 6 (s.get (.loop .IPMAP_CHAN) e.val p.val) → n ≠ s.get (.loop .LE_IPSEQ) e.val p.val →
    exec (.inputPortArrival e p v) s = .next (((s.set (.loop .LE_IP) (s.get (.act .BR_STAT_HALL) (s.get (.loop .IPMAP_CHAN) e.val p.val) +
      256 * s.get (.act .HALL_CNT) (s.get (.loop .IPMAP_CHAN) e.val p.val)) e.val p.val).setBit (.loop .IPFRESH) p.val e.val).set
      (.loop .LE_IPSEQ) n e.val p.val)) ∧
  (∀ (e : EngIx) (p : Fin 32) (v : Word) (n : Nat) (s : State), s.get (.saf .ISL_STAT_STATE) 6 = 0 →
    s.get (.loop .IPMAP_KIND) e.val p.val ∈ [1, 2, 3, 4, 8] →
    n = s.get (.loop .SRC_SEQ) (s.get (.loop .IPMAP_KIND) e.val p.val) (s.get (.loop .IPMAP_CHAN) e.val p.val) →
    n ≠ s.get (.loop .LE_IPSEQ) e.val p.val →
    exec (.inputPortArrival e p v) s = .next (((s.set (.loop .LE_IP) (s.sourceValue (s.get (.loop .IPMAP_KIND) e.val p.val)
      (s.get (.loop .IPMAP_CHAN) e.val p.val) (s.get (.loop .IPMAP_ENG) e.val p.val) v.toNat) e.val p.val).setBit (.loop .IPFRESH) p.val
      e.val).set (.loop .LE_IPSEQ) n e.val p.val)) ∧
  (∀ (e : EngIx) (p : Fin 32) (v : Word) (s : State), s.get (.loop .IPMAP_KIND) e.val p.val = 6 →
    25 ≤ s.get (.loop .IPMAP_CHAN) e.val p.val → exec (.inputPortArrival e p v) s = .next s)

/-- The end of a sample, a closed port, and misses (R109, R112, R113, R128, R130, R143): END commits the slot's staged state at once and
frees the engine; a draining engine is then OFF; a miss is recorded with its cause, counts, and the entry is passed; MISS_LIM misses in a
row assert the engine's escalation source. Next states of their own effect: END, PORT_CLOSED, DEADLINE_MISS, MISS_LIMIT_REACHED. Where a
clause touches them it follows the model's choices of log entries 27, 76, 77. -/
def Obligations.SampleEndAndMisses : Prop :=
  (∀ (e : EngIx) (k : SlotIx) (s : State), s.running e.val = true → s.groupAt e.val = 0 → s.get (.loop .LE_STAT_STATE) e.val = 1 →
    s.get (.loop .LE_SLOT) e.val = k.val → s.get (.loop .LE_TRGD) e.val = 0 → s.lowestOf e.val k.val = none →
    s.wget .LS_PM_CFG_FORM e.val k.val = 0 → s.get (.loop .PM_EV) e.val k.val = 0 → s.bit (.loop .S_HAS) 1 e.val k.val = true →
    ∃ t, exec (.sampleEnd e .clean []) s = .next t ∧ t.get (.loop .LE_RUN) e.val = 0 ∧
      t.get (.loop .LS_STAT_U) e.val k.val = s.get (.loop .S_U) e.val k.val % 65536 ∧
      t.get (.loop .LS_INTEG) e.val k.val = s.get (.loop .S_INTEG) e.val k.val % 2 ^ 32 ∧
      t.get (.loop .LS_STAT_FIRST) e.val k.val = 0 ∧ t.get (.loop .LS_MISS_MISS_RUN) e.val k.val = 0 ∧ s.SameQueue t) ∧
  (∀ (e : EngIx) (s : State), s.running e.val = true → s.groupAt e.val = 0 → s.get (.loop .LE_STAT_STATE) e.val = 2 →
    ∃ t, exec (.sampleEnd e .clean []) s = .next t ∧ t.get (.loop .LE_STAT_STATE) e.val = 0 ∧ t.get (.loop .LE_RUN) e.val = 0 ∧ s.SameQueue t) ∧
  (∀ (e : EngIx) (s : State), exec (.portClosed e) s = .next (s.set (.loop .LE_STAT_PORT_CLOSED) 1 e.val)) ∧
  (∀ (e : EngIx) (i : Fin 64) (q k : Nat) (s : State), s.get (.loop .LE_STAT_STATE) e.val = 1 → s.activeBank e.val ≤ 1 →
    q = 64 * s.activeBank e.val + i.val → s.openOcc e.val (64 * (1 - s.activeBank e.val) + i.val) = false →
    s.openOcc e.val q = true → s.deadlinePassed e.val q = true → s.bit (.loop .LE_NXT) q e.val = false →
    s.get (.loop .LE_RUN) e.val = 1 → s.get (.loop .LE_ENT) e.val ≠ q → (s.entry e.val q).ls = k → s.wget .LS_CFG_EN e.val k = 1 →
    ∃ t, exec (.deadlineMiss e i false) s = .next t ∧ t.get (.loop .LS_STAT_MISS) e.val k = 1 ∧
      t.get (.loop .LS_STAT_MISS_CAUSE) e.val k = s.missCause e.val q false ∧
      t.get (.loop .LS_MISS_MISS_RUN) e.val k = min (s.get (.loop .LS_MISS_MISS_RUN) e.val k + 1) 255 ∧
      t.get (.loop .LS_MISS_MISS_CNT) e.val k = min (s.get (.loop .LS_MISS_MISS_CNT) e.val k + 1) 65535 ∧
      t.bit (.loop .LE_DUE) q e.val = false ∧ t.bit (.loop .LE_TRGD) q e.val = false ∧
      t.bit (.loop .LE_ENDED) q e.val = true ∧ t.get (.loop .LE_RUN) e.val = 1 ∧
      s.SameQueue t) ∧
  (∀ (e : EngIx) (i : Fin 64) (q k : Nat) (s : State), s.get (.loop .LE_STAT_STATE) e.val = 1 → s.activeBank e.val ≤ 1 →
    q = 64 * s.activeBank e.val + i.val → s.openOcc e.val (64 * (1 - s.activeBank e.val) + i.val) = false →
    s.openOcc e.val q = true → s.bit (.loop .LE_NXT) q e.val = true → s.triggerOk e.val q (s.get (.loop .LE_NXT_AT) e.val q) = true →
    s.get (.loop .LE_RUN) e.val = 1 → s.get (.loop .LE_ENT) e.val ≠ q → (s.entry e.val q).ls = k → s.wget .LS_CFG_EN e.val k = 1 →
    ∃ t, exec (.deadlineMiss e i true) s = .next t ∧ t.get (.loop .LS_STAT_MISS) e.val k = 1 ∧
      t.get (.loop .LS_STAT_MISS_CAUSE) e.val k = 4 ∧ t.bit (.loop .LE_DUE) q e.val = true ∧ t.bit (.loop .LE_NXT) q e.val = false ∧
      t.get (.loop .LE_DUE_AT) e.val q = s.get (.loop .LE_NXT_AT) e.val q % 2 ^ 64 ∧ s.SameQueue t) ∧
  (∀ (e : EngIx) (k : SlotIx) (s : State), max 1 (s.get (.loop .LS_MISS_MISS_LIM) e.val k.val) ≤ s.get (.loop .LS_MISS_MISS_RUN) e.val k.val →
    s.get (.loop .LE_STAT_STATE) e.val ≠ 0 →
    ∃ t, exec (.missLimitReached e k) s = .next t ∧ t.get (.loop .LE_ESC) e.val = 1 ∧ t.get (.grd .SRC_ACT) (48 + e.val) = 1 ∧
      t.srcLatched (48 + e.val) = true ∧ (∀ g < 16, (s.get (.grd .ROUTE) (48 + e.val) ||| s.get (.loop .LE_DEP) e.val).testBit g = true →
        t.Forced g) ∧ s.SameMem t ∧ s.SameQueue t) ∧
  (∀ (e : EngIx) (k : SlotIx) (s : State), s.get (.loop .LS_MISS_MISS_RUN) e.val k.val < max 1 (s.get (.loop .LS_MISS_MISS_LIM) e.val k.val) →
    exec (.missLimitReached e k) s = .next s)

/-- Program memory and schedule banks (R104, R122, R123, R125, R126): program memory is written in OFF only; the bank that runs, or any
bank while one is pending, is not written; a COMMIT is checked, a bank that fails is not taken and its code is shown, one that passes is
taken at once in OFF, else at the next frame boundary, or the one after where it came late. Next states of their own effect:
PROGRAM_MEMORY_WRITE, SCHEDULE_BANK_WRITE, COMMIT, COMMIT_CHECK_DONE. Where a clause touches them it follows the model's choices of log
entries 15, 23, 32. -/
def Obligations.ProgramAndBanks : Prop :=
  (∀ (w : Who) (e : EngIx) (k : Fin 8192) (v : Word) (s : State), s.reaches w (leBase e.val + 0x40000 + 4 * k.val) v.toNat →
    s.get (.loop .LE_STAT_STATE) e.val = 0 →
    ∃ t, exec (.programMemoryWrite w e k v) s = .next t ∧ t.resp = .ok ∧ t.readN (leBase e.val + 0x40000 + 4 * k.val) 4 = v.toNat ∧
      (∀ a, (a < leBase e.val + 0x40000 + 4 * k.val ∨ leBase e.val + 0x40000 + 4 * k.val + 4 ≤ a) → t.byte a = s.byte a) ∧
      s.SameBut [] t ∧ s.SameQueue t) ∧
  (∀ (w : Who) (e : EngIx) (k : Fin 8192) (v : Word) (s : State), s.reaches w (leBase e.val + 0x40000 + 4 * k.val) v.toNat →
    s.get (.loop .LE_STAT_STATE) e.val ≠ 0 →
    exec (.programMemoryWrite w e k v) s = .next ((s.set (.loop .LE_STAT_CFG_BUSY) 1 e.val).answer .ok)) ∧
  (∀ (w : Who) (e : EngIx) (b : Fin 2) (k : Fin 256) (v : Word) (s : State), s.reaches w (bankAddr e.val b.val + 4 * k.val) v.toNat →
    s.get (.loop .SCHED_STAT_ACTIVE) e.val ≠ b.val → s.get (.loop .SCHED_STAT_COMMIT_PEND) e.val = 0 →
    ∃ t, exec (.scheduleBankWrite w e b k v) s = .next t ∧ t.resp = .ok ∧ t.readN (bankAddr e.val b.val + 4 * k.val) 4 = v.toNat ∧
      (∀ a, (a < bankAddr e.val b.val + 4 * k.val ∨ bankAddr e.val b.val + 4 * k.val + 4 ≤ a) → t.byte a = s.byte a) ∧
      s.SameBut [] t ∧ s.SameQueue t) ∧
  (∀ (w : Who) (e : EngIx) (b : Fin 2) (k : Fin 256) (v : Word) (s : State), s.reaches w (bankAddr e.val b.val + 4 * k.val) v.toNat →
    (s.get (.loop .SCHED_STAT_ACTIVE) e.val = b.val ∨ s.get (.loop .SCHED_STAT_COMMIT_PEND) e.val = 1) →
    exec (.scheduleBankWrite w e b k v) s = .next ((s.set (.loop .SCHED_STAT_SLOT_BUSY) 1 e.val).answer .ok)) ∧
  (∀ (w : Who) (e : EngIx) (s : State), s.reaches w (leBase e.val + 0x10) 1 → s.get (.loop .SCHED_STAT_COMMIT_PEND) e.val = 0 →
    exec (.commit w e) s = .next ((s.set (.loop .LE_CHK) 1 e.val).answer .ok)) ∧
  (∀ (w : Who) (e : EngIx) (s : State), s.reaches w (leBase e.val + 0x10) 1 → s.get (.loop .SCHED_STAT_COMMIT_PEND) e.val = 1 →
    exec (.commit w e) s = .next ((s.set (.loop .SCHED_STAT_SLOT_BUSY) 1 e.val).answer .ok)) ∧
  (∀ (e : EngIx) (c : Nat) (s : State), s.get (.loop .LE_CHK) e.val = 1 →
    s.commitCode e.val (1 - s.get (.loop .SCHED_STAT_ACTIVE) e.val) = c → c ≠ 0 →
    exec (.commitCheckDone e) s = .next (((s.set (.loop .LE_CHK) 0 e.val).set (.loop .SCHED_STAT_SCHED_ERR) 1 e.val).set
      (.loop .SCHED_STAT_ERR_CODE) c e.val)) ∧
  (∀ (e : EngIx) (s : State), s.get (.loop .LE_CHK) e.val = 1 → s.commitCode e.val (1 - s.get (.loop .SCHED_STAT_ACTIVE) e.val) = 0 →
    s.get (.loop .LE_STAT_STATE) e.val = 0 →
    ∃ t, exec (.commitCheckDone e) s = .next t ∧ t.get (.loop .SCHED_STAT_ACTIVE) e.val = 1 - s.get (.loop .SCHED_STAT_ACTIVE) e.val ∧
      s.SameBut [.loop .LE_CHK, .loop .SCHED_STAT_ACTIVE, .loop .SCHED_STAT_COMMIT_PEND, .loop .LE_CSKIP] t ∧ s.SameMem t ∧
      s.SameQueue t) ∧
  (∀ (e : EngIx) (s : State), s.get (.loop .LE_CHK) e.val = 1 → s.commitCode e.val (1 - s.get (.loop .SCHED_STAT_ACTIVE) e.val) = 0 →
    s.get (.loop .LE_STAT_STATE) e.val = 1 →
    exec (.commitCheckDone e) s = .next (if s.now + us 2 ≤ s.get (.loop .LE_FAT) e.val + s.frameTicks e.val then
        ((s.set (.loop .LE_CHK) 0 e.val).set (.loop .SCHED_STAT_COMMIT_PEND) 1 e.val).set (.loop .LE_CSKIP) 0 e.val
      else (((s.set (.loop .LE_CHK) 0 e.val).set (.loop .SCHED_STAT_COMMIT_PEND) 1 e.val).set (.loop .LE_CSKIP) 1 e.val).set
        (.loop .SCHED_STAT_LATE_COMMIT) 1 e.val))

/-- Slot registers and groups of a loop engine (R131, R140, R145): APPLY takes all shadowed registers together, at once in OFF, else for
the next due sample, and is refused with the shadows restored where OMIN is above OMAX; REPRIME makes the next sample a first one; group
registers are written in OFF only. Next states of their own effect: APPLY, REPRIME, GROUP_REGISTER_WRITE. -/
def Obligations.SlotRegisters : Prop :=
  (∀ (w : Who) (e : EngIx) (k : SlotIx) (v : Word) (s : State), s.reaches w (lsAddr e.val k.val + 0x2C) (v.toNat ||| 1) →
    s.sget (.loop .LS_LIMIT_OMAX) e.val k.val < s.sget (.loop .LS_LIMIT_OMIN) e.val k.val →
    ∃ t, exec (.apply w e k v) s = .next t ∧ t.resp = .ok ∧ t.get (.loop .LS_STAT_CFG_ERR) e.val k.val = 1 ∧
      (∀ f ∈ shadowed, t.get (.loop f) e.val k.val = s.get (.loop f) e.val (work k.val) % 2 ^ (Fld.loop f).spec.w) ∧
      s.SameMem t ∧ s.SameQueue t) ∧
  (∀ (w : Who) (e : EngIx) (k : SlotIx) (v : Word) (s : State), s.reaches w (lsAddr e.val k.val + 0x2C) (v.toNat ||| 1) →
    s.sget (.loop .LS_LIMIT_OMIN) e.val k.val ≤ s.sget (.loop .LS_LIMIT_OMAX) e.val k.val → s.get (.loop .LE_STAT_STATE) e.val = 0 →
    ∃ t, exec (.apply w e k v) s = .next t ∧ t.resp = .ok ∧ t.get (.loop .LS_STAT_APPLY_PEND) e.val k.val = 0 ∧
      (∀ f ∈ shadowed, t.get (.loop f) e.val (work k.val) = s.get (.loop f) e.val k.val % 2 ^ (Fld.loop f).spec.w) ∧
      s.SameMem t ∧ s.SameQueue t) ∧
  (∀ (w : Who) (e : EngIx) (k : SlotIx) (v : Word) (s : State), s.reaches w (lsAddr e.val k.val + 0x2C) (v.toNat ||| 1) →
    s.sget (.loop .LS_LIMIT_OMIN) e.val k.val ≤ s.sget (.loop .LS_LIMIT_OMAX) e.val k.val → s.get (.loop .LE_STAT_STATE) e.val ≠ 0 →
    ∃ t, exec (.apply w e k v) s = .next t ∧ t.resp = .ok ∧ t.get (.loop .LS_STAT_APPLY_PEND) e.val k.val = 1 ∧
      (∀ f ∈ shadowed, t.get (.loop f) e.val (work k.val) = s.get (.loop f) e.val (work k.val)) ∧ s.SameMem t ∧ s.SameQueue t) ∧
  (∀ (w : Who) (e : EngIx) (k : SlotIx) (v : Word) (s : State), s.reaches w (lsAddr e.val k.val + 0x2C) (v.toNat ||| 2) →
    v.toNat.testBit 0 = false →
    exec (.reprime w e k v) s = .next ((s.set (.loop .LS_STAT_FIRST) 1 e.val k.val).answer .ok)) ∧
  (∀ (w : Who) (e : EngIx) (g : Fin 4) (v : Word) (s : State), s.reaches w (leBase e.val + 0xC00 + 4 * g.val) v.toNat →
    s.get (.loop .LE_STAT_STATE) e.val ≠ 0 → s.bit (.saf .LOCK_ISL_LOCK) 6 = false →
    exec (.groupRegisterWrite w e g v) s = .next ((s.set (.loop .LE_STAT_CFG_BUSY) 1 e.val).answer .ok)) ∧
  (∀ (w : Who) (e : EngIx) (g : Fin 4) (v : Word) (s : State), s.reaches w (leBase e.val + 0xC00 + 4 * g.val) v.toNat →
    s.get (.loop .LE_STAT_STATE) e.val = 0 →
    exec (.groupRegisterWrite w e g v) s = .next ((storeWord w (leBase e.val + 0xC00 + 4 * g.val) v.toNat s).answer .ok))

/-- Control instructions and fetches (R105, R107, R108, R113, R130): the next instruction follows but where a branch is taken, a call
saves its return place, a fifth nested call overflows; a fetch that cannot be corrected, an overflow or an illegal instruction faults the
engine and forces the groups its source routes to; an engine with no sample in flight executes nothing. Next states of their own effect:
CTRL, ILLEGAL_INSTRUCTION, ESC. Where a clause touches them it follows the model's choices of log entries 1, 12, 26. -/
def Obligations.EngineControl : Prop :=
  (∀ (e : EngIx) (s : State), s.running e.val = true → s.groupAt e.val = 0 → exec (.ctrl e .clean .nop) s = .next (s.inc (.loop .LE_PC) e.val)) ∧
  (∀ (e : EngIx) (a : Fin 4096) (s : State), s.running e.val = true → s.groupAt e.val = 0 →
    exec (.ctrl e .clean (.branch a)) s = .next ((s.inc (.loop .LE_PC) e.val).set (.loop .LE_PC) a.val e.val)) ∧
  (∀ (e : EngIx) (a : Fin 4096) (s : State), s.running e.val = true → s.groupAt e.val = 0 →
    exec (.ctrl e .clean (.branchIf false a)) s = .next (s.inc (.loop .LE_PC) e.val)) ∧
  (∀ (e : EngIx) (a : Fin 4096) (s : State), s.running e.val = true → s.groupAt e.val = 0 →
    exec (.ctrl e .clean (.branchIf true a)) s = .next ((s.inc (.loop .LE_PC) e.val).set (.loop .LE_PC) a.val e.val)) ∧
  (∀ (e : EngIx) (a : Fin 4096) (s : State), s.running e.val = true → s.groupAt e.val = 0 → s.get (.loop .LE_DEPTH) e.val < 4 →
    ∃ t, exec (.ctrl e .clean (.call a)) s = .next t ∧ t.get (.loop .LE_PC) e.val = a.val ∧
      t.get (.loop .LE_DEPTH) e.val = s.get (.loop .LE_DEPTH) e.val + 1 ∧
      t.get (.loop .LE_STK) e.val (s.get (.loop .LE_DEPTH) e.val) = (s.get (.loop .LE_PC) e.val + 1) % 4096 ∧
      s.SameBut [.loop .LE_PC, .loop .LE_DEPTH, .loop .LE_STK] t ∧ s.SameMem t ∧ s.SameQueue t) ∧
  (∀ (e : EngIx) (s : State), s.running e.val = true → s.groupAt e.val = 0 → 1 ≤ s.get (.loop .LE_DEPTH) e.val → s.get (.loop .LE_DEPTH) e.val ≤ 4 →
    ∃ t, exec (.ctrl e .clean .ret) s = .next t ∧
      t.get (.loop .LE_PC) e.val = s.get (.loop .LE_STK) e.val (s.get (.loop .LE_DEPTH) e.val - 1) % 4096 ∧
      t.get (.loop .LE_DEPTH) e.val = s.get (.loop .LE_DEPTH) e.val - 1 ∧
      s.SameBut [.loop .LE_PC, .loop .LE_DEPTH] t ∧ s.SameMem t ∧ s.SameQueue t) ∧
  (∀ (e : EngIx) (a : Fin 4096) (s : State), s.running e.val = true → s.groupAt e.val = 0 → 4 ≤ s.get (.loop .LE_DEPTH) e.val →
    ∃ t, exec (.ctrl e .clean (.call a)) s = .next t ∧ t.get (.loop .LE_STAT_STATE) e.val = 4 ∧ t.get (.loop .LE_STAT_STACK) e.val = 1 ∧
      t.get (.loop .LE_RUN) e.val = 0 ∧ t.get (.grd .SRC_ACT) (48 + e.val) = 1 ∧ s.SameMem t ∧ s.SameQueue t) ∧
  (∀ (e : EngIx) (o : CtrlOp) (s : State), s.running e.val = true → s.groupAt e.val = 0 →
    ∃ t, exec (.ctrl e .fatal o) s = .next t ∧ t.get (.loop .LE_STAT_STATE) e.val = 4 ∧ t.get (.loop .LE_STAT_ECC_FATAL) e.val = 1 ∧
      t.get (.loop .LE_PC) e.val = s.get (.loop .LE_PC) e.val ∧ s.SameMem t ∧ s.SameQueue t) ∧
  (∀ (e : EngIx) (s : State), s.running e.val = true → s.groupAt e.val = 0 →
    exec (.ctrl e .corrected .nop) s = .next (((s.set (.loop .LE_STAT_ECC_CORR) 1 e.val).incSat (.mem .SRAM_ERR_CE_CNT)).inc
      (.loop .LE_PC) e.val)) ∧
  (∀ (e : EngIx) (f : Ecc) (o : CtrlOp) (s : State), s.running e.val = false → exec (.ctrl e f o) s = .next s) ∧
  (∀ (e : EngIx) (s : State), s.running e.val = true →
    ∃ t, exec (.illegalInstruction e .clean) s = .next t ∧ t.get (.loop .LE_STAT_STATE) e.val = 4 ∧
      t.get (.loop .LE_STAT_ILLEGAL) e.val = 1 ∧ t.get (.loop .LE_RUN) e.val = 0 ∧ t.get (.loop .LE_OPW) e.val = 0 ∧
      t.get (.grd .SRC_ACT) (48 + e.val) = 1 ∧ (∀ g < 16, (s.get (.grd .ROUTE) (48 + e.val) ||| s.get (.loop .LE_DEP) e.val).testBit g =
        true → t.Forced g) ∧ s.SameMem t ∧ s.SameQueue t) ∧
  (∀ (e : EngIx) (s : State), s.running e.val = true → s.groupAt e.val = 13 →
    ∃ t, exec (.esc e .clean .assert) s = .next t ∧ t.get (.loop .LE_ESC) e.val = 1 ∧ t.srcLatched (48 + e.val) = true ∧
      (∀ g < 16, (s.get (.grd .ROUTE) (48 + e.val) ||| s.get (.loop .LE_DEP) e.val).testBit g = true → t.Forced g) ∧
      s.SameMem t ∧ s.SameQueue t) ∧
  (∀ (e : EngIx) (s : State), s.running e.val = true → s.groupAt e.val = 13 →
    exec (.esc e .clean .flag) s = .next ((s.inc (.loop .LE_PC) e.val).set (.loop .LS_STAT_PFLAG) 1 e.val (s.get (.loop .LE_SLOT) e.val)))

/-- Data instructions of a loop engine (R105, R107, R109 to R112): the destination register takes the result where the rules state it; a
store writes its word of data memory and no other byte; MAC adds into its accumulator; TRIG and XFORM write only their destinations; an
output is staged; a freshness test changes nothing but its register. Next states of their own effect: MOVE, ARITH, MAC, TRIG, XFORM, PORT.
Where a clause touches them it follows the model's choices of log entries 1, 12, 26, 43. -/
def Obligations.EngineData : Prop :=
  (∀ (e : EngIx) (d a : RegIx) (s : State), s.running e.val = true → s.groupAt e.val = 1 →
    exec (.move e .clean (.reg d a)) s = .next ((s.inc (.loop .LE_PC) e.val).set (.loop .LE_G) (s.g e.val a) e.val d.val)) ∧
  (∀ (e : EngIx) (d : RegIx) (v : Word) (s : State), s.running e.val = true → s.groupAt e.val = 1 →
    exec (.move e .clean (.imm d v)) s = .next ((s.inc (.loop .LE_PC) e.val).set (.loop .LE_G) v.toNat e.val d.val)) ∧
  (∀ (e : EngIx) (d : RegIx) (a : BitVec 14) (s : State), s.running e.val = true → s.groupAt e.val = 1 →
    exec (.move e .clean (.load d a .clean)) s = .next ((s.inc (.loop .LE_PC) e.val).set (.loop .LE_G)
      (s.readN (dataAddr e.val a.toNat) 4) e.val d.val)) ∧
  (∀ (e : EngIx) (r : RegIx) (a : BitVec 14) (s : State), s.running e.val = true → s.groupAt e.val = 1 →
    ∃ t, exec (.move e .clean (.store a r)) s = .next t ∧ t.readN (dataAddr e.val a.toNat) 4 = s.g e.val r % 2 ^ 32 ∧
      (∀ b, (b < dataAddr e.val a.toNat ∨ dataAddr e.val a.toNat + 4 ≤ b) → t.byte b = s.byte b) ∧
      s.SameBut [.loop .LE_PC] t ∧ s.SameQueue t) ∧
  (∀ (e : EngIx) (d a b : RegIx) (s : State), s.running e.val = true → s.groupAt e.val = 2 → satS 32 (s.gs e.val a + s.gs e.val b) = s.gs e.val a + s.gs e.val b →
    exec (.arith e .clean .add d a b) s = .next ((s.inc (.loop .LE_PC) e.val).sset (.loop .LE_G) (s.gs e.val a + s.gs e.val b) e.val d.val)) ∧
  (∀ (e : EngIx) (d a b : RegIx) (s : State), s.running e.val = true → s.groupAt e.val = 2 → s.g e.val b < 32 →
    exec (.arith e .clean .shl d a b) s = .next ((s.inc (.loop .LE_PC) e.val).set (.loop .LE_G)
      (s.g e.val a * 2 ^ s.g e.val b % 2 ^ 32) e.val d.val)) ∧
  (∀ (e : EngIx) (o : ArithOp) (d a b : RegIx) (s : State), s.running e.val = true → s.groupAt e.val = 2 →
    ∃ t, exec (.arith e .clean o d a b) s = .next t ∧ t.get (.loop .LE_PC) e.val = (s.get (.loop .LE_PC) e.val + 1) % 4096 ∧
      (∀ r, r ≠ d.val → t.get (.loop .LE_G) e.val r = s.get (.loop .LE_G) e.val r) ∧ s.SameBut [.loop .LE_PC, .loop .LE_G] t ∧
      s.SameMem t ∧ s.SameQueue t) ∧
  (∀ (e : EngIx) (d : Fin 2) (a b : RegIx) (v : Int) (s : State), s.running e.val = true → s.groupAt e.val = 3 →
    v = s.sget (.loop .LE_A) e.val d.val + toSigned 16 (s.g e.val a % 65536) * toSigned 16 (s.g e.val b % 65536) → satS 48 v = v →
    exec (.mac e .clean .q15 true d a b) s = .next ((s.inc (.loop .LE_PC) e.val).sset (.loop .LE_A) v e.val d.val)) ∧
  (∀ (e : EngIx) (o : TrigOp) (d a b : RegIx) (s : State), s.running e.val = true → s.groupAt e.val = 4 →
    ∃ t, exec (.trig e .clean o d a b) s = .next t ∧ t.get (.loop .LE_PC) e.val = (s.get (.loop .LE_PC) e.val + 1) % 4096 ∧
      (∀ r, r ≠ d.val → t.get (.loop .LE_G) e.val r = s.get (.loop .LE_G) e.val r) ∧ s.SameBut [.loop .LE_PC, .loop .LE_G] t ∧
      s.SameMem t ∧ s.SameQueue t) ∧
  (∀ (e : EngIx) (o : XformOp) (d0 d1 a b c : RegIx) (s : State), s.running e.val = true → s.groupAt e.val = 5 →
    ∃ t, exec (.xform e .clean o d0 d1 a b c) s = .next t ∧ t.get (.loop .LE_PC) e.val = (s.get (.loop .LE_PC) e.val + 1) % 4096 ∧
      (∀ r, r ≠ d0.val → r ≠ d1.val → t.get (.loop .LE_G) e.val r = s.get (.loop .LE_G) e.val r) ∧
      s.SameBut [.loop .LE_PC, .loop .LE_G] t ∧ s.SameMem t ∧ s.SameQueue t) ∧
  (∀ (e : EngIx) (d : RegIx) (p : Fin 32) (s : State), s.running e.val = true → s.groupAt e.val = 6 →
    exec (.port e .clean (.read d p)) s = .next ((s.inc (.loop .LE_PC) e.val).set (.loop .LE_G) (s.get (.loop .LE_IP) e.val p.val)
      e.val d.val)) ∧
  (∀ (e : EngIx) (r : RegIx) (p : Fin 32) (s : State), s.running e.val = true → s.groupAt e.val = 6 →
    exec (.port e .clean (.stage p r)) s = .next (((s.inc (.loop .LE_PC) e.val).set (.loop .LE_OPS) (s.g e.val r) e.val p.val).setBit
      (.loop .LE_OPW) p.val e.val)) ∧
  (∀ (e : EngIx) (d : RegIx) (p : Fin 32) (s : State), s.running e.val = true → s.groupAt e.val = 6 →
    exec (.port e .clean (.test d p)) s = .next ((s.inc (.loop .LE_PC) e.val).set (.loop .LE_G) (s.fresh? e.val p.val).toNat
      e.val d.val))

/-- The control-law instructions (R132, R134, R135, R147, R160): SLEW stages one limited step towards the target; GAIN records error and
gain; a PI step stages U clamped to its limits; MODEL shows prediction and filtered residual; a capture counts its record. Next states of
their own effect: SLEW, GAIN, LAW, MODEL, TRACE. Where a clause touches them it follows the model's choices of log entries 12, 25, 27, 76.
-/
def Obligations.EngineLaws : Prop :=
  (∀ (e : EngIx) (k : SlotIx) (s : State), s.running e.val = true → s.groupAt e.val = 8 → s.bit (.loop .LE_BEG) k.val e.val = true →
    exec (.slew e .clean k) s = .next ((((s.inc (.loop .LE_PC) e.val).sset (.loop .S_SP) (slewTo (s.sget (.loop .S_SP) e.val k.val)
      (s.target e.val k.val) (s.wget .LS_SLEW_RISE e.val k.val) (s.wget .LS_SLEW_FALL e.val k.val)) e.val k.val).sset (.loop .S_TGT)
      (s.target e.val k.val) e.val k.val).setBit (.loop .S_HAS) 0 e.val k.val)) ∧
  (∀ (e : EngIx) (k : SlotIx) (err : Int) (s : State), s.running e.val = true → s.groupAt e.val = 9 → s.bit (.loop .LE_BEG) k.val e.val = true →
    err = satS 16 (s.seenSp e.val k.val - s.seenFb e.val k.val) →
    exec (.gain e .clean k) s = .next (((s.inc (.loop .LE_PC) e.val).sset (.loop .LS_GAIN) (s.gainOf e.val k.val err) e.val k.val).sset
      (.loop .LS_E) err e.val k.val)) ∧
  (∀ (e : EngIx) (k : SlotIx) (s : State), s.running e.val = true → s.groupAt e.val = 10 → s.bit (.loop .LE_BEG) k.val e.val = true → s.wget .LS_CFG_LAW e.val k.val = 0 →
    exec (.law e .clean k .clean) s = .next (s.inc (.loop .LE_PC) e.val)) ∧
  (∀ (e : EngIx) (k : SlotIx) (err p : Int) (s : State), s.running e.val = true → s.groupAt e.val = 10 → s.bit (.loop .LE_BEG) k.val e.val = true → s.wget .LS_CFG_LAW e.val k.val = 1 →
    s.get (.loop .PM_SEED) e.val k.val = 0 → s.get (.loop .LS_PM_STAT_HOLDING) e.val k.val = 0 → s.get (.loop .INJ_STAT_ACTIVE) e.val = 0 →
    err = satS 16 (s.seenSp e.val k.val - s.seenFb e.val k.val) →
    p = satS 16 (roundDiv (s.wsget .LS_KP e.val k.val * s.gainOf e.val k.val err * err) (2 ^ 37)) →
    ∃ t, exec (.law e .clean k .clean) s = .next t ∧ t.get (.loop .S_U) e.val k.val = ofSigned 16 (clampI (s.wsget .LS_LIMIT_OMIN e.val k.val)
        (s.wsget .LS_LIMIT_OMAX e.val k.val) (satS 16 (p + roundDiv (s.sget (.loop .S_INTEG) e.val k.val) 32768))) ∧
      t.bit (.loop .S_HAS) 1 e.val k.val = true ∧
      s.SameBut [.loop .LE_PC, .loop .S_INTEG, .loop .S_DF, .loop .S_EP, .loop .S_U, .loop .S_IPRE, .loop .S_UU, .loop .S_PD, .loop .S_SAT,
        .loop .LS_E, .loop .LS_GAIN, .loop .S_HAS] t ∧ s.SameMem t ∧ s.SameQueue t) ∧
  (∀ (e : EngIx) (k : Nat) (yhat : Int) (s : State), s.running e.val = true → s.groupAt e.val = 11 → s.get (.loop .LE_SLOT) e.val = k →
    s.get (.loop .PM_DID) e.val k = 0 → s.get (.loop .PM_SEED) e.val k = 0 → s.wget .LS_PM_CFG_FORM e.val k ∈ [1, 2, 3, 4] →
    s.prediction e.val k = some yhat →
    ∃ t, exec (.model e .clean) s = .next t ∧ t.get (.loop .LS_PM_RES_PRED) e.val k = ofSigned 16 yhat ∧
      t.get (.loop .LS_PM_RES_RES_F) e.val k = ofSigned 16 (s.sget (.loop .LS_PM_RES_RES_F) e.val k +
        (satS 16 (s.port e.val (s.wget .LS_PM_CFG_MEAS_PORT e.val k) - yhat) - s.sget (.loop .LS_PM_RES_RES_F) e.val k) /
          (2 ^ s.wget .LS_PM_CFG_RSHIFT e.val k : Nat)) ∧ t.get (.loop .PM_DID) e.val k = 1 ∧
      s.SameBut [.loop .LE_PC, .loop .PM_DID, .loop .PM_Y, .loop .LS_PM_RES_RES_F, .loop .LS_PM_RES_PRED, .loop .LS_PM_STAT_RUN,
        .loop .PM_OUT, .loop .PM_EV] t ∧ s.SameMem t ∧ s.SameQueue t) ∧
  (∀ (e : EngIx) (s : State), s.running e.val = true → s.groupAt e.val = 12 → exec (.trace e .clean .inject) s = .next (s.inc (.loop .LE_PC) e.val)) ∧
  (∀ (e : EngIx) (s : State), s.running e.val = true → s.groupAt e.val = 12 → s.get (.loop .TRC_CEND) e.val = 0 → s.get (.loop .TRC_CTRL_MODE) e.val = 0 →
    exec (.trace e .clean .capture) s = .next (s.inc (.loop .LE_PC) e.val)) ∧
  (∀ (e : EngIx) (s : State), s.running e.val = true → s.groupAt e.val = 12 → s.get (.loop .TRC_CEND) e.val = 0 → s.get (.loop .TRC_CTRL_MODE) e.val = 1 →
    s.get (.loop .TRC_STAT_ARMED) e.val = 0 → s.get (.loop .TRC_STAT_TRIGGERED) e.val = 0 → s.get (.loop .TRC_NTRIG) e.val = 0 → 1 ≤ s.get (.loop .TRC_CNT) e.val →
    s.get (.loop .TRC_CNT) e.val + 1 < s.trcCap e.val → s.get (.loop .TRC_STAT_WPTR) e.val + s.trcRec e.val / 4 < 8192 →
    ∃ t, exec (.trace e .clean .capture) s = .next t ∧ t.get (.loop .TRC_CNT) e.val = s.get (.loop .TRC_CNT) e.val + 1 ∧
      t.get (.loop .TRC_STAT_WPTR) e.val = s.get (.loop .TRC_STAT_WPTR) e.val + s.trcRec e.val / 4 ∧
      s.SameBut [.loop .LE_PC, .loop .TRC_CNT, .loop .TRC_STAT_WPTR, .loop .TRC_LAST, .loop .TRC_HAS] t ∧ s.SameQueue t)

/-- What the plausibility check of a slot leads to (R152 to R156): a violation sets VIOL and reacts as REACT says, by nothing more, by a
report, by holding U, or by the engine's escalation source; HOLDING and the priming window end as the counts say. Next states of their own
effect: PLAUSIBILITY_VIOLATION, HOLD_RELEASE, PRIMING_END. -/
def Obligations.Plausibility : Prop :=
  (∀ (e : EngIx) (k : SlotIx) (s : State), s.bit (.loop .PM_EV) 0 e.val k.val = true → s.wget .LS_PM_CFG_REACT e.val k.val = 0 →
    exec (.plausibilityViolation e k) s = .next (((s.clrBit (.loop .PM_EV) 0 e.val k.val).set (.loop .LS_PM_STAT_VIOL) 1 e.val k.val).set
      (.loop .PM_VNOW) 1 e.val k.val)) ∧
  (∀ (e : EngIx) (k : SlotIx) (s : State), s.bit (.loop .PM_EV) 0 e.val k.val = true → s.wget .LS_PM_CFG_REACT e.val k.val = 1 →
    ∃ t, exec (.plausibilityViolation e k) s = .next t ∧ t.get (.loop .LS_PM_STAT_VIOL) e.val k.val = 1 ∧ t.sent.drop 1 = s.sent ∧
      t.sent.head?.map (fun m => (m.kind, m.a)) = some (MsgKind.report, bits (s.get (.loop .PM_RPT)) (2 * e.val) 2) ∧
      s.SameBut [.loop .PM_EV, .loop .LS_PM_STAT_VIOL, .loop .PM_VNOW] t ∧ s.SameMem t ∧ s.SameQueue t) ∧
  (∀ (e : EngIx) (k : SlotIx) (s : State), s.bit (.loop .PM_EV) 0 e.val k.val = true → s.wget .LS_PM_CFG_REACT e.val k.val = 2 →
    s.bit (.loop .S_HAS) 1 e.val k.val = true →
    ∃ t, exec (.plausibilityViolation e k) s = .next t ∧ t.get (.loop .LS_PM_STAT_HOLDING) e.val k.val = 1 ∧
      t.get (.loop .LS_PM_STAT_RUN) e.val k.val = 0 ∧ t.get (.loop .S_U) e.val k.val = s.get (.loop .PM_HU) e.val k.val % 65536 ∧
      s.SameMem t ∧ s.SameQueue t) ∧
  (∀ (e : EngIx) (k : SlotIx) (s : State), s.bit (.loop .PM_EV) 0 e.val k.val = true → s.wget .LS_PM_CFG_REACT e.val k.val = 3 →
    ∃ t, exec (.plausibilityViolation e k) s = .next t ∧ t.get (.loop .LS_PM_STAT_VIOL) e.val k.val = 1 ∧
      t.srcLatched (48 + e.val) = true ∧ (∀ g < 16, (s.get (.grd .ROUTE) (48 + e.val) ||| s.get (.loop .LE_DEP) e.val).testBit g = true →
        t.Forced g) ∧ s.SameMem t ∧ s.SameQueue t) ∧
  (∀ (e : EngIx) (k : SlotIx) (s : State), s.bit (.loop .PM_EV) 1 e.val k.val = true →
    exec (.holdRelease e k) s = .next (((s.clrBit (.loop .PM_EV) 1 e.val k.val).set (.loop .LS_PM_STAT_HOLDING) 0 e.val k.val).set
      (.loop .LS_PM_STAT_RUN) 0 e.val k.val)) ∧
  (∀ (e : EngIx) (k : SlotIx) (s : State), s.bit (.loop .PM_EV) 2 e.val k.val = true →
    exec (.primingEnd e k) s = .next ((s.clrBit (.loop .PM_EV) 2 e.val k.val).set (.loop .LS_PM_STAT_LOOP_UNPRIMED) 0 e.val k.val))

/-- The sample trace (R163 to R167): a one-shot trace is DONE after its last post record; configuration waits until the trace is off; ARM
empties the trace and arms it, with TSRC 0 triggering it too; FORCE triggers an armed trace with TSRC 7; a copied block is free again.
Next states of their own effect: TRACE_DONE, TRC_CTRL_WRITE, TRC_SIG_WRITE, ARM, TRACE_FORCE, TRACE_THROTTLE_WRITE, STREAM_COPY_COMPLETE.
Where a clause touches them it follows the model's choices of log entries 15, 29, 77. -/
def Obligations.TraceControl : Prop :=
  (∀ (e : EngIx) (s : State), s.get (.loop .TRC_CTRL_MODE) e.val = 2 → s.get (.loop .TRC_STAT_TRIGGERED) e.val = 1 → s.get (.loop .TRC_NTRIG) e.val = 0 → s.get (.loop .TRC_LEFT) e.val = 0 →
    exec (.traceDone e) s = .next (s.set (.loop .TRC_STAT_DONE) 1 e.val)) ∧
  (∀ (w : Who) (e : EngIx) (v : Word) (s : State), s.reaches w (leBase e.val + 0xD00) v.toNat → v.toNat % 4 ≠ 0 → s.get (.loop .TRC_CTRL_MODE) e.val = 0 →
    exec (.trcCtrlWrite w e v) s = .next ((((((trcFresh e.val s).set (.loop .TRC_CTRL_MODE) (v.toNat % 4) e.val).set (.loop .TRC_CTRL_TSLOT)
      (bits v.toNat 2 3) e.val).set (.loop .TRC_CTRL_NSIGM1) (bits v.toNat 8 4) e.val).set
      (.loop .TRC_CTRL_DEC) (bits v.toNat 16 16) e.val).answer .ok)) ∧
  (∀ (w : Who) (e : EngIx) (v : Word) (s : State), s.reaches w (leBase e.val + 0xD00) v.toNat → v.toNat % 4 ≠ 0 →
    s.get (.loop .TRC_CTRL_MODE) e.val ≠ 0 →
    exec (.trcCtrlWrite w e v) s = .next ((s.set (.loop .LE_STAT_CFG_BUSY) 1 e.val).answer .ok)) ∧
  (∀ (w : Who) (e : EngIx) (i : Fin 16) (v : Word) (s : State), s.reaches w (leBase e.val + 0xD40 + 4 * i.val) v.toNat →
    exec (.trcSigWrite w e i v) s = .next ((if s.get (.loop .TRC_CTRL_MODE) e.val = 0 then
      storeWord w (leBase e.val + 0xD40 + 4 * i.val) v.toNat s else s.set (.loop .LE_STAT_CFG_BUSY) 1 e.val).answer .ok)) ∧
  (∀ (w : Who) (e : EngIx) (v : Word) (s : State), s.reaches w (leBase e.val + 0xD08) (v.toNat ||| 0x10000) →
    v.toNat.testBit 17 = false →
    ∃ t, exec (.arm w e v) s = .next t ∧ t.resp = .ok ∧
      t.get (.loop .TRC_STAT_ARMED) e.val = (if s.get (.loop .TRC_TRIG_TSRC) e.val = 0 then 0 else 1) ∧
      t.get (.loop .TRC_STAT_TRIGGERED) e.val = (if s.get (.loop .TRC_TRIG_TSRC) e.val = 0 then 1 else 0) ∧
      t.get (.loop .TRC_STAT_DONE) e.val = 0 ∧ t.get (.loop .TRC_STAT_WPTR) e.val = 0 ∧
      t.get (.loop .TRC_POST_POST) e.val = v.toNat % 65536 ∧
      t.get (.loop .TRC_NTRIG) e.val = (if s.get (.loop .TRC_TRIG_TSRC) e.val = 0 then 1 else 0) ∧
      (∀ a, (a < trcAddr e.val 0 ∨ trcAddr e.val 0 + 32768 ≤ a) → t.byte a = s.byte a) ∧ s.SameQueue t) ∧
  (∀ (w : Who) (e : EngIx) (post : Half) (s : State), s.reaches w (leBase e.val + 0xD08) (0x20000 + post.toNat) →
    s.get (.loop .TRC_STAT_ARMED) e.val = 1 → s.get (.loop .TRC_TRIG_TSRC) e.val = 7 →
    exec (.traceForce w e post) s = .next (((((s.set (.loop .TRC_POST_POST) post.toNat e.val).set (.loop .TRC_STAT_ARMED) 0 e.val).set
      (.loop .TRC_STAT_TRIGGERED) 1 e.val).set (.loop .TRC_NTRIG) 1 e.val).answer .ok)) ∧
  (∀ (w : Who) (v : Word) (s : State), s.reaches w 0x1031000080 v.toNat →
    exec (.traceThrottleWrite w v) s = .next ((storeWord w 0x1031000080 v.toNat s).answer .ok)) ∧
  (∀ (e : EngIx) (s : State), s.get (.loop .STRM_E) = e.val + 1 → s.get (.mem .MQ_KIND) 14 = 0 →
    s.get (.mem .PORT_STAT_INFLIGHT) 14 = 0 → s.get (.loop .STRM_SHUT) = 1 →
    ∃ t, exec (.streamCopyComplete e) s = .next t ∧ t.bit (.loop .TRC_FULL) (s.get (.loop .STRM_B)) e.val = false ∧
      t.get (.loop .TRC_STAT_STREAM_CLOSED) e.val = 1 ∧ t.get (.loop .STRM_E) = 0 ∧
      s.SameBut [.loop .TRC_FULL, .loop .TRC_STAT_STREAMING, .loop .TRC_STAT_STREAM_CLOSED, .loop .STRM_SHUT, .loop .STRM_E] t ∧
      s.SameMem t ∧ s.SameQueue t) ∧
  (∀ (e : EngIx) (s : State), s.get (.loop .STRM_E) = e.val + 1 → s.get (.mem .MQ_KIND) 14 = 0 →
    s.get (.mem .PORT_STAT_INFLIGHT) 14 = 0 → s.get (.loop .STRM_SHUT) = 0 → 17 ≤ s.get (.loop .STRM_P) →
    ∃ t, exec (.streamCopyComplete e) s = .next t ∧ t.bit (.loop .TRC_FULL) (s.get (.loop .STRM_B)) e.val = false ∧
      t.get (.loop .STRM_E) = 0 ∧ s.SameBut [.loop .TRC_FULL, .loop .TRC_STAT_STREAMING, .loop .STRM_SHUT, .loop .STRM_E] t ∧
      s.SameMem t ∧ s.SameQueue t)

/-- Test-signal injection (R168, R171, R173, R174): a start without the safety island's permit is refused; one with it takes the amplitude
up to the limit; STOP ends it with cause 3; it is DONE after NSAMP samples; a withdrawn permit ends it at the slot's next sample. Next
states of their own effect: INJECTION_START, INJECTION_STOP, INJECTION_DONE, PERMIT_CLEAR. Where a clause touches them it follows the
model's choices of log entry 15. -/
def Obligations.Injection : Prop :=
  (∀ (w : Who) (e : EngIx) (v : Word) (s : State), s.reaches w (leBase e.val + 0xE00) (v.toNat ||| 1) →
    s.bit (.loop .INJ_PERMIT) e.val = false →
    ∃ t, exec (.injectionStart w e v) s = .next t ∧ t.resp = .ok ∧ t.get (.loop .INJ_STAT_REFUSED) e.val = 1 ∧
      s.SameBut [.loop .INJ_CTRL_SLOT, .loop .INJ_CTRL_POINT, .loop .INJ_CTRL_SIG, .loop .INJ_CTRL_AMP, .loop .INJ_STAT_REFUSED] t ∧
      s.SameMem t ∧ s.SameQueue t) ∧
  (∀ (w : Who) (e : EngIx) (v : Word) (s : State), s.reaches w (leBase e.val + 0xE00) (v.toNat ||| 1) →
    (injFields e.val v.toNat s).injRefused e.val = false →
    ∃ t, exec (.injectionStart w e v) s = .next t ∧ t.resp = .ok ∧ t.get (.loop .INJ_PEND) e.val = 1 ∧
      t.get (.loop .INJ_A) e.val = min (bits v.toNat 16 16) (s.get (.loop .INJ_LIM) e.val) ∧
      t.get (.loop .INJ_STAT_LIMITED) e.val = (if s.get (.loop .INJ_LIM) e.val < bits v.toNat 16 16 then 1
        else s.get (.loop .INJ_STAT_LIMITED) e.val) ∧
      s.SameBut [.loop .INJ_CTRL_SLOT, .loop .INJ_CTRL_POINT, .loop .INJ_CTRL_SIG, .loop .INJ_CTRL_AMP, .loop .INJ_PEND, .loop .INJ_A,
        .loop .INJ_STAT_LIMITED] t ∧ s.SameMem t ∧ s.SameQueue t) ∧
  (∀ (w : Who) (e : EngIx) (v : Word) (s : State), s.reaches w (leBase e.val + 0xE00) (v.toNat ||| 2) →
    s.get (.loop .INJ_STAT_ACTIVE) e.val = 1 →
    ∃ t, exec (.injectionStop w e v) s = .next t ∧ t.resp = .ok ∧ t.get (.loop .INJ_STAT_ACTIVE) e.val = 0 ∧
      t.get (.loop .INJ_STAT_ABORT) e.val = 1 ∧ t.get (.loop .INJ_STAT_ABORT_CAUSE) e.val = 3 ∧ s.SameMem t ∧ s.SameQueue t) ∧
  (∀ (e : EngIx) (s : State), s.get (.loop .INJ_STAT_ACTIVE) e.val = 1 → s.get (.loop .INJ_LEN) e.val ≤ s.get (.loop .INJ_K) e.val + 1 →
    s.get (.loop .LE_RUN) e.val = 0 →
    exec (.injectionDone e) s = .next (((((s.set (.loop .INJ_STAT_ACTIVE) 0 e.val).set (.loop .INJ_STAT_DONE) 1 e.val).set (.loop .INJ_END) 0
      e.val).set (.loop .INJ_IN) 0 e.val).set (.loop .LS_PM_STAT_SUSPENDED) 0 e.val (s.get (.loop .INJ_CSLOT) e.val))) ∧
  (∀ (e : EngIx) (s : State), s.get (.loop .INJ_STAT_ACTIVE) e.val = 1 →
    exec (.permitClear e) s = .next ((s.clrBit (.loop .INJ_PERMIT) e.val).set (.loop .INJ_END) 1 e.val))

/-- EN written 0 stops a domain only if no leg of an enabled group is bound to it; otherwise the write is refused with DIS_REFUSED and the
domain runs on (R185). Next states of their own effect: DOMAIN_STOP. -/
def Obligations.DomainStop : Prop :=
  (∀ (w : Who) (d : DomIx) (dbl strict : Bool) (s : State), s.reaches w (domAddr d.val) (2 * dbl.toNat + 4 * strict.toNat) →
    s.get (.edge .DOM_CTRL_EN) d.val = 1 → s.domBusy d.val = true →
    exec (.domainStop w d dbl strict) s = .next ((s.set (.edge .DOM_STAT_DIS_REFUSED) 1 d.val).answer .ok)) ∧
  (∀ (w : Who) (d : DomIx) (dbl strict : Bool) (s : State), s.reaches w (domAddr d.val) (2 * dbl.toNat + 4 * strict.toNat) →
    s.get (.edge .DOM_CTRL_EN) d.val = 1 → s.domBusy d.val = false →
    exec (.domainStop w d dbl strict) s = .next ((((((s.set (.edge .DOM_CTRL_DBL) dbl.toNat d.val).set (.edge .DOM_CTRL_STRICT)
      strict.toNat d.val).set (.edge .DOM_CTRL_EN) 0 d.val).set (.edge .DOM_STAT_RUNNING) 0 d.val).clrBit
      (.edge .STAT_RUNNING) d.val).answer .ok)) ∧
  (∀ (w : Who) (d : DomIx) (dbl strict : Bool) (s : State), s.reaches w (domAddr d.val) (2 * dbl.toNat + 4 * strict.toNat) →
    s.get (.edge .DOM_CTRL_EN) d.val = 0 →
    exec (.domainStop w d dbl strict) s = .next (((s.set (.edge .DOM_CTRL_DBL) dbl.toNat d.val).set (.edge .DOM_CTRL_STRICT)
      strict.toNat d.val).answer .ok))

/-- Starting reload domains, load-all requests and spread spectrum (R182, R196, R200): named domains start together, a running one ignores
it; a load-all request is pending for each domain it names; spread spectrum starts at its first step from the nominal period, and a clear
of EN leaves the rest. Next states of their own effect: DOMAIN_START, SYNC_START, LOAD_ALL_REQUEST, SS_ENABLE. Where a clause touches them
it follows the model's choices of log entries 15, 33, 81. -/
def Obligations.DomainControl : Prop :=
  (∀ (w : Who) (m : BitVec 8) (s : State), s.reaches w (edgeBase + 0x0C) (m.toNat * 256) →
    ∃ t, exec (.domainStart w m) s = .next t ∧ t.resp = .ok ∧
      (∀ d < 8, m.toNat.testBit d = true → t.flag (.edge .DOM_STAT_RUNNING) d = true ∧ (s.get (.edge .DOM_STAT_RUNNING) d = 0 →
        t.get (.edge .DOM_STAT_BCNT) d = 0 ∧ t.get (.edge .DOM_NEXT) d = (s.now / 8 + 4) * 8 % 2 ^ 64)) ∧
      (∀ d < 8, m.toNat.testBit d = false → t.get (.edge .DOM_STAT_RUNNING) d = s.get (.edge .DOM_STAT_RUNNING) d) ∧
      s.SameBut [.edge .DOM_CTRL_EN, .edge .DOM_STAT_RUNNING, .edge .STAT_RUNNING, .edge .DOM_STAT_BCNT, .edge .DOM_BASE, .edge .DOM_NEXT,
        .edge .DOM_SAMPLED, .edge .DOM_HDONE, .edge .DOM_EVD, .edge .TP_C_RATE, .edge .TP_C_SET, .edge .TP_C_CORR, .edge .TP_C_CORR_NEW,
        .edge .TP_CORR_NEW, .edge .DOM_CAP, .edge .DOM_PER_WN, .edge .DOM_C_PERIOD, .edge .DOM_C_TRGA, .edge .DOM_C_TRGB, .edge .LEG_C_DUTY,
        .edge .LEG_C_PHASE, .edge .LEG_C_DT, .edge .LEG_C_MINP, .edge .LEG_C_TRIM, .edge .LEG_DUTY_WN, .edge .DOM_STAT_STRICT_REFUSED,
        .edge .DOM_STAT_LDALL_PENDING, .edge .DOM_STAT_DEFERRED] t ∧ s.SameMem t ∧ s.SameQueue t) ∧
  (∀ (w : Who) (start ldall : BitVec 8) (s : State), s.reaches w (edgeBase + 0x0C) (start.toNat * 256 + ldall.toNat) →
    ∃ t, exec (.syncStart w start ldall) s = .next t ∧ t.resp = .ok ∧
      (∀ d < 8, start.toNat.testBit d = true → t.flag (.edge .DOM_STAT_RUNNING) d = true) ∧
      (∀ d < 8, ldall.toNat.testBit d = true → t.flag (.edge .DOM_STAT_LDALL_PENDING) d = true) ∧ s.SameMem t ∧ s.SameQueue t) ∧
  (∀ (m : BitVec 8) (s : State),
    ∃ t, exec (.loadAllRequest none m) s = .next t ∧
      (∀ d < 8, m.toNat.testBit d = true → t.flag (.edge .DOM_STAT_LDALL_PENDING) d = true ∧
        (s.get (.edge .DOM_STAT_LDALL_PENDING) d = 0 → t.flag (.edge .DOM_STAT_DEFERRED) d = s.flag (.edge .DOM_SAMPLED) d)) ∧
      s.SameBut [.edge .DOM_STAT_LDALL_PENDING, .edge .DOM_STAT_DEFERRED] t ∧ s.SameMem t ∧ s.SameQueue t) ∧
  (∀ (w : Who) (d : DomIx) (s : State), s.reaches w (domAddr d.val + 0x14) 1 →
    ∃ t, exec (.ssEnable w d true) s = .next t ∧ t.resp = .ok ∧ t.get (.edge .DOM_SS_EN) d.val = 1 ∧ t.get (.edge .DOM_SS_STEP) d.val = 0 ∧
      t.get (.edge .DOM_PERIOD) d.val = s.get (.edge .DOM_SSNOM) d.val % 2 ^ 27 ∧ t.get (.edge .DOM_STAT_PER_W) d.val = 1 ∧
      (s.get (.edge .DOM_CAP) d.val = 1 → t.get (.edge .DOM_PER_WN) d.val = 1) ∧
      s.SameBut [.edge .DOM_SS_EN, .edge .DOM_SS_STEP, .edge .DOM_PERIOD, .edge .DOM_STAT_PER_W, .edge .DOM_PER_WN] t ∧
      s.SameMem t ∧ s.SameQueue t) ∧
  (∀ (w : Who) (d : DomIx) (s : State), s.reaches w (domAddr d.val + 0x14) 0 →
    exec (.ssEnable w d false) s = .next ((s.set (.edge .DOM_SS_EN) 0 d.val).answer .ok))

/-- Sample instants and boundaries of a domain (R181, R183, R195 to R199): an accepted load-all captures the shadows at the sample
instant, refused where strict mode finds a write missing; the boundary applies all of them together, a duty above the period as the
period, and is counted unless it is boundary 0; a half boundary applies them and counts nothing; the trigger events of a running domain
are sent. Next states of their own effect: SAMPLE_INSTANT, RELOAD_BOUNDARY, HALF_BOUNDARY, DOMAIN_TRIGGER_EVENT. Where a clause touches
them it follows the model's choices of log entry 68. -/
def Obligations.DomainBoundaries : Prop :=
  (∀ (d : DomIx) (s : State), s.domRuns d.val = true → s.halfDue d.val = false → s.now = sampleOf (s.get (.edge .DOM_NEXT) d.val) →
    s.get (.edge .DOM_STAT_LDALL_PENDING) d.val = 1 →
    s.get (.edge .DOM_SAMPLED) d.val = 0 → s.get (.edge .DOM_CTRL_STRICT) d.val = 0 →
    ∃ t, exec (.sampleInstant d false) s = .next t ∧ t.get (.edge .DOM_SAMPLED) d.val = 1 ∧ t.get (.edge .DOM_CAP) d.val = 1 ∧
      t.get (.edge .DOM_C_PERIOD) d.val = s.get (.edge .DOM_PERIOD) d.val % 2 ^ 27 ∧
      (∀ n < 41, s.get (.edge .LEG_CFG_DOMAIN) n = d.val → t.get (.edge .LEG_C_DUTY) n = s.get (.edge .LEG_DUTY) n % 2 ^ 27) ∧
      s.SameMem t ∧ s.SameQueue t) ∧
  (∀ (d : DomIx) (s : State), s.domRuns d.val = true → s.halfDue d.val = true → s.now = sampleOf (s.halfAt d.val) →
    s.get (.edge .DOM_STAT_LDALL_PENDING) d.val = 1 →
    s.get (.edge .DOM_SAMPLED) d.val = 0 → s.get (.edge .DOM_CTRL_STRICT) d.val = 0 →
    ∃ t, exec (.sampleInstant d true) s = .next t ∧ t.get (.edge .DOM_SAMPLED) d.val = 1 ∧ t.get (.edge .DOM_CAP) d.val = 1 ∧
      t.get (.edge .DOM_C_PERIOD) d.val = s.get (.edge .DOM_PERIOD) d.val % 2 ^ 27 ∧ s.SameMem t ∧ s.SameQueue t) ∧
  (∀ (d : DomIx) (s : State), s.domRuns d.val = true → s.halfDue d.val = false → s.now = sampleOf (s.get (.edge .DOM_NEXT) d.val) →
    s.get (.edge .DOM_STAT_LDALL_PENDING) d.val = 1 →
    s.get (.edge .DOM_SAMPLED) d.val = 0 → s.get (.edge .DOM_CTRL_STRICT) d.val = 1 → s.strictOk d.val = false →
    ∃ t, exec (.sampleInstant d false) s = .next t ∧ t.get (.edge .DOM_STAT_STRICT_REFUSED) d.val = 1 ∧
      t.get (.edge .DOM_STAT_LDALL_PENDING) d.val = 0 ∧ t.get (.edge .DOM_CAP) d.val = s.get (.edge .DOM_CAP) d.val ∧
      s.SameMem t ∧ s.SameQueue t) ∧
  (∀ (d : DomIx) (s : State), s.domRuns d.val = true → s.now = s.get (.edge .DOM_NEXT) d.val → s.get (.edge .DOM_CAP) d.val = 1 →
    ∃ t, exec (.reloadBoundary d) s = .next t ∧
      t.get (.edge .DOM_STAT_BCNT) d.val = (if s.get (.edge .DOM_NEXT) d.val = s.get (.edge .DOM_BASE) d.val then
        s.get (.edge .DOM_STAT_BCNT) d.val else (s.get (.edge .DOM_STAT_BCNT) d.val + 1) % 65536) ∧
      t.get (.edge .DOM_CAP) d.val = 0 ∧ t.get (.edge .DOM_STAT_DEFERRED) d.val = 0 ∧ t.get (.edge .DOM_STAT_LDALL_PENDING) d.val = 0 ∧
      t.get (.edge .DOM_SAMPLED) d.val = 0 ∧ t.get (.edge .DOM_BASE) d.val = s.now % 2 ^ 64 ∧
      t.get (.edge .DOM_NEXT) d.val = (s.now + max 80 (s.get (.edge .DOM_C_PERIOD) d.val % 2 ^ 27)) % 2 ^ 64 ∧
      t.get (.edge .DOM_A_PERIOD) d.val = s.get (.edge .DOM_C_PERIOD) d.val % 2 ^ 27 ∧
      (∀ n < 41, s.get (.edge .LEG_CFG_DOMAIN) n = d.val → t.get (.edge .LEG_A_DUTY) n =
        min (max 80 (s.get (.edge .DOM_C_PERIOD) d.val % 2 ^ 27)) (s.get (.edge .LEG_C_DUTY) n) % 2 ^ 27) ∧
      (s.get (.saf .ISL_STAT_STATE) 7 = 0 → t.sent.head? = some ⟨.domainEvent, d.val, 0, 0⟩) ∧ s.SameMem t ∧ s.SameQueue t) ∧
  (∀ (d : DomIx) (s : State), s.domRuns d.val = false → exec (.reloadBoundary d) s = .next s) ∧
  (∀ (d : DomIx) (s : State), s.domRuns d.val = true → s.halfDue d.val = true → s.now = s.halfAt d.val → s.get (.edge .DOM_CAP) d.val = 1 →
    ∃ t, exec (.halfBoundary d) s = .next t ∧ t.get (.edge .DOM_A_PERIOD) d.val = s.get (.edge .DOM_C_PERIOD) d.val % 2 ^ 27 ∧
      t.get (.edge .DOM_CAP) d.val = 0 ∧ t.get (.edge .DOM_STAT_BCNT) d.val = s.get (.edge .DOM_STAT_BCNT) d.val ∧ s.SameMem t ∧
      s.SameQueue t) ∧
  (∀ (d : DomIx) (e : Fin 3) (s : State), s.domRuns d.val = true → s.get (.saf .ISL_STAT_STATE) 7 = 0 →
    s.bit (.edge .DOM_EVD) e.val d.val = false → s.now = s.eventAt d.val (e.val + 1) → s.get (.saf .ISL_STAT_STATE) 9 ≠ 0 →
    exec (.domainTriggerEvent d e) s = .next ((s.setBit (.edge .DOM_EVD) e.val d.val).send .domainEvent d.val (e.val + 1)))

/-- Enabling and disabling an output group (R188, R225, R322, R355, R363, R401, R404, R435): the first failing check refuses an enable
with its cause; one that passes them all is enabled; the drive firmware withholds an enable whose conditions are not met; a disable
touches no other group and no latch. Next states of their own effect: GROUP_ENABLE, GROUP_DISABLE. Where a clause touches them it follows
the model's choices of log entries 15, 33, 34, 35, 36, 85. -/
def Obligations.GroupEnableDisable : Prop :=
  (∀ (w : Who) (g : GroupIx) (p : Pins) (c n : Nat) (s : State), firmwareHolds w g.val s = none → s.bit (.edge .OG_EN) g.val = false →
    s.reaches w (edgeBase + 0x20) (s.get (.edge .OG_EN) ||| 2 ^ g.val) → s.enableCause g.val = some (c, n) →
    exec (.groupEnable w g p) s = .next (((((s.setBit (.edge .OG_REF) g.val).set (.edge .OG_CAUSE_CODE) c).set (.edge .OG_CAUSE_GROUP)
      g.val).set (.edge .OG_CAUSE_LEG) n).answer .ok)) ∧
  (∀ (w : Who) (g : GroupIx) (p : Pins) (s : State), firmwareHolds w g.val s = none → s.bit (.edge .OG_EN) g.val = false →
    s.reaches w (edgeBase + 0x20) (s.get (.edge .OG_EN) ||| 2 ^ g.val) → s.enableCause g.val = none → g.val ∈ [3, 4, 9, 10, 11, 12, 13, 14, 15] →
    exec (.groupEnable w g p) s = .next ((s.setBit (.edge .OG_EN) g.val).answer .ok)) ∧
  (∀ (w : Who) (g : GroupIx) (p : Pins) (s : State), firmwareHolds w g.val s = none → s.bit (.edge .OG_EN) g.val = false →
    s.reaches w (edgeBase + 0x20) (s.get (.edge .OG_EN) ||| 2 ^ g.val) → s.enableCause g.val = none → g.val ∈ [0, 1, 6, 7, 8] →
    ∃ t, exec (.groupEnable w g p) s = .next t ∧ t.resp = .ok ∧ t.bit (.edge .OG_EN) g.val = true ∧
      (∀ h < 16, h ≠ g.val → t.bit (.edge .OG_EN) h = s.bit (.edge .OG_EN) h) ∧ s.SameMem t ∧ s.SameQueue t) ∧
  (∀ (q : PairIx) (g : GroupIx) (p : Pins) (r : Nat) (s : State), s.withheld g.val = some r →
    exec (.groupEnable (.pair q) g p) s = .next (s.send .level5 r g.val)) ∧
  (∀ (w : Who) (g : GroupIx) (s : State), s.bit (.edge .OG_EN) g.val = true →
    s.reaches w (edgeBase + 0x20) (andNot (s.get (.edge .OG_EN)) (2 ^ g.val)) →
    ∃ t, exec (.groupDisable w g) s = .next t ∧ t.resp = .ok ∧ t.bit (.edge .OG_EN) g.val = false ∧
      (∀ h < 16, h ≠ g.val → t.bit (.edge .OG_EN) h = s.bit (.edge .OG_EN) h) ∧
      t.get (.grd .OG_LATCH) = s.get (.grd .OG_LATCH) ∧ (∀ h, t.get (.grd .OG_STAT_COUNT) h = s.get (.grd .OG_STAT_COUNT) h) ∧
      s.SameMem t ∧ s.SameQueue t)

/-- Registers and duty words of a leg (R186, R194, R200, R211, R213): CFG, REFRESH, CMT and SIX are discarded with CFG_BUSY while the
leg's group is enabled; a word of a duty channel sets the duty shadow of each leg the channel names, by the leg's own period, and of no
other; a leg put into CMTMASK takes the present Hall state as its index. Edges of a leg and its interlock (R192, R215 to R217, R222, R245,
R246): OFF takes both channels off; two requests in one edge tick are ignored and counted; after its dead time a channel that is not
blocked nor too short is requested; the 17th event of a period forces the leg off and latches its fault. Next states of their own effect:
LEG_CFG_WRITE, DUTY_CHANNEL_WRITE, CHANNEL_EDGE, DEAD_TIME_EXPIRY, IL_FAULT. Where a clause touches them it follows the model's choices of
log entries 15, 82. -/
def Obligations.Legs : Prop :=
  (∀ (w : Who) (n : LegIx) (k : Fin 4) (g : LegReg) (v : Word) (s : State), (k, g) ∈ [(0, LegReg.cfg), (1, .refresh), (2, .cmt), (3, .six)] →
    s.reaches w (legAddr n.val + g.off) v.toNat → s.legEnabled n.val = true →
    exec (.legCfgWrite w n k v) s = .next ((s.set (.edge .LEG_STAT_CFG_BUSY) 1 n.val).answer .ok)) ∧
  (∀ (w : Who) (n : LegIx) (v : Word) (s : State), s.reaches w (legAddr n.val + LegReg.cmt.off) v.toNat → s.legEnabled n.val = false →
    exec (.legCfgWrite w n 2 v) s = .next ((s.set (.edge .LEG_CMT) (bits v.toNat 0 16) n.val).answer .ok)) ∧
  (∀ (w : Who) (n : LegIx) (v : Word) (s : State), s.reaches w (legAddr n.val + LegReg.six.off) v.toNat → s.legEnabled n.val = false →
    exec (.legCfgWrite w n 3 v) s = .next ((s.set (.edge .LEG_SIX) (bits v.toNat 0 24) n.val).answer .ok)) ∧
  (∀ (w : Who) (n : LegIx) (v : Word) (s : State), s.reaches w (legAddr n.val + LegReg.refresh.off) v.toNat → s.legEnabled n.val = false →
    exec (.legCfgWrite w n 1 v) s = .next ((((s.set (.edge .LEG_REFRESH_PULSE) (bits v.toNat 0 5) n.val).set (.edge .LEG_REFRESH_INTERVAL)
      (bits v.toNat 16 7) n.val).set (.edge .LEG_REFRESH_BOOT_EN) (bits v.toNat 31 1) n.val).answer .ok)) ∧
  (∀ (w : Who) (n : LegIx) (v : Word) (s : State), s.reaches w (legAddr n.val + LegReg.cfg.off) v.toNat → s.legEnabled n.val = false →
    ∃ t, exec (.legCfgWrite w n 0 v) s = .next t ∧ t.resp = .ok ∧ t.get (.edge .LEG_CFG_MODE) n.val = bits v.toNat 0 3 ∧
      t.get (.edge .LEG_CFG_DOMAIN) n.val = bits v.toNat 3 3 ∧ t.get (.edge .LEG_CFG_ALIGN) n.val = bits v.toNat 6 1 ∧
      t.get (.edge .LEG_CFG_PLAYER) n.val = bits v.toNat 7 2 ∧ t.get (.edge .LEG_CFG_SLOT) n.val = bits v.toNat 9 2 ∧
      t.get (.edge .LEG_CFG_CSRC) n.val = bits v.toNat 12 3 ∧ (5 ≤ bits v.toNat 0 3 → t.get (.edge .LEG_STAT_CFG_ERR) n.val = 1) ∧
      (bits v.toNat 0 3 = 4 → bits v.toNat 12 3 ≤ 2 →
        t.get (.edge .LEG_STAT_CMT_IDX) n.val = s.get (.edge .HALL) (bits v.toNat 12 3) % 8) ∧
      s.SameBut [.edge .LEG_CFG_MODE, .edge .LEG_CFG_DOMAIN, .edge .LEG_CFG_ALIGN, .edge .LEG_CFG_PLAYER, .edge .LEG_CFG_SLOT,
        .edge .LEG_CFG_CSRC, .edge .LEG_STAT_CMT_IDX, .edge .LEG_STAT_CFG_ERR] t ∧ s.SameMem t ∧ s.SameQueue t) ∧
  (∀ (c : Fin 12) (v : Half) (s : State),
    ∃ t, exec (.dutyChannelWrite c v) s = .next t ∧
      (∀ n < 32, s.bit (.edge .DCH_LEGS) n c.val = true → t.get (.edge .LEG_DUTY_W) n = 1 ∧ t.get (.edge .LEG_DUTY) n =
        (if toSigned 16 v.toNat < 0 then 0 else if toSigned 16 v.toNat = 32767 then
          s.get (.edge .DOM_PERIOD) (s.get (.edge .LEG_CFG_DOMAIN) n)
        else (toSigned 16 v.toNat).toNat * s.get (.edge .DOM_PERIOD) (s.get (.edge .LEG_CFG_DOMAIN) n) / 32768) % 2 ^ 27) ∧
      (∀ n < 32, s.bit (.edge .DCH_LEGS) n c.val = false → t.get (.edge .LEG_DUTY) n = s.get (.edge .LEG_DUTY) n) ∧
      (∀ n < 9, s.bit (.edge .DCH_ALEGS) n c.val = true → t.get (.edge .LEG_DUTY_W) (32 + n) = 1) ∧
      s.SameBut [.edge .LEG_DUTY, .edge .LEG_DUTY_W, .edge .LEG_DUTY_WN] t ∧ s.SameMem t ∧ s.SameQueue t) ∧
  (∀ (n : LegIx) (u : State) (s : State), u = catchLeg n.val s → s.modeDrives n.val = true → s.get (.edge .LEG_QN) n.val = 0 →
    s.get (.edge .LEG_REF) n.val = 0 → s.get (.edge .LEG_CMD) n.val ≠ 0 → u.modeAt n.val (u.lookAt n.val) = .off →
    u.placeEdge n.val (u.lookAt n.val) ≤ s.now →
    ∃ t, exec (.channelEdge n .command) s = .next t ∧ t.get (.edge .LEG_CMD) n.val = 0 ∧ t.get (.edge .LEG_STAT_HI) n.val = 0 ∧
      t.get (.edge .LEG_STAT_LO) n.val = 0 ∧ t.get (.edge .LEG_IL_HI) n.val = 0 ∧ t.get (.edge .LEG_IL_LO) n.val = 0 ∧
      s.SameMem t ∧ s.SameQueue t) ∧
  (∀ (n : LegIx) (u : State) (s : State), u = catchLeg n.val s → s.modeDrives n.val = true → s.get (.edge .LEG_QN) n.val = 0 →
    s.get (.edge .LEG_REF) n.val = 0 → s.get (.edge .LEG_CMD) n.val ≠ 1 → u.modeAt n.val (u.lookAt n.val) = .hi →
    s.now < u.placeEdge n.val (u.lookAt n.val) →
    exec (.channelEdge n .command) s = .next ((((u.set (.edge .LEG_CMD) 1 n.val).set (.edge .LEG_Q_AT)
      (u.placeEdge n.val (u.lookAt n.val)) n.val).set (.edge .LEG_Q_ST) 1 n.val).set (.edge .LEG_QN) 1 n.val)) ∧
  (∀ (n : LegIx) (s : State), s.get (.edge .LEG_IN_HI) n.val = 0 → s.get (.edge .LEG_IN_LO) n.val = 0 →
    exec (.channelEdge n (.request true true)) s = .next ((((s.set (.edge .LEG_IN_HI) 1 n.val).set (.edge .LEG_IN_LO) 1 n.val).set
      (.edge .LEG_STAT_INTERLOCK) 1 n.val).incSat (.edge .LEG_STAT_IL_CNT) n.val)) ∧
  (∀ (n : LegIx) (s : State), s.get (.edge .LEG_REF) n.val = 0 → s.get (.edge .LEG_DUE) n.val = 1 → s.get (.edge .LEG_IN_HI) n.val = 0 →
    s.get (.edge .LEG_DUE_AT) n.val ≤ s.now → s.blocked n.val .hi = false → (catchLeg n.val s).tooShort n.val .hi = false →
    ∃ t, exec (.deadTimeExpiry n) s = .next t ∧ t.get (.edge .LEG_IN_HI) n.val = 1 ∧ t.get (.edge .LEG_IL_HI) n.val = 1 ∧
      t.get (.edge .LEG_DUE) n.val = 0 ∧ s.SameMem t ∧ s.SameQueue t) ∧
  (∀ (n : LegIx) (s : State), s.get (.edge .LEG_REF) n.val = 0 → s.get (.edge .LEG_DUE) n.val = 1 → s.get (.edge .LEG_DUE_AT) n.val ≤ s.now →
    (catchLeg n.val s).tooShort n.val .hi = true →
    exec (.deadTimeExpiry n) s = .next (slotNext n.val ((catchLeg n.val s).set (.edge .LEG_DUE) 0 n.val))) ∧
  (∀ (n : LegIx) (s : State), 17 ≤ s.get (.edge .LEG_STAT_IL_CNT) n.val →
    ∃ t, exec (.ilFault n) s = .next t ∧ t.get (.edge .LEG_STAT_IL_FAULT) n.val = 1 ∧ t.get (.edge .LEG_STAT_FORCED) n.val = 1 ∧
      t.get (.edge .LEG_STAT_HI) n.val = 0 ∧ t.get (.edge .LEG_STAT_LO) n.val = 0 ∧ t.legFault n.val = true ∧
      t.sent = ⟨.level4, 246, n.val, 0⟩ :: s.sent ∧ s.SameMem t ∧ s.SameQueue t) ∧
  (∀ (n : LegIx) (s : State), s.get (.edge .LEG_STAT_IL_CNT) n.val < 17 → exec (.ilFault n) s = .next s)

/-- Bootstrap refresh, bootstrap under-voltage and loss of the edge clock (R218 to R220, R223, R440): a refresh is due after INTERVAL; its
pulse ends with the low channel off; a report that stood throughout latches BOOT_UV and forces the group; a lost edge clock turns every
leg off and forces every group, and CLK_LOST clears only while LOCK reads 1. Next states of their own effect: BOOT_INTERVAL_EXPIRY,
REFRESH_PULSE_END, BOOT_UV_REPORT, BOOT_UV_TEST, BOOTSTRAP_COMPARATOR_RELEASE, EDGE_CLOCK_LOSS, CLK_LOST_CLEAR. Where a clause touches
them it follows the model's choices of log entry 15. -/
def Obligations.RefreshAndClock : Prop :=
  (∀ (n : LegIx) (s : State), s.get (.edge .LEG_REFRESH_BOOT_EN) n.val = 1 → s.get (.edge .LEG_STAT_HI) n.val = 1 → s.modeDrives n.val = true →
    s.get (.edge .LEG_HI_SINCE) n.val + us (1000 * clampN 1 100 (s.get (.edge .LEG_REFRESH_INTERVAL) n.val)) ≤ s.now →
    exec (.bootIntervalExpiry n) s = .next (s.set (.edge .LEG_REF_DUE) 1 n.val)) ∧
  (∀ (n : LegIx) (s : State), s.get (.edge .LEG_REF) n.val = 2 →
    s.get (.edge .LEG_LO_SINCE) n.val + 1600 * clampN 4 16 (s.get (.edge .LEG_REFRESH_PULSE) n.val) ≤ s.now → s.modeDrives n.val = true →
    ∃ t, exec (.refreshPulseEnd n) s = .next t ∧ t.get (.edge .LEG_REF) n.val = 3 ∧ t.get (.edge .LEG_IL_LO) n.val = 0 ∧
      t.get (.edge .LEG_STAT_LO) n.val = 0 ∧ s.SameMem t ∧ s.SameQueue t) ∧
  (∀ (n : LegIx) (s : State), s.get (.edge .LEG_REFRESH_BOOT_EN) n.val = 1 → s.get (.edge .LEG_STAT_HI) n.val = 1 → s.modeDrives n.val = true →
    exec (.bootUvReport n) s = .next ((s.set (.edge .LEG_BUV) 1 n.val).set (.edge .LEG_REF_DUE) 1 n.val)) ∧
  (∀ (n : LegIx) (s : State), s.get (.edge .LEG_STAT_HI) n.val = 0 → exec (.bootUvReport n) s = .next (s.set (.edge .LEG_BUV) 1 n.val)) ∧
  (∀ (n : LegIx) (g : Nat) (s : State), s.get (.edge .LEG_REFRESH_BOOT_EN) n.val = 1 → s.get (.edge .LEG_BUV) n.val = 1 →
    s.get (.edge .LEG_BUV_STOOD) n.val ≠ 0 → s.get (.edge .LEG_BUV_STOOD) n.val - 1 + us 10 ≤ s.now → s.groupOf n.val = some g →
    ∃ t, exec (.bootUvTest n) s = .next t ∧ t.get (.edge .LEG_STAT_BOOT_UV) n.val = 1 ∧ t.Forced g ∧
      (s.bit (.grd .OG_LATCH) g = false → t.get (.grd .OG_STAT_CAUSE) g = 0x60) ∧ s.SameMem t ∧ s.SameQueue t) ∧
  (∀ (a : Fin 9) (s : State), exec (.bootstrapComparatorRelease a) s = .next ((s.set (.edge .LEG_BUV) 0 (32 + a.val)).set
    (.edge .LEG_BUV_STOOD) 0 (32 + a.val))) ∧
  (∀ (s : State), ∃ t, exec .edgeClockLoss s = .next t ∧ t.get (.edge .STAT_CLK_LOST) = 1 ∧ t.get (.edge .STAT_LOCK) = 0 ∧
      (∀ n < 41, t.get (.edge .LEG_STAT_HI) n = 0 ∧ t.get (.edge .LEG_STAT_LO) n = 0) ∧ (∀ g < 16, t.Forced g) ∧
      t.srcLatched 68 = true ∧ s.SameMem t ∧ s.SameQueue t) ∧
  (∀ (w : Who) (v : Word) (s : State), s.reaches w (edgeBase + 0x08) v.toNat → v.toNat.testBit 8 = true → s.get (.edge .STAT_LOCK) = 1 →
    ∃ t, exec (.clkLostClear w v) s = .next t ∧ t.resp = .ok ∧ t.get (.edge .STAT_CLK_LOST) = 0 ∧
      t.get (.grd .OG_LATCH) = s.get (.grd .OG_LATCH) ∧ s.SameMem t ∧ s.SameQueue t) ∧
  (∀ (w : Who) (v : Word) (s : State), s.reaches w (edgeBase + 0x08) v.toNat → v.toNat.testBit 9 = false → s.get (.edge .STAT_LOCK) = 0 →
    exec (.clkLostClear w v) s = .next (s.answer .ok))

/-- Tide players (R201, R203 to R206, R208, R209, R211): RATE, CORR and ANGLE_SET words are kept for their sample instant; the angle
advances by RATE each edge tick; an entry that is reached gives its leg its STATE, one whose leg does not follow the player is skipped
with STRAY; a six-step leg past its crossing drops its high channel; a Hall state selects the mask entry of the bridge's legs. Next states
of their own effect: RATE_WRITE, CORR_WRITE, ANGLE_SET_WRITE, TIDE_ENTRY_FIRE, SIXSTEP_CROSSING, HALL_STATE_CHANGE. Where a clause touches
them it follows the model's choices of log entries 9, 15. -/
def Obligations.Players : Prop :=
  (∀ (p : PlayerIx) (v : BitVec 24) (s : State), exec (.rateWrite none p v) s = .next (s.set (.edge .TP_RATE) v.toNat p.val)) ∧
  (∀ (w : Who) (p : PlayerIx) (v : BitVec 24) (s : State), s.reaches w (edgeBase + 0x208 + 0x20 * p.val) v.toNat →
    exec (.rateWrite (some w) p v) s = .next ((s.set (.edge .TP_RATE) v.toNat p.val).answer .ok)) ∧
  (∀ (p : PlayerIx) (v : BitVec 24) (s : State),
    exec (.corrWrite p v) s = .next ((s.set (.edge .TP_CORR) v.toNat p.val).set (.edge .TP_CORR_NEW) 1 p.val)) ∧
  (∀ (p : PlayerIx) (v : BitVec 24) (s : State), exec (.angleSetWrite none p v) s = .next (s.set (.edge .TP_SET) v.toNat p.val)) ∧
  (∀ (p : PlayerIx) (s : State), s.get (.edge .TP_CFG_EN) p.val = 1 → s.edgeClocked = true → s.get (.edge .TP_NEW) p.val = 0 →
    s.get (.edge .TP_STAT_PLAYING) p.val = 0 → s.get (.edge .TP_PEND) p.val = 0 →
    ∃ t, exec (.tideEntryFire p) s = .next t ∧ t.get (.edge .TP_THETA) p.val = (((s.get (.edge .TP_THETA) p.val : Int) +
        ((s.now / 8 - s.get (.edge .TP_AT) p.val : Nat) : Int) * s.sget (.edge .TP_A_RATE) p.val) % 2 ^ 40).toNat ∧
      s.SameBut [.edge .TP_THETA, .edge .TP_ANGLE, .edge .TP_PEND, .edge .TP_GAP, .edge .TP_AT, .edge .TP_FT, .edge .TP_FN] t ∧
      s.SameMem t ∧ s.SameQueue t) ∧
  (∀ (p : PlayerIx) (e : Nat) (s : State), s.get (.edge .TP_CFG_EN) p.val = 1 → s.edgeClocked = true →
    s.get (.edge .TP_STAT_PLAYING) p.val = 1 → s.pattern p.val = [e] → s.get (.edge .TP_NEXT) p.val = 0 → s.get (.edge .TP_FN) p.val = 0 →
    s.now % 8 = 0 → (catchUp p.val s).sget (.edge .TP_GAP) p.val = 0 → entMark e = false →
    s.get (.edge .LEG_CFG_MODE) (entLeg e) = 2 → s.get (.edge .LEG_CFG_PLAYER) (entLeg e) = p.val →
    ∃ t, exec (.tideEntryFire p) s = .next t ∧ t.get (.edge .LEG_TIDE) (entLeg e) = entState e ∧
      t.sget (.edge .TP_GAP) p.val = 2 ^ 40 ∧ t.get (.edge .TP_STAT_STRAY) p.val = s.get (.edge .TP_STAT_STRAY) p.val ∧
      t.get (.edge .TP_STAT_SLIP) p.val = s.get (.edge .TP_STAT_SLIP) p.val ∧ s.SameMem t ∧ s.SameQueue t) ∧
  (∀ (p : PlayerIx) (e : Nat) (s : State), s.get (.edge .TP_CFG_EN) p.val = 1 → s.edgeClocked = true →
    s.get (.edge .TP_STAT_PLAYING) p.val = 1 → s.pattern p.val = [e] → s.get (.edge .TP_NEXT) p.val = 0 → s.get (.edge .TP_FN) p.val = 0 →
    (catchUp p.val s).sget (.edge .TP_GAP) p.val = 0 → s.get (.edge .LEG_CFG_MODE) (entLeg e) ≠ 2 →
    ∃ t, exec (.tideEntryFire p) s = .next t ∧ t.get (.edge .TP_STAT_STRAY) p.val = 1 ∧
      t.get (.edge .LEG_TIDE) (entLeg e) = s.get (.edge .LEG_TIDE) (entLeg e) ∧ s.SameMem t ∧ s.SameQueue t) ∧
  (∀ (n : LegIx) (u : State) (s : State), u = catchLeg n.val s → s.get (.edge .LEG_CFG_MODE) n.val = 3 → s.modeDrives n.val = true →
    s.get (.edge .LEG_QN) n.val = 0 → s.get (.edge .LEG_REF) n.val = 0 → s.get (.edge .LEG_CMD) n.val ≠ 2 →
    u.modeAt n.val (u.lookAt n.val) = .lo → u.placeEdge n.val (u.lookAt n.val) ≤ s.now → s.get (.edge .LEG_IN_LO) n.val = 1 →
    ∃ t, exec (.sixstepCrossing n) s = .next t ∧ t.get (.edge .LEG_CMD) n.val = 2 ∧ t.get (.edge .LEG_IN_HI) n.val = 0 ∧
      t.get (.edge .LEG_STAT_HI) n.val = 0 ∧ t.get (.edge .LEG_DUE) n.val = 0 ∧ s.SameMem t ∧ s.SameQueue t) ∧
  (∀ (b : Fin 3) (v : BitVec 3) (s : State), s.get (.saf .ISL_STAT_STATE) 11 = 0 → s.edgeClocked = true →
    s.get (.act .BR_STAT_HALL) b.val = v.toNat →
    ∃ t, exec (.hallStateChange b v) s = .next t ∧ t.get (.edge .HALL) b.val = v.toNat ∧
      (∀ n < 41, s.get (.edge .LEG_CFG_MODE) n = 4 → s.get (.edge .LEG_CFG_CSRC) n = b.val → t.get (.edge .LEG_STAT_CMT_IDX) n = v.toNat) ∧
      s.SameMem t ∧ s.SameQueue t) ∧
  (∀ (b : Fin 3) (v : BitVec 3) (s : State), s.get (.act .BR_STAT_HALL) b.val ≠ v.toNat → exec (.hallStateChange b v) s = .next s)

/-- The conditioned inputs of the guard island (R231 to R234): a GFI pulse longer than 1.2 FILT asserts its source, a shorter one than 0.8
FILT does nothing but leave GLITCH; a window comparator asserts outside its window; a clock monitor that counts outside its limits
asserts, a masked one only counts. Next states of their own effect: GFI_ASSERT, GFI_GLITCH, GFI_DEASSERT, WINDOW_COMPARATOR_CHANGE,
CM_WINDOW_END. Where a clause touches them it follows the model's choices of log entry 37. -/
def Obligations.GuardInputs : Prop :=
  (∀ (i : Fin 8) (ns : BitVec 32) (s : State), 6 * s.gfiFilt i.val < 5 * ns.toNat → s.get (.grd .GFI_CFG_EN) i.val = 1 →
    ∃ t, exec (.gfiAssert i ns) s = .next t ∧ t.get (.grd .GFI_CFG_PIN) i.val = s.get (.grd .GFI_CFG_POL) i.val % 2 ∧
      t.get (.grd .SRC_ACT) i.val = 1 ∧ t.srcLatched i.val = true ∧
      (∀ g < 16, (s.get (.grd .ROUTE) i.val).testBit g = true → t.Forced g) ∧ s.SameMem t ∧ s.SameQueue t) ∧
  (∀ (i : Fin 8) (ns : BitVec 32) (s : State), 5 * ns.toNat < 4 * s.gfiFilt i.val → exec (.gfiAssert i ns) s = .next s) ∧
  (∀ (i : Fin 8) (ns : BitVec 32) (s : State), 5 * ns.toNat < 4 * s.gfiFilt i.val → 10 < ns.toNat →
    exec (.gfiGlitch i ns) s = .next (s.set (.grd .GFI_CFG_GLITCH) 1 i.val)) ∧
  (∀ (i : Fin 8) (s : State), exec (.gfiDeassert i) s = .next ((s.set (.grd .GFI_CFG_PIN) (1 - s.get (.grd .GFI_CFG_POL) i.val) i.val).set
    (.grd .SRC_ACT) 0 i.val)) ∧
  (∀ (c : Fin 16) (v : BitVec 10) (s : State), s.get (.grd .WC_CFG_THR_HI) c.val < v.toNat → s.get (.grd .WC_CFG_EN_HI) c.val = 1 →
    s.get (.grd .SRC_ACT) (8 + c.val) = 0 →
    ∃ t, exec (.windowComparatorChange c v) s = .next t ∧ t.get (.grd .WC_CFG_OUT) c.val = 1 ∧ t.get (.grd .SRC_ACT) (8 + c.val) = 1 ∧
      t.srcLatched (8 + c.val) = true ∧ (∀ g < 16, (s.get (.grd .ROUTE) (8 + c.val)).testBit g = true → t.Forced g) ∧
      s.SameMem t ∧ s.SameQueue t) ∧
  (∀ (c : Fin 16) (v : BitVec 10) (s : State), s.get (.grd .WC_CFG_THR_LO) c.val ≤ v.toNat → v.toNat ≤ s.get (.grd .WC_CFG_THR_HI) c.val →
    s.get (.grd .WC_HIGH) c.val = 0 → s.get (.grd .WC_LOW) c.val = 0 →
    exec (.windowComparatorChange c v) s = .next (((((s.set (.grd .WC_IN) v.toNat c.val).set (.grd .WC_HIGH) 0 c.val).set
      (.grd .WC_LOW) 0 c.val).set (.grd .WC_CFG_OUT) 0 c.val).set (.grd .SRC_ACT) 0 (8 + c.val))) ∧
  (∀ (m : Fin 8) (n : BitVec 12) (s : State), s.get (.grd .STAT_MON_RUN) = 1 → s.cmMasked m.val = false →
    (n.toNat < s.get (.grd .CM_CFG_LO) m.val ∨ s.get (.grd .CM_CFG_HI) m.val < n.toNat) →
    ∃ t, exec (.cmWindowEnd m n) s = .next t ∧ t.get (.grd .CM_COUNT) m.val = n.toNat ∧ t.get (.grd .SRC_ACT) (69 + m.val) = 1 ∧
      t.srcLatched (69 + m.val) = true ∧ (∀ g < 16, (s.get (.grd .ROUTE) (69 + m.val)).testBit g = true → t.Forced g) ∧
      s.SameMem t ∧ s.SameQueue t) ∧
  (∀ (m : Fin 8) (n : BitVec 12) (s : State), s.get (.grd .STAT_MON_RUN) = 1 → s.cmMasked m.val = true →
    exec (.cmWindowEnd m n) s = .next (s.set (.grd .CM_COUNT) n.toNat m.val))

/-- Group sources and their latches (R228, R239, R241, R618): an asserted source latches and forces every group of its effective route; it
releases under its own condition and its latch stays; a latch clears only while its source is deasserted. Leg fault latches (R245, R248):
a latch the interlock set clears at once, one the stage set only after 2 us of valid heartbeat, refused otherwise; an actuator leg's
clears at once. Next states of their own effect: INTERNAL_SOURCE_ASSERT, INTERNAL_SOURCE_DEASSERT, SOURCE_LATCH_CLEAR,
LEG_FAULT_LATCH_CLEAR, ALEG_FAULT_LATCH_CLEAR. Where a clause touches them it follows the model's choices of log entries 15, 31, 38. -/
def Obligations.SourceAndLegLatches : Prop :=
  (∀ (src : Fin 77) (s : State),
    ∃ t, exec (.internalSourceAssert src) s = .next t ∧ t.get (.grd .SRC_ACT) src.val = 1 ∧ t.srcLatched src.val = true ∧
      (∀ g < 16, (s.route src.val).testBit g = true → t.Forced g) ∧
      (∀ g < 16, (s.route src.val).testBit g = false → t.bit (.grd .OG_LATCH) g = s.bit (.grd .OG_LATCH) g ∧
        t.bit (.edge .OG_EN) g = s.bit (.edge .OG_EN) g) ∧ s.SameMem t ∧ s.SameQueue t) ∧
  (∀ (src : Fin 77) (s : State), s.mayDeassert src.val = true →
    exec (.internalSourceDeassert src) s = .next (s.set (.grd .SRC_ACT) 0 src.val)) ∧
  (∀ (src : Fin 77) (s : State), s.mayDeassert src.val = false → exec (.internalSourceDeassert src) s = .next s) ∧
  (∀ (w : Who) (k : Fin 3) (m : Word) (s : State), s.reaches w (grdBase + 0x10 + 4 * k.val) m.toNat →
    ∃ t, exec (.sourceLatchClear w k m) s = .next t ∧ t.resp = .ok ∧
      (∀ b < 32, t.bit (.grd .SRC_LATCH) b k.val = (s.bit (.grd .SRC_LATCH) b k.val &&
        !(m.toNat.testBit b && !s.flag (.grd .SRC_ACT) (32 * k.val + b)))) ∧
      s.SameBut [.grd .SRC_LATCH] t ∧ (∀ j, j ≠ k.val → t.get (.grd .SRC_LATCH) j = s.get (.grd .SRC_LATCH) j) ∧
      s.SameMem t ∧ s.SameQueue t) ∧
  (∀ (w : Who) (m : Word) (s : State), s.reaches w (grdBase + 0x90) m.toNat →
    ∃ t, exec (.legFaultLatchClear w m) s = .next t ∧ t.resp = .ok ∧
      (∀ n < 32, m.toNat.testBit n = true → (s.get (.grd .LEGF_STAGE) n = 0 ∨ s.heartbeat2us n = true) →
        t.bit (.grd .LEGF_LATCH) n = false) ∧
      (∀ n < 32, m.toNat.testBit n = true → s.bit (.grd .LEGF_LATCH) n = true → s.get (.grd .LEGF_STAGE) n = 1 → s.heartbeat2us n = false →
        t.bit (.grd .LEGF_LATCH) n = true ∧ t.get (.grd .STAT_CLR_REFUSED) = 1) ∧
      (∀ n < 32, m.toNat.testBit n = false → t.bit (.grd .LEGF_LATCH) n = s.bit (.grd .LEGF_LATCH) n) ∧ s.SameMem t ∧ s.SameQueue t) ∧
  (∀ (w : Who) (m : BitVec 9) (s : State), s.reaches w (grdBase + 0x98) m.toNat →
    ∃ t, exec (.alegFaultLatchClear w m) s = .next t ∧ t.resp = .ok ∧
      (∀ a < 9, t.bit (.grd .ALEGF_LATCH) a = (s.bit (.grd .ALEGF_LATCH) a && !m.toNat.testBit a)) ∧ s.SameMem t ∧ s.SameQueue t)

/-- Group latches, force bits and safe levels (R237, R239, R242, R244, R251, R479): force bits of the safety island force their groups,
and an attempt of another initiator is logged; a group latch clears only under LOCK and with nothing that still holds it; the band moves
no latch; after the safe dead time the channel of the safe level turns on. Next states of their own effect: SAF_FORCE_WRITE,
GROUP_LATCH_CLEAR, BAND_SELECT_WRITE, SAFE_DEAD_TIME_EXPIRY. Where a clause touches them it follows the model's choices of log entries 15,
38. -/
def Obligations.GroupLatches : Prop :=
  (∀ (m : BitVec 16) (s : State), s.reaches .safety (grdBase + 0x8C) m.toNat →
    ∃ t, exec (.safForceWrite .safety m) s = .next t ∧ t.resp = .ok ∧
      t.get (.grd .SAF_FORCE) = (m.toNat ||| s.get (.saf .KEPT_FORCE)) % 65536 ∧
      (∀ g < 16, m.toNat.testBit g = true → s.bit (.grd .SAF_FORCE) g = false → t.Forced g) ∧ s.SameMem t ∧ s.SameQueue t) ∧
  (∀ (w : Who) (m : BitVec 16) (s : State), w ≠ .safety → s.reaches w (grdBase + 0x8C) m.toNat → m.toNat ≠ s.get (.grd .SAF_FORCE) →
    exec (.safForceWrite w m) s = .next ((logViolation 3 w (grdBase + 0x8C) s).answer .ok)) ∧
  (∀ (w : Who) (m : BitVec 16) (s : State), s.reaches w (grdBase + 0x80) m.toNat → s.get (.saf .LOCK_LOCK) = 0 →
    exec (.groupLatchClear w m) s = .next (s.answer .ok)) ∧
  (∀ (w : Who) (m : BitVec 16) (s : State), s.reaches w (grdBase + 0x80) m.toNat → s.get (.saf .LOCK_LOCK) = 1 →
    ∃ t, exec (.groupLatchClear w m) s = .next t ∧ t.resp = .ok ∧
      (∀ g < 16, m.toNat.testBit g = true → s.bit (.grd .OG_LATCH) g = true → s.latchBlocked g = false →
        t.bit (.grd .OG_LATCH) g = false ∧ t.get (.grd .OG_STAT_FORCED) g = 0 ∧ t.get (.grd .OG_STAT_CAUSE) g = 0x7F) ∧
      (∀ g < 16, m.toNat.testBit g = true → s.bit (.grd .OG_LATCH) g = true → s.latchBlocked g = true →
        t.bit (.grd .OG_LATCH) g = true ∧ t.get (.grd .STAT_CLR_REFUSED) = 1) ∧
      s.SameBut [.grd .OG_LATCH, .grd .OG_STAT_FORCED, .grd .OG_STAT_CAUSE, .grd .STAT_CLR_REFUSED] t ∧ s.SameMem t ∧ s.SameQueue t) ∧
  (∀ (m : BitVec 16) (s : State), s.reaches .safety (grdBase + 0x88) m.toNat →
    ∃ t, exec (.bandSelectWrite .safety m) s = .next t ∧ t.resp = .ok ∧ t.get (.grd .BAND) = m.toNat ∧
      t.get (.grd .OG_LATCH) = s.get (.grd .OG_LATCH) ∧ t.get (.edge .OG_EN) = s.get (.edge .OG_EN) ∧
      (∀ g, t.get (.grd .OG_STAT_CAUSE) g = s.get (.grd .OG_STAT_CAUSE) g) ∧ s.SameMem t ∧ s.SameQueue t) ∧
  (∀ (g : GroupIx) (n : Nat) (s : State), n ∈ s.legsOf g.val → s.get (.edge .LEG_STAT_FORCED) n = 0 → s.get (.saf .EXTEST) = 0 → s.get (.saf .ISL_STAT_STATE) 7 = 0 →
    s.get (.edge .LEG_SAFE_DUE) n = 1 →
    max (s.get (.edge .LEG_SAFE_AT) n) (s.get (.edge .LEG_TOFF_LO) n) + 640 * (s.get (.grd .OG_CFG_SDT_CODE) g.val + 1) ≤ s.now →
    ∃ t, exec (.safeDeadTimeExpiry g) s = .next t ∧ t.get (.edge .LEG_STAT_HI) n = 1 ∧ t.get (.edge .LEG_STAT_LO) n = 0 ∧
      t.get (.edge .LEG_SAFE_DUE) n = 0 ∧ (t.waitsSdt g.val = false → t.get (.grd .OG_STAT_MOVING) g.val = 0) ∧ s.SameMem t ∧ s.SameQueue t)

/-- Reactions of the safety island to the guard island (R233, R246, R247, R482): a stopped or straying ring oscillator sets every force
bit and enters SAFE_HOLD; a leg fault, an over-current or a lost lane forces the group, a force bit that goes once every cause has gone
while the latch stays; a group latch from a holding source enters SAFE_HOLD, another is reported. Reconfiguration windows (R480, R481):
one opens only for a stated purpose, in OFF, READY or SERVICE, with its groups disabled and held; its end sets LOCK again, and where what
was written does not match, or it times out, the axle enters SAFE_HOLD. Next states of their own effect: RING_OSCILLATOR_CHECK,
LEG_FAULT_REACTION, SAF_FORCE_RELEASE, GROUP_FORCE_REACTION, RECONFIGURATION_WINDOW_OPEN, RECONFIGURATION_WINDOW_CLOSE, WINDOW_TIMEOUT.
Where a clause touches them it follows the model's choices of log entries 38, 40, 41. -/
def Obligations.SafetyReactions : Prop :=
  (∀ (dev : BitVec 16) (s : State), s.get (.saf .ISL_STAT_STATE) 0 = 0 → dev.toNat ≤ 100 →
    exec (.ringOscillatorCheck false dev) s = .next (s.set (.grd .STAT_MON_RUN) 1)) ∧
  (∀ (stopped : Bool) (dev : BitVec 16) (s : State), s.get (.saf .ISL_STAT_STATE) 0 = 0 → s.settled → (stopped = true ∨ 100 < dev.toNat) →
    ∃ t, exec (.ringOscillatorCheck stopped dev) s = .next t ∧ t.HoldBegins 6 ∧ t.get (.grd .SAF_FORCE) = 0xFFFF ∧
      (∀ g < 16, t.Forced g) ∧ s.SameMem t ∧ s.SameQueue t) ∧
  (∀ (g : GroupIx) (why : Fin 3) (s : State), s.safHeld = false → s.reactCause g.val why.val = true →
    ∃ t, exec (.legFaultReaction g why) s = .next t ∧ t.Forced g.val ∧ t.bit (.grd .SAF_FORCE) g.val = true ∧
      t.bit (.saf .FORCE_CAUSE) why.val g.val = true ∧ s.SameMem t ∧ s.SameQueue t) ∧
  (∀ (g : GroupIx) (why : Fin 3) (s : State), s.reactCause g.val why.val = false → exec (.legFaultReaction g why) s = .next s) ∧
  (∀ (g : GroupIx) (s : State), s.forceCausesGone g.val = true → s.get (.saf .FORCE_CAUSE) g.val < 8 →
    ∃ t, exec (.safForceRelease g) s = .next t ∧ t.bit (.grd .SAF_FORCE) g.val = false ∧ t.get (.saf .FORCE_CAUSE) g.val = 0 ∧
      t.get (.grd .OG_LATCH) = s.get (.grd .OG_LATCH) ∧ s.SameBut [.grd .SAF_FORCE, .saf .FORCE_CAUSE] t ∧ s.SameMem t ∧ s.SameQueue t) ∧
  (∀ (g : GroupIx) (s : State), s.safHeld = false → s.bit (.grd .OG_LATCH) g.val = true → s.holdCause g.val = true → s.settled →
    ∃ t, exec (.groupForceReaction g) s = .next t ∧ t.HoldBegins 2 ∧ s.SameMem t ∧ s.SameQueue t) ∧
  (∀ (g : GroupIx) (s : State), s.safHeld = false → s.bit (.grd .OG_LATCH) g.val = true → s.holdCause g.val = false →
    exec (.groupForceReaction g) s = .next (s.send .level4 482 g.val (s.get (.grd .OG_STAT_CAUSE) g.val))) ∧
  (∀ (m : Half) (s : State), s.safHeld = false → s.get (.saf .LOCK_LOCK) = 1 → s.windowPurpose false = true →
    s.get (.saf .AXLE_MODE_MODE) ∈ [0, 1, 5] → s.heldOff m.toNat = true →
    ∃ t, exec (.reconfigurationWindowOpen false m) s = .next t ∧ t.get (.saf .LOCK_LOCK) = 0 ∧ t.get (.saf .LOCK_WINDOW) = 1 ∧
      t.get (.saf .LOCK_ISL_LOCK) = 0 ∧ t.get (.grd .STAT_LOCKED) = 0 ∧
      s.SameBut [.saf .FORCE_CAUSE, .saf .LOCK_LOCK, .saf .LOCK_WINDOW, .saf .LOCK_ISL_LOCK, .grd .STAT_LOCKED, .saf .WIN_PURPOSE] t ∧
      s.SameMem t ∧ s.SameQueue t) ∧
  (∀ (act : Bool) (m : Half) (s : State), s.get (.saf .AXLE_MODE_MODE) ∉ [0, 1, 5] →
    exec (.reconfigurationWindowOpen act m) s = .next s) ∧
  (∀ (s : State), s.get (.saf .LOCK_WINDOW) = 1 →
    ∃ t, exec (.reconfigurationWindowClose true) s = .next t ∧ t.get (.saf .LOCK_LOCK) = 1 ∧ t.get (.saf .LOCK_WINDOW) = 0 ∧
      t.get (.grd .STAT_LOCKED) = 1 ∧ (∀ g < 16, s.bit (.saf .FORCE_CAUSE) 4 g = true → t.bit (.saf .FORCE_CAUSE) 4 g = false) ∧
      t.get (.grd .OG_LATCH) = s.get (.grd .OG_LATCH) ∧ s.SameMem t ∧ s.SameQueue t) ∧
  (∀ (s : State), s.get (.saf .LOCK_WINDOW) = 1 → s.settled →
    ∃ t, exec (.reconfigurationWindowClose false) s = .next t ∧ t.HoldBegins 6 ∧ t.get (.saf .LOCK_LOCK) = 1 ∧
      t.get (.saf .LOCK_WINDOW) = 0 ∧ s.SameMem t ∧ s.SameQueue t) ∧
  (∀ (s : State), s.get (.saf .LOCK_WINDOW) = 1 → s.settled →
    ∃ t, exec .windowTimeout s = .next t ∧ t.HoldBegins 6 ∧ t.get (.saf .LOCK_LOCK) = 1 ∧ t.get (.saf .LOCK_WINDOW) = 0 ∧
      s.SameMem t ∧ s.SameQueue t)

/-- A ferry link comes up (R257, R259, R266 to R268, R272): heartbeat and AUTO take it from DOWN to WAIT, 10 us of heartbeat to PROBE with
HELLO; a CAP frame settles it or shows it incompatible; the settled rate is taken after the silence and confirmed; after its profile words
it is UP. Next states of their own effect: HEARTBEAT_TRANSITION, LINK_WAIT_EXPIRY, CAP, ACK, RATE_CHANGE_SILENCE_END. Where a clause
touches them it follows the model's choices of log entry 39. -/
def Obligations.LinkUp : Prop :=
  (∀ (n : LinkIx) (s : State), s.edgeClocked = true → s.get (.edge .FL_STAT_HB_OK) n.val = 0 → s.get (.edge .FL_STAT_LSTATE) n.val = 0 →
    s.get (.edge .FL_CFG_AUTO) n.val = 1 →
    exec (.heartbeatTransition n) s = .next ((((((s.set (.edge .FL_HB_SINCE) (s.now - 256) n.val).set (.edge .FL_STAT_HB_OK) 1 n.val).set
      (.edge .FL_HB_AT) (s.now - 256) n.val).set (.edge .FL_CFG_ACT) (s.linkCfg n.val) n.val).set (.edge .FL_STAT_LSTATE) 1 n.val).set
      (.edge .FL_CUR_RATE) 0 n.val)) ∧
  (∀ (n : LinkIx) (s : State), s.edgeClocked = true → s.laneFree n.val = true → s.get (.edge .FL_HB_SINCE) n.val + us 10 ≤ s.now → s.get (.edge .FL_STAT_LSTATE) n.val = 1 → s.get (.edge .FL_STAT_HB_OK) n.val = 1 →
    exec (.linkWaitExpiry n) s = .next ((((((s.set (.edge .FL_STAT_LSTATE) 2 n.val).set (.edge .FL_AWAIT) 1 n.val).set (.edge .FL_RETRY) 0 n.val).set (.edge .FL_PAY) 0 n.val).set (.edge .FL_AT) s.now n.val).send .lane n.val 1 0)) ∧
  (∀ (n : LinkIx) (c : BitVec 128) (s : State), s.edgeClocked = true → s.get (.edge .FL_STAT_LSTATE) n.val = 2 → s.get (.edge .FL_AWAIT) n.val = 1 →
    s.settle n.val (bits c.toNat 0 8) (bits c.toNat 8 8) (bits c.toNat 16 8) = none →
    ∃ t, exec (.cap n c) s = .next t ∧ t.get (.edge .FL_STAT_LSTATE) n.val = 7 ∧ t.get (.edge .FL_AWAIT) n.val = 0 ∧
      (∀ k < 4, t.get (.edge .FL_CAP) n.val k = bits c.toNat (32 * k) 32) ∧
      s.SameBut [.edge .FL_STAT_STAGE_CHG, .edge .FL_CAP_SEEN, .edge .FL_AWAIT, .edge .FL_RETRY, .edge .FL_SILENCE, .edge .FL_RWAIT, .edge .FL_QN, .edge .FL_CAP, .edge .FL_STAT_LSTATE] t ∧
      s.SameMem t ∧ s.SameQueue t) ∧
  (∀ (n : LinkIx) (c : BitVec 128) (rate mode : Nat) (s : State), s.edgeClocked = true → s.get (.edge .FL_STAT_LSTATE) n.val = 2 →
    s.get (.edge .FL_AWAIT) n.val = 1 → s.settle n.val (bits c.toNat 0 8) (bits c.toNat 8 8) (bits c.toNat 16 8) = some (rate, mode) →
    ∃ t, exec (.cap n c) s = .next t ∧ t.get (.edge .FL_STAT_LSTATE) n.val = 3 ∧ t.get (.edge .FL_AWAIT) n.val = 2 ∧
      t.get (.edge .FL_S_RATE) n.val = rate % 4 ∧ t.get (.edge .FL_S_MODE) n.val = mode % 4 ∧
      t.get (.edge .FL_S_TEL) n.val = (bits c.toNat 24 5 &&& bits (s.get (.edge .FL_CFG_ACT) n.val) 4 5) ∧ s.SameMem t ∧ s.SameQueue t) ∧
  (∀ (n : LinkIx) (e : Word) (s : State), s.edgeClocked = true → s.get (.edge .FL_QN) n.val = 0 → s.get (.edge .FL_AWAIT) n.val = 2 → e.toNat = s.settlePay n.val →
    s.get (.edge .FL_S_RATE) n.val ≠ s.get (.edge .FL_CUR_RATE) n.val →
    exec (.ack n 2 e) s = .next ((((s.set (.edge .FL_SILENCE) 1 n.val).set (.edge .FL_W_AT) s.now n.val).set (.edge .FL_AWAIT) 0 n.val).set (.edge .FL_RETRY) 0 n.val)) ∧
  (∀ (n : LinkIx) (e : Word) (s : State), s.edgeClocked = true → s.get (.edge .FL_QN) n.val = 0 → s.get (.edge .FL_AWAIT) n.val = 3 → s.get (.edge .FL_STAT_LSTATE) n.val = 4 →
    s.get (.edge .FL_STAT_MODE) n.val = 1 →
    ∃ t, exec (.ack n 3 e) s = .next t ∧ t.get (.edge .FL_STAT_LSTATE) n.val = 5 ∧ t.get (.edge .FL_AWAIT) n.val = 0 ∧
      t.get (.edge .LEG_STAT_SLOT_SENT) n.val = 0 ∧ s.SameMem t ∧ s.SameQueue t) ∧
  (∀ (n : LinkIx) (s : State), s.edgeClocked = true → s.get (.edge .FL_W_AT) n.val + 16 * laneChar (s.get (.edge .FL_CUR_RATE) n.val) ≤ s.now → s.get (.edge .FL_SILENCE) n.val = 1 →
    exec (.rateChangeSilenceEnd n) s = .next (((((((s.set (.edge .FL_SILENCE) 0 n.val).set (.edge .FL_CUR_RATE) (s.get (.edge .FL_S_RATE) n.val) n.val).set (.edge .FL_AWAIT) 6 n.val).set (.edge .FL_RETRY) 0 n.val).set (.edge .FL_PAY) 0 n.val).set (.edge .FL_AT) s.now n.val).send .lane n.val 6 0))

/-- What goes wrong on a link (R222, R245, R246, R257, R259, R262, R263, R269, R621): a fault instant turns the leg off, latches and takes
the link to DOWN, at a static positive level with FAULT_READ; a lost reply is retried twice, then the link fails, or in UP its lane is
lost; a failed link starts again from WAIT; a bad frame is counted. Next states of their own effect: FAULT_INSTANT, NAK, REPLY_TIMEOUT,
SETTLE_RETRY_WAIT, FAIL_TIMEOUT, LANE_FRAME_ERROR, FAULT_DATA. Where a clause touches them it follows the model's choices of log entry 39.
-/
def Obligations.LinkErrors : Prop :=
  (∀ (n : LinkIx) (pos : Bool) (s : State), s.get (.edge .FL_STAT_HB_OK) n.val = 1 → s.get (.edge .FL_HB_AT) n.val + 1920 ≤ s.now → s.get (.saf .ISL_STAT_STATE) 7 = 0 →
    ∃ t, exec (.faultInstant n pos) s = .next t ∧ t.get (.edge .FL_STAT_HB_OK) n.val = 0 ∧ t.get (.edge .FL_STAT_LSTATE) n.val = 0 ∧
      t.bit (.grd .LEGF_LATCH) n.val = true ∧ t.get (.grd .LEGF_STAGE) n.val = 1 ∧ t.get (.edge .LEG_STAT_HI) n.val = 0 ∧
      t.get (.edge .LEG_STAT_LO) n.val = 0 ∧ t.get (.edge .FL_AWAIT) n.val = (if pos = true then 9 else 0) ∧
      (pos = false → t.get (.edge .FL_STAT_FCAUSE) n.val = 0xFF) ∧ s.SameMem t ∧ s.SameQueue t) ∧
  (∀ (n : LinkIx) (c : BitVec 8) (s : State), s.edgeClocked = true → s.get (.edge .FL_AWAIT) n.val = 2 →
    exec (.nak n 2 c) s = .next (((((((s.set (.edge .FL_AWAIT) 0 n.val).set (.edge .FL_RETRY) 0 n.val).set (.edge .FL_SILENCE) 0 n.val).set
      (.edge .FL_RWAIT) 0 n.val).set (.edge .FL_QN) 0 n.val).set (.edge .FL_STAT_LSTATE) 8 n.val).set (.edge .FL_W_AT) s.now n.val)) ∧
  (∀ (n : LinkIx) (s : State), s.replyAbsent n.val = true → s.edgeClocked = true → s.get (.edge .FL_AWAIT) n.val ≠ 0 → s.get (.edge .FL_RETRY) n.val < 2 →
    exec (.replyTimeout n) s = .next (((s.set (.edge .FL_RETRY) (s.get (.edge .FL_RETRY) n.val + 1) n.val).set (.edge .FL_AT) s.now n.val).send
      .lane n.val (s.get (.edge .FL_AWAIT) n.val) (s.get (.edge .FL_PAY) n.val))) ∧
  (∀ (n : LinkIx) (s : State), s.replyAbsent n.val = true → s.edgeClocked = true → s.get (.edge .FL_AWAIT) n.val ≠ 0 → s.get (.edge .FL_RETRY) n.val = 2 →
    s.get (.edge .FL_STAT_LSTATE) n.val = 5 →
    ∃ t, exec (.replyTimeout n) s = .next t ∧ t.get (.edge .FL_STAT_LSTATE) n.val = 0 ∧ t.get (.edge .FL_STAT_LANE_LOST) n.val = 1 ∧
      t.get (.edge .FL_AWAIT) n.val = 0 ∧ t.get (.edge .LEG_STAT_FORCED) n.val = s.get (.edge .LEG_STAT_FORCED) n.val ∧
      t.sent = ⟨.level4, 621, n.val, 0⟩ :: ⟨.lane, n.val, 0x0B, 0⟩ :: s.sent ∧ s.SameMem t ∧ s.SameQueue t) ∧
  (∀ (n : LinkIx) (s : State), s.get (.edge .FL_W_AT) n.val + us 100 ≤ s.now → s.edgeClocked = true → s.get (.edge .FL_RWAIT) n.val = 1 →
    ∃ t, exec (.settleRetryWait n) s = .next t ∧ t.get (.edge .FL_RWAIT) n.val = 0 ∧ t.get (.edge .FL_CUR_RATE) n.val = 0 ∧
      t.get (.edge .FL_AWAIT) n.val = 2 ∧ t.get (.edge .FL_S_RATE) n.val =
        (if (bits (s.get (.edge .FL_CAP) n.val 0) 8 8 &&& (2 ^ s.get (.edge .FL_S_RATE) n.val - 1)).testBit 1 = true then 1 else 0) ∧
      s.SameMem t ∧ s.SameQueue t) ∧
  (∀ (n : LinkIx) (s : State), s.get (.edge .FL_W_AT) n.val + us 10000 ≤ s.now → s.edgeClocked = true → s.get (.edge .FL_STAT_LSTATE) n.val = 8 →
    exec (.failTimeout n) s = .next (((s.set (.edge .FL_CFG_ACT) (s.linkCfg n.val) n.val).set (.edge .FL_STAT_LSTATE) 1 n.val).set
      (.edge .FL_CUR_RATE) 0 n.val)) ∧
  (∀ (n : LinkIx) (s : State), s.edgeClocked = true → exec (.laneFrameError n true) s = .next ((s.set (.edge .FL_STAT_CRC_ERR) 1 n.val).incSat
    (.edge .FL_STAT_ERRCNT) n.val)) ∧
  (∀ (n : LinkIx) (s : State), s.edgeClocked = true → exec (.laneFrameError n false) s = .next (s.incSat (.edge .FL_STAT_ERRCNT) n.val)) ∧
  (∀ (n : LinkIx) (c : BitVec 8) (s : State), s.get (.edge .FL_QN) n.val = 0 → s.edgeClocked = true → s.get (.edge .FL_AWAIT) n.val = 9 →
    exec (.faultData n c) s = .next (((s.set (.edge .FL_AWAIT) 0 n.val).set (.edge .FL_RETRY) 0 n.val).set (.edge .FL_STAT_FCAUSE)
      (if c.toNat ≤ 7 then c.toNat else 0xFF) n.val))

/-- Telemetry, alerts, diagnostics and commands of a link that is up (R264, R272, R281, R282, R284): fields outside the settled mask read
0x8000; diagnostics run only with the group disabled and both channels off, and return to UP; RELINK and a profile write are refused with
CFG_BUSY while the leg's group is enabled. Next states of their own effect: TELEM, TELEM_POLL_TIMER, ALERT, DIAG_DATA, DIAG_POLL, RELINK,
STAGE_CLR, DIAG_GO, TEL_NOW, PROFILE_SLOT_WRITE. Where a clause touches them it follows the model's choices of log entries 15, 39. -/
def Obligations.LinkData : Prop :=
  (∀ (n : LinkIx) (v : BitVec 96) (s : State), s.get (.edge .FL_QN) n.val = 0 → s.edgeClocked = true → s.get (.edge .FL_AWAIT) n.val = 6 → s.get (.edge .FL_STAT_LSTATE) n.val = 5 →
    ∃ t, exec (.telem n v) s = .next t ∧ t.get (.edge .FL_AWAIT) n.val = 0 ∧ t.get (.edge .FL_TEL) n.val 0 = s.telField n.val 0 (bits v.toNat 16 16) * 65536 + s.telField n.val 0 (bits v.toNat 0 16) ∧
      t.get (.edge .FL_TEL) n.val 1 = s.telField n.val 2 (bits v.toNat 48 16) * 65536 + s.telField n.val 1 (bits v.toNat 32 16) ∧
      s.SameBut [.edge .FL_AWAIT, .edge .FL_RETRY, .edge .FL_TEL, .edge .LEG_BUV, .edge .LEG_BUV_STOOD, .edge .FL_STAT_SLOT_MISM, .edge .LEG_STAT_SLOT_SENT, .edge .LEG_SLOT_PEND, .edge .LEG_SLOT_AT] t ∧
      s.SameMem t ∧ s.SameQueue t) ∧
  (∀ (n : LinkIx) (s : State), s.laneFree n.val = true → s.get (.edge .FL_POLL_AT) n.val + us (s.get (.edge .FL_POLL)) ≤ s.now → s.edgeClocked = true → s.get (.edge .FL_STAT_LSTATE) n.val = 5 → s.get (.edge .FL_POLL) ≠ 0 →
    exec (.telemPollTimer n) s = .next ((((((s.set (.edge .FL_POLL_AT) s.now n.val).set (.edge .FL_AWAIT) 6 n.val).set (.edge .FL_RETRY) 0 n.val).set (.edge .FL_PAY) 0 n.val).set (.edge .FL_AT) s.now n.val).send .lane n.val 6 0)) ∧
  (∀ (n : LinkIx) (v : BitVec 8) (s : State), s.edgeClocked = true → bits (s.get (.edge .FL_CAP) n.val 1) 8 1 = 0 →
    exec (.alert n v) s = .next (s.set (.edge .FL_ALERT) v.toNat n.val)) ∧
  (∀ (n : LinkIx) (v : BitVec 8) (s : State), s.edgeClocked = true → bits (s.get (.edge .FL_CAP) n.val 1) 8 1 = 1 → v.toNat.testBit 0 = false →
    exec (.alert n v) s = .next (((s.set (.edge .FL_ALERT) v.toNat n.val).set (.edge .LEG_BUV) 0 n.val).set (.edge .LEG_BUV_STOOD) 0
      n.val)) ∧
  (∀ (n : LinkIx) (a b c : BitVec 8) (s : State), s.get (.edge .FL_QN) n.val = 0 → s.edgeClocked = true → s.get (.edge .FL_STAT_LSTATE) n.val = 6 → s.get (.edge .FL_AWAIT) n.val = 8 →
    exec (.diagData n a b c) s = .next ((((((s.set (.edge .FL_AWAIT) 0 n.val).set (.edge .FL_RETRY) 0 n.val).set (.edge .FL_DIAG_RES_GATE)
      a.toNat n.val).set (.edge .FL_DIAG_RES_NODE) b.toNat n.val).set (.edge .FL_DIAG_RES_DESAT) c.toNat n.val).set
      (.edge .FL_STAT_LSTATE) 5 n.val)) ∧
  (∀ (n : LinkIx) (s : State), s.laneFree n.val = true → s.get (.edge .FL_DIAG_AT) n.val + us 100 ≤ s.now → s.edgeClocked = true → s.get (.edge .FL_STAT_LSTATE) n.val = 6 →
    exec (.diagPoll n) s = .next ((((((s.set (.edge .FL_DIAG_AT) s.now n.val).set (.edge .FL_AWAIT) 8 n.val).set (.edge .FL_RETRY) 0 n.val).set (.edge .FL_PAY) 0 n.val).set (.edge .FL_AT) s.now n.val).send .lane n.val 8 0)) ∧
  (∀ (w : Who) (n : LinkIx) (s : State), s.reaches w (linkAddr n.val + 4) 1 → s.legEnabled n.val = true →
    exec (.relink w n) s = .next ((s.set (.edge .FL_STAT_CFG_BUSY) 1 n.val).answer .ok)) ∧
  (∀ (w : Who) (n : LinkIx) (s : State), s.reaches w (linkAddr n.val + 4) 1 → s.legEnabled n.val = false →
    exec (.relink w n) s = .next (((((((((s.send .lane n.val 0x0B).set (.edge .FL_AWAIT) 0 n.val).set (.edge .FL_RETRY) 0 n.val).set
      (.edge .FL_SILENCE) 0 n.val).set (.edge .FL_RWAIT) 0 n.val).set (.edge .FL_QN) 0 n.val).set (.edge .LEG_SLOT_PEND) 0 n.val).set
      (.edge .FL_STAT_LSTATE) 0 n.val).answer .ok)) ∧
  (∀ (w : Who) (n : LinkIx) (s : State), s.laneFree n.val = true → s.reaches w (linkAddr n.val + 4) 2 →
    exec (.stageClr w n) s = .next ((((((s.set (.edge .FL_AWAIT) 0x0A n.val).set (.edge .FL_RETRY) 0 n.val).set (.edge .FL_PAY) 0 n.val).set (.edge .FL_AT) s.now n.val).send .lane n.val 0x0A 0).answer .ok)) ∧
  (∀ (w : Who) (n : LinkIx) (s : State), s.reaches w (linkAddr n.val + 4) 2 → s.laneFree n.val = false →
    exec (.stageClr w n) s = .next (((s.set (.edge .FL_Q) (0x0A * 2 ^ 40) n.val (s.get (.edge .FL_QN) n.val)).inc (.edge .FL_QN) n.val).answer .ok)) ∧
  (∀ (w : Who) (n : LinkIx) (s : State), s.laneFree n.val = true → s.reaches w (linkAddr n.val + 4) 4 → s.get (.edge .FL_STAT_LSTATE) n.val = 5 →
    s.legEnabled n.val = false → s.get (.edge .LEG_STAT_HI) n.val = 0 → s.get (.edge .LEG_STAT_LO) n.val = 0 →
    ∃ t, exec (.diagGo w n) s = .next t ∧ t.resp = .ok ∧ t.get (.edge .FL_STAT_LSTATE) n.val = 6 ∧ t.get (.edge .FL_AWAIT) n.val = 7 ∧
      s.SameBut [.edge .FL_STAT_LSTATE, .edge .FL_AWAIT, .edge .FL_RETRY, .edge .FL_PAY, .edge .FL_AT, .edge .FL_DIAG_AT] t ∧ s.SameMem t ∧ s.SameQueue t) ∧
  (∀ (w : Who) (n : LinkIx) (s : State), s.reaches w (linkAddr n.val + 4) 4 → s.get (.edge .FL_STAT_LSTATE) n.val ≠ 5 →
    exec (.diagGo w n) s = .next ((s.set (.edge .FL_STAT_DIAG_REF) 1 n.val).answer .ok)) ∧
  (∀ (w : Who) (n : LinkIx) (s : State), s.laneFree n.val = true → s.reaches w (linkAddr n.val + 4) 8 → s.get (.edge .FL_STAT_LSTATE) n.val ∈ [5, 6] →
    ∃ t, exec (.telNow w n) s = .next t ∧ t.resp = .ok ∧ t.get (.edge .FL_AWAIT) n.val = 6 ∧
      t.sent = ⟨.lane, n.val, 6, 0⟩ :: s.sent ∧ s.SameBut [.edge .FL_AWAIT, .edge .FL_RETRY, .edge .FL_PAY, .edge .FL_AT] t ∧ s.SameMem t ∧
      s.SameQueue t) ∧
  (∀ (w : Who) (n : LinkIx) (k : Fin 4) (v : Word) (s : State), s.reaches w (linkAddr n.val + 0x20 + 4 * k.val) v.toNat →
    s.legEnabled n.val = false → s.get (.edge .FL_STAT_LSTATE) n.val ≠ 5 →
    exec (.profileSlotWrite w n k v) s = .next ((s.set (.edge .FL_PROF) v.toNat n.val k.val).answer .ok)) ∧
  (∀ (w : Who) (n : LinkIx) (k : Fin 4) (v : Word) (s : State), s.reaches w (linkAddr n.val + 0x20 + 4 * k.val) v.toNat →
    s.legEnabled n.val = true →
    exec (.profileSlotWrite w n k v) s = .next ((s.set (.edge .FL_STAT_CFG_BUSY) 1 n.val).answer .ok))

/-- A write of a modulator clock that an enabled channel selects is discarded with CLK_BUSY where it changes FREQ; an unused clock takes
the written FREQ (R287). Next states of their own effect: SDCLK_WRITE. -/
def Obligations.ModulatorClocks : Prop :=
  (∀ (w : Who) (k : Fin 4) (v : Word) (s : State), s.reaches w (snsBase + 0x10 + 4 * k.val) v.toNat → v.toNat % 4 ≠ s.get (.sns .SDCLK_FREQ) k.val →
    (List.range 24).any (fun c => s.flag (.sns .SD_CFG_EN) c && s.get (.sns .SD_CFG_CLKSEL) c == k.val) = true →
    ∃ t, exec (.sdclkWrite w k v) s = .next t ∧ t.resp = .ok ∧ t.get (.sns .SDCLK_CLK_BUSY) k.val = 1 ∧
      t.get (.sns .SDCLK_FREQ) k.val = s.get (.sns .SDCLK_FREQ) k.val ∧ s.SameBut [.sns .SDCLK_CLK_BUSY] t ∧ s.SameMem t ∧
      s.SameQueue t) ∧
  (∀ (w : Who) (k : Fin 4) (v : Word) (s : State), s.reaches w (snsBase + 0x10 + 4 * k.val) v.toNat →
    (List.range 24).any (fun c => s.flag (.sns .SD_CFG_EN) c && s.get (.sns .SD_CFG_CLKSEL) c == k.val) = false →
    ∃ t, exec (.sdclkWrite w k v) s = .next t ∧ t.resp = .ok ∧ t.get (.sns .SDCLK_FREQ) k.val = v.toNat % 4 ∧
      s.SameBut [.sns .SDCLK_CLK_BUSY, .sns .SDCLK_FREQ, .sns .SDCLK_AT] t ∧ s.SameMem t ∧ s.SameQueue t)

/-- Sigma-delta channels (R287, R289, R292 to R298): EN, DEC and trip settings that would break their rules are refused; the channel is
valid once its filter is full; results are taken every R clocks and sent; v_t outside the thresholds asserts the channel's source, v_t
inside them releases it; a stuck input is shown, trips where STUCK_TRIP asks it, and the channel refills when it has ended. Next states of
their own effect: SD_CFG_WRITE, SD_FILLED, SD_RESULT_TAKE, SD_RESULT_SEND, SD_TRIP_ASSERT, SD_TRIP_DEASSERT, SD_STUCK, SD_UNSTUCK. Where a
clause touches them it follows the model's choices of log entries 15, 29, 42, 83. -/
def Obligations.SigmaDelta : Prop :=
  (∀ (w : Who) (c : Fin 24) (v : Word) (s : State), s.reaches w (sdAddr c.val) v.toNat → s.get (.sns .SD_CFG_EN) c.val = 1 →
    (storeWord w (sdAddr c.val) v.toNat s).get (.sns .SD_CFG_DEC) c.val ≠ s.get (.sns .SD_CFG_DEC) c.val →
    exec (.sdCfgWrite w c v) s = .next ((discardWord w (sdAddr c.val) v.toNat (s.set (.sns .SD_STAT_CFG_BUSY) 1 c.val)).answer .ok)) ∧
  (∀ (w : Who) (c : Fin 24) (v : Word) (u s : State), s.reaches w (sdAddr c.val) v.toNat → s.get (.sns .SD_CFG_EN) c.val = 0 →
    u = storeWord w (sdAddr c.val) v.toNat s → u.get (.sns .SD_CFG_EN) c.val = 1 → u.get (.sns .SD_CFG_TRIP_EN) c.val = 1 →
    u.tripOk (u.get (.sns .SD_CFG_CLKSEL) c.val) (u.get (.sns .SD_CFG_TLEN) c.val) (u.get (.sns .SD_CFG_TCNTM1) c.val + 1) = false →
    exec (.sdCfgWrite w c v) s = .next ((discardWord w (sdAddr c.val) v.toNat (s.set (.sns .SD_STAT_TRIP_REF) 1 c.val)).answer .ok)) ∧
  (∀ (w : Who) (c : Fin 24) (v : Word) (u s : State), s.reaches w (sdAddr c.val) v.toNat → s.get (.sns .SD_CFG_EN) c.val = 0 →
    u = storeWord w (sdAddr c.val) v.toNat s → u.get (.sns .SD_CFG_EN) c.val = 1 → u.get (.sns .SD_CFG_TRIP_EN) c.val = 0 →
    ∃ t, exec (.sdCfgWrite w c v) s = .next t ∧ t.resp = .ok ∧ t.get (.sns .SD_STAT_VALID) c.val = 0 ∧
      t.get (.sns .SD_STAT_TRIP) c.val = 0 ∧ t.get (.sns .SD_CFG_EN) c.val = 1 ∧ t.get (.sns .SD_CFG_DEC) c.val = u.get (.sns .SD_CFG_DEC) c.val ∧
      s.SameMem t ∧ s.SameQueue t) ∧
  (∀ (c : Fin 24) (x : Bool × Bool) (b : Bool) (s : State), s.get (.sns .SD_CFG_EN) c.val = 1 → s.senseClocked = true →
    s.sdEdges c.val s.now = s.sdEdges c.val (s.get (.sns .SD_AT) c.val) + 1 → b = (if s.flag (.sns .SD_CFG_EDGE) c.val then x.2 else x.1) →
    s.get (.sns .SD_STAT_STUCK) c.val = 0 → s.get (.sns .SD_SAME) c.val < 63 → s.get (.sns .SD_NB) c.val < 2 ^ 32 - 1 →
    3 * (s.sdR c.val - 1) ≤ s.get (.sns .SD_NB) c.val →
    ∃ t, exec (.sdFilled c [x]) s = .next t ∧ t.get (.sns .SD_STAT_VALID) c.val = 1 ∧
      t.get (.sns .SD_BITS) c.val = (2 * s.get (.sns .SD_BITS) c.val + b.toNat) % 2 ^ 768 ∧ s.SameMem t ∧ s.SameQueue t) ∧
  (∀ (c : Fin 24) (x : Bool × Bool) (b : Bool) (s : State), s.get (.sns .SD_CFG_EN) c.val = 1 → s.senseClocked = true →
    s.sdEdges c.val s.now = s.sdEdges c.val (s.get (.sns .SD_AT) c.val) + 1 → b = (if s.flag (.sns .SD_CFG_EDGE) c.val then x.2 else x.1) →
    s.sdLive c.val = true → s.get (.sns .SD_SAME) c.val < 63 → s.get (.sns .SD_CFG_SYNC) c.val = 0 → s.get (.sns .SD_K) c.val < 65535 →
    s.sdR c.val ≤ s.get (.sns .SD_K) c.val + 1 →
    ∃ t, exec (.sdResultTake c [x]) s = .next t ∧ t.get (.sns .SD_K) c.val = 0 ∧
      t.get (.sns .SD_BITS) c.val = (2 * s.get (.sns .SD_BITS) c.val + b.toNat) % 2 ^ 768 ∧
      (if s.get (.sns .SD_PROC) c.val = 0 then t.get (.sns .SD_PROC) c.val = 1 ∧ t.get (.sns .SD_SUM) c.val = t.sdSum c.val % 2 ^ 26
      else if s.get (.sns .SD_WAIT) c.val = 0 then t.get (.sns .SD_WAIT) c.val = 1 ∧ t.get (.sns .SD_SUM2) c.val = t.sdSum c.val % 2 ^ 26 ∧
        t.get (.sns .SD_SUM) c.val = s.get (.sns .SD_SUM) c.val
      else t.get (.sns .SD_STAT_EVT_LOST) c.val = 1 ∧ t.get (.sns .SD_SUM) c.val = s.get (.sns .SD_SUM) c.val ∧
        t.get (.sns .SD_SUM2) c.val = s.get (.sns .SD_SUM2) c.val) ∧ s.SameMem t ∧ s.SameQueue t) ∧
  (∀ (c : Fin 24) (s : State), s.get (.sns .SD_PROC) c.val = 1 → s.sdLive c.val = true → s.get (.sns .SD_WAIT) c.val = 0 →
    ∃ t, exec (.sdResultSend c) s = .next t ∧
      t.get (.sns .SD_STAT_LAST) c.val = ofSigned 16 (s.sdResult c.val (s.get (.sns .SD_SUM) c.val)).1 ∧
      t.get (.sns .SD_PROC) c.val = 0 ∧ s.SameBut [.sns .SD_STAT_LAST, .sns .SD_STAT_SAT, .sns .SD_PROC, .loop .SRC_SEQ] t ∧ s.SameMem t ∧ s.SameQueue t) ∧
  (∀ (c : Fin 24) (x : Bool × Bool) (b : Bool) (u : State) (s : State), s.get (.sns .SD_CFG_EN) c.val = 1 → s.senseClocked = true →
    s.sdEdges c.val s.now = s.sdEdges c.val (s.get (.sns .SD_AT) c.val) + 1 → b = (if s.flag (.sns .SD_CFG_EDGE) c.val then x.2 else x.1) →
    u = s.set (.sns .SD_BITS) (2 * s.get (.sns .SD_BITS) c.val + b.toNat) c.val →
    s.get (.sns .SD_CFG_TRIP_EN) c.val = 1 → s.get (.sns .SD_NB) c.val < 2 ^ 32 - 1 → 2 * s.sdL c.val - 2 ≤ s.get (.sns .SD_NB) c.val →
    (s.sget (.sns .SD_TRIP_THR_HI) c.val < u.tripValue c.val ∨ u.tripValue c.val < s.sget (.sns .SD_TRIP_THR_LO) c.val) →
    s.get (.sns .SD_CFG_TCNTM1) c.val ≤ s.get (.sns .SD_OUTN) c.val → s.get (.sns .SD_OUTN) c.val < 65535 → s.get (.sns .SD_STAT_TRIP) c.val = 0 →
    ∃ t, exec (.sdTripAssert c [x]) s = .next t ∧ t.get (.sns .SD_STAT_TRIP) c.val = 1 ∧
      t.get (.grd .SRC_ACT) (24 + c.val) = 1 ∧ t.srcLatched (24 + c.val) = true ∧
      (∀ g < 16, (s.get (.grd .ROUTE) (24 + c.val)).testBit g = true → t.Forced g) ∧ s.SameMem t ∧ s.SameQueue t) ∧
  (∀ (c : Fin 24) (x : Bool × Bool) (b : Bool) (u : State) (s : State), s.get (.sns .SD_CFG_EN) c.val = 1 → s.senseClocked = true →
    s.sdEdges c.val s.now = s.sdEdges c.val (s.get (.sns .SD_AT) c.val) + 1 → b = (if s.flag (.sns .SD_CFG_EDGE) c.val then x.2 else x.1) →
    u = s.set (.sns .SD_BITS) (2 * s.get (.sns .SD_BITS) c.val + b.toNat) c.val →
    s.get (.sns .SD_CFG_TRIP_EN) c.val = 1 → s.get (.sns .SD_NB) c.val < 2 ^ 32 - 1 → 2 * s.sdL c.val - 2 ≤ s.get (.sns .SD_NB) c.val →
    s.sget (.sns .SD_TRIP_THR_LO) c.val ≤ u.tripValue c.val → u.tripValue c.val ≤ s.sget (.sns .SD_TRIP_THR_HI) c.val →
    15 ≤ s.get (.sns .SD_INN) c.val → s.get (.sns .SD_STAT_TRIP) c.val = 1 → s.get (.sns .SD_STAT_STUCK) c.val = 0 →
    s.get (.sns .SD_SAME) c.val < 63 →
    ∃ t, exec (.sdTripDeassert c [x]) s = .next t ∧ t.get (.sns .SD_VT) c.val = 0 ∧ t.get (.sns .SD_STAT_TRIP) c.val = 0 ∧
      t.get (.grd .SRC_ACT) (24 + c.val) = 0 ∧ t.get (.grd .SRC_LATCH) = s.get (.grd .SRC_LATCH) ∧ s.SameMem t ∧ s.SameQueue t) ∧
  (∀ (c : Fin 24) (x : Bool × Bool) (b : Bool) (s : State), s.get (.sns .SD_CFG_EN) c.val = 1 → s.senseClocked = true →
    s.sdEdges c.val s.now = s.sdEdges c.val (s.get (.sns .SD_AT) c.val) + 1 → b = (if s.flag (.sns .SD_CFG_EDGE) c.val then x.2 else x.1) →
    b = s.flag (.sns .SD_PIN) c.val → 63 ≤ s.get (.sns .SD_SAME) c.val → s.get (.sns .SD_STAT_STUCK) c.val = 0 →
    s.get (.sns .SD_CFG_STUCK_TRIP) c.val = 1 → s.get (.sns .SD_STAT_TRIP) c.val = 0 →
    ∃ t, exec (.sdStuck c [x]) s = .next t ∧ t.get (.sns .SD_STAT_STUCK) c.val = 1 ∧ t.get (.sns .SD_STAT_STUCK_SEEN) c.val = 1 ∧
      t.get (.sns .SD_STAT_TRIP) c.val = 1 ∧ (∀ g < 16, (s.get (.grd .ROUTE) (24 + c.val)).testBit g = true → t.Forced g) ∧
      s.SameMem t ∧ s.SameQueue t) ∧
  (∀ (c : Fin 24) (x : Bool × Bool) (b : Bool) (s : State), s.get (.sns .SD_CFG_EN) c.val = 1 → s.senseClocked = true →
    s.sdEdges c.val s.now = s.sdEdges c.val (s.get (.sns .SD_AT) c.val) + 1 → b = (if s.flag (.sns .SD_CFG_EDGE) c.val then x.2 else x.1) →
    s.get (.sns .SD_STAT_STUCK) c.val = 1 → (b ≠ s.flag (.sns .SD_PIN) c.val ∨ s.get (.sns .SD_SAME) c.val < 7) →
    s.get (.sns .SD_RUN) c.val = 63 → s.get (.sns .SD_CFG_TRIP_EN) c.val = 0 → s.get (.sns .SD_VT) c.val = 0 →
    s.get (.sns .SD_STAT_TRIP) c.val = 0 →
    ∃ t, exec (.sdUnstuck c [x]) s = .next t ∧ t.get (.sns .SD_STAT_STUCK) c.val = 0 ∧ t.get (.sns .SD_STAT_VALID) c.val = 0 ∧
      t.get (.sns .SD_STAT_TRIP) c.val = 0 ∧ t.get (.grd .SRC_ACT) (24 + c.val) = s.get (.grd .SRC_ACT) (24 + c.val) ∧
      s.SameMem t ∧ s.SameQueue t)

/-- Fast converters and resolvers (R299 to R309): a trigger converts, waits or is lost; a result is scaled and the waiting trigger
follows; a resolver is enabled only in its frequency range and owns its converters; a good sample of a valid resolver gives the angle's
sine and cosine; an excitation fault ends validity and lock. Next states of their own effect: FC_TRIGGER, FC_CONVERSION_COMPLETE,
FC_SETTLED, RESOLVER_ENABLE, RESOLVER_SAMPLE, RESOLVER_VALID, EXC_FAULT. Where a clause touches them it follows the model's choices of log
entries 1, 15, 29, 43. -/
def Obligations.FastAndResolver : Prop :=
  (∀ (c : Fin 8) (s : State), s.senseClocked = true → s.get (.sns .FC_EVT_AT) c.val ≠ 0 → s.get (.sns .FC_EVT_AT) c.val ≤ s.now + 1 →
    s.now ≤ s.get (.sns .FC_EVT_AT) c.val + 63 → s.get (.sns .FC_STAT_RES_OWNED) c.val = 0 → s.get (.sns .FC_CFG_EN) c.val = 1 →
    s.get (.sns .FC_STAT_VALID) c.val = 1 →
    exec (.fcTrigger c none) s = .next (if s.get (.sns .FC_STAT_BUSY) c.val = 0 then (((s.set (.sns .FC_EVT_AT) 0 c.val).set
        (.sns .FC_STAT_BUSY) 1 c.val).set (.sns .FC_AT) s.now c.val).set (.sns .FC_AVGN) (s.get (.sns .FC_CFG_AVG) c.val) c.val
      else if s.get (.sns .FC_STAT_PEND) c.val = 0 then (s.set (.sns .FC_EVT_AT) 0 c.val).set (.sns .FC_STAT_PEND) 1 c.val
      else (s.set (.sns .FC_EVT_AT) 0 c.val).set (.sns .FC_STAT_TRIG_LOST) 1 c.val)) ∧
  (∀ (w : Who) (c : Fin 8) (v : Word) (u : State) (s : State), s.reaches w (fcAddr c.val) (v.toNat ||| 0x200) →
    u = fcCfgWrite w c.val v.toNat s → u.get (.sns .FC_STAT_RES_OWNED) c.val = 0 → u.get (.sns .FC_CFG_EN) c.val = 1 →
    u.get (.sns .FC_STAT_VALID) c.val = 1 → u.get (.sns .FC_STAT_BUSY) c.val = 0 →
    ∃ t, exec (.fcTrigger c (some (w, v))) s = .next t ∧ t.resp = .ok ∧ t.get (.sns .FC_STAT_BUSY) c.val = 1 ∧
      t.get (.sns .FC_AT) c.val = s.now % 2 ^ 64 ∧ s.SameMem t ∧ s.SameQueue t) ∧
  (∀ (c : Fin 8) (codes : BitVec 112) (m : Nat) (s : State), s.senseClocked = true → s.get (.sns .FC_STAT_BUSY) c.val = 1 →
    s.get (.sns .FC_STAT_PEND) c.val = 0 → s.get (.sns .FC_AT) c.val + 640 * 2 ^ s.get (.sns .FC_AVGN) c.val ≤ s.now →
    m * 2 ^ s.get (.sns .FC_AVGN) c.val = ((List.range (2 ^ s.get (.sns .FC_AVGN) c.val)).map (fun i => bits codes.toNat (14 * i) 14)).sum →
    ∃ t, exec (.fcConversionComplete c codes) s = .next t ∧ t.get (.sns .FC_STAT_BUSY) c.val = 0 ∧
      t.get (.sns .FC_STAT_LAST) c.val =
        ofSigned 16 (satS 16 ((2 * (m : Int) - s.sget (.sns .FC_CAL_OFFS) c.val) * s.get (.sns .FC_CAL_GAIN) c.val / 16384)) ∧
      s.SameBut [.sns .FC_STAT_BUSY, .sns .FC_STAT_LAST, .sns .FC_STAT_SAT, .loop .SRC_SEQ] t ∧ s.SameMem t ∧ s.SameQueue t) ∧
  (∀ (c : Fin 8) (s : State), s.get (.sns .FC_CFG_EN) c.val = 1 → s.senseClocked = true → s.get (.sns .FC_EN_AT) c.val + us 10 ≤ s.now → exec (.fcSettled c) s = .next (s.set (.sns .FC_STAT_VALID) 1 c.val)) ∧
  (∀ (w : Who) (r : Fin 2) (v : Word) (u s : State), s.reaches w (resAddr r.val) (v.toNat ||| 1) → s.get (.sns .RES_CFG_EN) r.val = 0 →
    u = storeWord w (resAddr r.val) (v.toNat ||| 1) s → u.excOk r.val = true →
    ∃ t, exec (.resolverEnable w r v) s = .next t ∧ t.resp = .ok ∧ t.get (.sns .RES_CFG_EN) r.val = 1 ∧ t.get (.sns .RES_STAT_VALID) r.val = 0 ∧
      t.get (.sns .FC_STAT_RES_OWNED) (4 + 2 * r.val) = 1 ∧ t.get (.sns .FC_STAT_RES_OWNED) (5 + 2 * r.val) = 1 ∧ s.SameMem t ∧
      s.SameQueue t) ∧
  (∀ (w : Who) (r : Fin 2) (v : Word) (u s : State), s.reaches w (resAddr r.val) (v.toNat ||| 1) → s.get (.sns .RES_CFG_EN) r.val = 0 →
    u = storeWord w (resAddr r.val) (v.toNat ||| 1) s → u.excOk r.val = false →
    exec (.resolverEnable w r v) s = .next (((u.set (.sns .RES_CFG_EN) 0 r.val).set (.sns .RES_STAT_FREQ_ERR) 1 r.val).answer .ok)) ∧
  (∀ (r : Fin 2) (a b : BitVec 14) (x y : Int) (q : Nat) (s : State), s.senseClocked = true → s.excAt r.val (49152 + s.get (.sns .RES_CFG_PCOMP) r.val) = false → s.excAt r.val (16384 + s.get (.sns .RES_CFG_PCOMP) r.val) = true →
    s.get (.sns .RES_CFG_EN) r.val = 1 → s.get (.sns .RES_OFF) r.val = 0 →
    s.fcResult (4 + 2 * r.val) a.toNat = (x, false) → s.fcResult (5 + 2 * r.val) b.toNat = (y, false) →
    (q * q : Int) = x * x + y * y → q < 65536 → s.get (.sns .RES_MAG_LOS_THR) r.val ≤ q → q ≤ s.get (.sns .RES_MAG_MAX_THR) r.val →
    s.get (.sns .RES_STAT_VALID) r.val = 1 → s.get (.sns .RES_STAT_LOS) r.val = 0 → s.get (.sns .RES_STAT_OVA) r.val = 0 →
    ∃ t, exec (.resolverSample r a b) s = .next t ∧ t.get (.sns .RES_STAT_MAG) r.val = q ∧
      t.get (.sns .RES_SIN) r.val = ofSigned 16 x ∧ t.get (.sns .RES_COS) r.val = ofSigned 16 y ∧
      s.SameBut [.sns .RES_STAT_MAG, .sns .RES_SIN, .sns .RES_COS, .sns .RES_NLO, .sns .RES_NHI, .loop .SRC_SEQ] t ∧ s.SameMem t ∧ s.SameQueue t) ∧
  (∀ (r : Fin 2) (a b : BitVec 14) (x y : Int) (q : Nat) (s : State), s.senseClocked = true → s.excAt r.val (49152 + s.get (.sns .RES_CFG_PCOMP) r.val) = true →
    s.get (.sns .RES_CFG_EN) r.val = 1 → s.get (.sns .RES_OFF) r.val = 0 →
    s.fcResult (4 + 2 * r.val) a.toNat = (-x, false) → s.fcResult (5 + 2 * r.val) b.toNat = (-y, false) →
    (q * q : Int) = satS 16 x * satS 16 x + satS 16 y * satS 16 y → q < 65536 → s.get (.sns .RES_MAG_LOS_THR) r.val ≤ q → q ≤ s.get (.sns .RES_MAG_MAX_THR) r.val →
    s.get (.sns .RES_STAT_VALID) r.val = 1 → s.get (.sns .RES_STAT_LOS) r.val = 0 → s.get (.sns .RES_STAT_OVA) r.val = 0 →
    ∃ t, exec (.resolverSample r a b) s = .next t ∧ t.get (.sns .RES_STAT_MAG) r.val = q ∧
      t.get (.sns .RES_SIN) r.val = ofSigned 16 (satS 16 x) ∧ t.get (.sns .RES_COS) r.val = ofSigned 16 (satS 16 y) ∧
      s.SameBut [.sns .RES_STAT_MAG, .sns .RES_SIN, .sns .RES_COS, .sns .RES_NLO, .sns .RES_NHI, .loop .SRC_SEQ] t ∧ s.SameMem t ∧ s.SameQueue t) ∧
  (∀ (r : Fin 2) (s : State), s.get (.sns .RES_CFG_EN) r.val = 1 → s.senseClocked = true → (s.get (.sns .RES_CFG_FREE) r.val = 1 ∨ s.get (.sns .RES_STAT_LOCKED) r.val = 1) →
    s.get (.sns .RES_V_AT) r.val * (s.excPeriod r.val).2 + 4 * (s.excPeriod r.val).1 ≤ s.now * (s.excPeriod r.val).2 → s.get (.sns .RES_OFF) r.val = 0 →
    exec (.resolverValid r) s = .next (s.set (.sns .RES_STAT_VALID) 1 r.val)) ∧
  (∀ (r : Fin 2) (s : State), s.get (.sns .RES_CFG_EN) r.val = 1 → s.senseClocked = true →
    exec (.excFault r) s = .next ((((s.set (.sns .RES_STAT_EXC_FAULT) 1 r.val).set (.sns .RES_OFF) 1 r.val).set (.sns .RES_STAT_VALID) 0
      r.val).set (.sns .RES_STAT_LOCKED) 0 r.val))

/-- Housekeeping (R310 to R314, R389): a conversion accumulates until its channel's Nth, whose average is shown and sent; an urgent one
waits for the conversion in progress; a read of the result clears NEW; a set-point selection that has held becomes CODE. Next states of
their own effect: HK_CONVERSION_COMPLETE, HK_URGENT_REQUEST, HK_DATA_READ, VSEL_DEBOUNCE. Where a clause touches them it follows the
model's choices of log entry 15. -/
def Obligations.Housekeeping : Prop :=
  (∀ (code : BitVec 12) (c : Nat) (s : State), s.get (.sns .HK_STAT_BUSY) = 1 →
    s.get (.sns .HK_AT) + us (if s.flag (.sns .HK_STAT_LP_ACTIVE) then 16 else 1) ≤ s.now → s.get (.sns .HK_CURI) = 0 → s.get (.sns .HK_CUR) = c →
    c < 32 → s.get (.sns .HK_N) c + 1 ≤ s.get (.sns .HK_CH_NM1) c → s.flag (.sns .HK_CTRL_LP) = s.flag (.sns .HK_STAT_LP_ACTIVE) →
    ∃ t, exec (.hkConversionComplete code) s = .next t ∧ t.get (.sns .HK_SUM) c = (s.get (.sns .HK_SUM) c + code.toNat) % 2 ^ 20 ∧
      t.get (.sns .HK_N) c = (s.get (.sns .HK_N) c + 1) % 2 ^ 9 ∧ t.get (.sns .HK_DATA_VALUE) = s.get (.sns .HK_DATA_VALUE) ∧
      s.SameMem t ∧ s.SameQueue t) ∧
  (∀ (code : BitVec 12) (s : State), s.get (.sns .HK_STAT_BUSY) = 1 →
    s.get (.sns .HK_AT) + us (if s.flag (.sns .HK_STAT_LP_ACTIVE) then 16 else 1) ≤ s.now → s.get (.sns .HK_CURI) = 1 → s.get (.sns .HK_DATA_NEW) = 0 →
    s.get (.sns .HK_CUR) < 32 → s.flag (.sns .HK_CTRL_LP) = s.flag (.sns .HK_STAT_LP_ACTIVE) →
    ∃ t, exec (.hkConversionComplete code) s = .next t ∧ t.get (.sns .HK_DATA_VALUE) = code.toNat ∧
      t.get (.sns .HK_DATA_CHAN) = s.get (.sns .HK_CUR) ∧ t.get (.sns .HK_DATA_INJ) = 1 ∧ t.get (.sns .HK_DATA_NEW) = 1 ∧
      (∀ c, t.get (.sns .HK_SUM) c = s.get (.sns .HK_SUM) c) ∧ s.SameMem t ∧ s.SameQueue t) ∧
  (∀ (w : Who) (v : Word) (s : State), s.reaches w (snsBase + 0x608) (v.toNat ||| 0x20) → s.get (.sns .HK_STAT_INJ_PEND) = 0 →
    s.get (.sns .HK_STAT_BUSY) = 1 →
    exec (.hkUrgentRequest w v) s = .next (((s.set (.sns .HK_INJ_CHAN) (v.toNat % 32)).set (.sns .HK_STAT_INJ_PEND) 1).answer .ok)) ∧
  (∀ (w : Who) (v : Word) (s : State), s.reaches w (snsBase + 0x608) (v.toNat ||| 0x20) → s.get (.sns .HK_STAT_INJ_PEND) = 1 →
    exec (.hkUrgentRequest w v) s = .next ((s.set (.sns .HK_STAT_INJ_LOST) 1).answer .ok)) ∧
  (∀ (w : Who) (s : State), s.readable w (snsBase + 0x604) →
    exec (.hkDataRead w) s = .next ((s.answer (.data (s.readReg (snsBase + 0x604)))).set (.sns .HK_DATA_NEW) 0)) ∧
  (∀ (raw : BitVec 3) (s : State), s.senseClocked = true → s.get (.sns .VSEL_RAW) = raw.toNat →
    s.get (.sns .VSEL_AT) + us (1000 * max 1 (s.get (.sns .VSEL_DEB))) ≤ s.now → s.get (.sns .VSEL_CODE) ≠ raw.toNat →
    exec (.vselDebounce raw) s = .next (((s.set (.sns .VSEL_VALID) 1).set (.sns .VSEL_CODE) raw.toNat).set (.sns .VSEL_CHG) 1)) ∧
  (∀ (raw : BitVec 3) (s : State), s.senseClocked = true → s.get (.sns .VSEL_RAW) ≠ raw.toNat →
    exec (.vselDebounce raw) s = .next ((s.set (.sns .VSEL_RAW) raw.toNat).set (.sns .VSEL_AT) s.now))

/-- Traction currents and trims (R249, R250, R325, R326, R345, R346): without a crossover threshold nothing is selected; a stale estimate
selects the high band; shared currents and W temperatures move the trims of a pair in opposite directions within their bounds; OMIN goes
to the torque request and speed slots at most every 10 ms. Next states of their own effect: BAND_EVALUATION, CURRENT_SHARING,
W_PHASE_TRIM, OMIN_UPDATE. Where a clause touches them it follows the model's choices of log entries 44, 45, 84. -/
def Obligations.TractionTrims : Prop :=
  (∀ s : State, s.get (.loop .CHART_STAT_LOADED) = 1 → s.get (.saf .XOVER_XOVER) 0 = 0 → s.get (.saf .XOVER_XOVER) 1 = 0 → exec .bandEvaluation s = .next s) ∧
  (∀ s : State, s.get (.loop .CHART_STAT_LOADED) = 1 → s.get (.saf .XOVER_XOVER) 0 ≠ 0 → s.get (.saf .XOVER_XOVER) 1 = 0 →
    s.estimateValid (s.get (.saf .SPDSRC_ENG_RES) 0) (s.get (.saf .SPDSRC_SLOT_RES) 0) = false →
    ∃ t, exec .bandEvaluation s = .next t ∧ t.get (.saf .SPDSRC_STALE) 0 = 1 ∧ t.get (.saf .SPDSRC_VALID_RES) 0 = 0 ∧
      t.get (.grd .BAND) = (s.get (.grd .BAND) ||| s.get (.saf .XOVER_GRPS) 0) % 65536 ∧
      (∀ g, t.get (.grd .OG_LATCH) = s.get (.grd .OG_LATCH) ∧ t.get (.grd .OG_STAT_CAUSE) g = s.get (.grd .OG_STAT_CAUSE) g) ∧ s.SameMem t ∧
      s.SameQueue t) ∧
  (∀ (s : State), s.get (.loop .CHART_STAT_LOADED) = 0 →
    ∃ t, exec .bandEvaluation s = .next t ∧ t.get (.grd .BAND) = 0xFFFF ∧ t.get (.grd .OG_LATCH) = s.get (.grd .OG_LATCH) ∧
      s.SameMem t ∧ s.SameQueue t) ∧
  (∀ (m : Fin 2) (s : State), s.get (.drv .TR_SHARE_AT) m.val + us 10000 ≤ s.now →
    200 * s.get (.drv .TR_ABS) (4 * m.val + 0) ≤ 102 * (s.get (.drv .TR_ABS) (4 * m.val + 0) + s.get (.drv .TR_ABS) (4 * m.val + 1)) →
    200 * s.get (.drv .TR_ABS) (4 * m.val + 1) ≤ 102 * (s.get (.drv .TR_ABS) (4 * m.val + 0) + s.get (.drv .TR_ABS) (4 * m.val + 1)) →
    200 * s.get (.drv .TR_ABS) (4 * m.val + 2) ≤ 102 * (s.get (.drv .TR_ABS) (4 * m.val + 2) + s.get (.drv .TR_ABS) (4 * m.val + 3)) →
    200 * s.get (.drv .TR_ABS) (4 * m.val + 3) ≤ 102 * (s.get (.drv .TR_ABS) (4 * m.val + 2) + s.get (.drv .TR_ABS) (4 * m.val + 3)) →
    ∃ t, exec (.currentSharing m) s = .next t ∧ t.get (.drv .TR_SHARE_AT) m.val = s.now % 2 ^ 64 ∧
      s.SameBut [.drv .TR_ABS, .drv .TR_SHARE_AT] t ∧ s.SameMem t ∧ s.SameQueue t) ∧
  (∀ (m : Fin 2) (s : State), s.get (.drv .TR_SHARE_AT) m.val + us 10000 ≤ s.now →
    102 * (s.get (.drv .TR_ABS) (4 * m.val + 0) + s.get (.drv .TR_ABS) (4 * m.val + 1)) < 200 * s.get (.drv .TR_ABS) (4 * m.val + 0) →
    200 * s.get (.drv .TR_ABS) (4 * m.val + 2) ≤ 102 * (s.get (.drv .TR_ABS) (4 * m.val + 2) + s.get (.drv .TR_ABS) (4 * m.val + 3)) →
    200 * s.get (.drv .TR_ABS) (4 * m.val + 3) ≤ 102 * (s.get (.drv .TR_ABS) (4 * m.val + 2) + s.get (.drv .TR_ABS) (4 * m.val + 3)) →
    ∃ t, exec (.currentSharing m) s = .next t ∧
      t.sget (.edge .LEG_TRIM) (6 * m.val) = clampI (-128) 128 (s.sget (.edge .LEG_TRIM) (6 * m.val) + 1) ∧
      t.sget (.edge .LEG_TRIM) (6 * m.val + 1) = clampI (-128) 128 (s.sget (.edge .LEG_TRIM) (6 * m.val + 1) - 1) ∧
      (∀ n, n ≠ 6 * m.val → n ≠ 6 * m.val + 1 → t.get (.edge .LEG_TRIM) n = s.get (.edge .LEG_TRIM) n) ∧
      t.get (.drv .TR_ABS) (4 * m.val) = 0 ∧ s.SameBut [.edge .LEG_TRIM, .drv .TR_ABS, .drv .TR_SHARE_AT] t ∧ s.SameMem t ∧ s.SameQueue t) ∧
  (∀ (m : Fin 2) (s : State), s.now < s.get (.drv .TR_SHARE_AT) m.val + us 10000 → exec (.currentSharing m) s = .next s) ∧
  (∀ (m : Fin 2) (w1 w2 : Half) (s : State), (toSigned 16 w1.toNat - toSigned 16 w2.toNat).natAbs ≤ 192 →
    exec (.wPhaseTrim m w1 w2) s = .next s) ∧
  (∀ (m : Fin 2) (w1 w2 : Half) (s : State), 192 < toSigned 16 w1.toNat - toSigned 16 w2.toNat →
    ∃ t, exec (.wPhaseTrim m w1 w2) s = .next t ∧
      t.sget (.edge .LEG_TRIM) (6 * m.val + 4) = clampI (-32) 32 (s.sget (.edge .LEG_TRIM) (6 * m.val + 4) + 1) ∧
      t.sget (.edge .LEG_TRIM) (6 * m.val + 5) = clampI (-32) 32 (s.sget (.edge .LEG_TRIM) (6 * m.val + 5) - 1) ∧
      (∀ n, n ≠ 6 * m.val + 4 → n ≠ 6 * m.val + 5 → t.get (.edge .LEG_TRIM) n = s.get (.edge .LEG_TRIM) n) ∧ s.SameBut [.edge .LEG_TRIM] t ∧
      s.SameMem t ∧ s.SameQueue t) ∧
  (∀ (m : Fin 2) (v : Half) (s : State), s.now < s.get (.drv .TR_OMIN_AT) m.val → exec (.ominUpdate m v) s = .next s) ∧
  (∀ (m : Fin 2) (v : Half) (s : State), s.get (.drv .TR_OMIN_AT) m.val ≤ s.now →
    toSigned 16 v.toNat ≤ s.sget (.loop .LS_LIMIT_OMAX) (2 * m.val + 1) 1 → toSigned 16 v.toNat ≤ s.sget (.loop .LS_LIMIT_OMAX) (2 * m.val + 1) 2 →
    ∃ t, exec (.ominUpdate m v) s = .next t ∧ t.get (.loop .LS_LIMIT_OMIN) (2 * m.val + 1) 1 = v.toNat ∧
      t.get (.loop .LS_LIMIT_OMIN) (2 * m.val + 1) 2 = v.toNat ∧ t.get (.drv .TR_OMIN_AT) m.val = (s.now + us 10000) % 2 ^ 64 ∧
      s.SameMem t ∧ s.SameQueue t)

/-- Commands, limp home and the wear account (R340, R341, R343, R348, R350, R351, R353): a command at or above the upper threshold
engages, one below the lower one disengages and asks no torque; limp home follows 100 ms without a host command in DRIVE where it is
enabled; the first junction temperature is the first turning point; the damage ratio is 0 before 100 km; a snapshot goes to the older
record; the status block begins with axle time and is 128 bytes long. Next states of their own effect: COMMAND_CURVE_EVAL,
LIMP_HOME_ENTRY, JUNCTION_REPORT, DAMAGE_RATE_EVAL, WEAR_SNAPSHOT, TRACTION_STATUS_WRITE. Where a clause touches them it follows the
model's choices of log entries 43, 45, 46, 66, 69, 87. -/
def Obligations.TractionAccount : Prop :=
  (∀ (m : Fin 2)  (s : State), s.get (.drv .TR_LIMP) m.val = 0 → s.recN m.val 0x0E 2 ≤ s.get (.drv .TR_CMD) m.val →
    ∃ t, exec (.commandCurveEval m) s = .next t ∧ t.get (.drv .TR_ENG) m.val = 1 ∧
      s.SameBut [.drv .TR_FLAGS, .drv .TR_ENG, .drv .TR_SENSE, .drv .TR_SPD, .drv .TR_TQ, .drv .GB_TQ, .drv .GB_EQ, .drv .GB_OPP_AT, .drv .GB_LASTP,
        .drv .GB_OK_AT] t ∧ s.SameMem t ∧ s.SameQueue t) ∧
  (∀ (m : Fin 2)  (s : State), s.get (.drv .TR_LIMP) m.val = 0 → s.get (.drv .TR_CMD) m.val < s.recN m.val 0x10 2 →
    s.recN m.val 0x10 2 ≤ s.recN m.val 0x0E 2 → (s.gb 1 1).testBit m.val = false →
    ∃ t, exec (.commandCurveEval m) s = .next t ∧ t.get (.drv .TR_ENG) m.val = 0 ∧ t.get (.drv .TR_TQ) m.val = 0 ∧
      s.SameBut [.drv .TR_FLAGS, .drv .TR_ENG, .drv .TR_SENSE, .drv .TR_SPD, .drv .TR_TQ, .drv .GB_OPP_AT, .drv .GB_LASTP,
        .drv .GB_OK_AT] t ∧ s.SameMem t ∧ s.SameQueue t) ∧
  (∀ (m : Fin 2) (s : State), (s.recN m.val 3 1).testBit 0 = true → s.get (.saf .AXLE_MODE_MODE) = 2 →
    s.get (.drv .TR_CMD_AT) m.val + us 100000 ≤ s.now → exec (.limpHomeEntry m) s = .next (s.set (.drv .TR_LIMP) 1 m.val)) ∧
  (∀ (m : Fin 2) (s : State), (s.recN m.val 3 1).testBit 0 = false → exec (.limpHomeEntry m) s = .next s) ∧
  (∀ (m : Fin 2) (x : Fin 6) (v : Half) (s : State),
    (s.get (.loop .LS_PM_STAT_LOOP_UNPRIMED) (2 * m.val + 1) 7 = 1 ∨ s.get (.loop .LS_PM_STAT_HOLDING) (2 * m.val + 1) 7 = 1) →
    exec (.junctionReport m x v) s = .next s) ∧
  (∀ (m : Fin 2) (x : Fin 6) (v : Half) (s : State), s.get (.loop .LS_PM_STAT_LOOP_UNPRIMED) (2 * m.val + 1) 7 = 0 →
    s.get (.loop .LS_PM_STAT_HOLDING) (2 * m.val + 1) 7 = 0 → s.get (.drv .TR_RESN) (6 * m.val + x.val) = 0 →
    ∃ t, exec (.junctionReport m x v) s = .next t ∧ t.get (.drv .TR_RESN) (6 * m.val + x.val) = 1 ∧
      t.get (.drv .TR_RES) (6 * m.val + x.val) 0 = v.toNat ∧ s.SameBut [.drv .TR_RES, .drv .TR_RESN] t ∧ s.SameMem t ∧ s.SameQueue t) ∧
  (∀ (m : Fin 2) (s : State), s.get (.drv .TR_KM0) m.val = 0 →
    ∃ t, exec (.damageRateEval m) s = .next t ∧ t.get (.drv .TR_RHO) m.val = 0 ∧
      s.SameBut [.drv .TR_RHO, .drv .TR_KMD, .drv .TR_KML] t ∧ s.SameMem t ∧ s.SameQueue t) ∧
  (∀ (m : Fin 2) (u : State) (q : Nat) (s : State), u = holdDistance m.val s → s.get (.drv .TR_KM0) m.val ≠ 0 →
    s.get (.drv .TR_KM0) m.val + 100 ≤ u.get (.drv .TR_KML) m.val + 1 →
    (s.maxDamage m.val - u.get (.drv .TR_KMD) m.val ((u.get (.drv .TR_KML) m.val - 100) % 128)) * s.recN m.val 0xAC 4 * 32768 =
      q * (2 ^ 48 * 200) →
    ∃ t, exec (.damageRateEval m) s = .next t ∧ t.get (.drv .TR_RHO) m.val = min q 0x7FFF ∧
      s.SameBut [.drv .TR_RHO, .drv .TR_KMD, .drv .TR_KML] t ∧ s.SameMem t ∧ s.SameQueue t) ∧
  (∀ s : State,
    ∃ t, exec .wearSnapshot s = .next t ∧ t.get (.drv .TR_SNAPQ) = (s.get (.drv .TR_SNAPQ) + 1) % 2 ^ 32 ∧
      t.get (.drv .TR_SNAPAT) ((s.get (.drv .TR_SNAPQ) + 1) % 2) = s.now % 2 ^ 64 ∧
      (∀ x < 12, t.get (.drv .TR_SNAPD) (12 * ((s.get (.drv .TR_SNAPQ) + 1) % 2) + x) = s.get (.drv .TR_D) x % 2 ^ 64 ∧
        t.get (.drv .TR_SNAPD) (12 * (s.get (.drv .TR_SNAPQ) % 2) + x) = s.get (.drv .TR_SNAPD) (12 * (s.get (.drv .TR_SNAPQ) % 2) + x)) ∧
      s.SameBut [.drv .TR_SNAPQ, .drv .TR_SNAPD, .drv .TR_SNAPN, .drv .TR_SNAPR, .drv .TR_SNAPAT, .drv .TR_KM0,
        .drv .TR_KML, .drv .TR_KMD] t ∧ s.SameMem t ∧ s.SameQueue t) ∧
  (∀ (m : Fin 2) (s : State),
    ∃ t, exec (.tractionStatusWrite m) s = .next t ∧ t.readN (0x1800002000 + 0x80 * m.val) 8 = s.axleTime ∧
      t.readN (0x1800002000 + 0x80 * m.val + 8) 1 = s.get (.drv .TR_POS) m.val % 256 ∧
      t.readN (0x1800002000 + 0x80 * m.val + 9) 1 = s.get (.drv .TR_BAND) m.val % 256 ∧
      (∀ a, a < 0x1800002000 + 0x80 * m.val ∨ 0x1800002080 + 0x80 * m.val ≤ a → t.byte a = s.byte a) ∧ s.SameBut [] t ∧ s.SameQueue t)

/-- The states of the converters (R366, R376, R378, R379, R383 to R387, R390, R391, R394, R397, R404): OMAX moves at most once per
millisecond and in RUN is the effective limit; the contactor's report ends CLOSE; HIC_N limited frames enter HICCUP and the try after
HIC_TRIES enters LOCKOUT; an open phase leaves service and the line converter reconfigures; a hand-over of domain 2 waits for its groups.
Next states of their own effect: OMAX_UPDATE, CONTACTOR_CLOSED_REPORT, SOFT_START_END, HANDOVER_RAMP_END, HICCUP_ENTRY, HIC_OFF_EXPIRY,
HIC_RUN_RESET, PHASE_OPEN, PHASE_RECONFIGURATION, VSEL_READ, CONVERTER_STATUS_WRITE, DOMAIN_HANDOVER. Where a clause touches them it
follows the model's choices of log entries 43, 48, 66. -/
def Obligations.Converters : Prop :=
  (∀ (c : Fin 2) (s : State), s.now < s.get (.drv .CV_OMAX_AT) c.val → exec (.omaxUpdate c) s = .next s) ∧
  (∀ (c : Fin 2) (v : Nat) (s : State), s.get (.drv .CV_OMAX_AT) c.val ≤ s.now → s.get (.drv .CV_STATE) c.val = 5 → effLimit c.val s = (v, s) →
    v < 65536 → s.sget (.loop .LS_LIMIT_OMIN) (4 + c.val) 1 ≤ toSigned 16 v →
    ∃ t, exec (.omaxUpdate c) s = .next t ∧ t.get (.drv .CV_EFF) c.val = v ∧ t.get (.loop .LS_LIMIT_OMAX) (4 + c.val) 1 = v ∧
      t.get (.drv .CV_OMAX_AT) c.val = (s.now + us 1000) % 2 ^ 64 ∧ s.SameMem t ∧ s.SameQueue t) ∧
  (∀ s : State, s.get (.drv .CV_STATE) 0 = 3 → s.flag (.saf .CD_STAT_ON) s.cvContactor = true →
    s.sget (.loop .LS_LIMIT_OMIN) 4 1 ≤ 0 →
    ∃ t, exec .contactorClosedReport s = .next t ∧ t.get (.drv .CV_STATE) 0 = 4 ∧ t.get (.loop .LS_LIMIT_OMAX) 4 1 = 0 ∧ s.SameMem t ∧
      s.SameQueue t) ∧
  (∀ (c : Fin 2) (s : State), s.get (.drv .CV_STATE) c.val = 4 →
    s.get (.drv .CV_AT) c.val + us (1000 * s.softMs c.val) ≤ s.now →
    exec (.softStartEnd c) s = .next ((s.set (.drv .CV_STATE) 5 c.val).set (.drv .CV_AT) s.now c.val)) ∧
  (∀ (p : Pins) (s : State), s.get (.drv .CV_STATE) 0 = 7 → s.get (.drv .CV_AT) 0 + us 20000 ≤ s.now → s.get (.drv .CV_FROMRIDE) 0 = 0 → s.get (.drv .CV_HOST) 0 = 0 →
    s.get (.saf .AXLE_MODE_MODE) ≠ 4 → s.get (.saf .OPEN_MASK) = 0 → s.cvContactor < 8 →
    ∃ t, exec (.handoverRampEnd p) s = .next t ∧ t.get (.drv .CV_STATE) 0 = 0 ∧ t.get (.drv .CV_I) 0 = 0 ∧
      t.get (.saf .CD_STAT_ON) s.cvContactor = 0 ∧ s.SameMem t ∧ s.SameQueue t) ∧
  (∀ (c : Fin 2) (s : State), s.cvCounts c.val = true → 0 < s.hicN c.val → s.hicN c.val ≤ s.get (.drv .CV_LIM) c.val →
    (s.hicTries c.val = 0 ∨ s.get (.drv .CV_HICRUN) c.val + 1 ≤ s.hicTries c.val) →
    ∃ t, exec (.hiccupEntry c) s = .next t ∧ t.get (.drv .CV_STATE) c.val = 8 ∧ t.get (.drv .CV_LIM) c.val = 0 ∧
      t.get (.drv .CV_HICRUN) c.val = min (s.get (.drv .CV_HICRUN) c.val + 1) 255 ∧
      t.get (.drv .CV_HICCNT) c.val = min (s.get (.drv .CV_HICCNT) c.val + 1) (2 ^ 32 - 1) ∧
      s.SameMem t ∧
      s.SameQueue t) ∧
  (∀ (c : Fin 2) (s : State), s.cvCounts c.val = true → 0 < s.hicN c.val → s.hicN c.val ≤ s.get (.drv .CV_LIM) c.val →
    (s.hicTries c.val = 0 ∨ s.get (.drv .CV_HICRUN) c.val + 1 ≤ s.hicTries c.val) →
    exec (.hiccupEntry c) s = .next (cvSend c.val (fun _ => 0) ((((((((s.set (.drv .CV_LIM) 0 c.val).incSat (.drv .CV_HICRUN) c.val).incSat
      (.drv .CV_HICCNT) c.val).set (.drv .CV_STATE) 8 c.val).set (.drv .CV_AT) s.now c.val).set (.drv .CV_PGREQ) 1 c.val).send .page
      (2 + c.val) (s.cvIdle c.val)).setBit (.drv .CV_FLAGS) 4 c.val))) ∧
  (∀ (c : Fin 2) (s : State), s.cvCounts c.val = true → 0 < s.hicN c.val → s.hicN c.val ≤ s.get (.drv .CV_LIM) c.val →
    0 < s.hicTries c.val → s.hicTries c.val ≤ s.get (.drv .CV_HICRUN) c.val →
    ∃ t, exec (.hiccupEntry c) s = .next t ∧ t.get (.drv .CV_STATE) c.val = 13 ∧ s.SameMem t ∧ s.SameQueue t) ∧
  (∀ (c : Fin 2) (line : Bool) (s : State), s.get (.drv .CV_STATE) c.val = 8 →
    s.get (.drv .CV_AT) c.val + us (1000 * s.hicOffMs c.val) ≤ s.now → (c.val = 1 ∨ s.srcPresent line = true) → s.sget (.loop .LS_LIMIT_OMIN) (4 + c.val) 1 ≤ 0 →
    ∃ t, exec (.hicOffExpiry c line) s = .next t ∧ t.get (.drv .CV_STATE) c.val = 4 ∧ t.get (.loop .LS_LIMIT_OMAX) (4 + c.val) 1 = 0 ∧
      s.SameMem t ∧ s.SameQueue t) ∧
  (∀ (line : Bool) (s : State), s.get (.drv .CV_STATE) 0 = 8 → s.get (.drv .CV_AT) 0 + us (1000 * s.hicOffMs 0) ≤ s.now →
    s.srcPresent line = false →
    ∃ t, exec (.hicOffExpiry 0 line) s = .next t ∧ t.get (.drv .CV_STATE) 0 = 1 ∧ s.SameMem t ∧ s.SameQueue t) ∧
  (∀ (c : Fin 2) (s : State), s.get (.drv .CV_STATE) c.val = 5 → s.get (.drv .CV_AT) c.val + us 1000000 ≤ s.now →
    exec (.hicRunReset c) s = .next (s.set (.drv .CV_HICRUN) 0 c.val)) ∧
  (∀ (k : Fin 6) (s : State), (s.cvActive 0).contains k.val = true → 0 < s.openN 0 → s.openN 0 ≤ s.get (.drv .CV_OPENC) k.val →
    s.get (.drv .CV_STATE) 0 = 5 →
    ∃ t, exec (.phaseOpen 0 k) s = .next t ∧ t.bit (.drv .CV_DROP) k.val 0 = true ∧ t.bit (.drv .CV_FLAGS) 1 0 = true ∧
      t.get (.drv .CV_STATE) 0 = 9 ∧ t.get (.drv .CV_OPENP) 0 = k.val ∧ t.sent = ⟨.level4, 386, 0, k.val⟩ :: s.sent ∧ s.SameMem t ∧
      s.SameQueue t) ∧
  (∀ (b : Bool) (s : State), s.get (.drv .CV_STATE) 0 = 9 → s.get (.drv .CV_RSTEP) 0 = 0 → s.cvRec 0 1 1 ≤ (s.cvActive 0).length →
    ∃ t, exec (.phaseReconfiguration b) s = .next t ∧ t.get (.drv .CV_RSTEP) 0 = 1 ∧
      t.get (.edge .LEG_CFG_MODE) (12 + s.get (.drv .CV_OPENP) 0) = 4 ∧ t.bit (.edge .OG_EN) 2 = false ∧ s.SameMem t ∧ s.SameQueue t) ∧
  (∀ (b : Bool) (s : State), s.get (.drv .CV_STATE) 0 = 9 → s.get (.drv .CV_RSTEP) 0 = 1 → s.get (.edge .DOM_STAT_LDALL_PENDING) 2 = 1 →
    exec (.phaseReconfiguration b) s = .next s) ∧
  (∀ s : State, s.get (.sns .VSEL_VALID) = 0 → exec .vselRead s = .next s) ∧
  (∀ s : State, s.get (.sns .VSEL_VALID) = 1 → s.cvRec 1 (2 * s.get (.sns .VSEL_CODE)) 2 = 0 → s.get (.drv .CV_STATE) 1 = 5 →
    ∃ t, exec .vselRead s = .next t ∧ t.get (.drv .CV_SPT) 1 = 0 ∧ t.get (.drv .CV_STATE) 1 = 0 ∧ t.bit (.drv .CV_FLAGS) 6 1 = true ∧
      s.SameBut [.drv .CV_SPT, .drv .CV_STATE, .drv .CV_AT, .drv .CV_FLAGS, .drv .CV_PGREQ] t ∧ s.SameMem t ∧ s.SameQueue t) ∧
  (∀ (c : Fin 2) (s : State),
    ∃ t, exec (.converterStatusWrite c) s = .next t ∧ t.readN (0x1800002100 + 0x40 * c.val) 8 = s.axleTime ∧
      t.readN (0x1800002100 + 0x40 * c.val + 8) 1 = s.get (.drv .CV_STATE) c.val % 256 ∧
      t.readN (0x1800002100 + 0x40 * c.val + 10) 1 = s.get (.drv .CV_HICRUN) c.val % 256 ∧
      (∀ a, a < 0x1800002100 + 0x40 * c.val ∨ 0x1800002140 + 0x40 * c.val ≤ a → t.byte a = s.byte a) ∧ s.SameBut [] t ∧ s.SameQueue t) ∧
  (∀ (k : Fin 7) (dab : Bool) (x y : Half) (s : State), s.use2Free = false → exec (.domainHandover k dab x y) s = .next (s.send .level5 404)) ∧
  (∀ (dab : Bool) (x y : Half) (s : State), s.use2Free = true → s.get (.drv .CV_D2N) = 3 → s.flag (.drv .CV_D2DIR) = dab →
    ∃ t, exec (.domainHandover 3 dab x y) s = .next t ∧ t.flag (.edge .DOM_STAT_LDALL_PENDING) 2 = true ∧ t.get (.drv .CV_D2N) = 4 ∧ s.SameMem t ∧ s.SameQueue t) ∧
  (∀ (k : Fin 7) (dab : Bool) (x y : Half) (s : State), s.use2Free = true → k.val ≠ 0 → s.get (.drv .CV_D2N) ≠ k.val →
    exec (.domainHandover k dab x y) s = .next s)

/-- A charging session (R402, R405, R409 to R413, R416 to R421, R424, R433): the pilot follows its detector and state D, E or F ends the
session; S2 follows its bit; without a session the request is 0, in one it moves by at most 1 A per evaluation; a coupler is gone after
two empty decodes; both charge contactors close on a match and open together; the EVSE's messages advance the session; the first end code
is kept and the session stops. Next states of their own effect: PILOT_STATE_CHANGE, S2_WRITE, CHARGING_TARGET_EVAL, SUSPEND_TIMEOUT,
PROXIMITY_DECODE, PRECHARGE_MATCH, PRECHARGE_TIMEOUT, DC_CONTACTOR_OPEN, WELD_CHECK_TIMEOUT, CHARGING_COMMUNICATION_MESSAGE,
CHARGING_PROTOCOL_TIMEOUT, CHARGING_STATUS_WRITE. Where a clause touches them it follows the model's choices of log entries 15, 43, 46,
49, 60, 66. -/
def Obligations.ChargingSession : Prop :=
  (∀ (osc : Bool) (h low : Half) (d : BitVec 10) (s : State), s.get (.sns .CP_CTRL_EN) = 0 → exec (.pilotStateChange osc h low d) s = .next s) ∧
  (∀ (osc : Bool) (h low : Half) (d : BitVec 10) (s : State), s.get (.sns .CP_CTRL_EN) = 1 → s.senseClocked = true →
    (osc = false ∨ (s.get (.sns .CP_CNT) = 3 ∧ s.get (.sns .CP_DEC) = pilotState h.toInt osc)) →
    pilotState h.toInt osc < 4 → s.get (.drv .CH_STATE) ≠ 0 →
    ∃ t, exec (.pilotStateChange osc h low d) s = .next t ∧ t.get (.sns .CP_STAT_STATE) = pilotState h.toInt osc ∧
      t.get (.sns .CP_STAT_OSC) = osc.toNat ∧ t.get (.sns .CP_STAT_DUTY) = (if osc then min d.toNat 1000 else 0) ∧
      s.SameBut [.sns .CP_STAT_STATE, .sns .CP_STAT_OSC, .sns .CP_STAT_DUTY, .sns .CP_STAT_CHG, .sns .CP_STAT_LOW_ERR, .sns .CP_DEC,
        .sns .CP_CNT] t ∧ s.SameMem t ∧ s.SameQueue t) ∧
  (∀ (osc : Bool) (h low : Half) (d : BitVec 10) (s : State), s.get (.sns .CP_CTRL_EN) = 1 → s.senseClocked = true →
    (osc = false ∨ (s.get (.sns .CP_CNT) = 3 ∧ s.get (.sns .CP_DEC) = pilotState h.toInt osc)) →
    4 ≤ pilotState h.toInt osc → s.chgRunning = true → s.get (.drv .CH_END) = 0 →
    ∃ t, exec (.pilotStateChange osc h low d) s = .next t ∧ t.get (.sns .CP_STAT_STATE) = pilotState h.toInt osc ∧ t.get (.drv .CH_END) = 4 ∧
      t.get (.drv .CH_STATE) = 7 ∧ t.get (.drv .CH_REQ) = 0 ∧ s.SameMem t ∧ s.SameQueue t) ∧
  (∀ (h low : Half) (d : BitVec 10) (s : State), s.get (.sns .CP_CTRL_EN) = 1 → s.senseClocked = true →
    (s.get (.sns .CP_CNT) = 0 ∨ s.get (.sns .CP_DEC) ≠ pilotState h.toInt true) →
    ∃ t, exec (.pilotStateChange true h low d) s = .next t ∧ t.get (.sns .CP_DEC) = pilotState h.toInt true ∧ t.get (.sns .CP_CNT) = 1 ∧
      t.get (.sns .CP_STAT_STATE) = s.get (.sns .CP_STAT_STATE) ∧ t.get (.drv .CH_STATE) = s.get (.drv .CH_STATE) ∧
      s.SameMem t ∧ s.SameQueue t) ∧
  (∀ (w : Who) (v : Word) (s : State), s.reaches w (snsBase + 0x810) v.toNat → s.get (.saf .EXTEST) = 0 →
    ∃ t, exec (.s2Write w v) s = .next t ∧ t.resp = .ok ∧ t.get (.sns .CP_CTRL_S2) = bits v.toNat 1 1 ∧
      t.get (.sns .CP_STAT_S2_ON) = bits v.toNat 1 1 ∧ t.get (.sns .CP_CTRL_EN) = bits v.toNat 0 1 ∧
      (bits v.toNat 0 1 = 0 → t.get (.sns .CP_STAT_STATE) = 0) ∧
      s.SameBut [.sns .CP_CTRL_EN, .sns .CP_CTRL_S2, .sns .CP_STAT_S2_ON, .sns .CP_STAT_STATE, .sns .CP_STAT_OSC, .sns .CP_STAT_DUTY, .sns .CP_CNT] t ∧
      s.SameMem t ∧ s.SameQueue t) ∧
  (∀ (ac tmod : Half) (s : State), s.chgRunning = false →
    ∃ t, exec (.chargingTargetEval ac tmod) s = .next t ∧ t.get (.drv .CH_REQ) = 0 ∧
      t.get (.drv .CH_TMOD) = (if s.recN 4 0x0E 1 = 0xFF then 0x8000 else tmod.toNat) ∧
      t.get (.drv .CH_STATE) = s.get (.drv .CH_STATE) ∧ t.get (.drv .CH_EACC) = s.get (.drv .CH_EACC) ∧ s.SameMem t ∧ s.SameQueue t) ∧
  (∀ (ac tmod : Half) (s : State), s.get (.drv .CH_STATE) = 5 → s.get (.saf .AXLE_MODE_MODE) ≠ 6 → s.get (.saf .AXLE_MODE_BUSY) = 0 →
    s.get (.grd .OG_LATCH) = 0 → s.get (.drv .BMS_FAULT) ≠ 2 → s.get (.drv .BMS_I_CHG) ≠ 0 → s.get (.drv .CH_REQ) ≤ 65000 →
    ∃ t, exec (.chargingTargetEval ac tmod) s = .next t ∧ t.get (.drv .CH_REQ) ≤ s.get (.drv .CH_REQ) + 10 ∧
      s.get (.drv .CH_REQ) ≤ t.get (.drv .CH_REQ) + 10 ∧
      t.get (.drv .CH_EACC) = ofSigned 96 (s.sget (.drv .CH_EACC) + s.sget (.drv .BMS_I_PACK) * (s.get (.drv .BMS_V_PACK) : Int) *
        ((s.now - s.get (.drv .CH_EV_AT) : Nat) : Int)) ∧
      (t.get (.drv .CH_STATE) = 5 ∨ t.get (.drv .CH_STATE) = 6) ∧ s.SameMem t ∧ s.SameQueue t) ∧
  (∀ s : State, s.get (.drv .CH_STATE) = 6 → s.recN 4 0x38 2 ≠ 0 → s.get (.drv .CH_SUSP_AT) + us (s.recN 4 0x38 2 * 1000000) ≤ s.now →
    s.get (.drv .CH_END) = 0 →
    exec .suspendTimeout s = .next (((s.set (.drv .CH_END) 9).set (.drv .CH_END_AT) s.now).set (.drv .CH_STATE) 7)) ∧
  (∀ (b : Bool) (s : State), s.recN 4 1 1 = 0 → exec (.proximityDecode b) s = .next s) ∧
  (∀ s : State, s.recN 4 1 1 ≠ 0 → s.get (.drv .CH_EMPTY) = 0 → exec (.proximityDecode false) s = .next (s.set (.drv .CH_EMPTY) 1)) ∧
  (∀ s : State, s.recN 4 1 1 ≠ 0 → 1 ≤ s.get (.drv .CH_EMPTY) → s.get (.drv .CH_STATE) = 1 →
    exec (.proximityDecode false) s = .next (((s.set (.drv .CH_EMPTY) 2).set (.drv .CH_COUPLER) 0).set (.drv .CH_STATE) 0)) ∧
  (∀ s : State, s.recN 4 1 1 ≠ 0 → s.get (.drv .CH_STATE) = 0 → s.get (.sns .CP_STAT_STATE) = 2 →
    exec (.proximityDecode true) s = .next (((s.set (.drv .CH_COUPLER) 1).set (.drv .CH_EMPTY) 0).set (.drv .CH_STATE) 1)) ∧
  (∀ s : State, s.get (.drv .CH_STATE) = 4 → s.chgDc = true →
    ((s.get (.drv .CH_EVSE_V) : Int) - (vehicleVolts s).1).natAbs ≤ 10 * s.recN 4 0x40 2 → s.get (.drv .CH_MATCH_AT) ≠ 0 →
    s.get (.drv .CH_MATCH_AT) + us 10000 ≤ s.now + 1 → s.mayClose s.cdDcp = true → s.mayClose s.cdDcn = true →
    ∃ t, exec .prechargeMatch s = .next t ∧ t.flag (.saf .CD_STAT_ON) s.cdDcp = true ∧ t.flag (.saf .CD_STAT_ON) s.cdDcn = true ∧
      s.SameMem t ∧ s.SameQueue t) ∧
  (∀ s : State, s.get (.drv .CH_STATE) = 4 → s.get (.drv .CH_PRE_AT) + secs 10 ≤ s.now → s.dcClosed = false → s.get (.drv .CH_END) = 0 →
    exec .prechargeTimeout s = .next (((s.set (.drv .CH_END) 8).set (.drv .CH_END_AT) s.now).set (.drv .CH_STATE) 7)) ∧
  (∀ s : State, s.chgDc = true → s.chgRunning = true → s.dcMustOpen = true → s.get (.saf .OPEN_MASK) = 0 → s.cdDcp < 8 → s.cdDcn < 8 →
    s.get (.saf .CD_CFG_ORDER) s.cdDcp = s.get (.saf .CD_CFG_ORDER) s.cdDcn →
    ∃ t, exec .dcContactorOpen s = .next t ∧ t.get (.saf .CD_STAT_ON) s.cdDcp = 0 ∧ t.get (.saf .CD_STAT_ON) s.cdDcn = 0 ∧
      t.get (.drv .CH_STATE) = 8 ∧ t.get (.drv .CH_REQ) = 0 ∧ (50 < s.get (.drv .CH_EVSE_I) → t.bit (.drv .CH_FLAGS) 1 = true) ∧ s.SameMem t ∧
      s.SameQueue t) ∧
  (∀ s : State, s.get (.drv .CH_STATE) = 8 → s.get (.drv .CH_OPEN_AT) + us 2000000 ≤ s.now → s.get (.drv .CH_EVSE_V) < 10 * s.recN 4 0x3E 2 →
    exec .weldCheckTimeout s = .next (s.set (.drv .CH_STATE) 9)) ∧
  (∀ s : State, s.get (.drv .CH_STATE) = 8 → s.get (.drv .CH_OPEN_AT) + us 2000000 ≤ s.now → 10 * s.recN 4 0x3E 2 ≤ s.get (.drv .CH_EVSE_V) →
    exec .weldCheckTimeout s = .next ((s.setBit (.drv .CH_FLAGS) 0).set (.drv .CH_STATE) 9)) ∧
  (∀ (b : Bool) (t1s : Bool) (s : State), (s.get (.drv .CH_PROTO) = 3 ∨ t1s = s.chgT1s) → s.get (.drv .CH_STATE) = 2 → s.offered b = true →
    exec (.chargingCommunicationMessage t1s (.selected b)) s = .next (s.set (.drv .CH_PROTO) (if b then 2 else 1))) ∧
  (∀ (a b : Bool) (v1 v2 i : Half) (p : Nat) (t1s : Bool) (s : State), (s.get (.drv .CH_PROTO) = 3 ∨ t1s = s.chgT1s) → s.get (.drv .CH_STATE) = 2 → s.choosePath a b v1.toNat v2.toNat = some p →
    ∃ t, exec (.chargingCommunicationMessage t1s (.offer a b v1 v2 i)) s = .next t ∧ t.get (.drv .CH_PATH) = p ∧
      t.get (.drv .CH_EVSE_IMAX) = i.toNat ∧ t.get (.drv .CH_STATE) = 3 ∧ s.SameMem t ∧ s.SameQueue t) ∧
  (∀ (t1s : Bool) (s : State), (s.get (.drv .CH_PROTO) = 3 ∨ t1s = s.chgT1s) → s.get (.drv .CH_STATE) = 3 → (s.chgDc = true ∨ s.flag (.saf .CD_STAT_ON) s.cdAc = true) →
    exec (.chargingCommunicationMessage t1s (.check true)) s = .next (if s.chgDc then (s.set (.drv .CH_STATE) 4).set (.drv .CH_PRE_AT) s.now
      else s.set (.drv .CH_STATE) 5)) ∧
  (∀ s : State, s.get (.drv .CH_STATE) = 2 → s.get (.drv .CH_END) = 0 →
    exec .chargingProtocolTimeout s = .next (((s.set (.drv .CH_END) 7).set (.drv .CH_END_AT) s.now).set (.drv .CH_STATE) 7)) ∧
  (∀ s : State,
    ∃ t, exec .chargingStatusWrite s = .next t ∧ t.readN 0x1800002180 8 = s.axleTime ∧
      t.readN 0x1800002188 1 = s.get (.drv .CH_STATE) % 256 ∧ t.readN 0x180000218B 1 = s.get (.drv .CH_END) % 256 ∧
      (∀ a, a < 0x1800002180 ∨ 0x18000021C0 ≤ a → t.byte a = s.byte a) ∧ s.SameBut [] t ∧ s.SameQueue t)

/-- The battery bus (R418, R425, R426, R428): the three BMS messages are taken field by field; a missing message ends a session in CHARGE
with code 6 and elsewhere begins the fall of the limits; MOD_STATUS counts its ALIVE; a removed battery opens S2, disables OG3 and OG4 and
ends the session. Next states of their own effect: BMS_MESSAGE_RECEIVED, BMS_TIMEOUT, MOD_STATUS_SEND, BATTERY_REMOVED_REACTION. Where a
clause touches them it follows the model's choices of log entry 46. -/
def Obligations.BatteryBus : Prop :=
  (∀ (p : Fin 4) (xl : Bool) (id : Word) (v : BitVec 64) (s : State), s.bmsKind p.val xl id.toNat = some 0 →
    ∃ t, exec (.bmsMessageReceived p xl id v) s = .next t ∧ t.get (.drv .BMS_STAT) = bits v.toNat 0 3 ∧ t.get (.drv .BMS_SOC) = bits v.toNat 8 8 ∧
      t.get (.drv .BMS_FAULT) = bits v.toNat 16 8 ∧ t.get (.drv .BMS_ALIVE) 0 = bits v.toNat 24 4 ∧
      t.get (.drv .BMS_I_PACK) = bits v.toNat 32 16 ∧ t.get (.drv .BMS_V_PACK) = bits v.toNat 48 16 ∧ t.get (.drv .BMS_SEEN) = 1 ∧
      s.SameMem t ∧ s.SameQueue t) ∧
  (∀ (p : Fin 4) (xl : Bool) (id : Word) (v : BitVec 64) (s : State), s.bmsKind p.val xl id.toNat = some 1 →
    ∃ t, exec (.bmsMessageReceived p xl id v) s = .next t ∧ t.get (.drv .BMS_I_CHG) = bits v.toNat 0 16 ∧
      t.get (.drv .BMS_I_DIS) = bits v.toNat 16 16 ∧ t.get (.drv .BMS_V_MAX) = bits v.toNat 32 16 ∧
      t.get (.drv .BMS_V_MIN) = bits v.toNat 48 16 ∧ (s.get (.drv .BMS_STALL) 1 = 0 → t.get (.drv .BMS_TMO_ON) 1 = 0) ∧
      s.SameBut [.drv .BMS_I_CHG, .drv .BMS_I_DIS, .drv .BMS_V_MAX, .drv .BMS_V_MIN, .drv .BMS_TMO_ON, .drv .BMS_AT] t ∧ s.SameMem t ∧ s.SameQueue t) ∧
  (∀ (p : Fin 4) (xl : Bool) (id : Word) (v : BitVec 64) (s : State), s.bmsKind p.val xl id.toNat = some 2 →
    ∃ t, exec (.bmsMessageReceived p xl id v) s = .next t ∧ t.get (.drv .BMS_T_MIN) = bits v.toNat 0 16 ∧
      t.get (.drv .BMS_T_MAX) = bits v.toNat 16 16 ∧ t.get (.drv .BMS_ALIVE) 2 = bits v.toNat 32 4 ∧
      s.SameBut [.drv .BMS_T_MIN, .drv .BMS_T_MAX, .drv .BMS_ALIVE, .drv .BMS_GOT, .drv .BMS_STALL, .drv .BMS_TMO_ON, .drv .BMS_AT] t ∧ s.SameMem t ∧
      s.SameQueue t) ∧
  (∀ (p : Fin 4) (xl : Bool) (id : Word) (v : BitVec 64) (s : State), s.bmsKind p.val xl id.toNat = none →
    exec (.bmsMessageReceived p xl id v) s = .next s) ∧
  (∀ (k : Fin 3) (s : State), (s.get (.drv .BMS_AT) k.val + us (1000 * s.recN 4 8 2) ≤ s.now ∨ 3 ≤ s.get (.drv .BMS_STALL) k.val) →
     s.get (.saf .AXLE_MODE_MODE) = 3 → s.chgRunning = true → s.get (.drv .CH_END) = 0 →
    ∃ t, exec (.bmsTimeout k) s = .next t ∧ t.get (.drv .CH_END) = 6 ∧ t.get (.drv .CH_STATE) = 7 ∧ t.bit (.drv .CH_FLAGS) 3 = true ∧
      t.sent = ⟨.level5, 426, k.val, 0⟩ :: s.sent ∧
      s.SameBut [.drv .CH_END, .drv .CH_END_AT, .drv .CH_STATE, .drv .CH_FLAGS, .drv .BMS_SEEN] t ∧ s.SameMem t ∧ s.SameQueue t) ∧
  (∀ (k : Fin 3) (s : State), (s.get (.drv .BMS_AT) k.val + us (1000 * s.recN 4 8 2) ≤ s.now ∨ 3 ≤ s.get (.drv .BMS_STALL) k.val) →
     s.get (.saf .AXLE_MODE_MODE) ≠ 3 → s.get (.drv .BMS_TMO_ON) k.val = 0 →
    ∃ t, exec (.bmsTimeout k) s = .next t ∧ t.get (.drv .BMS_TMO_ON) k.val = 1 ∧ t.get (.drv .BMS_TMO_AT) k.val = s.now % 2 ^ 64 ∧
      t.bit (.drv .CH_FLAGS) 3 = true ∧ s.SameBut [.drv .BMS_TMO_ON, .drv .BMS_TMO_AT, .drv .CH_FLAGS, .drv .BMS_SEEN] t ∧ s.SameMem t ∧
      s.SameQueue t) ∧
  (∀ (a : Nat) (s : State), a = (s.get (.drv .CH_ALIVE) + 1) % 16 →
    exec .modStatusSend s = .next ((s.set (.drv .CH_ALIVE) a).send .can 425 (s.recN 4 4 4 + 3) (s.get (.drv .CH_STATE) +
      2 ^ 8 * s.get (.drv .CH_END) + 2 ^ 16 * s.get (.drv .CH_TARGET) + 2 ^ 32 * s.get (.drv .CH_VBUS) + 2 ^ 48 * a +
      2 ^ 56 * s.get (.saf .AXLE_MODE_MODE)))) ∧
  (∀ s : State, s.get (.drv .CH_REM) = 0 → exec .batteryRemovedReaction s = .next s) ∧
  (∀ s : State, s.get (.drv .CH_REM) = 1 → s.chgRunning = true → s.get (.drv .CH_END) = 0 →
    ∃ t, exec .batteryRemovedReaction s = .next t ∧ t.get (.sns .CP_CTRL_S2) = 0 ∧ t.get (.sns .CP_STAT_S2_ON) = 0 ∧
      t.bit (.edge .OG_EN) 3 = false ∧ t.bit (.edge .OG_EN) 4 = false ∧ t.get (.drv .CH_END) = 1 ∧ t.get (.drv .CH_STATE) = 7 ∧
      t.get (.drv .CH_REQ) = 0 ∧ t.bit (.drv .CH_FLAGS) 2 = true ∧ t.get (.drv .CH_REM) = 0 ∧ s.SameMem t ∧ s.SameQueue t)

/-- Gearbox actuators (R438, R439, R441 to R446): a bridge's configuration is not changed while its group is enabled; a test of its nodes
starts with two phases and classifies each after its step B; a conversion shows its current; a second conversion above the threshold sets
OC_LATCH and is reported; a new Hall state is counted and an invalid one marked; a Hall fault disables the group; a SENT frame that passes
its checks gives the fast values. Next states of their own effect: SHUNT_CONVERSION, OVER_CURRENT, ACT_BR_CFG_WRITE, ACT_DIAG_GO,
ACT_DIAG_STEP_END, HALL_ACCEPT, HALL_FAULT, SENT_FRAME_RECEIVED, SENT_TIMEOUT, SENT_SLOW_READ. Where a clause touches them it follows the
model's choices of log entries 15, 29, 50, 70. -/
def Obligations.Actuators : Prop :=
  (∀ (b : Fin 3) (code : BitVec 12) (s : State), s.actClocked = true → s.get (.act .SH_AT) b.val + us 10 ≤ s.now + 1 →
    ∃ t, exec (.shuntConversion b code) s = .next t ∧ t.get (.act .BR_STAT_I_LAST) b.val = ofSigned 16 (16 * code.toInt) ∧
    t.get (.act .BR_STAT_OC) b.val = (decide (8 * s.get (.act .BR_CFG_OCTHR) b.val < 16 * code.toInt.natAbs)).toNat ∧
    s.SameBut [.act .BR_STAT_I_LAST, .act .BR_STAT_OC, .act .BR_OC_RUN, .act .SH_AT, .loop .SRC_SEQ, .drv .PL_ST_AT] t ∧ s.SameMem t ∧ s.SameQueue t) ∧
  (∀ (b : Fin 3) (s : State), s.get (.act .BR_CFG_OC_EN) b.val = 1 → s.get (.act .BR_OC_RUN) b.val = 2 →
    exec (.overCurrent b) s = .next ((s.set (.act .BR_STAT_OC_LATCH) 1 b.val).send .level4 439 b.val)) ∧
  (∀ (b : Fin 3) (s : State), s.get (.act .BR_OC_RUN) b.val ≠ 2 → exec (.overCurrent b) s = .next s) ∧
  (∀ (w : Who) (b : Fin 3) (p3 : Bool) (v : Word) (s : State), s.reaches w (brAddr b.val + (if p3 then 4 else 0)) v.toNat →
    s.bit (.edge .OG_EN) (6 + b.val) = true →
    exec (.actBrCfgWrite w b p3 v) s = .next ((discardWord w (brAddr b.val + (if p3 then 4 else 0)) v.toNat
      (s.set (.act .BR_STAT_CFG_BUSY) 1 b.val)).answer .ok)) ∧
  (∀ (w : Who) (b : Fin 3) (v : Word) (s : State), s.reaches w (brAddr b.val + 4) v.toNat → s.bit (.edge .OG_EN) (6 + b.val) = false →
    exec (.actBrCfgWrite w b true v) s = .next ((s.set (.act .BR_P3) v.toNat b.val).answer .ok)) ∧
  (∀ (w : Who) (b : Fin 3) (v : Word) (s : State), s.reaches w (brAddr b.val) v.toNat → s.bit (.edge .OG_EN) (6 + b.val) = false →
    s.rwlFrozen w (brAddr b.val) = false →
    ∃ t, exec (.actBrCfgWrite w b false v) s = .next t ∧ t.resp = .ok ∧ t.get (.act .BR_CFG_SUPPLY) b.val = bits v.toNat 0 2 ∧
      t.get (.act .BR_CFG_DMODE) b.val = bits v.toNat 2 1 ∧ t.get (.act .BR_CFG_OC_EN) b.val = bits v.toNat 3 1 ∧
      t.get (.act .BR_CFG_SRC) b.val = bits v.toNat 4 4 ∧ t.get (.act .BR_CFG_SNK) b.val = bits v.toNat 8 4 ∧
      t.get (.act .BR_CFG_OCTHR) b.val = bits v.toNat 12 12 ∧
      s.SameBut [.act .BR_CFG_SUPPLY, .act .BR_CFG_DMODE, .act .BR_CFG_OC_EN, .act .BR_CFG_SRC, .act .BR_CFG_SNK, .act .BR_CFG_OCTHR] t ∧
      s.SameMem t ∧ s.SameQueue t) ∧
  (∀ (w : Who) (b : Fin 3) (v : Word) (s : State), s.reaches w (brAddr b.val + 8) v.toNat → bits v.toNat 0 1 = 1 → bits v.toNat 2 1 = 0 →
    s.bit (.edge .OG_EN) (6 + b.val) = false → s.get (.act .BR_DIAG_BUSY) b.val = 0 →
    2 ≤ ((List.range 3).filter (fun k => v.toNat.testBit (8 + k))).length →
    exec (.actDiagGo w b v) s = .next ((((((((((s.set (.act .BR_DIAG_SETTLE) (bits v.toNat 4 4) b.val).set (.act .BR_DIAG_PH_MASK)
      (bits v.toNat 8 3) b.val).set (.act .BR_DIAG_BUSY) 1 b.val).set (.act .DIAG_STEP) 0
      b.val).set (.act .DIAG_MASK) (bits v.toNat 8 3) b.val).set (.act .DIAG_AT) s.now b.val).set (.act .BR_DIAG_RES0) 0 b.val).set
      (.act .BR_DIAG_RES1) 0 b.val).set (.act .BR_DIAG_RES2) 0 b.val).answer .ok)) ∧
  (∀ (w : Who) (b : Fin 3) (v : Word) (s : State), s.reaches w (brAddr b.val + 8) v.toNat → bits v.toNat 0 1 = 1 → bits v.toNat 2 1 = 0 →
    s.bit (.edge .OG_EN) (6 + b.val) = true →
    exec (.actDiagGo w b v) s = .next ((((s.set (.act .BR_DIAG_SETTLE) (bits v.toNat 4 4) b.val).set (.act .BR_DIAG_PH_MASK)
      (bits v.toNat 8 3) b.val).set (.act .BR_DIAG_DIAG_REF) 1 b.val).answer .ok)) ∧
  (∀ (b : Fin 3) (z : Zone) (s : State), s.get (.act .BR_DIAG_BUSY) b.val = 1 → s.get (.act .DIAG_STEP) b.val % 2 = 0 →
    s.get (.act .DIAG_AT) b.val + us (1000 * max 1 (s.get (.act .BR_DIAG_SETTLE) b.val)) ≤ s.now →
    exec (.actDiagStepEnd b z) s = .next (((s.set (.act .DIAG_AT) s.now b.val).set (.act .DIAG_ZONE) (zoneNum z) b.val).set (.act .DIAG_STEP)
      (s.get (.act .DIAG_STEP) b.val + 1) b.val)) ∧
  (∀ (b : Fin 3) (z : Zone) (n k : Nat) (s : State), s.get (.act .BR_DIAG_BUSY) b.val = 1 → s.get (.act .DIAG_STEP) b.val = 2 * n + 1 →
    (s.diagPhases b.val)[n]? = some k → n + 1 = (s.diagPhases b.val).length → s.get (.act .DIAG_AT) b.val + us (1000 * max 1 (s.get (.act .BR_DIAG_SETTLE) b.val)) ≤ s.now →
    exec (.actDiagStepEnd b z) s = .next ((((s.set (.act .DIAG_AT) s.now b.val).set (resFld k) (classifyNode (s.get (.act .DIAG_ZONE) b.val) (zoneNum z)) b.val).set
      (.act .BR_DIAG_BUSY) 0 b.val).set (.act .DIAG_STEP) 0 b.val)) ∧
  (∀ (b : Fin 3) (v : BitVec 3) (s : State), s.get (.act .BR_HALL_EN) b.val = 0 → exec (.hallAccept b v) s = .next s) ∧
  (∀ (b : Fin 3) (v : BitVec 3) (s : State), s.get (.act .BR_HALL_EN) b.val = 1 → s.get (.act .BR_HALL_INV) b.val = 0 →
    s.actClocked = true → s.get (.act .BR_STAT_HALL) b.val ≠ v.toNat → s.get (.act .HALL_RAW) b.val = v.toNat →
    s.get (.act .HALL_RAW_AT) b.val + 640 * max 1 (s.get (.act .BR_HALL_HFILT) b.val) ≤ s.now →
    ∃ t, exec (.hallAccept b v) s = .next t ∧ t.get (.act .BR_STAT_HALL) b.val = v.toNat ∧
      t.get (.act .HALL_CNT) b.val = (s.get (.act .HALL_CNT) b.val + 1) % 256 ∧ t.get (.act .HALL_AT) b.val = s.now % 2 ^ 64 ∧
      (s.get (.act .HALL_HAD) b.val = 1 → hallNext (s.get (.act .BR_STAT_HALL) b.val) v.toNat = true →
        t.get (.act .HALL_DT) b.val = min 32767 ((s.now - s.get (.act .HALL_AT) b.val) / us 1)) ∧
      (v = 0 ∨ v = 7 → t.get (.act .BR_STAT_HALL_ERR) b.val = 1) ∧
      s.SameBut [.act .BR_STAT_HALL, .act .HALL_CNT, .act .HALL_AT, .act .HALL_DT, .act .HALL_HAD, .act .BR_STAT_HALL_ERR, .loop .SRC_SEQ] t ∧ s.SameMem t ∧
      s.SameQueue t) ∧
  (∀ (b : Fin 3) (v : BitVec 3) (s : State), s.get (.act .BR_HALL_EN) b.val = 1 → s.actClocked = true →
    s.get (.act .HALL_RAW) b.val ≠ v.toNat →
    exec (.hallAccept b v) s = .next ((s.set (.act .HALL_RAW) v.toNat b.val).set (.act .HALL_RAW_AT) s.now b.val)) ∧
  (∀ (b : Fin 3) (s : State), s.get (.act .BR_HALL_EN) b.val = 1 → (s.get (.act .BR_STAT_HALL) b.val = 0 ∨ s.get (.act .BR_STAT_HALL) b.val = 7) →
    s.get (.act .HALL_AT) b.val + us (max 1 (s.get (.act .BR_HALL_HINV) b.val)) ≤ s.now →
    ∃ t, exec (.hallFault b) s = .next t ∧ t.get (.act .BR_STAT_HALL_FAULT) b.val = 1 ∧ t.bit (.edge .OG_EN) (6 + b.val) = false ∧
      t.sent = ⟨.level4, 444, b.val, 0⟩ :: s.sent ∧ s.SameMem t ∧ s.SameQueue t) ∧
  (∀ (c : Fin 8) (tick : BitVec 17) (x y : BitVec 12) (n : BitVec 4) (s : State), s.get (.act .SENT_CFG_EN) c.val = 1 →
    s.actClocked = true → s.get (.act .SENT_TICK) c.val = 0 →
    ((tick.toNat : Int) - 500 * s.get (.act .SENT_CFG_TICK) c.val).natAbs * 5 ≤ 500 * s.get (.act .SENT_CFG_TICK) c.val →
    exec (.sentFrameReceived c tick true true x y n none) s = .next (sourceSent 6 (17 + c.val) (sourceSent 6 (9 + c.val) ((((((s.set
      (.act .SENT_TICK) tick.toNat c.val).set (.act .SENT_DATA_FC1)
      x.toNat c.val).set (.act .SENT_DATA_FC2) y.toNat c.val).set (.act .SENT_DATA_SCN) n.toNat c.val).set (.act .SENT_DATA_VALID) 1
      c.val).set (.act .SENT_AT) s.now c.val))) ∧
    exec (.sentFrameReceived c tick true false x y n none) s = .next (((s.set (.act .SENT_TICK) tick.toNat c.val).set (.act .SENT_STAT_CRC_ERR) 1
      c.val).incSat (.act .SENT_STAT_ERRCNT) c.val)) ∧
  (∀ (c : Fin 8) (s : State), s.get (.act .SENT_CFG_EN) c.val = 1 → s.actClocked = true →
    s.get (.act .SENT_AT) c.val + us (100 * max 1 (s.get (.act .SENT_CFG_TMO) c.val)) ≤ s.now →
    exec (.sentTimeout c) s = .next ((s.set (.act .SENT_DATA_VALID) 0 c.val).set (.act .SENT_STAT_TMO_ERR) 1 c.val)) ∧
  (∀ (w : Who) (c : Fin 8) (s : State), s.readable w (sentAddr c.val + 0x0C) →
    exec (.sentSlowRead w c) s = .next ((s.set (.act .SENT_SLOW_NEW) 0 c.val).answer (.data (s.readReg (sentAddr c.val + 0x0C)))))

/-- Gear shifts and the park lock (R449 to R451): a phase of a shift ends in the next, LOAD ends the shift; an abort disables both fork
groups, holds the torque at 0 and records its cause and phase; a park-lock move ends in its position, or unknown after its time. Next
states of their own effect: SHIFT_PHASE_COMPLETE, SHIFT_ABORT, PARK_MOVE_END. Where a clause touches them it follows the model's choices
of log entry 50. -/
def Obligations.Gearbox : Prop :=
  (∀ s : State, s.get (.drv .GB_BUSY) = 0 → exec .shiftPhaseComplete s = .next (s.set (.drv .GB_OK_AT) 0)) ∧
  (∀ s : State, s.get (.drv .GB_BUSY) = 1 → s.get (.drv .GB_UNWIND) = 0 → s.get (.drv .GB_PHASE) = 4 →
    (gbTrack s).gbSettled = true →
    ∃ t, exec .shiftPhaseComplete s = .next t ∧ t.get (.drv .GB_GEAR) = s.get (.drv .GB_TGT) % 8 ∧ t.get (.drv .GB_PHASE) = 5 ∧
      t.bit (.edge .OG_EN) 6 = false ∧ t.bit (.edge .OG_EN) 7 = false ∧ s.SameMem t ∧ s.SameQueue t) ∧
  (∀ s : State, s.get (.drv .GB_BUSY) = 1 → s.get (.drv .GB_UNWIND) = 0 → s.get (.drv .GB_PHASE) = 5 →
    (gbTrack s).gbSettled = true →
    ∃ t, exec .shiftPhaseComplete s = .next t ∧ t.get (.drv .GB_PHASE) = 0 ∧ t.get (.drv .GB_BUSY) = 0 ∧
      t.get (.drv .GB_GEAR) = s.get (.drv .GB_GEAR) ∧
      s.SameBut [.drv .GB_PHASE, .drv .GB_BUSY, .drv .GB_UNWIND, .drv .GB_AT, .drv .GB_OK_AT, .drv .GB_OPP_AT, .drv .GB_EQ] t ∧ s.SameMem t ∧ s.SameQueue t) ∧
  (∀ (c : Fin 8) (s : State), s.abortHolds c.val = false → exec (.shiftAbort c) s = .next s) ∧
  (∀ (c : Fin 8) (s : State), s.get (.drv .GB_BUSY) = 1 → s.abortHolds c.val = true → s.get (.drv .GB_UNWIND) = 0 → s.get (.drv .GB_PHASE) = 1 →
    ∃ t, exec (.shiftAbort c) s = .next t ∧ t.get (.drv .GB_CAUSE) = c.val ∧ t.get (.drv .GB_ABPH) = 1 ∧ t.get (.drv .GB_TQ) = 0 ∧
      t.get (.drv .GB_PHASE) = 5 ∧ t.bit (.edge .OG_EN) 6 = false ∧ t.bit (.edge .OG_EN) 7 = false ∧ s.SameMem t ∧ s.SameQueue t) ∧
  (∀ (e : MoveEnd) (s : State), s.get (.drv .PL_MOVE) = 0 → exec (.parkMoveEnd e) s = .next s) ∧
  (∀ s : State, s.get (.drv .PL_MOVE) = 1 →
    ∃ t, exec (.parkMoveEnd .position) s = .next t ∧ t.get (.drv .PL_STATE) = 1 ∧ t.get (.drv .PL_MOVE) = 0 ∧
      t.bit (.edge .OG_EN) 8 = false ∧ t.get (.edge .LEG_DUTY) 38 = 0 ∧ t.get (.edge .LEG_DUTY) 39 = 0 ∧
      t.flag (.edge .DOM_STAT_LDALL_PENDING) 5 = true ∧ s.SameMem t ∧ s.SameQueue t) ∧
  (∀ s : State, s.get (.drv .PL_MOVE) ≠ 0 → s.get (.drv .PL_AT) + us (10000 * s.gb 0x4F 1) ≤ s.now →
    ∃ t, exec (.parkMoveEnd .timeout) s = .next t ∧ t.get (.drv .PL_STATE) = 3 ∧ t.get (.drv .PL_MOVE) = 0 ∧
      t.bit (.edge .OG_EN) 8 = false ∧ s.SameMem t ∧ s.SameQueue t)

/-- Memory island (R48, R49, R498, R500 to R503, R505 to R507, R509 to R511, R516): a transaction waits at its port, is granted a place by
class and turn, and completes with its data (with the symbol errors of its lines decoded), with ERROR 4 for an uncorrectable line, and not
before its line is initialised; the scrubbers move on by one line or word; a slot of the flight recorder is allocated by a read. Next
states of their own effect: MEMORY_REQUEST, ARBITER_GRANT, MEMORY_RESPONSE, PORT_CLASS_WRITE, SCRUB_STEP, SCRUB_PASS_LATE,
LAGOON_SCRUB_STEP, DRAM_INIT_CHART_DONE, DRAM_INIT_DONE, FR_ALLOC_READ, FR_ENABLE. Where a clause touches them it follows the model's
choices of log entries 11, 15, 29, 51, 52. -/
def Obligations.MemoryAccess : Prop :=
  (∀ (w : Who) (p : Fin 32) (a : BitVec 40) (n : Fin 257) (d : List (BitVec 8)) (e : Ecc) (s : State), p.val < 22 → 0 < n.val →
    a.toNat / 256 = (a.toNat + n.val - 1) / 256 → s.get (.mem .MQ_KIND) p.val = 0 → a.toNat < 0x1C0000000 → s.get (.saf .ISL_STAT_STATE) 10 = 0 → s.draining 10 = false →
    exec (.memoryRequest w p false a n d e) s = .next ((((s.set (.mem .MQ_KIND) 1 p.val).set (.mem .MQ_ADDR) a.toNat p.val).set
      (.mem .MQ_LEN) n.val p.val).set (.mem .MQ_AT) s.now p.val)) ∧
  (∀ (w : Who) (p : Fin 32) (a : BitVec 40) (n : Fin 257) (d : List (BitVec 8)) (s : State), p.val < 22 → 0 < n.val →
    a.toNat / 256 = (a.toNat + n.val - 1) / 256 → s.get (.mem .MQ_KIND) p.val = 0 → 0x1800000000 ≤ a.toNat → a.toNat < 0x1800800000 →
    s.get (.saf .ISL_STAT_STATE) 13 = 0 → s.draining 13 = false →
    exec (.memoryRequest w p false a n d .clean) s = .next (s.answer (.data (s.readN a.toNat n.val))) ∧
    exec (.memoryRequest w p false a n d .fatal) s = .next (((s.set (.mem .SRAM_ERR_DE) 1).set (.mem .SRAM_ERR_SRC) 13).answer (.error 4 (some 13)))) ∧
  (∀ (w : Who) (p : Fin 32) (a : BitVec 40) (n : Fin 257) (d : List (BitVec 8)) (e : Ecc) (s : State), p.val < 22 → 0 < n.val →
    a.toNat / 256 = (a.toNat + n.val - 1) / 256 → s.get (.mem .MQ_KIND) p.val = 0 → a.toNat < 0x1C0000000 → s.get (.saf .ISL_STAT_STATE) 10 = 0 →
    s.draining 10 = false → s.mayWrite w a.toNat 0 = true →
    exec (.memoryRequest w p true a n d e) s = .next ((zeroBytes (waitData p.val) 256 ((((s.set (.mem .MQ_KIND) 2 p.val).set (.mem .MQ_ADDR)
      a.toNat p.val).set (.mem .MQ_LEN) n.val p.val).set (.mem .MQ_AT) s.now p.val)).writeBytes (waitData p.val) (d.take n.val))) ∧
  (∀ (w : Who) (p : Fin 32) (a : BitVec 40) (n : Fin 257) (d : List (BitVec 8)) (e : Ecc) (s : State), p.val < 22 → 0 < n.val →
    a.toNat / 256 = (a.toNat + n.val - 1) / 256 → s.get (.mem .MQ_KIND) p.val = 0 → 0x1800000000 ≤ a.toNat → a.toNat < 0x1800800000 → a.toNat % 8 = 0 → n.val % 8 = 0 →
    s.get (.saf .ISL_STAT_STATE) 13 = 0 →
    s.draining 13 = false → s.mayWrite w a.toNat 0 = true →
    exec (.memoryRequest w p true a n d e) s = .next ((s.writeBytes a.toNat (d.take n.val)).answer .ok)) ∧
  (∀ (s u : State), streamOffer s = u → u.grantPort = none → exec .arbiterGrant s = .next u) ∧
  (∀ (i p : Nat) (s u : State), streamOffer s = u → u.get (.mem .ARB_CYC) ≠ s.now / 8 + 1 → u.freePlace = some i → u.grantPort = some p →
    ∃ t, exec .arbiterGrant s = .next t ∧ t.get (.mem .IF_KIND) i = u.get (.mem .MQ_KIND) p % 4 ∧ t.get (.mem .IF_PORT) i = p ∧
      t.get (.mem .IF_ADDR) i = u.get (.mem .MQ_ADDR) p % 2 ^ 40 ∧ t.get (.mem .IF_LEN) i = u.get (.mem .MQ_LEN) p % 512 ∧
      t.get (.mem .MQ_KIND) p = 0 ∧ t.get (.mem .ARB_LAST) (u.get (.mem .PORT_CFG_CLASS) p) = p ∧
      t.get (.mem .PORT_STAT_INFLIGHT) p = min (u.get (.mem .PORT_STAT_INFLIGHT) p + 1) 31 ∧
      t.get (.mem .ARB_CYC) = (s.now / 8 + 1) % 2 ^ 64 ∧ (∀ a < 2 ^ 42, t.byte a = u.byte a) ∧ s.SameQueue t) ∧
  (∀ (s : State), (s.get (.mem .MQ_KIND) 14 ≠ 0 ∨ s.get (.saf .ISL_STAT_STATE) 6 ≠ 0 ∨ (s.get (.loop .STRM_E) = 0 ∧ s.streamNext = none)) →
    streamOffer s = s) ∧
  (∀ (i : Fin 64) (os : List Flips) (s : State), s.dramReady (s.get (.mem .IF_ADDR) i.val) = false →
    exec (.memoryResponse i os) s = .next s) ∧
  (∀ (i : Fin 64) (os : List Flips) (a n : Nat) (s : State), s.get (.saf .ISL_STAT_STATE) 10 = 0 → s.dramReady a = true → s.get (.mem .IF_KIND) i.val = 1 →
    s.get (.mem .IF_ADDR) i.val = a → s.get (.mem .IF_LEN) i.val = n → a + n ≤ 2 ^ 42 → (∀ l ∈ linesOf a n, (flipLines (linesOf a n) os s).lineOut l = .clean ∨ (flipLines (linesOf a n) os s).lineOut l = .corrected) →
    ∃ t, exec (.memoryResponse i os) s = .next t ∧ t.resp = .data (s.readN a n) ∧ t.get (.mem .IF_KIND) i.val = 0 ∧
      (∀ b < 2 ^ 42, t.byte b = s.byte b) ∧ s.SameQueue t) ∧
  (∀ (i : Fin 64) (os : List Flips) (a n l : Nat) (s : State), s.get (.saf .ISL_STAT_STATE) 10 = 0 → s.dramReady a = true → s.get (.mem .IF_KIND) i.val = 1 →
    s.get (.mem .IF_ADDR) i.val = a → s.get (.mem .IF_LEN) i.val = n → l ∈ linesOf a n → (flipLines (linesOf a n) os s).badLine l = true →
    ∃ t, exec (.memoryResponse i os) s = .next t ∧ t.resp = .error 4 (some 10) ∧ t.get (.mem .ECC_STAT_UE) = 1 ∧ t.get (.mem .IF_KIND) i.val = 0 ∧
      (∀ b < 2 ^ 42, t.byte b = s.byte b) ∧ s.SameQueue t) ∧
  (∀ (i : Fin 64) (os : List Flips) (a n : Nat) (s : State), s.get (.saf .ISL_STAT_STATE) 10 = 0 → s.dramReady a = true → s.get (.mem .IF_KIND) i.val = 2 →
    s.get (.mem .IF_ADDR) i.val = a → s.get (.mem .IF_LEN) i.val = n → a + n ≤ 2 ^ 42 → n ≤ 256 → (∀ l ∈ linesOf a n, (flipLines (linesOf a n) os s).lineOut l = .clean ∨ (flipLines (linesOf a n) os s).lineOut l = .corrected) →
    ∃ t, exec (.memoryResponse i os) s = .next t ∧ t.resp = .ok ∧ t.get (.mem .IF_KIND) i.val = 0 ∧
      (∀ k < n, t.byte (a + k) = s.byte (placeData i.val + k)) ∧
      (∀ b < 2 ^ 42, b < a ∨ a + n ≤ b → t.byte b = s.byte b) ∧ s.SameQueue t) ∧
  (∀ (w : Who) (p : Fin 32) (v : Word) (s : State), s.reaches w (memBase + 0x100 + 4 * p.val) v.toNat →
    exec (.portClassWrite w p v) s = .next (((s.set (.mem .PORT_CFG_CLASS) (bits v.toNat 0 2) p.val).set (.mem .PORT_CFG_LIMIT)
      (bits v.toNat 4 5) p.val).answer .ok)) ∧
  (∀ (f : Flips) (s : State), s.get (.mem .SCRUB_CTRL_EN) = 0 → exec (.scrubStep f) s = .next s) ∧
  (∀ (f : Flips) (l : Nat) (s : State), s.get (.mem .SCRUB_CTRL_EN) = 1 → s.get (.saf .ISL_STAT_STATE) 10 = 0 →
    s.get (.mem .SCRUB_STAT_PTR) = l → s.dramReady (64 * l) = true → l + 1 ≠ lineCount →
    s.get (.mem .SCRUB_STEP_AT) + us (max 16 (s.get (.mem .SCRUB_CTRL_INT))) ≤ s.now →
    ((flipLine l f s).lineOut l = .clean →
      exec (.scrubStep f) s = .next (((flipLine l f s).set (.mem .SCRUB_STEP_AT) s.now).set (.mem .SCRUB_STAT_PTR) (l + 1))) ∧
    ((flipLine l f s).lineOut l = .corrected →
      exec (.scrubStep f) s = .next ((encodeLine l ((((flipLine l f s).set (.mem .ECC_STAT_CE) 1).incSat (.mem .ECC_STAT_CE_CNT)).set
        (.mem .SCRUB_STEP_AT) s.now)).set (.mem .SCRUB_STAT_PTR) (l + 1))) ∧
    ((flipLine l f s).lineOut l = .uncorrectable →
      exec (.scrubStep f) s = .next (((lineLost l 15 3 (flipLine l f s)).set (.mem .SCRUB_STEP_AT) s.now).set (.mem .SCRUB_STAT_PTR) (l + 1)))) ∧
  (∀ s : State, exec .scrubPassLate s = .next (if s.get (.mem .SCRUB_AT) + secs 32400 < s.now then s.set (.mem .SCRUB_STAT_LATE) 1 else s)) ∧
  (∀ (s : State), s.get (.saf .ISL_STAT_STATE) 13 = 0 → s.get (.mem .LAG_STEP_AT) + us 1 ≤ s.now →
    exec (.lagoonScrubStep .clean) s = .next ((s.set (.mem .LAG_PTR) (s.get (.mem .LAG_PTR) + 1)).set (.mem .LAG_STEP_AT) s.now) ∧
    exec (.lagoonScrubStep .corrected) s = .next (((s.incSat (.mem .SRAM_ERR_CE_CNT)).set (.mem .LAG_PTR) (s.get (.mem .LAG_PTR) + 1)).set
      (.mem .LAG_STEP_AT) s.now) ∧
    exec (.lagoonScrubStep .fatal) s = .next ((((s.set (.mem .SRAM_ERR_DE) 1).set (.mem .SRAM_ERR_SRC) 13).set (.mem .LAG_PTR)
      (s.get (.mem .LAG_PTR) + 1)).set (.mem .LAG_STEP_AT) s.now)) ∧
  (∀ s : State, s.get (.mem .DRAM_ON) = 1 → s.get (.mem .STAT_SELFREF) = 0 →
    exec .dramInitChartDone s = .next (s.set (.mem .STAT_INIT_CHART) 1)) ∧
  (∀ s : State, s.get (.mem .STAT_INIT_CHART) = 1 → s.get (.mem .STAT_SELFREF) = 0 →
    exec .dramInitDone s = .next (s.set (.mem .STAT_INIT_DONE) 1)) ∧
  (∀ (w : Who) (s : State), s.readable w (memBase + 0x68) → s.get (.mem .FR_SIZE_EN) = 0 →
    ∃ t, exec (.frAllocRead w) s = .next t ∧ t.resp = .data (t.readReg (memBase + 0x68)) ∧ t.get (.mem .FR_ALLOC_VALID) = 0 ∧
      s.SameBut [.mem .FR_ALLOC_VALID] t ∧ s.SameMem t ∧ s.SameQueue t) ∧
  (∀ (w : Who) (s : State), s.readable w (memBase + 0x68) → s.get (.mem .FR_SIZE_EN) = 1 →
    ∃ t, exec (.frAllocRead w) s = .next t ∧ t.resp = .data (t.readReg (memBase + 0x68)) ∧ t.get (.mem .FR_ALLOC_VALID) = 1 ∧
      t.get (.mem .FR_ALLOC_SLOT) = s.get (.mem .FR_NEXT) % 2 ^ 20 ∧ t.get (.mem .FR_NEXT) = (s.get (.mem .FR_NEXT) + 1) % s.frSlots % 2 ^ 20 ∧
      (∀ k < 16, t.byte (s.frDesc (s.get (.mem .FR_NEXT)) + k) = 0) ∧
      s.SameBut [.mem .FR_ALLOC_VALID, .mem .FR_ALLOC_SLOT, .mem .FR_NEXT, .mem .FR_SEQ] t ∧ s.SameQueue t) ∧
  (∀ (w : Who) (v : Word) (s : State), s.reaches w (memBase + 0x64) v.toNat → s.get (.mem .FR_SIZE_EN) = 0 → bits v.toNat 31 1 = 1 →
    bits v.toNat 30 1 = 0 → bits v.toNat 0 13 = s.get (.mem .FR_SIZE_SEGS) →
    exec (.frEnable w v) s = .next (if s.frBad then (s.set (.mem .FR_SIZE_CFG_ERR) 1).answer .ok else (s.set (.mem .FR_SIZE_EN) 1).answer .ok))

/-- Frames and sessions (R528 to R531, R534, R536, R552 to R556): a frame is dropped when its queue is full and counted when its header,
TAG or SEQ is wrong; a good command waits in its mailbox and a busy mailbox answers BUSY; segments are joined in order; HELLO,
LOGIN_START, LOGIN_PROVE, KEEPALIVE and LOGOUT open, keep and end a session; an idle session ends, a barred role is free again. Next
states of their own effect: NARROWS_FRAME_RECEIVED, CAN_SEGMENT_RECEIVED, SEGMENT_TIMEOUT, HELLO, LOGIN_START, LOGIN_PROVE, KEEPALIVE,
LOGOUT, SESSION_IDLE_TIMEOUT, LOGIN_BAR_EXPIRY. Where a clause touches them it follows the model's choices of log entries 1, 53, 55, 56,
59, 80. -/
def Obligations.FramesAndSessions : Prop :=
  (∀ (f : Frame) (s : State), s.Heard f → f.full = true → exec (.narrowsFrameReceived f) s = .next (s.incSat (.host .DROP_CNT))) ∧
  (∀ (f : Frame) (s : State), f.port.val < 2 → f.udp.toNat ∉ (List.range 3).map (s.get (.host .UDP_PORT) ·) →
    exec (.narrowsFrameReceived f) s = .next s) ∧
  (∀ (f : Frame) (s : State), s.Heard f → f.full = false → (frameMagic f.bytes = false ∨ frameLen f.bytes = false) →
    exec (.narrowsFrameReceived f) s = .next (s.incSat (.host .SEQ_ERR))) ∧
  (∀ (f : Frame) (k : Nat) (s : State), s.Sound f → s.sessionOf (fieldOf f.bytes 4 4) = some k → s.frameTag k f.bytes = false →
    exec (.narrowsFrameReceived f) s = .next (s.incSat (.host .TAG_ERR))) ∧
  (∀ (f : Frame) (k : Nat) (s : State), s.Sound f → s.sessionOf (fieldOf f.bytes 4 4) = some k → s.frameTag k f.bytes = true →
    fieldOf f.bytes 8 4 ≤ s.get (.host .SES_IN) k →
    exec (.narrowsFrameReceived f) s = .next (s.incSat (.host .SEQ_ERR))) ∧
  (∀ (f : Frame) (l : List (BitVec 8)) (k n : Nat) (s : State), s.Sound f → s.sessionOf (fieldOf f.bytes 4 4) = some k →
    s.frameTag k f.bytes = true → s.get (.host .SES_IN) k < fieldOf f.bytes 8 4 → fieldOf f.bytes 3 1 = 1 → fieldOf f.bytes 12 2 = n → n < 16 →
    s.frameHeard f = true → (f.bytes.drop 16).take (fieldOf f.bytes 14 2) = l → l.length = 8 + fieldOf l 4 2 → l.length ≤ 264 →
    s.get (.host .MB_SEEN) n = 0 → s.get (.host .MB_BUSY) n = 0 → fieldOf l 0 2 ∈ commandCodes →
    ∃ t, exec (.narrowsFrameReceived f) s = .next t ∧ t.get (.host .MB_BUSY) n = 1 ∧ t.get (.host .MB_CODE) n = fieldOf l 0 2 ∧
      t.get (.host .MB_MTAG) n = fieldOf l 2 2 ∧ t.get (.host .MB_PLEN) n = fieldOf l 4 2 ∧ t.get (.host .MB_PARAM) n = leNat (l.drop 8) ∧
      t.get (.host .MB_SES) n = k + 1 ∧ t.get (.host .SES_IN) k = fieldOf f.bytes 8 4 ∧
      t.get (.host .SES_AT) k = s.now % 2 ^ 64 ∧ t.sent = s.sent ∧ s.SameBut [.host .MB_SEEN, .host .MB_BUSY, .host .MB_RUN,
        .host .MB_CODE, .host .MB_MTAG, .host .MB_PLEN, .host .MB_PARAM, .host .MB_SES, .host .MB_PORT, .host .SES_IN, .host .SES_AT] t ∧
      s.SameMem t ∧ s.SameQueue t) ∧
  (∀ (f : Frame) (l : List (BitVec 8)) (n : Nat) (s : State), s.Sound f → fieldOf f.bytes 4 4 = 0 → fieldOf f.bytes 3 1 = 1 →
    fieldOf f.bytes 12 2 = n → n < 16 → s.frameHeard f = true → (f.bytes.drop 16).take (fieldOf f.bytes 14 2) = l →
    l.length = 8 + fieldOf l 4 2 → l.length ≤ 264 → s.get (.host .MB_SEEN) n = 0 → s.get (.host .MB_BUSY) n = 0 → fieldOf l 0 2 ∈ [1, 2, 3] →
    ∃ t, exec (.narrowsFrameReceived f) s = .next t ∧ t.get (.host .MB_BUSY) n = 1 ∧ t.get (.host .MB_CODE) n = fieldOf l 0 2 ∧
      t.get (.host .MB_SES) n = 0 ∧ t.get (.host .MB_PARAM) n = leNat (l.drop 8) ∧ t.sent = s.sent ∧ s.SameMem t ∧ s.SameQueue t) ∧
  (∀ (f : Frame) (l : List (BitVec 8)) (k n : Nat) (s : State), s.Sound f → s.sessionOf (fieldOf f.bytes 4 4) = some k →
    s.frameTag k f.bytes = true → s.get (.host .SES_IN) k < fieldOf f.bytes 8 4 → fieldOf f.bytes 3 1 = 1 → fieldOf f.bytes 12 2 = n → n < 16 →
    s.frameHeard f = true → (f.bytes.drop 16).take (fieldOf f.bytes 14 2) = l → 8 ≤ l.length →
    s.get (.host .MB_BUSY) n = 1 → s.get (.host .MB_MTAG) n ≠ fieldOf l 2 2 →
    ∃ t, exec (.narrowsFrameReceived f) s = .next t ∧ t.get (.host .BUSY_CNT) = min (s.get (.host .BUSY_CNT) + 1) 65535 ∧
      t.sent = ⟨.reply, n + 16 * t.get (.host .SES_OUT) k, 2 + 256, 0⟩ :: s.sent ∧
      s.SameBut [.host .BUSY_CNT, .host .SES_IN, .host .SES_AT, .host .SES_OUT] t ∧ s.SameMem t ∧ s.SameQueue t) ∧
  (∀ (p : Fin 4) (n : Fin 16) (h : BitVec 8) (d : List (BitVec 8)) (s : State), s.narrows = true →
    exec (.canSegmentReceived p n h true d) s = .next (s.incSat (.host .DROP_CNT))) ∧
  (∀ (p : Fin 4) (n : Fin 16) (h : BitVec 8) (d : List (BitVec 8)) (s : State), s.narrows = true → h.toNat.testBit 7 = true →
    h.toNat.testBit 6 = false → d.length ≤ 296 →
    exec (.canSegmentReceived p n h false d) s = .next (((((s.set (.host .SEG_ON) 1 p.val n.val).set (.host .SEG_IX) (h.toNat % 64) p.val
      n.val).set (.host .SEG_BUF) (leNat d) p.val n.val).set (.host .SEG_LEN) d.length p.val n.val).set (.host .SEG_AT) s.now p.val n.val)) ∧
  (∀ (p : Fin 4) (n : Fin 16) (h : BitVec 8) (d : List (BitVec 8)) (m : Nat) (s : State), s.narrows = true → h.toNat.testBit 7 = false →
    h.toNat.testBit 6 = false → s.get (.host .SEG_ON) p.val n.val = 1 →
    h.toNat % 64 = (s.get (.host .SEG_IX) p.val n.val + 1) % 64 → s.get (.host .SEG_LEN) p.val n.val = m → m + d.length ≤ 296 →
    exec (.canSegmentReceived p n h false d) s = .next (((((s.set (.host .SEG_ON) 1 p.val n.val).set (.host .SEG_IX) (h.toNat % 64) p.val
      n.val).set (.host .SEG_BUF) (s.get (.host .SEG_BUF) p.val n.val + 256 ^ m * leNat d) p.val n.val).set (.host .SEG_LEN)
      (m + d.length) p.val n.val).set (.host .SEG_AT) s.now p.val n.val)) ∧
  (∀ (p : Fin 4) (n : Fin 16) (h : BitVec 8) (d l : List (BitVec 8)) (m : Nat) (s : State), s.narrows = true → h.toNat.testBit 7 = false →
    h.toNat.testBit 6 = true → s.get (.host .SEG_ON) p.val n.val = 1 →
    h.toNat % 64 = (s.get (.host .SEG_IX) p.val n.val + 1) % 64 → s.get (.host .SEG_LEN) p.val n.val = m → m + d.length ≤ 296 →
    bytesOf (s.get (.host .SEG_BUF) p.val n.val + 256 ^ m * leNat d) (m + d.length) = l → fieldOf l 12 2 = n.val → fieldOf l 3 1 = 1 →
    exec (.canSegmentReceived p n h false d) s = exec (.narrowsFrameReceived ⟨Fin.ofNat 8 (3 + p.val), 0, false, l⟩) (dropSegments p.val n.val s)) ∧
  (∀ (p : Fin 4) (n : Fin 16) (h : BitVec 8) (d : List (BitVec 8)) (s : State), s.narrows = true → h.toNat.testBit 7 = false →
    s.get (.host .SEG_ON) p.val n.val = 1 → h.toNat % 64 ≠ (s.get (.host .SEG_IX) p.val n.val + 1) % 64 →
    exec (.canSegmentReceived p n h false d) s = .next (dropSegments p.val n.val s)) ∧
  (∀ (p : Fin 4) (n : Fin 16) (s : State), s.get (.host .SEG_ON) p.val n.val = 1 →
    s.get (.host .SEG_AT) p.val n.val + us 50000 ≤ s.now →
    exec (.segmentTimeout p n) s = .next (((((s.set (.host .SEG_ON) 0 p.val n.val).set (.host .SEG_IX) 0 p.val n.val).set (.host .SEG_BUF) 0
      p.val n.val).set (.host .SEG_LEN) 0 p.val n.val).set (.host .SEG_AT) 0 p.val n.val)) ∧
  (∀ (n : Fin 16) (lo hi : BitVec 8) (s : State), s.inTurn n.val 1 0 2 (lo.toNat + 256 * hi.toNat) → lo.toNat ≤ hi.toNat → 0x30 ≤ hi.toNat → lo.toNat ≤ 0x34 →
    ∃ t, exec (.hello n lo hi) s = .next t ∧ t.Answers n.val 0 0 (t.get (.host .MB_VAL) n.val) ∧ t.get (.host .MB_VAL) n.val % 256 = min hi.toNat 0x34 ∧
      t.get (.host .PV) = min hi.toNat 0x34 ∧ s.SameBut (.host .PV :: mailFlds) t ∧ s.SameMem t ∧ s.SameQueue t) ∧
  (∀ (n : Fin 16) (role : BitVec 8) (key : BitVec 64) (s : State), s.inTurn n.val 2 0 9 (role.toNat + 256 * key.toNat) → 1 ≤ role.toNat → role.toNat ≤ 3 →
    s.get (.host .BARRED) role.toNat = 0 → s.loginFull role.toNat = false →
    ∃ t, exec (.loginStart n role key) s = .next t ∧ t.Answers n.val 0 0 (t.get (.host .MB_VAL) n.val) ∧ t.get (.host .MB_VAL) n.val % 2 ^ 256 = t.get (.host .LG_NONCE) n.val ∧ t.get (.host .LG_ON) n.val = 1 ∧
      t.get (.host .LG_ROLE) n.val = role.toNat ∧ t.get (.host .LG_KEY) n.val = key.toNat ∧ t.get (.host .LG_AT) n.val = s.now % 2 ^ 64 ∧
      s.SameBut ([.host .LG_ON, .host .LG_ROLE, .host .LG_KEY, .host .LG_AT, .host .LG_NONCE, .host .LG_EPH] ++ mailFlds) t ∧ s.SameMem t ∧ s.SameQueue t) ∧
  (∀ (n : Fin 16) (role : BitVec 8) (key : BitVec 64) (s : State), s.inTurn n.val 2 0 9 (role.toNat + 256 * key.toNat) → 1 ≤ role.toNat → role.toNat ≤ 3 →
    s.get (.host .BARRED) role.toNat = 1 →
    ∃ t, exec (.loginStart n role key) s = .next t ∧ t.Answers n.val 0x0F 0 0 ∧ s.SameBut mailFlds t ∧ s.SameMem t ∧ s.SameQueue t) ∧
  (∀ (n : Fin 16) (heph hsig : BitVec 512) (k : Nat) (s : State), s.inTurn n.val 3 0 128 (heph.toNat + 2 ^ 512 * hsig.toNat) →
    s.get (.host .LG_ON) n.val = 1 → s.now ≤ s.get (.host .LG_AT) n.val + secs 10 →
    p256On (heph.toNat % 2 ^ 256) (heph.toNat / 2 ^ 256) = true →
    s.signed (s.get (.host .LG_ROLE) n.val) (s.get (.host .LG_KEY) n.val) hsig.toNat (s.loginMsg n.val heph.toNat) = true →
    s.loginFull (s.get (.host .LG_ROLE) n.val) = false → (List.range 4).find? (fun k => s.get (.host .SES_ID) k == 0) = some k →
    ∃ t, exec (.loginProve n heph hsig true) s = .next t ∧ t.Answers n.val 0 0 (t.get (.host .MB_VAL) n.val) ∧
      t.get (.host .MB_VAL) n.val % 2 ^ 32 = t.get (.host .SES_ID) k ∧
      t.get (.host .SES_ID) k ≠ 0 ∧ t.get (.host .SES_ROLE) k = s.get (.host .LG_ROLE) n.val % 4 ∧
      t.get (.host .SES_KEY) k = s.get (.host .LG_KEY) n.val % 2 ^ 64 ∧ t.get (.host .SES_PORT) k = s.get (.host .MB_PORT) n.val % 8 ∧
      t.get (.host .SES_SK) k = s.sessionKey n.val heph.toNat (t.get (.host .SES_ID) k) % 2 ^ 128 ∧
      t.get (.host .LG_ON) n.val = 0 ∧ t.get (.host .LG_NONCE) n.val = 0 ∧ t.get (.host .LG_EPH) n.val = 0 ∧ s.SameRam t ∧ s.SameQueue t) ∧
  (∀ (n : Fin 16) (heph hsig : BitVec 512) (s : State), s.inTurn n.val 3 0 128 (heph.toNat + 2 ^ 512 * hsig.toNat) →
    s.get (.host .LG_ON) n.val = 1 → s.now ≤ s.get (.host .LG_AT) n.val + secs 10 →
    s.signed (s.get (.host .LG_ROLE) n.val) (s.get (.host .LG_KEY) n.val) hsig.toNat (s.loginMsg n.val heph.toNat) = false →
    ∃ t, exec (.loginProve n heph hsig true) s = .next t ∧ t.get (.host .LOGIN_FAIL) = min (s.get (.host .LOGIN_FAIL) + 1) 65535 ∧
      t.get (.host .LG_ON) n.val = 0 ∧ t.get (.host .LG_NONCE) n.val = 0 ∧ (∀ k < 4, t.get (.host .SES_ID) k = s.get (.host .SES_ID) k) ∧
      s.SameRam t ∧ s.SameQueue t) ∧
  (∀ (n : Fin 16) (s : State), s.inTurn n.val 5 1 0 0 →
    ∃ t, exec (.keepalive n) s = .next t ∧ t.Answers n.val 0 0 s.axleTime ∧ s.SameBut mailFlds t ∧ s.SameMem t ∧ s.SameQueue t) ∧
  (∀ (n : Fin 16) (s : State), s.inTurn n.val 4 1 0 0 →
    ∃ t, exec (.logout n true) s = .next t ∧ t.Answers n.val 0 0 0 ∧ t.get (.host .SES_ID) (s.mbSession n.val - 1) = 0 ∧
      t.get (.host .SES_ROLE) (s.mbSession n.val - 1) = 0 ∧ t.get (.host .SUB_MASK) (s.mbSession n.val - 1) = 0 ∧
      t.get (.host .DP_OPEN) (s.mbSession n.val - 1) = 0 ∧ s.SameRam t ∧ s.SameQueue t) ∧
  (∀ (k : Fin 4) (aud : Bool) (s : State), s.now < s.get (.host .SES_AT) k.val + idleTmo (s.get (.host .SES_ROLE) k.val) →
    exec (.sessionIdleTimeout k aud) s = .next s) ∧
  (∀ (k : Fin 4) (aud : Bool) (s : State), s.get (.host .SES_ID) k.val ≠ 0 →
    s.get (.host .SES_AT) k.val + idleTmo (s.get (.host .SES_ROLE) k.val) ≤ s.now →
    ∃ t, exec (.sessionIdleTimeout k aud) s = .next t ∧ t.get (.host .SES_ID) k.val = 0 ∧ t.get (.host .SES_ROLE) k.val = 0 ∧
      t.get (.host .SUB_PERIOD) k.val = 0 ∧ t.get (.host .DP_OPEN) k.val = 0 ∧ (aud = false → t.bit (.host .FLAGS) 0 = true) ∧
      s.SameRam t ∧ s.SameQueue t) ∧
  (∀ (r : Fin 4) (s : State), s.get (.host .BARRED) r.val = 1 → s.get (.host .FAIL_AT) r.val 0 - 1 + mins 10 ≤ s.now →
    ∃ t, exec (.loginBarExpiry r) s = .next t ∧ t.get (.host .BARRED) r.val = 0 ∧ (∀ i < 5, t.get (.host .FAIL_AT) r.val i = 0) ∧
      s.SameBut [.host .BARRED, .host .FAIL_AT] t ∧ s.SameMem t ∧ s.SameQueue t)

/-- Host commands of the drive (R430, R449, R451, R537 to R539, R543): SAFE_HOLD acts always; a mode change starts, or is refused with the
target as DETAIL; TRANSPORT_REQ begins the descent; DRIVE_CMD supplies both motors once per ALIVE; a shift and a park-lock move begin and
answer IN_PROGRESS, a second shift answers BUSY. Next states of their own effect: SAFE_HOLD_REQ, MODE_REQ, TRANSPORT_REQ, DRIVE_CMD,
VEHICLE_STATE, SHIFT_REQ, PARK_REQ. Where a clause touches them it follows the model's choices of log entries 38, 47, 54, 55. -/
def Obligations.HostDrive : Prop :=
  (∀ s : State, s.inTurn 0 0x0102 1 0 0 → s.settled →
    ∃ t, exec (.safeHoldReq 0) s = .next t ∧ t.HoldBegins 7 ∧ t.Answers 0 0 0 7 ∧ s.SameMem t ∧ s.SameQueue t) ∧
  (∀ (p : Pins) (aud : Bool) (s : State), s.inTurn 0 0x0101 1 1 6 → s.settled →
    ∃ t, exec (.modeReq 0 6 p aud) s = .next t ∧ t.HoldBegins 7 ∧ t.Answers 0 0 0 (t.get (.host .MB_VAL) 0) ∧ s.SameRam t ∧ s.SameQueue t) ∧
  (∀ (tgt : BitVec 8) (p : Pins) (s : State), s.inTurn 0 0x0101 1 1 tgt.toNat → tgt.toNat ≤ 5 → (tgt.toNat = 5 → 2 ≤ s.mbRole 0) → s.get (.saf .AXLE_MODE_MODE) ≠ 4 →
    s.modeReply tgt.toNat (s.mbRole 0) p = .started →
    ∃ t, exec (.modeReq 0 tgt p true) s = .next t ∧ t.get (.saf .AXLE_MODE_BUSY) = 1 ∧ t.get (.saf .MODE_TGT) = tgt.toNat ∧
      t.Answers 0 0 0 (t.get (.host .MB_VAL) 0) ∧ s.SameRam t ∧ s.SameQueue t) ∧
  (∀ (tgt : BitVec 8) (p : Pins) (s : State), s.inTurn 0 0x0101 1 1 tgt.toNat → tgt.toNat ≤ 5 → (tgt.toNat = 5 → 2 ≤ s.mbRole 0) → s.get (.saf .AXLE_MODE_MODE) ≠ 4 →
    s.modeReply tgt.toNat (s.mbRole 0) p = .refused →
    ∃ t, exec (.modeReq 0 tgt p true) s = .next t ∧ t.get (.saf .AXLE_MODE_REFUSED) = 1 ∧ t.Answers 0 9 tgt.toNat 0 ∧
      s.SameBut (.saf .AXLE_MODE_REFUSED :: auditFlds) t ∧ s.SameRam t ∧ s.SameQueue t) ∧
  (∀ (p : Pins) (s : State), s.inTurn 0 0x0103 1 0 0 → s.get (.saf .AXLE_MODE_MODE) = 0 → s.get (.saf .AXLE_MODE_BUSY) = 0 →
    s.get (.sns .CP_STAT_STATE) ≤ 1 → p.coupler = false → p.line = false → p.wake = false → s.get (.aon .LADDER_STAT_MOVING) = 0 →
    ∃ t, exec (.transportReq 0 p) s = .next t ∧ t.get (.aon .LADDER_STAT_MOVING) = 1 ∧ t.get (.aon .LAD_TGT) = 5 ∧
      t.get (.aon .FLUSH) = 2 ∧ t.Answers 0 0 0 0 ∧ s.SameMem t ∧ s.SameQueue t) ∧
  (∀ (n : Fin 16) (ca : Half) (da : BitVec 8) (cb : Half) (db al : BitVec 8) (s : State), s.inTurn n.val 0x0201 1 7 (packFields [(ca.toNat, 2), (da.toNat, 1), (cb.toNat, 2), (db.toNat, 1), (al.toNat, 1)]) →
    ca.toNat ≤ 0x7FFF → cb.toNat ≤ 0x7FFF → da.toNat ≤ 1 → db.toNat ≤ 1 → s.get (.saf .AXLE_MODE_MODE) = 2 →
    s.get (.host .DRV_ALIVE) ≠ al.toNat + 1 →
    ∃ t, exec (.driveCmd n ca da cb db al) s = .next t ∧ t.get (.drv .TR_CMD) 0 = ca.toNat ∧ t.get (.drv .TR_CMD) 1 = cb.toNat ∧
      t.get (.drv .TR_DIR) 0 = da.toNat ∧ t.get (.drv .TR_DIR) 1 = db.toNat ∧ t.get (.drv .TR_CMD_AT) 0 = s.now % 2 ^ 64 ∧
      t.get (.drv .TR_LIMP) 0 = 0 ∧ t.get (.drv .TR_LIMP) 1 = 0 ∧ t.get (.host .DRV_ALIVE) = al.toNat + 1 ∧ t.Answers n.val 0 0 0 ∧
      s.SameBut ([.drv .TR_CMD, .drv .TR_DIR, .drv .TR_CMD_AT, .drv .TR_LIMP, .host .DRV_ALIVE] ++ mailFlds) t ∧ s.SameMem t ∧
      s.SameQueue t) ∧
  (∀ (n : Fin 16) (ca : Half) (da : BitVec 8) (cb : Half) (db al : BitVec 8) (s : State), s.inTurn n.val 0x0201 1 7 (packFields [(ca.toNat, 2), (da.toNat, 1), (cb.toNat, 2), (db.toNat, 1), (al.toNat, 1)]) →
    ca.toNat ≤ 0x7FFF → cb.toNat ≤ 0x7FFF → da.toNat ≤ 1 → db.toNat ≤ 1 → s.get (.saf .AXLE_MODE_MODE) = 1 →
    ∃ t, exec (.driveCmd n ca da cb db al) s = .next t ∧ t.Answers n.val 8 0 0 ∧ s.SameBut mailFlds t ∧ s.SameMem t ∧ s.SameQueue t) ∧
  (∀ (n : Fin 16) (spd : Half) (odo : Word) (al : BitVec 8) (s : State), s.inTurn n.val 0x0202 1 7 (packFields [(spd.toNat, 2), (odo.toNat, 4), (al.toNat, 1)]) →
    ∃ t, exec (.vehicleState n spd odo al) s = .next t ∧ t.get (.drv .VEH_SPD) = spd.toNat ∧ t.get (.drv .VEH_ODO) = odo.toNat ∧
      t.get (.drv .VEH_AT) = (s.now + 1) % 2 ^ 64 ∧ t.Answers n.val 0 0 0 ∧
      s.SameBut ([.drv .VEH_SPD, .drv .VEH_ODO, .drv .VEH_AT] ++ mailFlds) t ∧ s.SameMem t ∧ s.SameQueue t) ∧
  (∀ (n : Fin 16) (tgt : BitVec 8) (s : State), s.inTurn n.val 0x0203 1 1 tgt.toNat → s.shiftRefusal tgt.toNat = none →
    ∃ t, exec (.shiftReq n tgt) s = .next t ∧ t.get (.drv .GB_BUSY) = 1 ∧ t.get (.drv .GB_TGT) = tgt.toNat ∧ t.get (.drv .GB_PHASE) = 1 ∧
      t.get (.drv .GB_CAUSE) = 0 ∧ t.get (.drv .GB_MBX) = n.val + 1 ∧ t.Answers n.val 1 0 0 ∧ s.SameMem t ∧ s.SameQueue t) ∧
  (∀ (n : Fin 16) (tgt : BitVec 8) (s : State), s.inTurn n.val 0x0203 1 1 tgt.toNat → s.get (.drv .GB_BUSY) = 1 →
    ∃ t, exec (.shiftReq n tgt) s = .next t ∧ t.Answers n.val 2 2 0 ∧ s.SameBut mailFlds t ∧ s.SameMem t ∧ s.SameQueue t) ∧
  (∀ (n : Fin 16) (v : BitVec 8) (s : State), s.inTurn n.val 0x0204 1 1 v.toNat → v.toNat ≤ 1 → s.parkRefusal (v.toNat == 1) = none →
    ∃ t, exec (.parkReq n v) s = .next t ∧ t.get (.drv .PL_MOVE) = (if v.toNat = 1 then 1 else 2) ∧ t.get (.drv .PL_MBX) = n.val + 1 ∧
      t.flag (.edge .DOM_STAT_LDALL_PENDING) 5 = true ∧ t.Answers n.val 1 0 0 ∧ s.SameMem t ∧ s.SameQueue t)

/-- Host commands for status, charging and faults (R401, R417, R418, R424, R540, R551): a status block is answered as it stands in the
lagoon, a subscription replaces the previous one and reports its blocks; CHG_START, CHG_STOP and CHG_PAUSE act on the session; a fault
item clears for the role that may clear it. Next states of their own effect: STATUS_READ, SUBSCRIBE, SUBSCRIPTION_REPORT, FR_INFO,
CHG_START, CHG_STOP, CHG_PAUSE, FAULT_LIST, FAULT_CLEAR. Where a clause touches them it follows the model's choices of log entries 1, 49,
54, 55, 62. -/
def Obligations.HostStatus : Prop :=
  (∀ (n : Fin 16) (b : BitVec 8) (s : State), s.inTurn n.val 0x0301 1 1 b.toNat → b.toNat ≤ 5 →
    ∃ t, exec (.statusRead n b) s = .next t ∧ t.Answers n.val 0 0 (s.readN (blockOf b.toNat).1 (blockOf b.toNat).2) ∧
      s.SameBut mailFlds t ∧ s.SameMem t ∧ s.SameQueue t) ∧
  (∀ (n : Fin 16) (b : BitVec 8) (s : State), s.inTurn n.val 0x0301 1 1 b.toNat → 5 < b.toNat →
    ∃ t, exec (.statusRead n b) s = .next t ∧ t.Answers n.val 5 0 0 ∧ s.SameBut mailFlds t ∧ s.SameMem t ∧ s.SameQueue t) ∧
  (∀ (n : Fin 16) (m : BitVec 8) (p q : Half) (k : Nat) (s : State), s.inTurn n.val 0x0302 1 5 (packFields [(m.toNat, 1), (p.toNat, 2), (q.toNat, 2)]) → m.toNat ≤ 0x3F → 10 ≤ p.toNat →
    p.toNat ≤ 10000 → s.mbSession n.val = k + 1 →
    ∃ t, exec (.subscribe n m p q) s = .next t ∧ t.get (.host .SUB_MASK) k = m.toNat ∧ t.get (.host .SUB_PERIOD) k = p.toNat ∧
      t.get (.host .SUB_TRACE) k = q.toNat ∧ t.Answers n.val 0 0 0 ∧
      s.SameBut ([.host .SUB_MASK, .host .SUB_PERIOD, .host .SUB_TRACE, .host .SUB_SEQ, .host .SUB_AT] ++ mailFlds) t ∧ s.SameMem t ∧ s.SameQueue t) ∧
  (∀ (k : Fin 4) (s : State), s.get (.host .SUB_PERIOD) k.val = 0 → exec (.subscriptionReport k) s = .next s) ∧
  (∀ (k : Fin 4) (s : State), s.narrows = true → s.get (.host .SES_ID) k.val ≠ 0 → s.get (.host .SUB_PERIOD) k.val ≠ 0 →
    s.get (.host .SUB_MASK) k.val = 1 → s.get (.mem .FR_SEQ) = s.get (.host .SUB_SEQ) k.val →
    s.get (.host .SUB_AT) k.val + us (1000 * s.get (.host .SUB_PERIOD) k.val) ≤ s.now →
    ∃ t, exec (.subscriptionReport k) s = .next t ∧ t.get (.host .SUB_AT) k.val = s.now % 2 ^ 64 ∧ t.sent = ⟨.frame, 3, 0, s.readN 0x1800002000 128⟩ :: s.sent ∧
      s.SameBut [.host .SES_OUT, .host .SUB_SEQ, .host .SUB_AT] t ∧ s.SameMem t ∧ s.SameQueue t) ∧
  (∀ (n : Fin 16) (s : State), s.inTurn n.val 0x0303 1 0 0 →
    ∃ t, exec (.frInfo n) s = .next t ∧ t.Answers n.val 0 0 (packFields [(s.frBase, 5), (s.get (.mem .FR_SIZE_SEGS), 2),
      (s.get (.mem .FR_SIZE_EN), 1), (s.get (.mem .FR_SEQ), 4), (s.get (.mem .FR_ALLOC_SLOT), 4)]) ∧ s.SameBut mailFlds t ∧ s.SameMem t ∧
      s.SameQueue t) ∧
  (∀ (n : Fin 16) (s : State), s.inTurn n.val 0x0401 1 0 0 → s.chgRunning = false → s.get (.saf .AXLE_MODE_MODE) = 3 →
    s.get (.saf .AXLE_MODE_BUSY) = 0 → s.get (.drv .CH_COUPLER) = 1 → s.chgBad = none →
    ∃ t, exec (.chgStart n) s = .next t ∧ t.get (.drv .CH_STATE) = 2 ∧ t.get (.drv .CH_END) = 0 ∧ t.get (.drv .CH_REQ) = 0 ∧
      t.get (.drv .CH_PATH) = 0 ∧ t.Answers n.val 0 0 2 ∧ s.SameMem t ∧ s.SameQueue t) ∧
  (∀ (n : Fin 16) (s : State), s.inTurn n.val 0x0402 1 0 0 → s.chgRunning = true → s.get (.drv .CH_END) = 0 →
    ∃ t, exec (.chgStop n) s = .next t ∧ t.get (.drv .CH_STATE) = 7 ∧ t.get (.drv .CH_END) = 0x0B ∧ t.Answers n.val 0 0 0x0B ∧
      s.SameBut ([.drv .CH_STATE, .drv .CH_END, .drv .CH_END_AT] ++ mailFlds) t ∧ s.SameMem t ∧ s.SameQueue t) ∧
  (∀ (n : Fin 16) (v : BitVec 8) (s : State), s.inTurn n.val 0x0403 1 1 v.toNat → v.toNat ≤ 1 → s.chgRunning = true →
    ∃ t, exec (.chgPause n v) s = .next t ∧ t.get (.drv .CH_PAUSE) = v.toNat ∧ t.Answers n.val 0 0 0 ∧
      s.SameBut (.drv .CH_PAUSE :: mailFlds) t ∧ s.SameMem t ∧ s.SameQueue t) ∧
  (∀ (n : Fin 16) (s : State), s.inTurn n.val 0x0501 1 0 0 →
    ∃ t, exec (.faultList n) s = .next t ∧ t.Answers n.val 0 0 (t.get (.host .MB_VAL) n.val) ∧ t.get (.host .MB_VAL) n.val % 256 = (s.faultItems.take 31).length ∧ s.SameBut mailFlds t ∧
      s.SameMem t ∧ s.SameQueue t) ∧
  (∀ (n : Fin 16) (s : State), s.inTurn n.val 0x0502 2 3 8 →
    ∃ t, exec (.faultClear n 8 0 true) s = .next t ∧ t.bit (.drv .CH_FLAGS) 0 = false ∧ t.Answers n.val 0 0 0 ∧
      s.SameBut (.drv .CH_FLAGS :: auditFlds) t ∧ s.SameRam t ∧ s.SameQueue t) ∧
  (∀ (n : Fin 16) (aud : Bool) (s : State), s.inTurn n.val 0x0502 1 3 8 → s.mbRole n.val = 1 →
    ∃ t, exec (.faultClear n 8 0 aud) s = .next t ∧ t.Answers n.val 7 0 0 ∧ s.SameBut mailFlds t ∧ s.SameMem t ∧ s.SameQueue t) ∧
  (∀ (n : Fin 16) (i : BitVec 8) (ix : Half) (aud : Bool) (s : State), s.inTurn n.val 0x0502 1 3 (i.toNat + 256 * ix.toNat) → itemIndices i.toNat ≤ ix.toNat →
    ∃ t, exec (.faultClear n i ix aud) s = .next t ∧ t.Answers n.val 5 0 0 ∧ s.SameBut mailFlds t ∧ s.SameMem t ∧ s.SameQueue t)

/-- Packages, limits and the axle's programs (R94, R97, R98, R101, R168, R539, R541, R556, R557, R559): a package is programmed and
activated only where that is allowed, and each step of an activation only after the one before; a limit is set up to the Installer's bound
and only with its audit entry; an injection is passed on in COMMISSION; a long command is answered once its work is done. Next states of
their own effect: PKG_COMMIT, PKG_ACTIVATE, FLOOR_RAISE, PKG_INFO, PARAM_WRITE, LIMIT_SET, ABS_LIMIT_SET, INJECT, AUDIT_EXPORT,
LONG_COMMAND_COMPLETE, IN_PROGRESS_REPEAT, ACTIVATION_STEP. Where a clause touches them it follows the model's choices of log entries 1,
29, 46, 54, 55, 57, 59, 79. -/
def Obligations.HostPackages : Prop :=
  (∀ (n : Fin 16) (k : BitVec 8) (z : BitVec 64) (s : State), s.inTurn n.val 0x0701 2 9 (k.toNat + 256 * z.toNat) → k.toNat ≤ 1 → k.toNat ≠ s.get (.host .SLOT_PTR) →
    z.toNat ≤ 142606336 →
    s.stagedCode = 0 →
    ∃ t, exec (.pkgCommit n k z true) s = .next t ∧ t.get (.host .PKG_FULL) k.toNat = 0 ∧ t.get (.host .MB_PAR) n.val = 256 * k.toNat + 512 * z.toNat ∧ t.Answers n.val 1 0 0 ∧
      s.SameBut ([.host .PKG_FULL, .host .MB_PAR] ++ auditFlds) t ∧ s.SameRam t ∧ s.SameQueue t) ∧
  (∀ (n : Fin 16) (k : BitVec 8) (z : BitVec 64) (c : Nat) (s : State), s.inTurn n.val 0x0701 2 9 (k.toNat + 256 * z.toNat) → k.toNat ≤ 1 →
    k.toNat ≠ s.get (.host .SLOT_PTR) → z.toNat ≤ 142606336 → s.stagedCode = c → c ≠ 0 →
    ∃ t, exec (.pkgCommit n k z true) s = .next t ∧ t.get (.host .MB_PAR) n.val = c + 256 * k.toNat + 512 * z.toNat ∧ t.Answers n.val 1 0 0 ∧
      s.SameBut (.host .MB_PAR :: auditFlds) t ∧ s.SameRam t ∧ s.SameQueue t) ∧
  (∀ (n : Fin 16) (k : BitVec 8) (z : BitVec 64)  (aud : Bool) (s : State), s.inTurn n.val 0x0701 2 9 (k.toNat + 256 * z.toNat) →
    k.toNat = s.get (.host .SLOT_PTR) →
    ∃ t, exec (.pkgCommit n k z aud) s = .next t ∧ t.Answers n.val 5 0 0 ∧ s.SameBut mailFlds t ∧ s.SameMem t ∧ s.SameQueue t) ∧
  (∀ (n : Fin 16) (k : BitVec 8) (s : State), s.inTurn n.val 0x0702 2 1 k.toNat → k.toNat ≤ 1 → s.get (.host .ACT_ON) = 0 → s.activationOk = true →
    s.get (.host .PKG_FULL) k.toNat = 1 →
    ∃ t, exec (.pkgActivate n k true) s = .next t ∧ t.get (.host .ACT_ON) = 1 ∧ t.get (.host .ACT_STEP) = 1 ∧
      t.get (.host .ACT_SLOT) = k.toNat ∧ t.get (.loop .CHART_STAT_LOADED) = 0 ∧ t.get (.loop .CHART_STAT_CHART_WARM) = 0 ∧
      t.get (.loop .CHART_CTRL_EN_A) = 0 ∧ t.get (.loop .CHART_CTRL_EN_B) = 0 ∧ (∀ p < 4, t.get (.edge .TS_CTRL_AUTO) p = 0) ∧
      t.Answers n.val 1 0 0 ∧ s.SameRam t ∧ s.SameQueue t) ∧
  (∀ (n : Fin 16) (k : BitVec 8) (aud : Bool) (s : State), s.inTurn n.val 0x0702 2 1 k.toNat → k.toNat ≤ 1 → s.get (.host .ACT_ON) = 0 →
    s.activationOk = false →
    ∃ t, exec (.pkgActivate n k aud) s = .next t ∧ t.Answers n.val 0x0C 0x0C 0 ∧ s.SameBut mailFlds t ∧ s.SameMem t ∧ s.SameQueue t) ∧
  (∀ (n : Fin 16) (s : State), s.inTurn n.val 0x0703 2 0 0 → s.get (.loop .CHART_STAT_LOADED) = 1 →
    ∃ t, exec (.floorRaise n true) s = .next t ∧ t.get (.host .FLOOR) =
      max (s.get (.host .FLOOR)) (s.readN (slotAddr (s.get (.loop .CHART_STAT_SLOT)) + 0x14) 4) % 2 ^ 32 ∧ t.Answers n.val 0 0 (t.get (.host .FLOOR)) ∧
      s.SameBut (.host .FLOOR :: auditFlds) t ∧ s.SameRam t ∧ s.SameQueue t) ∧
  (∀ (n : Fin 16) (s : State), s.inTurn n.val 0x0704 1 0 0 →
    ∃ t, exec (.pkgInfo n) s = .next t ∧ t.Answers n.val 0 0 (t.get (.host .MB_VAL) n.val) ∧ t.get (.host .MB_VAL) n.val % 2 ^ 32 = s.readN (slotAddr 0 + 0x14) 4 ∧ s.SameBut mailFlds t ∧
      s.SameMem t ∧ s.SameQueue t) ∧
  (∀ (n : Fin 16) (i : Fin 4) (q : BitVec 8) (off : Half) (d : List (BitVec 8)) (s : State), 1 ≤ d.length → d.length ≤ 253 →
    s.inTurn n.val 0x0801 2 (3 + d.length) (q.toNat + 256 * (off.toNat + 65536 * leNat d)) → leNat d ≤ s.get (.host .LIM_MAKER) i.val →
    ∃ t, exec (.paramWrite n (.bound i) off d true) s = .next t ∧ t.get (.host .LIM_INST) i.val = leNat d % 2 ^ 32 ∧ t.Answers n.val 0 0 0 ∧
      s.SameBut (.host .LIM_INST :: auditFlds) t ∧ s.SameRam t ∧ s.SameQueue t) ∧
  (∀ (n : Fin 16) (i : Fin 4) (q : BitVec 8) (off : Half) (d : List (BitVec 8)) (aud : Bool) (s : State), 1 ≤ d.length → d.length ≤ 253 →
    s.inTurn n.val 0x0801 2 (3 + d.length) (q.toNat + 256 * (off.toNat + 65536 * leNat d)) → s.get (.host .LIM_MAKER) i.val < leNat d →
    ∃ t, exec (.paramWrite n (.bound i) off d aud) s = .next t ∧ t.Answers n.val 0x0B 0 0 ∧ s.SameBut mailFlds t ∧ s.SameMem t ∧ s.SameQueue t) ∧
  (∀ (n : Fin 16) (i : Fin 6) (q : BitVec 8) (off : Half) (d : List (BitVec 8)) (a : Nat) (s : State), 1 ≤ d.length → d.length ≤ 253 →
    s.inTurn n.val 0x0801 2 (3 + d.length) (q.toNat + 256 * (off.toNat + 65536 * leNat d)) → s.get (.drv .REC_ADDR) i.val ≠ 0 → off.toNat + d.length ≤ recordSize i.val →
    s.get (.drv .REC_ADDR) i.val + off.toNat = a →
    ∃ t, exec (.paramWrite n (.record i) off d true) s = .next t ∧ t.Answers n.val 0 0 0 ∧ (∀ j < d.length, some (t.byte (a + j)) = d[j]?) ∧
      (∀ c < 2 ^ 41, c < a ∨ a + d.length ≤ c → t.byte c = s.byte c) ∧ s.SameBut auditFlds t ∧ s.SameQueue t) ∧
  (∀ (n : Fin 16) (i : Fin 3) (q : BitVec 8) (off : Half) (d : List (BitVec 8)) (s : State), 1 ≤ d.length → d.length ≤ 253 →
    s.inTurn n.val 0x0801 2 (3 + d.length) (q.toNat + 256 * (off.toNat + 65536 * leNat d)) →
    ∃ t, exec (.paramWrite n (.udp i) off d true) s = .next t ∧ t.get (.host .UDP_PORT) i.val = leNat d % 2 ^ 16 ∧ t.Answers n.val 0 0 0 ∧
      s.SameBut (.host .UDP_PORT :: auditFlds) t ∧ s.SameRam t ∧ s.SameQueue t) ∧
  (∀ (n : Fin 16) (l : BitVec 8) (v : Word) (s : State), s.inTurn n.val 0x0802 1 5 (l.toNat + 256 * v.toNat) → l.toNat ≤ 3 → v.toNat ≤ s.get (.host .LIM_INST) l.toNat →
    ∃ t, exec (.limitSet n l v true) s = .next t ∧ t.get (.host .LIM) l.toNat = v.toNat ∧ t.Answers n.val 0 0 v.toNat ∧
      (∀ i, i ≠ l.toNat → t.get (.host .LIM) i = s.get (.host .LIM) i) ∧ s.SameBut (.host .LIM :: auditFlds) t ∧ s.SameRam t ∧
      s.SameQueue t) ∧
  (∀ (n : Fin 16) (l : BitVec 8) (v : Word) (s : State), s.inTurn n.val 0x0802 1 5 (l.toNat + 256 * v.toNat) → l.toNat ≤ 3 → v.toNat ≤ s.get (.host .LIM_INST) l.toNat →
    ∃ t, exec (.limitSet n l v false) s = .next t ∧ t.Answers n.val 0x0E 0 0 ∧ t.bit (.host .FLAGS) 0 = true ∧
      s.SameBut (.host .FLAGS :: mailFlds) t ∧ s.SameMem t ∧ s.SameQueue t) ∧
  (∀ (n : Fin 16) (l : BitVec 8) (v : Word) (aud : Bool) (s : State), s.inTurn n.val 0x0802 1 5 (l.toNat + 256 * v.toNat) → l.toNat ≤ 3 →
    s.get (.host .LIM_INST) l.toNat < v.toNat →
    ∃ t, exec (.limitSet n l v aud) s = .next t ∧ t.Answers n.val 0x0B 0 0 ∧ s.SameBut mailFlds t ∧ s.SameMem t ∧ s.SameQueue t) ∧
  (∀ (n : Fin 16) (l : BitVec 8) (v : Word) (s : State), s.inTurn n.val 0x0A06 3 5 (l.toNat + 256 * v.toNat) → l.toNat ≤ 3 →
    ∃ t, exec (.absLimitSet n l v true) s = .next t ∧ t.get (.host .LIM_MAKER) l.toNat = v.toNat ∧ t.Answers n.val 0 0 0 ∧
      s.SameBut (.host .LIM_MAKER :: auditFlds) t ∧ s.SameRam t ∧ s.SameQueue t) ∧
  (∀ (n : Fin 16) (e : BitVec 8) (img : List Word) (s : State), s.inTurn n.val 0x0803 2 21 (e.toNat + 256 * packFields (img.map (fun w => (w.toNat, 4)))) → e.toNat ≤ 15 →
    s.get (.saf .AXLE_MODE_MODE) = 5 →
    ∃ t, exec (.inject n e img true) s = .next t ∧ t.get (.host .MB_PAR) n.val = e.toNat ∧ t.Answers n.val 1 0 0 ∧ s.SameRam t ∧
      s.SameQueue t) ∧
  (∀ (n : Fin 16) (e : BitVec 8) (img : List Word) (aud : Bool) (s : State), s.inTurn n.val 0x0803 2 21 (e.toNat + 256 * packFields (img.map (fun w => (w.toNat, 4)))) → e.toNat ≤ 15 →
    s.get (.saf .AXLE_MODE_MODE) ≠ 5 →
    ∃ t, exec (.inject n e img aud) s = .next t ∧ t.Answers n.val 8 0 0 ∧ s.SameBut mailFlds t ∧ s.SameMem t ∧ s.SameQueue t) ∧
  (∀ (n : Fin 16) (a c : Word) (s : State), s.inTurn n.val 0x0804 1 8 (a.toNat + 2 ^ 32 * c.toNat) → c.toNat ≤ 65536 →
    ∃ t, exec (.auditExport n a c) s = .next t ∧ t.get (.host .MB_PAR) n.val = a.toNat + 2 ^ 32 * c.toNat ∧ t.Answers n.val 1 0 0 ∧
      s.SameBut (.host .MB_PAR :: mailFlds) t ∧ s.SameMem t ∧ s.SameQueue t) ∧
  (∀ (n : Fin 16) (st : BitVec 8) (s : State), s.get (.host .MB_RUN) n.val = 0 → exec (.longCommandComplete n st) s = .next s) ∧
  (∀ (n : Fin 16) (st : BitVec 8) (s : State), s.narrows = true → s.get (.host .MB_RUN) n.val = 1 → s.get (.host .MB_CODE) n.val = 0x0204 →
    s.get (.drv .PL_MOVE) = 0 →
    ∃ t, exec (.longCommandComplete n st) s = .next t ∧ t.Answers n.val 0 0 (s.get (.drv .PL_STATE) % 2 ^ 2112) ∧
      t.get (.drv .PL_MBX) = 0 ∧ s.SameBut (.drv .PL_MBX :: mailFlds) t ∧ s.SameMem t ∧ s.SameQueue t) ∧
  (∀ (n : Fin 16) (s : State), s.narrows = true → s.get (.host .MB_RUN) n.val = 1 → s.get (.host .MB_CODE) n.val ≠ 0x0805 →
    ∃ t, exec (.inProgressRepeat n) s = .next t ∧ t.sent = ⟨.reply, n.val + 16 * t.outSeq (t.mbSession n.val), 1, 0⟩ :: s.sent ∧ t.get (.host .MB_AT) n.val = s.now % 2 ^ 64 ∧
      s.SameBut [.host .MB_AT, .host .SES_OUT] t ∧ s.SameMem t ∧ s.SameQueue t) ∧
  (∀ (a : ActStep) (s : State), s.nextStep a.step.val = false → exec (.activationStep a) s = .next s) ∧
  (∀ (a : ActStep) (s : State), s.get (.host .ACT_ON) = 1 → s.get (.host .ACT_STEP) = 1 → a.step = 2 → s.headerCode (slotAddr (s.get (.host .ACT_SLOT))) = 0 →
    exec (.activationStep a) s = .next (s.set (.host .ACT_STEP) 2)) ∧
  (∀ (a : ActStep) (s : State), s.get (.host .ACT_ON) = 1 → s.get (.host .ACT_STEP) = 4 → a.step = 5 → s.get (.host .ACT_KIND) = 0 →
    ∃ t, exec (.activationStep a) s = .next t ∧ t.get (.loop .CHART_STAT_LOADED) = 1 ∧
      t.get (.loop .CHART_STAT_SLOT) = s.get (.host .ACT_SLOT) % 2 ∧ t.get (.host .SLOT_PTR) = s.get (.host .ACT_SLOT) % 2 ∧
      t.get (.host .ACT_STEP) = 5 ∧ s.SameBut [.loop .CHART_STAT_LOADED, .loop .CHART_STAT_SLOT, .host .SLOT_PTR, .host .ACT_STEP,
        .host .HELD_LOADED, .host .HELD_SLOT] t ∧ s.SameMem t ∧ s.SameQueue t) ∧
  (∀ (a : ActStep) (s : State), s.get (.host .ACT_ON) = 1 → s.get (.host .ACT_STEP) = 6 → a.step = 7 →
    ∃ t, exec (.activationStep a) s = .next t ∧ t.get (.host .ACT_ON) = 0 ∧ t.get (.host .ACT_STEP) = 7 ∧ s.SameMem t ∧ s.SameQueue t)

/-- Islands, keys, firmware and debug (R416, R466, R490, R542, R554, R556): ISLAND_REQ reads an island and is refused outside its modes; a
key is installed by a higher role, a revoked one ends its sessions; the slot in use is not overwritten; activating a firmware resets the
module; debug access is granted in STOWED or COMMISSION only. Next states of their own effect: ISLAND_REQ, KEY_INSTALL, KEY_REVOKE,
CERT_INSTALL, FW_COMMIT, FW_ACTIVATE, DEBUG_START, DEBUG_PROVE, BOOT_HEADER. Where a clause touches them it follows the model's choices of
log entries 1, 54, 55, 56, 59, 60, 80. -/
def Obligations.HostMaintenance : Prop :=
  (∀ (n : Fin 16) (i st : BitVec 8) (f aud : Bool) (s : State), s.inTurn n.val 0x0805 2 3 (i.toNat + 256 * st.toNat + 65536 * f.toNat) →
    ([0, 1, 5, 6].contains (s.get (.saf .AXLE_MODE_MODE))) = false → s.get (.host .MB_RUN) n.val = 0 →
    ∃ t, exec (.islandReq n i st f aud) s = .next t ∧ t.Answers n.val 8 0 0 ∧ s.SameBut mailFlds t ∧ s.SameMem t ∧ s.SameQueue t) ∧
  (∀ (n : Fin 16) (i : BitVec 8) (f : Bool) (s : State), s.inTurn n.val 0x0805 2 3 (i.toNat + 256 * 0xFF + 65536 * f.toNat) → s.get (.saf .AXLE_MODE_MODE) = 0 → 1 ≤ i.toNat →
    i.toNat ≤ 13 → i.toNat ≠ 12 → s.get (.host .MB_RUN) n.val = 0 →
    ∃ t, exec (.islandReq n i 0xFF f true) s = .next t ∧ t.Answers n.val 0 0 (t.get (.host .MB_VAL) n.val) ∧ t.get (.host .MB_VAL) n.val % 256 = s.get (.saf .ISL_STAT_STATE) i.toNat % 256 ∧
      s.SameBut auditFlds t ∧ s.SameRam t ∧ s.SameQueue t) ∧
  (∀ (n : Fin 16) (role : BitVec 8) (x y : BitVec 256) (k : Nat) (s : State), s.inTurn n.val 0x0901 2 65 (packFields [(role.toNat, 1), (x.toNat, 32), (y.toNat, 32)]) →
    (role.toNat = 1 ∨ role.toNat = 2) → role.toNat + 1 ≤ s.mbRole n.val →
    s.keyStored role.toNat (sha256 (bytesOf x.toNat 32 ++ bytesOf y.toNat 32) % 2 ^ 64) = false →
    (keySlots role.toNat).find? (fun k => s.get (.host .KEY_ROLE) k == 0) = some k →
    ∃ t, exec (.keyInstall n role x y true) s = .next t ∧ t.get (.host .KEY_ROLE) k = role.toNat ∧ t.get (.host .KEY_X) k = x.toNat ∧
      t.get (.host .KEY_Y) k = y.toNat ∧ t.get (.host .KEY_ID) k = sha256 (bytesOf x.toNat 32 ++ bytesOf y.toNat 32) % 2 ^ 64 ∧ t.Answers n.val 0 0 (sha256 (bytesOf x.toNat 32 ++ bytesOf y.toNat 32) % 2 ^ 64) ∧
      s.SameBut ([.host .KEY_ROLE, .host .KEY_ID, .host .KEY_X, .host .KEY_Y] ++ auditFlds) t ∧ s.SameRam t ∧ s.SameQueue t) ∧
  (∀ (n : Fin 16) (key : BitVec 64) (k : Nat) (s : State), s.inTurn n.val 0x0902 2 8 key.toNat →
    (List.range 28).find? (fun x => s.get (.host .KEY_ROLE) x != 0 && s.get (.host .KEY_ID) x == key.toNat) = some k →
    s.get (.host .KEY_ROLE) k ≠ 3 → s.get (.host .KEY_ROLE) k + 1 ≤ s.mbRole n.val →
    ∃ t, exec (.keyRevoke n key true) s = .next t ∧ t.get (.host .KEY_ROLE) k = 0 ∧
      (∀ i < 4, s.get (.host .SES_KEY) i = key.toNat → t.get (.host .SES_ID) i = 0) ∧ t.Answers n.val 0 0 0 ∧ s.SameRam t ∧
      s.SameQueue t) ∧
  (∀ (n : Fin 16) (z : Half) (s : State), s.inTurn n.val 0x0903 2 2 z.toNat →
    ∃ t, exec (.certInstall n z true) s = .next t ∧ t.get (.host .CERT) = z.toNat ∧ t.Answers n.val 0 0 0 ∧
      s.SameBut (.host .CERT :: auditFlds) t ∧ s.SameRam t ∧ s.SameQueue t) ∧
  (∀ (n : Fin 16) (k : BitVec 8) (z : BitVec 64) (s : State), s.inTurn n.val 0x0A01 3 9 (k.toNat + 256 * z.toNat) → k.toNat ≤ 1 → k.toNat ≠ s.get (.host .FW_SLOT) →
    z.toNat ≤ 0x2000000 →
    ∃ t, exec (.fwCommit n k z 0 true) s = .next t ∧ t.get (.host .FW_FULL) k.toNat = 0 ∧ t.Answers n.val 1 0 0 ∧
      s.SameBut ([.host .FW_FULL, .host .MB_PAR] ++ auditFlds) t ∧ s.SameRam t ∧ s.SameQueue t) ∧
  (∀ (n : Fin 16) (k : BitVec 8) (s : State), s.inTurn n.val 0x0A02 3 1 k.toNat → k.toNat ≤ 1 → s.get (.host .FW_FULL) k.toNat = 1 →
    ∃ t, exec (.fwActivate n k true) s = .next t ∧ t.get (.aon .BOOTING) = 1 ∧ t.get (.aon .BOOT) = 2 ∧ t.get (.aon .BOOT_KIND) = 0 ∧
      t.get (.host .FW_SLOT) = k.toNat ∧ (∀ i, t.get (.host .SES_ID) i = 0) ∧ s.SameQueue t) ∧
  (∀ (n : Fin 16) (s : State), s.inTurn n.val 0x0A03 3 0 0 →
    ∃ t, exec (.debugStart n) s = .next t ∧ t.get (.host .DBG_REQ) = 1 ∧ t.get (.host .DBG_AT) = s.now % 2 ^ 64 ∧ t.Answers n.val 0 0 (t.get (.host .DBG_NONCE)) ∧
      s.SameBut ([.host .DBG_REQ, .host .DBG_AT, .host .DBG_NONCE] ++ mailFlds) t ∧ s.SameMem t ∧ s.SameQueue t) ∧
  (∀ (n : Fin 16) (sig : BitVec 512) (s : State), s.inTurn n.val 0x0A04 3 64 sig.toNat → s.get (.host .DBG_REQ) = 1 →
    s.now ≤ s.get (.host .DBG_AT) + secs 10 →
    (s.get (.saf .AXLE_MODE_MODE) = 0 ∨ s.get (.saf .AXLE_MODE_MODE) = 5) →
    s.signed 3 (s.mbKey n.val) sig.toNat (bytesOf (s.get (.host .DBG_NONCE) + 2 ^ 256 * s.get (.host .SERIAL)) 40) = true →
    ∃ t, exec (.debugProve n sig true) s = .next t ∧ t.get (.saf .DBG_UNLOCKED) = 1 ∧ t.Answers n.val 0 0 0 ∧
      s.SameBut ([.saf .DBG_UNLOCKED, .host .DBG_REQ, .host .DBG_NONCE] ++ auditFlds) t ∧ s.SameRam t ∧ s.SameQueue t) ∧
  (∀ (n : Fin 16) (sig : BitVec 512) (s : State), s.inTurn n.val 0x0A04 3 64 sig.toNat →
    s.get (.saf .AXLE_MODE_MODE) ≠ 0 → s.get (.saf .AXLE_MODE_MODE) ≠ 5 →
    ∃ t, exec (.debugProve n sig true) s = .next t ∧ t.get (.saf .DBG_REFUSED) = 1 ∧ t.Answers n.val 9 (t.get (.host .MB_DET) n.val) 0 ∧
      s.SameBut ([.saf .DBG_REFUSED, .host .DBG_REQ, .host .DBG_NONCE] ++ auditFlds) t ∧ s.SameRam t ∧ s.SameQueue t) ∧
  (∀ (n : Fin 16) (b : BitVec 8) (sig : BitVec 512) (s : State), s.inTurn n.val 0x0A05 3 65 (b.toNat + 256 * sig.toNat) →
    ∃ t, exec (.bootHeader n b sig true true) s = .next t ∧ t.get (.host .SPLIT) = b.toNat ∧ t.Answers n.val 0 0 0 ∧
      s.SameBut (.host .SPLIT :: auditFlds) t ∧ s.SameRam t ∧ s.SameQueue t)

/-- The data port (R502, R545 to R549): a transfer is opened in a window its role may use, one per session; a burst at the expected
position is written or read and moves the transfer on, an earlier one is only acknowledged, one that leaves the window is refused; closing
answers what was moved. Next states of their own effect: DP_OPEN, DP_CLOSE, DATA_WR, DATA_RD_REQ. Where a clause touches them it follows
the model's choices of log entries 1, 11, 55, 63. -/
def Obligations.DataPort : Prop :=
  (∀ (n : Fin 16) (a : BitVec 40) (inc : BitVec 8) (aud : Bool) (x : Window) (k : Nat) (s : State), s.inTurn n.val 0x0601 1 7 (a.toNat + 2 ^ 40 * inc.toNat) →
    s.mbSession n.val = k + 1 → s.get (.host .DP_OPEN) k = 0 → inc.toNat ∈ [1, 2, 4, 8] → a.toNat % inc.toNat = 0 →
    s.windowAt a.toNat = some x → x.rd ≤ s.mbRole n.val →
    ∃ t, exec (.dpOpen n a inc 0 aud) s = .next t ∧ t.get (.host .DP_OPEN) k = 1 ∧ t.get (.host .DP_ADDR) k = a.toNat ∧
      t.get (.host .DP_INC) k = inc.toNat ∧ t.get (.host .DP_DIR) k = 0 ∧ t.get (.host .DP_COUNT) k = 0 ∧ t.get (.host .DP_BIDX) k = 0 ∧
      t.get (.host .DP_HANDLE) k = (s.get (.host .LAST_HANDLE) + 1) % 0x10000 ∧
      t.Answers n.val 0 0 ((s.get (.host .LAST_HANDLE) + 1) % 0x10000) ∧ s.SameMem t ∧ s.SameQueue t) ∧
  (∀ (n : Fin 16) (a : BitVec 40) (inc : BitVec 8) (x : Window) (k : Nat) (s : State),
    s.inTurn n.val 0x0601 1 7 (a.toNat + 2 ^ 40 * inc.toNat + 2 ^ 48) → s.mbSession n.val = k + 1 →
    s.get (.host .DP_OPEN) k = 0 → inc.toNat ∈ [1, 2, 4, 8] → a.toNat % inc.toNat = 0 → s.windowAt a.toNat = some x →
    x.wr ≤ s.mbRole n.val → s.get (.host .AUD_BAR) = 0 →
    ∃ t, exec (.dpOpen n a inc 1 true) s = .next t ∧ t.get (.host .DP_OPEN) k = 1 ∧ t.get (.host .DP_ADDR) k = a.toNat ∧
      t.get (.host .DP_DIR) k = 1 ∧ t.get (.host .DP_START) k = a.toNat ∧ t.get (.host .DP_HIGH) k = x.hi % 2 ^ 40 ∧
      t.Answers n.val 0 0 ((s.get (.host .LAST_HANDLE) + 1) % 0x10000) ∧ s.SameRam t ∧ s.SameQueue t) ∧
  (∀ (n : Fin 16) (a : BitVec 40) (inc : BitVec 8) (aud : Bool) (k : Nat) (s : State), s.inTurn n.val 0x0601 1 7 (a.toNat + 2 ^ 40 * inc.toNat) →
    s.mbSession n.val = k + 1 → s.get (.host .DP_OPEN) k = 1 →
    ∃ t, exec (.dpOpen n a inc 0 aud) s = .next t ∧ t.Answers n.val 2 2 0 ∧ s.SameBut mailFlds t ∧ s.SameMem t ∧ s.SameQueue t) ∧
  (∀ (n : Fin 16) (h : Half) (aud : Bool) (k : Nat) (s : State), s.inTurn n.val 0x0602 1 2 h.toNat → s.mbSession n.val = k + 1 →
    s.get (.host .DP_OPEN) k = 1 → s.get (.host .DP_HANDLE) k = h.toNat → s.get (.host .DP_DIR) k = 0 →
    ∃ t, exec (.dpClose n h aud) s = .next t ∧ t.get (.host .DP_OPEN) k = 0 ∧
      t.Answers n.val 0 0 (packFields [(s.get (.host .DP_COUNT) k, 8), (s.get (.host .DP_ADDR) k, 5)]) ∧
      s.SameBut (.host .DP_OPEN :: mailFlds) t ∧ s.SameMem t ∧ s.SameQueue t) ∧
  (∀ (k : Fin 4) (h : Half) (b : Word) (d : List (BitVec 8)) (os : List Flips) (aud : Bool) (a n : Nat) (s : State), s.narrows = true →
    s.get (.host .SES_ID) k.val ≠ 0 → s.dpOpenFor k.val h.toNat true = true → s.get (.host .DP_BIDX) k.val = b.toNat →
    s.get (.host .DP_ADDR) k.val = a → d.length = n → 0 < n → n ≤ 4096 → n % s.get (.host .DP_INC) k.val = 0 →
    a + n ≤ s.get (.host .DP_HIGH) k.val →  s.dpReady a = true → (∀ l ∈ burstLines a n, (flipLines (burstLines a n) os s).lineOut l = .clean ∨ (flipLines (burstLines a n) os s).lineOut l = .corrected) →
    ∃ t, exec (.dataWr k h b d os aud) s = .next t ∧ (∀ j < n, some (t.byte (a + j)) = d[j]?) ∧
      (∀ c < 2 ^ 41, c < a ∨ a + n ≤ c → t.byte c = s.byte c) ∧ t.get (.host .DP_ADDR) k.val = a + n ∧
      t.get (.host .DP_COUNT) k.val = (s.get (.host .DP_COUNT) k.val + n) % 2 ^ 64 ∧
      t.get (.host .DP_BIDX) k.val = (b.toNat + 1) % 2 ^ 32 ∧ s.SameQueue t) ∧
  (∀ (k : Fin 4) (h : Half) (b : Word) (d : List (BitVec 8)) (os : List Flips) (aud : Bool) (s : State), s.narrows = true →
    s.get (.host .SES_ID) k.val ≠ 0 → s.dpOpenFor k.val h.toNat true = true → b.toNat < s.get (.host .DP_BIDX) k.val →
    ∃ t, exec (.dataWr k h b d os aud) s = .next t ∧ t.sent = ⟨.frame, 5, h.toNat, packFields [(b.toNat, 4), (0, 1), (0, 3), (s.get (.host .DP_COUNT) k.val, 8), (s.get (.host .DP_ADDR) k.val, 5), (0, 3)]⟩ :: s.sent ∧ s.SameBut [.host .SES_OUT] t ∧
      s.SameMem t ∧ s.SameQueue t) ∧
  (∀ (k : Fin 4) (h : Half) (b : Word) (n : Half) (os : List Flips) (aud : Bool) (a : Nat) (s : State), s.narrows = true →
    s.get (.host .SES_ID) k.val ≠ 0 → s.dpOpenFor k.val h.toNat false = true → s.get (.host .DP_ADDR) k.val = a → 0 < n.toNat →
    n.toNat ≤ 4096 → n.toNat % s.get (.host .DP_INC) k.val = 0 → a + n.toNat ≤ s.get (.host .DP_HIGH) k.val →
     s.dpReady a = true → (∀ l ∈ burstLines a n.toNat, (flipLines (burstLines a n.toNat) os s).lineOut l = .clean ∨ (flipLines (burstLines a n.toNat) os s).lineOut l = .corrected) →
    ∃ t, exec (.dataRdReq k h b n os aud) s = .next t ∧ t.sent = ⟨.frame, 7, h.toNat, packFields [(b.toNat, 4), (0, 1), (0, 3),
      (s.readN a n.toNat, n.toNat)]⟩ :: s.sent ∧ t.get (.host .DP_ADDR) k.val = a + n.toNat ∧ s.SameMem t ∧ s.SameQueue t) ∧
  (∀ (k : Fin 4) (h : Half) (b : Word) (n : Half) (os : List Flips) (aud : Bool) (s : State), s.narrows = true →
    s.get (.host .SES_ID) k.val ≠ 0 → s.dpOpenFor k.val h.toNat false = true → 0 < n.toNat → n.toNat ≤ 4096 →
    n.toNat % s.get (.host .DP_INC) k.val = 0 → s.get (.host .DP_HIGH) k.val < s.get (.host .DP_ADDR) k.val + n.toNat →
    ∃ t, exec (.dataRdReq k h b n os aud) s = .next t ∧ t.sent = ⟨.frame, 7, h.toNat, packFields [(b.toNat, 4), (0x0B, 1), (0, 3), (0, 0)]⟩
      :: s.sent ∧ s.SameBut [.host .SES_OUT] t ∧ s.SameMem t ∧ s.SameQueue t)

/-- The vehicle's buses and axle time (R14, R522, R524, R526, R544, R558): a stop frame begins SAFE_HOLD; a CAN port settles on the format
in which it hears frames; the first synchronisation steps axle time to the time received, and HOLDOVER follows 3 s without one; a read of
the low word latches the high word; ARP and ICMP are answered. Next states of their own effect: STOP_FRAME, CAN_PROBE_TIMEOUT,
CAN_BUS_OFF, TIME_SYNC_RECEIVED, TIME_SYNC_HOLDOVER, ARP_REQUEST, ICMP_ECHO, ATIME_READ, INTERFACE_STATUS_WRITE. Where a clause touches
them it follows the model's choices of log entries 1, 38, 58, 64, 66. -/
def Obligations.BusesAndTime : Prop :=
  (∀ (i : BitVec 29) (e : Bool) (f : CanFmt) (d : List (BitVec 8)) (s : State), s.get (.saf .STOP_CFG_EN) = 0 →
    exec (.stopFrame i e f d) s = .next s) ∧
  (∀ (i : BitVec 29) (e : Bool) (f : CanFmt) (d : List (BitVec 8)) (s : State), s.get (.saf .STOP_CFG_EN) = 1 → s.stopId i.toNat e = true →
    stopForm f d = true → s.settled →
    ∃ t, exec (.stopFrame i e f d) s = .next t ∧ t.HoldBegins 7 ∧ t.get (.saf .STOP_STAT_SEEN) = 1 ∧
      t.get (.saf .STOP_STAT_CNT) = min (s.get (.saf .STOP_STAT_CNT) + 1) 65535 ∧ s.SameMem t ∧ s.SameQueue t) ∧
  (∀ (i : BitVec 29) (e : Bool) (f : CanFmt) (d : List (BitVec 8)) (s : State), s.get (.saf .STOP_CFG_EN) = 1 → s.stopId i.toNat e = true →
    stopForm f d = false → exec (.stopFrame i e f d) s = .next (s.set (.saf .STOP_STAT_BAD) 1)) ∧
  (∀ (p : Fin 3) (l : List (BitVec 4)) (c : BitVec 4) (s : State), s.narrows = true → s.get (.host .CAN_SET) (p.val + 1) = 0 →
    l[s.get (.host .CAN_CAND) (p.val + 1)]? = some c → s.get (.host .CAN_AT) (p.val + 1) + us 250000 ≤ s.now →
    ∃ t, exec (.canProbeTimeout p true l) s = .next t ∧ t.get (.host .CAN_SET) (p.val + 1) = 1 ∧
      t.get (.host .CAN_FMT) (p.val + 1) = c.toNat ∧ s.SameBut [.host .CAN_SET, .host .CAN_FMT, .host .CAN_CAND] t ∧ s.SameMem t ∧
      s.SameQueue t) ∧
  (∀ (p : Fin 3) (l : List (BitVec 4)) (s : State), s.narrows = true → s.get (.host .CAN_SET) (p.val + 1) = 0 →
    s.get (.host .CAN_CAND) (p.val + 1) + 1 < min 4 l.length →
    s.get (.host .CAN_AT) (p.val + 1) + us 250000 ≤ s.now →
    exec (.canProbeTimeout p false l) s = .next ((s.set (.host .CAN_CAND) (s.get (.host .CAN_CAND) (p.val + 1) + 1) (p.val + 1)).set (.host .CAN_AT) s.now (p.val + 1))) ∧
  (∀ (p : Fin 3) (s : State), exec (.canBusOff p) s = .next ((((s.set (.host .CAN_SET) 0 (p.val + 1)).set (.host .CAN_CAND) 0
    (p.val + 1)).set (.host .CAN_FMT) 0 (p.val + 1)).set (.host .CAN_AT) s.now (p.val + 1))) ∧
  (∀ (g : BitVec 64) (s : State), s.narrows = true → s.get (.ifc .TSYNC_STAT_STATE) = 0 → s.nsNow < 2 ^ 64 →
    ∃ t, exec (.timeSyncReceived 0 g) s = .next t ∧ t.get (.ifc .TSYNC_STAT_STATE) = 1 ∧ t.get (.ifc .TSYNC_STAT_STEPPED) = 1 ∧
      t.get (.ifc .TSYNC_STAT_PORT) = 0 ∧ t.axleTime = g.toNat ∧ s.SameMem t ∧ s.SameQueue t) ∧
  (∀ (g : BitVec 64) (s : State), s.narrows = true → s.tsQuiet 0 = false →
    exec (.timeSyncReceived 1 g) s = .next (s.set (.host .TS_AT) (s.now + 1) 1)) ∧
  (∀ s : State, exec .timeSyncHoldover s = .next (if s.get (.ifc .TSYNC_STAT_STATE) = 1 ∧ s.tsQuiet 0 = true ∧ s.tsQuiet 1 = true then
    s.set (.ifc .TSYNC_STAT_STATE) 2 else s)) ∧
  (∀ (p : Fin 2) (s : State), s.narrows = true → exec (.arpRequest p) s = .next (s.send .net 0 p.val) ∧
    exec (.icmpEcho p) s = .next (s.send .net 1 p.val)) ∧
  (∀ (w : Who) (s : State), s.readable w 0x1010000040 →
    ∃ t, exec (.atimeRead w) s = .next t ∧ t.resp = .data (s.axleTime % 2 ^ 32) ∧ t.get (.ifc .ATIME_HI) = s.axleTime / 2 ^ 32 ∧
      s.SameBut [.ifc .ATIME_HI] t ∧ s.SameMem t ∧ s.SameQueue t) ∧
  (∀ s : State, s.narrows = true →
    ∃ t, exec .interfaceStatusWrite s = .next t ∧ t.readN 0x18000021C0 8 = s.axleTime ∧
      t.readN 0x18000021C8 1 = s.get (.saf .AXLE_MODE_MODE) % 256 ∧ t.readN 0x18000021C9 1 = s.get (.saf .AXLE_MODE_CAUSE) % 256 ∧
      (∀ a, a < 0x18000021C0 ∨ 0x1800002200 ≤ a → t.byte a = s.byte a) ∧ s.SameBut [] t ∧ s.SameQueue t)

/-- The power ladder (R560, R562, R564 to R569, R571, R572, R585 to R587): a descent begins when its conditions and its dwell have lasted,
goes one state at a time, and a wake abandons or undoes it; Storage gives way to Transport below V_CRIT; a module being pulled enters
SAFE_HOLD, releases its coils and flushes. Next states of their own effect: LADDER_DWELL_EXPIRY, LADDER_STEP_COMPLETE, WAKE_QUALIFIED,
STORAGE_SUPPLY_SAMPLE, ALARM_EXPIRY, PRES_N_WARNING, FLUSH_COMPLETE, PRES_N_REASSERT. Where a clause touches them it follows the model's
choices of log entries 16, 17, 18, 38, 61. -/
def Obligations.PowerLadder : Prop :=
  (∀ (p : Pins) (s : State), s.get (.aon .LADDER_STAT_MOVING) = 1 → exec (.ladderDwellExpiry p) s = .next s) ∧
  (∀ (p : Pins) (s : State), s.get (.aon .LADDER_STAT_MOVING) = 0 → s.get (.aon .BOOTING) = 0 → s.get (.aon .LADDER_STAT_STATE) = 0 →
    s.get (.aon .LADDER_DWELL_T_HOLD) ≠ 0 →
    exec (.ladderDwellExpiry p) s = .next (if s.mayHold p then (s.set (.aon .LADDER_STAT_MOVING) 1).set (.aon .LAD_TGT) 1 else s)) ∧
  (∀ (p : Pins) (s : State), s.get (.aon .LADDER_STAT_MOVING) = 0 → s.get (.aon .BOOTING) = 0 → s.get (.aon .LADDER_STAT_STATE) = 3 →
    s.get (.aon .LADDER_DWELL_T_STOR) ≠ 0 → s.get (.aon .LAD_AT) + secs (3600 * s.get (.aon .LADDER_DWELL_T_STOR)) ≤ s.now →
    exec (.ladderDwellExpiry p) s = .next (((s.set (.aon .LADDER_STAT_MOVING) 1).set (.aon .LAD_TGT) 4).set (.aon .FLUSH) 2)) ∧
  (∀ s : State, s.get (.aon .LADDER_STAT_MOVING) = 0 → exec .ladderStepComplete s = .next s) ∧
  (∀ s : State, s.get (.aon .LADDER_STAT_MOVING) = 1 → s.get (.aon .BOOTING) = 0 → s.get (.aon .LADDER_STAT_STATE) = 0 →
    s.get (.aon .LAD_TGT) = 1 →
    ∃ t, exec .ladderStepComplete s = .next t ∧ t.get (.aon .LADDER_STAT_STATE) = 1 ∧ t.get (.aon .LADDER_STAT_MOVING) = 0 ∧
      t.get (.aon .LADDER_STAT_DEEPEST) = 1 ∧ t.get (.aon .LAD_AT) = s.now % 2 ^ 64 ∧
      (∀ n, n = 2 ∨ n = 6 ∨ n = 7 ∨ n = 11 → t.get (.saf .ISL_STAT_STATE) n = 1) ∧
      (∀ n, n = 0 ∨ n = 1 ∨ n = 8 ∨ n = 9 ∨ n = 10 → t.get (.saf .ISL_STAT_STATE) n = 0) ∧ s.SameQueue t) ∧
  (∀ (x : Fin 16) (s : State), s.get (.aon .BOOTING) = 1 → exec (.wakeQualified x) s = .next s) ∧
  (∀ s : State, s.get (.aon .BOOTING) = 0 → s.get (.aon .LADDER_STAT_STATE) = 1 → s.get (.aon .WAKE_EN_EN_KEY) = 1 →
    ∃ t, exec (.wakeQualified 2) s = .next t ∧ t.get (.aon .LADDER_STAT_STATE) = 0 ∧ t.get (.aon .LADDER_STAT_MOVING) = 0 ∧
      t.get (.aon .WAKE_CAUSE_SRC) = 2 ∧ t.get (.aon .WAKE_CAUSE_FROM) = 1 ∧
      t.get (.aon .WAKE_CAUSE_CNT) = min (s.get (.aon .WAKE_CAUSE_CNT) + 1) 65535 ∧
      (s.get (.aon .LADDER_STAT_MOVING) = 1 → t.get (.aon .LADDER_STAT_ABANDONED) = 1) ∧ s.SameQueue t) ∧
  (∀ (x : Fin 16) (s : State), s.wakeEnabled x.val = false → exec (.wakeQualified x) s = .next s) ∧
  (∀ (c : BitVec 12) (s : State), s.get (.aon .LADDER_STAT_STATE) ≠ 4 → exec (.storageSupplySample c) s = .next s) ∧
  (∀ (c : BitVec 12) (s : State), s.get (.aon .LADDER_STAT_STATE) = 4 → s.get (.aon .BOOTING) = 0 → s.get (.aon .HKWIN_AUTO_TR) = 1 →
    c.toNat < s.get (.aon .HKWIN_V_CRIT) → s.get (.aon .FLUSH) = 0 →
    ∃ t, exec (.storageSupplySample c) s = .next t ∧ t.get (.aon .LADDER_STAT_STATE) = 5 ∧ t.get (.aon .LADDER_STAT_MOVING) = 0 ∧
      t.get (.saf .ISL_STAT_STATE) 0 = 3 ∧ s.SameQueue t) ∧
  (∀ s : State, s.get (.aon .ALARM) = 0 → exec .alarmExpiry s = .next s) ∧
  (∀ s : State, s.get (.aon .ALARM) ≠ 0 → s.get (.aon .ALARM_AT) ≠ 0 → s.get (.aon .ALARM_AT) - 1 + secs (60 * s.get (.aon .ALARM)) ≤ s.now →
    s.get (.aon .BOOTING) = 0 → s.get (.aon .LADDER_STAT_STATE) = 2 → s.bit (.aon .WAKE_EN_EN_MISC) 4 = true →
    ∃ t, exec .alarmExpiry s = .next t ∧ t.get (.aon .LADDER_STAT_STATE) = 0 ∧ t.get (.aon .WAKE_CAUSE_SRC) = 10 ∧
      t.get (.aon .ALARM_AT) = 0 ∧ s.SameQueue t) ∧
  (∀ s : State, 2 ≤ s.get (.aon .LADDER_STAT_STATE) →
    exec .presNWarning s = .next (((s.set (.aon .LADDER_STAT_PRES_WARN) 1).set (.aon .PRESENT) 0).set (.aon .WARN_TIME) s.axleTime)) ∧
  (∀ s : State, s.get (.aon .LADDER_STAT_STATE) = 0 → s.get (.aon .BOOTING) = 0 → s.settled → s.get (.aon .HEAD_ERASED) = 1 →
    ∃ t, exec .presNWarning s = .next t ∧ t.HoldBegins 8 ∧ t.get (.aon .LADDER_STAT_PRES_WARN) = 1 ∧ t.get (.aon .FLUSH) = 1 ∧
      (∀ c < 8, t.get (.saf .CD_STAT_ON) c = 0) ∧ s.SameMem t ∧ s.SameQueue t) ∧
  (∀ s : State, s.get (.aon .FLUSH) = 1 →
    exec .flushComplete s = .next (((((s.set (.aon .FLUSH_SEQ) (s.get (.mem .FR_SEQ))).set (.aon .FLUSH_TIME) (s.get (.aon .WARN_TIME))).set (.aon .FLUSH) 0).send .flash 0x17000000
      0x8000).set (.aon .HEAD_VALID) 1)) ∧
  (∀ s : State, exec .presNReassert s = .next (s.set (.aon .PRESENT) 1))

/-- Start-up and supply loss (R351, R574 to R579, R585, R589 to R592): a boot begins with the supply, waits for PRES_N and goes step by
step; the start-up self-test records what failed; the wear account goes on from the newer snapshot; a short dip is ridden through, a
brown-out loses everything but flash and the always-on island, and its recovery boots again; a power-on reset starts axle time at 0. Next
states of their own effect: SUPPLY_RISE, PRES_N_QUALIFIED, BOOT_STEP, SELF_TEST_COMPLETE, SELF_TEST_DUE, SUPPLY_DIP, DIP_RIDE_THROUGH,
BROWNOUT, BROWNOUT_RECOVERY, AON_POWER_ON_RESET. Where a clause touches them it follows the model's choices of log entries 4, 6, 60, 61,
69, 73. -/
def Obligations.StartUp : Prop :=
  (∀ s : State, s.get (.aon .SUPPLY) = 1 → exec .supplyRise s = .next s) ∧
  (∀ s : State, s.get (.aon .SUPPLY) = 0 →
    exec .supplyRise s = .next (((((s.set (.aon .SUPPLY) 1).set (.aon .BOOTING) 1).set (.aon .BOOT_KIND) 0).set (.aon .BOOT) 1).set
      (.aon .STOPPED) 0)) ∧
  (∀ s : State, exec .presNQualified s = .next (if s.get (.aon .BOOTING) ≠ 0 ∧ s.get (.aon .BOOT) = 1 then
    (s.set (.aon .PRESENT) 1).set (.aon .BOOT) 2 else s.set (.aon .PRESENT) 1)) ∧
  (∀ (k : Fin 19) (s : State), s.get (.aon .BOOTING) = 0 → exec (.bootStep k) s = .next s) ∧
  (∀ (k : Fin 19) (s : State), k.val ∈ [3, 9, 12, 13] → s.get (.aon .BOOTING) = 1 → s.get (.aon .STOPPED) = 0 →
    s.get (.aon .BOOT) + 1 = k.val → s.get (.aon .PRESENT) = 1 → exec (.bootStep k) s = .next (s.set (.aon .BOOT) k.val)) ∧
  (∀ s : State, s.get (.aon .BOOTING) = 1 → s.get (.aon .BOOT) = 13 → s.get (.saf .STEST_RUNNING) = 1 → exec (.bootStep 14) s = .next s) ∧
  (∀ s : State, s.get (.aon .BOOTING) = 1 → s.get (.aon .STOPPED) = 0 → s.get (.aon .BOOT) = 9 → s.get (.aon .PRESENT) = 1 →
    ∃ t, exec (.bootStep 10) s = .next t ∧ t.get (.aon .BOOT) = 10 ∧ t.get (.aon .LADDER_STAT_STATE) = 0 ∧
      t.get (.aon .LADDER_STAT_MOVING) = 0 ∧ s.SameMem t ∧ s.SameQueue t) ∧
  (∀ s : State, s.get (.aon .BOOTING) = 1 → s.get (.aon .STOPPED) = 0 → s.get (.aon .BOOT) = 15 → s.get (.aon .PRESENT) = 1 →
    ∃ t, exec (.bootStep 16) s = .next t ∧ t.get (.saf .LOCK_LOCK) = 1 ∧ t.get (.saf .LOCK_ISL_LOCK) = 0x3FFF ∧
      (s.get (.drv .TR_SNAPQ) ≠ 0 → s.get (.drv .TR_LOST) = 0 → ∀ x < 12,
        t.get (.drv .TR_D) x = s.get (.drv .TR_SNAPD) (12 * (s.get (.drv .TR_SNAPQ) % 2) + x) % 2 ^ 64) ∧ s.SameMem t ∧
      s.SameQueue t) ∧
  (∀ s : State, s.get (.aon .BOOTING) = 1 → s.get (.aon .STOPPED) = 0 → s.get (.aon .BOOT) = 17 → s.get (.aon .PRESENT) = 1 →
    s.get (.host .ACT_ON) = 0 → s.get (.aon .HEAD_ERASED) = 1 →
    exec (.bootStep 18) s = .next ((s.set (.aon .BOOT) 18).set (.aon .BOOTING) 0)) ∧
  (∀ (x : SelfTest) (s : State), s.get (.saf .STEST_RUNNING) = 0 → exec (.selfTestComplete x) s = .next s) ∧
  (∀ (x : SelfTest) (s : State), s.get (.saf .STEST_RUNNING) = 1 → x.straits = 0 → x.srams = 0 → x.logic = 0 →
    ∃ t, exec (.selfTestComplete x) s = .next t ∧ t.get (.saf .STEST_RUNNING) = 0 ∧ t.get (.saf .STEST_FAIL) = selfTestItems x ∧
      t.get (.saf .STEST_PASS) = (selfTestItems x == 0).toNat ∧ s.SameMem t ∧ s.SameQueue t) ∧
  (∀ s : State, exec .selfTestDue s = .next (if 24 ≤ s.runHours then (s.set (.saf .STEST_DUE) 1).send .level5 578 else s)) ∧
  (∀ s : State, exec .supplyDip s = .next ((s.set (.aon .DIP_ON) 1).set (.aon .DIP_AT) s.now)) ∧
  (∀ s : State, s.get (.aon .DIP_ON) = 1 → s.now ≤ s.get (.aon .DIP_AT) + us 500 →
    exec .dipRideThrough s = .next ((s.set (.aon .DIP_ON) 0).incSat (.aon .LADDER_STAT_BOR_DIP)) ∧ exec .brownout s = .next s) ∧
  (∀ s : State, s.get (.aon .DIP_ON) = 1 → s.get (.aon .DIP_AT) + us 500 < s.now →
    ∃ t, exec .brownout s = .next t ∧ t.get (.aon .LADDER_STAT_BROWNOUT) = 1 ∧ t.get (.aon .SUPPLY) = 0 ∧ t.get (.aon .BOOTING) = 0 ∧
      (∀ k, t.get (.host .SES_ID) k = 0) ∧ (∀ a < 2 ^ 41, t.byte a = 0) ∧ s.SameQueue t) ∧
  (∀ s : State, s.get (.aon .SUPPLY) = 0 → s.get (.aon .LADDER_STAT_BROWNOUT) = 1 →
    ∃ t, exec .brownoutRecovery s = .next t ∧ t.get (.aon .SUPPLY) = 1 ∧ t.get (.aon .BOOTING) = 1 ∧ t.get (.aon .BOOT) = 2 ∧
      t.get (.aon .BOOT_KIND) = 3 ∧ t.get (.aon .WAKE_CAUSE_SRC) = 12 ∧ s.SameMem t ∧ s.SameQueue t) ∧
  (∀ s : State,
    ∃ t, exec .aonPowerOnReset s = .next t ∧ t.axleTime = 0 ∧ t.get (.aon .LADDER_STAT_POR) = 1 ∧ t.get (.aon .SUPPLY) = 0 ∧
      (∀ a < 2 ^ 41, t.byte a = 0) ∧ s.SameQueue t)

/-- An access to an unmapped address, over the sideband or to memory, ends with ERROR and cause 0x02 and nothing else happens (R49). -/
def Obligations.UnmappedAccess : Prop :=
  (∀ (w : Who) (a : BitVec 40) (wide : Bool) (v : Word) (p : Pins) (same : Word) (s : State), windowOf a.toNat = none →
    exec (.registerWrite w a wide v p same) s = .next (s.answer (.error 2))) ∧
  (∀ (w : Who) (p : Fin 32) (wr : Bool) (a : BitVec 40) (n : Fin 257) (d : List (BitVec 8)) (e : Ecc) (s : State), p.val < 22 → 0 < n.val →
    a.toNat / 256 = (a.toNat + n.val - 1) / 256 → s.get (.mem .MQ_KIND) p.val = 0 → windowOf a.toNat = none →
    exec (.memoryRequest w p wr a n d e) s = .next (s.answer (.error 2)))

/-- Accesses over the sideband (R5, R7, R8, R32, R43, R49, R469, R472): unmapped addresses end with ERROR 2, a closed island with CLOSED,
an access that fits no register with an access error, a write the firewall refuses with ERROR 3 and the first of them in the log; any
other write has the effect of its register, here the dwell times; a W1C bit that hardware sets in the same cycle stays 1. Next states of
their own effect: REGISTER_WRITE. Where a clause touches them it follows the model's choices of log entries 15, 74. -/
def Obligations.SidebandAccess : Prop :=
  (∀ (w : Who) (a : BitVec 40) (wide : Bool) (v : Word) (p : Pins)  (same : Word) (n : Nat) (s : State), windowOf a.toNat = some n → s.islandOpen n w = false →
    exec (.registerWrite w a wide v p same) s = .next ((s.set (.saf .ISL_STAT_CLOSED_SEEN) 1 n).answer .closed)) ∧
  (∀ (w : Who) (a : BitVec 40) (v : Word) (p : Pins)  (same : Word) (n : Nat) (s : State), windowOf a.toNat = some n → s.islandOpen n w = true →
    exec (.registerWrite w a false v p same) s = .next (s.answer .accessError)) ∧
  (∀ (w : Who) (a : BitVec 40) (v : Word) (p : Pins)  (same : Word) (n : Nat) (s : State), windowOf a.toNat = some n → s.islandOpen n w = true →
    (a.toNat % 4 ≠ 0 ∨ regExists a.toNat = false) → exec (.registerWrite w a true v p same) s = .next (s.answer .accessError)) ∧
  (∀ (w : Who) (a : BitVec 40) (v : Word) (p : Pins)  (same : Word) (n : Nat) (s : State), windowOf a.toNat = some n → s.islandOpen n w = true →
    a.toNat % 4 = 0 → regExists a.toNat = true → s.mayWrite w a.toNat (settled a.toNat v.toNat same.toNat) = false → s.get (.saf .VIOL_VALID) = 0 →
    ¬(0x1000000400 ≤ a.toNat ∧ a.toNat < 0x1000000500 ∧ a.toNat % 16 = 4) →
    ∃ t, exec (.registerWrite w a true v p same) s = .next t ∧ t.resp = .error 3 (some n) ∧ t.get (.saf .VIOL_VALID) = 1 ∧ t.get (.saf .VIOL_TYPE) = 1 ∧
      t.get (.saf .VIOL_INIT) = w.code ∧ t.get (.saf .VIOL_AHI) = a.toNat / 2 ^ 32 ∧ t.get (.saf .VIOL_ADDR) = a.toNat % 2 ^ 32 ∧
      t.sent = ⟨.level4, 472, 1, w.code⟩ :: s.sent ∧
      s.SameBut [.saf .VIOL_VALID, .saf .VIOL_TYPE, .saf .VIOL_INIT, .saf .VIOL_AHI, .saf .VIOL_ADDR] t ∧ s.SameMem t ∧ s.SameQueue t) ∧
  (∀ (w : Who) (a : BitVec 40) (v : Word) (p : Pins)  (same : Word) (s : State), s.reaches w a.toNat (settled a.toNat v.toNat same.toNat) → a.toNat % 4 = 0 →
    exec (.registerWrite w a true v p same) s = .next ((registerEffect w p a.toNat (settled a.toNat v.toNat same.toNat) s).answer .ok)) ∧
  (∀ (w : Who) (v : Word) (p : Pins)  (same : Word) (s : State), s.reaches w 0x1090000014 v.toNat →
    exec (.registerWrite w 0x1090000014 true v p same) s = .next (((((s.set (.aon .LADDER_DWELL_T_HOLD) (bits v.toNat 0 8)).set
      (.aon .LADDER_DWELL_T_STBY) (bits v.toNat 8 8)).set (.aon .LADDER_DWELL_T_PARK) (bits v.toNat 16 8)).set (.aon .LADDER_DWELL_T_STOR)
      (bits v.toNat 24 8)).answer .ok)) ∧
  (∀ (a : Nat) (v same : Word) (k : Nat), k < 32 →
    (settled a v.toNat same.toNat).testBit k = (v.toNat.testBit k && !(same.toNat.testBit k && (w1cBits a).testBit k)))

/-- The queue (the host's form of a block): a step carries out the command in front on the state with the queue's rest; with no command
waiting only the time since reset moves on, by one fine tick. Where a clause touches them it follows the model's choices of log entry 3.
-/
def Obligations.QueueStep : Prop :=
  (∀ (c : Instr) (r : List Instr) (s : State), s.pending = c :: r → step s = exec c { s with pending := r }) ∧
  (∀ s : State, s.pending = [] → step s = .next { s with now := s.now + 1 })

/-- Every command of the table ends in a next state, and neither takes a waiting command nor lets time pass. Where a clause touches them
it follows the model's choices of log entry 10. -/
def Obligations.EveryCommandCompletes : Prop :=
  ∀ (c : Instr) (s : State), ∃ t, exec c s = .next t ∧ s.SameQueue t

/-- The state after reset has both lists in canonical form. -/
def Obligations.ResetInvariant : Prop :=
 State.reset.Inv

/-- Every step keeps the canonical form of both lists, so that equal registers and equal memories are equal data. -/
def Obligations.StepKeepsInvariant : Prop :=
  ∀ s t : State, s.Inv → step s = .next t → t.Inv
end

