-- ==== Sys2Proof/Laws/State.lean ====
section
/-!
SUPPORT. The laws of the operations over the state: what each leaves alone, reading after writing, the canonical forms of the
quantities and of memory, and `Keeps`, what every operation of the machine keeps.
-/
namespace Sys2Proof.Machine
open Sys2Proof

section updates
variable (s : State) (f : Fld) (v i j : Nat) (r : Resp) (k : MsgKind) (a b c : Nat) (x : BitVec 8)

@[simp] theorem State.set_mem : (s.set f v i j).mem = s.mem := rfl
@[simp] theorem State.set_pending : (s.set f v i j).pending = s.pending := rfl
@[simp] theorem State.set_now : (s.set f v i j).now = s.now := rfl
@[simp] theorem State.set_fresh : (s.set f v i j).fresh = s.fresh := rfl
@[simp] theorem State.set_resp : (s.set f v i j).resp = s.resp := rfl
@[simp] theorem State.set_sent : (s.set f v i j).sent = s.sent := rfl
@[simp] theorem State.set_byte : (s.set f v i j).byte a = s.byte a := rfl
@[simp] theorem State.send_vals : (s.send k a b c).vals = s.vals := rfl
@[simp] theorem State.send_mem : (s.send k a b c).mem = s.mem := rfl
@[simp] theorem State.send_pending : (s.send k a b c).pending = s.pending := rfl
@[simp] theorem State.send_now : (s.send k a b c).now = s.now := rfl
@[simp] theorem State.send_fresh : (s.send k a b c).fresh = s.fresh := rfl
@[simp] theorem State.send_resp : (s.send k a b c).resp = s.resp := rfl
@[simp] theorem State.send_sent : (s.send k a b c).sent = ⟨k, a, b, c⟩ :: s.sent := rfl
@[simp] theorem State.send_get : (s.send k a b c).get f i j = s.get f i j := rfl
@[simp] theorem State.answer_vals : (s.answer r).vals = s.vals := rfl
@[simp] theorem State.answer_mem : (s.answer r).mem = s.mem := rfl
@[simp] theorem State.answer_pending : (s.answer r).pending = s.pending := rfl
@[simp] theorem State.answer_now : (s.answer r).now = s.now := rfl
@[simp] theorem State.answer_fresh : (s.answer r).fresh = s.fresh := rfl
@[simp] theorem State.answer_resp : (s.answer r).resp = r := rfl
@[simp] theorem State.answer_sent : (s.answer r).sent = s.sent := rfl
@[simp] theorem State.answer_get : (s.answer r).get f i j = s.get f i j := rfl
@[simp] theorem State.setByte_vals : (s.setByte a x).vals = s.vals := rfl
@[simp] theorem State.setByte_pending : (s.setByte a x).pending = s.pending := rfl
@[simp] theorem State.setByte_now : (s.setByte a x).now = s.now := rfl
@[simp] theorem State.setByte_get : (s.setByte a x).get f i j = s.get f i j := rfl

end updates

/-! ## Field keys name fields -/

theorem SafFld.idx_lt (f : SafFld) : f.ctorIdx < 1000 := by cases f <;> exact of_decide_eq_true rfl
theorem IfcFld.idx_lt (f : IfcFld) : f.ctorIdx < 1000 := by cases f <;> exact of_decide_eq_true rfl
theorem LoopFld.idx_lt (f : LoopFld) : f.ctorIdx < 1000 := by cases f <;> exact of_decide_eq_true rfl
theorem EdgeFld.idx_lt (f : EdgeFld) : f.ctorIdx < 1000 := by cases f <;> exact of_decide_eq_true rfl
theorem GrdFld.idx_lt (f : GrdFld) : f.ctorIdx < 1000 := by cases f <;> exact of_decide_eq_true rfl
theorem SnsFld.idx_lt (f : SnsFld) : f.ctorIdx < 1000 := by cases f <;> exact of_decide_eq_true rfl
theorem MemFld.idx_lt (f : MemFld) : f.ctorIdx < 1000 := by cases f <;> exact of_decide_eq_true rfl
theorem ActFld.idx_lt (f : ActFld) : f.ctorIdx < 1000 := by cases f <;> exact of_decide_eq_true rfl
theorem AonFld.idx_lt (f : AonFld) : f.ctorIdx < 1000 := by cases f <;> exact of_decide_eq_true rfl
theorem DrvFld.idx_lt (f : DrvFld) : f.ctorIdx < 1000 := by cases f <;> exact of_decide_eq_true rfl
theorem HostFld.idx_lt (f : HostFld) : f.ctorIdx < 1000 := by cases f <;> exact of_decide_eq_true rfl
theorem SafFld.idx_inj {a b : SafFld} (h : a.ctorIdx = b.ctorIdx) : a = b := by
  rw [← SafFld.ofNat_ctorIdx a, h, SafFld.ofNat_ctorIdx]
theorem IfcFld.idx_inj {a b : IfcFld} (h : a.ctorIdx = b.ctorIdx) : a = b := by
  rw [← IfcFld.ofNat_ctorIdx a, h, IfcFld.ofNat_ctorIdx]
theorem LoopFld.idx_inj {a b : LoopFld} (h : a.ctorIdx = b.ctorIdx) : a = b := by
  rw [← LoopFld.ofNat_ctorIdx a, h, LoopFld.ofNat_ctorIdx]
theorem EdgeFld.idx_inj {a b : EdgeFld} (h : a.ctorIdx = b.ctorIdx) : a = b := by
  rw [← EdgeFld.ofNat_ctorIdx a, h, EdgeFld.ofNat_ctorIdx]
theorem GrdFld.idx_inj {a b : GrdFld} (h : a.ctorIdx = b.ctorIdx) : a = b := by
  rw [← GrdFld.ofNat_ctorIdx a, h, GrdFld.ofNat_ctorIdx]
theorem SnsFld.idx_inj {a b : SnsFld} (h : a.ctorIdx = b.ctorIdx) : a = b := by
  rw [← SnsFld.ofNat_ctorIdx a, h, SnsFld.ofNat_ctorIdx]
theorem MemFld.idx_inj {a b : MemFld} (h : a.ctorIdx = b.ctorIdx) : a = b := by
  rw [← MemFld.ofNat_ctorIdx a, h, MemFld.ofNat_ctorIdx]
theorem ActFld.idx_inj {a b : ActFld} (h : a.ctorIdx = b.ctorIdx) : a = b := by
  rw [← ActFld.ofNat_ctorIdx a, h, ActFld.ofNat_ctorIdx]
theorem AonFld.idx_inj {a b : AonFld} (h : a.ctorIdx = b.ctorIdx) : a = b := by
  rw [← AonFld.ofNat_ctorIdx a, h, AonFld.ofNat_ctorIdx]
theorem DrvFld.idx_inj {a b : DrvFld} (h : a.ctorIdx = b.ctorIdx) : a = b := by
  rw [← DrvFld.ofNat_ctorIdx a, h, DrvFld.ofNat_ctorIdx]
theorem HostFld.idx_inj {a b : HostFld} (h : a.ctorIdx = b.ctorIdx) : a = b := by
  rw [← HostFld.ofNat_ctorIdx a, h, HostFld.ofNat_ctorIdx]

/-- Two quantities with one key are one quantity. -/
theorem Fld.key_inj {f g : Fld} (h : f.key = g.key) : f = g := by
  cases f <;> cases g <;> rename_i x y <;> simp only [Fld.key] at h
  · exact congrArg _ (SafFld.idx_inj (Nat.add_left_cancel h))
  · have := SafFld.idx_lt x; have := IfcFld.idx_lt y; omega
  · have := SafFld.idx_lt x; have := LoopFld.idx_lt y; omega
  · have := SafFld.idx_lt x; have := EdgeFld.idx_lt y; omega
  · have := SafFld.idx_lt x; have := GrdFld.idx_lt y; omega
  · have := SafFld.idx_lt x; have := SnsFld.idx_lt y; omega
  · have := SafFld.idx_lt x; have := MemFld.idx_lt y; omega
  · have := SafFld.idx_lt x; have := ActFld.idx_lt y; omega
  · have := SafFld.idx_lt x; have := AonFld.idx_lt y; omega
  · have := SafFld.idx_lt x; have := DrvFld.idx_lt y; omega
  · have := SafFld.idx_lt x; have := HostFld.idx_lt y; omega
  · have := IfcFld.idx_lt x; have := SafFld.idx_lt y; omega
  · exact congrArg _ (IfcFld.idx_inj (Nat.add_left_cancel h))
  · have := IfcFld.idx_lt x; have := LoopFld.idx_lt y; omega
  · have := IfcFld.idx_lt x; have := EdgeFld.idx_lt y; omega
  · have := IfcFld.idx_lt x; have := GrdFld.idx_lt y; omega
  · have := IfcFld.idx_lt x; have := SnsFld.idx_lt y; omega
  · have := IfcFld.idx_lt x; have := MemFld.idx_lt y; omega
  · have := IfcFld.idx_lt x; have := ActFld.idx_lt y; omega
  · have := IfcFld.idx_lt x; have := AonFld.idx_lt y; omega
  · have := IfcFld.idx_lt x; have := DrvFld.idx_lt y; omega
  · have := IfcFld.idx_lt x; have := HostFld.idx_lt y; omega
  · have := LoopFld.idx_lt x; have := SafFld.idx_lt y; omega
  · have := LoopFld.idx_lt x; have := IfcFld.idx_lt y; omega
  · exact congrArg _ (LoopFld.idx_inj (Nat.add_left_cancel h))
  · have := LoopFld.idx_lt x; have := EdgeFld.idx_lt y; omega
  · have := LoopFld.idx_lt x; have := GrdFld.idx_lt y; omega
  · have := LoopFld.idx_lt x; have := SnsFld.idx_lt y; omega
  · have := LoopFld.idx_lt x; have := MemFld.idx_lt y; omega
  · have := LoopFld.idx_lt x; have := ActFld.idx_lt y; omega
  · have := LoopFld.idx_lt x; have := AonFld.idx_lt y; omega
  · have := LoopFld.idx_lt x; have := DrvFld.idx_lt y; omega
  · have := LoopFld.idx_lt x; have := HostFld.idx_lt y; omega
  · have := EdgeFld.idx_lt x; have := SafFld.idx_lt y; omega
  · have := EdgeFld.idx_lt x; have := IfcFld.idx_lt y; omega
  · have := EdgeFld.idx_lt x; have := LoopFld.idx_lt y; omega
  · exact congrArg _ (EdgeFld.idx_inj (Nat.add_left_cancel h))
  · have := EdgeFld.idx_lt x; have := GrdFld.idx_lt y; omega
  · have := EdgeFld.idx_lt x; have := SnsFld.idx_lt y; omega
  · have := EdgeFld.idx_lt x; have := MemFld.idx_lt y; omega
  · have := EdgeFld.idx_lt x; have := ActFld.idx_lt y; omega
  · have := EdgeFld.idx_lt x; have := AonFld.idx_lt y; omega
  · have := EdgeFld.idx_lt x; have := DrvFld.idx_lt y; omega
  · have := EdgeFld.idx_lt x; have := HostFld.idx_lt y; omega
  · have := GrdFld.idx_lt x; have := SafFld.idx_lt y; omega
  · have := GrdFld.idx_lt x; have := IfcFld.idx_lt y; omega
  · have := GrdFld.idx_lt x; have := LoopFld.idx_lt y; omega
  · have := GrdFld.idx_lt x; have := EdgeFld.idx_lt y; omega
  · exact congrArg _ (GrdFld.idx_inj (Nat.add_left_cancel h))
  · have := GrdFld.idx_lt x; have := SnsFld.idx_lt y; omega
  · have := GrdFld.idx_lt x; have := MemFld.idx_lt y; omega
  · have := GrdFld.idx_lt x; have := ActFld.idx_lt y; omega
  · have := GrdFld.idx_lt x; have := AonFld.idx_lt y; omega
  · have := GrdFld.idx_lt x; have := DrvFld.idx_lt y; omega
  · have := GrdFld.idx_lt x; have := HostFld.idx_lt y; omega
  · have := SnsFld.idx_lt x; have := SafFld.idx_lt y; omega
  · have := SnsFld.idx_lt x; have := IfcFld.idx_lt y; omega
  · have := SnsFld.idx_lt x; have := LoopFld.idx_lt y; omega
  · have := SnsFld.idx_lt x; have := EdgeFld.idx_lt y; omega
  · have := SnsFld.idx_lt x; have := GrdFld.idx_lt y; omega
  · exact congrArg _ (SnsFld.idx_inj (Nat.add_left_cancel h))
  · have := SnsFld.idx_lt x; have := MemFld.idx_lt y; omega
  · have := SnsFld.idx_lt x; have := ActFld.idx_lt y; omega
  · have := SnsFld.idx_lt x; have := AonFld.idx_lt y; omega
  · have := SnsFld.idx_lt x; have := DrvFld.idx_lt y; omega
  · have := SnsFld.idx_lt x; have := HostFld.idx_lt y; omega
  · have := MemFld.idx_lt x; have := SafFld.idx_lt y; omega
  · have := MemFld.idx_lt x; have := IfcFld.idx_lt y; omega
  · have := MemFld.idx_lt x; have := LoopFld.idx_lt y; omega
  · have := MemFld.idx_lt x; have := EdgeFld.idx_lt y; omega
  · have := MemFld.idx_lt x; have := GrdFld.idx_lt y; omega
  · have := MemFld.idx_lt x; have := SnsFld.idx_lt y; omega
  · exact congrArg _ (MemFld.idx_inj (Nat.add_left_cancel h))
  · have := MemFld.idx_lt x; have := ActFld.idx_lt y; omega
  · have := MemFld.idx_lt x; have := AonFld.idx_lt y; omega
  · have := MemFld.idx_lt x; have := DrvFld.idx_lt y; omega
  · have := MemFld.idx_lt x; have := HostFld.idx_lt y; omega
  · have := ActFld.idx_lt x; have := SafFld.idx_lt y; omega
  · have := ActFld.idx_lt x; have := IfcFld.idx_lt y; omega
  · have := ActFld.idx_lt x; have := LoopFld.idx_lt y; omega
  · have := ActFld.idx_lt x; have := EdgeFld.idx_lt y; omega
  · have := ActFld.idx_lt x; have := GrdFld.idx_lt y; omega
  · have := ActFld.idx_lt x; have := SnsFld.idx_lt y; omega
  · have := ActFld.idx_lt x; have := MemFld.idx_lt y; omega
  · exact congrArg _ (ActFld.idx_inj (Nat.add_left_cancel h))
  · have := ActFld.idx_lt x; have := AonFld.idx_lt y; omega
  · have := ActFld.idx_lt x; have := DrvFld.idx_lt y; omega
  · have := ActFld.idx_lt x; have := HostFld.idx_lt y; omega
  · have := AonFld.idx_lt x; have := SafFld.idx_lt y; omega
  · have := AonFld.idx_lt x; have := IfcFld.idx_lt y; omega
  · have := AonFld.idx_lt x; have := LoopFld.idx_lt y; omega
  · have := AonFld.idx_lt x; have := EdgeFld.idx_lt y; omega
  · have := AonFld.idx_lt x; have := GrdFld.idx_lt y; omega
  · have := AonFld.idx_lt x; have := SnsFld.idx_lt y; omega
  · have := AonFld.idx_lt x; have := MemFld.idx_lt y; omega
  · have := AonFld.idx_lt x; have := ActFld.idx_lt y; omega
  · exact congrArg _ (AonFld.idx_inj (Nat.add_left_cancel h))
  · have := AonFld.idx_lt x; have := DrvFld.idx_lt y; omega
  · have := AonFld.idx_lt x; have := HostFld.idx_lt y; omega
  · have := DrvFld.idx_lt x; have := SafFld.idx_lt y; omega
  · have := DrvFld.idx_lt x; have := IfcFld.idx_lt y; omega
  · have := DrvFld.idx_lt x; have := LoopFld.idx_lt y; omega
  · have := DrvFld.idx_lt x; have := EdgeFld.idx_lt y; omega
  · have := DrvFld.idx_lt x; have := GrdFld.idx_lt y; omega
  · have := DrvFld.idx_lt x; have := SnsFld.idx_lt y; omega
  · have := DrvFld.idx_lt x; have := MemFld.idx_lt y; omega
  · have := DrvFld.idx_lt x; have := ActFld.idx_lt y; omega
  · have := DrvFld.idx_lt x; have := AonFld.idx_lt y; omega
  · exact congrArg _ (DrvFld.idx_inj (Nat.add_left_cancel h))
  · have := DrvFld.idx_lt x; have := HostFld.idx_lt y; omega
  · have := HostFld.idx_lt x; have := SafFld.idx_lt y; omega
  · have := HostFld.idx_lt x; have := IfcFld.idx_lt y; omega
  · have := HostFld.idx_lt x; have := LoopFld.idx_lt y; omega
  · have := HostFld.idx_lt x; have := EdgeFld.idx_lt y; omega
  · have := HostFld.idx_lt x; have := GrdFld.idx_lt y; omega
  · have := HostFld.idx_lt x; have := SnsFld.idx_lt y; omega
  · have := HostFld.idx_lt x; have := MemFld.idx_lt y; omega
  · have := HostFld.idx_lt x; have := ActFld.idx_lt y; omega
  · have := HostFld.idx_lt x; have := AonFld.idx_lt y; omega
  · have := HostFld.idx_lt x; have := DrvFld.idx_lt y; omega
  · exact congrArg _ (HostFld.idx_inj (Nat.add_left_cancel h))

@[simp] theorem Fld.key_eq_iff (f g : Fld) : f.key = g.key ↔ f = g := ⟨Fld.key_inj, congrArg _⟩

/-! ## Reading after writing -/

theorem lookupEnt_filter_same (l : List Entry) (k i j d : Nat) : lookupEnt (l.filter (fun e => !e.is k i j)) k i j d = d := by
  induction l with
  | nil => rfl
  | cons e r ih =>
    by_cases h : e.k = k ∧ e.i = i ∧ e.j = j
    · simpa [List.filter, Entry.is, h] using ih
    · simp only [List.filter, Entry.is, h, decide_false, Bool.not_false, lookupEnt, if_false]; exact ih

theorem lookupEnt_filter_ne (l : List Entry) (k i j k' i' j' d : Nat) (h : ¬(k' = k ∧ i' = i ∧ j' = j)) :
    lookupEnt (l.filter (fun e => !e.is k i j)) k' i' j' d = lookupEnt l k' i' j' d := by
  induction l with
  | nil => rfl
  | cons e r ih =>
    by_cases hk : e.k = k ∧ e.i = i ∧ e.j = j
    · have : ¬(e.k = k' ∧ e.i = i' ∧ e.j = j') := fun hh => h ⟨hh.1 ▸ hk.1, hh.2.1 ▸ hk.2.1, hh.2.2 ▸ hk.2.2⟩
      simp only [List.filter, Entry.is, hk, and_self, decide_true, Bool.not_true, lookupEnt]
      rw [if_neg (by simpa [hk] using this)]; exact ih
    · simp only [List.filter, Entry.is, hk, decide_false, Bool.not_false, lookupEnt]; split
      · rfl
      · exact ih

theorem lookupEnt_ins_same (l : List Entry) (k i j v d : Nat) : lookupEnt (insEnt l k i j v) k i j d = v := by
  induction l with
  | nil => simp [insEnt, lookupEnt]
  | cons e r ih =>
    simp only [insEnt]
    split
    · simp [lookupEnt]
    · split
      · simp [lookupEnt]
      · rename_i h _
        simp only [Entry.is, decide_eq_true_eq] at h
        simp only [lookupEnt, h, if_false]; exact ih

theorem lookupEnt_ins_ne (l : List Entry) (k i j v k' i' j' d : Nat) (h : ¬(k' = k ∧ i' = i ∧ j' = j)) :
    lookupEnt (insEnt l k i j v) k' i' j' d = lookupEnt l k' i' j' d := by
  have h' : ¬(k = k' ∧ i = i' ∧ j = j') := fun x => h ⟨x.1.symm, x.2.1.symm, x.2.2.symm⟩
  induction l with
  | nil => simp [insEnt, lookupEnt, h']
  | cons e r ih =>
    simp only [insEnt]
    split
    · rename_i he
      simp only [Entry.is, decide_eq_true_eq] at he
      simp only [lookupEnt, h', if_false, he]
    · split
      · simp [lookupEnt, h']
      · simp only [lookupEnt, ih]

/-- What was written is read, cut to the width. -/
@[simp] theorem State.get_set_same (s : State) (f : Fld) (v i j : Nat) : (s.set f v i j).get f i j = v % 2 ^ f.spec.w := by
  simp only [State.get, State.set, putEnt]
  split
  · rename_i h; rw [lookupEnt_filter_same, h]
  · rw [lookupEnt_ins_same]

/-- A write leaves every other quantity alone. -/
theorem State.get_set_ne (s : State) (f g : Fld) (v i j i' j' : Nat) (h : ¬(g = f ∧ i' = i ∧ j' = j)) :
    (s.set f v i j).get g i' j' = s.get g i' j' := by
  have h' : ¬(g.key = f.key ∧ i' = i ∧ j' = j) := by simpa using h
  simp only [State.get, State.set, putEnt]
  split
  · rw [lookupEnt_filter_ne _ _ _ _ _ _ _ _ h']
  · rw [lookupEnt_ins_ne _ _ _ _ _ _ _ _ _ h']

/-- A write to another field leaves a quantity alone. -/
theorem State.get_set_fld (s : State) {f g : Fld} (v i j i' j' : Nat) (h : g ≠ f) :
    (s.set f v i j).get g i' j' = s.get g i' j' := s.get_set_ne f g v i j i' j' (fun x => h x.1)

/-- One law for both: what a quantity reads as after a write. -/
theorem State.get_set (s : State) (f g : Fld) (v i j i' j' : Nat) :
    (s.set f v i j).get g i' j' = if g = f ∧ i' = i ∧ j' = j then v % 2 ^ f.spec.w else s.get g i' j' := by
  split
  · rename_i h; obtain ⟨rfl, rfl, rfl⟩ := h; exact s.get_set_same ..
  · rename_i h; exact s.get_set_ne _ _ _ _ _ _ _ h

/-- A quantity that the state files nowhere reads as its reset value. -/
@[simp] theorem State.reset_get (f : Fld) (i j : Nat) : State.reset.get f i j = f.spec.rst i j := rfl

/-! ## Memory -/

theorem lookupByte_filter_same (l : List Host.Cell) (a : Nat) : lookupByte (l.filter (fun c => decide (c.1 ≠ a))) a = emptyByte := by
  induction l with
  | nil => rfl
  | cons e r ih =>
    by_cases h : e.1 = a
    · simpa [List.filter, h] using ih
    · simp only [List.filter, ne_eq, h, not_false_eq_true, decide_true, lookupByte, if_false]; exact ih

theorem lookupByte_filter_ne (l : List Host.Cell) (a b : Nat) (h : b ≠ a) :
    lookupByte (l.filter (fun c => decide (c.1 ≠ a))) b = lookupByte l b := by
  induction l with
  | nil => rfl
  | cons e r ih =>
    by_cases hk : e.1 = a
    · simp only [List.filter, ne_eq, hk, not_true_eq_false, decide_false, lookupByte]
      rw [if_neg (fun x => h x.symm)]; exact ih
    · simp only [List.filter, ne_eq, hk, not_false_eq_true, decide_true, lookupByte]; split
      · rfl
      · exact ih

theorem lookupByte_ins (l : List Host.Cell) (a b : Nat) (v : BitVec 8) :
    lookupByte (insByte l a v) b = if a = b then v else lookupByte l b := by
  induction l with
  | nil => simp [insByte, lookupByte]
  | cons e r ih =>
    obtain ⟨c, x⟩ := e
    simp only [insByte]
    split
    · rename_i h; subst h; simp only [lookupByte]; split <;> rfl
    · split
      · simp only [lookupByte]
      · rename_i h1 _
        simp only [lookupByte, ih]
        split
        · rename_i h2; rw [if_neg (fun x => h1 (h2.trans x.symm))]
        · rfl

/-- The byte stored is read, every other byte is left alone. -/
theorem State.byte_setByte (s : State) (a b : Nat) (v : BitVec 8) : (s.setByte a v).byte b = if a = b then v else s.byte b := by
  simp only [State.byte, State.setByte, putByte]
  split
  · rename_i h
    split
    · rename_i hb; subst hb; rw [lookupByte_filter_same, h]
    · rename_i hb; rw [lookupByte_filter_ne _ _ _ (fun x => hb x.symm)]
  · exact lookupByte_ins ..

/-! ## The canonical forms are kept -/

/-- The canonical form as a pairwise order and a condition on each byte. -/
theorem memWf_iff (l : List Host.Cell) : memWf l = true ↔ l.Pairwise (fun a b => a.1 < b.1) ∧ ∀ c ∈ l, c.2 ≠ emptyByte := by
  induction l with
  | nil => simp [memWf]
  | cons e r ih =>
    cases r with
    | nil => obtain ⟨a, v⟩ := e; simp [memWf]
    | cons e2 r =>
      obtain ⟨a, v⟩ := e; obtain ⟨b, x⟩ := e2
      simp only [memWf, Bool.and_eq_true, decide_eq_true_eq, bne_iff_ne, ne_eq, ih, List.pairwise_cons, List.mem_cons,
        forall_eq_or_imp]
      constructor
      · rintro ⟨⟨h1, h2⟩, ⟨h3, h4⟩, h5, h6⟩
        exact ⟨⟨⟨h1, fun c hc => lt_trans h1 (h3 c hc)⟩, h3, h4⟩, h2, h5, h6⟩
      · rintro ⟨⟨⟨h1, _⟩, h3, h4⟩, h2, h5, h6⟩
        exact ⟨⟨h1, h2⟩, ⟨h3, h4⟩, h5, h6⟩

theorem memWf_filter (l : List Host.Cell) (p : Host.Cell → Bool) (h : memWf l = true) : memWf (l.filter p) = true := by
  rw [memWf_iff] at h ⊢
  exact ⟨h.1.filter p, fun c hc => h.2 c (List.mem_filter.1 hc).1⟩

theorem mem_insByte (l : List Host.Cell) (a : Nat) (v : BitVec 8) (c : Host.Cell) (h : c ∈ insByte l a v) : c = (a, v) ∨ c ∈ l := by
  induction l with
  | nil => simpa [insByte] using h
  | cons e r ih =>
    obtain ⟨b, x⟩ := e
    simp only [insByte] at h
    split at h
    · rcases List.mem_cons.1 h with h | h
      · exact .inl h
      · exact .inr (List.mem_cons_of_mem _ h)
    · split at h
      · rcases List.mem_cons.1 h with h | h
        · exact .inl h
        · exact .inr h
      · rcases List.mem_cons.1 h with h | h
        · exact .inr (h ▸ List.mem_cons_self ..)
        · exact (ih h).imp id (List.mem_cons_of_mem _)

theorem memWf_ins (l : List Host.Cell) (a : Nat) (v : BitVec 8) (hv : v ≠ emptyByte) (h : memWf l = true) :
    memWf (insByte l a v) = true := by
  rw [memWf_iff] at h ⊢
  refine ⟨?_, fun c hc => (mem_insByte l a v c hc).elim (fun e => e ▸ hv) (h.2 c)⟩
  have hp := h.1; clear h
  induction l with
  | nil => simp [insByte]
  | cons e r ih =>
    obtain ⟨b, x⟩ := e
    have hc := List.pairwise_cons.1 hp
    simp only [insByte]
    split
    · rename_i hb; subst hb; exact List.pairwise_cons.2 ⟨hc.1, hc.2⟩
    · split
      · rename_i hb
        exact List.pairwise_cons.2 ⟨fun c hm => (List.mem_cons.1 hm).elim (fun e => e ▸ hb) (fun hm => lt_trans hb (hc.1 c hm)), hp⟩
      · rename_i h1 h2
        exact List.pairwise_cons.2 ⟨fun c hm => (mem_insByte r a v c hm).elim
          (fun e => e ▸ lt_of_le_of_ne (not_lt.1 h2) h1) (hc.1 c), ih hc.2⟩

/-- Storing a byte keeps memory's canonical form. -/
theorem memWf_put (l : List Host.Cell) (a : Nat) (v : BitVec 8) (h : memWf l = true) : memWf (putByte l a v) = true := by
  unfold putByte
  split
  · exact memWf_filter _ _ h
  · rename_i hv; exact memWf_ins _ _ _ hv h

theorem valsWf_filter (l : List Entry) (p : Entry → Bool) (h : valsWf l) : valsWf (l.filter p) :=
  ⟨h.1.filter p, fun e he => h.2 e (List.mem_filter.1 he).1⟩

theorem mem_insEnt (l : List Entry) (k i j v : Nat) (c : Entry) (h : c ∈ insEnt l k i j v) : c = ⟨k, i, j, v⟩ ∨ c ∈ l := by
  induction l with
  | nil => simpa [insEnt] using h
  | cons e r ih =>
    simp only [insEnt] at h
    split at h
    · rcases List.mem_cons.1 h with h | h
      · exact .inl h
      · exact .inr (List.mem_cons_of_mem _ h)
    · split at h
      · rcases List.mem_cons.1 h with h | h
        · exact .inl h
        · exact .inr h
      · rcases List.mem_cons.1 h with h | h
        · exact .inr (h ▸ List.mem_cons_self ..)
        · exact (ih h).imp id (List.mem_cons_of_mem _)

theorem Entry.before_iff (a b : Entry) : a.before b ↔ a.k < b.k ∨ (a.k = b.k ∧ (a.i < b.i ∨ (a.i = b.i ∧ a.j < b.j))) := by
  simp [Entry.before, Entry.after]

theorem Entry.before_trans {a b c : Entry} (h : a.before b) (g : b.before c) : a.before c := by
  rw [Entry.before_iff] at *; omega

theorem valsWf_ins (l : List Entry) (k i j v : Nat) (hv : Entry.ok ⟨k, i, j, v⟩) (h : valsWf l) : valsWf (insEnt l k i j v) := by
  refine ⟨?_, fun e he => (mem_insEnt l k i j v e he).elim (fun x => x ▸ hv) (h.2 e)⟩
  have hp := h.1; clear h hv
  induction l with
  | nil => simp [insEnt]
  | cons e r ih =>
    have hc := List.pairwise_cons.1 hp
    simp only [insEnt]
    split
    · rename_i hb
      simp only [Entry.is, decide_eq_true_eq] at hb
      refine List.pairwise_cons.2 ⟨fun c hm => ?_, hc.2⟩
      have := hc.1 c hm
      rw [Entry.before_iff] at *; simp only [hb] at this; exact this
    · split
      · rename_i hb
        have hb' : Entry.before ⟨k, i, j, v⟩ e := hb
        exact List.pairwise_cons.2 ⟨fun c hm => (List.mem_cons.1 hm).elim (fun x => x ▸ hb')
          (fun hm => Entry.before_trans hb' (hc.1 c hm)), hp⟩
      · rename_i h1 h2
        refine List.pairwise_cons.2 ⟨fun c hm => (mem_insEnt r k i j v c hm).elim (fun x => ?_) (hc.1 c), ih hc.2⟩
        subst x
        rw [Entry.before_iff]
        show e.k < k ∨ (e.k = k ∧ (e.i < i ∨ (e.i = i ∧ e.j < j)))
        simp only [Entry.is, decide_eq_true_eq] at h1
        simp only [Entry.after, Bool.or_eq_true, Bool.and_eq_true, decide_eq_true_eq] at h2
        omega

/-- Writing a quantity keeps the quantities' canonical form. -/
theorem valsWf_set (s : State) (f : Fld) (v i j : Nat) (h : valsWf s.vals) : valsWf (s.set f v i j).vals := by
  unfold State.set putEnt
  dsimp only
  split
  · exact valsWf_filter _ _ h
  · rename_i hv
    refine valsWf_ins _ _ _ _ _ ⟨⟨f, rfl⟩, fun g hg => ?_⟩ h
    obtain rfl := Fld.key_inj hg
    exact ⟨Nat.mod_lt _ (Nat.two_pow_pos _), hv⟩

/-- What every operation of the machine keeps: the canonical forms, the queue and the time. -/
structure Keeps (s t : State) : Prop where
  vals : valsWf s.vals → valsWf t.vals
  mem : memWf s.mem = true → memWf t.mem = true
  pending : t.pending = s.pending
  now : t.now = s.now

theorem Keeps.refl (s : State) : Keeps s s := ⟨id, id, rfl, rfl⟩
theorem Keeps.trans {s t u : State} (h : Keeps s t) (g : Keeps t u) : Keeps s u :=
  ⟨fun x => g.vals (h.vals x), fun x => g.mem (h.mem x), g.pending.trans h.pending, g.now.trans h.now⟩

end Sys2Proof.Machine
end

