-- ==== Sys2Proof/Laws/Access.lean ====
section
/-!
SUPPORT. What a sideband access can do: everything it answers, by the conditions of R32, R42, R43, R49 and R472.
-/
namespace Sys2Proof.Machine
open Sys2Proof

/-- A write that reaches its register is carried out and answered. -/
theorem sideband_reaches {s : State} {w : Who} {a v : Nat} (h : s.reaches w a v) (g : State → State) :
    sideband w a v g s = (g s).answer .ok := by
  obtain ⟨⟨n, hn, ho⟩, he, hm⟩ := h
  simp [sideband, hn, ho, he, hm]

/-- An unmapped address ends with ERROR and cause 0x02, and nothing else happens (R49). -/
theorem sideband_unmapped {s : State} {w : Who} {a v : Nat} (h : windowOf a = none) (g : State → State) :
    sideband w a v g s = s.answer (.error 2) := by simp [sideband, h]

/-- An island that is not open answers CLOSED, which sets its CLOSED_SEEN (R32). -/
theorem sideband_closed {s : State} {w : Who} {a v n : Nat} (h : windowOf a = some n) (ho : s.islandOpen n w = false)
    (g : State → State) : sideband w a v g s = (s.on (.saf .ISL_STAT_CLOSED_SEEN) n).answer .closed := by simp [sideband, h, ho]

/-- A write that the firewall refuses is logged and ends with ERROR and cause 0x03 (R472). -/
theorem sideband_refused {s : State} {w : Who} {a v n : Nat} (h : windowOf a = some n) (ho : s.islandOpen n w = true)
    (he : regExists a = true) (hm : s.mayWrite w a v = false) (g : State → State) :
    sideband w a v g s = (logViolation 1 w a s).answer (.error 3 (some n)) := by simp [sideband, h, ho, he, hm]

/-- A read that reaches its register is carried out and answers the register. -/
theorem sidebandRead_readable {s : State} {w : Who} {a : Nat} (h : s.readable w a) (g : State → State) :
    sidebandRead w a g s = (g s).answer (.data (s.readReg a)) := by
  obtain ⟨⟨n, hn, ho⟩, he⟩ := h
  simp [sidebandRead, hn, ho, he]

/-- A read whose own effect comes first answers the register after it. -/
theorem sidebandReadAfter_readable {s : State} {w : Who} {a : Nat} (h : s.readable w a) (g : State → State) :
    sidebandReadAfter w a g s = (g s).answer (.data ((g s).readReg a)) := by
  obtain ⟨⟨n, hn, ho⟩, he⟩ := h
  simp [sidebandReadAfter, hn, ho, he]

end Sys2Proof.Machine
end

