-- ==== Sys2Proof/Laws/Keeps.lean ====
section
/-!
SUPPORT. Every named operation over the state keeps the canonical forms, the queue and the time (`Keeps`).
-/
namespace Sys2Proof.Machine
open Sys2Proof

theorem Keeps.set {u s : State} (h : Keeps u s) (f : Fld) (v i j : Nat) : Keeps u (s.set f v i j) := ⟨fun x => valsWf_set _ _ _ _ _ (h.vals x), h.mem, h.pending, h.now⟩
theorem Keeps.setB {u s : State} (h : Keeps u s) (f : Fld) (b : Bool) (i j : Nat) : Keeps u (s.setB f b i j) := h.set ..
theorem Keeps.on {u s : State} (h : Keeps u s) (f : Fld) (i j : Nat) : Keeps u (s.on f i j) := h.set ..
theorem Keeps.off {u s : State} (h : Keeps u s) (f : Fld) (i j : Nat) : Keeps u (s.off f i j) := h.set ..
theorem Keeps.orMask {u s : State} (h : Keeps u s) (f : Fld) (m i j : Nat) : Keeps u (s.orMask f m i j) := h.set ..
theorem Keeps.clrMask {u s : State} (h : Keeps u s) (f : Fld) (m i j : Nat) : Keeps u (s.clrMask f m i j) := h.set ..
theorem Keeps.setBit {u s : State} (h : Keeps u s) (f : Fld) (b i j : Nat) : Keeps u (s.setBit f b i j) := h.set ..
theorem Keeps.clrBit {u s : State} (h : Keeps u s) (f : Fld) (b i j : Nat) : Keeps u (s.clrBit f b i j) := h.set ..
theorem Keeps.putBit {u s : State} (h : Keeps u s) (f : Fld) (b : Nat) (v : Bool) (i j : Nat) : Keeps u (s.putBit f b v i j) := by unfold State.putBit; split; exacts [h.setBit .., h.clrBit ..]
theorem Keeps.incSat {u s : State} (h : Keeps u s) (f : Fld) (i j n : Nat) : Keeps u (s.incSat f i j n) := h.set ..
theorem Keeps.inc {u s : State} (h : Keeps u s) (f : Fld) (i j : Nat) : Keeps u (s.inc f i j) := h.set ..
theorem Keeps.sset {u s : State} (h : Keeps u s) (f : Fld) (v : Int) (i j : Nat) : Keeps u (s.sset f v i j) := h.set ..
theorem Keeps.send {u s : State} (h : Keeps u s) (k : MsgKind) (a b c : Nat) : Keeps u (s.send k a b c) := ⟨h.vals, h.mem, h.pending, h.now⟩
theorem Keeps.answer {u s : State} (h : Keeps u s) (r : Resp) : Keeps u (s.answer r) := ⟨h.vals, h.mem, h.pending, h.now⟩
theorem Keeps.free {u s : State} (h : Keeps u s) (w : Nat) : Keeps u ((s.free w).2) := ⟨h.vals, h.mem, h.pending, h.now⟩
theorem Keeps.setFree {u s : State} (h : Keeps u s) (f : Fld) (i j : Nat) : Keeps u (s.setFree f i j) := (h.free _).set ..
theorem Keeps.setByte {u s : State} (h : Keeps u s) (a : Nat) (v : BitVec 8) : Keeps u (s.setByte a v) := ⟨h.vals, fun x => memWf_put _ _ _ (h.mem x), h.pending, h.now⟩
theorem Keeps.withMem {u s : State} (h : Keeps u s) (p : Host.Cell → Bool) : Keeps u ({ s with mem := s.mem.filter p }) := ⟨h.vals, fun x => memWf_filter _ _ (h.mem x), h.pending, h.now⟩
theorem Keeps.withVals {u s : State} (h : Keeps u s) (p : Entry → Bool) : Keeps u ({ s with vals := s.vals.filter p }) := ⟨fun x => valsWf_filter _ _ (h.vals x), h.mem, h.pending, h.now⟩
theorem Keeps.withBoth {u s : State} (h : Keeps u s) (p : Host.Cell → Bool) (q : Entry → Bool) : Keeps u ({ s with vals := s.vals.filter q, mem := s.mem.filter p }) := ⟨fun x => valsWf_filter _ _ (h.vals x), fun x => memWf_filter _ _ (h.mem x), h.pending, h.now⟩
theorem Keeps.withFresh {u s : State} (h : Keeps u s) (n : Nat) : Keeps u ({ s with fresh := n }) := ⟨h.vals, h.mem, h.pending, h.now⟩
theorem Keeps.withSent {u s : State} (h : Keeps u s) (l : List Msg) : Keeps u ({ s with sent := l }) := ⟨h.vals, h.mem, h.pending, h.now⟩

theorem Keeps.sub {u x y : State} {G : Prop} (hy : y = x) (hx : Keeps u x) (h : Keeps u y → G) : G := h (hy ▸ hx)
theorem Keeps.idd {u s : State} (h : Keeps u s) : Keeps u (id s) := h
theorem Keeps.subF {u : State} {x y : State → State} {G : Prop} (hy : y = x) (hx : ∀ t, Keeps u t → Keeps u (x t))
    (h : (∀ t, Keeps u t → Keeps u (y t)) → G) : G := h (hy ▸ hx)
theorem Keeps.subF1 {α : Type*} {u : State} {x y : α → State → State} {G : Prop} (hy : y = x)
    (hx : ∀ a t, Keeps u t → Keeps u (x a t)) (h : (∀ a t, Keeps u t → Keeps u (y a t)) → G) : G := h (hy ▸ hx)
theorem Keeps.subF2 {α β : Type*} {u : State} {x y : α → β → State → State} {G : Prop} (hy : y = x)
    (hx : ∀ a b t, Keeps u t → Keeps u (x a b t)) (h : (∀ a b t, Keeps u t → Keeps u (y a b t)) → G) : G := h (hy ▸ hx)
theorem Keeps.subG1 {α : Type*} {u : State} {x y : α → State} {G : Prop} (hy : y = x) (hx : ∀ a, Keeps u (x a))
    (h : (∀ a, Keeps u (y a)) → G) : G := h (hy ▸ hx)
theorem Keeps.subG2 {α β : Type*} {u : State} {x y : α → β → State} {G : Prop} (hy : y = x) (hx : ∀ a b, Keeps u (x a b))
    (h : (∀ a b, Keeps u (y a b)) → G) : G := h (hy ▸ hx)
theorem Keeps.subP {α : Type*} {u : State} {x y : α × State} {G : Prop} (hy : y = x) (hx : Keeps u x.2) (h : Keeps u y.2 → G) : G :=
  h (hy ▸ hx)
theorem Keeps.subA {u : State} {x y : Ans} {G : Prop} (hy : y = x) (hx : Keeps u x.s) (h : Keeps u y.s → G) : G := h (hy ▸ hx)
theorem Keeps.ite {u a b : State} {c : Prop} [Decidable c] (ha : Keeps u a) (hb : Keeps u b) : Keeps u (if c then a else b) := by
  split <;> assumption
theorem Keeps.when {u s : State} (h : Keeps u s) (c : Bool) {g : State → State} (hg : ∀ t, Keeps u t → Keeps u (g t)) :
    Keeps u (s.when c g) := by
  unfold State.when; split
  · exact hg _ h
  · exact h
theorem Keeps.foldl {α : Type*} {u s : State} (h : Keeps u s) (l : List α) {g : State → α → State}
    (hg : ∀ t i, Keeps u t → Keeps u (g t i)) : Keeps u (l.foldl g s) := by
  induction l generalizing s with
  | nil => exact h
  | cons a r ih => exact ih (hg _ _ h)
theorem Keeps.forEach {u s : State} (h : Keeps u s) (l : List Nat) {g : Nat → State → State}
    (hg : ∀ i t, Keeps u t → Keeps u (g i t)) : Keeps u (s.forEach l g) := h.foldl l (fun t i => hg i t)
theorem Keeps.forUpTo {u s : State} (h : Keeps u s) (n : Nat) {g : Nat → State → State}
    (hg : ∀ i t, Keeps u t → Keeps u (g i t)) : Keeps u (s.forUpTo n g) := h.forEach _ hg
theorem Keeps.writeN {u s : State} (h : Keeps u s) (a v n : Nat) : Keeps u (s.writeN a v n) := by
  induction n generalizing s a v with
  | zero => exact h
  | succ n ih => exact ih (h.setByte ..) _ _
theorem Keeps.writeBytes {u s : State} (h : Keeps u s) (a : Nat) (l : List (BitVec 8)) : Keeps u (s.writeBytes a l) := by
  induction l generalizing s a with
  | nil => exact h
  | cons b r ih => exact ih (h.setByte ..) _

end Sys2Proof.Machine
end

