-- ==== Sys2Proof/Laws/KeepsGroups.lean ====
section
/-!
SUPPORT. The operations of Machine/Groups.lean keep the canonical forms, the queue and the time.
-/
namespace Sys2Proof.Machine
open Sys2Proof
set_option linter.unreachableTactic false
set_option linter.unusedTactic false

theorem keeps_noteOn {u s : State} (h : Keeps u s) (n : Nat) (hi lo : Bool) : Keeps u (noteOn n hi lo s) := by
  unfold noteOn
  repeat' (first
    | with_reducible assumption
    | (extract_lets -underBinder +onlyGivenNames y; clear_value (hy : y = _); first | refine Keeps.sub (u := u) hy ?_ (fun hk => ?_) | refine Keeps.subA (u := u) hy ?_ (fun hk => ?_) | refine Keeps.subP (u := u) hy ?_ (fun hk => ?_) | clear hy)
    | with_reducible apply Keeps.set
    | with_reducible apply Keeps.setB
    | with_reducible apply Keeps.when
    | split
    | intro)
theorem keeps_noteOff {u s : State} (h : Keeps u s) (n : Nat) (hi lo : Bool) : Keeps u (noteOff n hi lo s) := by
  unfold noteOff
  repeat' (first
    | with_reducible assumption
    | (extract_lets -underBinder +onlyGivenNames y; clear_value (hy : y = _); first | refine Keeps.sub (u := u) hy ?_ (fun hk => ?_) | refine Keeps.subA (u := u) hy ?_ (fun hk => ?_) | refine Keeps.subP (u := u) hy ?_ (fun hk => ?_) | clear hy)
    | with_reducible apply Keeps.set
    | with_reducible apply Keeps.off
    | with_reducible apply Keeps.when
    | split
    | intro)
theorem keeps_setOut {u s : State} (h : Keeps u s) (n : Nat) (hi' lo' : Bool) : Keeps u (setOut n hi' lo' s) := by
  unfold setOut
  repeat' (first
    | with_reducible assumption
    | (extract_lets -underBinder +onlyGivenNames y; clear_value (hy : y = _); first | refine Keeps.sub (u := u) hy ?_ (fun hk => ?_) | refine Keeps.subA (u := u) hy ?_ (fun hk => ?_) | refine Keeps.subP (u := u) hy ?_ (fun hk => ?_) | clear hy)
    | with_reducible apply Keeps.setB
    | with_reducible apply keeps_noteOff
    | with_reducible apply keeps_noteOn
    | split
    | intro)
theorem keeps_legToSafe {u s : State} (h : Keeps u s) (g n : Nat) : Keeps u (legToSafe g n s) := by
  unfold legToSafe
  repeat' (first
    | with_reducible assumption
    | (extract_lets -underBinder +onlyGivenNames y; clear_value (hy : y = _); first | refine Keeps.sub (u := u) hy ?_ (fun hk => ?_) | refine Keeps.subA (u := u) hy ?_ (fun hk => ?_) | refine Keeps.subP (u := u) hy ?_ (fun hk => ?_) | clear hy)
    | with_reducible refine Keeps.ite ?_ ?_
    | with_reducible apply Keeps.set
    | with_reducible apply Keeps.on
    | with_reducible apply Keeps.when
    | with_reducible apply keeps_setOut
    | split
    | intro)
theorem keeps_driveLeg {u s : State} (h : Keeps u s) (n : Nat) : Keeps u (driveLeg n s) := by
  unfold driveLeg
  repeat' (first
    | with_reducible assumption
    | (extract_lets -underBinder +onlyGivenNames y; clear_value (hy : y = _); first | refine Keeps.sub (u := u) hy ?_ (fun hk => ?_) | refine Keeps.subA (u := u) hy ?_ (fun hk => ?_) | refine Keeps.subP (u := u) hy ?_ (fun hk => ?_) | clear hy)
    | with_reducible refine Keeps.ite ?_ ?_
    | with_reducible apply Keeps.set
    | with_reducible apply Keeps.off
    | with_reducible apply Keeps.when
    | with_reducible apply keeps_legToSafe
    | with_reducible apply keeps_setOut
    | split
    | intro)
theorem keeps_withdrawLeg {u s : State} (h : Keeps u s) (n : Nat) : Keeps u (withdrawLeg n s) := by
  unfold withdrawLeg
  repeat' (first
    | with_reducible assumption
    | (extract_lets -underBinder +onlyGivenNames y; clear_value (hy : y = _); first | refine Keeps.sub (u := u) hy ?_ (fun hk => ?_) | refine Keeps.subA (u := u) hy ?_ (fun hk => ?_) | refine Keeps.subP (u := u) hy ?_ (fun hk => ?_) | clear hy)
    | with_reducible apply Keeps.off
    | with_reducible apply Keeps.when
    | with_reducible apply keeps_setOut
    | split
    | intro)
theorem keeps_convOff {u s : State} (h : Keeps u s) (g : Nat) : Keeps u (convOff g s) := by
  unfold convOff
  repeat' (first
    | with_reducible assumption
    | with_reducible refine Keeps.ite ?_ ?_
    | with_reducible apply Keeps.set
    | split
    | intro)
theorem keeps_disableGroup {u s : State} (h : Keeps u s) (g : Nat) : Keeps u (disableGroup g s) := by
  unfold disableGroup
  repeat' (first
    | with_reducible assumption
    | with_reducible apply Keeps.clrBit
    | with_reducible apply Keeps.forEach
    | with_reducible apply keeps_driveLeg
    | with_reducible apply keeps_withdrawLeg
    | with_reducible apply keeps_convOff
    | split
    | intro)
theorem keeps_disableGroups {u s : State} (h : Keeps u s) (m : Nat) : Keeps u (disableGroups m s) := by
  unfold disableGroups
  repeat' (first
    | with_reducible assumption
    | with_reducible refine Keeps.ite ?_ ?_
    | with_reducible apply Keeps.forUpTo
    | with_reducible apply keeps_disableGroup
    | split
    | intro)
theorem keeps_moveGroup {u s : State} (h : Keeps u s) (g : Nat) : Keeps u (moveGroup g s) := by
  unfold moveGroup
  repeat' (first
    | with_reducible assumption
    | (extract_lets -underBinder +onlyGivenNames y; clear_value (hy : y = _); first | refine Keeps.sub (u := u) hy ?_ (fun hk => ?_) | refine Keeps.subA (u := u) hy ?_ (fun hk => ?_) | refine Keeps.subP (u := u) hy ?_ (fun hk => ?_) | clear hy)
    | with_reducible apply Keeps.set
    | with_reducible apply Keeps.setB
    | with_reducible apply Keeps.forEach
    | with_reducible apply keeps_driveLeg
    | split
    | intro)
theorem keeps_forceGroup {u s : State} (h : Keeps u s) (g : Nat) (cause : Nat) : Keeps u (forceGroup g cause s) := by
  unfold forceGroup
  repeat' (first
    | with_reducible assumption
    | (extract_lets -underBinder +onlyGivenNames y; clear_value (hy : y = _); first | refine Keeps.sub (u := u) hy ?_ (fun hk => ?_) | refine Keeps.subA (u := u) hy ?_ (fun hk => ?_) | refine Keeps.subP (u := u) hy ?_ (fun hk => ?_) | clear hy)
    | with_reducible refine Keeps.ite ?_ ?_
    | with_reducible apply Keeps.set
    | with_reducible apply Keeps.on
    | with_reducible apply Keeps.setBit
    | with_reducible apply Keeps.clrBit
    | with_reducible apply Keeps.incSat
    | with_reducible apply Keeps.forEach
    | with_reducible apply keeps_withdrawLeg
    | with_reducible apply keeps_convOff
    | with_reducible apply keeps_moveGroup
    | split
    | intro)
theorem keeps_forceGroups {u s : State} (h : Keeps u s) (m : Nat) (cause : Nat) : Keeps u (forceGroups m cause s) := by
  unfold forceGroups
  repeat' (first
    | with_reducible assumption
    | with_reducible refine Keeps.ite ?_ ?_
    | with_reducible apply Keeps.forUpTo
    | with_reducible apply keeps_forceGroup
    | split
    | intro)
theorem keeps_assertSource {u s : State} (h : Keeps u s) (src : Nat) : Keeps u (assertSource src s) := by
  unfold assertSource
  repeat' (first
    | with_reducible assumption
    | with_reducible apply Keeps.on
    | with_reducible apply Keeps.setBit
    | with_reducible apply keeps_forceGroups
    | split
    | intro)
theorem keeps_deassertSource {u s : State} (h : Keeps u s) (src : Nat) : Keeps u (deassertSource src s) := by
  unfold deassertSource
  repeat' (first
    | with_reducible assumption
    | with_reducible apply Keeps.off
    | split
    | intro)
theorem keeps_setSafForce {u s : State} (h : Keeps u s) (m : Nat) (why : Nat) : Keeps u (setSafForce m why s) := by
  unfold setSafForce
  repeat' (first
    | with_reducible assumption
    | with_reducible refine Keeps.ite ?_ ?_
    | with_reducible apply Keeps.orMask
    | with_reducible apply Keeps.setBit
    | with_reducible apply Keeps.forUpTo
    | with_reducible apply keeps_forceGroups
    | split
    | intro)
theorem keeps_dropSafForce {u s : State} (h : Keeps u s) (m : Nat) (why : Nat) : Keeps u (dropSafForce m why s) := by
  unfold dropSafForce
  repeat' (first
    | with_reducible assumption
    | (extract_lets -underBinder +onlyGivenNames y; clear_value (hy : y = _); first | refine Keeps.sub (u := u) hy ?_ (fun hk => ?_) | refine Keeps.subA (u := u) hy ?_ (fun hk => ?_) | refine Keeps.subP (u := u) hy ?_ (fun hk => ?_) | clear hy)
    | with_reducible refine Keeps.ite ?_ ?_
    | with_reducible apply Keeps.clrBit
    | with_reducible apply Keeps.forUpTo
    | split
    | intro)
theorem keeps_openStep {u s : State} (h : Keeps u s) : Keeps u (openStep s) := by
  unfold openStep
  repeat' (first
    | with_reducible assumption
    | (extract_lets -underBinder +onlyGivenNames y; clear_value (hy : y = _); first | refine Keeps.sub (u := u) hy ?_ (fun hk => ?_) | refine Keeps.subA (u := u) hy ?_ (fun hk => ?_) | refine Keeps.subP (u := u) hy ?_ (fun hk => ?_) | clear hy)
    | with_reducible refine Keeps.ite ?_ ?_
    | with_reducible apply Keeps.set
    | with_reducible apply Keeps.off
    | with_reducible apply Keeps.clrBit
    | with_reducible apply Keeps.when
    | with_reducible apply Keeps.forEach
    | split
    | intro)
theorem keeps_openDrivers {u s : State} (h : Keeps u s) (m : Nat) (pack : Bool) : Keeps u (openDrivers m pack s) := by
  unfold openDrivers
  repeat' (first
    | with_reducible assumption
    | (extract_lets -underBinder +onlyGivenNames y; clear_value (hy : y = _); first | refine Keeps.sub (u := u) hy ?_ (fun hk => ?_) | refine Keeps.subA (u := u) hy ?_ (fun hk => ?_) | refine Keeps.subP (u := u) hy ?_ (fun hk => ?_) | clear hy)
    | with_reducible refine Keeps.ite ?_ ?_
    | with_reducible apply Keeps.set
    | with_reducible apply Keeps.off
    | with_reducible apply Keeps.orMask
    | with_reducible apply Keeps.when
    | with_reducible apply Keeps.forUpTo
    | with_reducible apply Keeps.foldl
    | with_reducible apply keeps_openStep
    | split
    | intro)
theorem keeps_openGap {u s : State} (h : Keeps u s) : Keeps u (openGap s) := by
  unfold openGap
  repeat' (first
    | with_reducible assumption
    | (extract_lets -underBinder +onlyGivenNames y; clear_value (hy : y = _); first | refine Keeps.sub (u := u) hy ?_ (fun hk => ?_) | refine Keeps.subA (u := u) hy ?_ (fun hk => ?_) | refine Keeps.subP (u := u) hy ?_ (fun hk => ?_) | clear hy)
    | with_reducible refine Keeps.ite ?_ ?_
    | with_reducible apply keeps_openStep
    | split
    | intro)
theorem keeps_enterSafeHold {u s : State} (h : Keeps u s) (cause : Nat) : Keeps u (enterSafeHold cause s) := by
  unfold enterSafeHold
  repeat' (first
    | with_reducible assumption
    | (extract_lets -underBinder +onlyGivenNames y; clear_value (hy : y = _); first | refine Keeps.sub (u := u) hy ?_ (fun hk => ?_) | refine Keeps.subA (u := u) hy ?_ (fun hk => ?_) | refine Keeps.subP (u := u) hy ?_ (fun hk => ?_) | clear hy)
    | with_reducible refine Keeps.ite ?_ ?_
    | with_reducible apply Keeps.set
    | with_reducible apply Keeps.on
    | with_reducible apply Keeps.off
    | with_reducible apply keeps_disableGroups
    | with_reducible apply keeps_openDrivers
    | split
    | intro)

end Sys2Proof.Machine
end

