-- ==== Sys2Proof/Laws/KeepsAccess.lean ====
section
/-!
SUPPORT. The operations of Machine/Access.lean keep the canonical forms, the queue and the time.
-/
namespace Sys2Proof.Machine
open Sys2Proof
set_option linter.unreachableTactic false
set_option linter.unusedTactic false

theorem keeps_sourceSent {u s : State} (h : Keeps u s) (kind idx : Nat) : Keeps u (sourceSent kind idx s) := by
  unfold sourceSent
  repeat' (first
    | with_reducible assumption
    | with_reducible apply Keeps.inc
    | split
    | intro)
theorem keeps_setTheta {u s : State} (h : Keeps u s) (p v : Nat) : Keeps u (setTheta p v s) := by
  unfold setTheta
  repeat' (first
    | with_reducible assumption
    | with_reducible apply Keeps.set
    | split
    | intro)
theorem keeps_advance {u s : State} (h : Keeps u s) (p n : Nat) : Keeps u (advance p n s) := by
  unfold advance
  repeat' (first
    | with_reducible assumption
    | (extract_lets -underBinder +onlyGivenNames y; clear_value (hy : y = _); first | refine Keeps.sub (u := u) hy ?_ (fun hk => ?_) | refine Keeps.subA (u := u) hy ?_ (fun hk => ?_) | refine Keeps.subP (u := u) hy ?_ (fun hk => ?_) | clear hy)
    | with_reducible apply Keeps.set
    | with_reducible apply Keeps.sset
    | with_reducible apply keeps_setTheta
    | split
    | intro)
theorem keeps_takeRate {u s : State} (h : Keeps u s) (p : Nat) : Keeps u (takeRate p s) := by
  unfold takeRate
  repeat' (first
    | with_reducible assumption
    | with_reducible apply Keeps.set
    | with_reducible apply Keeps.off
    | with_reducible apply Keeps.sset
    | split
    | intro)
theorem keeps_catchUp {u s : State} (h : Keeps u s) (p : Nat) : Keeps u (catchUp p s) := by
  unfold catchUp
  repeat' (first
    | with_reducible assumption
    | (extract_lets -underBinder +onlyGivenNames y; clear_value (hy : y = _); first | refine Keeps.sub (u := u) hy ?_ (fun hk => ?_) | refine Keeps.subA (u := u) hy ?_ (fun hk => ?_) | refine Keeps.subP (u := u) hy ?_ (fun hk => ?_) | clear hy)
    | with_reducible refine Keeps.ite ?_ ?_
    | with_reducible apply keeps_advance
    | with_reducible apply keeps_takeRate
    | split
    | intro)
theorem keeps_restartAngle {u s : State} (h : Keeps u s) (p : Nat) : Keeps u (restartAngle p s) := by
  unfold restartAngle
  repeat' (first
    | with_reducible assumption
    | with_reducible apply Keeps.set
    | split
    | intro)
theorem keeps_logViolation {u s : State} (h : Keeps u s) (kind : Nat) (w : Who) (a : Nat) : Keeps u (logViolation kind w a s) := by
  unfold logViolation
  repeat' (first
    | with_reducible assumption
    | with_reducible apply Keeps.set
    | with_reducible apply Keeps.on
    | with_reducible apply Keeps.send
    | with_reducible apply Keeps.when
    | split
    | intro)
theorem keeps_sideband {u s : State} (h : Keeps u s) (w : Who) (a v : Nat) (g : State → State) (hg : ∀ t, Keeps u t → Keeps u (g t)) : Keeps u (sideband w a v g s) := by
  unfold sideband
  repeat' (first
    | with_reducible assumption
    | with_reducible refine Keeps.ite ?_ ?_
    | with_reducible apply Keeps.on
    | with_reducible apply Keeps.answer
    | with_reducible apply hg
    | with_reducible apply keeps_logViolation
    | split
    | intro)
theorem keeps_sidebandRead {u s : State} (h : Keeps u s) (w : Who) (a : Nat) (g : State → State) (hg : ∀ t, Keeps u t → Keeps u (g t)) : Keeps u (sidebandRead w a g s) := by
  unfold sidebandRead
  repeat' (first
    | with_reducible assumption
    | with_reducible refine Keeps.ite ?_ ?_
    | with_reducible apply Keeps.on
    | with_reducible apply Keeps.answer
    | with_reducible apply hg
    | split
    | intro)
theorem keeps_sidebandReadAfter {u s : State} (h : Keeps u s) (w : Who) (a : Nat) (g : State → State) (hg : ∀ t, Keeps u t → Keeps u (g t)) : Keeps u (sidebandReadAfter w a g s) := by
  unfold sidebandReadAfter
  repeat' (first
    | with_reducible assumption
    | with_reducible refine Keeps.ite ?_ ?_
    | with_reducible apply Keeps.on
    | with_reducible apply Keeps.answer
    | with_reducible apply hg
    | split
    | intro)
theorem keeps_writeField {u s : State} (h : Keeps u s) (w : Who) (a : Nat) (f : Fld) (i : Nat) (j : Nat) (v : Nat) : Keeps u (writeField w a f i j v s) := by
  unfold writeField
  repeat' (first
    | with_reducible assumption
    | with_reducible refine Keeps.ite ?_ ?_
    | with_reducible apply Keeps.set
    | with_reducible apply Keeps.orMask
    | with_reducible apply Keeps.clrMask
    | split
    | intro)
/-- Keeps of reportIgnored. CUSTOM -/
theorem keeps_reportIgnored {u t : State} (h : Keeps u t) (w : Who) (a v : Nat) (r : RegRow) (i j : Nat) (s : State) :
    Keeps u (reportIgnored w a v r i j s t) := by
  unfold reportIgnored
  split
  · exact keeps_logViolation h ..
  · exact h
theorem keeps_writeWord {u s : State} (h : Keeps u s) (w : Who) (a v : Nat) (r : RegRow) (i j : Nat) : Keeps u (writeWord w a v r i j s) := by
  unfold writeWord
  repeat' (first
    | with_reducible assumption
    | with_reducible apply Keeps.foldl
    | with_reducible apply keeps_reportIgnored
    | with_reducible apply keeps_writeField
    | split
    | intro)
theorem keeps_discardWord {u s : State} (h : Keeps u s) (w : Who) (a v : Nat) : Keeps u (discardWord w a v s) := by
  unfold discardWord
  repeat' (first
    | with_reducible assumption
    | with_reducible apply keeps_reportIgnored
    | split
    | intro)
theorem keeps_storeWord {u s : State} (h : Keeps u s) (w : Who) (a : Nat) (v : Nat) : Keeps u (storeWord w a v s) := by
  unfold storeWord
  repeat' (first
    | with_reducible assumption
    | with_reducible apply keeps_writeWord
    | split
    | intro)

end Sys2Proof.Machine
end

