-- ==== Sys2Proof/Laws/KeepsTide.lean ====
section
/-!
SUPPORT. The operations of Machine/Tide.lean keep the canonical forms, the queue and the time.
-/
namespace Sys2Proof.Machine
open Sys2Proof
set_option linter.unreachableTactic false
set_option linter.unusedTactic false

theorem keeps_setPageValid {u s : State} (h : Keeps u s) (p : Nat) (page : Nat) (v : Bool) : Keeps u (setPageValid p page v s) := by
  unfold setPageValid
  repeat' (first
    | with_reducible assumption
    | with_reducible refine Keeps.ite ?_ ?_
    | with_reducible apply Keeps.setB
    | split
    | intro)
theorem keeps_setTag {u s : State} (h : Keeps u s) (p : Nat) (page : Nat) (v : Nat) : Keeps u (setTag p page v s) := by
  unfold setTag
  repeat' (first
    | with_reducible assumption
    | with_reducible refine Keeps.ite ?_ ?_
    | with_reducible apply Keeps.set
    | split
    | intro)
theorem keeps_refreshSwap {u s : State} (h : Keeps u s) (p : Nat) : Keeps u (refreshSwap p s) := by
  unfold refreshSwap
  repeat' (first
    | with_reducible assumption
    | with_reducible apply Keeps.setB
    | split
    | intro)
theorem keeps_spoilPage {u s : State} (h : Keeps u s) (p page : Nat) : Keeps u (spoilPage p page s) :=
  h.forUpTo _ (fun _ _ ht => (ht.free _).writeN ..)
theorem keeps_startLoad {u s : State} (h : Keeps u s) (p : Nat) (ppi : Nat) : Keeps u (startLoad p ppi s) := by
  unfold startLoad
  repeat' (first
    | with_reducible assumption
    | (extract_lets -underBinder +onlyGivenNames y; clear_value (hy : y = _); first | refine Keeps.sub (u := u) hy ?_ (fun hk => ?_) | refine Keeps.subA (u := u) hy ?_ (fun hk => ?_) | refine Keeps.subP (u := u) hy ?_ (fun hk => ?_) | clear hy)
    | with_reducible refine Keeps.ite ?_ ?_
    | with_reducible apply Keeps.set
    | with_reducible apply Keeps.on
    | with_reducible apply Keeps.setBit
    | with_reducible apply Keeps.when
    | with_reducible apply keeps_spoilPage
    | with_reducible apply keeps_setPageValid
    | with_reducible apply keeps_refreshSwap
    | split
    | intro)
theorem keeps_loadPpi {u s : State} (h : Keeps u s) (p : Nat) (ppi : Nat) : Keeps u (loadPpi p ppi s) := by
  unfold loadPpi
  repeat' (first
    | with_reducible assumption
    | with_reducible refine Keeps.ite ?_ ?_
    | with_reducible apply Keeps.on
    | with_reducible apply keeps_startLoad
    | split
    | intro)
theorem keeps_copyPattern {u s : State} (h : Keeps u s) (d : DirEntry) (p page a k prev : Nat) (seen : List Nat) (n : Nat) :
    Keeps u (copyPattern d p page a k prev seen s n).2 := by
  induction n generalizing s k prev seen with
  | zero => exact h
  | succ n ih =>
    unfold copyPattern
    extract_lets e
    split
    · exact h
    · exact ih (h.writeN ..) ..
theorem keeps_endLoad {u s : State} (h : Keeps u s) (p : Nat) (ppi : Nat) (ok : Bool) : Keeps u (endLoad p ppi ok s) := by
  unfold endLoad
  repeat' (first
    | with_reducible assumption
    | (extract_lets -underBinder +onlyGivenNames y; clear_value (hy : y = _); first | refine Keeps.sub (u := u) hy ?_ (fun hk => ?_) | refine Keeps.subA (u := u) hy ?_ (fun hk => ?_) | refine Keeps.subP (u := u) hy ?_ (fun hk => ?_) | clear hy)
    | with_reducible refine Keeps.ite ?_ ?_
    | with_reducible apply Keeps.off
    | with_reducible apply Keeps.setBit
    | with_reducible apply Keeps.clrBit
    | with_reducible apply keeps_spoilPage
    | with_reducible apply keeps_setPageValid
    | with_reducible apply keeps_setTag
    | with_reducible apply keeps_refreshSwap
    | split
    | intro)
theorem keeps_tideLoadComplete {u s : State} (h : Keeps u s) (p : Nat) : Keeps u (tideLoadComplete p s) := by
  unfold tideLoadComplete
  repeat' (first
    | with_reducible assumption
    | (extract_lets -underBinder +onlyGivenNames y; clear_value (hy : y = _); first | refine Keeps.sub (u := u) hy ?_ (fun hk => ?_) | refine Keeps.subA (u := u) hy ?_ (fun hk => ?_) | refine Keeps.subP (u := u) hy ?_ (fun hk => ?_) | clear hy)
    | with_reducible refine Keeps.ite ?_ ?_
    | with_reducible apply Keeps.on
    | with_reducible apply keeps_copyPattern
    | with_reducible apply keeps_endLoad
    | split
    | intro)
theorem keeps_tideLoadClosed {u s : State} (h : Keeps u s) (p : Nat) : Keeps u (tideLoadClosed p s) := by
  unfold tideLoadClosed
  repeat' (first
    | with_reducible assumption
    | with_reducible refine Keeps.ite ?_ ?_
    | with_reducible apply Keeps.on
    | with_reducible apply keeps_endLoad
    | split
    | intro)
theorem keeps_matureRequests {u s : State} (h : Keeps u s) (p : Nat) : Keeps u (matureRequests p s) := by
  unfold matureRequests
  repeat' (first
    | with_reducible assumption
    | (extract_lets -underBinder +onlyGivenNames y; clear_value (hy : y = _); first | refine Keeps.sub (u := u) hy ?_ (fun hk => ?_) | refine Keeps.subA (u := u) hy ?_ (fun hk => ?_) | refine Keeps.subP (u := u) hy ?_ (fun hk => ?_) | clear hy)
    | with_reducible refine Keeps.ite ?_ ?_
    | with_reducible apply Keeps.set
    | with_reducible apply Keeps.on
    | with_reducible apply Keeps.forUpTo
    | split
    | intro)
theorem keeps_noteRequest {u s : State} (h : Keeps u s) (p ppi : Nat) : Keeps u (noteRequest p ppi s) := by
  unfold noteRequest
  repeat' (first
    | with_reducible assumption
    | (extract_lets -underBinder +onlyGivenNames y; clear_value (hy : y = _); first | refine Keeps.sub (u := u) hy ?_ (fun hk => ?_) | refine Keeps.subA (u := u) hy ?_ (fun hk => ?_) | refine Keeps.subP (u := u) hy ?_ (fun hk => ?_) | clear hy)
    | with_reducible refine Keeps.ite ?_ ?_
    | with_reducible apply Keeps.set
    | split
    | intro)
theorem keeps_pageRequest {u s : State} (h : Keeps u s) (p ppi : Nat) : Keeps u (pageRequest p ppi s) := by
  unfold pageRequest
  repeat' (first
    | with_reducible assumption
    | (extract_lets -underBinder +onlyGivenNames y; clear_value (hy : y = _); first | refine Keeps.sub (u := u) hy ?_ (fun hk => ?_) | refine Keeps.subA (u := u) hy ?_ (fun hk => ?_) | refine Keeps.subP (u := u) hy ?_ (fun hk => ?_) | clear hy)
    | with_reducible refine Keeps.ite ?_ ?_
    | with_reducible apply Keeps.set
    | with_reducible apply Keeps.on
    | with_reducible apply keeps_matureRequests
    | with_reducible apply keeps_noteRequest
    | with_reducible apply keeps_refreshSwap
    | with_reducible apply keeps_startLoad
    | split
    | intro)
theorem keeps_tideStoreWrite {u s : State} (h : Keeps u s) (p : Nat) (k : Nat) (v : Nat) : Keeps u (tideStoreWrite p k v s) := by
  unfold tideStoreWrite
  repeat' (first
    | with_reducible assumption
    | (extract_lets -underBinder +onlyGivenNames y; clear_value (hy : y = _); first | refine Keeps.sub (u := u) hy ?_ (fun hk => ?_) | refine Keeps.subA (u := u) hy ?_ (fun hk => ?_) | refine Keeps.subP (u := u) hy ?_ (fun hk => ?_) | clear hy)
    | with_reducible refine Keeps.ite ?_ ?_
    | with_reducible apply Keeps.on
    | with_reducible apply Keeps.writeN
    | with_reducible apply keeps_setPageValid
    | with_reducible apply keeps_refreshSwap
    | split
    | intro)
theorem keeps_execTideStoreWrite (w : Who) (p : PlayerIx) (k : Fin 16384) (v : Word) (s : State) : ∃ u, execTideStoreWrite w p k v s = .next u ∧ Keeps s u := by
  refine ⟨_, rfl, ?_⟩
  have h := Keeps.refl s
  repeat' (first
    | with_reducible assumption
    | with_reducible apply keeps_sideband
    | with_reducible apply keeps_tideStoreWrite
    | split
    | intro)
theorem keeps_execTideLoadComplete (p : PlayerIx) (s : State) : ∃ u, execTideLoadComplete p s = .next u ∧ Keeps s u := by
  refine ⟨_, rfl, ?_⟩
  have h := Keeps.refl s
  repeat' (first
    | with_reducible assumption
    | with_reducible apply keeps_tideLoadComplete
    | split
    | intro)
theorem keeps_execTideLoadClosed (p : PlayerIx) (s : State) : ∃ u, execTideLoadClosed p s = .next u ∧ Keeps s u := by
  refine ⟨_, rfl, ?_⟩
  have h := Keeps.refl s
  repeat' (first
    | with_reducible assumption
    | with_reducible apply keeps_tideLoadClosed
    | split
    | intro)
theorem keeps_execTideMissLimit (p : PlayerIx) (s : State) : ∃ u, execTideMissLimit p s = .next u ∧ Keeps s u := by
  refine ⟨_, rfl, ?_⟩
  have h := Keeps.refl s
  repeat' (first
    | with_reducible assumption
    | with_reducible refine Keeps.ite ?_ ?_
    | with_reducible apply keeps_assertSource
    | split
    | intro)

end Sys2Proof.Machine
end

