-- ==== Sys2Proof/Laws/KeepsEdge.lean ====
section
/-!
SUPPORT. The operations of Machine/Edge.lean keep the canonical forms, the queue and the time.
-/
namespace Sys2Proof.Machine
open Sys2Proof
set_option linter.unreachableTactic false
set_option linter.unusedTactic false

theorem keeps_ilEvent {u s : State} (h : Keeps u s) (n : Nat) : Keeps u (ilEvent n s) := by
  unfold ilEvent
  repeat' (first
    | with_reducible assumption
    | with_reducible apply Keeps.on
    | with_reducible apply Keeps.incSat
    | split
    | intro)
theorem keeps_dropReq {u s : State} (h : Keeps u s) (n : Nat) (c : Chan) : Keeps u (dropReq n c s) := by
  unfold dropReq
  repeat' (first
    | with_reducible assumption
    | (extract_lets -underBinder +onlyGivenNames y; clear_value (hy : y = _); first | refine Keeps.sub (u := u) hy ?_ (fun hk => ?_) | refine Keeps.subA (u := u) hy ?_ (fun hk => ?_) | refine Keeps.subP (u := u) hy ?_ (fun hk => ?_) | clear hy)
    | with_reducible apply Keeps.set
    | with_reducible apply Keeps.off
    | with_reducible apply Keeps.when
    | with_reducible apply keeps_driveLeg
    | split
    | intro)
theorem keeps_raiseReq {u s : State} (h : Keeps u s) (n : Nat) (c : Chan) : Keeps u (raiseReq n c s) := by
  unfold raiseReq
  repeat' (first
    | with_reducible assumption
    | with_reducible refine Keeps.ite ?_ ?_
    | with_reducible apply Keeps.on
    | with_reducible apply keeps_driveLeg
    | with_reducible apply keeps_ilEvent
    | split
    | intro)
theorem keeps_requestLeg {u s : State} (h : Keeps u s) (n : Nat) (hi : Bool) (lo : Bool) : Keeps u (requestLeg n hi lo s) := by
  unfold requestLeg
  repeat' (first
    | with_reducible assumption
    | (extract_lets -underBinder +onlyGivenNames y; clear_value (hy : y = _); first | refine Keeps.sub (u := u) hy ?_ (fun hk => ?_) | refine Keeps.subA (u := u) hy ?_ (fun hk => ?_) | refine Keeps.subP (u := u) hy ?_ (fun hk => ?_) | clear hy)
    | with_reducible refine Keeps.ite ?_ ?_
    | with_reducible apply Keeps.on
    | with_reducible apply Keeps.when
    | with_reducible apply keeps_ilEvent
    | with_reducible apply keeps_dropReq
    | with_reducible apply keeps_raiseReq
    | split
    | intro)
theorem keeps_slotFrame {u s : State} (h : Keeps u s) (n slot : Nat) : Keeps u (slotFrame n slot s) := by
  unfold slotFrame
  repeat' (first
    | with_reducible assumption
    | with_reducible apply Keeps.set
    | with_reducible apply Keeps.on
    | with_reducible apply Keeps.send
    | split
    | intro)
theorem keeps_sendSlot {u s : State} (h : Keeps u s) (n slot : Nat) : Keeps u (sendSlot n slot s) := by
  unfold sendSlot
  repeat' (first
    | with_reducible assumption
    | with_reducible refine Keeps.ite ?_ ?_
    | with_reducible apply keeps_slotFrame
    | split
    | intro)
theorem keeps_slotNext {u s : State} (h : Keeps u s) (n : Nat) : Keeps u (slotNext n s) := by
  unfold slotNext
  repeat' (first
    | with_reducible assumption
    | with_reducible refine Keeps.ite ?_ ?_
    | with_reducible apply keeps_sendSlot
    | split
    | intro)
theorem keeps_judgeSlot {u s : State} (h : Keeps u s) (n : Nat) : Keeps u (judgeSlot n s) := by
  unfold judgeSlot
  repeat' (first
    | with_reducible assumption
    | (extract_lets -underBinder +onlyGivenNames y; clear_value (hy : y = _); first | refine Keeps.sub (u := u) hy ?_ (fun hk => ?_) | refine Keeps.subA (u := u) hy ?_ (fun hk => ?_) | refine Keeps.subP (u := u) hy ?_ (fun hk => ?_) | clear hy)
    | with_reducible refine Keeps.ite ?_ ?_
    | with_reducible apply Keeps.on
    | with_reducible apply Keeps.off
    | with_reducible apply Keeps.free
    | with_reducible apply Keeps.when
    | split
    | intro)
theorem keeps_turnOn {u s : State} (h : Keeps u s) (n : Nat) (c : Chan) : Keeps u (turnOn n c s) := by
  unfold turnOn
  repeat' (first
    | with_reducible assumption
    | (extract_lets -underBinder +onlyGivenNames y; clear_value (hy : y = _); first | refine Keeps.sub (u := u) hy ?_ (fun hk => ?_) | refine Keeps.subA (u := u) hy ?_ (fun hk => ?_) | refine Keeps.subP (u := u) hy ?_ (fun hk => ?_) | clear hy)
    | with_reducible refine Keeps.ite ?_ ?_
    | with_reducible apply Keeps.set
    | with_reducible apply Keeps.off
    | with_reducible apply keeps_judgeSlot
    | with_reducible apply keeps_raiseReq
    | with_reducible apply keeps_slotNext
    | split
    | intro)
theorem keeps_applyCommand {u s : State} (h : Keeps u s) (n st : Nat) : Keeps u (applyCommand n st s) := by
  unfold applyCommand
  repeat' (first
    | with_reducible assumption
    | (extract_lets -underBinder +onlyGivenNames y; clear_value (hy : y = _); first | refine Keeps.sub (u := u) hy ?_ (fun hk => ?_) | refine Keeps.subA (u := u) hy ?_ (fun hk => ?_) | refine Keeps.subP (u := u) hy ?_ (fun hk => ?_) | refine Keeps.subF (u := u) hy (fun t ht => ?_) (fun hk => ?_) | refine Keeps.subF1 (u := u) hy (fun a t ht => ?_) (fun hk => ?_) | refine Keeps.subF2 (u := u) hy (fun a b t ht => ?_) (fun hk => ?_) | refine Keeps.subG1 (u := u) hy (fun a => ?_) (fun hk => ?_) | refine Keeps.subG2 (u := u) hy (fun a b => ?_) (fun hk => ?_) | clear hy)
    | with_reducible refine Keeps.ite ?_ ?_
    | with_reducible apply Keeps.set
    | with_reducible apply Keeps.off
    | with_reducible apply Keeps.when
    | with_reducible apply keeps_dropReq
    | with_reducible apply keeps_judgeSlot
    | with_reducible apply keeps_slotNext
    | with_reducible apply keeps_turnOn
    | with_reducible apply_assumption
    | split
    | intro)
theorem keeps_commandLeg {u s : State} (h : Keeps u s) (n : Nat) (st : LegState) (x : Nat) : Keeps u (commandLeg n st x s) := by
  unfold commandLeg
  repeat' (first
    | with_reducible assumption
    | (extract_lets -underBinder +onlyGivenNames y; clear_value (hy : y = _); first | refine Keeps.sub (u := u) hy ?_ (fun hk => ?_) | refine Keeps.subA (u := u) hy ?_ (fun hk => ?_) | refine Keeps.subP (u := u) hy ?_ (fun hk => ?_) | clear hy)
    | with_reducible refine Keeps.ite ?_ ?_
    | with_reducible apply Keeps.set
    | with_reducible apply keeps_applyCommand
    | with_reducible apply keeps_legCode
    | split
    | intro)
theorem keeps_syncLeg {u s : State} (h : Keeps u s) (n : Nat) : Keeps u (syncLeg n s) := by
  unfold syncLeg
  repeat' (first
    | with_reducible assumption
    | with_reducible apply keeps_commandLeg
    | with_reducible apply keeps_modeAt
    | split
    | intro)
theorem keeps_issueEdges {u s : State} (h : Keeps u s) (n : Nat) (n_ : Nat) : Keeps u (issueEdges n s n_) := by
  induction n_ generalizing s with
  | zero =>
    unfold issueEdges
    repeat' (first
      | with_reducible assumption
      | (extract_lets -underBinder +onlyGivenNames y; clear_value (hy : y = _); first | refine Keeps.sub (u := u) hy ?_ (fun hk => ?_) | refine Keeps.subA (u := u) hy ?_ (fun hk => ?_) | refine Keeps.subP (u := u) hy ?_ (fun hk => ?_) | clear hy)
      | with_reducible refine Keeps.ite ?_ ?_
      | with_reducible apply Keeps.set
      | with_reducible apply Keeps.forUpTo
      | with_reducible apply keeps_applyCommand
      | split
      | intro)
  | succ n_ ih =>
    unfold issueEdges
    repeat' (first
      | with_reducible assumption
      | (extract_lets -underBinder +onlyGivenNames y; clear_value (hy : y = _); first | refine Keeps.sub (u := u) hy ?_ (fun hk => ?_) | refine Keeps.subA (u := u) hy ?_ (fun hk => ?_) | refine Keeps.subP (u := u) hy ?_ (fun hk => ?_) | clear hy)
      | with_reducible refine Keeps.ite ?_ ?_
      | with_reducible apply Keeps.set
      | with_reducible apply Keeps.forUpTo
      | with_reducible apply keeps_applyCommand
      | with_reducible apply ih
      | split
      | intro)
theorem keeps_catchLeg {u s : State} (h : Keeps u s) (n : Nat) : Keeps u (catchLeg n s) := by
  unfold catchLeg
  repeat' (first
    | with_reducible assumption
    | with_reducible refine Keeps.ite ?_ ?_
    | with_reducible apply keeps_catchUp
    | split
    | intro)
theorem keeps_channelEdge {u s : State} (h : Keeps u s) (n : Nat) (r : EdgeReq) : Keeps u (channelEdge n r s) := by
  unfold channelEdge
  repeat' (first
    | with_reducible assumption
    | (extract_lets -underBinder +onlyGivenNames y; clear_value (hy : y = _); first | refine Keeps.sub (u := u) hy ?_ (fun hk => ?_) | refine Keeps.subA (u := u) hy ?_ (fun hk => ?_) | refine Keeps.subP (u := u) hy ?_ (fun hk => ?_) | clear hy)
    | with_reducible apply keeps_catchLeg
    | with_reducible apply keeps_issueEdges
    | with_reducible apply keeps_requestLeg
    | with_reducible apply keeps_syncLeg
    | split
    | intro)
theorem keeps_honour {u s : State} (h : Keeps u s) (n : Nat) : Keeps u (honour n s) := by
  unfold honour
  repeat' (first
    | with_reducible assumption
    | with_reducible refine Keeps.ite ?_ ?_
    | with_reducible apply Keeps.on
    | with_reducible apply keeps_driveLeg
    | split
    | intro)
theorem keeps_deadTimeExpiry {u s : State} (h : Keeps u s) (n : Nat) : Keeps u (deadTimeExpiry n s) := by
  unfold deadTimeExpiry
  repeat' (first
    | with_reducible assumption
    | with_reducible refine Keeps.ite ?_ ?_
    | with_reducible apply Keeps.set
    | with_reducible apply Keeps.on
    | with_reducible apply Keeps.off
    | with_reducible apply keeps_catchLeg
    | with_reducible apply keeps_driveLeg
    | with_reducible apply keeps_honour
    | with_reducible apply keeps_syncLeg
    | with_reducible apply keeps_turnOn
    | split
    | intro)
theorem keeps_refreshPulseEnd {u s : State} (h : Keeps u s) (n : Nat) : Keeps u (refreshPulseEnd n s) := by
  unfold refreshPulseEnd
  repeat' (first
    | with_reducible assumption
    | with_reducible refine Keeps.ite ?_ ?_
    | with_reducible apply Keeps.set
    | with_reducible apply Keeps.off
    | with_reducible apply keeps_driveLeg
    | split
    | intro)
theorem keeps_refreshStart {u s : State} (h : Keeps u s) (n : Nat) : Keeps u (refreshStart n s) := by
  unfold refreshStart
  repeat' (first
    | with_reducible assumption
    | with_reducible refine Keeps.ite ?_ ?_
    | with_reducible apply Keeps.set
    | with_reducible apply Keeps.off
    | with_reducible apply keeps_driveLeg
    | split
    | intro)
theorem keeps_bootIntervalExpiry {u s : State} (h : Keeps u s) (n : Nat) : Keeps u (bootIntervalExpiry n s) := by
  unfold bootIntervalExpiry
  repeat' (first
    | with_reducible assumption
    | with_reducible refine Keeps.ite ?_ ?_
    | with_reducible apply Keeps.on
    | split
    | intro)
theorem keeps_bootUvReport {u s : State} (h : Keeps u s) (n : Nat) : Keeps u (bootUvReport n s) := by
  unfold bootUvReport
  repeat' (first
    | with_reducible assumption
    | (extract_lets -underBinder +onlyGivenNames y; clear_value (hy : y = _); first | refine Keeps.sub (u := u) hy ?_ (fun hk => ?_) | refine Keeps.subA (u := u) hy ?_ (fun hk => ?_) | refine Keeps.subP (u := u) hy ?_ (fun hk => ?_) | clear hy)
    | with_reducible apply Keeps.on
    | with_reducible apply Keeps.when
    | split
    | intro)
theorem keeps_bootUvEnd {u s : State} (h : Keeps u s) (n : Nat) : Keeps u (bootUvEnd n s) := by
  unfold bootUvEnd
  repeat' (first
    | with_reducible assumption
    | with_reducible apply Keeps.off
    | split
    | intro)
theorem keeps_bootUvTest {u s : State} (h : Keeps u s) (n : Nat) : Keeps u (bootUvTest n s) := by
  unfold bootUvTest
  repeat' (first
    | with_reducible assumption
    | (extract_lets -underBinder +onlyGivenNames y; clear_value (hy : y = _); first | refine Keeps.sub (u := u) hy ?_ (fun hk => ?_) | refine Keeps.subA (u := u) hy ?_ (fun hk => ?_) | refine Keeps.subP (u := u) hy ?_ (fun hk => ?_) | clear hy)
    | with_reducible refine Keeps.ite ?_ ?_
    | with_reducible apply Keeps.on
    | with_reducible apply Keeps.off
    | with_reducible apply keeps_driveLeg
    | with_reducible apply keeps_forceGroup
    | split
    | intro)
theorem keeps_legForce {u s : State} (h : Keeps u s) (n : Nat) : Keeps u (legForce n s) := by
  unfold legForce
  repeat' (first
    | with_reducible assumption
    | with_reducible apply Keeps.on
    | with_reducible apply keeps_driveLeg
    | split
    | intro)
theorem keeps_ilFault {u s : State} (h : Keeps u s) (n : Nat) : Keeps u (ilFault n s) := by
  unfold ilFault
  repeat' (first
    | with_reducible assumption
    | (extract_lets -underBinder +onlyGivenNames y; clear_value (hy : y = _); first | refine Keeps.sub (u := u) hy ?_ (fun hk => ?_) | refine Keeps.subA (u := u) hy ?_ (fun hk => ?_) | refine Keeps.subP (u := u) hy ?_ (fun hk => ?_) | clear hy)
    | with_reducible refine Keeps.ite ?_ ?_
    | with_reducible apply Keeps.on
    | with_reducible apply Keeps.setBit
    | with_reducible apply Keeps.send
    | with_reducible apply keeps_legForce
    | split
    | intro)
theorem keeps_domainStop {u s : State} (h : Keeps u s) (d : Nat) : Keeps u (domainStop d s) := by
  unfold domainStop
  repeat' (first
    | with_reducible assumption
    | with_reducible refine Keeps.ite ?_ ?_
    | with_reducible apply Keeps.on
    | with_reducible apply Keeps.off
    | with_reducible apply Keeps.clrBit
    | split
    | intro)
theorem keeps_loadAll {u s : State} (h : Keeps u s) (d : Nat) : Keeps u (loadAll d s) := by
  unfold loadAll
  repeat' (first
    | with_reducible assumption
    | with_reducible refine Keeps.ite ?_ ?_
    | with_reducible apply Keeps.setB
    | with_reducible apply Keeps.on
    | split
    | intro)
theorem keeps_loadAllMask {u s : State} (h : Keeps u s) (m : Nat) : Keeps u (loadAllMask m s) := by
  unfold loadAllMask
  repeat' (first
    | with_reducible assumption
    | with_reducible refine Keeps.ite ?_ ?_
    | with_reducible apply Keeps.forUpTo
    | with_reducible apply keeps_loadAll
    | split
    | intro)
theorem keeps_captureLeg {u s : State} (h : Keeps u s) (n : Nat) : Keeps u (captureLeg n s) := by
  unfold captureLeg
  repeat' (first
    | with_reducible assumption
    | with_reducible apply Keeps.set
    | with_reducible apply Keeps.off
    | split
    | intro)
theorem keeps_captureDomain {u s : State} (h : Keeps u s) (d : Nat) : Keeps u (captureDomain d s) := by
  unfold captureDomain
  repeat' (first
    | with_reducible assumption
    | with_reducible apply Keeps.set
    | with_reducible apply Keeps.on
    | with_reducible apply Keeps.off
    | with_reducible apply Keeps.forEach
    | with_reducible apply keeps_captureLeg
    | split
    | intro)
theorem keeps_capturePlayer {u s : State} (h : Keeps u s) (p : Nat) : Keeps u (capturePlayer p s) := by
  unfold capturePlayer
  repeat' (first
    | with_reducible assumption
    | (extract_lets -underBinder +onlyGivenNames y; clear_value (hy : y = _); first | refine Keeps.sub (u := u) hy ?_ (fun hk => ?_) | refine Keeps.subA (u := u) hy ?_ (fun hk => ?_) | refine Keeps.subP (u := u) hy ?_ (fun hk => ?_) | clear hy)
    | with_reducible refine Keeps.ite ?_ ?_
    | with_reducible apply Keeps.set
    | with_reducible apply Keeps.on
    | with_reducible apply Keeps.off
    | split
    | intro)
theorem keeps_sample {u s : State} (h : Keeps u s) (d : Nat) (half : Bool) : Keeps u (sample d half s) := by
  unfold sample
  repeat' (first
    | with_reducible assumption
    | (extract_lets -underBinder +onlyGivenNames y; clear_value (hy : y = _); first | refine Keeps.sub (u := u) hy ?_ (fun hk => ?_) | refine Keeps.subA (u := u) hy ?_ (fun hk => ?_) | refine Keeps.subP (u := u) hy ?_ (fun hk => ?_) | clear hy)
    | with_reducible refine Keeps.ite ?_ ?_
    | with_reducible apply Keeps.on
    | with_reducible apply Keeps.off
    | with_reducible apply Keeps.when
    | with_reducible apply Keeps.forEach
    | with_reducible apply keeps_captureDomain
    | with_reducible apply keeps_capturePlayer
    | split
    | intro)
theorem keeps_sampleInstant {u s : State} (h : Keeps u s) (d : Nat) (half : Bool) : Keeps u (sampleInstant d half s) := by
  unfold sampleInstant
  repeat' (first
    | with_reducible assumption
    | (extract_lets -underBinder +onlyGivenNames y; clear_value (hy : y = _); first | refine Keeps.sub (u := u) hy ?_ (fun hk => ?_) | refine Keeps.subA (u := u) hy ?_ (fun hk => ?_) | refine Keeps.subP (u := u) hy ?_ (fun hk => ?_) | clear hy)
    | with_reducible refine Keeps.ite ?_ ?_
    | with_reducible apply keeps_sample
    | split
    | intro)
theorem keeps_startDomain {u s : State} (h : Keeps u s) (d : Nat) : Keeps u (startDomain d s) := by
  unfold startDomain
  repeat' (first
    | with_reducible assumption
    | (extract_lets -underBinder +onlyGivenNames y; clear_value (hy : y = _); first | refine Keeps.sub (u := u) hy ?_ (fun hk => ?_) | refine Keeps.subA (u := u) hy ?_ (fun hk => ?_) | refine Keeps.subP (u := u) hy ?_ (fun hk => ?_) | clear hy)
    | with_reducible apply Keeps.set
    | with_reducible apply Keeps.on
    | with_reducible apply Keeps.off
    | with_reducible apply Keeps.setBit
    | with_reducible apply keeps_sample
    | split
    | intro)
theorem keeps_domainStart {u s : State} (h : Keeps u s) (d : Nat) : Keeps u (domainStart d s) := by
  unfold domainStart
  repeat' (first
    | with_reducible assumption
    | with_reducible refine Keeps.ite ?_ ?_
    | with_reducible apply keeps_startDomain
    | split
    | intro)
theorem keeps_domCtrlWrite {u s : State} (h : Keeps u s) (d v : Nat) : Keeps u (domCtrlWrite d v s) := by
  unfold domCtrlWrite
  repeat' (first
    | with_reducible assumption
    | (extract_lets -underBinder +onlyGivenNames y; clear_value (hy : y = _); first | refine Keeps.sub (u := u) hy ?_ (fun hk => ?_) | refine Keeps.subA (u := u) hy ?_ (fun hk => ?_) | refine Keeps.subP (u := u) hy ?_ (fun hk => ?_) | refine Keeps.subF (u := u) hy (fun t ht => ?_) (fun hk => ?_) | refine Keeps.subF1 (u := u) hy (fun a t ht => ?_) (fun hk => ?_) | refine Keeps.subF2 (u := u) hy (fun a b t ht => ?_) (fun hk => ?_) | refine Keeps.subG1 (u := u) hy (fun a => ?_) (fun hk => ?_) | refine Keeps.subG2 (u := u) hy (fun a b => ?_) (fun hk => ?_) | clear hy)
    | with_reducible refine Keeps.ite ?_ ?_
    | with_reducible apply Keeps.set
    | with_reducible apply keeps_domainStart
    | with_reducible apply keeps_domainStop
    | with_reducible apply_assumption
    | split
    | intro)
theorem keeps_applyLeg {u s : State} (h : Keeps u s) (d : Nat) (n : Nat) : Keeps u (applyLeg d n s) := by
  unfold applyLeg
  repeat' (first
    | with_reducible assumption
    | (extract_lets -underBinder +onlyGivenNames y; clear_value (hy : y = _); first | refine Keeps.sub (u := u) hy ?_ (fun hk => ?_) | refine Keeps.subA (u := u) hy ?_ (fun hk => ?_) | refine Keeps.subP (u := u) hy ?_ (fun hk => ?_) | clear hy)
    | with_reducible apply Keeps.set
    | with_reducible apply Keeps.on
    | with_reducible apply Keeps.off
    | with_reducible apply Keeps.when
    | split
    | intro)
theorem keeps_ssWrite {u s : State} (h : Keeps u s) (d v : Nat) : Keeps u (ssWrite d v s) := by
  unfold ssWrite
  repeat' (first
    | with_reducible assumption
    | (extract_lets -underBinder +onlyGivenNames y; clear_value (hy : y = _); first | refine Keeps.sub (u := u) hy ?_ (fun hk => ?_) | refine Keeps.subA (u := u) hy ?_ (fun hk => ?_) | refine Keeps.subP (u := u) hy ?_ (fun hk => ?_) | clear hy)
    | with_reducible apply Keeps.set
    | with_reducible apply Keeps.on
    | with_reducible apply Keeps.when
    | split
    | intro)
theorem keeps_ssStep {u s : State} (h : Keeps u s) (d : Nat) : Keeps u (ssStep d s) := by
  unfold ssStep
  repeat' (first
    | with_reducible assumption
    | (extract_lets -underBinder +onlyGivenNames y; clear_value (hy : y = _); first | refine Keeps.sub (u := u) hy ?_ (fun hk => ?_) | refine Keeps.subA (u := u) hy ?_ (fun hk => ?_) | refine Keeps.subP (u := u) hy ?_ (fun hk => ?_) | clear hy)
    | with_reducible refine Keeps.ite ?_ ?_
    | with_reducible apply Keeps.set
    | with_reducible apply keeps_ssWrite
    | split
    | intro)
theorem keeps_ssEnable {u s : State} (h : Keeps u s) (d : Nat) (en : Bool) : Keeps u (ssEnable d en s) := by
  unfold ssEnable
  repeat' (first
    | with_reducible assumption
    | with_reducible refine Keeps.ite ?_ ?_
    | with_reducible apply Keeps.on
    | with_reducible apply Keeps.off
    | with_reducible apply keeps_ssWrite
    | split
    | intro)
theorem keeps_applyDomain {u s : State} (h : Keeps u s) (d : Nat) : Keeps u (applyDomain d s) := by
  unfold applyDomain
  repeat' (first
    | with_reducible assumption
    | (extract_lets -underBinder +onlyGivenNames y; clear_value (hy : y = _); first | refine Keeps.sub (u := u) hy ?_ (fun hk => ?_) | refine Keeps.subA (u := u) hy ?_ (fun hk => ?_) | refine Keeps.subP (u := u) hy ?_ (fun hk => ?_) | clear hy)
    | with_reducible refine Keeps.ite ?_ ?_
    | with_reducible apply Keeps.set
    | with_reducible apply Keeps.off
    | with_reducible apply Keeps.forEach
    | with_reducible apply keeps_applyLeg
    | split
    | intro)
theorem keeps_setMarks {u s : State} (h : Keeps u s) (p m : Nat) : Keeps u (setMarks p m s) := by
  unfold setMarks
  repeat' (first
    | with_reducible assumption
    | with_reducible apply Keeps.set
    | with_reducible apply Keeps.forEach
    | with_reducible apply keeps_syncLeg
    | split
    | intro)
theorem keeps_pageStart {u s : State} (h : Keeps u s) (p : Nat) : Keeps u (pageStart p s) := by
  unfold pageStart
  repeat' (first
    | with_reducible assumption
    | (extract_lets -underBinder +onlyGivenNames y; clear_value (hy : y = _); first | refine Keeps.sub (u := u) hy ?_ (fun hk => ?_) | refine Keeps.subA (u := u) hy ?_ (fun hk => ?_) | refine Keeps.subP (u := u) hy ?_ (fun hk => ?_) | clear hy)
    | with_reducible apply Keeps.set
    | with_reducible apply Keeps.sset
    | with_reducible apply Keeps.forEach
    | with_reducible apply keeps_setMarks
    | with_reducible apply keeps_slotNext
    | with_reducible apply keeps_syncLeg
    | split
    | intro)
theorem keeps_playEnd {u s : State} (h : Keeps u s) (p : Nat) : Keeps u (playEnd p s) := by
  unfold playEnd
  repeat' (first
    | with_reducible assumption
    | (extract_lets -underBinder +onlyGivenNames y; clear_value (hy : y = _); first | refine Keeps.sub (u := u) hy ?_ (fun hk => ?_) | refine Keeps.subA (u := u) hy ?_ (fun hk => ?_) | refine Keeps.subP (u := u) hy ?_ (fun hk => ?_) | clear hy)
    | with_reducible apply Keeps.set
    | with_reducible apply Keeps.off
    | with_reducible apply Keeps.forEach
    | with_reducible apply keeps_slotNext
    | with_reducible apply keeps_syncLeg
    | split
    | intro)
theorem keeps_classify {u s : State} (h : Keeps u s) (p : Nat) : Keeps u (classify p s) := by
  unfold classify
  repeat' (first
    | with_reducible assumption
    | (extract_lets -underBinder +onlyGivenNames y; clear_value (hy : y = _); first | refine Keeps.sub (u := u) hy ?_ (fun hk => ?_) | refine Keeps.subA (u := u) hy ?_ (fun hk => ?_) | refine Keeps.subP (u := u) hy ?_ (fun hk => ?_) | refine Keeps.subF (u := u) hy (fun t ht => ?_) (fun hk => ?_) | refine Keeps.subF1 (u := u) hy (fun a t ht => ?_) (fun hk => ?_) | refine Keeps.subF2 (u := u) hy (fun a b t ht => ?_) (fun hk => ?_) | refine Keeps.subG1 (u := u) hy (fun a => ?_) (fun hk => ?_) | refine Keeps.subG2 (u := u) hy (fun a b => ?_) (fun hk => ?_) | clear hy)
    | with_reducible refine Keeps.ite ?_ ?_
    | with_reducible apply Keeps.set
    | with_reducible apply Keeps.on
    | with_reducible apply Keeps.off
    | with_reducible apply Keeps.incSat
    | with_reducible apply keeps_deassertSource
    | with_reducible apply keeps_matureRequests
    | with_reducible apply keeps_pageStart
    | with_reducible apply keeps_playEnd
    | with_reducible apply keeps_refreshSwap
    | with_reducible apply keeps_setTheta
    | with_reducible apply_assumption
    | split
    | intro)
theorem keeps_playerBoundary {u s : State} (h : Keeps u s) (p : Nat) : Keeps u (playerBoundary p s) := by
  unfold playerBoundary
  repeat' (first
    | with_reducible assumption
    | (extract_lets -underBinder +onlyGivenNames y; clear_value (hy : y = _); first | refine Keeps.sub (u := u) hy ?_ (fun hk => ?_) | refine Keeps.subA (u := u) hy ?_ (fun hk => ?_) | refine Keeps.subP (u := u) hy ?_ (fun hk => ?_) | clear hy)
    | with_reducible apply Keeps.set
    | with_reducible apply Keeps.setB
    | with_reducible apply Keeps.on
    | with_reducible apply Keeps.off
    | with_reducible apply Keeps.when
    | with_reducible apply keeps_classify
    | split
    | intro)
theorem keeps_playerCorrection {u s : State} (h : Keeps u s) (p : Nat) : Keeps u (playerCorrection p s) := by
  unfold playerCorrection
  repeat' (first
    | with_reducible assumption
    | (extract_lets -underBinder +onlyGivenNames y; clear_value (hy : y = _); first | refine Keeps.sub (u := u) hy ?_ (fun hk => ?_) | refine Keeps.subA (u := u) hy ?_ (fun hk => ?_) | refine Keeps.subP (u := u) hy ?_ (fun hk => ?_) | clear hy)
    | with_reducible refine Keeps.ite ?_ ?_
    | with_reducible apply Keeps.set
    | with_reducible apply Keeps.on
    | with_reducible apply Keeps.off
    | with_reducible apply Keeps.sset
    | with_reducible apply Keeps.when
    | with_reducible apply keeps_takeRate
    | split
    | intro)
theorem keeps_sampleAngle {u s : State} (h : Keeps u s) (d : Nat) : Keeps u (sampleAngle d s) := by
  unfold sampleAngle
  repeat' (first
    | with_reducible assumption
    | with_reducible apply Keeps.set
    | with_reducible apply keeps_sourceSent
    | split
    | intro)
theorem keeps_resolverBoundary {u s : State} (h : Keeps u s) (d r : Nat) : Keeps u (resolverBoundary d r s) := by
  unfold resolverBoundary
  repeat' (first
    | with_reducible assumption
    | (extract_lets -underBinder +onlyGivenNames y; clear_value (hy : y = _); first | refine Keeps.sub (u := u) hy ?_ (fun hk => ?_) | refine Keeps.subA (u := u) hy ?_ (fun hk => ?_) | refine Keeps.subP (u := u) hy ?_ (fun hk => ?_) | clear hy)
    | with_reducible refine Keeps.ite ?_ ?_
    | with_reducible apply Keeps.set
    | with_reducible apply Keeps.on
    | with_reducible apply Keeps.off
    | with_reducible apply Keeps.inc
    | with_reducible apply Keeps.when
    | split
    | intro)
theorem keeps_legBoundary {u s : State} (h : Keeps u s) (n : Nat) : Keeps u (legBoundary n s) := by
  unfold legBoundary
  repeat' (first
    | with_reducible assumption
    | (extract_lets -underBinder +onlyGivenNames y; clear_value (hy : y = _); first | refine Keeps.sub (u := u) hy ?_ (fun hk => ?_) | refine Keeps.subA (u := u) hy ?_ (fun hk => ?_) | refine Keeps.subP (u := u) hy ?_ (fun hk => ?_) | clear hy)
    | with_reducible apply Keeps.set
    | with_reducible apply Keeps.on
    | with_reducible apply Keeps.off
    | with_reducible apply Keeps.when
    | with_reducible apply keeps_driveLeg
    | with_reducible apply keeps_refreshStart
    | with_reducible apply keeps_syncLeg
    | split
    | intro)
theorem keeps_senseEvent {u s : State} (h : Keeps u s) (d e : Nat) : Keeps u (senseEvent d e s) := by
  unfold senseEvent
  repeat' (first
    | with_reducible assumption
    | (extract_lets -underBinder +onlyGivenNames y; clear_value (hy : y = _); first | refine Keeps.sub (u := u) hy ?_ (fun hk => ?_) | refine Keeps.subA (u := u) hy ?_ (fun hk => ?_) | refine Keeps.subP (u := u) hy ?_ (fun hk => ?_) | clear hy)
    | with_reducible refine Keeps.ite ?_ ?_
    | with_reducible apply Keeps.set
    | with_reducible apply Keeps.when
    | with_reducible apply Keeps.forUpTo
    | split
    | intro)
theorem keeps_domainEvent {u s : State} (h : Keeps u s) (d e : Nat) : Keeps u (domainEvent d e s) := by
  unfold domainEvent
  repeat' (first
    | with_reducible assumption
    | (extract_lets -underBinder +onlyGivenNames y; clear_value (hy : y = _); first | refine Keeps.sub (u := u) hy ?_ (fun hk => ?_) | refine Keeps.subA (u := u) hy ?_ (fun hk => ?_) | refine Keeps.subP (u := u) hy ?_ (fun hk => ?_) | clear hy)
    | with_reducible refine Keeps.ite ?_ ?_
    | with_reducible apply Keeps.incSat
    | with_reducible apply Keeps.send
    | with_reducible apply Keeps.forUpTo
    | with_reducible apply keeps_senseEvent
    | split
    | intro)
theorem keeps_reloadBoundary {u s : State} (h : Keeps u s) (d : Nat) : Keeps u (reloadBoundary d s) := by
  unfold reloadBoundary
  repeat' (first
    | with_reducible assumption
    | (extract_lets -underBinder +onlyGivenNames y; clear_value (hy : y = _); first | refine Keeps.sub (u := u) hy ?_ (fun hk => ?_) | refine Keeps.subA (u := u) hy ?_ (fun hk => ?_) | refine Keeps.subP (u := u) hy ?_ (fun hk => ?_) | clear hy)
    | with_reducible refine Keeps.ite ?_ ?_
    | with_reducible apply Keeps.set
    | with_reducible apply Keeps.off
    | with_reducible apply Keeps.inc
    | with_reducible apply Keeps.when
    | with_reducible apply Keeps.forEach
    | with_reducible apply Keeps.forUpTo
    | with_reducible apply keeps_applyDomain
    | with_reducible apply keeps_catchUp
    | with_reducible apply keeps_domainEvent
    | with_reducible apply keeps_legBoundary
    | with_reducible apply keeps_playerBoundary
    | with_reducible apply keeps_playerCorrection
    | with_reducible apply keeps_resolverBoundary
    | with_reducible apply keeps_sampleAngle
    | with_reducible apply keeps_ssStep
    | split
    | intro)
theorem keeps_halfBoundary {u s : State} (h : Keeps u s) (d : Nat) : Keeps u (halfBoundary d s) := by
  unfold halfBoundary
  repeat' (first
    | with_reducible assumption
    | (extract_lets -underBinder +onlyGivenNames y; clear_value (hy : y = _); first | refine Keeps.sub (u := u) hy ?_ (fun hk => ?_) | refine Keeps.subA (u := u) hy ?_ (fun hk => ?_) | refine Keeps.subP (u := u) hy ?_ (fun hk => ?_) | clear hy)
    | with_reducible refine Keeps.ite ?_ ?_
    | with_reducible apply Keeps.set
    | with_reducible apply Keeps.on
    | with_reducible apply Keeps.off
    | with_reducible apply Keeps.forEach
    | with_reducible apply keeps_applyDomain
    | with_reducible apply keeps_syncLeg
    | split
    | intro)
theorem keeps_triggerEvent {u s : State} (h : Keeps u s) (d e : Nat) : Keeps u (triggerEvent d e s) := by
  unfold triggerEvent
  repeat' (first
    | with_reducible assumption
    | with_reducible refine Keeps.ite ?_ ?_
    | with_reducible apply Keeps.setBit
    | with_reducible apply keeps_domainEvent
    | split
    | intro)
theorem keeps_fireEntry {u s : State} (h : Keeps u s) (p e : Nat) : Keeps u (fireEntry p e s) := by
  unfold fireEntry
  repeat' (first
    | with_reducible assumption
    | (extract_lets -underBinder +onlyGivenNames y; clear_value (hy : y = _); first | refine Keeps.sub (u := u) hy ?_ (fun hk => ?_) | refine Keeps.subA (u := u) hy ?_ (fun hk => ?_) | refine Keeps.subP (u := u) hy ?_ (fun hk => ?_) | clear hy)
    | with_reducible refine Keeps.ite ?_ ?_
    | with_reducible apply Keeps.set
    | with_reducible apply Keeps.on
    | with_reducible apply Keeps.when
    | with_reducible apply keeps_domainEvent
    | with_reducible apply keeps_setMarks
    | with_reducible apply keeps_slotNext
    | with_reducible apply keeps_syncLeg
    | split
    | intro)
theorem keeps_fireDue {u s : State} (h : Keeps u s) (p : Nat) (l : List Nat) (n : Nat) :
    Keeps u (fireDue p l s n) := by
  induction n generalizing s with
  | zero => exact h.when _ (fun t ht => ht.on ..)
  | succ n ih =>
    unfold fireDue
    split
    · exact h
    · exact ih (keeps_fireEntry (((h.set ..).sset ..).inc ..) ..)
theorem keeps_tideEntryFire {u s : State} (h : Keeps u s) (p : Nat) : Keeps u (tideEntryFire p s) := by
  unfold tideEntryFire
  repeat' (first
    | with_reducible assumption
    | (extract_lets -underBinder +onlyGivenNames y; clear_value (hy : y = _); first | refine Keeps.sub (u := u) hy ?_ (fun hk => ?_) | refine Keeps.subA (u := u) hy ?_ (fun hk => ?_) | refine Keeps.subP (u := u) hy ?_ (fun hk => ?_) | clear hy)
    | with_reducible refine Keeps.ite ?_ ?_
    | with_reducible apply Keeps.set
    | with_reducible apply Keeps.off
    | with_reducible apply keeps_catchUp
    | with_reducible apply keeps_fireDue
    | split
    | intro)
theorem keeps_sixstepCrossing {u s : State} (h : Keeps u s) (n : Nat) : Keeps u (sixstepCrossing n s) := by
  unfold sixstepCrossing
  repeat' (first
    | with_reducible assumption
    | with_reducible refine Keeps.ite ?_ ?_
    | with_reducible apply keeps_catchLeg
    | with_reducible apply keeps_syncLeg
    | split
    | intro)
theorem keeps_hallStateChange {u s : State} (h : Keeps u s) (b v : Nat) : Keeps u (hallStateChange b v s) := by
  unfold hallStateChange
  repeat' (first
    | with_reducible assumption
    | (extract_lets -underBinder +onlyGivenNames y; clear_value (hy : y = _); first | refine Keeps.sub (u := u) hy ?_ (fun hk => ?_) | refine Keeps.subA (u := u) hy ?_ (fun hk => ?_) | refine Keeps.subP (u := u) hy ?_ (fun hk => ?_) | clear hy)
    | with_reducible apply Keeps.set
    | with_reducible apply Keeps.forEach
    | with_reducible apply keeps_syncLeg
    | split
    | intro)
theorem keeps_hallArrives {u s : State} (h : Keeps u s) (b v : Nat) : Keeps u (hallArrives b v s) := by
  unfold hallArrives
  repeat' (first
    | with_reducible assumption
    | with_reducible refine Keeps.ite ?_ ?_
    | with_reducible apply keeps_hallStateChange
    | split
    | intro)
theorem keeps_dutyChannelWrite {u s : State} (h : Keeps u s) (c : Nat) (v : Nat) : Keeps u (dutyChannelWrite c v s) := by
  unfold dutyChannelWrite
  repeat' (first
    | with_reducible assumption
    | (extract_lets -underBinder +onlyGivenNames y; clear_value (hy : y = _); first | refine Keeps.sub (u := u) hy ?_ (fun hk => ?_) | refine Keeps.subA (u := u) hy ?_ (fun hk => ?_) | refine Keeps.subP (u := u) hy ?_ (fun hk => ?_) | clear hy)
    | with_reducible refine Keeps.ite ?_ ?_
    | with_reducible apply Keeps.set
    | with_reducible apply Keeps.on
    | with_reducible apply Keeps.when
    | with_reducible apply Keeps.forUpTo
    | split
    | intro)
theorem keeps_dutyWrite {u s : State} (h : Keeps u s) (n : Nat) (v : Nat) : Keeps u (dutyWrite n v s) := by
  unfold dutyWrite
  repeat' (first
    | with_reducible assumption
    | with_reducible apply Keeps.set
    | with_reducible apply Keeps.on
    | with_reducible apply Keeps.when
    | split
    | intro)
theorem keeps_periodWrite {u s : State} (h : Keeps u s) (d : Nat) (v : Nat) : Keeps u (periodWrite d v s) := by
  unfold periodWrite
  repeat' (first
    | with_reducible assumption
    | with_reducible refine Keeps.ite ?_ ?_
    | with_reducible apply Keeps.set
    | with_reducible apply Keeps.on
    | with_reducible apply Keeps.when
    | split
    | intro)
theorem keeps_corrWord {u s : State} (h : Keeps u s) (p : Nat) (v : Nat) : Keeps u (corrWord p v s) := by
  unfold corrWord
  repeat' (first
    | with_reducible assumption
    | with_reducible apply Keeps.set
    | with_reducible apply Keeps.on
    | split
    | intro)
theorem keeps_legCfgWrite {u s : State} (h : Keeps u s) (n : Nat) (r : LegReg) (v : Nat) : Keeps u (legCfgWrite n r v s) := by
  unfold legCfgWrite
  repeat' (first
    | with_reducible assumption
    | (extract_lets -underBinder +onlyGivenNames y; clear_value (hy : y = _); first | refine Keeps.sub (u := u) hy ?_ (fun hk => ?_) | refine Keeps.subA (u := u) hy ?_ (fun hk => ?_) | refine Keeps.subP (u := u) hy ?_ (fun hk => ?_) | clear hy)
    | with_reducible refine Keeps.ite ?_ ?_
    | with_reducible apply Keeps.set
    | with_reducible apply Keeps.on
    | with_reducible apply Keeps.when
    | with_reducible apply keeps_slotNext
    | split
    | intro)
theorem keeps_playerCfgWrite {u s : State} (h : Keeps u s) (p v : Nat) : Keeps u (playerCfgWrite p v s) := by
  unfold playerCfgWrite
  repeat' (first
    | with_reducible assumption
    | (extract_lets -underBinder +onlyGivenNames y; clear_value (hy : y = _); first | refine Keeps.sub (u := u) hy ?_ (fun hk => ?_) | refine Keeps.subA (u := u) hy ?_ (fun hk => ?_) | refine Keeps.subP (u := u) hy ?_ (fun hk => ?_) | clear hy)
    | with_reducible refine Keeps.ite ?_ ?_
    | with_reducible apply Keeps.set
    | with_reducible apply Keeps.on
    | with_reducible apply Keeps.when
    | with_reducible apply Keeps.forEach
    | with_reducible apply keeps_catchUp
    | with_reducible apply keeps_restartAngle
    | split
    | intro)
theorem keeps_groupEnable {u s : State} (h : Keeps u s) (g : Nat) : Keeps u (groupEnable g s) := by
  unfold groupEnable
  repeat' (first
    | with_reducible assumption
    | with_reducible apply Keeps.set
    | with_reducible apply Keeps.setBit
    | split
    | intro)
theorem keeps_edgeClockLoss {u s : State} (h : Keeps u s)  : Keeps u (edgeClockLoss s) := by
  unfold edgeClockLoss
  repeat' (first
    | with_reducible assumption
    | (extract_lets -underBinder +onlyGivenNames y; clear_value (hy : y = _); first | refine Keeps.sub (u := u) hy ?_ (fun hk => ?_) | refine Keeps.subA (u := u) hy ?_ (fun hk => ?_) | refine Keeps.subP (u := u) hy ?_ (fun hk => ?_) | clear hy)
    | with_reducible apply Keeps.on
    | with_reducible apply Keeps.off
    | with_reducible apply Keeps.forUpTo
    | with_reducible apply keeps_assertSource
    | with_reducible apply keeps_legForce
    | split
    | intro)
theorem keeps_refreshForce {u s : State} (h : Keeps u s) (n : Nat) : Keeps u (refreshForce n s) := by
  unfold refreshForce
  repeat' (first
    | with_reducible assumption
    | (extract_lets -underBinder +onlyGivenNames y; clear_value (hy : y = _); first | refine Keeps.sub (u := u) hy ?_ (fun hk => ?_) | refine Keeps.subA (u := u) hy ?_ (fun hk => ?_) | refine Keeps.subP (u := u) hy ?_ (fun hk => ?_) | clear hy)
    | with_reducible refine Keeps.ite ?_ ?_
    | with_reducible apply Keeps.set
    | with_reducible apply Keeps.setB
    | with_reducible apply keeps_catchLeg
    | with_reducible apply keeps_driveLeg
    | with_reducible apply keeps_syncLeg
    | with_reducible apply keeps_withdrawLeg
    | split
    | intro)
theorem keeps_edgeStatWrite {u s : State} (h : Keeps u s) (v : Nat) : Keeps u (edgeStatWrite v s) := by
  unfold edgeStatWrite
  repeat' (first
    | with_reducible assumption
    | (extract_lets -underBinder +onlyGivenNames y; clear_value (hy : y = _); first | refine Keeps.sub (u := u) hy ?_ (fun hk => ?_) | refine Keeps.subA (u := u) hy ?_ (fun hk => ?_) | refine Keeps.subP (u := u) hy ?_ (fun hk => ?_) | clear hy)
    | with_reducible refine Keeps.ite ?_ ?_
    | with_reducible apply Keeps.off
    | with_reducible apply Keeps.when
    | with_reducible apply Keeps.forUpTo
    | with_reducible apply keeps_refreshForce
    | split
    | intro)
theorem keeps_edgeReset {u s : State} (h : Keeps u s)  : Keeps u (edgeReset s) := by
  unfold edgeReset
  repeat' (first
    | with_reducible assumption
    | (extract_lets -underBinder +onlyGivenNames y; clear_value (hy : y = _); first | refine Keeps.sub (u := u) hy ?_ (fun hk => ?_) | refine Keeps.subA (u := u) hy ?_ (fun hk => ?_) | refine Keeps.subP (u := u) hy ?_ (fun hk => ?_) | clear hy)
    | with_reducible apply Keeps.forUpTo
    | with_reducible apply Keeps.withVals
    | with_reducible apply keeps_refreshForce
    | split
    | intro)
theorem keeps_edgeLeaves {u s : State} (h : Keeps u s) : Keeps u (edgeLeaves s) := by
  unfold edgeLeaves
  repeat' (first
    | with_reducible assumption
    | with_reducible apply Keeps.forUpTo
    | with_reducible apply keeps_catchUp
    | split
    | intro)
theorem keeps_edgeReturn {u s : State} (h : Keeps u s) : Keeps u (edgeReturn s) := by
  unfold edgeReturn
  repeat' (first
    | with_reducible assumption
    | with_reducible refine Keeps.ite ?_ ?_
    | with_reducible apply Keeps.forUpTo
    | with_reducible apply keeps_restartAngle
    | with_reducible apply keeps_startDomain
    | split
    | intro)
theorem keeps_execDomainStart (w : Who) (m : BitVec 8) (s : State) : ∃ u, execDomainStart w m s = .next u ∧ Keeps s u := by
  refine ⟨_, rfl, ?_⟩
  have h := Keeps.refl s
  repeat' (first
    | with_reducible assumption
    | with_reducible refine Keeps.ite ?_ ?_
    | with_reducible apply Keeps.forUpTo
    | with_reducible apply keeps_sideband
    | with_reducible apply keeps_domainStart
    | split
    | intro)
theorem keeps_execSyncStart (w : Who) (start : BitVec 8) (ldall : BitVec 8) (s : State) : ∃ u, execSyncStart w start ldall s = .next u ∧ Keeps s u := by
  refine ⟨_, rfl, ?_⟩
  have h := Keeps.refl s
  repeat' (first
    | with_reducible assumption
    | with_reducible refine Keeps.ite ?_ ?_
    | with_reducible apply Keeps.forUpTo
    | with_reducible apply keeps_sideband
    | with_reducible apply keeps_domainStart
    | with_reducible apply keeps_loadAllMask
    | split
    | intro)
theorem keeps_execDomainStop (w : Who) (d : DomIx) (dbl strict : Bool) (s : State) : ∃ u, execDomainStop w d dbl strict s = .next u ∧ Keeps s u := by
  refine ⟨_, rfl, ?_⟩
  have h := Keeps.refl s
  repeat' (first
    | with_reducible assumption
    | (extract_lets -underBinder +onlyGivenNames y; clear_value (hy : y = _); first | refine Keeps.sub (u := s) hy ?_ (fun hk => ?_) | refine Keeps.subA (u := s) hy ?_ (fun hk => ?_) | refine Keeps.subP (u := s) hy ?_ (fun hk => ?_) | clear hy)
    | with_reducible apply keeps_domCtrlWrite
    | with_reducible apply keeps_sideband
    | split
    | intro)
theorem keeps_execLoadAllRequest (w : Option Who) (m : BitVec 8) (s : State) : ∃ u, execLoadAllRequest w m s = .next u ∧ Keeps s u := by
  refine ⟨_, rfl, ?_⟩
  have h := Keeps.refl s
  repeat' (first
    | with_reducible assumption
    | with_reducible apply keeps_sideband
    | with_reducible apply keeps_loadAllMask
    | split
    | intro)
theorem keeps_execSampleInstant (d : DomIx) (half : Bool) (s : State) : ∃ u, execSampleInstant d half s = .next u ∧ Keeps s u := by
  refine ⟨_, rfl, ?_⟩
  have h := Keeps.refl s
  repeat' (first
    | with_reducible assumption
    | with_reducible apply keeps_sampleInstant
    | split
    | intro)
theorem keeps_execReloadBoundary (d : DomIx) (s : State) : ∃ u, execReloadBoundary d s = .next u ∧ Keeps s u := by
  refine ⟨_, rfl, ?_⟩
  have h := Keeps.refl s
  repeat' (first
    | with_reducible assumption
    | with_reducible apply keeps_reloadBoundary
    | split
    | intro)
theorem keeps_execSsEnable (w : Who) (d : DomIx) (en : Bool) (s : State) : ∃ u, execSsEnable w d en s = .next u ∧ Keeps s u := by
  refine ⟨_, rfl, ?_⟩
  have h := Keeps.refl s
  repeat' (first
    | with_reducible assumption
    | with_reducible apply keeps_sideband
    | with_reducible apply keeps_ssEnable
    | split
    | intro)
theorem keeps_execHalfBoundary (d : DomIx) (s : State) : ∃ u, execHalfBoundary d s = .next u ∧ Keeps s u := by
  refine ⟨_, rfl, ?_⟩
  have h := Keeps.refl s
  repeat' (first
    | with_reducible assumption
    | with_reducible apply keeps_halfBoundary
    | split
    | intro)
theorem keeps_execDomainTriggerEvent (d : DomIx) (e : Fin 3) (s : State) : ∃ u, execDomainTriggerEvent d e s = .next u ∧ Keeps s u := by
  refine ⟨_, rfl, ?_⟩
  have h := Keeps.refl s
  repeat' (first
    | with_reducible assumption
    | with_reducible apply keeps_triggerEvent
    | split
    | intro)
theorem keeps_execLegCfgWrite (w : Who) (n : LegIx) (r : Fin 4) (v : Word) (s : State) : ∃ u, execLegCfgWrite w n r v s = .next u ∧ Keeps s u := by
  refine ⟨_, rfl, ?_⟩
  have h := Keeps.refl s
  repeat' (first
    | with_reducible assumption
    | (extract_lets -underBinder +onlyGivenNames y; clear_value (hy : y = _); first | refine Keeps.sub (u := s) hy ?_ (fun hk => ?_) | refine Keeps.subA (u := s) hy ?_ (fun hk => ?_) | refine Keeps.subP (u := s) hy ?_ (fun hk => ?_) | clear hy)
    | with_reducible apply Keeps.off
    | with_reducible apply keeps_sideband
    | with_reducible apply keeps_legCfgWrite
    | split
    | intro)
theorem keeps_execDutyChannelWrite (c : Fin 12) (v : Half) (s : State) : ∃ u, execDutyChannelWrite c v s = .next u ∧ Keeps s u := by
  refine ⟨_, rfl, ?_⟩
  have h := Keeps.refl s
  repeat' (first
    | with_reducible assumption
    | with_reducible apply keeps_dutyChannelWrite
    | split
    | intro)
theorem keeps_execRateWrite (w : Option Who) (p : PlayerIx) (v : BitVec 24) (s : State) : ∃ u, execRateWrite w p v s = .next u ∧ Keeps s u := by
  refine ⟨_, rfl, ?_⟩
  have h := Keeps.refl s
  repeat' (first
    | with_reducible assumption
    | with_reducible apply Keeps.set
    | with_reducible apply keeps_sideband
    | split
    | intro)
theorem keeps_execCorrWrite (p : PlayerIx) (v : BitVec 24) (s : State) : ∃ u, execCorrWrite p v s = .next u ∧ Keeps s u := by
  refine ⟨_, rfl, ?_⟩
  have h := Keeps.refl s
  repeat' (first
    | with_reducible assumption
    | with_reducible apply keeps_corrWord
    | split
    | intro)
theorem keeps_execAngleSetWrite (w : Option Who) (p : PlayerIx) (v : BitVec 24) (s : State) : ∃ u, execAngleSetWrite w p v s = .next u ∧ Keeps s u := by
  refine ⟨_, rfl, ?_⟩
  have h := Keeps.refl s
  repeat' (first
    | with_reducible assumption
    | with_reducible apply Keeps.set
    | with_reducible apply keeps_sideband
    | split
    | intro)
theorem keeps_execChannelEdge (n : LegIx) (r : EdgeReq) (s : State) : ∃ u, execChannelEdge n r s = .next u ∧ Keeps s u := by
  refine ⟨_, rfl, ?_⟩
  have h := Keeps.refl s
  repeat' (first
    | with_reducible assumption
    | with_reducible apply keeps_channelEdge
    | split
    | intro)
theorem keeps_execDeadTimeExpiry (n : LegIx) (s : State) : ∃ u, execDeadTimeExpiry n s = .next u ∧ Keeps s u := by
  refine ⟨_, rfl, ?_⟩
  have h := Keeps.refl s
  repeat' (first
    | with_reducible assumption
    | with_reducible apply keeps_deadTimeExpiry
    | split
    | intro)
theorem keeps_execIlFault (n : LegIx) (s : State) : ∃ u, execIlFault n s = .next u ∧ Keeps s u := by
  refine ⟨_, rfl, ?_⟩
  have h := Keeps.refl s
  repeat' (first
    | with_reducible assumption
    | with_reducible apply keeps_ilFault
    | split
    | intro)
theorem keeps_execTideEntryFire (p : PlayerIx) (s : State) : ∃ u, execTideEntryFire p s = .next u ∧ Keeps s u := by
  refine ⟨_, rfl, ?_⟩
  have h := Keeps.refl s
  repeat' (first
    | with_reducible assumption
    | with_reducible apply keeps_tideEntryFire
    | split
    | intro)
theorem keeps_execSixstepCrossing (n : LegIx) (s : State) : ∃ u, execSixstepCrossing n s = .next u ∧ Keeps s u := by
  refine ⟨_, rfl, ?_⟩
  have h := Keeps.refl s
  repeat' (first
    | with_reducible assumption
    | with_reducible apply keeps_sixstepCrossing
    | split
    | intro)
theorem keeps_execHallStateChange (b : Fin 3) (v : BitVec 3) (s : State) : ∃ u, execHallStateChange b v s = .next u ∧ Keeps s u := by
  refine ⟨_, rfl, ?_⟩
  have h := Keeps.refl s
  repeat' (first
    | with_reducible assumption
    | with_reducible apply keeps_hallArrives
    | split
    | intro)
theorem keeps_execBootIntervalExpiry (n : LegIx) (s : State) : ∃ u, execBootIntervalExpiry n s = .next u ∧ Keeps s u := by
  refine ⟨_, rfl, ?_⟩
  have h := Keeps.refl s
  repeat' (first
    | with_reducible assumption
    | with_reducible apply keeps_bootIntervalExpiry
    | split
    | intro)
theorem keeps_execRefreshPulseEnd (n : LegIx) (s : State) : ∃ u, execRefreshPulseEnd n s = .next u ∧ Keeps s u := by
  refine ⟨_, rfl, ?_⟩
  have h := Keeps.refl s
  repeat' (first
    | with_reducible assumption
    | with_reducible apply keeps_refreshPulseEnd
    | split
    | intro)
theorem keeps_execBootUvReport (n : LegIx) (s : State) : ∃ u, execBootUvReport n s = .next u ∧ Keeps s u := by
  refine ⟨_, rfl, ?_⟩
  have h := Keeps.refl s
  repeat' (first
    | with_reducible assumption
    | with_reducible apply keeps_bootUvReport
    | split
    | intro)
theorem keeps_execBootUvTest (n : LegIx) (s : State) : ∃ u, execBootUvTest n s = .next u ∧ Keeps s u := by
  refine ⟨_, rfl, ?_⟩
  have h := Keeps.refl s
  repeat' (first
    | with_reducible assumption
    | with_reducible apply keeps_bootUvTest
    | split
    | intro)
theorem keeps_execEdgeClockLoss  (s : State) : ∃ u, execEdgeClockLoss s = .next u ∧ Keeps s u := by
  refine ⟨_, rfl, ?_⟩
  have h := Keeps.refl s
  repeat' (first
    | with_reducible assumption
    | with_reducible apply keeps_edgeClockLoss
    | split
    | intro)
theorem keeps_execClkLostClear (w : Who) (v : Word) (s : State) : ∃ u, execClkLostClear w v s = .next u ∧ Keeps s u := by
  refine ⟨_, rfl, ?_⟩
  have h := Keeps.refl s
  repeat' (first
    | with_reducible assumption
    | with_reducible apply keeps_sideband
    | with_reducible apply keeps_edgeStatWrite
    | split
    | intro)
theorem keeps_execBootstrapComparatorRelease (a : Fin 9) (s : State) : ∃ u, execBootstrapComparatorRelease a s = .next u ∧ Keeps s u := by
  refine ⟨_, rfl, ?_⟩
  have h := Keeps.refl s
  repeat' (first
    | with_reducible assumption
    | with_reducible apply keeps_bootUvEnd
    | split
    | intro)

end Sys2Proof.Machine
end

