-- ==== Sys2Proof/Laws/KeepsGuard.lean ====
section
/-!
SUPPORT. The operations of Machine/Guard.lean keep the canonical forms, the queue and the time.
-/
namespace Sys2Proof.Machine
open Sys2Proof
set_option linter.unreachableTactic false
set_option linter.unusedTactic false

theorem keeps_gfiPasses {u s : State} (h : Keeps u s) (i : Nat) (ns : Nat) : Keeps u (gfiPasses i ns s).2 := by
  unfold gfiPasses
  repeat' (first
    | with_reducible assumption
    | (extract_lets -underBinder +onlyGivenNames y; clear_value (hy : y = _); first | refine Keeps.sub (u := u) hy ?_ (fun hk => ?_) | refine Keeps.subA (u := u) hy ?_ (fun hk => ?_) | refine Keeps.subP (u := u) hy ?_ (fun hk => ?_) | clear hy)
    | with_reducible refine Keeps.ite ?_ ?_
    | with_reducible apply Keeps.free
    | split
    | intro)
theorem keeps_gfiAssert {u s : State} (h : Keeps u s) (i : Nat) (ns : Nat) : Keeps u (gfiAssert i ns s) := by
  unfold gfiAssert
  repeat' (first
    | with_reducible assumption
    | (extract_lets -underBinder +onlyGivenNames y; clear_value (hy : y = _); first | refine Keeps.sub (u := u) hy ?_ (fun hk => ?_) | refine Keeps.subA (u := u) hy ?_ (fun hk => ?_) | refine Keeps.subP (u := u) hy ?_ (fun hk => ?_) | clear hy)
    | with_reducible refine Keeps.ite ?_ ?_
    | with_reducible apply Keeps.set
    | with_reducible apply keeps_assertSource
    | with_reducible apply keeps_gfiPasses
    | split
    | intro)
theorem keeps_gfiGlitch {u s : State} (h : Keeps u s) (i : Nat) (ns : Nat) : Keeps u (gfiGlitch i ns s) := by
  unfold gfiGlitch
  repeat' (first
    | with_reducible assumption
    | (extract_lets -underBinder +onlyGivenNames y; clear_value (hy : y = _); first | refine Keeps.sub (u := u) hy ?_ (fun hk => ?_) | refine Keeps.subA (u := u) hy ?_ (fun hk => ?_) | refine Keeps.subP (u := u) hy ?_ (fun hk => ?_) | clear hy)
    | with_reducible refine Keeps.ite ?_ ?_
    | with_reducible apply Keeps.on
    | with_reducible apply keeps_gfiPasses
    | split
    | intro)
theorem keeps_gfiDeassert {u s : State} (h : Keeps u s) (i : Nat) : Keeps u (gfiDeassert i s) := by
  unfold gfiDeassert
  repeat' (first
    | with_reducible assumption
    | with_reducible apply Keeps.set
    | with_reducible apply keeps_deassertSource
    | split
    | intro)
theorem keeps_windowChange {u s : State} (h : Keeps u s) (c v : Nat) : Keeps u (windowChange c v s) := by
  unfold windowChange
  repeat' (first
    | with_reducible assumption
    | (extract_lets -underBinder +onlyGivenNames y; clear_value (hy : y = _); first | refine Keeps.sub (u := u) hy ?_ (fun hk => ?_) | refine Keeps.subA (u := u) hy ?_ (fun hk => ?_) | refine Keeps.subP (u := u) hy ?_ (fun hk => ?_) | clear hy)
    | with_reducible refine Keeps.ite ?_ ?_
    | with_reducible apply Keeps.set
    | with_reducible apply Keeps.setB
    | with_reducible apply keeps_assertSource
    | with_reducible apply keeps_deassertSource
    | split
    | intro)
theorem keeps_gfiConfigured {u s : State} (h : Keeps u s) (i : Nat) : Keeps u (gfiConfigured i s) := by
  unfold gfiConfigured
  repeat' (first
    | with_reducible assumption
    | with_reducible refine Keeps.ite ?_ ?_
    | with_reducible apply keeps_assertSource
    | with_reducible apply keeps_deassertSource
    | split
    | intro)
theorem keeps_windowConfigured {u s : State} (h : Keeps u s) (c : Nat) : Keeps u (windowConfigured c s) := by
  unfold windowConfigured
  repeat' (first
    | with_reducible assumption
    | with_reducible apply keeps_windowChange
    | split
    | intro)
theorem keeps_cmWindowEnd {u s : State} (h : Keeps u s) (m count : Nat) : Keeps u (cmWindowEnd m count s) := by
  unfold cmWindowEnd
  repeat' (first
    | with_reducible assumption
    | (extract_lets -underBinder +onlyGivenNames y; clear_value (hy : y = _); first | refine Keeps.sub (u := u) hy ?_ (fun hk => ?_) | refine Keeps.subA (u := u) hy ?_ (fun hk => ?_) | refine Keeps.subP (u := u) hy ?_ (fun hk => ?_) | clear hy)
    | with_reducible refine Keeps.ite ?_ ?_
    | with_reducible apply Keeps.set
    | with_reducible apply keeps_assertSource
    | with_reducible apply keeps_deassertSource
    | split
    | intro)
theorem keeps_safForceWrite {u s : State} (h : Keeps u s) (v : Nat) : Keeps u (safForceWrite v s) := by
  unfold safForceWrite
  repeat' (first
    | with_reducible assumption
    | (extract_lets -underBinder +onlyGivenNames y; clear_value (hy : y = _); first | refine Keeps.sub (u := u) hy ?_ (fun hk => ?_) | refine Keeps.subA (u := u) hy ?_ (fun hk => ?_) | refine Keeps.subP (u := u) hy ?_ (fun hk => ?_) | clear hy)
    | with_reducible apply Keeps.set
    | with_reducible apply keeps_forceGroups
    | split
    | intro)
theorem keeps_sourceLatchClear {u s : State} (h : Keeps u s) (w : Nat) (m : Nat) : Keeps u (sourceLatchClear w m s) := by
  unfold sourceLatchClear
  repeat' (first
    | with_reducible assumption
    | with_reducible refine Keeps.ite ?_ ?_
    | with_reducible apply Keeps.clrBit
    | with_reducible apply Keeps.forUpTo
    | split
    | intro)
theorem keeps_clearGroupLatch {u s : State} (h : Keeps u s) (g : Nat) : Keeps u (clearGroupLatch g s) := by
  unfold clearGroupLatch
  repeat' (first
    | with_reducible assumption
    | with_reducible apply Keeps.set
    | with_reducible apply Keeps.off
    | with_reducible apply Keeps.clrBit
    | split
    | intro)
theorem keeps_groupLatchClear {u s : State} (h : Keeps u s) (m : Nat) : Keeps u (groupLatchClear m s) := by
  unfold groupLatchClear
  repeat' (first
    | with_reducible assumption
    | with_reducible refine Keeps.ite ?_ ?_
    | with_reducible apply Keeps.on
    | with_reducible apply Keeps.forUpTo
    | with_reducible apply keeps_clearGroupLatch
    | split
    | intro)
theorem keeps_legFaultClear {u s : State} (h : Keeps u s) (m : Nat) : Keeps u (legFaultClear m s) := by
  unfold legFaultClear
  repeat' (first
    | with_reducible assumption
    | with_reducible refine Keeps.ite ?_ ?_
    | with_reducible apply Keeps.on
    | with_reducible apply Keeps.off
    | with_reducible apply Keeps.clrBit
    | with_reducible apply Keeps.forUpTo
    | with_reducible apply keeps_refreshForce
    | split
    | intro)
theorem keeps_alegFaultClear {u s : State} (h : Keeps u s) (m : Nat) : Keeps u (alegFaultClear m s) := by
  unfold alegFaultClear
  repeat' (first
    | with_reducible assumption
    | with_reducible refine Keeps.ite ?_ ?_
    | with_reducible apply Keeps.clrBit
    | with_reducible apply Keeps.forUpTo
    | with_reducible apply keeps_refreshForce
    | split
    | intro)
theorem keeps_safeOn {u s : State} (h : Keeps u s) (g n : Nat) : Keeps u (safeOn g n s) := by
  unfold safeOn
  repeat' (first
    | with_reducible assumption
    | (extract_lets -underBinder +onlyGivenNames y; clear_value (hy : y = _); first | refine Keeps.sub (u := u) hy ?_ (fun hk => ?_) | refine Keeps.subA (u := u) hy ?_ (fun hk => ?_) | refine Keeps.subP (u := u) hy ?_ (fun hk => ?_) | clear hy)
    | with_reducible refine Keeps.ite ?_ ?_
    | with_reducible apply Keeps.off
    | with_reducible apply keeps_setOut
    | split
    | intro)
theorem keeps_safeDeadTimeExpiry {u s : State} (h : Keeps u s) (g : Nat) : Keeps u (safeDeadTimeExpiry g s) := by
  unfold safeDeadTimeExpiry
  repeat' (first
    | with_reducible assumption
    | (extract_lets -underBinder +onlyGivenNames y; clear_value (hy : y = _); first | refine Keeps.sub (u := u) hy ?_ (fun hk => ?_) | refine Keeps.subA (u := u) hy ?_ (fun hk => ?_) | refine Keeps.subP (u := u) hy ?_ (fun hk => ?_) | clear hy)
    | with_reducible refine Keeps.ite ?_ ?_
    | with_reducible apply Keeps.off
    | with_reducible apply Keeps.forEach
    | with_reducible apply keeps_safeOn
    | split
    | intro)
theorem keeps_levelChanged {u s : State} (h : Keeps u s) (g : Nat) : Keeps u (levelChanged g s) := by
  unfold levelChanged
  repeat' (first
    | with_reducible assumption
    | with_reducible refine Keeps.ite ?_ ?_
    | with_reducible apply Keeps.set
    | with_reducible apply Keeps.forEach
    | with_reducible apply keeps_driveLeg
    | with_reducible apply keeps_moveGroup
    | split
    | intro)
theorem keeps_bandWrite {u s : State} (h : Keeps u s) (m : Nat) : Keeps u (bandWrite m s) := by
  unfold bandWrite
  repeat' (first
    | with_reducible assumption
    | (extract_lets -underBinder +onlyGivenNames y; clear_value (hy : y = _); first | refine Keeps.sub (u := u) hy ?_ (fun hk => ?_) | refine Keeps.subA (u := u) hy ?_ (fun hk => ?_) | refine Keeps.subP (u := u) hy ?_ (fun hk => ?_) | clear hy)
    | with_reducible refine Keeps.ite ?_ ?_
    | with_reducible apply Keeps.set
    | with_reducible apply Keeps.forUpTo
    | with_reducible apply keeps_levelChanged
    | split
    | intro)
theorem keeps_groupCfgWrite {u s : State} (h : Keeps u s) (g : Nat) (v : Nat) : Keeps u (groupCfgWrite g v s) := by
  unfold groupCfgWrite
  repeat' (first
    | with_reducible assumption
    | (extract_lets -underBinder +onlyGivenNames y; clear_value (hy : y = _); first | refine Keeps.sub (u := u) hy ?_ (fun hk => ?_) | refine Keeps.subA (u := u) hy ?_ (fun hk => ?_) | refine Keeps.subP (u := u) hy ?_ (fun hk => ?_) | clear hy)
    | with_reducible refine Keeps.ite ?_ ?_
    | with_reducible apply Keeps.set
    | with_reducible apply keeps_levelChanged
    | split
    | intro)
theorem keeps_ringCheck {u s : State} (h : Keeps u s) (stopped : Bool) (dev : Nat) : Keeps u (ringCheck stopped dev s) := by
  unfold ringCheck
  repeat' (first
    | with_reducible assumption
    | (extract_lets -underBinder +onlyGivenNames y; clear_value (hy : y = _); first | refine Keeps.sub (u := u) hy ?_ (fun hk => ?_) | refine Keeps.subA (u := u) hy ?_ (fun hk => ?_) | refine Keeps.subP (u := u) hy ?_ (fun hk => ?_) | clear hy)
    | with_reducible refine Keeps.ite ?_ ?_
    | with_reducible apply Keeps.setB
    | with_reducible apply keeps_setSafForce
    | with_reducible apply keeps_enterSafeHold
    | split
    | intro)
theorem keeps_safForceRelease {u s : State} (h : Keeps u s) (g : Nat) : Keeps u (safForceRelease g s) := by
  unfold safForceRelease
  repeat' (first
    | with_reducible assumption
    | with_reducible refine Keeps.ite ?_ ?_
    | with_reducible apply keeps_dropSafForce
    | split
    | intro)
theorem keeps_execGfiAssert (i : Fin 8) (ns : BitVec 32) (s : State) : ∃ u, execGfiAssert i ns s = .next u ∧ Keeps s u := by
  refine ⟨_, rfl, ?_⟩
  have h := Keeps.refl s
  repeat' (first
    | with_reducible assumption
    | with_reducible apply keeps_gfiAssert
    | split
    | intro)
theorem keeps_execGfiGlitch (i : Fin 8) (ns : BitVec 32) (s : State) : ∃ u, execGfiGlitch i ns s = .next u ∧ Keeps s u := by
  refine ⟨_, rfl, ?_⟩
  have h := Keeps.refl s
  repeat' (first
    | with_reducible assumption
    | with_reducible apply keeps_gfiGlitch
    | split
    | intro)
theorem keeps_execGfiDeassert (i : Fin 8) (s : State) : ∃ u, execGfiDeassert i s = .next u ∧ Keeps s u := by
  refine ⟨_, rfl, ?_⟩
  have h := Keeps.refl s
  repeat' (first
    | with_reducible assumption
    | with_reducible apply keeps_gfiDeassert
    | split
    | intro)
theorem keeps_execWindowComparatorChange (c : Fin 16) (v : BitVec 10) (s : State) : ∃ u, execWindowComparatorChange c v s = .next u ∧ Keeps s u := by
  refine ⟨_, rfl, ?_⟩
  have h := Keeps.refl s
  repeat' (first
    | with_reducible assumption
    | with_reducible apply keeps_windowChange
    | split
    | intro)
theorem keeps_execInternalSourceDeassert (src : Fin 77) (s : State) : ∃ u, execInternalSourceDeassert src s = .next u ∧ Keeps s u := by
  refine ⟨_, rfl, ?_⟩
  have h := Keeps.refl s
  repeat' (first
    | with_reducible assumption
    | with_reducible refine Keeps.ite ?_ ?_
    | with_reducible apply keeps_deassertSource
    | split
    | intro)
theorem keeps_execCmWindowEnd (m : Fin 8) (count : BitVec 12) (s : State) : ∃ u, execCmWindowEnd m count s = .next u ∧ Keeps s u := by
  refine ⟨_, rfl, ?_⟩
  have h := Keeps.refl s
  repeat' (first
    | with_reducible assumption
    | with_reducible apply keeps_cmWindowEnd
    | split
    | intro)
theorem keeps_execSafForceWrite (w : Who) (m : BitVec 16) (s : State) : ∃ u, execSafForceWrite w m s = .next u ∧ Keeps s u := by
  refine ⟨_, rfl, ?_⟩
  have h := Keeps.refl s
  repeat' (first
    | with_reducible assumption
    | (extract_lets -underBinder +onlyGivenNames y; clear_value (hy : y = _); first | refine Keeps.sub (u := s) hy ?_ (fun hk => ?_) | refine Keeps.subA (u := s) hy ?_ (fun hk => ?_) | refine Keeps.subP (u := s) hy ?_ (fun hk => ?_) | clear hy)
    | with_reducible refine Keeps.ite ?_ ?_
    | with_reducible apply keeps_logViolation
    | with_reducible apply keeps_sideband
    | with_reducible apply keeps_safForceWrite
    | split
    | intro)
theorem keeps_execSourceLatchClear (w : Who) (k : Fin 3) (m : Word) (s : State) : ∃ u, execSourceLatchClear w k m s = .next u ∧ Keeps s u := by
  refine ⟨_, rfl, ?_⟩
  have h := Keeps.refl s
  repeat' (first
    | with_reducible assumption
    | with_reducible apply keeps_sideband
    | with_reducible apply keeps_sourceLatchClear
    | split
    | intro)
theorem keeps_execGroupLatchClear (w : Who) (m : BitVec 16) (s : State) : ∃ u, execGroupLatchClear w m s = .next u ∧ Keeps s u := by
  refine ⟨_, rfl, ?_⟩
  have h := Keeps.refl s
  repeat' (first
    | with_reducible assumption
    | with_reducible apply keeps_sideband
    | with_reducible apply keeps_groupLatchClear
    | split
    | intro)
theorem keeps_execLegFaultLatchClear (w : Who) (m : Word) (s : State) : ∃ u, execLegFaultLatchClear w m s = .next u ∧ Keeps s u := by
  refine ⟨_, rfl, ?_⟩
  have h := Keeps.refl s
  repeat' (first
    | with_reducible assumption
    | with_reducible apply keeps_sideband
    | with_reducible apply keeps_legFaultClear
    | split
    | intro)
theorem keeps_execAlegFaultLatchClear (w : Who) (m : BitVec 9) (s : State) : ∃ u, execAlegFaultLatchClear w m s = .next u ∧ Keeps s u := by
  refine ⟨_, rfl, ?_⟩
  have h := Keeps.refl s
  repeat' (first
    | with_reducible assumption
    | with_reducible apply keeps_sideband
    | with_reducible apply keeps_alegFaultClear
    | split
    | intro)
theorem keeps_execSafeDeadTimeExpiry (g : GroupIx) (s : State) : ∃ u, execSafeDeadTimeExpiry g s = .next u ∧ Keeps s u := by
  refine ⟨_, rfl, ?_⟩
  have h := Keeps.refl s
  repeat' (first
    | with_reducible assumption
    | with_reducible apply keeps_safeDeadTimeExpiry
    | split
    | intro)
theorem keeps_execBandSelectWrite (w : Who) (m : BitVec 16) (s : State) : ∃ u, execBandSelectWrite w m s = .next u ∧ Keeps s u := by
  refine ⟨_, rfl, ?_⟩
  have h := Keeps.refl s
  repeat' (first
    | with_reducible assumption
    | (extract_lets -underBinder +onlyGivenNames y; clear_value (hy : y = _); first | refine Keeps.sub (u := s) hy ?_ (fun hk => ?_) | refine Keeps.subA (u := s) hy ?_ (fun hk => ?_) | refine Keeps.subP (u := s) hy ?_ (fun hk => ?_) | clear hy)
    | with_reducible refine Keeps.ite ?_ ?_
    | with_reducible apply keeps_logViolation
    | with_reducible apply keeps_sideband
    | with_reducible apply keeps_bandWrite
    | split
    | intro)
theorem keeps_execRingOscillatorCheck (stopped : Bool) (dev : BitVec 16) (s : State) : ∃ u, execRingOscillatorCheck stopped dev s = .next u ∧ Keeps s u := by
  refine ⟨_, rfl, ?_⟩
  have h := Keeps.refl s
  repeat' (first
    | with_reducible assumption
    | with_reducible apply keeps_ringCheck
    | split
    | intro)
theorem keeps_execSafForceRelease (g : GroupIx) (s : State) : ∃ u, execSafForceRelease g s = .next u ∧ Keeps s u := by
  refine ⟨_, rfl, ?_⟩
  have h := Keeps.refl s
  repeat' (first
    | with_reducible assumption
    | with_reducible apply keeps_safForceRelease
    | split
    | intro)

end Sys2Proof.Machine
end

