-- ==== Sys2Proof/Laws/KeepsFerry.lean ====
section
/-!
SUPPORT. The operations of Machine/Ferry.lean keep the canonical forms, the queue and the time.
-/
namespace Sys2Proof.Machine
open Sys2Proof
set_option linter.unreachableTactic false
set_option linter.unusedTactic false

theorem keeps_startFrame {u s : State} (h : Keeps u s) (n code pay : Nat) : Keeps u (startFrame n code pay s) := by
  unfold startFrame
  repeat' (first
    | with_reducible assumption
    | with_reducible apply Keeps.set
    | with_reducible apply Keeps.off
    | with_reducible apply Keeps.send
    | split
    | intro)
theorem keeps_ask {u s : State} (h : Keeps u s) (n code pay : Nat) : Keeps u (ask n code pay s) := by
  unfold ask
  repeat' (first
    | with_reducible assumption
    | with_reducible refine Keeps.ite ?_ ?_
    | with_reducible apply Keeps.set
    | with_reducible apply Keeps.inc
    | with_reducible apply keeps_startFrame
    | split
    | intro)
theorem keeps_nextFrame {u s : State} (h : Keeps u s) (n : Nat) : Keeps u (nextFrame n s) := by
  unfold nextFrame
  repeat' (first
    | with_reducible assumption
    | (extract_lets -underBinder +onlyGivenNames y; clear_value (hy : y = _); first | refine Keeps.sub (u := u) hy ?_ (fun hk => ?_) | refine Keeps.subA (u := u) hy ?_ (fun hk => ?_) | refine Keeps.subP (u := u) hy ?_ (fun hk => ?_) | clear hy)
    | with_reducible refine Keeps.ite ?_ ?_
    | with_reducible apply Keeps.set
    | with_reducible apply Keeps.off
    | with_reducible apply Keeps.forUpTo
    | with_reducible apply keeps_startFrame
    | split
    | intro)
theorem keeps_answered {u s : State} (h : Keeps u s) (n : Nat) : Keeps u (answered n s) := by
  unfold answered
  repeat' (first
    | with_reducible assumption
    | with_reducible apply Keeps.off
    | with_reducible apply keeps_nextFrame
    | split
    | intro)
theorem keeps_laneClear {u s : State} (h : Keeps u s) (n : Nat) : Keeps u (laneClear n s) := by
  unfold laneClear
  repeat' (first
    | with_reducible assumption
    | with_reducible apply Keeps.off
    | split
    | intro)
theorem keeps_toState {u s : State} (h : Keeps u s) (n : Nat) (st : Nat) : Keeps u (toState n st s) := by
  unfold toState
  repeat' (first
    | with_reducible assumption
    | with_reducible apply Keeps.set
    | split
    | intro)
theorem keeps_linkFail {u s : State} (h : Keeps u s) (n : Nat) : Keeps u (linkFail n s) := by
  unfold linkFail
  repeat' (first
    | with_reducible assumption
    | with_reducible apply Keeps.set
    | with_reducible apply keeps_laneClear
    | with_reducible apply keeps_toState
    | split
    | intro)
theorem keeps_linkDown {u s : State} (h : Keeps u s) (n : Nat) : Keeps u (linkDown n s) := by
  unfold linkDown
  repeat' (first
    | with_reducible assumption
    | with_reducible apply Keeps.off
    | with_reducible apply keeps_laneClear
    | with_reducible apply keeps_toState
    | split
    | intro)
theorem keeps_linkReturn {u s : State} (h : Keeps u s) (n : Nat) : Keeps u (linkReturn n s) := by
  unfold linkReturn
  repeat' (first
    | with_reducible assumption
    | with_reducible apply Keeps.off
    | with_reducible apply keeps_linkDown
    | split
    | intro)
theorem keeps_linkEvent {u s : State} (h : Keeps u s) (g : State → State) (hg : ∀ t, Keeps u t → Keeps u (g t)) : Keeps u (linkEvent g s) := by
  unfold linkEvent
  repeat' (first
    | with_reducible assumption
    | with_reducible refine Keeps.ite ?_ ?_
    | with_reducible apply hg
    | split
    | intro)
theorem keeps_linkStart {u s : State} (h : Keeps u s) (n : Nat) : Keeps u (linkStart n s) := by
  unfold linkStart
  repeat' (first
    | with_reducible assumption
    | with_reducible apply Keeps.set
    | with_reducible apply Keeps.off
    | with_reducible apply keeps_toState
    | split
    | intro)
theorem keeps_heartbeat {u s : State} (h : Keeps u s) (n : Nat) : Keeps u (heartbeat n s) := by
  unfold heartbeat
  repeat' (first
    | with_reducible assumption
    | (extract_lets -underBinder +onlyGivenNames y; clear_value (hy : y = _); first | refine Keeps.sub (u := u) hy ?_ (fun hk => ?_) | refine Keeps.subA (u := u) hy ?_ (fun hk => ?_) | refine Keeps.subP (u := u) hy ?_ (fun hk => ?_) | clear hy)
    | with_reducible apply Keeps.set
    | with_reducible apply Keeps.on
    | with_reducible apply Keeps.when
    | with_reducible apply keeps_linkStart
    | split
    | intro)
theorem keeps_faultInstant {u s : State} (h : Keeps u s) (n : Nat) (pos : Bool) : Keeps u (faultInstant n pos s) := by
  unfold faultInstant
  repeat' (first
    | with_reducible assumption
    | (extract_lets -underBinder +onlyGivenNames y; clear_value (hy : y = _); first | refine Keeps.sub (u := u) hy ?_ (fun hk => ?_) | refine Keeps.subA (u := u) hy ?_ (fun hk => ?_) | refine Keeps.subP (u := u) hy ?_ (fun hk => ?_) | clear hy)
    | with_reducible refine Keeps.ite ?_ ?_
    | with_reducible apply Keeps.set
    | with_reducible apply Keeps.setB
    | with_reducible apply Keeps.on
    | with_reducible apply Keeps.off
    | with_reducible apply Keeps.setBit
    | with_reducible apply Keeps.send
    | with_reducible apply Keeps.when
    | with_reducible apply keeps_ask
    | with_reducible apply keeps_legForce
    | with_reducible apply keeps_linkDown
    | split
    | intro)
theorem keeps_linkWaitExpiry {u s : State} (h : Keeps u s) (n : Nat) : Keeps u (linkWaitExpiry n s) := by
  unfold linkWaitExpiry
  repeat' (first
    | with_reducible assumption
    | with_reducible refine Keeps.ite ?_ ?_
    | with_reducible apply keeps_startFrame
    | with_reducible apply keeps_toState
    | split
    | intro)
theorem keeps_capFrame {u s : State} (h : Keeps u s) (n c : Nat) : Keeps u (capFrame n c s) := by
  unfold capFrame
  repeat' (first
    | with_reducible assumption
    | (extract_lets -underBinder +onlyGivenNames y; clear_value (hy : y = _); first | refine Keeps.sub (u := u) hy ?_ (fun hk => ?_) | refine Keeps.subA (u := u) hy ?_ (fun hk => ?_) | refine Keeps.subP (u := u) hy ?_ (fun hk => ?_) | clear hy)
    | with_reducible refine Keeps.ite ?_ ?_
    | with_reducible apply Keeps.set
    | with_reducible apply Keeps.on
    | with_reducible apply Keeps.when
    | with_reducible apply Keeps.forUpTo
    | with_reducible apply keeps_laneClear
    | with_reducible apply keeps_startFrame
    | with_reducible apply keeps_toState
    | split
    | intro)
theorem keeps_sendProfile {u s : State} (h : Keeps u s) (n k : Nat) : Keeps u (sendProfile n k s) := by
  unfold sendProfile
  repeat' (first
    | with_reducible assumption
    | with_reducible apply keeps_startFrame
    | split
    | intro)
theorem keeps_linkUp {u s : State} (h : Keeps u s) (n : Nat) : Keeps u (linkUp n s) := by
  unfold linkUp
  repeat' (first
    | with_reducible assumption
    | (extract_lets -underBinder +onlyGivenNames y; clear_value (hy : y = _); first | refine Keeps.sub (u := u) hy ?_ (fun hk => ?_) | refine Keeps.subA (u := u) hy ?_ (fun hk => ?_) | refine Keeps.subP (u := u) hy ?_ (fun hk => ?_) | clear hy)
    | with_reducible refine Keeps.ite ?_ ?_
    | with_reducible apply Keeps.set
    | with_reducible apply Keeps.off
    | with_reducible apply keeps_answered
    | with_reducible apply keeps_slotFrame
    | with_reducible apply keeps_toState
    | split
    | intro)
theorem keeps_ackFrame {u s : State} (h : Keeps u s) (n code echo : Nat) : Keeps u (ackFrame n code echo s) := by
  unfold ackFrame
  repeat' (first
    | with_reducible assumption
    | (extract_lets -underBinder +onlyGivenNames y; clear_value (hy : y = _); first | refine Keeps.sub (u := u) hy ?_ (fun hk => ?_) | refine Keeps.subA (u := u) hy ?_ (fun hk => ?_) | refine Keeps.subP (u := u) hy ?_ (fun hk => ?_) | clear hy)
    | with_reducible refine Keeps.ite ?_ ?_
    | with_reducible apply Keeps.set
    | with_reducible apply Keeps.on
    | with_reducible apply keeps_answered
    | with_reducible apply keeps_linkUp
    | with_reducible apply keeps_sendProfile
    | with_reducible apply keeps_startFrame
    | split
    | intro)
theorem keeps_silenceEnd {u s : State} (h : Keeps u s) (n : Nat) : Keeps u (silenceEnd n s) := by
  unfold silenceEnd
  repeat' (first
    | with_reducible assumption
    | with_reducible refine Keeps.ite ?_ ?_
    | with_reducible apply Keeps.set
    | with_reducible apply Keeps.off
    | with_reducible apply keeps_startFrame
    | split
    | intro)
theorem keeps_confirmFails {u s : State} (h : Keeps u s) (n : Nat) : Keeps u (confirmFails n s) := by
  unfold confirmFails
  repeat' (first
    | with_reducible assumption
    | with_reducible refine Keeps.ite ?_ ?_
    | with_reducible apply Keeps.set
    | with_reducible apply Keeps.on
    | with_reducible apply keeps_answered
    | with_reducible apply keeps_linkFail
    | split
    | intro)
theorem keeps_nakFrame {u s : State} (h : Keeps u s) (n code cause : Nat) : Keeps u (nakFrame n code cause s) := by
  unfold nakFrame
  repeat' (first
    | with_reducible assumption
    | with_reducible refine Keeps.ite ?_ ?_
    | with_reducible apply Keeps.set
    | with_reducible apply keeps_answered
    | with_reducible apply keeps_confirmFails
    | with_reducible apply keeps_linkFail
    | with_reducible apply keeps_toState
    | split
    | intro)
theorem keeps_laneLost {u s : State} (h : Keeps u s) (n : Nat) : Keeps u (laneLost n s) := by
  unfold laneLost
  repeat' (first
    | with_reducible assumption
    | with_reducible apply Keeps.on
    | with_reducible apply Keeps.send
    | with_reducible apply keeps_linkDown
    | split
    | intro)
theorem keeps_replyTimeout {u s : State} (h : Keeps u s) (n : Nat) : Keeps u (replyTimeout n s) := by
  unfold replyTimeout
  repeat' (first
    | with_reducible assumption
    | (extract_lets -underBinder +onlyGivenNames y; clear_value (hy : y = _); first | refine Keeps.sub (u := u) hy ?_ (fun hk => ?_) | refine Keeps.subA (u := u) hy ?_ (fun hk => ?_) | refine Keeps.subP (u := u) hy ?_ (fun hk => ?_) | clear hy)
    | with_reducible refine Keeps.ite ?_ ?_
    | with_reducible apply Keeps.set
    | with_reducible apply Keeps.inc
    | with_reducible apply Keeps.send
    | with_reducible apply keeps_answered
    | with_reducible apply keeps_confirmFails
    | with_reducible apply keeps_laneLost
    | with_reducible apply keeps_linkFail
    | split
    | intro)
theorem keeps_settleRetry {u s : State} (h : Keeps u s) (n : Nat) : Keeps u (settleRetry n s) := by
  unfold settleRetry
  repeat' (first
    | with_reducible assumption
    | (extract_lets -underBinder +onlyGivenNames y; clear_value (hy : y = _); first | refine Keeps.sub (u := u) hy ?_ (fun hk => ?_) | refine Keeps.subA (u := u) hy ?_ (fun hk => ?_) | refine Keeps.subP (u := u) hy ?_ (fun hk => ?_) | clear hy)
    | with_reducible refine Keeps.ite ?_ ?_
    | with_reducible apply Keeps.set
    | with_reducible apply Keeps.off
    | with_reducible apply keeps_startFrame
    | split
    | intro)
theorem keeps_failTimeout {u s : State} (h : Keeps u s) (n : Nat) : Keeps u (failTimeout n s) := by
  unfold failTimeout
  repeat' (first
    | with_reducible assumption
    | with_reducible refine Keeps.ite ?_ ?_
    | with_reducible apply keeps_linkStart
    | split
    | intro)
theorem keeps_laneFrameError {u s : State} (h : Keeps u s) (n : Nat) (crc : Bool) : Keeps u (laneFrameError n crc s) := by
  unfold laneFrameError
  repeat' (first
    | with_reducible assumption
    | with_reducible apply Keeps.on
    | with_reducible apply Keeps.incSat
    | with_reducible apply Keeps.when
    | split
    | intro)
theorem keeps_storeTelem {u s : State} (h : Keeps u s) (n v : Nat) : Keeps u (storeTelem n v s) := by
  unfold storeTelem
  repeat' (first
    | with_reducible assumption
    | (extract_lets -underBinder +onlyGivenNames y; clear_value (hy : y = _); first | refine Keeps.sub (u := u) hy ?_ (fun hk => ?_) | refine Keeps.subA (u := u) hy ?_ (fun hk => ?_) | refine Keeps.subP (u := u) hy ?_ (fun hk => ?_) | clear hy)
    | with_reducible apply Keeps.set
    | with_reducible apply Keeps.on
    | with_reducible apply Keeps.when
    | with_reducible apply keeps_bootUvEnd
    | with_reducible apply keeps_slotFrame
    | split
    | intro)
theorem keeps_telemFrame {u s : State} (h : Keeps u s) (n v : Nat) : Keeps u (telemFrame n v s) := by
  unfold telemFrame
  repeat' (first
    | with_reducible assumption
    | (extract_lets -underBinder +onlyGivenNames y; clear_value (hy : y = _); first | refine Keeps.sub (u := u) hy ?_ (fun hk => ?_) | refine Keeps.subA (u := u) hy ?_ (fun hk => ?_) | refine Keeps.subP (u := u) hy ?_ (fun hk => ?_) | clear hy)
    | with_reducible refine Keeps.ite ?_ ?_
    | with_reducible apply Keeps.set
    | with_reducible apply Keeps.off
    | with_reducible apply keeps_answered
    | with_reducible apply keeps_sendProfile
    | with_reducible apply keeps_storeTelem
    | with_reducible apply keeps_toState
    | split
    | intro)
theorem keeps_telemPollTimer {u s : State} (h : Keeps u s) (n : Nat) : Keeps u (telemPollTimer n s) := by
  unfold telemPollTimer
  repeat' (first
    | with_reducible assumption
    | with_reducible refine Keeps.ite ?_ ?_
    | with_reducible apply Keeps.set
    | with_reducible apply keeps_ask
    | split
    | intro)
theorem keeps_alertFrame {u s : State} (h : Keeps u s) (n : Nat) (v : Nat) : Keeps u (alertFrame n v s) := by
  unfold alertFrame
  repeat' (first
    | with_reducible assumption
    | (extract_lets -underBinder +onlyGivenNames y; clear_value (hy : y = _); first | refine Keeps.sub (u := u) hy ?_ (fun hk => ?_) | refine Keeps.subA (u := u) hy ?_ (fun hk => ?_) | refine Keeps.subP (u := u) hy ?_ (fun hk => ?_) | clear hy)
    | with_reducible refine Keeps.ite ?_ ?_
    | with_reducible apply Keeps.set
    | with_reducible apply keeps_bootUvReport
    | with_reducible apply keeps_bootUvEnd
    | split
    | intro)
theorem keeps_faultData {u s : State} (h : Keeps u s) (n : Nat) (cause : Nat) : Keeps u (faultData n cause s) := by
  unfold faultData
  repeat' (first
    | with_reducible assumption
    | with_reducible refine Keeps.ite ?_ ?_
    | with_reducible apply Keeps.set
    | with_reducible apply keeps_answered
    | split
    | intro)
theorem keeps_diagData {u s : State} (h : Keeps u s) (n : Nat) (gate : Nat) (node : Nat) (desat : Nat) : Keeps u (diagData n gate node desat s) := by
  unfold diagData
  repeat' (first
    | with_reducible assumption
    | with_reducible refine Keeps.ite ?_ ?_
    | with_reducible apply Keeps.set
    | with_reducible apply keeps_answered
    | with_reducible apply keeps_toState
    | split
    | intro)
theorem keeps_diagPoll {u s : State} (h : Keeps u s) (n : Nat) : Keeps u (diagPoll n s) := by
  unfold diagPoll
  repeat' (first
    | with_reducible assumption
    | with_reducible refine Keeps.ite ?_ ?_
    | with_reducible apply Keeps.set
    | with_reducible apply keeps_ask
    | split
    | intro)
theorem keeps_relink {u s : State} (h : Keeps u s) (n : Nat) : Keeps u (relink n s) := by
  unfold relink
  repeat' (first
    | with_reducible assumption
    | with_reducible refine Keeps.ite ?_ ?_
    | with_reducible apply Keeps.on
    | with_reducible apply Keeps.send
    | with_reducible apply keeps_linkDown
    | split
    | intro)
theorem keeps_stageClr {u s : State} (h : Keeps u s) (n : Nat) : Keeps u (stageClr n s) := by
  unfold stageClr
  repeat' (first
    | with_reducible assumption
    | with_reducible apply keeps_ask
    | split
    | intro)
theorem keeps_diagGo {u s : State} (h : Keeps u s) (n : Nat) : Keeps u (diagGo n s) := by
  unfold diagGo
  repeat' (first
    | with_reducible assumption
    | with_reducible refine Keeps.ite ?_ ?_
    | with_reducible apply Keeps.set
    | with_reducible apply Keeps.on
    | with_reducible apply keeps_ask
    | with_reducible apply keeps_toState
    | split
    | intro)
theorem keeps_telNow {u s : State} (h : Keeps u s) (n : Nat) : Keeps u (telNow n s) := by
  unfold telNow
  repeat' (first
    | with_reducible assumption
    | with_reducible refine Keeps.ite ?_ ?_
    | with_reducible apply keeps_ask
    | split
    | intro)
theorem keeps_profileWrite {u s : State} (h : Keeps u s) (n k v : Nat) : Keeps u (profileWrite n k v s) := by
  unfold profileWrite
  repeat' (first
    | with_reducible assumption
    | (extract_lets -underBinder +onlyGivenNames y; clear_value (hy : y = _); first | refine Keeps.sub (u := u) hy ?_ (fun hk => ?_) | refine Keeps.subA (u := u) hy ?_ (fun hk => ?_) | refine Keeps.subP (u := u) hy ?_ (fun hk => ?_) | clear hy)
    | with_reducible refine Keeps.ite ?_ ?_
    | with_reducible apply Keeps.set
    | with_reducible apply Keeps.on
    | with_reducible apply keeps_ask
    | split
    | intro)
theorem keeps_linkCtrl {u s : State} (h : Keeps u s) (n : Nat) (v : Nat) : Keeps u (linkCtrl n v s) := by
  unfold linkCtrl
  repeat' (first
    | with_reducible assumption
    | (extract_lets -underBinder +onlyGivenNames y; clear_value (hy : y = _); first | refine Keeps.sub (u := u) hy ?_ (fun hk => ?_) | refine Keeps.subA (u := u) hy ?_ (fun hk => ?_) | refine Keeps.subP (u := u) hy ?_ (fun hk => ?_) | clear hy)
    | with_reducible apply Keeps.when
    | with_reducible apply keeps_relink
    | with_reducible apply keeps_stageClr
    | with_reducible apply keeps_diagGo
    | with_reducible apply keeps_telNow
    | split
    | intro)
theorem keeps_execHeartbeatTransition (n : LinkIx) (s : State) : ∃ u, execHeartbeatTransition n s = .next u ∧ Keeps s u := by
  refine ⟨_, rfl, ?_⟩
  have h := Keeps.refl s
  repeat' (first
    | with_reducible assumption
    | with_reducible apply keeps_heartbeat
    | with_reducible apply keeps_linkEvent
    | split
    | intro)
theorem keeps_execFaultInstant (n : LinkIx) (pos : Bool) (s : State) : ∃ u, execFaultInstant n pos s = .next u ∧ Keeps s u := by
  refine ⟨_, rfl, ?_⟩
  have h := Keeps.refl s
  repeat' (first
    | with_reducible assumption
    | with_reducible apply keeps_faultInstant
    | with_reducible apply keeps_linkEvent
    | split
    | intro)
theorem keeps_execLinkWaitExpiry (n : LinkIx) (s : State) : ∃ u, execLinkWaitExpiry n s = .next u ∧ Keeps s u := by
  refine ⟨_, rfl, ?_⟩
  have h := Keeps.refl s
  repeat' (first
    | with_reducible assumption
    | with_reducible apply keeps_linkEvent
    | with_reducible apply keeps_linkWaitExpiry
    | split
    | intro)
theorem keeps_execCap (n : LinkIx) (c : BitVec 128) (s : State) : ∃ u, execCap n c s = .next u ∧ Keeps s u := by
  refine ⟨_, rfl, ?_⟩
  have h := Keeps.refl s
  repeat' (first
    | with_reducible assumption
    | with_reducible apply keeps_capFrame
    | with_reducible apply keeps_linkEvent
    | split
    | intro)
theorem keeps_execAck (n : LinkIx) (code : BitVec 7) (echo : Word) (s : State) : ∃ u, execAck n code echo s = .next u ∧ Keeps s u := by
  refine ⟨_, rfl, ?_⟩
  have h := Keeps.refl s
  repeat' (first
    | with_reducible assumption
    | with_reducible apply keeps_ackFrame
    | with_reducible apply keeps_linkEvent
    | split
    | intro)
theorem keeps_execRateChangeSilenceEnd (n : LinkIx) (s : State) : ∃ u, execRateChangeSilenceEnd n s = .next u ∧ Keeps s u := by
  refine ⟨_, rfl, ?_⟩
  have h := Keeps.refl s
  repeat' (first
    | with_reducible assumption
    | with_reducible apply keeps_linkEvent
    | with_reducible apply keeps_silenceEnd
    | split
    | intro)
theorem keeps_execNak (n : LinkIx) (code : BitVec 7) (cause : BitVec 8) (s : State) : ∃ u, execNak n code cause s = .next u ∧ Keeps s u := by
  refine ⟨_, rfl, ?_⟩
  have h := Keeps.refl s
  repeat' (first
    | with_reducible assumption
    | with_reducible apply keeps_linkEvent
    | with_reducible apply keeps_nakFrame
    | split
    | intro)
theorem keeps_execReplyTimeout (n : LinkIx) (s : State) : ∃ u, execReplyTimeout n s = .next u ∧ Keeps s u := by
  refine ⟨_, rfl, ?_⟩
  have h := Keeps.refl s
  repeat' (first
    | with_reducible assumption
    | with_reducible apply keeps_linkEvent
    | with_reducible apply keeps_replyTimeout
    | split
    | intro)
theorem keeps_execSettleRetryWait (n : LinkIx) (s : State) : ∃ u, execSettleRetryWait n s = .next u ∧ Keeps s u := by
  refine ⟨_, rfl, ?_⟩
  have h := Keeps.refl s
  repeat' (first
    | with_reducible assumption
    | with_reducible apply keeps_linkEvent
    | with_reducible apply keeps_settleRetry
    | split
    | intro)
theorem keeps_execFailTimeout (n : LinkIx) (s : State) : ∃ u, execFailTimeout n s = .next u ∧ Keeps s u := by
  refine ⟨_, rfl, ?_⟩
  have h := Keeps.refl s
  repeat' (first
    | with_reducible assumption
    | with_reducible apply keeps_failTimeout
    | with_reducible apply keeps_linkEvent
    | split
    | intro)
theorem keeps_execLaneFrameError (n : LinkIx) (crc : Bool) (s : State) : ∃ u, execLaneFrameError n crc s = .next u ∧ Keeps s u := by
  refine ⟨_, rfl, ?_⟩
  have h := Keeps.refl s
  repeat' (first
    | with_reducible assumption
    | with_reducible apply keeps_laneFrameError
    | with_reducible apply keeps_linkEvent
    | split
    | intro)
theorem keeps_execTelem (n : LinkIx) (v : BitVec 96) (s : State) : ∃ u, execTelem n v s = .next u ∧ Keeps s u := by
  refine ⟨_, rfl, ?_⟩
  have h := Keeps.refl s
  repeat' (first
    | with_reducible assumption
    | with_reducible apply keeps_linkEvent
    | with_reducible apply keeps_telemFrame
    | split
    | intro)
theorem keeps_execTelemPollTimer (n : LinkIx) (s : State) : ∃ u, execTelemPollTimer n s = .next u ∧ Keeps s u := by
  refine ⟨_, rfl, ?_⟩
  have h := Keeps.refl s
  repeat' (first
    | with_reducible assumption
    | with_reducible apply keeps_linkEvent
    | with_reducible apply keeps_telemPollTimer
    | split
    | intro)
theorem keeps_execAlert (n : LinkIx) (v : BitVec 8) (s : State) : ∃ u, execAlert n v s = .next u ∧ Keeps s u := by
  refine ⟨_, rfl, ?_⟩
  have h := Keeps.refl s
  repeat' (first
    | with_reducible assumption
    | with_reducible apply keeps_alertFrame
    | with_reducible apply keeps_linkEvent
    | split
    | intro)
theorem keeps_execFaultData (n : LinkIx) (cause : BitVec 8) (s : State) : ∃ u, execFaultData n cause s = .next u ∧ Keeps s u := by
  refine ⟨_, rfl, ?_⟩
  have h := Keeps.refl s
  repeat' (first
    | with_reducible assumption
    | with_reducible apply keeps_faultData
    | with_reducible apply keeps_linkEvent
    | split
    | intro)
theorem keeps_execDiagData (n : LinkIx) (gate node desat : BitVec 8) (s : State) : ∃ u, execDiagData n gate node desat s = .next u ∧ Keeps s u := by
  refine ⟨_, rfl, ?_⟩
  have h := Keeps.refl s
  repeat' (first
    | with_reducible assumption
    | with_reducible apply keeps_diagData
    | with_reducible apply keeps_linkEvent
    | split
    | intro)
theorem keeps_execDiagPoll (n : LinkIx) (s : State) : ∃ u, execDiagPoll n s = .next u ∧ Keeps s u := by
  refine ⟨_, rfl, ?_⟩
  have h := Keeps.refl s
  repeat' (first
    | with_reducible assumption
    | with_reducible apply keeps_diagPoll
    | with_reducible apply keeps_linkEvent
    | split
    | intro)
theorem keeps_execRelink (w : Who) (n : LinkIx) (s : State) : ∃ u, execRelink w n s = .next u ∧ Keeps s u := by
  refine ⟨_, rfl, ?_⟩
  have h := Keeps.refl s
  repeat' (first
    | with_reducible assumption
    | with_reducible apply keeps_sideband
    | with_reducible apply keeps_relink
    | split
    | intro)
theorem keeps_execStageClr (w : Who) (n : LinkIx) (s : State) : ∃ u, execStageClr w n s = .next u ∧ Keeps s u := by
  refine ⟨_, rfl, ?_⟩
  have h := Keeps.refl s
  repeat' (first
    | with_reducible assumption
    | with_reducible apply keeps_sideband
    | with_reducible apply keeps_stageClr
    | split
    | intro)
theorem keeps_execDiagGo (w : Who) (n : LinkIx) (s : State) : ∃ u, execDiagGo w n s = .next u ∧ Keeps s u := by
  refine ⟨_, rfl, ?_⟩
  have h := Keeps.refl s
  repeat' (first
    | with_reducible assumption
    | with_reducible apply keeps_sideband
    | with_reducible apply keeps_diagGo
    | split
    | intro)
theorem keeps_execTelNow (w : Who) (n : LinkIx) (s : State) : ∃ u, execTelNow w n s = .next u ∧ Keeps s u := by
  refine ⟨_, rfl, ?_⟩
  have h := Keeps.refl s
  repeat' (first
    | with_reducible assumption
    | with_reducible apply keeps_sideband
    | with_reducible apply keeps_telNow
    | split
    | intro)
theorem keeps_execProfileSlotWrite (w : Who) (n : LinkIx) (k : Fin 4) (v : Word) (s : State) : ∃ u, execProfileSlotWrite w n k v s = .next u ∧ Keeps s u := by
  refine ⟨_, rfl, ?_⟩
  have h := Keeps.refl s
  repeat' (first
    | with_reducible assumption
    | with_reducible apply keeps_sideband
    | with_reducible apply keeps_profileWrite
    | split
    | intro)

end Sys2Proof.Machine
end

