-- ==== Sys2Proof/Laws/KeepsSafetyIsland.lean ====
section
/-!
SUPPORT. The operations of Machine/SafetyIsland.lean keep the canonical forms, the queue and the time.
-/
namespace Sys2Proof.Machine
open Sys2Proof
set_option linter.unreachableTactic false
set_option linter.unusedTactic false

theorem keeps_fatalMismatch {u s : State} (h : Keeps u s)  : Keeps u (fatalMismatch s) := by
  unfold fatalMismatch
  repeat' (first
    | with_reducible assumption
    | (extract_lets -underBinder +onlyGivenNames y; clear_value (hy : y = _); first | refine Keeps.sub (u := u) hy ?_ (fun hk => ?_) | refine Keeps.subA (u := u) hy ?_ (fun hk => ?_) | refine Keeps.subP (u := u) hy ?_ (fun hk => ?_) | clear hy)
    | with_reducible apply Keeps.set
    | with_reducible apply Keeps.on
    | with_reducible apply Keeps.off
    | with_reducible apply keeps_setSafForce
    | with_reducible apply keeps_openDrivers
    | split
    | intro)
theorem keeps_tmrMismatch {u s : State} (h : Keeps u s) (odd : Option Nat) (kind : Nat) : Keeps u (tmrMismatch odd kind s) := by
  unfold tmrMismatch
  repeat' (first
    | with_reducible assumption
    | (extract_lets -underBinder +onlyGivenNames y; clear_value (hy : y = _); first | refine Keeps.sub (u := u) hy ?_ (fun hk => ?_) | refine Keeps.subA (u := u) hy ?_ (fun hk => ?_) | refine Keeps.subP (u := u) hy ?_ (fun hk => ?_) | clear hy)
    | with_reducible refine Keeps.ite ?_ ?_
    | with_reducible apply Keeps.set
    | with_reducible apply Keeps.on
    | with_reducible apply Keeps.setBit
    | with_reducible apply Keeps.send
    | with_reducible apply keeps_fatalMismatch
    | split
    | intro)
theorem keeps_tmrCompare {u s : State} (h : Keeps u s) (kind : Nat) (word : Option Nat) (x : Nat → Nat) : Keeps u (tmrCompare kind word x s) := by
  unfold tmrCompare
  repeat' (first
    | with_reducible assumption
    | (extract_lets -underBinder +onlyGivenNames y; clear_value (hy : y = _); first | refine Keeps.sub (u := u) hy ?_ (fun hk => ?_) | refine Keeps.subA (u := u) hy ?_ (fun hk => ?_) | refine Keeps.subP (u := u) hy ?_ (fun hk => ?_) | clear hy)
    | with_reducible refine Keeps.ite ?_ ?_
    | with_reducible apply Keeps.set
    | with_reducible apply keeps_tmrMismatch
    | split
    | intro)
theorem keeps_resyncComplete {u s : State} (h : Keeps u s) : Keeps u (resyncComplete s) := by
  unfold resyncComplete
  repeat' (first
    | with_reducible assumption
    | with_reducible refine Keeps.ite ?_ ?_
    | with_reducible apply Keeps.set
    | with_reducible apply Keeps.on
    | with_reducible apply Keeps.off
    | with_reducible apply Keeps.incSat
    | with_reducible apply Keeps.send
    | with_reducible apply keeps_fatalMismatch
    | split
    | intro)
theorem keeps_lockstepMismatch {u s : State} (h : Keeps u s) (p : Nat) : Keeps u (lockstepMismatch p s) := by
  unfold lockstepMismatch
  repeat' (first
    | with_reducible assumption
    | (extract_lets -underBinder +onlyGivenNames y; clear_value (hy : y = _); first | refine Keeps.sub (u := u) hy ?_ (fun hk => ?_) | refine Keeps.subA (u := u) hy ?_ (fun hk => ?_) | refine Keeps.subP (u := u) hy ?_ (fun hk => ?_) | clear hy)
    | with_reducible refine Keeps.ite ?_ ?_
    | with_reducible apply Keeps.set
    | with_reducible apply Keeps.setB
    | with_reducible apply Keeps.on
    | with_reducible apply Keeps.send
    | split
    | intro)
theorem keeps_pairRestart {u s : State} (h : Keeps u s) (p : Nat) : Keeps u (pairRestart p s) := by
  unfold pairRestart
  repeat' (first
    | with_reducible assumption
    | (extract_lets -underBinder +onlyGivenNames y; clear_value (hy : y = _); first | refine Keeps.sub (u := u) hy ?_ (fun hk => ?_) | refine Keeps.subA (u := u) hy ?_ (fun hk => ?_) | refine Keeps.subP (u := u) hy ?_ (fun hk => ?_) | clear hy)
    | with_reducible refine Keeps.ite ?_ ?_
    | with_reducible apply Keeps.set
    | with_reducible apply Keeps.off
    | with_reducible apply keeps_setSafForce
    | split
    | intro)
theorem keeps_pairReady {u s : State} (h : Keeps u s) (p : Nat) : Keeps u (pairReady p s) := by
  unfold pairReady
  repeat' (first
    | with_reducible assumption
    | with_reducible refine Keeps.ite ?_ ?_
    | with_reducible apply Keeps.on
    | with_reducible apply keeps_dropSafForce
    | split
    | intro)
theorem keeps_wdMiss {u s : State} (h : Keeps u s) (w : Nat) : Keeps u (wdMiss w s) := by
  unfold wdMiss
  repeat' (first
    | with_reducible assumption
    | with_reducible apply Keeps.on
    | with_reducible apply Keeps.incSat
    | split
    | intro)
theorem keeps_wdKick {u s : State} (h : Keeps u s) (k : Who) (w key : Nat) : Keeps u (wdKick k w key s) := by
  unfold wdKick
  repeat' (first
    | with_reducible assumption
    | (extract_lets -underBinder +onlyGivenNames y; clear_value (hy : y = _); first | refine Keeps.sub (u := u) hy ?_ (fun hk => ?_) | refine Keeps.subA (u := u) hy ?_ (fun hk => ?_) | refine Keeps.subP (u := u) hy ?_ (fun hk => ?_) | clear hy)
    | with_reducible refine Keeps.ite ?_ ?_
    | with_reducible apply Keeps.set
    | with_reducible apply Keeps.on
    | with_reducible apply Keeps.off
    | with_reducible apply Keeps.setFree
    | with_reducible apply keeps_wdMiss
    | split
    | intro)
theorem keeps_wdClose {u s : State} (h : Keeps u s) (w : Nat) : Keeps u (wdClose w s) := by
  unfold wdClose
  repeat' (first
    | with_reducible assumption
    | with_reducible refine Keeps.ite ?_ ?_
    | with_reducible apply Keeps.set
    | with_reducible apply keeps_wdMiss
    | split
    | intro)
theorem keeps_wdProbe {u s : State} (h : Keeps u s) (w : Nat) (ans : Option Nat) : Keeps u (wdProbe w ans s) := by
  unfold wdProbe
  repeat' (first
    | with_reducible assumption
    | (extract_lets -underBinder +onlyGivenNames y; clear_value (hy : y = _); first | refine Keeps.sub (u := u) hy ?_ (fun hk => ?_) | refine Keeps.subA (u := u) hy ?_ (fun hk => ?_) | refine Keeps.subP (u := u) hy ?_ (fun hk => ?_) | clear hy)
    | with_reducible refine Keeps.ite ?_ ?_
    | with_reducible apply Keeps.set
    | with_reducible apply Keeps.off
    | with_reducible apply keeps_ans
    | with_reducible apply keeps_wdMiss
    | split
    | intro)
theorem keeps_beginIsland {u s : State} (h : Keeps u s) (n st : Nat) : Keeps u (beginIsland n st s) := by
  unfold beginIsland
  repeat' (first
    | with_reducible assumption
    | (extract_lets -underBinder +onlyGivenNames y; clear_value (hy : y = _); first | refine Keeps.sub (u := u) hy ?_ (fun hk => ?_) | refine Keeps.subA (u := u) hy ?_ (fun hk => ?_) | refine Keeps.subP (u := u) hy ?_ (fun hk => ?_) | clear hy)
    | with_reducible apply Keeps.set
    | with_reducible apply Keeps.on
    | with_reducible apply Keeps.when
    | split
    | intro)
theorem keeps_forceDependents {u s : State} (h : Keeps u s) (n : Nat) : Keeps u (forceDependents n s) := by
  unfold forceDependents
  repeat' (first
    | with_reducible assumption
    | with_reducible apply keeps_setSafForce
    | split
    | intro)
theorem keeps_continuePlan {u s : State} (h : Keeps u s) (n : Nat) : Keeps u (continuePlan n s) := by
  unfold continuePlan
  repeat' (first
    | with_reducible assumption
    | (extract_lets -underBinder +onlyGivenNames y; clear_value (hy : y = _); first | refine Keeps.sub (u := u) hy ?_ (fun hk => ?_) | refine Keeps.subA (u := u) hy ?_ (fun hk => ?_) | refine Keeps.subP (u := u) hy ?_ (fun hk => ?_) | clear hy)
    | with_reducible refine Keeps.ite ?_ ?_
    | with_reducible apply Keeps.set
    | with_reducible apply Keeps.off
    | with_reducible apply keeps_beginIsland
    | split
    | intro)
theorem keeps_restartIsland {u s : State} (h : Keeps u s) (n : Nat) : Keeps u (restartIsland n s) := by
  unfold restartIsland
  repeat' (first
    | with_reducible assumption
    | (extract_lets -underBinder +onlyGivenNames y; clear_value (hy : y = _); first | refine Keeps.sub (u := u) hy ?_ (fun hk => ?_) | refine Keeps.subA (u := u) hy ?_ (fun hk => ?_) | refine Keeps.subP (u := u) hy ?_ (fun hk => ?_) | clear hy)
    | with_reducible refine Keeps.ite ?_ ?_
    | with_reducible apply Keeps.set
    | with_reducible apply keeps_forceDependents
    | with_reducible apply keeps_continuePlan
    | split
    | intro)
theorem keeps_islandReaction {u s : State} (h : Keeps u s) (n : Nat) (code : Nat) : Keeps u (islandReaction n code s) := by
  unfold islandReaction
  repeat' (first
    | with_reducible assumption
    | (extract_lets -underBinder +onlyGivenNames y; clear_value (hy : y = _); first | refine Keeps.sub (u := u) hy ?_ (fun hk => ?_) | refine Keeps.subA (u := u) hy ?_ (fun hk => ?_) | refine Keeps.subP (u := u) hy ?_ (fun hk => ?_) | clear hy)
    | with_reducible refine Keeps.ite ?_ ?_
    | with_reducible apply Keeps.send
    | with_reducible apply keeps_enterSafeHold
    | with_reducible apply keeps_forceDependents
    | with_reducible apply keeps_restartIsland
    | split
    | intro)
theorem keeps_pairReaction {u s : State} (h : Keeps u s) (p : Nat) (code : Nat) : Keeps u (pairReaction p code s) := by
  unfold pairReaction
  repeat' (first
    | with_reducible assumption
    | with_reducible apply Keeps.send
    | with_reducible apply keeps_setSafForce
    | with_reducible apply keeps_enterSafeHold
    | with_reducible apply keeps_pairRestart
    | split
    | intro)
theorem keeps_wdReaction {u s : State} (h : Keeps u s) (w : Nat) : Keeps u (wdReaction w s) := by
  unfold wdReaction
  repeat' (first
    | with_reducible assumption
    | (extract_lets -underBinder +onlyGivenNames y; clear_value (hy : y = _); first | refine Keeps.sub (u := u) hy ?_ (fun hk => ?_) | refine Keeps.subA (u := u) hy ?_ (fun hk => ?_) | refine Keeps.subP (u := u) hy ?_ (fun hk => ?_) | clear hy)
    | with_reducible refine Keeps.ite ?_ ?_
    | with_reducible apply Keeps.on
    | with_reducible apply keeps_islandReaction
    | with_reducible apply keeps_pairReaction
    | split
    | intro)
theorem keeps_setLock {u s : State} (h : Keeps u s)  : Keeps u (setLock s) := by
  unfold setLock
  repeat' (first
    | with_reducible assumption
    | with_reducible apply Keeps.set
    | with_reducible apply Keeps.on
    | with_reducible apply Keeps.off
    | split
    | intro)
theorem keeps_closeDriver {u s : State} (h : Keeps u s) (c : Nat) : Keeps u (closeDriver c s) := by
  unfold closeDriver
  repeat' (first
    | with_reducible assumption
    | with_reducible apply Keeps.set
    | with_reducible apply Keeps.on
    | with_reducible apply Keeps.off
    | with_reducible apply Keeps.incSat
    | split
    | intro)
theorem keeps_closeRequest {u s : State} (h : Keeps u s) (c : Nat) : Keeps u (closeRequest c s) := by
  unfold closeRequest
  repeat' (first
    | with_reducible assumption
    | with_reducible refine Keeps.ite ?_ ?_
    | with_reducible apply Keeps.on
    | with_reducible apply keeps_closeDriver
    | split
    | intro)
theorem keeps_pullEnd {u s : State} (h : Keeps u s) (c : Nat) : Keeps u (pullEnd c s) := by
  unfold pullEnd
  repeat' (first
    | with_reducible assumption
    | (extract_lets -underBinder +onlyGivenNames y; clear_value (hy : y = _); first | refine Keeps.sub (u := u) hy ?_ (fun hk => ?_) | refine Keeps.subA (u := u) hy ?_ (fun hk => ?_) | refine Keeps.subP (u := u) hy ?_ (fun hk => ?_) | clear hy)
    | with_reducible refine Keeps.ite ?_ ?_
    | with_reducible apply Keeps.set
    | with_reducible apply Keeps.on
    | with_reducible apply Keeps.off
    | with_reducible apply keeps_closeDriver
    | split
    | intro)
theorem keeps_packClose {u s : State} (h : Keeps u s) : Keeps u (packClose s) := by
  unfold packClose
  repeat' (first
    | with_reducible assumption
    | with_reducible apply Keeps.set
    | with_reducible apply keeps_closeDriver
    | split
    | intro)
theorem keeps_prechargeCompare {u s : State} (h : Keeps u s) (v : Nat) : Keeps u (prechargeCompare v s) := by
  unfold prechargeCompare
  repeat' (first
    | with_reducible assumption
    | with_reducible refine Keeps.ite ?_ ?_
    | with_reducible apply keeps_closeDriver
    | split
    | intro)
theorem keeps_prechargeTimeout {u s : State} (h : Keeps u s) : Keeps u (prechargeTimeout s) := by
  unfold prechargeTimeout
  repeat' (first
    | with_reducible assumption
    | (extract_lets -underBinder +onlyGivenNames y; clear_value (hy : y = _); first | refine Keeps.sub (u := u) hy ?_ (fun hk => ?_) | refine Keeps.subA (u := u) hy ?_ (fun hk => ?_) | refine Keeps.subP (u := u) hy ?_ (fun hk => ?_) | clear hy)
    | with_reducible refine Keeps.ite ?_ ?_
    | with_reducible apply Keeps.set
    | with_reducible apply Keeps.on
    | with_reducible apply Keeps.off
    | with_reducible apply Keeps.forUpTo
    | split
    | intro)
theorem keeps_coilFault {u s : State} (h : Keeps u s) (c : Nat) (short : Bool) : Keeps u (coilFault c short s) := by
  unfold coilFault
  repeat' (first
    | with_reducible assumption
    | (extract_lets -underBinder +onlyGivenNames y; clear_value (hy : y = _); first | refine Keeps.sub (u := u) hy ?_ (fun hk => ?_) | refine Keeps.subA (u := u) hy ?_ (fun hk => ?_) | refine Keeps.subP (u := u) hy ?_ (fun hk => ?_) | clear hy)
    | with_reducible refine Keeps.ite ?_ ?_
    | with_reducible apply Keeps.on
    | with_reducible apply Keeps.off
    | with_reducible apply Keeps.send
    | with_reducible apply keeps_enterSafeHold
    | split
    | intro)
theorem keeps_jtagInstruction {u s : State} (h : Keeps u s) (i : Nat) : Keeps u (jtagInstruction i s) := by
  unfold jtagInstruction
  repeat' (first
    | with_reducible assumption
    | with_reducible refine Keeps.ite ?_ ?_
    | with_reducible apply Keeps.set
    | with_reducible apply Keeps.off
    | with_reducible apply Keeps.answer
    | split
    | intro)
theorem keeps_extest {u s : State} (h : Keeps u s)  : Keeps u (extest s) := by
  unfold extest
  repeat' (first
    | with_reducible assumption
    | (extract_lets -underBinder +onlyGivenNames y; clear_value (hy : y = _); first | refine Keeps.sub (u := u) hy ?_ (fun hk => ?_) | refine Keeps.subA (u := u) hy ?_ (fun hk => ?_) | refine Keeps.subP (u := u) hy ?_ (fun hk => ?_) | clear hy)
    | with_reducible refine Keeps.ite ?_ ?_
    | with_reducible apply Keeps.set
    | with_reducible apply Keeps.on
    | with_reducible apply Keeps.off
    | with_reducible apply Keeps.answer
    | with_reducible apply Keeps.forUpTo
    | with_reducible apply keeps_setOut
    | split
    | intro)
theorem keeps_execTmrMismatch (kind : Fin 3) (word : Option (Fin 49152)) (x0 x1 x2 : BitVec 64) (s : State) : ∃ u, execTmrMismatch kind word x0 x1 x2 s = .next u ∧ Keeps s u := by
  refine ⟨_, rfl, ?_⟩
  have h := Keeps.refl s
  repeat' (first
    | with_reducible assumption
    | with_reducible refine Keeps.ite ?_ ?_
    | with_reducible apply keeps_tmrCompare
    | split
    | intro)
theorem keeps_execResyncComplete  (s : State) : ∃ u, execResyncComplete s = .next u ∧ Keeps s u := by
  refine ⟨_, rfl, ?_⟩
  have h := Keeps.refl s
  repeat' (first
    | with_reducible assumption
    | with_reducible apply keeps_resyncComplete
    | split
    | intro)
theorem keeps_execSelfWatchdogExpiry  (s : State) : ∃ u, execSelfWatchdogExpiry s = .next u ∧ Keeps s u := by
  refine ⟨_, rfl, ?_⟩
  have h := Keeps.refl s
  repeat' (first
    | with_reducible assumption
    | with_reducible refine Keeps.ite ?_ ?_
    | with_reducible apply keeps_fatalMismatch
    | split
    | intro)
theorem keeps_execLockstepMismatch (p : PairIx) (s : State) : ∃ u, execLockstepMismatch p s = .next u ∧ Keeps s u := by
  refine ⟨_, rfl, ?_⟩
  have h := Keeps.refl s
  repeat' (first
    | with_reducible assumption
    | with_reducible apply keeps_lockstepMismatch
    | split
    | intro)
theorem keeps_execPairRestart (p : PairIx) (s : State) : ∃ u, execPairRestart p s = .next u ∧ Keeps s u := by
  refine ⟨_, rfl, ?_⟩
  have h := Keeps.refl s
  repeat' (first
    | with_reducible assumption
    | with_reducible apply keeps_pairRestart
    | split
    | intro)
theorem keeps_execPairReadyReport (p : PairIx) (s : State) : ∃ u, execPairReadyReport p s = .next u ∧ Keeps s u := by
  refine ⟨_, rfl, ?_⟩
  have h := Keeps.refl s
  repeat' (first
    | with_reducible assumption
    | with_reducible apply keeps_pairReady
    | split
    | intro)
theorem keeps_refusedKick {u s : State} (h : Keeps u s) (k : Who) (a key : Nat) : Keeps u (refusedKick k a key s) := by
  unfold refusedKick
  split
  · exact keeps_wdKick h _ _ _
  · exact h
theorem keeps_execWatchdogKick (k : Who) (w : Fin 16) (key : Half) (s : State) : ∃ u, execWatchdogKick k w key s = .next u ∧ Keeps s u := by
  refine ⟨_, rfl, ?_⟩
  have h := Keeps.refl s
  repeat' (first
    | with_reducible assumption
    | with_reducible apply keeps_refusedKick
    | with_reducible apply keeps_sideband
    | with_reducible apply keeps_wdKick
    | split
    | intro)
theorem keeps_execWatchdogCloseExpiry (w : Fin 16) (s : State) : ∃ u, execWatchdogCloseExpiry w s = .next u ∧ Keeps s u := by
  refine ⟨_, rfl, ?_⟩
  have h := Keeps.refl s
  repeat' (first
    | with_reducible assumption
    | with_reducible apply keeps_wdClose
    | split
    | intro)
theorem keeps_execWatchdogProbe (w : Fin 16) (ans : Option Word) (s : State) : ∃ u, execWatchdogProbe w ans s = .next u ∧ Keeps s u := by
  refine ⟨_, rfl, ?_⟩
  have h := Keeps.refl s
  repeat' (first
    | with_reducible assumption
    | with_reducible apply keeps_wdProbe
    | split
    | intro)
theorem keeps_execWatchdogReaction (w : Fin 16) (s : State) : ∃ u, execWatchdogReaction w s = .next u ∧ Keeps s u := by
  refine ⟨_, rfl, ?_⟩
  have h := Keeps.refl s
  repeat' (first
    | with_reducible assumption
    | with_reducible apply keeps_wdReaction
    | split
    | intro)
theorem keeps_execLock  (s : State) : ∃ u, execLock s = .next u ∧ Keeps s u := by
  refine ⟨_, rfl, ?_⟩
  have h := Keeps.refl s
  repeat' (first
    | with_reducible assumption
    | with_reducible refine Keeps.ite ?_ ?_
    | with_reducible apply keeps_setLock
    | split
    | intro)
theorem keeps_execContactorCloseRequest (c : Fin 8) (s : State) : ∃ u, execContactorCloseRequest c s = .next u ∧ Keeps s u := by
  refine ⟨_, rfl, ?_⟩
  have h := Keeps.refl s
  repeat' (first
    | with_reducible assumption
    | with_reducible apply keeps_closeRequest
    | split
    | intro)
theorem keeps_execCoilPullEnd (c : Fin 8) (s : State) : ∃ u, execCoilPullEnd c s = .next u ∧ Keeps s u := by
  refine ⟨_, rfl, ?_⟩
  have h := Keeps.refl s
  repeat' (first
    | with_reducible assumption
    | with_reducible apply keeps_pullEnd
    | split
    | intro)
theorem keeps_execOpeningGapExpiry (s : State) : ∃ u, execOpeningGapExpiry s = .next u ∧ Keeps s u := by
  refine ⟨_, rfl, ?_⟩
  have h := Keeps.refl s
  repeat' (first
    | with_reducible assumption
    | with_reducible apply keeps_openGap
    | split
    | intro)
theorem keeps_execPackPrechargeCompare (v : Half) (s : State) : ∃ u, execPackPrechargeCompare v s = .next u ∧ Keeps s u := by
  refine ⟨_, rfl, ?_⟩
  have h := Keeps.refl s
  repeat' (first
    | with_reducible assumption
    | with_reducible apply keeps_prechargeCompare
    | split
    | intro)
theorem keeps_execPackPrechargeTimeout  (s : State) : ∃ u, execPackPrechargeTimeout s = .next u ∧ Keeps s u := by
  refine ⟨_, rfl, ?_⟩
  have h := Keeps.refl s
  repeat' (first
    | with_reducible assumption
    | with_reducible apply keeps_prechargeTimeout
    | split
    | intro)
theorem keeps_execCoilFault (c : Fin 8) (short : Bool) (s : State) : ∃ u, execCoilFault c short s = .next u ∧ Keeps s u := by
  refine ⟨_, rfl, ?_⟩
  have h := Keeps.refl s
  repeat' (first
    | with_reducible assumption
    | with_reducible apply keeps_coilFault
    | split
    | intro)
theorem keeps_execJtagInstruction (i : Fin 6) (s : State) : ∃ u, execJtagInstruction i s = .next u ∧ Keeps s u := by
  refine ⟨_, rfl, ?_⟩
  have h := Keeps.refl s
  repeat' (first
    | with_reducible assumption
    | with_reducible refine Keeps.ite ?_ ?_
    | with_reducible apply keeps_jtagInstruction
    | with_reducible apply keeps_extest
    | split
    | intro)
theorem keeps_execExtest  (s : State) : ∃ u, execExtest s = .next u ∧ Keeps s u := by
  refine ⟨_, rfl, ?_⟩
  have h := Keeps.refl s
  repeat' (first
    | with_reducible assumption
    | with_reducible apply keeps_extest
    | split
    | intro)

end Sys2Proof.Machine
end

