-- ==== Sys2Proof/Laws/KeepsCharts.lean ====
section
/-!
SUPPORT. The operations of Machine/Charts.lean keep the canonical forms, the queue and the time.
-/
namespace Sys2Proof.Machine
open Sys2Proof
set_option linter.unreachableTactic false
set_option linter.unusedTactic false

theorem keeps_refreshWarm {u s : State} (h : Keeps u s)  : Keeps u (refreshWarm s) := by
  unfold refreshWarm
  repeat' (first
    | with_reducible assumption
    | (extract_lets -underBinder +onlyGivenNames y; clear_value (hy : y = _); first | refine Keeps.sub (u := u) hy ?_ (fun hk => ?_) | refine Keeps.subA (u := u) hy ?_ (fun hk => ?_) | refine Keeps.subP (u := u) hy ?_ (fun hk => ?_) | clear hy)
    | with_reducible apply Keeps.setB
    | split
    | intro)
theorem keeps_lookupResult {u s : State} (h : Keeps u s) (e : Nat) (st : Nat) (f : Nat → Nat) : Keeps u (lookupResult e st f s) := by
  unfold lookupResult
  repeat' (first
    | with_reducible assumption
    | with_reducible apply Keeps.set
    | with_reducible apply Keeps.on
    | with_reducible apply Keeps.off
    | with_reducible apply Keeps.forUpTo
    | split
    | intro)
theorem keeps_touchTiles {u s : State} (h : Keeps u s) (m : Nat) (l : List Nat) : Keeps u (touchTiles m l s) := by
  unfold touchTiles
  repeat' (first
    | with_reducible assumption
    | with_reducible apply Keeps.set
    | with_reducible apply Keeps.inc
    | with_reducible apply Keeps.forEach
    | split
    | intro)
theorem keeps_completeLookup {u s : State} (h : Keeps u s) (e : Nat) (m : Nat) (q : Query) : Keeps u (completeLookup e m q s) := by
  unfold completeLookup
  repeat' (first
    | with_reducible assumption
    | (extract_lets -underBinder +onlyGivenNames y; clear_value (hy : y = _); first | refine Keeps.sub (u := u) hy ?_ (fun hk => ?_) | refine Keeps.subA (u := u) hy ?_ (fun hk => ?_) | refine Keeps.subP (u := u) hy ?_ (fun hk => ?_) | clear hy)
    | with_reducible refine Keeps.ite ?_ ?_
    | with_reducible apply Keeps.set
    | with_reducible apply Keeps.forUpTo
    | with_reducible apply keeps_lookupResult
    | with_reducible apply keeps_touchTiles
    | split
    | intro)
theorem keeps_recordQuery {u s : State} (h : Keeps u s) (m : Nat) (q : Query) : Keeps u (recordQuery m q s) := by
  unfold recordQuery
  repeat' (first
    | with_reducible assumption
    | (extract_lets -underBinder +onlyGivenNames y; clear_value (hy : y = _); first | refine Keeps.sub (u := u) hy ?_ (fun hk => ?_) | refine Keeps.subA (u := u) hy ?_ (fun hk => ?_) | refine Keeps.subP (u := u) hy ?_ (fun hk => ?_) | clear hy)
    | with_reducible apply Keeps.set
    | with_reducible apply Keeps.sset
    | with_reducible apply Keeps.forEach
    | with_reducible apply Keeps.forUpTo
    | split
    | intro)
theorem keeps_autoLoad {u s : State} (h : Keeps u s) (m : Nat) : Keeps u (autoLoad m s) := by
  unfold autoLoad
  repeat' (first
    | with_reducible assumption
    | (extract_lets -underBinder +onlyGivenNames y; clear_value (hy : y = _); first | refine Keeps.sub (u := u) hy ?_ (fun hk => ?_) | refine Keeps.subA (u := u) hy ?_ (fun hk => ?_) | refine Keeps.subP (u := u) hy ?_ (fun hk => ?_) | clear hy)
    | with_reducible refine Keeps.ite ?_ ?_
    | with_reducible apply keeps_startLoad
    | split
    | intro)
theorem keeps_tsCtrlWrite {u s : State} (h : Keeps u s) (p v : Nat) : Keeps u (tsCtrlWrite p v s) := by
  unfold tsCtrlWrite
  repeat' (first
    | with_reducible assumption
    | (extract_lets -underBinder +onlyGivenNames y; clear_value (hy : y = _); first | refine Keeps.sub (u := u) hy ?_ (fun hk => ?_) | refine Keeps.subA (u := u) hy ?_ (fun hk => ?_) | refine Keeps.subP (u := u) hy ?_ (fun hk => ?_) | clear hy)
    | with_reducible refine Keeps.ite ?_ ?_
    | with_reducible apply keeps_autoLoad
    | with_reducible apply keeps_loadPpi
    | split
    | intro)
theorem keeps_requestTiles {u s : State} (h : Keeps u s) (m : Nat) (q : Query) : Keeps u (requestTiles m q s) := by
  unfold requestTiles
  repeat' (first
    | with_reducible assumption
    | with_reducible apply Keeps.setBit
    | with_reducible apply Keeps.forEach
    | split
    | intro)
theorem keeps_chartLookup {u s : State} (h : Keeps u s) (e m : Nat) (q : Query) : Keeps u (chartLookup e m q s) := by
  unfold chartLookup
  repeat' (first
    | with_reducible assumption
    | (extract_lets -underBinder +onlyGivenNames y; clear_value (hy : y = _); first | refine Keeps.sub (u := u) hy ?_ (fun hk => ?_) | refine Keeps.subA (u := u) hy ?_ (fun hk => ?_) | refine Keeps.subP (u := u) hy ?_ (fun hk => ?_) | clear hy)
    | with_reducible refine Keeps.ite ?_ ?_
    | with_reducible apply Keeps.set
    | with_reducible apply Keeps.on
    | with_reducible apply Keeps.incSat
    | with_reducible apply Keeps.sset
    | with_reducible apply Keeps.when
    | with_reducible apply keeps_autoLoad
    | with_reducible apply keeps_completeLookup
    | with_reducible apply keeps_lookupResult
    | with_reducible apply keeps_recordQuery
    | with_reducible apply keeps_refreshWarm
    | with_reducible apply keeps_requestTiles
    | split
    | intro)
theorem keeps_recordStall {u s : State} (h : Keeps u s) (e : Nat) (m : Nat) : Keeps u (recordStall e m s) := by
  unfold recordStall
  repeat' (first
    | with_reducible assumption
    | with_reducible apply Keeps.set
    | split
    | intro)
theorem keeps_lookupLate {u s : State} (h : Keeps u s) (e : Nat) : Keeps u (lookupLate e s) := by
  unfold lookupLate
  repeat' (first
    | with_reducible assumption
    | (extract_lets -underBinder +onlyGivenNames y; clear_value (hy : y = _); first | refine Keeps.sub (u := u) hy ?_ (fun hk => ?_) | refine Keeps.subA (u := u) hy ?_ (fun hk => ?_) | refine Keeps.subP (u := u) hy ?_ (fun hk => ?_) | clear hy)
    | with_reducible refine Keeps.ite ?_ ?_
    | with_reducible apply Keeps.on
    | with_reducible apply Keeps.incSat
    | with_reducible apply keeps_lookupResult
    | with_reducible apply keeps_recordStall
    | split
    | intro)
theorem keeps_fillNode {u s : State} (h : Keeps u s) (m : Nat) (tile : Nat) (c : Nat) (n : Nat) : Keeps u (fillNode m tile c n s) := by
  unfold fillNode
  repeat' (first
    | with_reducible assumption
    | (extract_lets -underBinder +onlyGivenNames y; clear_value (hy : y = _); first | refine Keeps.sub (u := u) hy ?_ (fun hk => ?_) | refine Keeps.subA (u := u) hy ?_ (fun hk => ?_) | refine Keeps.subP (u := u) hy ?_ (fun hk => ?_) | clear hy)
    | with_reducible refine Keeps.ite ?_ ?_
    | with_reducible apply Keeps.on
    | with_reducible apply Keeps.setBit
    | with_reducible apply Keeps.clrBit
    | with_reducible apply Keeps.writeN
    | split
    | intro)
theorem keeps_serveWaiters {u s : State} (h : Keeps u s) (m : Nat) : Keeps u (serveWaiters m s) := by
  unfold serveWaiters
  repeat' (first
    | with_reducible assumption
    | with_reducible refine Keeps.ite ?_ ?_
    | with_reducible apply Keeps.forEach
    | with_reducible apply keeps_completeLookup
    | with_reducible apply keeps_recordStall
    | split
    | intro)
theorem keeps_tileFill {u s : State} (h : Keeps u s) (m tile : Nat) : Keeps u (tileFill m tile s) := by
  unfold tileFill
  repeat' (first
    | with_reducible assumption
    | (extract_lets -underBinder +onlyGivenNames y; clear_value (hy : y = _); first | refine Keeps.sub (u := u) hy ?_ (fun hk => ?_) | refine Keeps.subA (u := u) hy ?_ (fun hk => ?_) | refine Keeps.subP (u := u) hy ?_ (fun hk => ?_) | clear hy)
    | with_reducible refine Keeps.ite ?_ ?_
    | with_reducible apply Keeps.set
    | with_reducible apply Keeps.clrBit
    | with_reducible apply Keeps.inc
    | with_reducible apply Keeps.forUpTo
    | with_reducible apply keeps_autoLoad
    | with_reducible apply keeps_fillNode
    | with_reducible apply keeps_refreshWarm
    | with_reducible apply keeps_serveWaiters
    | split
    | intro)
theorem keeps_emptyCache {u s : State} (h : Keeps u s) (m : Nat) : Keeps u (emptyCache m s) := by
  unfold emptyCache
  repeat' (first
    | with_reducible assumption
    | with_reducible apply Keeps.set
    | with_reducible apply Keeps.forUpTo
    | split
    | intro)
theorem keeps_chartInval {u s : State} (h : Keeps u s)  : Keeps u (chartInval s) := by
  unfold chartInval
  repeat' (first
    | with_reducible assumption
    | with_reducible apply keeps_refreshWarm
    | with_reducible apply keeps_emptyCache
    | split
    | intro)
theorem keeps_execLoadPpiWrite (w : Who) (p : PlayerIx) (v : Word) (s : State) : ∃ u, execLoadPpiWrite w p v s = .next u ∧ Keeps s u := by
  refine ⟨_, rfl, ?_⟩
  have h := Keeps.refl s
  repeat' (first
    | with_reducible assumption
    | (extract_lets -underBinder +onlyGivenNames y; clear_value (hy : y = _); first | refine Keeps.sub (u := s) hy ?_ (fun hk => ?_) | refine Keeps.subA (u := s) hy ?_ (fun hk => ?_) | refine Keeps.subP (u := s) hy ?_ (fun hk => ?_) | clear hy)
    | with_reducible apply keeps_sideband
    | with_reducible apply keeps_storeWord
    | with_reducible apply keeps_tsCtrlWrite
    | split
    | intro)
theorem keeps_execPageRequest (p : PlayerIx) (ppi : Half) (s : State) : ∃ u, execPageRequest p ppi s = .next u ∧ Keeps s u := by
  refine ⟨_, rfl, ?_⟩
  have h := Keeps.refl s
  repeat' (first
    | with_reducible assumption
    | (extract_lets -underBinder +onlyGivenNames y; clear_value (hy : y = _); first | refine Keeps.sub (u := s) hy ?_ (fun hk => ?_) | refine Keeps.subA (u := s) hy ?_ (fun hk => ?_) | refine Keeps.subP (u := s) hy ?_ (fun hk => ?_) | clear hy)
    | with_reducible refine Keeps.ite ?_ ?_
    | with_reducible apply keeps_autoLoad
    | with_reducible apply keeps_pageRequest
    | split
    | intro)
theorem keeps_execLookupLate (e : EngIx) (s : State) : ∃ u, execLookupLate e s = .next u ∧ Keeps s u := by
  refine ⟨_, rfl, ?_⟩
  have h := Keeps.refl s
  repeat' (first
    | with_reducible assumption
    | with_reducible apply keeps_lookupLate
    | split
    | intro)
theorem keeps_execTileFillComplete (m : Fin 2) (tile : Fin 65536) (s : State) : ∃ u, execTileFillComplete m tile s = .next u ∧ Keeps s u := by
  refine ⟨_, rfl, ?_⟩
  have h := Keeps.refl s
  repeat' (first
    | with_reducible assumption
    | with_reducible apply keeps_tileFill
    | split
    | intro)
theorem keeps_execTileFillClosed  (s : State) : ∃ u, execTileFillClosed s = .next u ∧ Keeps s u := by
  refine ⟨_, rfl, ?_⟩
  have h := Keeps.refl s
  repeat' (first
    | with_reducible assumption
    | with_reducible apply Keeps.on
    | split
    | intro)
theorem keeps_execChartInval (w : Who) (v : Word) (s : State) : ∃ u, execChartInval w v s = .next u ∧ Keeps s u := by
  refine ⟨_, rfl, ?_⟩
  have h := Keeps.refl s
  repeat' (first
    | with_reducible assumption
    | (extract_lets -underBinder +onlyGivenNames y; clear_value (hy : y = _); first | refine Keeps.sub (u := s) hy ?_ (fun hk => ?_) | refine Keeps.subA (u := s) hy ?_ (fun hk => ?_) | refine Keeps.subP (u := s) hy ?_ (fun hk => ?_) | clear hy)
    | with_reducible refine Keeps.ite ?_ ?_
    | with_reducible apply keeps_sideband
    | with_reducible apply keeps_storeWord
    | with_reducible apply keeps_refreshWarm
    | with_reducible apply keeps_chartInval
    | split
    | intro)

end Sys2Proof.Machine
end

