-- ==== Sys2Proof/Laws/KeepsSupervise.lean ====
section
/-!
SUPPORT. The operations of Machine/Supervise.lean keep the canonical forms, the queue and the time.
-/
namespace Sys2Proof.Machine
open Sys2Proof
set_option linter.unreachableTactic false
set_option linter.unusedTactic false

theorem keeps_copySlot {u s : State} (h : Keeps u s) (e : Nat) (a : Nat) (b : Nat) : Keeps u (copySlot e a b s) := by
  unfold copySlot
  repeat' (first
    | with_reducible assumption
    | with_reducible apply Keeps.set
    | with_reducible apply Keeps.forUpTo
    | with_reducible apply Keeps.foldl
    | split
    | intro)
theorem keeps_injTail {u s : State} (h : Keeps u s) (e k : Nat) : Keeps u (injTail e k s) := by
  unfold injTail
  repeat' (first
    | with_reducible assumption
    | with_reducible refine Keeps.ite ?_ ?_
    | with_reducible apply Keeps.off
    | split
    | intro)
theorem keeps_injAbort {u s : State} (h : Keeps u s) (e cause : Nat) : Keeps u (injAbort e cause s) := by
  unfold injAbort
  repeat' (first
    | with_reducible assumption
    | (extract_lets -underBinder +onlyGivenNames y; clear_value (hy : y = _); first | refine Keeps.sub (u := u) hy ?_ (fun hk => ?_) | refine Keeps.subA (u := u) hy ?_ (fun hk => ?_) | refine Keeps.subP (u := u) hy ?_ (fun hk => ?_) | clear hy)
    | with_reducible refine Keeps.ite ?_ ?_
    | with_reducible apply Keeps.set
    | with_reducible apply Keeps.on
    | with_reducible apply Keeps.off
    | with_reducible apply keeps_injTail
    | split
    | intro)
theorem keeps_escalate {u s : State} (h : Keeps u s) (e : Nat) : Keeps u (escalate e s) := by
  unfold escalate
  repeat' (first
    | with_reducible assumption
    | with_reducible apply Keeps.on
    | with_reducible apply keeps_assertSource
    | with_reducible apply keeps_injAbort
    | split
    | intro)
theorem keeps_countSample {u s : State} (h : Keeps u s) (e : Nat) (k : Nat) (fails : Bool) : Keeps u (countSample e k fails s) := by
  unfold countSample
  repeat' (first
    | with_reducible assumption
    | (extract_lets -underBinder +onlyGivenNames y; clear_value (hy : y = _); first | refine Keeps.sub (u := u) hy ?_ (fun hk => ?_) | refine Keeps.subA (u := u) hy ?_ (fun hk => ?_) | refine Keeps.subP (u := u) hy ?_ (fun hk => ?_) | clear hy)
    | with_reducible refine Keeps.ite ?_ ?_
    | with_reducible apply Keeps.set
    | with_reducible apply Keeps.setBit
    | with_reducible apply Keeps.incSat
    | split
    | intro)
theorem keeps_modelStep {u s : State} (h : Keeps u s) (e : Nat) (k : Nat) : Keeps u (modelStep e k s) := by
  unfold modelStep
  repeat' (first
    | with_reducible assumption
    | (extract_lets -underBinder +onlyGivenNames y; clear_value (hy : y = _); first | refine Keeps.sub (u := u) hy ?_ (fun hk => ?_) | refine Keeps.subA (u := u) hy ?_ (fun hk => ?_) | refine Keeps.subP (u := u) hy ?_ (fun hk => ?_) | clear hy)
    | with_reducible refine Keeps.ite ?_ ?_
    | with_reducible apply Keeps.set
    | with_reducible apply Keeps.on
    | with_reducible apply Keeps.sset
    | with_reducible apply keeps_countSample
    | split
    | intro)
theorem keeps_reportViolation {u s : State} (h : Keeps u s) (e : Nat) (k : Nat) : Keeps u (reportViolation e k s) := by
  unfold reportViolation
  repeat' (first
    | with_reducible assumption
    | with_reducible apply Keeps.send
    | split
    | intro)
theorem keeps_holdU {u s : State} (h : Keeps u s) (e k : Nat) : Keeps u (holdU e k s) := by
  unfold holdU
  repeat' (first
    | with_reducible assumption
    | (extract_lets -underBinder +onlyGivenNames y; clear_value (hy : y = _); first | refine Keeps.sub (u := u) hy ?_ (fun hk => ?_) | refine Keeps.subA (u := u) hy ?_ (fun hk => ?_) | refine Keeps.subP (u := u) hy ?_ (fun hk => ?_) | clear hy)
    | with_reducible refine Keeps.ite ?_ ?_
    | with_reducible apply Keeps.set
    | with_reducible apply Keeps.on
    | with_reducible apply Keeps.setBit
    | with_reducible apply Keeps.sset
    | split
    | intro)
theorem keeps_trcSee {u s : State} (h : Keeps u s) (e n : Nat) : Keeps u (trcSee e n s) := by
  unfold trcSee
  repeat' (first
    | with_reducible assumption
    | with_reducible refine Keeps.ite ?_ ?_
    | with_reducible apply Keeps.on
    | with_reducible apply Keeps.off
    | split
    | intro)
theorem keeps_chgStop {u s : State} (h : Keeps u s) : Keeps u (chgStop s) := by
  unfold chgStop
  repeat' (first
    | with_reducible assumption
    | with_reducible refine Keeps.ite ?_ ?_
    | with_reducible apply Keeps.set
    | with_reducible apply Keeps.on
    | with_reducible apply Keeps.send
    | split
    | intro)
theorem keeps_chgEnd {u s : State} (h : Keeps u s) (code : Nat) : Keeps u (chgEnd code s) := by
  unfold chgEnd
  repeat' (first
    | with_reducible assumption
    | (extract_lets -underBinder +onlyGivenNames y; clear_value (hy : y = _); first | refine Keeps.sub (u := u) hy ?_ (fun hk => ?_) | refine Keeps.subA (u := u) hy ?_ (fun hk => ?_) | refine Keeps.subP (u := u) hy ?_ (fun hk => ?_) | clear hy)
    | with_reducible refine Keeps.ite ?_ ?_
    | with_reducible apply Keeps.set
    | with_reducible apply Keeps.off
    | with_reducible apply Keeps.when
    | with_reducible apply keeps_chgStop
    | split
    | intro)
theorem keeps_gridSequence {u s : State} (h : Keeps u s) (e k : Nat) : Keeps u (gridSequence e k s) := by
  unfold gridSequence
  repeat' (first
    | with_reducible assumption
    | with_reducible refine Keeps.ite ?_ ?_
    | with_reducible apply keeps_chgEnd
    | split
    | intro)
theorem keeps_plausibilityViolation {u s : State} (h : Keeps u s) (e k : Nat) : Keeps u (plausibilityViolation e k s) := by
  unfold plausibilityViolation
  repeat' (first
    | with_reducible assumption
    | (extract_lets -underBinder +onlyGivenNames y; clear_value (hy : y = _); first | refine Keeps.sub (u := u) hy ?_ (fun hk => ?_) | refine Keeps.subA (u := u) hy ?_ (fun hk => ?_) | refine Keeps.subP (u := u) hy ?_ (fun hk => ?_) | clear hy)
    | with_reducible refine Keeps.ite ?_ ?_
    | with_reducible apply Keeps.on
    | with_reducible apply Keeps.clrBit
    | with_reducible apply Keeps.when
    | with_reducible apply keeps_escalate
    | with_reducible apply keeps_gridSequence
    | with_reducible apply keeps_holdU
    | with_reducible apply keeps_reportViolation
    | with_reducible apply keeps_trcSee
    | split
    | intro)
theorem keeps_holdRelease {u s : State} (h : Keeps u s) (e : Nat) (k : Nat) : Keeps u (holdRelease e k s) := by
  unfold holdRelease
  repeat' (first
    | with_reducible assumption
    | with_reducible refine Keeps.ite ?_ ?_
    | with_reducible apply Keeps.set
    | with_reducible apply Keeps.off
    | with_reducible apply Keeps.clrBit
    | split
    | intro)
theorem keeps_primingEnd {u s : State} (h : Keeps u s) (e : Nat) (k : Nat) : Keeps u (primingEnd e k s) := by
  unfold primingEnd
  repeat' (first
    | with_reducible assumption
    | with_reducible refine Keeps.ite ?_ ?_
    | with_reducible apply Keeps.off
    | with_reducible apply Keeps.clrBit
    | split
    | intro)
theorem keeps_commitHistory {u s : State} (h : Keeps u s) (e k : Nat) : Keeps u (commitHistory e k s) := by
  unfold commitHistory
  repeat' (first
    | with_reducible assumption
    | (extract_lets -underBinder +onlyGivenNames y; clear_value (hy : y = _); first | refine Keeps.sub (u := u) hy ?_ (fun hk => ?_) | refine Keeps.subA (u := u) hy ?_ (fun hk => ?_) | refine Keeps.subP (u := u) hy ?_ (fun hk => ?_) | clear hy)
    | with_reducible refine Keeps.ite ?_ ?_
    | with_reducible apply Keeps.set
    | with_reducible apply Keeps.on
    | with_reducible apply Keeps.setBit
    | with_reducible apply Keeps.when
    | split
    | intro)
theorem keeps_sineStep {u s : State} (h : Keeps u s) (e : Nat) : Keeps u (sineStep e s) := by
  unfold sineStep
  repeat' (first
    | with_reducible assumption
    | (extract_lets -underBinder +onlyGivenNames y; clear_value (hy : y = _); first | refine Keeps.sub (u := u) hy ?_ (fun hk => ?_) | refine Keeps.subA (u := u) hy ?_ (fun hk => ?_) | refine Keeps.subP (u := u) hy ?_ (fun hk => ?_) | clear hy)
    | with_reducible apply Keeps.set
    | with_reducible apply Keeps.sset
    | with_reducible apply Keeps.free
    | split
    | intro)
theorem keeps_injSignal {u s : State} (h : Keeps u s) (e : Nat) : Keeps u (injSignal e s) := by
  unfold injSignal
  repeat' (first
    | with_reducible assumption
    | (extract_lets -underBinder +onlyGivenNames y; clear_value (hy : y = _); first | refine Keeps.sub (u := u) hy ?_ (fun hk => ?_) | refine Keeps.subA (u := u) hy ?_ (fun hk => ?_) | refine Keeps.subP (u := u) hy ?_ (fun hk => ?_) | clear hy)
    | with_reducible refine Keeps.ite ?_ ?_
    | with_reducible apply Keeps.set
    | with_reducible apply Keeps.sset
    | with_reducible apply keeps_sineStep
    | split
    | intro)
theorem keeps_prbsShift {u s : State} (h : Keeps u s) (e : Nat) : Keeps u (prbsShift e s) := by
  unfold prbsShift
  repeat' (first
    | with_reducible assumption
    | (extract_lets -underBinder +onlyGivenNames y; clear_value (hy : y = _); first | refine Keeps.sub (u := u) hy ?_ (fun hk => ?_) | refine Keeps.subA (u := u) hy ?_ (fun hk => ?_) | refine Keeps.subP (u := u) hy ?_ (fun hk => ?_) | clear hy)
    | with_reducible refine Keeps.ite ?_ ?_
    | with_reducible apply Keeps.set
    | with_reducible apply Keeps.off
    | with_reducible apply Keeps.inc
    | split
    | intro)
theorem keeps_chirpAdvance {u s : State} (h : Keeps u s) (e : Nat) : Keeps u (chirpAdvance e s) := by
  unfold chirpAdvance
  repeat' (first
    | with_reducible assumption
    | (extract_lets -underBinder +onlyGivenNames y; clear_value (hy : y = _); first | refine Keeps.sub (u := u) hy ?_ (fun hk => ?_) | refine Keeps.subA (u := u) hy ?_ (fun hk => ?_) | refine Keeps.subP (u := u) hy ?_ (fun hk => ?_) | clear hy)
    | with_reducible refine Keeps.ite ?_ ?_
    | with_reducible apply Keeps.inc
    | with_reducible apply Keeps.sset
    | with_reducible apply Keeps.free
    | split
    | intro)
theorem keeps_injAct {u s : State} (h : Keeps u s) (e k : Nat) : Keeps u (injAct e k s) := by
  unfold injAct
  repeat' (first
    | with_reducible assumption
    | with_reducible apply Keeps.setB
    | with_reducible apply Keeps.on
    | split
    | intro)
theorem keeps_injSample {u s : State} (h : Keeps u s) (e k : Nat) : Keeps u (injSample e k s) := by
  unfold injSample
  repeat' (first
    | with_reducible assumption
    | (extract_lets -underBinder +onlyGivenNames y; clear_value (hy : y = _); first | refine Keeps.sub (u := u) hy ?_ (fun hk => ?_) | refine Keeps.subA (u := u) hy ?_ (fun hk => ?_) | refine Keeps.subP (u := u) hy ?_ (fun hk => ?_) | clear hy)
    | with_reducible refine Keeps.ite ?_ ?_
    | with_reducible apply Keeps.set
    | with_reducible apply Keeps.on
    | with_reducible apply Keeps.off
    | with_reducible apply Keeps.inc
    | with_reducible apply keeps_chirpAdvance
    | with_reducible apply keeps_injAbort
    | with_reducible apply keeps_injAct
    | with_reducible apply keeps_injSignal
    | with_reducible apply keeps_injTail
    | with_reducible apply keeps_prbsShift
    | with_reducible apply keeps_trcSee
    | split
    | intro)
theorem keeps_injStart {u s : State} (h : Keeps u s) (e : Nat) : Keeps u (injStart e s) := by
  unfold injStart
  repeat' (first
    | with_reducible assumption
    | (extract_lets -underBinder +onlyGivenNames y; clear_value (hy : y = _); first | refine Keeps.sub (u := u) hy ?_ (fun hk => ?_) | refine Keeps.subA (u := u) hy ?_ (fun hk => ?_) | refine Keeps.subP (u := u) hy ?_ (fun hk => ?_) | clear hy)
    | with_reducible refine Keeps.ite ?_ ?_
    | with_reducible apply Keeps.set
    | with_reducible apply Keeps.on
    | with_reducible apply Keeps.when
    | split
    | intro)
theorem keeps_injDone {u s : State} (h : Keeps u s) (e : Nat) : Keeps u (injDone e s) := by
  unfold injDone
  repeat' (first
    | with_reducible assumption
    | (extract_lets -underBinder +onlyGivenNames y; clear_value (hy : y = _); first | refine Keeps.sub (u := u) hy ?_ (fun hk => ?_) | refine Keeps.subA (u := u) hy ?_ (fun hk => ?_) | refine Keeps.subP (u := u) hy ?_ (fun hk => ?_) | clear hy)
    | with_reducible refine Keeps.ite ?_ ?_
    | with_reducible apply Keeps.on
    | with_reducible apply Keeps.off
    | with_reducible apply keeps_injTail
    | split
    | intro)
theorem keeps_permitClear {u s : State} (h : Keeps u s) (e : Nat) : Keeps u (permitClear e s) := by
  unfold permitClear
  repeat' (first
    | with_reducible assumption
    | with_reducible apply Keeps.set
    | with_reducible apply Keeps.clrBit
    | with_reducible apply Keeps.when
    | split
    | intro)
theorem keeps_clearPermits {u s : State} (h : Keeps u s) : Keeps u (clearPermits s) := by
  unfold clearPermits
  repeat' (first
    | with_reducible assumption
    | with_reducible refine Keeps.ite ?_ ?_
    | with_reducible apply Keeps.forUpTo
    | with_reducible apply keeps_permitClear
    | split
    | intro)
theorem keeps_trcFire {u s : State} (h : Keeps u s) (e : Nat) : Keeps u (trcFire e s) := by
  unfold trcFire
  repeat' (first
    | with_reducible assumption
    | with_reducible apply Keeps.set
    | with_reducible apply Keeps.on
    | with_reducible apply Keeps.off
    | split
    | intro)
theorem keeps_trcOpen {u s : State} (h : Keeps u s) (e : Nat) : Keeps u (trcOpen e s) := by
  unfold trcOpen
  repeat' (first
    | with_reducible assumption
    | (extract_lets -underBinder +onlyGivenNames y; clear_value (hy : y = _); first | refine Keeps.sub (u := u) hy ?_ (fun hk => ?_) | refine Keeps.subA (u := u) hy ?_ (fun hk => ?_) | refine Keeps.subP (u := u) hy ?_ (fun hk => ?_) | clear hy)
    | with_reducible apply Keeps.set
    | with_reducible apply Keeps.setB
    | with_reducible apply Keeps.off
    | with_reducible apply Keeps.writeN
    | with_reducible apply Keeps.withMem
    | split
    | intro)
theorem keeps_trcClose {u s : State} (h : Keeps u s) (e : Nat) : Keeps u (trcClose e s) := by
  unfold trcClose
  repeat' (first
    | with_reducible assumption
    | (extract_lets -underBinder +onlyGivenNames y; clear_value (hy : y = _); first | refine Keeps.sub (u := u) hy ?_ (fun hk => ?_) | refine Keeps.subA (u := u) hy ?_ (fun hk => ?_) | refine Keeps.subP (u := u) hy ?_ (fun hk => ?_) | clear hy)
    | with_reducible apply Keeps.set
    | with_reducible apply Keeps.on
    | with_reducible apply Keeps.off
    | with_reducible apply Keeps.setBit
    | with_reducible apply Keeps.when
    | split
    | intro)
theorem keeps_trcFinish {u s : State} (h : Keeps u s) (e : Nat) : Keeps u (trcFinish e s) := by
  unfold trcFinish
  repeat' (first
    | with_reducible assumption
    | (extract_lets -underBinder +onlyGivenNames y; clear_value (hy : y = _); first | refine Keeps.sub (u := u) hy ?_ (fun hk => ?_) | refine Keeps.subA (u := u) hy ?_ (fun hk => ?_) | refine Keeps.subP (u := u) hy ?_ (fun hk => ?_) | clear hy)
    | with_reducible apply Keeps.set
    | with_reducible apply Keeps.off
    | split
    | intro)
theorem keeps_trcFresh {u s : State} (h : Keeps u s) (e : Nat) : Keeps u (trcFresh e s) := by
  unfold trcFresh
  repeat' (first
    | with_reducible assumption
    | with_reducible refine Keeps.ite ?_ ?_
    | with_reducible apply Keeps.set
    | with_reducible apply Keeps.off
    | split
    | intro)
theorem keeps_trcRecord {u s : State} (h : Keeps u s) (e k : Nat) (trig miss : Bool) : Keeps u (trcRecord e k trig miss s) := by
  unfold trcRecord
  repeat' (first
    | with_reducible assumption
    | (extract_lets -underBinder +onlyGivenNames y; clear_value (hy : y = _); first | refine Keeps.sub (u := u) hy ?_ (fun hk => ?_) | refine Keeps.subA (u := u) hy ?_ (fun hk => ?_) | refine Keeps.subP (u := u) hy ?_ (fun hk => ?_) | clear hy)
    | with_reducible refine Keeps.ite ?_ ?_
    | with_reducible apply Keeps.set
    | with_reducible apply Keeps.inc
    | with_reducible apply Keeps.when
    | with_reducible apply Keeps.forUpTo
    | with_reducible apply Keeps.writeN
    | with_reducible apply keeps_trcClose
    | split
    | intro)
theorem keeps_trcCapture {u s : State} (h : Keeps u s) (e k : Nat) (miss : Bool) : Keeps u (trcCapture e k miss s) := by
  unfold trcCapture
  repeat' (first
    | with_reducible assumption
    | (extract_lets -underBinder +onlyGivenNames y; clear_value (hy : y = _); first | refine Keeps.sub (u := u) hy ?_ (fun hk => ?_) | refine Keeps.subA (u := u) hy ?_ (fun hk => ?_) | refine Keeps.subP (u := u) hy ?_ (fun hk => ?_) | clear hy)
    | with_reducible refine Keeps.ite ?_ ?_
    | with_reducible apply Keeps.set
    | with_reducible apply Keeps.on
    | with_reducible apply Keeps.incSat
    | with_reducible apply Keeps.when
    | with_reducible apply keeps_trcFinish
    | with_reducible apply keeps_trcFire
    | with_reducible apply keeps_trcOpen
    | with_reducible apply keeps_trcRecord
    | split
    | intro)
theorem keeps_trcSample {u s : State} (h : Keeps u s) (e : Nat) (k : Nat) (miss : Bool) : Keeps u (trcSample e k miss s) := by
  unfold trcSample
  repeat' (first
    | with_reducible assumption
    | (extract_lets -underBinder +onlyGivenNames y; clear_value (hy : y = _); first | refine Keeps.sub (u := u) hy ?_ (fun hk => ?_) | refine Keeps.subA (u := u) hy ?_ (fun hk => ?_) | refine Keeps.subP (u := u) hy ?_ (fun hk => ?_) | clear hy)
    | with_reducible refine Keeps.ite ?_ ?_
    | with_reducible apply Keeps.set
    | with_reducible apply keeps_trcCapture
    | split
    | intro)

end Sys2Proof.Machine
end

