-- ==== Sys2Proof/Laws/KeepsLoop.lean ====
section
/-!
SUPPORT. The operations of Machine/Loop.lean keep the canonical forms, the queue and the time.
-/
namespace Sys2Proof.Machine
open Sys2Proof
set_option linter.unreachableTactic false
set_option linter.unusedTactic false

theorem keeps_dropSample {u s : State} (h : Keeps u s) (e : Nat) : Keeps u (dropSample e s) := by
  unfold dropSample
  repeat' (first
    | with_reducible assumption
    | with_reducible apply Keeps.off
    | with_reducible apply Keeps.forUpTo
    | with_reducible apply keeps_injTail
    | split
    | intro)
theorem keeps_swapBank {u s : State} (h : Keeps u s) (e : Nat) : Keeps u (swapBank e s) := by
  unfold swapBank
  repeat' (first
    | with_reducible assumption
    | with_reducible apply Keeps.set
    | with_reducible apply Keeps.off
    | split
    | intro)
theorem keeps_dropOccurrences {u s : State} (h : Keeps u s) (e : Nat) : Keeps u (dropOccurrences e s) := by
  unfold dropOccurrences
  repeat' (first
    | with_reducible assumption
    | with_reducible apply Keeps.off
    | split
    | intro)
theorem keeps_engineOff {u s : State} (h : Keeps u s) (e : Nat) : Keeps u (engineOff e s) := by
  unfold engineOff
  repeat' (first
    | with_reducible assumption
    | (extract_lets -underBinder +onlyGivenNames y; clear_value (hy : y = _); first | refine Keeps.sub (u := u) hy ?_ (fun hk => ?_) | refine Keeps.subA (u := u) hy ?_ (fun hk => ?_) | refine Keeps.subP (u := u) hy ?_ (fun hk => ?_) | clear hy)
    | with_reducible apply Keeps.set
    | with_reducible apply Keeps.off
    | with_reducible apply Keeps.when
    | with_reducible apply keeps_deassertSource
    | with_reducible apply keeps_dropOccurrences
    | with_reducible apply keeps_dropSample
    | with_reducible apply keeps_injAbort
    | with_reducible apply keeps_swapBank
    | split
    | intro)
theorem keeps_engineFault {u s : State} (h : Keeps u s) (e : Nat) (flag : LoopFld) : Keeps u (engineFault e flag s) := by
  unfold engineFault
  repeat' (first
    | with_reducible assumption
    | (extract_lets -underBinder +onlyGivenNames y; clear_value (hy : y = _); first | refine Keeps.sub (u := u) hy ?_ (fun hk => ?_) | refine Keeps.subA (u := u) hy ?_ (fun hk => ?_) | refine Keeps.subP (u := u) hy ?_ (fun hk => ?_) | clear hy)
    | with_reducible apply Keeps.set
    | with_reducible apply Keeps.on
    | with_reducible apply keeps_dropOccurrences
    | with_reducible apply keeps_dropSample
    | with_reducible apply keeps_escalate
    | split
    | intro)
theorem keeps_occDue {u s : State} (h : Keeps u s) (e q at_ : Nat) : Keeps u (occDue e q at_ s) := by
  unfold occDue
  repeat' (first
    | with_reducible assumption
    | (extract_lets -underBinder +onlyGivenNames y; clear_value (hy : y = _); first | refine Keeps.sub (u := u) hy ?_ (fun hk => ?_) | refine Keeps.subA (u := u) hy ?_ (fun hk => ?_) | refine Keeps.subP (u := u) hy ?_ (fun hk => ?_) | clear hy)
    | with_reducible apply Keeps.set
    | with_reducible apply Keeps.setBit
    | with_reducible apply Keeps.clrBit
    | with_reducible apply Keeps.when
    | split
    | intro)
theorem keeps_occEnd {u s : State} (h : Keeps u s) (e q : Nat) : Keeps u (occEnd e q s) := by
  unfold occEnd
  repeat' (first
    | with_reducible assumption
    | (extract_lets -underBinder +onlyGivenNames y; clear_value (hy : y = _); first | refine Keeps.sub (u := u) hy ?_ (fun hk => ?_) | refine Keeps.subA (u := u) hy ?_ (fun hk => ?_) | refine Keeps.subP (u := u) hy ?_ (fun hk => ?_) | clear hy)
    | with_reducible refine Keeps.ite ?_ ?_
    | with_reducible apply Keeps.set
    | with_reducible apply Keeps.setBit
    | with_reducible apply Keeps.clrBit
    | with_reducible apply keeps_occDue
    | split
    | intro)
theorem keeps_takeApply {u s : State} (h : Keeps u s) (e : Nat) (k : Nat) (a : Nat) : Keeps u (takeApply e k a s) := by
  unfold takeApply
  repeat' (first
    | with_reducible assumption
    | (extract_lets -underBinder +onlyGivenNames y; clear_value (hy : y = _); first | refine Keeps.sub (u := u) hy ?_ (fun hk => ?_) | refine Keeps.subA (u := u) hy ?_ (fun hk => ?_) | refine Keeps.subP (u := u) hy ?_ (fun hk => ?_) | clear hy)
    | with_reducible apply Keeps.on
    | with_reducible apply Keeps.off
    | with_reducible apply Keeps.when
    | with_reducible apply keeps_copySlot
    | with_reducible apply keeps_injAbort
    | split
    | intro)
theorem keeps_firstSample {u s : State} (h : Keeps u s) (e : Nat) (k : Nat) : Keeps u (firstSample e k s) := by
  unfold firstSample
  repeat' (first
    | with_reducible assumption
    | (extract_lets -underBinder +onlyGivenNames y; clear_value (hy : y = _); first | refine Keeps.sub (u := u) hy ?_ (fun hk => ?_) | refine Keeps.subA (u := u) hy ?_ (fun hk => ?_) | refine Keeps.subP (u := u) hy ?_ (fun hk => ?_) | clear hy)
    | with_reducible apply Keeps.set
    | with_reducible apply Keeps.on
    | with_reducible apply Keeps.off
    | with_reducible apply Keeps.clrBit
    | with_reducible apply Keeps.sset
    | split
    | intro)
theorem keeps_stageSlot {u s : State} (h : Keeps u s) (e k : Nat) : Keeps u (stageSlot e k s) := by
  unfold stageSlot
  repeat' (first
    | with_reducible assumption
    | (extract_lets -underBinder +onlyGivenNames y; clear_value (hy : y = _); first | refine Keeps.sub (u := u) hy ?_ (fun hk => ?_) | refine Keeps.subA (u := u) hy ?_ (fun hk => ?_) | refine Keeps.subP (u := u) hy ?_ (fun hk => ?_) | refine Keeps.subF (u := u) hy (fun t ht => ?_) (fun hk => ?_) | refine Keeps.subF1 (u := u) hy (fun a t ht => ?_) (fun hk => ?_) | refine Keeps.subF2 (u := u) hy (fun a b t ht => ?_) (fun hk => ?_) | refine Keeps.subG1 (u := u) hy (fun a => ?_) (fun hk => ?_) | refine Keeps.subG2 (u := u) hy (fun a b => ?_) (fun hk => ?_) | clear hy)
    | with_reducible apply Keeps.set
    | with_reducible apply Keeps.off
    | with_reducible apply_assumption
    | split
    | intro)
theorem keeps_startSample {u s : State} (h : Keeps u s) (e i k : Nat) : Keeps u (startSample e i k s) := by
  unfold startSample
  repeat' (first
    | with_reducible assumption
    | (extract_lets -underBinder +onlyGivenNames y; clear_value (hy : y = _); first | refine Keeps.sub (u := u) hy ?_ (fun hk => ?_) | refine Keeps.subA (u := u) hy ?_ (fun hk => ?_) | refine Keeps.subP (u := u) hy ?_ (fun hk => ?_) | clear hy)
    | with_reducible refine Keeps.ite ?_ ?_
    | with_reducible apply Keeps.set
    | with_reducible apply Keeps.on
    | with_reducible apply Keeps.off
    | with_reducible apply Keeps.sset
    | with_reducible apply Keeps.setFree
    | with_reducible apply Keeps.when
    | with_reducible apply Keeps.forUpTo
    | with_reducible apply keeps_firstSample
    | with_reducible apply keeps_injSample
    | with_reducible apply keeps_primingEnd
    | with_reducible apply keeps_stageSlot
    | split
    | intro)
theorem keeps_cascadeTo {u s : State} (h : Keeps u s) (e : Nat) (src : Nat) (v : Nat) : Keeps u (cascadeTo e src v s) := by
  unfold cascadeTo
  repeat' (first
    | with_reducible assumption
    | with_reducible refine Keeps.ite ?_ ?_
    | with_reducible apply Keeps.set
    | with_reducible apply Keeps.forUpTo
    | split
    | intro)
theorem keeps_writePort {u s : State} (h : Keeps u s) (e p v : Nat) : Keeps u (writePort e p v s) := by
  unfold writePort
  repeat' (first
    | with_reducible assumption
    | (extract_lets -underBinder +onlyGivenNames y; clear_value (hy : y = _); first | refine Keeps.sub (u := u) hy ?_ (fun hk => ?_) | refine Keeps.subA (u := u) hy ?_ (fun hk => ?_) | refine Keeps.subP (u := u) hy ?_ (fun hk => ?_) | clear hy)
    | with_reducible refine Keeps.ite ?_ ?_
    | with_reducible apply Keeps.set
    | with_reducible apply Keeps.on
    | with_reducible apply Keeps.send
    | with_reducible apply keeps_sourceSent
    | split
    | intro)
theorem keeps_resolveLowest {u s : State} (h : Keeps u s) (e : Nat) (g : Nat) : Keeps u (resolveLowest e g s) := by
  unfold resolveLowest
  repeat' (first
    | with_reducible assumption
    | (extract_lets -underBinder +onlyGivenNames y; clear_value (hy : y = _); first | refine Keeps.sub (u := u) hy ?_ (fun hk => ?_) | refine Keeps.subA (u := u) hy ?_ (fun hk => ?_) | refine Keeps.subP (u := u) hy ?_ (fun hk => ?_) | clear hy)
    | with_reducible refine Keeps.ite ?_ ?_
    | with_reducible apply Keeps.setB
    | with_reducible apply Keeps.sset
    | with_reducible apply Keeps.when
    | with_reducible apply Keeps.forUpTo
    | with_reducible apply keeps_cascadeTo
    | with_reducible apply keeps_writePort
    | split
    | intro)
theorem keeps_slotEnded {u s : State} (h : Keeps u s) (e k : Nat) (missed : Bool) : Keeps u (slotEnded e k missed s) := by
  unfold slotEnded
  repeat' (first
    | with_reducible assumption
    | (extract_lets -underBinder +onlyGivenNames y; clear_value (hy : y = _); first | refine Keeps.sub (u := u) hy ?_ (fun hk => ?_) | refine Keeps.subA (u := u) hy ?_ (fun hk => ?_) | refine Keeps.subP (u := u) hy ?_ (fun hk => ?_) | clear hy)
    | with_reducible refine Keeps.ite ?_ ?_
    | with_reducible apply Keeps.clrBit
    | with_reducible apply Keeps.putBit
    | with_reducible apply keeps_resolveLowest
    | split
    | intro)
theorem keeps_startNext {u s : State} (h : Keeps u s) (e : Nat) (n_ : Nat) : Keeps u (startNext e s n_) := by
  induction n_ generalizing s with
  | zero =>
    unfold startNext
    repeat' (first
      | with_reducible assumption
      | (extract_lets -underBinder +onlyGivenNames y; clear_value (hy : y = _); first | refine Keeps.sub (u := u) hy ?_ (fun hk => ?_) | refine Keeps.subA (u := u) hy ?_ (fun hk => ?_) | refine Keeps.subP (u := u) hy ?_ (fun hk => ?_) | clear hy)
      | with_reducible refine Keeps.ite ?_ ?_
      | with_reducible apply Keeps.clrBit
      | with_reducible apply Keeps.when
      | with_reducible apply keeps_occEnd
      | with_reducible apply keeps_slotEnded
      | with_reducible apply keeps_startSample
      | with_reducible apply keeps_takeApply
      | split
      | intro)
  | succ n_ ih =>
    unfold startNext
    repeat' (first
      | with_reducible assumption
      | (extract_lets -underBinder +onlyGivenNames y; clear_value (hy : y = _); first | refine Keeps.sub (u := u) hy ?_ (fun hk => ?_) | refine Keeps.subA (u := u) hy ?_ (fun hk => ?_) | refine Keeps.subP (u := u) hy ?_ (fun hk => ?_) | clear hy)
      | with_reducible refine Keeps.ite ?_ ?_
      | with_reducible apply Keeps.clrBit
      | with_reducible apply Keeps.when
      | with_reducible apply keeps_occEnd
      | with_reducible apply keeps_slotEnded
      | with_reducible apply keeps_startSample
      | with_reducible apply keeps_takeApply
      | with_reducible apply ih
      | split
      | intro)
theorem keeps_missEntry {u s : State} (h : Keeps u s) (e q : Nat) (late : Bool) : Keeps u (missEntry e q late s) := by
  unfold missEntry
  repeat' (first
    | with_reducible assumption
    | (extract_lets -underBinder +onlyGivenNames y; clear_value (hy : y = _); first | refine Keeps.sub (u := u) hy ?_ (fun hk => ?_) | refine Keeps.subA (u := u) hy ?_ (fun hk => ?_) | refine Keeps.subP (u := u) hy ?_ (fun hk => ?_) | clear hy)
    | with_reducible refine Keeps.ite ?_ ?_
    | with_reducible apply Keeps.set
    | with_reducible apply Keeps.on
    | with_reducible apply Keeps.incSat
    | with_reducible apply Keeps.when
    | with_reducible apply keeps_dropSample
    | with_reducible apply keeps_occEnd
    | with_reducible apply keeps_slotEnded
    | with_reducible apply keeps_trcSample
    | with_reducible apply keeps_trcSee
    | split
    | intro)
theorem keeps_trigger {u s : State} (h : Keeps u s) (e q : Nat) : Keeps u (trigger e q s) := by
  unfold trigger
  repeat' (first
    | with_reducible assumption
    | with_reducible apply Keeps.set
    | with_reducible apply Keeps.setBit
    | with_reducible apply Keeps.clrBit
    | with_reducible apply keeps_startNext
    | split
    | intro)
theorem keeps_sampleTrigger {u s : State} (h : Keeps u s) (e i : Nat) : Keeps u (sampleTrigger e i s) := by
  unfold sampleTrigger
  repeat' (first
    | with_reducible assumption
    | (extract_lets -underBinder +onlyGivenNames y; clear_value (hy : y = _); first | refine Keeps.sub (u := u) hy ?_ (fun hk => ?_) | refine Keeps.subA (u := u) hy ?_ (fun hk => ?_) | refine Keeps.subP (u := u) hy ?_ (fun hk => ?_) | clear hy)
    | with_reducible refine Keeps.ite ?_ ?_
    | with_reducible apply keeps_missEntry
    | with_reducible apply keeps_trigger
    | split
    | intro)
theorem keeps_entryDue {u s : State} (h : Keeps u s) (e q : Nat) : Keeps u (entryDue e q s) := by
  unfold entryDue
  repeat' (first
    | with_reducible assumption
    | (extract_lets -underBinder +onlyGivenNames y; clear_value (hy : y = _); first | refine Keeps.sub (u := u) hy ?_ (fun hk => ?_) | refine Keeps.subA (u := u) hy ?_ (fun hk => ?_) | refine Keeps.subP (u := u) hy ?_ (fun hk => ?_) | clear hy)
    | with_reducible refine Keeps.ite ?_ ?_
    | with_reducible apply Keeps.set
    | with_reducible apply Keeps.setBit
    | with_reducible apply Keeps.when
    | with_reducible apply keeps_missEntry
    | with_reducible apply keeps_occDue
    | split
    | intro)
theorem keeps_frameBoundary {u s : State} (h : Keeps u s) (e : Nat) : Keeps u (frameBoundary e s) := by
  unfold frameBoundary
  repeat' (first
    | with_reducible assumption
    | (extract_lets -underBinder +onlyGivenNames y; clear_value (hy : y = _); first | refine Keeps.sub (u := u) hy ?_ (fun hk => ?_) | refine Keeps.subA (u := u) hy ?_ (fun hk => ?_) | refine Keeps.subP (u := u) hy ?_ (fun hk => ?_) | clear hy)
    | with_reducible refine Keeps.ite ?_ ?_
    | with_reducible apply Keeps.set
    | with_reducible apply Keeps.on
    | with_reducible apply Keeps.off
    | with_reducible apply Keeps.inc
    | with_reducible apply Keeps.when
    | with_reducible apply Keeps.forEach
    | with_reducible apply Keeps.forUpTo
    | with_reducible apply Keeps.foldl
    | with_reducible apply keeps_entryDue
    | with_reducible apply keeps_startNext
    | with_reducible apply keeps_swapBank
    | split
    | intro)
theorem keeps_afterSample {u s : State} (h : Keeps u s) (e : Nat) : Keeps u (afterSample e s) := by
  unfold afterSample
  repeat' (first
    | with_reducible assumption
    | with_reducible refine Keeps.ite ?_ ?_
    | with_reducible apply keeps_engineOff
    | with_reducible apply keeps_startNext
    | split
    | intro)
theorem keeps_commitSlot {u s : State} (h : Keeps u s) (e k : Nat) : Keeps u (commitSlot e k s) := by
  unfold commitSlot
  repeat' (first
    | with_reducible assumption
    | (extract_lets -underBinder +onlyGivenNames y; clear_value (hy : y = _); first | refine Keeps.sub (u := u) hy ?_ (fun hk => ?_) | refine Keeps.subA (u := u) hy ?_ (fun hk => ?_) | refine Keeps.subP (u := u) hy ?_ (fun hk => ?_) | refine Keeps.subF (u := u) hy (fun t ht => ?_) (fun hk => ?_) | refine Keeps.subF1 (u := u) hy (fun a t ht => ?_) (fun hk => ?_) | refine Keeps.subF2 (u := u) hy (fun a b t ht => ?_) (fun hk => ?_) | refine Keeps.subG1 (u := u) hy (fun a => ?_) (fun hk => ?_) | refine Keeps.subG2 (u := u) hy (fun a b => ?_) (fun hk => ?_) | clear hy)
    | with_reducible apply Keeps.set
    | with_reducible apply Keeps.off
    | with_reducible apply Keeps.when
    | with_reducible apply_assumption
    | split
    | intro)
theorem keeps_commitPorts {u s : State} (h : Keeps u s) (e k beg : Nat) : Keeps u (commitPorts e k beg s) := by
  unfold commitPorts
  repeat' (first
    | with_reducible assumption
    | (extract_lets -underBinder +onlyGivenNames y; clear_value (hy : y = _); first | refine Keeps.sub (u := u) hy ?_ (fun hk => ?_) | refine Keeps.subA (u := u) hy ?_ (fun hk => ?_) | refine Keeps.subP (u := u) hy ?_ (fun hk => ?_) | clear hy)
    | with_reducible refine Keeps.ite ?_ ?_
    | with_reducible apply Keeps.off
    | with_reducible apply Keeps.forUpTo
    | with_reducible apply keeps_writePort
    | split
    | intro)
theorem keeps_sampleEnd {u s : State} (h : Keeps u s) (e : Nat) : Keeps u (sampleEnd e s) := by
  unfold sampleEnd
  repeat' (first
    | with_reducible assumption
    | (extract_lets -underBinder +onlyGivenNames y; clear_value (hy : y = _); first | refine Keeps.sub (u := u) hy ?_ (fun hk => ?_) | refine Keeps.subA (u := u) hy ?_ (fun hk => ?_) | refine Keeps.subP (u := u) hy ?_ (fun hk => ?_) | clear hy)
    | with_reducible refine Keeps.ite ?_ ?_
    | with_reducible apply Keeps.off
    | with_reducible apply Keeps.forUpTo
    | with_reducible apply keeps_afterSample
    | with_reducible apply keeps_cascadeTo
    | with_reducible apply keeps_commitHistory
    | with_reducible apply keeps_commitPorts
    | with_reducible apply keeps_commitSlot
    | with_reducible apply keeps_holdRelease
    | with_reducible apply keeps_injTail
    | with_reducible apply keeps_modelStep
    | with_reducible apply keeps_occEnd
    | with_reducible apply keeps_plausibilityViolation
    | with_reducible apply keeps_slotEnded
    | with_reducible apply keeps_trcSample
    | split
    | intro)
theorem keeps_missLimit {u s : State} (h : Keeps u s) (e : Nat) (k : Nat) : Keeps u (missLimit e k s) := by
  unfold missLimit
  repeat' (first
    | with_reducible assumption
    | with_reducible refine Keeps.ite ?_ ?_
    | with_reducible apply keeps_escalate
    | split
    | intro)
theorem keeps_deadlineMiss {u s : State} (h : Keeps u s) (e i : Nat) (late : Bool) : Keeps u (deadlineMiss e i late s) := by
  unfold deadlineMiss
  repeat' (first
    | with_reducible assumption
    | (extract_lets -underBinder +onlyGivenNames y; clear_value (hy : y = _); first | refine Keeps.sub (u := u) hy ?_ (fun hk => ?_) | refine Keeps.subA (u := u) hy ?_ (fun hk => ?_) | refine Keeps.subP (u := u) hy ?_ (fun hk => ?_) | refine Keeps.subF (u := u) hy (fun t ht => ?_) (fun hk => ?_) | refine Keeps.subF1 (u := u) hy (fun a t ht => ?_) (fun hk => ?_) | refine Keeps.subF2 (u := u) hy (fun a b t ht => ?_) (fun hk => ?_) | refine Keeps.subG1 (u := u) hy (fun a => ?_) (fun hk => ?_) | refine Keeps.subG2 (u := u) hy (fun a b => ?_) (fun hk => ?_) | clear hy)
    | with_reducible refine Keeps.ite ?_ ?_
    | with_reducible apply keeps_afterSample
    | with_reducible apply keeps_missEntry
    | with_reducible apply keeps_missLimit
    | with_reducible apply_assumption
    | split
    | intro)
theorem keeps_engineDisable {u s : State} (h : Keeps u s) (e : Nat) : Keeps u (engineDisable e s) := by
  unfold engineDisable
  repeat' (first
    | with_reducible assumption
    | (extract_lets -underBinder +onlyGivenNames y; clear_value (hy : y = _); first | refine Keeps.sub (u := u) hy ?_ (fun hk => ?_) | refine Keeps.subA (u := u) hy ?_ (fun hk => ?_) | refine Keeps.subP (u := u) hy ?_ (fun hk => ?_) | clear hy)
    | with_reducible refine Keeps.ite ?_ ?_
    | with_reducible apply Keeps.set
    | with_reducible apply Keeps.on
    | with_reducible apply Keeps.off
    | with_reducible apply Keeps.send
    | with_reducible apply keeps_disableGroups
    | with_reducible apply keeps_dropOccurrences
    | with_reducible apply keeps_engineOff
    | with_reducible apply keeps_injAbort
    | split
    | intro)
theorem keeps_engineStart {u s : State} (h : Keeps u s) (e : Nat) : Keeps u (engineStart e s) := by
  unfold engineStart
  repeat' (first
    | with_reducible assumption
    | with_reducible refine Keeps.ite ?_ ?_
    | with_reducible apply Keeps.set
    | with_reducible apply Keeps.on
    | with_reducible apply Keeps.off
    | with_reducible apply Keeps.forUpTo
    | split
    | intro)
theorem keeps_leCtrlWrite {u s : State} (h : Keeps u s) (e : Nat) (v : Nat) : Keeps u (leCtrlWrite e v s) := by
  unfold leCtrlWrite
  repeat' (first
    | with_reducible assumption
    | (extract_lets -underBinder +onlyGivenNames y; clear_value (hy : y = _); first | refine Keeps.sub (u := u) hy ?_ (fun hk => ?_) | refine Keeps.subA (u := u) hy ?_ (fun hk => ?_) | refine Keeps.subP (u := u) hy ?_ (fun hk => ?_) | clear hy)
    | with_reducible refine Keeps.ite ?_ ?_
    | with_reducible apply Keeps.set
    | with_reducible apply Keeps.when
    | with_reducible apply keeps_engineOff
    | with_reducible apply keeps_engineDisable
    | with_reducible apply keeps_engineStart
    | split
    | intro)
theorem keeps_loopLeaves {u s : State} (h : Keeps u s)  : Keeps u (loopLeaves s) := by
  unfold loopLeaves
  repeat' (first
    | with_reducible assumption
    | with_reducible refine Keeps.ite ?_ ?_
    | with_reducible apply Keeps.off
    | with_reducible apply Keeps.forUpTo
    | with_reducible apply keeps_engineOff
    | split
    | intro)
theorem keeps_portArrival {u s : State} (h : Keeps u s) (e p v : Nat) : Keeps u (portArrival e p v s) := by
  unfold portArrival
  repeat' (first
    | with_reducible assumption
    | (extract_lets -underBinder +onlyGivenNames y; clear_value (hy : y = _); first | refine Keeps.sub (u := u) hy ?_ (fun hk => ?_) | refine Keeps.subA (u := u) hy ?_ (fun hk => ?_) | refine Keeps.subP (u := u) hy ?_ (fun hk => ?_) | clear hy)
    | with_reducible refine Keeps.ite ?_ ?_
    | with_reducible apply Keeps.set
    | with_reducible apply Keeps.setBit
    | split
    | intro)
theorem keeps_commitWrite {u s : State} (h : Keeps u s) (e : Nat) : Keeps u (commitWrite e s) := by
  unfold commitWrite
  repeat' (first
    | with_reducible assumption
    | with_reducible refine Keeps.ite ?_ ?_
    | with_reducible apply Keeps.on
    | split
    | intro)
theorem keeps_commitCheck {u s : State} (h : Keeps u s) (e : Nat) : Keeps u (commitCheck e s) := by
  unfold commitCheck
  repeat' (first
    | with_reducible assumption
    | (extract_lets -underBinder +onlyGivenNames y; clear_value (hy : y = _); first | refine Keeps.sub (u := u) hy ?_ (fun hk => ?_) | refine Keeps.subA (u := u) hy ?_ (fun hk => ?_) | refine Keeps.subP (u := u) hy ?_ (fun hk => ?_) | clear hy)
    | with_reducible refine Keeps.ite ?_ ?_
    | with_reducible apply Keeps.set
    | with_reducible apply Keeps.on
    | with_reducible apply Keeps.off
    | with_reducible apply keeps_swapBank
    | split
    | intro)
theorem keeps_groupRegWrite {u s : State} (h : Keeps u s) (w : Who) (a v e : Nat) : Keeps u (groupRegWrite w a v e s) := by
  unfold groupRegWrite
  repeat' (first
    | with_reducible assumption
    | with_reducible refine Keeps.ite ?_ ?_
    | with_reducible apply Keeps.on
    | with_reducible apply keeps_discardWord
    | with_reducible apply keeps_storeWord
    | split
    | intro)
theorem keeps_lsCtrlWrite {u s : State} (h : Keeps u s) (e : Nat) (k : Nat) (v : Nat) : Keeps u (lsCtrlWrite e k v s) := by
  unfold lsCtrlWrite
  repeat' (first
    | with_reducible assumption
    | (extract_lets -underBinder +onlyGivenNames y; clear_value (hy : y = _); first | refine Keeps.sub (u := u) hy ?_ (fun hk => ?_) | refine Keeps.subA (u := u) hy ?_ (fun hk => ?_) | refine Keeps.subP (u := u) hy ?_ (fun hk => ?_) | clear hy)
    | with_reducible refine Keeps.ite ?_ ?_
    | with_reducible apply Keeps.on
    | with_reducible apply Keeps.when
    | with_reducible apply keeps_copySlot
    | with_reducible apply keeps_takeApply
    | split
    | intro)
theorem keeps_trcCtrlWrite {u s : State} (h : Keeps u s) (e v : Nat) : Keeps u (trcCtrlWrite e v s) := by
  unfold trcCtrlWrite
  repeat' (first
    | with_reducible assumption
    | (extract_lets -underBinder +onlyGivenNames y; clear_value (hy : y = _); first | refine Keeps.sub (u := u) hy ?_ (fun hk => ?_) | refine Keeps.subA (u := u) hy ?_ (fun hk => ?_) | refine Keeps.subP (u := u) hy ?_ (fun hk => ?_) | clear hy)
    | with_reducible refine Keeps.ite ?_ ?_
    | with_reducible apply Keeps.set
    | with_reducible apply Keeps.on
    | with_reducible apply keeps_trcFinish
    | with_reducible apply keeps_trcFresh
    | split
    | intro)
theorem keeps_trcArm {u s : State} (h : Keeps u s) (e : Nat) : Keeps u (trcArm e s) := by
  unfold trcArm
  repeat' (first
    | with_reducible assumption
    | (extract_lets -underBinder +onlyGivenNames y; clear_value (hy : y = _); first | refine Keeps.sub (u := u) hy ?_ (fun hk => ?_) | refine Keeps.subA (u := u) hy ?_ (fun hk => ?_) | refine Keeps.subP (u := u) hy ?_ (fun hk => ?_) | clear hy)
    | with_reducible apply Keeps.on
    | with_reducible apply Keeps.off
    | with_reducible apply Keeps.withMem
    | with_reducible apply keeps_trcSee
    | split
    | intro)
theorem keeps_trcForce {u s : State} (h : Keeps u s) (e : Nat) : Keeps u (trcForce e s) := by
  unfold trcForce
  repeat' (first
    | with_reducible assumption
    | with_reducible apply keeps_trcSee
    | split
    | intro)
theorem keeps_haltEngine {u s : State} (h : Keeps u s) (e : Nat) : Keeps u (haltEngine e s) := by
  unfold haltEngine
  repeat' (first
    | with_reducible assumption
    | (extract_lets -underBinder +onlyGivenNames y; clear_value (hy : y = _); first | refine Keeps.sub (u := u) hy ?_ (fun hk => ?_) | refine Keeps.subA (u := u) hy ?_ (fun hk => ?_) | refine Keeps.subP (u := u) hy ?_ (fun hk => ?_) | clear hy)
    | with_reducible refine Keeps.ite ?_ ?_
    | with_reducible apply Keeps.set
    | with_reducible apply Keeps.on
    | with_reducible apply keeps_forceGroups
    | with_reducible apply keeps_injAbort
    | split
    | intro)
theorem keeps_resumeEngine {u s : State} (h : Keeps u s) (e : Nat) : Keeps u (resumeEngine e s) := by
  unfold resumeEngine
  repeat' (first
    | with_reducible assumption
    | (extract_lets -underBinder +onlyGivenNames y; clear_value (hy : y = _); first | refine Keeps.sub (u := u) hy ?_ (fun hk => ?_) | refine Keeps.subA (u := u) hy ?_ (fun hk => ?_) | refine Keeps.subP (u := u) hy ?_ (fun hk => ?_) | clear hy)
    | with_reducible refine Keeps.ite ?_ ?_
    | with_reducible apply Keeps.set
    | with_reducible apply Keeps.forUpTo
    | with_reducible apply keeps_missEntry
    | with_reducible apply keeps_startNext
    | split
    | intro)
theorem keeps_haltOwner {u s : State} (h : Keeps u s) (o : Nat) : Keeps u (haltOwner o s) := by
  unfold haltOwner
  repeat' (first
    | with_reducible assumption
    | (extract_lets -underBinder +onlyGivenNames y; clear_value (hy : y = _); first | refine Keeps.sub (u := u) hy ?_ (fun hk => ?_) | refine Keeps.subA (u := u) hy ?_ (fun hk => ?_) | refine Keeps.subP (u := u) hy ?_ (fun hk => ?_) | clear hy)
    | with_reducible refine Keeps.ite ?_ ?_
    | with_reducible apply Keeps.on
    | with_reducible apply Keeps.when
    | with_reducible apply Keeps.forUpTo
    | with_reducible apply keeps_forceGroups
    | split
    | intro)
theorem keeps_resumeOwner {u s : State} (h : Keeps u s) (o : Nat) : Keeps u (resumeOwner o s) := by
  unfold resumeOwner
  repeat' (first
    | with_reducible assumption
    | (extract_lets -underBinder +onlyGivenNames y; clear_value (hy : y = _); first | refine Keeps.sub (u := u) hy ?_ (fun hk => ?_) | refine Keeps.subA (u := u) hy ?_ (fun hk => ?_) | refine Keeps.subP (u := u) hy ?_ (fun hk => ?_) | clear hy)
    | with_reducible refine Keeps.ite ?_ ?_
    | with_reducible apply Keeps.off
    | with_reducible apply Keeps.when
    | with_reducible apply Keeps.forUpTo
    | split
    | intro)
theorem keeps_execEngineStart (w : Who) (e : EngIx) (v : Word) (s : State) : ∃ u, execEngineStart w e v s = .next u ∧ Keeps s u := by
  refine ⟨_, rfl, ?_⟩
  have h := Keeps.refl s
  repeat' (first
    | with_reducible assumption
    | (extract_lets -underBinder +onlyGivenNames y; clear_value (hy : y = _); first | refine Keeps.sub (u := s) hy ?_ (fun hk => ?_) | refine Keeps.subA (u := s) hy ?_ (fun hk => ?_) | refine Keeps.subP (u := s) hy ?_ (fun hk => ?_) | clear hy)
    | with_reducible apply keeps_sideband
    | with_reducible apply keeps_leCtrlWrite
    | split
    | intro)
theorem keeps_execEngineDisable (w : Who) (e : EngIx) (v : Word) (s : State) : ∃ u, execEngineDisable w e v s = .next u ∧ Keeps s u := by
  refine ⟨_, rfl, ?_⟩
  have h := Keeps.refl s
  repeat' (first
    | with_reducible assumption
    | (extract_lets -underBinder +onlyGivenNames y; clear_value (hy : y = _); first | refine Keeps.sub (u := s) hy ?_ (fun hk => ?_) | refine Keeps.subA (u := s) hy ?_ (fun hk => ?_) | refine Keeps.subP (u := s) hy ?_ (fun hk => ?_) | clear hy)
    | with_reducible apply keeps_sideband
    | with_reducible apply keeps_leCtrlWrite
    | split
    | intro)
theorem keeps_execFaultClr (w : Who) (e : EngIx) (v : Word) (s : State) : ∃ u, execFaultClr w e v s = .next u ∧ Keeps s u := by
  refine ⟨_, rfl, ?_⟩
  have h := Keeps.refl s
  repeat' (first
    | with_reducible assumption
    | (extract_lets -underBinder +onlyGivenNames y; clear_value (hy : y = _); first | refine Keeps.sub (u := s) hy ?_ (fun hk => ?_) | refine Keeps.subA (u := s) hy ?_ (fun hk => ?_) | refine Keeps.subP (u := s) hy ?_ (fun hk => ?_) | clear hy)
    | with_reducible apply keeps_sideband
    | with_reducible apply keeps_leCtrlWrite
    | split
    | intro)
theorem keeps_execFrameBoundary (e : EngIx) (s : State) : ∃ u, execFrameBoundary e s = .next u ∧ Keeps s u := by
  refine ⟨_, rfl, ?_⟩
  have h := Keeps.refl s
  repeat' (first
    | with_reducible assumption
    | with_reducible apply keeps_frameBoundary
    | split
    | intro)
theorem keeps_execInputPortArrival (e : EngIx) (p : Fin 32) (v : Word) (s : State) : ∃ u, execInputPortArrival e p v s = .next u ∧ Keeps s u := by
  refine ⟨_, rfl, ?_⟩
  have h := Keeps.refl s
  repeat' (first
    | with_reducible assumption
    | with_reducible apply keeps_portArrival
    | split
    | intro)
theorem keeps_execSampleTrigger (e : EngIx) (i : Fin 64) (s : State) : ∃ u, execSampleTrigger e i s = .next u ∧ Keeps s u := by
  refine ⟨_, rfl, ?_⟩
  have h := Keeps.refl s
  repeat' (first
    | with_reducible assumption
    | with_reducible apply keeps_sampleTrigger
    | split
    | intro)
theorem keeps_execPortClosed (e : EngIx) (s : State) : ∃ u, execPortClosed e s = .next u ∧ Keeps s u := by
  refine ⟨_, rfl, ?_⟩
  have h := Keeps.refl s
  repeat' (first
    | with_reducible assumption
    | with_reducible apply Keeps.on
    | split
    | intro)
theorem keeps_execDeadlineMiss (e : EngIx) (i : Fin 64) (late : Bool) (s : State) : ∃ u, execDeadlineMiss e i late s = .next u ∧ Keeps s u := by
  refine ⟨_, rfl, ?_⟩
  have h := Keeps.refl s
  repeat' (first
    | with_reducible assumption
    | with_reducible apply keeps_deadlineMiss
    | split
    | intro)
theorem keeps_execMissLimitReached (e : EngIx) (k : SlotIx) (s : State) : ∃ u, execMissLimitReached e k s = .next u ∧ Keeps s u := by
  refine ⟨_, rfl, ?_⟩
  have h := Keeps.refl s
  repeat' (first
    | with_reducible assumption
    | with_reducible apply keeps_missLimit
    | split
    | intro)
theorem keeps_execProgramMemoryWrite (w : Who) (e : EngIx) (k : Fin 8192) (v : Word) (s : State) : ∃ u, execProgramMemoryWrite w e k v s = .next u ∧ Keeps s u := by
  refine ⟨_, rfl, ?_⟩
  have h := Keeps.refl s
  repeat' (first
    | with_reducible assumption
    | (extract_lets -underBinder +onlyGivenNames y; clear_value (hy : y = _); first | refine Keeps.sub (u := s) hy ?_ (fun hk => ?_) | refine Keeps.subA (u := s) hy ?_ (fun hk => ?_) | refine Keeps.subP (u := s) hy ?_ (fun hk => ?_) | clear hy)
    | with_reducible refine Keeps.ite ?_ ?_
    | with_reducible apply Keeps.on
    | with_reducible apply Keeps.writeN
    | with_reducible apply keeps_sideband
    | split
    | intro)
theorem keeps_execScheduleBankWrite (w : Who) (e : EngIx) (b : Fin 2) (k : Fin 256) (v : Word) (s : State) : ∃ u, execScheduleBankWrite w e b k v s = .next u ∧ Keeps s u := by
  refine ⟨_, rfl, ?_⟩
  have h := Keeps.refl s
  repeat' (first
    | with_reducible assumption
    | (extract_lets -underBinder +onlyGivenNames y; clear_value (hy : y = _); first | refine Keeps.sub (u := s) hy ?_ (fun hk => ?_) | refine Keeps.subA (u := s) hy ?_ (fun hk => ?_) | refine Keeps.subP (u := s) hy ?_ (fun hk => ?_) | clear hy)
    | with_reducible refine Keeps.ite ?_ ?_
    | with_reducible apply Keeps.on
    | with_reducible apply Keeps.writeN
    | with_reducible apply keeps_sideband
    | split
    | intro)
theorem keeps_execCommit (w : Who) (e : EngIx) (s : State) : ∃ u, execCommit w e s = .next u ∧ Keeps s u := by
  refine ⟨_, rfl, ?_⟩
  have h := Keeps.refl s
  repeat' (first
    | with_reducible assumption
    | with_reducible apply keeps_sideband
    | with_reducible apply keeps_commitWrite
    | split
    | intro)
theorem keeps_execCommitCheckDone (e : EngIx) (s : State) : ∃ u, execCommitCheckDone e s = .next u ∧ Keeps s u := by
  refine ⟨_, rfl, ?_⟩
  have h := Keeps.refl s
  repeat' (first
    | with_reducible assumption
    | with_reducible apply keeps_commitCheck
    | split
    | intro)
theorem keeps_execApply (w : Who) (e : EngIx) (k : SlotIx) (v : Word) (s : State) : ∃ u, execApply w e k v s = .next u ∧ Keeps s u := by
  refine ⟨_, rfl, ?_⟩
  have h := Keeps.refl s
  repeat' (first
    | with_reducible assumption
    | (extract_lets -underBinder +onlyGivenNames y; clear_value (hy : y = _); first | refine Keeps.sub (u := s) hy ?_ (fun hk => ?_) | refine Keeps.subA (u := s) hy ?_ (fun hk => ?_) | refine Keeps.subP (u := s) hy ?_ (fun hk => ?_) | clear hy)
    | with_reducible apply keeps_sideband
    | with_reducible apply keeps_lsCtrlWrite
    | split
    | intro)
theorem keeps_execReprime (w : Who) (e : EngIx) (k : SlotIx) (v : Word) (s : State) : ∃ u, execReprime w e k v s = .next u ∧ Keeps s u := by
  refine ⟨_, rfl, ?_⟩
  have h := Keeps.refl s
  repeat' (first
    | with_reducible assumption
    | (extract_lets -underBinder +onlyGivenNames y; clear_value (hy : y = _); first | refine Keeps.sub (u := s) hy ?_ (fun hk => ?_) | refine Keeps.subA (u := s) hy ?_ (fun hk => ?_) | refine Keeps.subP (u := s) hy ?_ (fun hk => ?_) | clear hy)
    | with_reducible apply keeps_sideband
    | with_reducible apply keeps_lsCtrlWrite
    | split
    | intro)
theorem keeps_execGroupRegisterWrite (w : Who) (e : EngIx) (g : Fin 4) (v : Word) (s : State) : ∃ u, execGroupRegisterWrite w e g v s = .next u ∧ Keeps s u := by
  refine ⟨_, rfl, ?_⟩
  have h := Keeps.refl s
  repeat' (first
    | with_reducible assumption
    | (extract_lets -underBinder +onlyGivenNames y; clear_value (hy : y = _); first | refine Keeps.sub (u := s) hy ?_ (fun hk => ?_) | refine Keeps.subA (u := s) hy ?_ (fun hk => ?_) | refine Keeps.subP (u := s) hy ?_ (fun hk => ?_) | clear hy)
    | with_reducible apply keeps_groupRegWrite
    | with_reducible apply keeps_sideband
    | split
    | intro)
theorem keeps_execDebugHalt (x : EngIx ⊕ Fin 9) (s : State) : ∃ u, execDebugHalt x s = .next u ∧ Keeps s u := by
  refine ⟨_, rfl, ?_⟩
  have h := Keeps.refl s
  repeat' (first
    | with_reducible assumption
    | with_reducible apply keeps_haltEngine
    | with_reducible apply keeps_haltOwner
    | split
    | intro)
theorem keeps_execDebugResume (x : EngIx ⊕ Fin 9) (s : State) : ∃ u, execDebugResume x s = .next u ∧ Keeps s u := by
  refine ⟨_, rfl, ?_⟩
  have h := Keeps.refl s
  repeat' (first
    | with_reducible assumption
    | with_reducible apply keeps_resumeEngine
    | with_reducible apply keeps_resumeOwner
    | split
    | intro)
theorem keeps_execPlausibilityViolation (e : EngIx) (k : SlotIx) (s : State) : ∃ u, execPlausibilityViolation e k s = .next u ∧ Keeps s u := by
  refine ⟨_, rfl, ?_⟩
  have h := Keeps.refl s
  repeat' (first
    | with_reducible assumption
    | with_reducible apply keeps_plausibilityViolation
    | split
    | intro)
theorem keeps_execHoldRelease (e : EngIx) (k : SlotIx) (s : State) : ∃ u, execHoldRelease e k s = .next u ∧ Keeps s u := by
  refine ⟨_, rfl, ?_⟩
  have h := Keeps.refl s
  repeat' (first
    | with_reducible assumption
    | with_reducible apply keeps_holdRelease
    | split
    | intro)
theorem keeps_execPrimingEnd (e : EngIx) (k : SlotIx) (s : State) : ∃ u, execPrimingEnd e k s = .next u ∧ Keeps s u := by
  refine ⟨_, rfl, ?_⟩
  have h := Keeps.refl s
  repeat' (first
    | with_reducible assumption
    | with_reducible apply keeps_primingEnd
    | split
    | intro)
theorem keeps_execTraceDone (e : EngIx) (s : State) : ∃ u, execTraceDone e s = .next u ∧ Keeps s u := by
  refine ⟨_, rfl, ?_⟩
  have h := Keeps.refl s
  repeat' (first
    | with_reducible assumption
    | (extract_lets -underBinder +onlyGivenNames y; clear_value (hy : y = _); first | refine Keeps.sub (u := s) hy ?_ (fun hk => ?_) | refine Keeps.subA (u := s) hy ?_ (fun hk => ?_) | refine Keeps.subP (u := s) hy ?_ (fun hk => ?_) | clear hy)
    | with_reducible apply Keeps.on
    | with_reducible apply Keeps.when
    | split
    | intro)
theorem keeps_execTrcCtrlWrite (w : Who) (e : EngIx) (v : Word) (s : State) : ∃ u, execTrcCtrlWrite w e v s = .next u ∧ Keeps s u := by
  refine ⟨_, rfl, ?_⟩
  have h := Keeps.refl s
  repeat' (first
    | with_reducible assumption
    | with_reducible apply keeps_sideband
    | with_reducible apply keeps_trcCtrlWrite
    | split
    | intro)
theorem keeps_execTrcSigWrite (w : Who) (e : EngIx) (i : Fin 16) (v : Word) (s : State) : ∃ u, execTrcSigWrite w e i v s = .next u ∧ Keeps s u := by
  refine ⟨_, rfl, ?_⟩
  have h := Keeps.refl s
  repeat' (first
    | with_reducible assumption
    | (extract_lets -underBinder +onlyGivenNames y; clear_value (hy : y = _); first | refine Keeps.sub (u := s) hy ?_ (fun hk => ?_) | refine Keeps.subA (u := s) hy ?_ (fun hk => ?_) | refine Keeps.subP (u := s) hy ?_ (fun hk => ?_) | clear hy)
    | with_reducible refine Keeps.ite ?_ ?_
    | with_reducible apply Keeps.on
    | with_reducible apply keeps_sideband
    | with_reducible apply keeps_storeWord
    | split
    | intro)
theorem keeps_execArm (w : Who) (e : EngIx) (v : Word) (s : State) : ∃ u, execArm w e v s = .next u ∧ Keeps s u := by
  refine ⟨_, rfl, ?_⟩
  have h := Keeps.refl s
  repeat' (first
    | with_reducible assumption
    | (extract_lets -underBinder +onlyGivenNames y; clear_value (hy : y = _); first | refine Keeps.sub (u := s) hy ?_ (fun hk => ?_) | refine Keeps.subA (u := s) hy ?_ (fun hk => ?_) | refine Keeps.subP (u := s) hy ?_ (fun hk => ?_) | clear hy)
    | with_reducible apply Keeps.set
    | with_reducible apply Keeps.when
    | with_reducible apply keeps_sideband
    | with_reducible apply keeps_trcArm
    | with_reducible apply keeps_trcForce
    | split
    | intro)
theorem keeps_execTraceForce (w : Who) (e : EngIx) (post : Half) (s : State) : ∃ u, execTraceForce w e post s = .next u ∧ Keeps s u := by
  refine ⟨_, rfl, ?_⟩
  have h := Keeps.refl s
  repeat' (first
    | with_reducible assumption
    | with_reducible apply Keeps.set
    | with_reducible apply keeps_sideband
    | with_reducible apply keeps_trcForce
    | split
    | intro)
theorem keeps_execTraceThrottleWrite (w : Who) (v : Word) (s : State) : ∃ u, execTraceThrottleWrite w v s = .next u ∧ Keeps s u := by
  refine ⟨_, rfl, ?_⟩
  have h := Keeps.refl s
  repeat' (first
    | with_reducible assumption
    | with_reducible apply keeps_sideband
    | with_reducible apply keeps_storeWord
    | split
    | intro)
theorem keeps_injFields {u s : State} (h : Keeps u s) (e : Nat) (v : Nat) : Keeps u (injFields e v s) := by
  unfold injFields
  repeat' (first
    | with_reducible assumption
    | with_reducible apply Keeps.set
    | split
    | intro)
theorem keeps_execInjectionStart (w : Who) (e : EngIx) (v : Word) (s : State) : ∃ u, execInjectionStart w e v s = .next u ∧ Keeps s u := by
  refine ⟨_, rfl, ?_⟩
  have h := Keeps.refl s
  repeat' (first
    | with_reducible assumption
    | with_reducible apply keeps_sideband
    | with_reducible apply keeps_injStart
    | with_reducible apply keeps_injFields
    | split
    | intro)
theorem keeps_execInjectionStop (w : Who) (e : EngIx) (v : Word) (s : State) : ∃ u, execInjectionStop w e v s = .next u ∧ Keeps s u := by
  refine ⟨_, rfl, ?_⟩
  have h := Keeps.refl s
  repeat' (first
    | with_reducible assumption
    | with_reducible apply keeps_sideband
    | with_reducible apply keeps_injAbort
    | with_reducible apply keeps_injFields
    | split
    | intro)
theorem keeps_execInjectionDone (e : EngIx) (s : State) : ∃ u, execInjectionDone e s = .next u ∧ Keeps s u := by
  refine ⟨_, rfl, ?_⟩
  have h := Keeps.refl s
  repeat' (first
    | with_reducible assumption
    | with_reducible apply keeps_injDone
    | split
    | intro)
theorem keeps_execPermitClear (e : EngIx) (s : State) : ∃ u, execPermitClear e s = .next u ∧ Keeps s u := by
  refine ⟨_, rfl, ?_⟩
  have h := Keeps.refl s
  repeat' (first
    | with_reducible assumption
    | with_reducible apply keeps_permitClear
    | split
    | intro)

end Sys2Proof.Machine
end

