-- ==== Sys2Proof/Laws/KeepsLoopInstr.lean ====
section
/-!
SUPPORT. The operations of Machine/LoopInstr.lean keep the canonical forms, the queue and the time.
-/
namespace Sys2Proof.Machine
open Sys2Proof
set_option linter.unreachableTactic false
set_option linter.unusedTactic false

theorem keeps_setG {u s : State} (h : Keeps u s) (e : Nat) (r : RegIx) (v : Nat) : Keeps u (setG e r v s) := by
  unfold setG
  repeat' (first
    | with_reducible assumption
    | with_reducible apply Keeps.set
    | split
    | intro)
theorem keeps_setGi {u s : State} (h : Keeps u s) (e : Nat) (r : RegIx) (v : Int) : Keeps u (setGi e r v s) := by
  unfold setGi
  repeat' (first
    | with_reducible assumption
    | with_reducible refine Keeps.ite ?_ ?_
    | with_reducible apply Keeps.sset
    | with_reducible apply Keeps.setFree
    | split
    | intro)
theorem keeps_fetch {u s : State} (h : Keeps u s) (e : Nat) (f : Ecc) (body : State → State) (hbody : ∀ t, Keeps u t → Keeps u (body t)) : Keeps u (fetch e f body s) := by
  unfold fetch
  repeat' (first
    | with_reducible assumption
    | with_reducible refine Keeps.ite ?_ ?_
    | with_reducible apply Keeps.on
    | with_reducible apply Keeps.incSat
    | with_reducible apply Keeps.inc
    | with_reducible apply hbody
    | with_reducible apply keeps_engineFault
    | split
    | intro)
theorem keeps_instr {u s : State} (h : Keeps u s) (e : Nat) (n : Nat) (f : Ecc) (body : State → State) (hbody : ∀ t, Keeps u t → Keeps u (body t)) : Keeps u (instr e n f body s) := by
  unfold instr
  repeat' (first
    | with_reducible assumption
    | (extract_lets -underBinder +onlyGivenNames y; clear_value (hy : y = _); first | refine Keeps.sub (u := u) hy ?_ (fun hk => ?_) | refine Keeps.subA (u := u) hy ?_ (fun hk => ?_) | refine Keeps.subP (u := u) hy ?_ (fun hk => ?_) | clear hy)
    | with_reducible refine Keeps.ite ?_ ?_
    | with_reducible apply hbody
    | with_reducible apply keeps_engineFault
    | with_reducible apply keeps_fetch
    | split
    | intro)
theorem keeps_dataRead {u s : State} (h : Keeps u s) (e : Nat) (f : Ecc) (body : State → State) (hbody : ∀ t, Keeps u t → Keeps u (body t)) : Keeps u (dataRead e f body s) := by
  unfold dataRead
  repeat' (first
    | with_reducible assumption
    | with_reducible apply Keeps.on
    | with_reducible apply Keeps.incSat
    | with_reducible apply hbody
    | with_reducible apply keeps_engineFault
    | split
    | intro)
theorem keeps_beginSlot {u s : State} (h : Keeps u s) (e k : Nat) : Keeps u (beginSlot e k s) := by
  unfold beginSlot
  repeat' (first
    | with_reducible assumption
    | (extract_lets -underBinder +onlyGivenNames y; clear_value (hy : y = _); first | refine Keeps.sub (u := u) hy ?_ (fun hk => ?_) | refine Keeps.subA (u := u) hy ?_ (fun hk => ?_) | refine Keeps.subP (u := u) hy ?_ (fun hk => ?_) | clear hy)
    | with_reducible refine Keeps.ite ?_ ?_
    | with_reducible apply Keeps.off
    | with_reducible apply Keeps.setBit
    | with_reducible apply Keeps.when
    | with_reducible apply keeps_firstSample
    | with_reducible apply keeps_injSample
    | with_reducible apply keeps_takeApply
    | split
    | intro)
theorem keeps_ctrlOp {u s : State} (h : Keeps u s) (e : Nat) (o : CtrlOp) : Keeps u (ctrlOp e o s) := by
  unfold ctrlOp
  repeat' (first
    | with_reducible assumption
    | (extract_lets -underBinder +onlyGivenNames y; clear_value (hy : y = _); first | refine Keeps.sub (u := u) hy ?_ (fun hk => ?_) | refine Keeps.subA (u := u) hy ?_ (fun hk => ?_) | refine Keeps.subP (u := u) hy ?_ (fun hk => ?_) | clear hy)
    | with_reducible refine Keeps.ite ?_ ?_
    | with_reducible apply Keeps.set
    | with_reducible apply Keeps.setFree
    | with_reducible apply keeps_engineFault
    | split
    | intro)
theorem keeps_moveOp {u s : State} (h : Keeps u s) (e : Nat) (o : MoveOp) : Keeps u (moveOp e o s) := by
  unfold moveOp
  repeat' (first
    | with_reducible assumption
    | with_reducible apply Keeps.writeN
    | with_reducible apply keeps_dataRead
    | with_reducible apply keeps_setG
    | split
    | intro)
theorem keeps_arithOp {u s : State} (h : Keeps u s) (e : Nat) (o : ArithOp) (d : RegIx) (a : RegIx) (b : RegIx) : Keeps u (arithOp e o d a b s) := by
  unfold arithOp
  repeat' (first
    | with_reducible assumption
    | (extract_lets -underBinder +onlyGivenNames y; clear_value (hy : y = _); first | refine Keeps.sub (u := u) hy ?_ (fun hk => ?_) | refine Keeps.subA (u := u) hy ?_ (fun hk => ?_) | refine Keeps.subP (u := u) hy ?_ (fun hk => ?_) | clear hy)
    | with_reducible refine Keeps.ite ?_ ?_
    | with_reducible apply Keeps.setFree
    | with_reducible apply keeps_setG
    | with_reducible apply keeps_setGi
    | split
    | intro)
theorem keeps_macOp {u s : State} (h : Keeps u s) (e : Nat) (f : MacFmt) (acc : Bool) (d : Fin 2) (a : RegIx) (b : RegIx) : Keeps u (macOp e f acc d a b s) := by
  unfold macOp
  repeat' (first
    | with_reducible assumption
    | (extract_lets -underBinder +onlyGivenNames y; clear_value (hy : y = _); first | refine Keeps.sub (u := u) hy ?_ (fun hk => ?_) | refine Keeps.subA (u := u) hy ?_ (fun hk => ?_) | refine Keeps.subP (u := u) hy ?_ (fun hk => ?_) | clear hy)
    | with_reducible refine Keeps.ite ?_ ?_
    | with_reducible apply Keeps.sset
    | with_reducible apply Keeps.setFree
    | split
    | intro)
theorem keeps_portOp {u s : State} (h : Keeps u s) (e : Nat) (o : PortOp) : Keeps u (portOp e o s) := by
  unfold portOp
  repeat' (first
    | with_reducible assumption
    | with_reducible refine Keeps.ite ?_ ?_
    | with_reducible apply Keeps.set
    | with_reducible apply Keeps.setBit
    | with_reducible apply keeps_setG
    | split
    | intro)
theorem keeps_slewOp {u s : State} (h : Keeps u s) (e : Nat) (k : Nat) : Keeps u (slewOp e k s) := by
  unfold slewOp
  repeat' (first
    | with_reducible assumption
    | (extract_lets -underBinder +onlyGivenNames y; clear_value (hy : y = _); first | refine Keeps.sub (u := u) hy ?_ (fun hk => ?_) | refine Keeps.subA (u := u) hy ?_ (fun hk => ?_) | refine Keeps.subP (u := u) hy ?_ (fun hk => ?_) | clear hy)
    | with_reducible apply Keeps.setBit
    | with_reducible apply Keeps.sset
    | split
    | intro)
theorem keeps_gainOp {u s : State} (h : Keeps u s) (e : Nat) (k : Nat) : Keeps u (gainOp e k s) := by
  unfold gainOp
  repeat' (first
    | with_reducible assumption
    | (extract_lets -underBinder +onlyGivenNames y; clear_value (hy : y = _); first | refine Keeps.sub (u := u) hy ?_ (fun hk => ?_) | refine Keeps.subA (u := u) hy ?_ (fun hk => ?_) | refine Keeps.subP (u := u) hy ?_ (fun hk => ?_) | clear hy)
    | with_reducible apply Keeps.sset
    | split
    | intro)
theorem keeps_lawOp {u s : State} (h : Keeps u s) (e k : Nat) : Keeps u (lawOp e k s) := by
  unfold lawOp
  repeat' (first
    | with_reducible assumption
    | (extract_lets -underBinder +onlyGivenNames y; clear_value (hy : y = _); first | refine Keeps.sub (u := u) hy ?_ (fun hk => ?_) | refine Keeps.subA (u := u) hy ?_ (fun hk => ?_) | refine Keeps.subP (u := u) hy ?_ (fun hk => ?_) | clear hy)
    | with_reducible refine Keeps.ite ?_ ?_
    | with_reducible apply Keeps.set
    | with_reducible apply Keeps.on
    | with_reducible apply Keeps.setBit
    | with_reducible apply Keeps.sset
    | with_reducible apply Keeps.when
    | split
    | intro)
theorem keeps_execCtrl (e : EngIx) (f : Ecc) (o : CtrlOp) (s : State) : ∃ u, execCtrl e f o s = .next u ∧ Keeps s u := by
  refine ⟨_, rfl, ?_⟩
  have h := Keeps.refl s
  repeat' (first
    | with_reducible assumption
    | with_reducible apply keeps_ctrlOp
    | with_reducible apply keeps_instr
    | split
    | intro)
theorem keeps_execMove (e : EngIx) (f : Ecc) (o : MoveOp) (s : State) : ∃ u, execMove e f o s = .next u ∧ Keeps s u := by
  refine ⟨_, rfl, ?_⟩
  have h := Keeps.refl s
  repeat' (first
    | with_reducible assumption
    | with_reducible apply keeps_instr
    | with_reducible apply keeps_moveOp
    | split
    | intro)
theorem keeps_execArith (e : EngIx) (f : Ecc) (o : ArithOp) (d a b : RegIx) (s : State) : ∃ u, execArith e f o d a b s = .next u ∧ Keeps s u := by
  refine ⟨_, rfl, ?_⟩
  have h := Keeps.refl s
  repeat' (first
    | with_reducible assumption
    | with_reducible apply keeps_arithOp
    | with_reducible apply keeps_instr
    | split
    | intro)
theorem keeps_execMac (e : EngIx) (f : Ecc) (q : MacFmt) (acc : Bool) (d : Fin 2) (a b : RegIx) (s : State) : ∃ u, execMac e f q acc d a b s = .next u ∧ Keeps s u := by
  refine ⟨_, rfl, ?_⟩
  have h := Keeps.refl s
  repeat' (first
    | with_reducible assumption
    | with_reducible apply keeps_instr
    | with_reducible apply keeps_macOp
    | split
    | intro)
theorem keeps_execTrig (e : EngIx) (f : Ecc) (z1_ : TrigOp) (d z2_ z3_ : RegIx) (s : State) : ∃ u, execTrig e f z1_ d z2_ z3_ s = .next u ∧ Keeps s u := by
  refine ⟨_, rfl, ?_⟩
  have h := Keeps.refl s
  repeat' (first
    | with_reducible assumption
    | with_reducible apply Keeps.setFree
    | with_reducible apply keeps_instr
    | split
    | intro)
theorem keeps_execXform (e : EngIx) (f : Ecc) (z1_ : XformOp) (d0 d1 z2_ z3_ z4_ : RegIx) (s : State) : ∃ u, execXform e f z1_ d0 d1 z2_ z3_ z4_ s = .next u ∧ Keeps s u := by
  refine ⟨_, rfl, ?_⟩
  have h := Keeps.refl s
  repeat' (first
    | with_reducible assumption
    | with_reducible apply Keeps.setFree
    | with_reducible apply keeps_instr
    | split
    | intro)
theorem keeps_execChartLookup (e : EngIx) (f : Ecc) (o : ChartOp) (s : State) : ∃ u, execChartLookup e f o s = .next u ∧ Keeps s u := by
  refine ⟨_, rfl, keeps_instr (Keeps.refl s) _ _ _ _ (fun t ht => ?_)⟩
  cases o with
  | lookup => exact keeps_chartLookup ht ..
  | read => exact keeps_setG ht ..
theorem keeps_execSlew (e : EngIx) (f : Ecc) (k : SlotIx) (s : State) : ∃ u, execSlew e f k s = .next u ∧ Keeps s u := by
  refine ⟨_, rfl, ?_⟩
  have h := Keeps.refl s
  repeat' (first
    | with_reducible assumption
    | with_reducible apply keeps_beginSlot
    | with_reducible apply keeps_instr
    | with_reducible apply keeps_slewOp
    | split
    | intro)
theorem keeps_execGain (e : EngIx) (f : Ecc) (k : SlotIx) (s : State) : ∃ u, execGain e f k s = .next u ∧ Keeps s u := by
  refine ⟨_, rfl, ?_⟩
  have h := Keeps.refl s
  repeat' (first
    | with_reducible assumption
    | with_reducible apply keeps_beginSlot
    | with_reducible apply keeps_gainOp
    | with_reducible apply keeps_instr
    | split
    | intro)
theorem keeps_execLaw (e : EngIx) (f : Ecc) (k : SlotIx) (d : Ecc) (s : State) : ∃ u, execLaw e f k d s = .next u ∧ Keeps s u := by
  refine ⟨_, rfl, ?_⟩
  have h := Keeps.refl s
  repeat' (first
    | with_reducible assumption
    | (extract_lets -underBinder +onlyGivenNames y; clear_value (hy : y = _); first | refine Keeps.sub (u := s) hy ?_ (fun hk => ?_) | refine Keeps.subA (u := s) hy ?_ (fun hk => ?_) | refine Keeps.subP (u := s) hy ?_ (fun hk => ?_) | clear hy)
    | with_reducible refine Keeps.ite ?_ ?_
    | with_reducible apply keeps_beginSlot
    | with_reducible apply keeps_dataRead
    | with_reducible apply keeps_instr
    | with_reducible apply keeps_lawOp
    | split
    | intro)
theorem keeps_execModel (e : EngIx) (f : Ecc) (s : State) : ∃ u, execModel e f s = .next u ∧ Keeps s u := by
  refine ⟨_, rfl, ?_⟩
  have h := Keeps.refl s
  repeat' (first
    | with_reducible assumption
    | with_reducible apply keeps_instr
    | with_reducible apply keeps_modelStep
    | split
    | intro)
theorem keeps_execTrace (e : EngIx) (f : Ecc) (o : TraceOp) (s : State) : ∃ u, execTrace e f o s = .next u ∧ Keeps s u := by
  refine ⟨_, rfl, ?_⟩
  have h := Keeps.refl s
  repeat' (first
    | with_reducible assumption
    | with_reducible apply keeps_instr
    | with_reducible apply keeps_trcCapture
    | split
    | intro)
theorem keeps_execEsc (e : EngIx) (f : Ecc) (o : EscOp) (s : State) : ∃ u, execEsc e f o s = .next u ∧ Keeps s u := by
  refine ⟨_, rfl, ?_⟩
  have h := Keeps.refl s
  repeat' (first
    | with_reducible assumption
    | with_reducible apply Keeps.on
    | with_reducible apply keeps_escalate
    | with_reducible apply keeps_instr
    | split
    | intro)
theorem keeps_execIllegalInstruction (e : EngIx) (f : Ecc) (s : State) : ∃ u, execIllegalInstruction e f s = .next u ∧ Keeps s u := by
  refine ⟨_, rfl, ?_⟩
  have h := Keeps.refl s
  repeat' (first
    | with_reducible assumption
    | with_reducible apply keeps_engineFault
    | with_reducible apply keeps_fetch
    | split
    | intro)

end Sys2Proof.Machine
end

