-- ==== Sys2Proof/Laws/KeepsSensing.lean ====
section
/-!
SUPPORT. The operations of Machine/Sensing.lean keep the canonical forms, the queue and the time.
-/
namespace Sys2Proof.Machine
open Sys2Proof
set_option linter.unreachableTactic false
set_option linter.unusedTactic false

theorem keeps_sdclkWrite {u s : State} (h : Keeps u s) (k v : Nat) : Keeps u (sdclkWrite k v s) := by
  unfold sdclkWrite
  repeat' (first
    | with_reducible assumption
    | (extract_lets -underBinder +onlyGivenNames y; clear_value (hy : y = _); first | refine Keeps.sub (u := u) hy ?_ (fun hk => ?_) | refine Keeps.subA (u := u) hy ?_ (fun hk => ?_) | refine Keeps.subP (u := u) hy ?_ (fun hk => ?_) | clear hy)
    | with_reducible refine Keeps.ite ?_ ?_
    | with_reducible apply Keeps.set
    | with_reducible apply Keeps.on
    | with_reducible apply Keeps.clrMask
    | with_reducible apply Keeps.when
    | split
    | intro)
theorem keeps_sdSource {u s : State} (h : Keeps u s) (c : Nat) : Keeps u (sdSource c s) := by
  unfold sdSource
  repeat' (first
    | with_reducible assumption
    | (extract_lets -underBinder +onlyGivenNames y; clear_value (hy : y = _); first | refine Keeps.sub (u := u) hy ?_ (fun hk => ?_) | refine Keeps.subA (u := u) hy ?_ (fun hk => ?_) | refine Keeps.subP (u := u) hy ?_ (fun hk => ?_) | clear hy)
    | with_reducible refine Keeps.ite ?_ ?_
    | with_reducible apply Keeps.setB
    | with_reducible apply Keeps.on
    | with_reducible apply keeps_assertSource
    | with_reducible apply keeps_deassertSource
    | split
    | intro)
theorem keeps_sdRefill {u s : State} (h : Keeps u s) (c : Nat) : Keeps u (sdRefill c s) := by
  unfold sdRefill
  repeat' (first
    | with_reducible assumption
    | with_reducible apply Keeps.off
    | split
    | intro)
theorem keeps_sdRestart {u s : State} (h : Keeps u s) (c : Nat) : Keeps u (sdRestart c s) := by
  unfold sdRestart
  repeat' (first
    | with_reducible assumption
    | (extract_lets -underBinder +onlyGivenNames y; clear_value (hy : y = _); first | refine Keeps.sub (u := u) hy ?_ (fun hk => ?_) | refine Keeps.subA (u := u) hy ?_ (fun hk => ?_) | refine Keeps.subP (u := u) hy ?_ (fun hk => ?_) | clear hy)
    | with_reducible apply Keeps.set
    | with_reducible apply Keeps.off
    | with_reducible apply keeps_sdRefill
    | with_reducible apply keeps_sdSource
    | split
    | intro)
theorem keeps_sdCfgWrite {u s : State} (h : Keeps u s) (w : Who) (c v : Nat) : Keeps u (sdCfgWrite w c v s) := by
  unfold sdCfgWrite
  repeat' (first
    | with_reducible assumption
    | (extract_lets -underBinder +onlyGivenNames y; clear_value (hy : y = _); first | refine Keeps.sub (u := u) hy ?_ (fun hk => ?_) | refine Keeps.subA (u := u) hy ?_ (fun hk => ?_) | refine Keeps.subP (u := u) hy ?_ (fun hk => ?_) | refine Keeps.subF (u := u) hy (fun t ht => ?_) (fun hk => ?_) | refine Keeps.subF1 (u := u) hy (fun a t ht => ?_) (fun hk => ?_) | refine Keeps.subF2 (u := u) hy (fun a b t ht => ?_) (fun hk => ?_) | refine Keeps.subG1 (u := u) hy (fun a => ?_) (fun hk => ?_) | refine Keeps.subG2 (u := u) hy (fun a b => ?_) (fun hk => ?_) | clear hy)
    | with_reducible refine Keeps.ite ?_ ?_
    | with_reducible apply Keeps.on
    | with_reducible apply Keeps.off
    | with_reducible apply Keeps.when
    | with_reducible apply keeps_discardWord
    | with_reducible apply keeps_sdRestart
    | with_reducible apply keeps_sdSource
    | with_reducible apply keeps_storeWord
    | with_reducible apply_assumption
    | split
    | intro)
theorem keeps_sdTake {u s : State} (h : Keeps u s) (c : Nat) : Keeps u (sdTake c s) := by
  unfold sdTake
  repeat' (first
    | with_reducible assumption
    | with_reducible refine Keeps.ite ?_ ?_
    | with_reducible apply Keeps.set
    | with_reducible apply Keeps.on
    | split
    | intro)
theorem keeps_sdTripClock {u s : State} (h : Keeps u s) (c : Nat) : Keeps u (sdTripClock c s) := by
  unfold sdTripClock
  repeat' (first
    | with_reducible assumption
    | (extract_lets -underBinder +onlyGivenNames y; clear_value (hy : y = _); first | refine Keeps.sub (u := u) hy ?_ (fun hk => ?_) | refine Keeps.subA (u := u) hy ?_ (fun hk => ?_) | refine Keeps.subP (u := u) hy ?_ (fun hk => ?_) | clear hy)
    | with_reducible refine Keeps.ite ?_ ?_
    | with_reducible apply Keeps.on
    | with_reducible apply Keeps.off
    | with_reducible apply Keeps.incSat
    | with_reducible apply Keeps.when
    | split
    | intro)
theorem keeps_sdStuckClock {u s : State} (h : Keeps u s) (c : Nat) : Keeps u (sdStuckClock c s) := by
  unfold sdStuckClock
  repeat' (first
    | with_reducible assumption
    | (extract_lets -underBinder +onlyGivenNames y; clear_value (hy : y = _); first | refine Keeps.sub (u := u) hy ?_ (fun hk => ?_) | refine Keeps.subA (u := u) hy ?_ (fun hk => ?_) | refine Keeps.subP (u := u) hy ?_ (fun hk => ?_) | clear hy)
    | with_reducible refine Keeps.ite ?_ ?_
    | with_reducible apply Keeps.on
    | with_reducible apply Keeps.off
    | with_reducible apply Keeps.incSat
    | with_reducible apply keeps_sdRefill
    | split
    | intro)
theorem keeps_sdClock {u s : State} (h : Keeps u s) (c i : Nat) (b : Bool) : Keeps u (sdClock c i b s) := by
  unfold sdClock
  repeat' (first
    | with_reducible assumption
    | (extract_lets -underBinder +onlyGivenNames y; clear_value (hy : y = _); first | refine Keeps.sub (u := u) hy ?_ (fun hk => ?_) | refine Keeps.subA (u := u) hy ?_ (fun hk => ?_) | refine Keeps.subP (u := u) hy ?_ (fun hk => ?_) | clear hy)
    | with_reducible refine Keeps.ite ?_ ?_
    | with_reducible apply Keeps.set
    | with_reducible apply Keeps.setB
    | with_reducible apply Keeps.on
    | with_reducible apply Keeps.off
    | with_reducible apply Keeps.incSat
    | with_reducible apply Keeps.when
    | with_reducible apply keeps_sdSource
    | with_reducible apply keeps_sdStuckClock
    | with_reducible apply keeps_sdTake
    | with_reducible apply keeps_sdTripClock
    | split
    | intro)
theorem keeps_sdFeed {u s : State} (h : Keeps u s) (c : Nat) (l : List (Bool × Bool)) : Keeps u (sdFeed c l s) := by
  unfold sdFeed
  repeat' (first
    | with_reducible assumption
    | (extract_lets -underBinder +onlyGivenNames y; clear_value (hy : y = _); first | refine Keeps.sub (u := u) hy ?_ (fun hk => ?_) | refine Keeps.subA (u := u) hy ?_ (fun hk => ?_) | refine Keeps.subP (u := u) hy ?_ (fun hk => ?_) | clear hy)
    | with_reducible refine Keeps.ite ?_ ?_
    | with_reducible apply Keeps.set
    | with_reducible apply Keeps.forUpTo
    | with_reducible apply keeps_sdClock
    | split
    | intro)
theorem keeps_sdSend {u s : State} (h : Keeps u s) (c : Nat) : Keeps u (sdSend c s) := by
  unfold sdSend
  repeat' (first
    | with_reducible assumption
    | (extract_lets -underBinder +onlyGivenNames y; clear_value (hy : y = _); first | refine Keeps.sub (u := u) hy ?_ (fun hk => ?_) | refine Keeps.subA (u := u) hy ?_ (fun hk => ?_) | refine Keeps.subP (u := u) hy ?_ (fun hk => ?_) | clear hy)
    | with_reducible refine Keeps.ite ?_ ?_
    | with_reducible apply Keeps.set
    | with_reducible apply Keeps.on
    | with_reducible apply Keeps.off
    | with_reducible apply Keeps.sset
    | with_reducible apply Keeps.when
    | with_reducible apply keeps_sourceSent
    | split
    | intro)
theorem keeps_fcCfgWrite {u s : State} (h : Keeps u s) (w : Who) (c v : Nat) : Keeps u (fcCfgWrite w c v s) := by
  unfold fcCfgWrite
  repeat' (first
    | with_reducible assumption
    | (extract_lets -underBinder +onlyGivenNames y; clear_value (hy : y = _); first | refine Keeps.sub (u := u) hy ?_ (fun hk => ?_) | refine Keeps.subA (u := u) hy ?_ (fun hk => ?_) | refine Keeps.subP (u := u) hy ?_ (fun hk => ?_) | clear hy)
    | with_reducible refine Keeps.ite ?_ ?_
    | with_reducible apply Keeps.set
    | with_reducible apply Keeps.off
    | with_reducible apply keeps_storeWord
    | split
    | intro)
theorem keeps_fcStart {u s : State} (h : Keeps u s) (c : Nat) : Keeps u (fcStart c s) := by
  unfold fcStart
  repeat' (first
    | with_reducible assumption
    | with_reducible apply Keeps.set
    | with_reducible apply Keeps.on
    | split
    | intro)
theorem keeps_fcTrig {u s : State} (h : Keeps u s) (c : Nat) : Keeps u (fcTrig c s) := by
  unfold fcTrig
  repeat' (first
    | with_reducible assumption
    | with_reducible refine Keeps.ite ?_ ?_
    | with_reducible apply Keeps.on
    | with_reducible apply keeps_fcStart
    | split
    | intro)
theorem keeps_fcEvent {u s : State} (h : Keeps u s) (c : Nat) : Keeps u (fcEvent c s) := by
  unfold fcEvent
  repeat' (first
    | with_reducible assumption
    | (extract_lets -underBinder +onlyGivenNames y; clear_value (hy : y = _); first | refine Keeps.sub (u := u) hy ?_ (fun hk => ?_) | refine Keeps.subA (u := u) hy ?_ (fun hk => ?_) | refine Keeps.subP (u := u) hy ?_ (fun hk => ?_) | clear hy)
    | with_reducible refine Keeps.ite ?_ ?_
    | with_reducible apply Keeps.off
    | with_reducible apply keeps_fcTrig
    | split
    | intro)
theorem keeps_fcComplete {u s : State} (h : Keeps u s) (c codes : Nat) : Keeps u (fcComplete c codes s) := by
  unfold fcComplete
  repeat' (first
    | with_reducible assumption
    | (extract_lets -underBinder +onlyGivenNames y; clear_value (hy : y = _); first | refine Keeps.sub (u := u) hy ?_ (fun hk => ?_) | refine Keeps.subA (u := u) hy ?_ (fun hk => ?_) | refine Keeps.subP (u := u) hy ?_ (fun hk => ?_) | clear hy)
    | with_reducible refine Keeps.ite ?_ ?_
    | with_reducible apply Keeps.on
    | with_reducible apply Keeps.off
    | with_reducible apply Keeps.sset
    | with_reducible apply Keeps.free
    | with_reducible apply Keeps.when
    | with_reducible apply Keeps.foldl
    | with_reducible apply keeps_fcStart
    | with_reducible apply keeps_sourceSent
    | split
    | intro)
theorem keeps_resStop {u s : State} (h : Keeps u s) (r : Nat) : Keeps u (resStop r s) := by
  unfold resStop
  repeat' (first
    | with_reducible assumption
    | with_reducible apply Keeps.off
    | split
    | intro)
theorem keeps_resCfgWrite {u s : State} (h : Keeps u s) (w : Who) (r v : Nat) : Keeps u (resCfgWrite w r v s) := by
  unfold resCfgWrite
  repeat' (first
    | with_reducible assumption
    | (extract_lets -underBinder +onlyGivenNames y; clear_value (hy : y = _); first | refine Keeps.sub (u := u) hy ?_ (fun hk => ?_) | refine Keeps.subA (u := u) hy ?_ (fun hk => ?_) | refine Keeps.subP (u := u) hy ?_ (fun hk => ?_) | clear hy)
    | with_reducible refine Keeps.ite ?_ ?_
    | with_reducible apply Keeps.set
    | with_reducible apply Keeps.on
    | with_reducible apply Keeps.off
    | with_reducible apply Keeps.when
    | with_reducible apply Keeps.forEach
    | with_reducible apply keeps_resStop
    | with_reducible apply keeps_storeWord
    | split
    | intro)
theorem keeps_resCount {u s : State} (h : Keeps u s) (cnt : SnsFld) (flag : SnsFld) (seen : SnsFld) (r : Nat) (bad : Bool) : Keeps u (resCount cnt flag seen r bad s) := by
  unfold resCount
  repeat' (first
    | with_reducible assumption
    | with_reducible refine Keeps.ite ?_ ?_
    | with_reducible apply Keeps.set
    | with_reducible apply Keeps.setB
    | with_reducible apply Keeps.on
    | with_reducible apply Keeps.off
    | with_reducible apply Keeps.when
    | split
    | intro)
theorem keeps_resSample {u s : State} (h : Keeps u s) (r a b : Nat) : Keeps u (resSample r a b s) := by
  unfold resSample
  repeat' (first
    | with_reducible assumption
    | (extract_lets -underBinder +onlyGivenNames y; clear_value (hy : y = _); first | refine Keeps.sub (u := u) hy ?_ (fun hk => ?_) | refine Keeps.subA (u := u) hy ?_ (fun hk => ?_) | refine Keeps.subP (u := u) hy ?_ (fun hk => ?_) | clear hy)
    | with_reducible refine Keeps.ite ?_ ?_
    | with_reducible apply Keeps.set
    | with_reducible apply Keeps.on
    | with_reducible apply Keeps.sset
    | with_reducible apply Keeps.free
    | with_reducible apply Keeps.when
    | with_reducible apply keeps_resCount
    | with_reducible apply keeps_sourceSent
    | split
    | intro)
theorem keeps_hkStart {u s : State} (h : Keeps u s) (next : Option Nat) : Keeps u (hkStart next s) := by
  unfold hkStart
  repeat' (first
    | with_reducible assumption
    | (extract_lets -underBinder +onlyGivenNames y; clear_value (hy : y = _); first | refine Keeps.sub (u := u) hy ?_ (fun hk => ?_) | refine Keeps.subA (u := u) hy ?_ (fun hk => ?_) | refine Keeps.subP (u := u) hy ?_ (fun hk => ?_) | clear hy)
    | with_reducible refine Keeps.ite ?_ ?_
    | with_reducible apply Keeps.set
    | with_reducible apply Keeps.on
    | with_reducible apply Keeps.off
    | split
    | intro)
theorem keeps_hkData {u s : State} (h : Keeps u s) (v : Nat) (c : Nat) (inj : Bool) : Keeps u (hkData v c inj s) := by
  unfold hkData
  repeat' (first
    | with_reducible assumption
    | (extract_lets -underBinder +onlyGivenNames y; clear_value (hy : y = _); first | refine Keeps.sub (u := u) hy ?_ (fun hk => ?_) | refine Keeps.subA (u := u) hy ?_ (fun hk => ?_) | refine Keeps.subP (u := u) hy ?_ (fun hk => ?_) | clear hy)
    | with_reducible apply Keeps.set
    | with_reducible apply Keeps.setB
    | with_reducible apply Keeps.on
    | with_reducible apply Keeps.incSat
    | with_reducible apply Keeps.when
    | split
    | intro)
theorem keeps_parkSupply {u s : State} (h : Keeps u s) (c : Nat) (v : Nat) : Keeps u (parkSupply c v s) := by
  unfold parkSupply
  repeat' (first
    | with_reducible assumption
    | with_reducible refine Keeps.ite ?_ ?_
    | with_reducible apply Keeps.set
    | with_reducible apply Keeps.on
    | split
    | intro)
theorem keeps_dieCheck {u s : State} (h : Keeps u s) (c : Nat) : Keeps u (dieCheck c s) := by
  unfold dieCheck
  repeat' (first
    | with_reducible assumption
    | (extract_lets -underBinder +onlyGivenNames y; clear_value (hy : y = _); first | refine Keeps.sub (u := u) hy ?_ (fun hk => ?_) | refine Keeps.subA (u := u) hy ?_ (fun hk => ?_) | refine Keeps.subP (u := u) hy ?_ (fun hk => ?_) | clear hy)
    | with_reducible refine Keeps.ite ?_ ?_
    | with_reducible apply Keeps.setB
    | with_reducible apply Keeps.send
    | with_reducible apply Keeps.when
    | split
    | intro)
theorem keeps_hkAccumulate {u s : State} (h : Keeps u s) (c code : Nat) : Keeps u (hkAccumulate c code s) := by
  unfold hkAccumulate
  repeat' (first
    | with_reducible assumption
    | (extract_lets -underBinder +onlyGivenNames y; clear_value (hy : y = _); first | refine Keeps.sub (u := u) hy ?_ (fun hk => ?_) | refine Keeps.subA (u := u) hy ?_ (fun hk => ?_) | refine Keeps.subP (u := u) hy ?_ (fun hk => ?_) | clear hy)
    | with_reducible refine Keeps.ite ?_ ?_
    | with_reducible apply Keeps.set
    | with_reducible apply Keeps.off
    | with_reducible apply Keeps.setBit
    | with_reducible apply Keeps.when
    | with_reducible apply keeps_dieCheck
    | with_reducible apply keeps_hkData
    | with_reducible apply keeps_parkSupply
    | with_reducible apply keeps_sourceSent
    | split
    | intro)
theorem keeps_hkDiscard {u s : State} (h : Keeps u s)  : Keeps u (hkDiscard s) := by
  unfold hkDiscard
  repeat' (first
    | with_reducible assumption
    | with_reducible apply Keeps.off
    | with_reducible apply Keeps.forUpTo
    | split
    | intro)
theorem keeps_hkComplete {u s : State} (h : Keeps u s) (code : Nat) : Keeps u (hkComplete code s) := by
  unfold hkComplete
  repeat' (first
    | with_reducible assumption
    | (extract_lets -underBinder +onlyGivenNames y; clear_value (hy : y = _); first | refine Keeps.sub (u := u) hy ?_ (fun hk => ?_) | refine Keeps.subA (u := u) hy ?_ (fun hk => ?_) | refine Keeps.subP (u := u) hy ?_ (fun hk => ?_) | clear hy)
    | with_reducible refine Keeps.ite ?_ ?_
    | with_reducible apply Keeps.setB
    | with_reducible apply keeps_hkAccumulate
    | with_reducible apply keeps_hkData
    | with_reducible apply keeps_hkDiscard
    | with_reducible apply keeps_hkStart
    | split
    | intro)
theorem keeps_hkCtrlWrite {u s : State} (h : Keeps u s) (v : Nat) : Keeps u (hkCtrlWrite v s) := by
  unfold hkCtrlWrite
  repeat' (first
    | with_reducible assumption
    | (extract_lets -underBinder +onlyGivenNames y; clear_value (hy : y = _); first | refine Keeps.sub (u := u) hy ?_ (fun hk => ?_) | refine Keeps.subA (u := u) hy ?_ (fun hk => ?_) | refine Keeps.subP (u := u) hy ?_ (fun hk => ?_) | clear hy)
    | with_reducible refine Keeps.ite ?_ ?_
    | with_reducible apply Keeps.set
    | with_reducible apply Keeps.setB
    | with_reducible apply keeps_hkStart
    | with_reducible apply keeps_hkDiscard
    | split
    | intro)
theorem keeps_hkUrgent {u s : State} (h : Keeps u s) (v : Nat) : Keeps u (hkUrgent v s) := by
  unfold hkUrgent
  repeat' (first
    | with_reducible assumption
    | (extract_lets -underBinder +onlyGivenNames y; clear_value (hy : y = _); first | refine Keeps.sub (u := u) hy ?_ (fun hk => ?_) | refine Keeps.subA (u := u) hy ?_ (fun hk => ?_) | refine Keeps.subP (u := u) hy ?_ (fun hk => ?_) | clear hy)
    | with_reducible refine Keeps.ite ?_ ?_
    | with_reducible apply Keeps.set
    | with_reducible apply Keeps.on
    | with_reducible apply keeps_hkStart
    | split
    | intro)
theorem keeps_hkChWrite {u s : State} (h : Keeps u s) (w : Who) (i : Nat) (v : Nat) : Keeps u (hkChWrite w i v s) := by
  unfold hkChWrite
  repeat' (first
    | with_reducible assumption
    | (extract_lets -underBinder +onlyGivenNames y; clear_value (hy : y = _); first | refine Keeps.sub (u := u) hy ?_ (fun hk => ?_) | refine Keeps.subA (u := u) hy ?_ (fun hk => ?_) | refine Keeps.subP (u := u) hy ?_ (fun hk => ?_) | clear hy)
    | with_reducible refine Keeps.ite ?_ ?_
    | with_reducible apply Keeps.off
    | with_reducible apply Keeps.clrBit
    | with_reducible apply keeps_storeWord
    | split
    | intro)
theorem keeps_execSdclkWrite (w : Who) (k : Fin 4) (v : Word) (s : State) : ∃ u, execSdclkWrite w k v s = .next u ∧ Keeps s u := by
  refine ⟨_, rfl, ?_⟩
  have h := Keeps.refl s
  repeat' (first
    | with_reducible assumption
    | with_reducible apply keeps_sideband
    | with_reducible apply keeps_sdclkWrite
    | split
    | intro)
theorem keeps_execSdCfgWrite (w : Who) (c : Fin 24) (v : Word) (s : State) : ∃ u, execSdCfgWrite w c v s = .next u ∧ Keeps s u := by
  refine ⟨_, rfl, ?_⟩
  have h := Keeps.refl s
  repeat' (first
    | with_reducible assumption
    | with_reducible apply keeps_sideband
    | with_reducible apply keeps_sdCfgWrite
    | split
    | intro)
theorem keeps_execSdFilled (c : Fin 24) (l : List (Bool × Bool)) (s : State) : ∃ u, execSdFilled c l s = .next u ∧ Keeps s u := by
  refine ⟨_, rfl, ?_⟩
  have h := Keeps.refl s
  repeat' (first
    | with_reducible assumption
    | with_reducible apply keeps_sdFeed
    | split
    | intro)
theorem keeps_execSdResultTake (c : Fin 24) (l : List (Bool × Bool)) (s : State) : ∃ u, execSdResultTake c l s = .next u ∧ Keeps s u := by
  refine ⟨_, rfl, ?_⟩
  have h := Keeps.refl s
  repeat' (first
    | with_reducible assumption
    | with_reducible apply keeps_sdFeed
    | split
    | intro)
theorem keeps_execSdResultSend (c : Fin 24) (s : State) : ∃ u, execSdResultSend c s = .next u ∧ Keeps s u := by
  refine ⟨_, rfl, ?_⟩
  have h := Keeps.refl s
  repeat' (first
    | with_reducible assumption
    | with_reducible apply keeps_sdSend
    | split
    | intro)
theorem keeps_execSdTripAssert (c : Fin 24) (l : List (Bool × Bool)) (s : State) : ∃ u, execSdTripAssert c l s = .next u ∧ Keeps s u := by
  refine ⟨_, rfl, ?_⟩
  have h := Keeps.refl s
  repeat' (first
    | with_reducible assumption
    | with_reducible apply keeps_sdFeed
    | split
    | intro)
theorem keeps_execSdTripDeassert (c : Fin 24) (l : List (Bool × Bool)) (s : State) : ∃ u, execSdTripDeassert c l s = .next u ∧ Keeps s u := by
  refine ⟨_, rfl, ?_⟩
  have h := Keeps.refl s
  repeat' (first
    | with_reducible assumption
    | with_reducible apply keeps_sdFeed
    | split
    | intro)
theorem keeps_execSdStuck (c : Fin 24) (l : List (Bool × Bool)) (s : State) : ∃ u, execSdStuck c l s = .next u ∧ Keeps s u := by
  refine ⟨_, rfl, ?_⟩
  have h := Keeps.refl s
  repeat' (first
    | with_reducible assumption
    | with_reducible apply keeps_sdFeed
    | split
    | intro)
theorem keeps_execSdUnstuck (c : Fin 24) (l : List (Bool × Bool)) (s : State) : ∃ u, execSdUnstuck c l s = .next u ∧ Keeps s u := by
  refine ⟨_, rfl, ?_⟩
  have h := Keeps.refl s
  repeat' (first
    | with_reducible assumption
    | with_reducible apply keeps_sdFeed
    | split
    | intro)
theorem keeps_execFcTrigger (c : Fin 8) (x : Option (Who × Word)) (s : State) : ∃ u, execFcTrigger c x s = .next u ∧ Keeps s u := by
  refine ⟨_, rfl, ?_⟩
  have h := Keeps.refl s
  repeat' (first
    | with_reducible assumption
    | with_reducible refine Keeps.ite ?_ ?_
    | with_reducible apply keeps_fcCfgWrite
    | with_reducible apply keeps_fcEvent
    | with_reducible apply keeps_fcTrig
    | with_reducible apply keeps_sideband
    | split
    | intro)
theorem keeps_execFcConversionComplete (c : Fin 8) (codes : BitVec 112) (s : State) : ∃ u, execFcConversionComplete c codes s = .next u ∧ Keeps s u := by
  refine ⟨_, rfl, ?_⟩
  have h := Keeps.refl s
  repeat' (first
    | with_reducible assumption
    | with_reducible refine Keeps.ite ?_ ?_
    | with_reducible apply keeps_fcComplete
    | split
    | intro)
theorem keeps_execFcSettled (c : Fin 8) (s : State) : ∃ u, execFcSettled c s = .next u ∧ Keeps s u := by
  refine ⟨_, rfl, ?_⟩
  have h := Keeps.refl s
  repeat' (first
    | with_reducible assumption
    | (extract_lets -underBinder +onlyGivenNames y; clear_value (hy : y = _); first | refine Keeps.sub (u := s) hy ?_ (fun hk => ?_) | refine Keeps.subA (u := s) hy ?_ (fun hk => ?_) | refine Keeps.subP (u := s) hy ?_ (fun hk => ?_) | clear hy)
    | with_reducible apply Keeps.on
    | with_reducible apply Keeps.when
    | split
    | intro)
theorem keeps_execResolverEnable (w : Who) (r : Fin 2) (v : Word) (s : State) : ∃ u, execResolverEnable w r v s = .next u ∧ Keeps s u := by
  refine ⟨_, rfl, ?_⟩
  have h := Keeps.refl s
  repeat' (first
    | with_reducible assumption
    | (extract_lets -underBinder +onlyGivenNames y; clear_value (hy : y = _); first | refine Keeps.sub (u := s) hy ?_ (fun hk => ?_) | refine Keeps.subA (u := s) hy ?_ (fun hk => ?_) | refine Keeps.subP (u := s) hy ?_ (fun hk => ?_) | clear hy)
    | with_reducible apply keeps_sideband
    | with_reducible apply keeps_resCfgWrite
    | split
    | intro)
theorem keeps_execResolverSample (r : Fin 2) (sinCode cosCode : BitVec 14) (s : State) : ∃ u, execResolverSample r sinCode cosCode s = .next u ∧ Keeps s u := by
  refine ⟨_, rfl, ?_⟩
  have h := Keeps.refl s
  repeat' (first
    | with_reducible assumption
    | with_reducible apply keeps_resSample
    | split
    | intro)
theorem keeps_execResolverValid (r : Fin 2) (s : State) : ∃ u, execResolverValid r s = .next u ∧ Keeps s u := by
  refine ⟨_, rfl, ?_⟩
  have h := Keeps.refl s
  repeat' (first
    | with_reducible assumption
    | (extract_lets -underBinder +onlyGivenNames y; clear_value (hy : y = _); first | refine Keeps.sub (u := s) hy ?_ (fun hk => ?_) | refine Keeps.subA (u := s) hy ?_ (fun hk => ?_) | refine Keeps.subP (u := s) hy ?_ (fun hk => ?_) | clear hy)
    | with_reducible apply Keeps.on
    | with_reducible apply Keeps.when
    | split
    | intro)
theorem keeps_execExcFault (r : Fin 2) (s : State) : ∃ u, execExcFault r s = .next u ∧ Keeps s u := by
  refine ⟨_, rfl, ?_⟩
  have h := Keeps.refl s
  repeat' (first
    | with_reducible assumption
    | with_reducible refine Keeps.ite ?_ ?_
    | with_reducible apply Keeps.on
    | with_reducible apply Keeps.off
    | split
    | intro)
theorem keeps_execHkConversionComplete (code : BitVec 12) (s : State) : ∃ u, execHkConversionComplete code s = .next u ∧ Keeps s u := by
  refine ⟨_, rfl, ?_⟩
  have h := Keeps.refl s
  repeat' (first
    | with_reducible assumption
    | with_reducible apply keeps_hkComplete
    | split
    | intro)
theorem keeps_execHkUrgentRequest (w : Who) (v : Word) (s : State) : ∃ u, execHkUrgentRequest w v s = .next u ∧ Keeps s u := by
  refine ⟨_, rfl, ?_⟩
  have h := Keeps.refl s
  repeat' (first
    | with_reducible assumption
    | with_reducible apply keeps_sideband
    | with_reducible apply keeps_hkUrgent
    | split
    | intro)
theorem keeps_execHkDataRead (w : Who) (s : State) : ∃ u, execHkDataRead w s = .next u ∧ Keeps s u := by
  refine ⟨_, rfl, ?_⟩
  have h := Keeps.refl s
  repeat' (first
    | with_reducible assumption
    | (extract_lets -underBinder +onlyGivenNames y; clear_value (hy : y = _); first | refine Keeps.sub (u := s) hy ?_ (fun hk => ?_) | refine Keeps.subA (u := s) hy ?_ (fun hk => ?_) | refine Keeps.subP (u := s) hy ?_ (fun hk => ?_) | clear hy)
    | with_reducible refine Keeps.ite ?_ ?_
    | with_reducible apply Keeps.off
    | with_reducible apply keeps_sidebandRead
    | refine Keeps.idd ?_
    | split
    | intro)

end Sys2Proof.Machine
end

