-- ==== Sys2Proof/Laws/KeepsTraction.lean ====
section
/-!
SUPPORT. The operations of Machine/Traction.lean keep the canonical forms, the queue and the time.
-/
namespace Sys2Proof.Machine
open Sys2Proof
set_option linter.unreachableTactic false
set_option linter.unusedTactic false

theorem keeps_quot {u s : State} (h : Keeps u s) (n d : Nat) : Keeps u (quot n d s).2 := by
  unfold quot
  repeat' (first
    | with_reducible assumption
    | with_reducible refine Keeps.ite ?_ ?_
    | with_reducible apply Keeps.free
    | split
    | intro)
theorem keeps_quotI {u s : State} (h : Keeps u s) (n d : Int) : Keeps u (quotI n d s).2 := by
  unfold quotI
  repeat' (first
    | with_reducible assumption
    | with_reducible refine Keeps.ite ?_ ?_
    | with_reducible apply Keeps.free
    | split
    | intro)
theorem keeps_trFlag {u s : State} (h : Keeps u s) (m : Nat) (i : Nat) (v : Bool) : Keeps u (trFlag m i v s) := by
  unfold trFlag
  repeat' (first
    | with_reducible assumption
    | with_reducible apply Keeps.putBit
    | split
    | intro)
theorem keeps_phaseLost {u s : State} (h : Keeps u s) (m : Nat) : Keeps u (phaseLost m s) := by
  unfold phaseLost
  repeat' (first
    | with_reducible assumption
    | with_reducible apply keeps_escalate
    | with_reducible apply keeps_trFlag
    | split
    | intro)
theorem keeps_seeSensor {u s : State} (h : Keeps u s) (m x : Nat) (replaced : Bool) : Keeps u (seeSensor m x replaced s) := by
  unfold seeSensor
  repeat' (first
    | with_reducible assumption
    | (extract_lets -underBinder +onlyGivenNames y; clear_value (hy : y = _); first | refine Keeps.sub (u := u) hy ?_ (fun hk => ?_) | refine Keeps.subA (u := u) hy ?_ (fun hk => ?_) | refine Keeps.subP (u := u) hy ?_ (fun hk => ?_) | clear hy)
    | with_reducible refine Keeps.ite ?_ ?_
    | with_reducible apply Keeps.sset
    | with_reducible apply Keeps.setFree
    | with_reducible apply keeps_quotI
    | split
    | intro)
theorem keeps_holdPair {u s : State} (h : Keeps u s) (m ph : Nat) : Keeps u (holdPair m ph s) := by
  unfold holdPair
  repeat' (first
    | with_reducible assumption
    | (extract_lets -underBinder +onlyGivenNames y; clear_value (hy : y = _); first | refine Keeps.sub (u := u) hy ?_ (fun hk => ?_) | refine Keeps.subA (u := u) hy ?_ (fun hk => ?_) | refine Keeps.subP (u := u) hy ?_ (fun hk => ?_) | clear hy)
    | with_reducible apply Keeps.set
    | with_reducible apply Keeps.sset
    | split
    | intro)
theorem keeps_phaseCurrents {u s : State} (h : Keeps u s) (m : Nat) : Keeps u (phaseCurrents m s) := by
  unfold phaseCurrents
  repeat' (first
    | with_reducible assumption
    | (extract_lets -underBinder +onlyGivenNames y; clear_value (hy : y = _); first | refine Keeps.sub (u := u) hy ?_ (fun hk => ?_) | refine Keeps.subA (u := u) hy ?_ (fun hk => ?_) | refine Keeps.subP (u := u) hy ?_ (fun hk => ?_) | refine Keeps.subF (u := u) hy (fun t ht => ?_) (fun hk => ?_) | refine Keeps.subF1 (u := u) hy (fun a t ht => ?_) (fun hk => ?_) | refine Keeps.subF2 (u := u) hy (fun a b t ht => ?_) (fun hk => ?_) | refine Keeps.subG1 (u := u) hy (fun a => ?_) (fun hk => ?_) | refine Keeps.subG2 (u := u) hy (fun a b => ?_) (fun hk => ?_) | clear hy)
    | with_reducible apply Keeps.incSat
    | with_reducible apply Keeps.sset
    | with_reducible apply Keeps.forUpTo
    | with_reducible apply_assumption
    | split
    | intro)
theorem keeps_sensorCheck {u s : State} (h : Keeps u s) (m : Nat) (p : Nat → Int) : Keeps u (sensorCheck m p s) := by
  unfold sensorCheck
  repeat' (first
    | with_reducible assumption
    | (extract_lets -underBinder +onlyGivenNames y; clear_value (hy : y = _); first | refine Keeps.sub (u := u) hy ?_ (fun hk => ?_) | refine Keeps.subA (u := u) hy ?_ (fun hk => ?_) | refine Keeps.subP (u := u) hy ?_ (fun hk => ?_) | clear hy)
    | with_reducible refine Keeps.ite ?_ ?_
    | with_reducible apply Keeps.set
    | with_reducible apply Keeps.on
    | with_reducible apply Keeps.setBit
    | with_reducible apply Keeps.when
    | with_reducible apply Keeps.forEach
    | with_reducible apply Keeps.forUpTo
    | with_reducible apply keeps_holdPair
    | with_reducible apply keeps_phaseCurrents
    | with_reducible apply keeps_phaseLost
    | with_reducible apply keeps_seeSensor
    | with_reducible apply keeps_trFlag
    | split
    | intro)
theorem keeps_elecMove {u s : State} (h : Keeps u s) (m : Nat) (u_ : Int) (n : Nat) : Keeps u (elecMove m u_ n s).2 := by
  unfold elecMove
  repeat' (first
    | with_reducible assumption
    | (extract_lets -underBinder +onlyGivenNames y; clear_value (hy : y = _); first | refine Keeps.sub (u := u) hy ?_ (fun hk => ?_) | refine Keeps.subA (u := u) hy ?_ (fun hk => ?_) | refine Keeps.subP (u := u) hy ?_ (fun hk => ?_) | clear hy)
    | with_reducible apply keeps_quotI
    | split
    | intro)
theorem keeps_elecRate {u s : State} (h : Keeps u s) (m : Nat) (u_ : Int) : Keeps u (elecRate m u_ s).2 := by
  unfold elecRate
  repeat' (first
    | with_reducible assumption
    | (extract_lets -underBinder +onlyGivenNames y; clear_value (hy : y = _); first | refine Keeps.sub (u := u) hy ?_ (fun hk => ?_) | refine Keeps.subA (u := u) hy ?_ (fun hk => ?_) | refine Keeps.subP (u := u) hy ?_ (fun hk => ?_) | clear hy)
    | with_reducible apply keeps_quotI
    | split
    | intro)
theorem keeps_rotorAngles {u s : State} (h : Keeps u s) (m : Nat) (x : MotorSample) : Keeps u (rotorAngles m x s).2 := by
  unfold rotorAngles
  repeat' (first
    | with_reducible assumption
    | (extract_lets -underBinder +onlyGivenNames y; clear_value (hy : y = _); first | refine Keeps.sub (u := u) hy ?_ (fun hk => ?_) | refine Keeps.subA (u := u) hy ?_ (fun hk => ?_) | refine Keeps.subP (u := u) hy ?_ (fun hk => ?_) | clear hy)
    | with_reducible apply keeps_elecMove
    | split
    | intro)
theorem keeps_extrapolated {u s : State} (h : Keeps u s) (m : Nat) : Keeps u (extrapolated m s).2 := by
  unfold extrapolated
  repeat' (first
    | with_reducible assumption
    | (extract_lets -underBinder +onlyGivenNames y; clear_value (hy : y = _); first | refine Keeps.sub (u := u) hy ?_ (fun hk => ?_) | refine Keeps.subA (u := u) hy ?_ (fun hk => ?_) | refine Keeps.subP (u := u) hy ?_ (fun hk => ?_) | clear hy)
    | with_reducible apply keeps_elecMove
    | split
    | intro)
theorem keeps_holdAngle {u s : State} (h : Keeps u s) (m : Nat) (a u_ : Int) : Keeps u (holdAngle m a u_ s) := by
  unfold holdAngle
  repeat' (first
    | with_reducible assumption
    | with_reducible apply Keeps.set
    | with_reducible apply Keeps.sset
    | split
    | intro)
theorem keeps_angleCheck {u s : State} (h : Keeps u s) (m : Nat) (r b : Int) : Keeps u (angleCheck m r b s) := by
  unfold angleCheck
  repeat' (first
    | with_reducible assumption
    | (extract_lets -underBinder +onlyGivenNames y; clear_value (hy : y = _); first | refine Keeps.sub (u := u) hy ?_ (fun hk => ?_) | refine Keeps.subA (u := u) hy ?_ (fun hk => ?_) | refine Keeps.subP (u := u) hy ?_ (fun hk => ?_) | clear hy)
    | with_reducible refine Keeps.ite ?_ ?_
    | with_reducible apply Keeps.set
    | with_reducible apply Keeps.off
    | with_reducible apply Keeps.inc
    | with_reducible apply keeps_holdAngle
    | with_reducible apply keeps_trFlag
    | split
    | intro)
theorem keeps_resolverGone {u s : State} (h : Keeps u s) (m : Nat) : Keeps u (resolverGone m s) := by
  unfold resolverGone
  repeat' (first
    | with_reducible assumption
    | with_reducible refine Keeps.ite ?_ ?_
    | with_reducible apply Keeps.set
    | with_reducible apply keeps_escalate
    | split
    | intro)
theorem keeps_rotorLost {u s : State} (h : Keeps u s) (m : Nat) (r b x : Int) : Keeps u (rotorLost m r b x s) := by
  unfold rotorLost
  repeat' (first
    | with_reducible assumption
    | (extract_lets -underBinder +onlyGivenNames y; clear_value (hy : y = _); first | refine Keeps.sub (u := u) hy ?_ (fun hk => ?_) | refine Keeps.subA (u := u) hy ?_ (fun hk => ?_) | refine Keeps.subP (u := u) hy ?_ (fun hk => ?_) | clear hy)
    | with_reducible refine Keeps.ite ?_ ?_
    | with_reducible apply Keeps.set
    | with_reducible apply Keeps.on
    | with_reducible apply Keeps.off
    | with_reducible apply Keeps.inc
    | with_reducible apply keeps_escalate
    | with_reducible apply keeps_trFlag
    | split
    | intro)
theorem keeps_resolverWatch {u s : State} (h : Keeps u s) (m : Nat) (r b : Int) : Keeps u (resolverWatch m r b s) := by
  unfold resolverWatch
  repeat' (first
    | with_reducible assumption
    | with_reducible refine Keeps.ite ?_ ?_
    | with_reducible apply Keeps.set
    | with_reducible apply Keeps.off
    | with_reducible apply Keeps.inc
    | with_reducible apply keeps_trFlag
    | split
    | intro)
theorem keeps_probeStart {u s : State} (h : Keeps u s) (m : Nat) : Keeps u (probeStart m s) := by
  unfold probeStart
  repeat' (first
    | with_reducible assumption
    | with_reducible refine Keeps.ite ?_ ?_
    | with_reducible apply Keeps.set
    | with_reducible apply Keeps.off
    | split
    | intro)
theorem keeps_probeSample {u s : State} (h : Keeps u s) (m : Nat) (p : Option Probe) : Keeps u (probeSample m p s) := by
  unfold probeSample
  repeat' (first
    | with_reducible assumption
    | (extract_lets -underBinder +onlyGivenNames y; clear_value (hy : y = _); first | refine Keeps.sub (u := u) hy ?_ (fun hk => ?_) | refine Keeps.subA (u := u) hy ?_ (fun hk => ?_) | refine Keeps.subP (u := u) hy ?_ (fun hk => ?_) | refine Keeps.subF (u := u) hy (fun t ht => ?_) (fun hk => ?_) | refine Keeps.subF1 (u := u) hy (fun a t ht => ?_) (fun hk => ?_) | refine Keeps.subF2 (u := u) hy (fun a b t ht => ?_) (fun hk => ?_) | refine Keeps.subG1 (u := u) hy (fun a => ?_) (fun hk => ?_) | refine Keeps.subG2 (u := u) hy (fun a b => ?_) (fun hk => ?_) | clear hy)
    | with_reducible refine Keeps.ite ?_ ?_
    | with_reducible apply Keeps.on
    | with_reducible apply keeps_escalate
    | with_reducible apply keeps_holdAngle
    | with_reducible apply_assumption
    | split
    | intro)
theorem keeps_catchSample {u s : State} (h : Keeps u s) (m : Nat) (d q : Int) : Keeps u (catchSample m d q s) := by
  unfold catchSample
  repeat' (first
    | with_reducible assumption
    | (extract_lets -underBinder +onlyGivenNames y; clear_value (hy : y = _); first | refine Keeps.sub (u := u) hy ?_ (fun hk => ?_) | refine Keeps.subA (u := u) hy ?_ (fun hk => ?_) | refine Keeps.subP (u := u) hy ?_ (fun hk => ?_) | clear hy)
    | with_reducible refine Keeps.ite ?_ ?_
    | with_reducible apply Keeps.set
    | with_reducible apply Keeps.off
    | with_reducible apply Keeps.inc
    | with_reducible apply Keeps.when
    | with_reducible apply keeps_escalate
    | with_reducible apply keeps_trFlag
    | split
    | intro)
theorem keeps_catchStart {u s : State} (h : Keeps u s) (m : Nat) : Keeps u (catchStart m s) := by
  unfold catchStart
  repeat' (first
    | with_reducible assumption
    | with_reducible apply Keeps.set
    | with_reducible apply Keeps.off
    | with_reducible apply keeps_trFlag
    | split
    | intro)
theorem keeps_motorRefs {u s : State} (h : Keeps u s) (m : Nat) : Keeps u (motorRefs m s) := by
  unfold motorRefs
  repeat' (first
    | with_reducible assumption
    | (extract_lets -underBinder +onlyGivenNames y; clear_value (hy : y = _); first | refine Keeps.sub (u := u) hy ?_ (fun hk => ?_) | refine Keeps.subA (u := u) hy ?_ (fun hk => ?_) | refine Keeps.subP (u := u) hy ?_ (fun hk => ?_) | clear hy)
    | with_reducible refine Keeps.ite ?_ ?_
    | with_reducible apply Keeps.set
    | with_reducible apply Keeps.off
    | with_reducible apply Keeps.sset
    | with_reducible apply keeps_quotI
    | split
    | intro)
theorem keeps_sendChan {u s : State} (h : Keeps u s) (e c v : Nat) : Keeps u (sendChan e c v s) := by
  unfold sendChan
  repeat' (first
    | with_reducible assumption
    | with_reducible apply keeps_writePort
    | split
    | intro)
theorem keeps_bandRequest {u s : State} (h : Keeps u s) (m : Nat) : Keeps u (bandRequest m s) := by
  unfold bandRequest
  repeat' (first
    | with_reducible assumption
    | (extract_lets -underBinder +onlyGivenNames y; clear_value (hy : y = _); first | refine Keeps.sub (u := u) hy ?_ (fun hk => ?_) | refine Keeps.subA (u := u) hy ?_ (fun hk => ?_) | refine Keeps.subP (u := u) hy ?_ (fun hk => ?_) | clear hy)
    | with_reducible refine Keeps.ite ?_ ?_
    | with_reducible apply Keeps.set
    | split
    | intro)
theorem keeps_angleAtBoundary {u s : State} (h : Keeps u s) (m : Nat) : Keeps u (angleAtBoundary m s).2 := by
  unfold angleAtBoundary
  repeat' (first
    | with_reducible assumption
    | (extract_lets -underBinder +onlyGivenNames y; clear_value (hy : y = _); first | refine Keeps.sub (u := u) hy ?_ (fun hk => ?_) | refine Keeps.subA (u := u) hy ?_ (fun hk => ?_) | refine Keeps.subP (u := u) hy ?_ (fun hk => ?_) | clear hy)
    | with_reducible apply keeps_elecMove
    | split
    | intro)
theorem keeps_modulate {u s : State} (h : Keeps u s) (m was : Nat) (x : MotorSample) : Keeps u (modulate m was x s) := by
  unfold modulate
  repeat' (first
    | with_reducible assumption
    | (extract_lets -underBinder +onlyGivenNames y; clear_value (hy : y = _); first | refine Keeps.sub (u := u) hy ?_ (fun hk => ?_) | refine Keeps.subA (u := u) hy ?_ (fun hk => ?_) | refine Keeps.subP (u := u) hy ?_ (fun hk => ?_) | clear hy)
    | with_reducible refine Keeps.ite ?_ ?_
    | with_reducible apply Keeps.when
    | with_reducible apply keeps_angleAtBoundary
    | with_reducible apply keeps_catchUp
    | with_reducible apply keeps_elecRate
    | with_reducible apply keeps_sendChan
    | split
    | intro)
theorem keeps_motorSample {u s : State} (h : Keeps u s) (m : Nat) (x : MotorSample) : Keeps u (motorSample m x s) := by
  unfold motorSample
  repeat' (first
    | with_reducible assumption
    | (extract_lets -underBinder +onlyGivenNames y; clear_value (hy : y = _); first | refine Keeps.sub (u := u) hy ?_ (fun hk => ?_) | refine Keeps.subA (u := u) hy ?_ (fun hk => ?_) | refine Keeps.subP (u := u) hy ?_ (fun hk => ?_) | clear hy)
    | with_reducible refine Keeps.ite ?_ ?_
    | with_reducible apply Keeps.set
    | with_reducible apply Keeps.sset
    | with_reducible apply keeps_angleCheck
    | with_reducible apply keeps_bandRequest
    | with_reducible apply keeps_catchSample
    | with_reducible apply keeps_escalate
    | with_reducible apply keeps_extrapolated
    | with_reducible apply keeps_modulate
    | with_reducible apply keeps_motorRefs
    | with_reducible apply keeps_probeSample
    | with_reducible apply keeps_resolverGone
    | with_reducible apply keeps_resolverWatch
    | with_reducible apply keeps_rotorAngles
    | with_reducible apply keeps_rotorLost
    | with_reducible apply keeps_sendChan
    | with_reducible apply keeps_sensorCheck
    | with_reducible apply keeps_trFlag
    | split
    | intro)
theorem keeps_stageU {u s : State} (h : Keeps u s) (e k : Nat) (v : Int) : Keeps u (stageU e k v s) := by
  unfold stageU
  repeat' (first
    | with_reducible assumption
    | with_reducible apply Keeps.setBit
    | with_reducible apply Keeps.sset
    | split
    | intro)
theorem keeps_tractionObs {u s : State} (h : Keeps u s) (o : ProgObs) : Keeps u (tractionObs o s) := by
  unfold tractionObs
  repeat' (first
    | with_reducible assumption
    | (extract_lets -underBinder +onlyGivenNames y; clear_value (hy : y = _); first | refine Keeps.sub (u := u) hy ?_ (fun hk => ?_) | refine Keeps.subA (u := u) hy ?_ (fun hk => ?_) | refine Keeps.subP (u := u) hy ?_ (fun hk => ?_) | clear hy)
    | with_reducible refine Keeps.ite ?_ ?_
    | with_reducible apply keeps_motorSample
    | with_reducible apply keeps_stageU
    | split
    | intro)
theorem keeps_moveTrim {u s : State} (h : Keeps u s) (later : Nat) (earlier : Nat) (bound : Int) : Keeps u (moveTrim later earlier bound s) := by
  unfold moveTrim
  repeat' (first
    | with_reducible assumption
    | (extract_lets -underBinder +onlyGivenNames y; clear_value (hy : y = _); first | refine Keeps.sub (u := u) hy ?_ (fun hk => ?_) | refine Keeps.subA (u := u) hy ?_ (fun hk => ?_) | refine Keeps.subP (u := u) hy ?_ (fun hk => ?_) | clear hy)
    | with_reducible apply Keeps.sset
    | split
    | intro)
theorem keeps_sharePair {u s : State} (h : Keeps u s) (a : Nat) (b : Nat) (ia : Nat) (ib : Nat) : Keeps u (sharePair a b ia ib s) := by
  unfold sharePair
  repeat' (first
    | with_reducible assumption
    | with_reducible refine Keeps.ite ?_ ?_
    | with_reducible apply keeps_moveTrim
    | split
    | intro)
theorem keeps_currentSharing {u s : State} (h : Keeps u s) (m : Nat) : Keeps u (currentSharing m s) := by
  unfold currentSharing
  repeat' (first
    | with_reducible assumption
    | (extract_lets -underBinder +onlyGivenNames y; clear_value (hy : y = _); first | refine Keeps.sub (u := u) hy ?_ (fun hk => ?_) | refine Keeps.subA (u := u) hy ?_ (fun hk => ?_) | refine Keeps.subP (u := u) hy ?_ (fun hk => ?_) | refine Keeps.subF (u := u) hy (fun t ht => ?_) (fun hk => ?_) | refine Keeps.subF1 (u := u) hy (fun a t ht => ?_) (fun hk => ?_) | refine Keeps.subF2 (u := u) hy (fun a b t ht => ?_) (fun hk => ?_) | refine Keeps.subG1 (u := u) hy (fun a => ?_) (fun hk => ?_) | refine Keeps.subG2 (u := u) hy (fun a b => ?_) (fun hk => ?_) | clear hy)
    | with_reducible refine Keeps.ite ?_ ?_
    | with_reducible apply Keeps.set
    | with_reducible apply Keeps.off
    | with_reducible apply Keeps.forUpTo
    | with_reducible apply keeps_sharePair
    | with_reducible apply_assumption
    | split
    | intro)
theorem keeps_curveAt {u s : State} (h : Keeps u s) (m : Nat) (off : Nat) (c : Int) : Keeps u (curveAt m off c s).2 := by
  unfold curveAt
  repeat' (first
    | with_reducible assumption
    | (extract_lets -underBinder +onlyGivenNames y; clear_value (hy : y = _); first | refine Keeps.sub (u := u) hy ?_ (fun hk => ?_) | refine Keeps.subA (u := u) hy ?_ (fun hk => ?_) | refine Keeps.subP (u := u) hy ?_ (fun hk => ?_) | clear hy)
    | with_reducible refine Keeps.ite ?_ ?_
    | with_reducible apply Keeps.off
    | with_reducible apply Keeps.free
    | with_reducible apply Keeps.foldl
    | split
    | intro)
theorem keeps_curveEval {u s : State} (h : Keeps u s) (m : Nat) : Keeps u (curveEval m s) := by
  unfold curveEval
  repeat' (first
    | with_reducible assumption
    | (extract_lets -underBinder +onlyGivenNames y; clear_value (hy : y = _); first | refine Keeps.sub (u := u) hy ?_ (fun hk => ?_) | refine Keeps.subA (u := u) hy ?_ (fun hk => ?_) | refine Keeps.subP (u := u) hy ?_ (fun hk => ?_) | clear hy)
    | with_reducible refine Keeps.ite ?_ ?_
    | with_reducible apply Keeps.set
    | with_reducible apply Keeps.setB
    | with_reducible apply Keeps.sset
    | with_reducible apply keeps_curveAt
    | with_reducible apply keeps_quot
    | with_reducible apply keeps_trFlag
    | split
    | intro)
theorem keeps_limpEntry {u s : State} (h : Keeps u s) (m : Nat) : Keeps u (limpEntry m s) := by
  unfold limpEntry
  repeat' (first
    | with_reducible assumption
    | with_reducible refine Keeps.ite ?_ ?_
    | with_reducible apply Keeps.on
    | split
    | intro)
theorem keeps_ominUpdate {u s : State} (h : Keeps u s) (m : Nat) (v : Nat) : Keeps u (ominUpdate m v s) := by
  unfold ominUpdate
  repeat' (first
    | with_reducible assumption
    | (extract_lets -underBinder +onlyGivenNames y; clear_value (hy : y = _); first | refine Keeps.sub (u := u) hy ?_ (fun hk => ?_) | refine Keeps.subA (u := u) hy ?_ (fun hk => ?_) | refine Keeps.subP (u := u) hy ?_ (fun hk => ?_) | clear hy)
    | with_reducible refine Keeps.ite ?_ ?_
    | with_reducible apply Keeps.set
    | with_reducible apply Keeps.forEach
    | with_reducible apply keeps_lsCtrlWrite
    | split
    | intro)
theorem keeps_setResidue {u s : State} (h : Keeps u s) (x : Nat) (l : List Int) : Keeps u (setResidue x l s) := by
  unfold setResidue
  repeat' (first
    | with_reducible assumption
    | with_reducible apply Keeps.set
    | with_reducible apply Keeps.sset
    | with_reducible apply Keeps.foldl
    | split
    | intro)
theorem keeps_addDamage {u s : State} (h : Keeps u s) (x : Nat) : Keeps u (addDamage x s) := by
  unfold addDamage
  repeat' (first
    | with_reducible assumption
    | with_reducible apply Keeps.set
    | with_reducible apply Keeps.free
    | split
    | intro)
theorem keeps_junctionReport {u s : State} (h : Keeps u s) (x : Nat) (v : Int) : Keeps u (junctionReport x v s) := by
  unfold junctionReport
  repeat' (first
    | with_reducible assumption
    | (extract_lets -underBinder +onlyGivenNames y; clear_value (hy : y = _); first | refine Keeps.sub (u := u) hy ?_ (fun hk => ?_) | refine Keeps.subA (u := u) hy ?_ (fun hk => ?_) | refine Keeps.subP (u := u) hy ?_ (fun hk => ?_) | clear hy)
    | with_reducible refine Keeps.ite ?_ ?_
    | with_reducible apply Keeps.forUpTo
    | with_reducible apply keeps_addDamage
    | with_reducible apply keeps_setResidue
    | split
    | intro)
theorem keeps_holdDistance {u s : State} (h : Keeps u s) (m : Nat) : Keeps u (holdDistance m s) := by
  unfold holdDistance
  repeat' (first
    | with_reducible assumption
    | (extract_lets -underBinder +onlyGivenNames y; clear_value (hy : y = _); first | refine Keeps.sub (u := u) hy ?_ (fun hk => ?_) | refine Keeps.subA (u := u) hy ?_ (fun hk => ?_) | refine Keeps.subP (u := u) hy ?_ (fun hk => ?_) | clear hy)
    | with_reducible apply Keeps.set
    | with_reducible apply Keeps.forUpTo
    | split
    | intro)
theorem keeps_damageRate {u s : State} (h : Keeps u s) (m : Nat) : Keeps u (damageRate m s) := by
  unfold damageRate
  repeat' (first
    | with_reducible assumption
    | (extract_lets -underBinder +onlyGivenNames y; clear_value (hy : y = _); first | refine Keeps.sub (u := u) hy ?_ (fun hk => ?_) | refine Keeps.subA (u := u) hy ?_ (fun hk => ?_) | refine Keeps.subP (u := u) hy ?_ (fun hk => ?_) | clear hy)
    | with_reducible refine Keeps.ite ?_ ?_
    | with_reducible apply Keeps.set
    | with_reducible apply keeps_holdDistance
    | with_reducible apply keeps_quot
    | split
    | intro)
theorem keeps_saveModule {u s : State} (h : Keeps u s) (r x : Nat) : Keeps u (saveModule r x s) := by
  unfold saveModule
  repeat' (first
    | with_reducible assumption
    | (extract_lets -underBinder +onlyGivenNames y; clear_value (hy : y = _); first | refine Keeps.sub (u := u) hy ?_ (fun hk => ?_) | refine Keeps.subA (u := u) hy ?_ (fun hk => ?_) | refine Keeps.subP (u := u) hy ?_ (fun hk => ?_) | clear hy)
    | with_reducible apply Keeps.set
    | with_reducible apply Keeps.forUpTo
    | split
    | intro)
theorem keeps_wearSnapshot {u s : State} (h : Keeps u s) : Keeps u (wearSnapshot s) := by
  unfold wearSnapshot
  repeat' (first
    | with_reducible assumption
    | (extract_lets -underBinder +onlyGivenNames y; clear_value (hy : y = _); first | refine Keeps.sub (u := u) hy ?_ (fun hk => ?_) | refine Keeps.subA (u := u) hy ?_ (fun hk => ?_) | refine Keeps.subP (u := u) hy ?_ (fun hk => ?_) | clear hy)
    | with_reducible refine Keeps.ite ?_ ?_
    | with_reducible apply Keeps.set
    | with_reducible apply Keeps.send
    | with_reducible apply Keeps.forUpTo
    | with_reducible apply keeps_saveModule
    | split
    | intro)
theorem keeps_loadModule {u s : State} (h : Keeps u s) (r x : Nat) : Keeps u (loadModule r x s) := by
  unfold loadModule
  repeat' (first
    | with_reducible assumption
    | (extract_lets -underBinder +onlyGivenNames y; clear_value (hy : y = _); first | refine Keeps.sub (u := u) hy ?_ (fun hk => ?_) | refine Keeps.subA (u := u) hy ?_ (fun hk => ?_) | refine Keeps.subP (u := u) hy ?_ (fun hk => ?_) | clear hy)
    | with_reducible apply Keeps.set
    | with_reducible apply Keeps.forUpTo
    | split
    | intro)
theorem keeps_addLostMinute {u s : State} (h : Keeps u s) (r x : Nat) : Keeps u (addLostMinute r x s) := by
  unfold addLostMinute
  repeat' (first
    | with_reducible assumption
    | (extract_lets -underBinder +onlyGivenNames y; clear_value (hy : y = _); first | refine Keeps.sub (u := u) hy ?_ (fun hk => ?_) | refine Keeps.subA (u := u) hy ?_ (fun hk => ?_) | refine Keeps.subP (u := u) hy ?_ (fun hk => ?_) | clear hy)
    | with_reducible refine Keeps.ite ?_ ?_
    | with_reducible apply Keeps.set
    | with_reducible apply Keeps.free
    | with_reducible apply Keeps.when
    | with_reducible apply keeps_addDamage
    | split
    | intro)
theorem keeps_readAccount {u s : State} (h : Keeps u s)  : Keeps u (readAccount s) := by
  unfold readAccount
  repeat' (first
    | with_reducible assumption
    | (extract_lets -underBinder +onlyGivenNames y; clear_value (hy : y = _); first | refine Keeps.sub (u := u) hy ?_ (fun hk => ?_) | refine Keeps.subA (u := u) hy ?_ (fun hk => ?_) | refine Keeps.subP (u := u) hy ?_ (fun hk => ?_) | clear hy)
    | with_reducible refine Keeps.ite ?_ ?_
    | with_reducible apply Keeps.off
    | with_reducible apply Keeps.forUpTo
    | with_reducible apply keeps_loadModule
    | with_reducible apply keeps_addLostMinute
    | split
    | intro)
theorem keeps_writeFields {u s : State} (h : Keeps u s) (a : Nat) (l : List (Nat × Nat)) : Keeps u (writeFields a l s) := by
  induction l generalizing s a with
  | nil => exact h
  | cons e r ih => exact ih (h.writeN ..) _
theorem keeps_tractionStatus {u s : State} (h : Keeps u s) (m : Nat) : Keeps u (tractionStatus m s) := by
  unfold tractionStatus
  repeat' (first
    | with_reducible assumption
    | (extract_lets -underBinder +onlyGivenNames y; clear_value (hy : y = _); first | refine Keeps.sub (u := u) hy ?_ (fun hk => ?_) | refine Keeps.subA (u := u) hy ?_ (fun hk => ?_) | refine Keeps.subP (u := u) hy ?_ (fun hk => ?_) | clear hy)
    | with_reducible apply keeps_writeFields
    | split
    | intro)
theorem keeps_bandMotor {u s : State} (h : Keeps u s) (k : Nat) : Keeps u (bandMotor k s) := by
  unfold bandMotor
  repeat' (first
    | with_reducible assumption
    | (extract_lets -underBinder +onlyGivenNames y; clear_value (hy : y = _); first | refine Keeps.sub (u := u) hy ?_ (fun hk => ?_) | refine Keeps.subA (u := u) hy ?_ (fun hk => ?_) | refine Keeps.subP (u := u) hy ?_ (fun hk => ?_) | clear hy)
    | with_reducible refine Keeps.ite ?_ ?_
    | with_reducible apply Keeps.setB
    | with_reducible apply Keeps.on
    | with_reducible apply Keeps.when
    | with_reducible apply keeps_bandWrite
    | split
    | intro)
theorem keeps_execBandEvaluation  (s : State) : ∃ u, execBandEvaluation s = .next u ∧ Keeps s u := by
  refine ⟨_, rfl, ?_⟩
  have h := Keeps.refl s
  repeat' (first
    | with_reducible assumption
    | with_reducible apply keeps_bandMotor
    | split
    | intro)
theorem keeps_execCurrentSharing (m : Fin 2) (s : State) : ∃ u, execCurrentSharing m s = .next u ∧ Keeps s u := by
  refine ⟨_, rfl, ?_⟩
  have h := Keeps.refl s
  repeat' (first
    | with_reducible assumption
    | with_reducible apply keeps_currentSharing
    | split
    | intro)
theorem keeps_execWPhaseTrim (m : Fin 2) (w1 : Half) (w2 : Half) (s : State) : ∃ u, execWPhaseTrim m w1 w2 s = .next u ∧ Keeps s u := by
  refine ⟨_, rfl, ?_⟩
  have h := Keeps.refl s
  repeat' (first
    | with_reducible assumption
    | (extract_lets -underBinder +onlyGivenNames y; clear_value (hy : y = _); first | refine Keeps.sub (u := s) hy ?_ (fun hk => ?_) | refine Keeps.subA (u := s) hy ?_ (fun hk => ?_) | refine Keeps.subP (u := s) hy ?_ (fun hk => ?_) | clear hy)
    | with_reducible refine Keeps.ite ?_ ?_
    | with_reducible apply keeps_moveTrim
    | split
    | intro)
theorem keeps_execLimpHomeEntry (m : Fin 2) (s : State) : ∃ u, execLimpHomeEntry m s = .next u ∧ Keeps s u := by
  refine ⟨_, rfl, ?_⟩
  have h := Keeps.refl s
  repeat' (first
    | with_reducible assumption
    | with_reducible apply keeps_limpEntry
    | split
    | intro)
theorem keeps_execOminUpdate (m : Fin 2) (v : Half) (s : State) : ∃ u, execOminUpdate m v s = .next u ∧ Keeps s u := by
  refine ⟨_, rfl, ?_⟩
  have h := Keeps.refl s
  repeat' (first
    | with_reducible assumption
    | with_reducible apply keeps_ominUpdate
    | split
    | intro)
theorem keeps_execJunctionReport (m : Fin 2) (x : Fin 6) (v : Half) (s : State) : ∃ u, execJunctionReport m x v s = .next u ∧ Keeps s u := by
  refine ⟨_, rfl, ?_⟩
  have h := Keeps.refl s
  repeat' (first
    | with_reducible assumption
    | with_reducible apply keeps_junctionReport
    | split
    | intro)
theorem keeps_execDamageRateEval (m : Fin 2) (s : State) : ∃ u, execDamageRateEval m s = .next u ∧ Keeps s u := by
  refine ⟨_, rfl, ?_⟩
  have h := Keeps.refl s
  repeat' (first
    | with_reducible assumption
    | with_reducible apply keeps_damageRate
    | split
    | intro)
theorem keeps_execWearSnapshot  (s : State) : ∃ u, execWearSnapshot s = .next u ∧ Keeps s u := by
  refine ⟨_, rfl, ?_⟩
  have h := Keeps.refl s
  repeat' (first
    | with_reducible assumption
    | with_reducible apply keeps_wearSnapshot
    | split
    | intro)
theorem keeps_execTractionStatusWrite (m : Fin 2) (s : State) : ∃ u, execTractionStatusWrite m s = .next u ∧ Keeps s u := by
  refine ⟨_, rfl, ?_⟩
  have h := Keeps.refl s
  repeat' (first
    | with_reducible assumption
    | with_reducible apply keeps_tractionStatus
    | split
    | intro)

end Sys2Proof.Machine
end

