-- ==== Sys2Proof/Laws/KeepsModes.lean ====
section
/-!
SUPPORT. The operations of Machine/Modes.lean keep the canonical forms, the queue and the time.
-/
namespace Sys2Proof.Machine
open Sys2Proof
set_option linter.unreachableTactic false
set_option linter.unusedTactic false

theorem keeps_startMode {u s : State} (h : Keeps u s) (tgt : Nat) : Keeps u (startMode tgt s) := by
  unfold startMode
  repeat' (first
    | with_reducible assumption
    | (extract_lets -underBinder +onlyGivenNames y; clear_value (hy : y = _); first | refine Keeps.sub (u := u) hy ?_ (fun hk => ?_) | refine Keeps.subA (u := u) hy ?_ (fun hk => ?_) | refine Keeps.subP (u := u) hy ?_ (fun hk => ?_) | clear hy)
    | with_reducible apply Keeps.set
    | with_reducible apply Keeps.on
    | with_reducible apply Keeps.off
    | with_reducible apply Keeps.when
    | with_reducible apply keeps_disableGroups
    | with_reducible apply keeps_packClose
    | split
    | intro)
theorem keeps_requestMode {u s : State} (h : Keeps u s) (tgt role : Nat) (p : Pins) : Keeps u (requestMode tgt role p s) := by
  unfold requestMode
  repeat' (first
    | with_reducible assumption
    | with_reducible refine Keeps.ite ?_ ?_
    | with_reducible apply Keeps.on
    | with_reducible apply keeps_enterSafeHold
    | with_reducible apply keeps_startMode
    | split
    | intro)
theorem keeps_stowUnloaded {u s : State} (h : Keeps u s) : Keeps u (stowUnloaded s) := by
  unfold stowUnloaded
  repeat' (first
    | with_reducible assumption
    | with_reducible refine Keeps.ite ?_ ?_
    | with_reducible apply Keeps.on
    | with_reducible apply Keeps.off
    | with_reducible apply keeps_startMode
    | split
    | intro)
theorem keeps_modeComplete {u s : State} (h : Keeps u s) : Keeps u (modeComplete s) := by
  unfold modeComplete
  repeat' (first
    | with_reducible assumption
    | (extract_lets -underBinder +onlyGivenNames y; clear_value (hy : y = _); first | refine Keeps.sub (u := u) hy ?_ (fun hk => ?_) | refine Keeps.subA (u := u) hy ?_ (fun hk => ?_) | refine Keeps.subP (u := u) hy ?_ (fun hk => ?_) | clear hy)
    | with_reducible refine Keeps.ite ?_ ?_
    | with_reducible apply Keeps.set
    | with_reducible apply Keeps.off
    | with_reducible apply Keeps.when
    | with_reducible apply Keeps.foldl
    | with_reducible apply keeps_clearPermits
    | with_reducible apply keeps_disableGroups
    | with_reducible apply keeps_openDrivers
    | with_reducible apply keeps_stowUnloaded
    | split
    | intro)
theorem keeps_execModeChangeComplete  (s : State) : ∃ u, execModeChangeComplete s = .next u ∧ Keeps s u := by
  refine ⟨_, rfl, ?_⟩
  have h := Keeps.refl s
  repeat' (first
    | with_reducible assumption
    | with_reducible apply keeps_modeComplete
    | split
    | intro)

end Sys2Proof.Machine
end

