-- ==== Sys2Proof/Laws/KeepsConverters.lean ====
section
/-!
SUPPORT. The operations of Machine/Converters.lean keep the canonical forms, the queue and the time.
-/
namespace Sys2Proof.Machine
open Sys2Proof
set_option linter.unreachableTactic false
set_option linter.unusedTactic false

theorem keeps_cvTo {u s : State} (h : Keeps u s) (c : Nat) (st : Nat) : Keeps u (cvTo c st s) := by
  unfold cvTo
  repeat' (first
    | with_reducible assumption
    | with_reducible apply Keeps.set
    | split
    | intro)
theorem keeps_cvPage {u s : State} (h : Keeps u s) (c how : Nat) : Keeps u (cvPage c how s) := by
  unfold cvPage
  repeat' (first
    | with_reducible assumption
    | with_reducible refine Keeps.ite ?_ ?_
    | with_reducible apply Keeps.set
    | with_reducible apply Keeps.send
    | split
    | intro)
theorem keeps_cvToIdle {u s : State} (h : Keeps u s) (c st : Nat) : Keeps u (cvToIdle c st s) := by
  unfold cvToIdle
  repeat' (first
    | with_reducible assumption
    | with_reducible apply keeps_cvPage
    | with_reducible apply keeps_cvTo
    | split
    | intro)
theorem keeps_cvToCarrier {u s : State} (h : Keeps u s) (c st : Nat) : Keeps u (cvToCarrier c st s) := by
  unfold cvToCarrier
  repeat' (first
    | with_reducible assumption
    | with_reducible apply keeps_cvPage
    | with_reducible apply keeps_cvTo
    | split
    | intro)
theorem keeps_cvSend {u s : State} (h : Keeps u s) (c : Nat) (d : Nat → Nat) : Keeps u (cvSend c d s) := by
  unfold cvSend
  repeat' (first
    | with_reducible assumption
    | (extract_lets -underBinder +onlyGivenNames y; clear_value (hy : y = _); first | refine Keeps.sub (u := u) hy ?_ (fun hk => ?_) | refine Keeps.subA (u := u) hy ?_ (fun hk => ?_) | refine Keeps.subP (u := u) hy ?_ (fun hk => ?_) | clear hy)
    | with_reducible refine Keeps.ite ?_ ?_
    | with_reducible apply Keeps.off
    | with_reducible apply Keeps.foldl
    | with_reducible apply keeps_quot
    | with_reducible apply keeps_sendChan
    | split
    | intro)
theorem keeps_cvFlag {u s : State} (h : Keeps u s) (c : Nat) (b : Nat) : Keeps u (cvFlag c b s) := by
  unfold cvFlag
  repeat' (first
    | with_reducible assumption
    | with_reducible apply Keeps.setBit
    | split
    | intro)
theorem keeps_cvOpenContactor {u s : State} (h : Keeps u s) (c : Nat) : Keeps u (cvOpenContactor c s) := by
  unfold cvOpenContactor
  repeat' (first
    | with_reducible assumption
    | with_reducible refine Keeps.ite ?_ ?_
    | with_reducible apply keeps_openDrivers
    | split
    | intro)
theorem keeps_writeOmax {u s : State} (h : Keeps u s) (c : Nat) (v : Nat) : Keeps u (writeOmax c v s) := by
  unfold writeOmax
  repeat' (first
    | with_reducible assumption
    | with_reducible apply Keeps.set
    | with_reducible apply keeps_lsCtrlWrite
    | split
    | intro)
theorem keeps_cvReprime {u s : State} (h : Keeps u s) (c : Nat) : Keeps u (cvReprime c s) := by
  unfold cvReprime
  repeat' (first
    | with_reducible assumption
    | with_reducible apply keeps_lsCtrlWrite
    | split
    | intro)
theorem keeps_cvSoft {u s : State} (h : Keeps u s) (c : Nat) : Keeps u (cvSoft c s) := by
  unfold cvSoft
  repeat' (first
    | with_reducible assumption
    | with_reducible apply keeps_cvToCarrier
    | with_reducible apply keeps_writeOmax
    | split
    | intro)
theorem keeps_cvTarget {u s : State} (h : Keeps u s) : Keeps u (cvTarget s).2 := by
  unfold cvTarget
  repeat' (first
    | with_reducible assumption
    | (extract_lets -underBinder +onlyGivenNames y; clear_value (hy : y = _); first | refine Keeps.sub (u := u) hy ?_ (fun hk => ?_) | refine Keeps.subA (u := u) hy ?_ (fun hk => ?_) | refine Keeps.subP (u := u) hy ?_ (fun hk => ?_) | clear hy)
    | with_reducible refine Keeps.ite ?_ ?_
    | with_reducible apply keeps_quotI
    | split
    | intro)
theorem keeps_cvMean {u s : State} (h : Keeps u s) (c : Nat) : Keeps u (cvMean c s).2 := by
  unfold cvMean
  repeat' (first
    | with_reducible assumption
    | with_reducible refine Keeps.ite ?_ ?_
    | with_reducible apply Keeps.free
    | with_reducible apply keeps_quotI
    | split
    | intro)
theorem keeps_cvFeedback {u s : State} (h : Keeps u s) (c : Nat) : Keeps u (cvFeedback c s).2 := by
  unfold cvFeedback
  repeat' (first
    | with_reducible assumption
    | (extract_lets -underBinder +onlyGivenNames y; clear_value (hy : y = _); first | refine Keeps.sub (u := u) hy ?_ (fun hk => ?_) | refine Keeps.subA (u := u) hy ?_ (fun hk => ?_) | refine Keeps.subP (u := u) hy ?_ (fun hk => ?_) | clear hy)
    | with_reducible refine Keeps.ite ?_ ?_
    | with_reducible apply keeps_cvMean
    | with_reducible apply keeps_quotI
    | split
    | intro)
theorem keeps_putPort {u s : State} (h : Keeps u s) (e p : Nat) (v : Int) : Keeps u (putPort e p v s) := by
  unfold putPort
  repeat' (first
    | with_reducible assumption
    | with_reducible refine Keeps.ite ?_ ?_
    | with_reducible apply Keeps.set
    | with_reducible apply Keeps.setBit
    | split
    | intro)
theorem keeps_cvPorts {u s : State} (h : Keeps u s) (e : Nat) (fb : Bool) : Keeps u (cvPorts e fb s) := by
  unfold cvPorts
  repeat' (first
    | with_reducible assumption
    | (extract_lets -underBinder +onlyGivenNames y; clear_value (hy : y = _); first | refine Keeps.sub (u := u) hy ?_ (fun hk => ?_) | refine Keeps.subA (u := u) hy ?_ (fun hk => ?_) | refine Keeps.subP (u := u) hy ?_ (fun hk => ?_) | clear hy)
    | with_reducible refine Keeps.ite ?_ ?_
    | with_reducible apply Keeps.off
    | with_reducible apply keeps_cvFeedback
    | with_reducible apply keeps_cvTarget
    | with_reducible apply keeps_putPort
    | split
    | intro)
theorem keeps_cvMeasure {u s : State} (h : Keeps u s) (c : Nat) : Keeps u (cvMeasure c s) := by
  unfold cvMeasure
  repeat' (first
    | with_reducible assumption
    | (extract_lets -underBinder +onlyGivenNames y; clear_value (hy : y = _); first | refine Keeps.sub (u := u) hy ?_ (fun hk => ?_) | refine Keeps.subA (u := u) hy ?_ (fun hk => ?_) | refine Keeps.subP (u := u) hy ?_ (fun hk => ?_) | clear hy)
    | with_reducible refine Keeps.ite ?_ ?_
    | with_reducible apply Keeps.incSat
    | with_reducible apply Keeps.inc
    | with_reducible apply Keeps.sset
    | split
    | intro)
theorem keeps_cvPresent {u s : State} (h : Keeps u s) (line : Bool) : Keeps u (cvPresent line s) := by
  unfold cvPresent
  repeat' (first
    | with_reducible assumption
    | (extract_lets -underBinder +onlyGivenNames y; clear_value (hy : y = _); first | refine Keeps.sub (u := u) hy ?_ (fun hk => ?_) | refine Keeps.subA (u := u) hy ?_ (fun hk => ?_) | refine Keeps.subP (u := u) hy ?_ (fun hk => ?_) | clear hy)
    | with_reducible apply Keeps.set
    | with_reducible apply Keeps.setB
    | with_reducible apply Keeps.when
    | with_reducible apply keeps_cvFlag
    | split
    | intro)
theorem keeps_cvOpenTest {u s : State} (h : Keeps u s) (c : Nat) : Keeps u (cvOpenTest c s) := by
  unfold cvOpenTest
  repeat' (first
    | with_reducible assumption
    | (extract_lets -underBinder +onlyGivenNames y; clear_value (hy : y = _); first | refine Keeps.sub (u := u) hy ?_ (fun hk => ?_) | refine Keeps.subA (u := u) hy ?_ (fun hk => ?_) | refine Keeps.subP (u := u) hy ?_ (fun hk => ?_) | clear hy)
    | with_reducible refine Keeps.ite ?_ ?_
    | with_reducible apply Keeps.set
    | with_reducible apply Keeps.forEach
    | split
    | intro)
theorem keeps_cvLimited {u s : State} (h : Keeps u s) (c : Nat) : Keeps u (cvLimited c s) := by
  unfold cvLimited
  repeat' (first
    | with_reducible assumption
    | with_reducible refine Keeps.ite ?_ ?_
    | with_reducible apply Keeps.set
    | with_reducible apply Keeps.off
    | split
    | intro)
theorem keeps_cvHandover {u s : State} (h : Keeps u s) (planned : Bool) : Keeps u (cvHandover planned s) := by
  unfold cvHandover
  repeat' (first
    | with_reducible assumption
    | (extract_lets -underBinder +onlyGivenNames y; clear_value (hy : y = _); first | refine Keeps.sub (u := u) hy ?_ (fun hk => ?_) | refine Keeps.subA (u := u) hy ?_ (fun hk => ?_) | refine Keeps.subP (u := u) hy ?_ (fun hk => ?_) | clear hy)
    | with_reducible apply Keeps.set
    | with_reducible apply Keeps.setB
    | with_reducible apply keeps_cvTo
    | split
    | intro)
theorem keeps_cvLeave {u s : State} (h : Keeps u s) : Keeps u (cvLeave s) := by
  unfold cvLeave
  repeat' (first
    | with_reducible assumption
    | with_reducible refine Keeps.ite ?_ ?_
    | with_reducible apply keeps_cvHandover
    | split
    | intro)
theorem keeps_cvDropout {u s : State} (h : Keeps u s) : Keeps u (cvDropout s) := by
  unfold cvDropout
  repeat' (first
    | with_reducible assumption
    | (extract_lets -underBinder +onlyGivenNames y; clear_value (hy : y = _); first | refine Keeps.sub (u := u) hy ?_ (fun hk => ?_) | refine Keeps.subA (u := u) hy ?_ (fun hk => ?_) | refine Keeps.subP (u := u) hy ?_ (fun hk => ?_) | clear hy)
    | with_reducible refine Keeps.ite ?_ ?_
    | with_reducible apply Keeps.set
    | with_reducible apply Keeps.off
    | with_reducible apply keeps_cvFlag
    | with_reducible apply keeps_cvPage
    | with_reducible apply keeps_cvToIdle
    | split
    | intro)
theorem keeps_cvBack {u s : State} (h : Keeps u s) : Keeps u (cvBack s) := by
  unfold cvBack
  repeat' (first
    | with_reducible assumption
    | (extract_lets -underBinder +onlyGivenNames y; clear_value (hy : y = _); first | refine Keeps.sub (u := u) hy ?_ (fun hk => ?_) | refine Keeps.subA (u := u) hy ?_ (fun hk => ?_) | refine Keeps.subP (u := u) hy ?_ (fun hk => ?_) | clear hy)
    | with_reducible apply Keeps.set
    | with_reducible apply Keeps.when
    | with_reducible apply keeps_cvToCarrier
    | split
    | intro)
theorem keeps_cvLine {u s : State} (h : Keeps u s) (line : Bool) : Keeps u (cvLine line s) := by
  unfold cvLine
  repeat' (first
    | with_reducible assumption
    | with_reducible refine Keeps.ite ?_ ?_
    | with_reducible apply Keeps.on
    | with_reducible apply Keeps.off
    | with_reducible apply keeps_cvBack
    | with_reducible apply keeps_cvHandover
    | with_reducible apply keeps_cvLeave
    | with_reducible apply keeps_cvOpenContactor
    | with_reducible apply keeps_cvToCarrier
    | with_reducible apply keeps_cvToIdle
    | split
    | intro)
theorem keeps_cvFire {u s : State} (h : Keeps u s) : Keeps u (cvFire s) := by
  unfold cvFire
  repeat' (first
    | with_reducible assumption
    | with_reducible apply Keeps.off
    | with_reducible apply keeps_cvFlag
    | with_reducible apply keeps_cvPage
    | with_reducible apply keeps_cvTo
    | split
    | intro)
theorem keeps_cvAux {u s : State} (h : Keeps u s) : Keeps u (cvAux s) := by
  unfold cvAux
  repeat' (first
    | with_reducible assumption
    | (extract_lets -underBinder +onlyGivenNames y; clear_value (hy : y = _); first | refine Keeps.sub (u := u) hy ?_ (fun hk => ?_) | refine Keeps.subA (u := u) hy ?_ (fun hk => ?_) | refine Keeps.subP (u := u) hy ?_ (fun hk => ?_) | clear hy)
    | with_reducible refine Keeps.ite ?_ ?_
    | with_reducible apply Keeps.set
    | with_reducible apply Keeps.off
    | with_reducible apply Keeps.incSat
    | with_reducible apply keeps_cvTo
    | with_reducible apply keeps_cvToCarrier
    | with_reducible apply keeps_cvToIdle
    | split
    | intro)
theorem keeps_cvDecide {u s : State} (h : Keeps u s) (c : Nat) (line : Bool) : Keeps u (cvDecide c line s) := by
  unfold cvDecide
  repeat' (first
    | with_reducible assumption
    | (extract_lets -underBinder +onlyGivenNames y; clear_value (hy : y = _); first | refine Keeps.sub (u := u) hy ?_ (fun hk => ?_) | refine Keeps.subA (u := u) hy ?_ (fun hk => ?_) | refine Keeps.subP (u := u) hy ?_ (fun hk => ?_) | clear hy)
    | with_reducible refine Keeps.ite ?_ ?_
    | with_reducible apply Keeps.on
    | with_reducible apply Keeps.when
    | with_reducible apply keeps_cvAux
    | with_reducible apply keeps_cvDropout
    | with_reducible apply keeps_cvFire
    | with_reducible apply keeps_cvLimited
    | with_reducible apply keeps_cvLine
    | split
    | intro)
theorem keeps_cvSample {u s : State} (h : Keeps u s) (c : Nat) (line : Bool) (d : Nat → Nat) : Keeps u (cvSample c line d s) := by
  unfold cvSample
  repeat' (first
    | with_reducible assumption
    | (extract_lets -underBinder +onlyGivenNames y; clear_value (hy : y = _); first | refine Keeps.sub (u := u) hy ?_ (fun hk => ?_) | refine Keeps.subA (u := u) hy ?_ (fun hk => ?_) | refine Keeps.subP (u := u) hy ?_ (fun hk => ?_) | clear hy)
    | with_reducible refine Keeps.ite ?_ ?_
    | with_reducible apply Keeps.when
    | with_reducible apply keeps_cvDecide
    | with_reducible apply keeps_cvMeasure
    | with_reducible apply keeps_cvOpenTest
    | with_reducible apply keeps_cvPresent
    | with_reducible apply keeps_cvSend
    | split
    | intro)
theorem keeps_cvOuter {u s : State} (h : Keeps u s) : Keeps u (cvOuter s) := by
  unfold cvOuter
  repeat' (first
    | with_reducible assumption
    | (extract_lets -underBinder +onlyGivenNames y; clear_value (hy : y = _); first | refine Keeps.sub (u := u) hy ?_ (fun hk => ?_) | refine Keeps.subA (u := u) hy ?_ (fun hk => ?_) | refine Keeps.subP (u := u) hy ?_ (fun hk => ?_) | clear hy)
    | with_reducible refine Keeps.ite ?_ ?_
    | with_reducible apply Keeps.off
    | with_reducible apply Keeps.inc
    | with_reducible apply keeps_closeRequest
    | with_reducible apply keeps_cvTarget
    | with_reducible apply keeps_cvTo
    | split
    | intro)
theorem keeps_effLimit {u s : State} (h : Keeps u s) (c : Nat) : Keeps u (effLimit c s).2 := by
  unfold effLimit
  repeat' (first
    | with_reducible assumption
    | (extract_lets -underBinder +onlyGivenNames y; clear_value (hy : y = _); first | refine Keeps.sub (u := u) hy ?_ (fun hk => ?_) | refine Keeps.subA (u := u) hy ?_ (fun hk => ?_) | refine Keeps.subP (u := u) hy ?_ (fun hk => ?_) | clear hy)
    | with_reducible refine Keeps.ite ?_ ?_
    | with_reducible apply keeps_quot
    | split
    | intro)
theorem keeps_omaxUpdate {u s : State} (h : Keeps u s) (c : Nat) : Keeps u (omaxUpdate c s) := by
  unfold omaxUpdate
  split
  · exact h
  extract_lets -underBinder r t ms soft v
  have ht : Keeps u t := (keeps_effLimit h ..).set ..
  have hv : ∀ x, v = some x → Keeps u x.2 := by
    intro x hx
    simp only [v] at hx
    split at hx
    · cases hx; exact keeps_quot ht ..
    · cases hx; exact ht
    · cases hx; exact keeps_quot ht ..
    · cases hx
  clear_value v
  cases v with
  | some x => exact (keeps_writeOmax (hv x rfl) ..).set ..
  | none => exact h
theorem keeps_contactorClosed {u s : State} (h : Keeps u s)  : Keeps u (contactorClosed s) := by
  unfold contactorClosed
  repeat' (first
    | with_reducible assumption
    | with_reducible refine Keeps.ite ?_ ?_
    | with_reducible apply keeps_cvTo
    | with_reducible apply keeps_writeOmax
    | split
    | intro)
theorem keeps_softEnd {u s : State} (h : Keeps u s) (c : Nat) : Keeps u (softEnd c s) := by
  unfold softEnd
  repeat' (first
    | with_reducible assumption
    | with_reducible refine Keeps.ite ?_ ?_
    | with_reducible apply keeps_cvTo
    | split
    | intro)
theorem keeps_handoverEnd {u s : State} (h : Keeps u s) (p : Pins) : Keeps u (handoverEnd p s) := by
  unfold handoverEnd
  repeat' (first
    | with_reducible assumption
    | (extract_lets -underBinder +onlyGivenNames y; clear_value (hy : y = _); first | refine Keeps.sub (u := u) hy ?_ (fun hk => ?_) | refine Keeps.subA (u := u) hy ?_ (fun hk => ?_) | refine Keeps.subP (u := u) hy ?_ (fun hk => ?_) | clear hy)
    | with_reducible refine Keeps.ite ?_ ?_
    | with_reducible apply Keeps.off
    | with_reducible apply keeps_cvOpenContactor
    | with_reducible apply keeps_cvToIdle
    | with_reducible apply keeps_requestMode
    | split
    | intro)
theorem keeps_hiccupEntry {u s : State} (h : Keeps u s) (c : Nat) : Keeps u (hiccupEntry c s) := by
  unfold hiccupEntry
  repeat' (first
    | with_reducible assumption
    | (extract_lets -underBinder +onlyGivenNames y; clear_value (hy : y = _); first | refine Keeps.sub (u := u) hy ?_ (fun hk => ?_) | refine Keeps.subA (u := u) hy ?_ (fun hk => ?_) | refine Keeps.subP (u := u) hy ?_ (fun hk => ?_) | clear hy)
    | with_reducible refine Keeps.ite ?_ ?_
    | with_reducible apply Keeps.off
    | with_reducible apply Keeps.incSat
    | with_reducible apply keeps_cvFlag
    | with_reducible apply keeps_cvOpenContactor
    | with_reducible apply keeps_cvSend
    | with_reducible apply keeps_cvToIdle
    | split
    | intro)
theorem keeps_hicOff {u s : State} (h : Keeps u s) (c : Nat) (line : Bool) : Keeps u (hicOff c line s) := by
  unfold hicOff
  repeat' (first
    | with_reducible assumption
    | with_reducible refine Keeps.ite ?_ ?_
    | with_reducible apply keeps_cvOpenContactor
    | with_reducible apply keeps_cvReprime
    | with_reducible apply keeps_cvSoft
    | with_reducible apply keeps_cvTo
    | with_reducible apply keeps_writeOmax
    | split
    | intro)
theorem keeps_hicRunReset {u s : State} (h : Keeps u s) (c : Nat) : Keeps u (hicRunReset c s) := by
  unfold hicRunReset
  repeat' (first
    | with_reducible assumption
    | with_reducible refine Keeps.ite ?_ ?_
    | with_reducible apply Keeps.off
    | split
    | intro)
theorem keeps_phaseOpen {u s : State} (h : Keeps u s) (c : Nat) (k : Nat) : Keeps u (phaseOpen c k s) := by
  unfold phaseOpen
  repeat' (first
    | with_reducible assumption
    | (extract_lets -underBinder +onlyGivenNames y; clear_value (hy : y = _); first | refine Keeps.sub (u := u) hy ?_ (fun hk => ?_) | refine Keeps.subA (u := u) hy ?_ (fun hk => ?_) | refine Keeps.subP (u := u) hy ?_ (fun hk => ?_) | clear hy)
    | with_reducible refine Keeps.ite ?_ ?_
    | with_reducible apply Keeps.set
    | with_reducible apply Keeps.on
    | with_reducible apply Keeps.off
    | with_reducible apply Keeps.setBit
    | with_reducible apply Keeps.send
    | with_reducible apply keeps_cvTo
    | with_reducible apply keeps_cvFlag
    | split
    | intro)
theorem keeps_interleave {u s : State} (h : Keeps u s)  : Keeps u (interleave s) := by
  unfold interleave
  repeat' (first
    | with_reducible assumption
    | (extract_lets -underBinder +onlyGivenNames y; clear_value (hy : y = _); first | refine Keeps.sub (u := u) hy ?_ (fun hk => ?_) | refine Keeps.subA (u := u) hy ?_ (fun hk => ?_) | refine Keeps.subP (u := u) hy ?_ (fun hk => ?_) | clear hy)
    | with_reducible apply Keeps.set
    | with_reducible apply Keeps.foldl
    | split
    | intro)
theorem keeps_reconfigure {u s : State} (h : Keeps u s)  : Keeps u (reconfigure s) := by
  unfold reconfigure
  repeat' (first
    | with_reducible assumption
    | (extract_lets -underBinder +onlyGivenNames y; clear_value (hy : y = _); first | refine Keeps.sub (u := u) hy ?_ (fun hk => ?_) | refine Keeps.subA (u := u) hy ?_ (fun hk => ?_) | refine Keeps.subP (u := u) hy ?_ (fun hk => ?_) | clear hy)
    | with_reducible refine Keeps.ite ?_ ?_
    | with_reducible apply Keeps.set
    | with_reducible apply Keeps.on
    | with_reducible apply Keeps.off
    | with_reducible apply Keeps.clrBit
    | with_reducible apply Keeps.forUpTo
    | with_reducible apply keeps_disableGroup
    | with_reducible apply keeps_loadAll
    | with_reducible apply keeps_cvTo
    | with_reducible apply keeps_cvToIdle
    | with_reducible apply keeps_cvFlag
    | with_reducible apply keeps_cvOpenContactor
    | with_reducible apply keeps_interleave
    | split
    | intro)
theorem keeps_phaseReconfiguration {u s : State} (h : Keeps u s) (line : Bool) : Keeps u (phaseReconfiguration line s) := by
  unfold phaseReconfiguration
  repeat' (first
    | with_reducible assumption
    | (extract_lets -underBinder +onlyGivenNames y; clear_value (hy : y = _); first | refine Keeps.sub (u := u) hy ?_ (fun hk => ?_) | refine Keeps.subA (u := u) hy ?_ (fun hk => ?_) | refine Keeps.subP (u := u) hy ?_ (fun hk => ?_) | clear hy)
    | with_reducible refine Keeps.ite ?_ ?_
    | with_reducible apply Keeps.off
    | with_reducible apply keeps_cvReprime
    | with_reducible apply keeps_cvSoft
    | with_reducible apply keeps_cvToIdle
    | with_reducible apply keeps_groupEnable
    | with_reducible apply keeps_reconfigure
    | split
    | intro)
theorem keeps_voltQ {u s : State} (h : Keeps u s) (mv10 : Nat) : Keeps u (voltQ mv10 s).2 := by
  unfold voltQ
  repeat' (first
    | with_reducible assumption
    | (extract_lets -underBinder +onlyGivenNames y; clear_value (hy : y = _); first | refine Keeps.sub (u := u) hy ?_ (fun hk => ?_) | refine Keeps.subA (u := u) hy ?_ (fun hk => ?_) | refine Keeps.subP (u := u) hy ?_ (fun hk => ?_) | clear hy)
    | with_reducible apply keeps_quot
    | split
    | intro)
theorem keeps_auxStart {u s : State} (h : Keeps u s)  : Keeps u (auxStart s) := by
  unfold auxStart
  repeat' (first
    | with_reducible assumption
    | with_reducible refine Keeps.ite ?_ ?_
    | with_reducible apply keeps_cvReprime
    | with_reducible apply keeps_cvSoft
    | split
    | intro)
theorem keeps_vselRead {u s : State} (h : Keeps u s) : Keeps u (vselRead s) := by
  unfold vselRead
  repeat' (first
    | with_reducible assumption
    | (extract_lets -underBinder +onlyGivenNames y; clear_value (hy : y = _); first | refine Keeps.sub (u := u) hy ?_ (fun hk => ?_) | refine Keeps.subA (u := u) hy ?_ (fun hk => ?_) | refine Keeps.subP (u := u) hy ?_ (fun hk => ?_) | clear hy)
    | with_reducible refine Keeps.ite ?_ ?_
    | with_reducible apply Keeps.set
    | with_reducible apply Keeps.off
    | with_reducible apply keeps_auxStart
    | with_reducible apply keeps_cvFlag
    | with_reducible apply keeps_cvToIdle
    | with_reducible apply keeps_voltQ
    | split
    | intro)
theorem keeps_lineStart {u s : State} (h : Keeps u s) (p : Pins) : Keeps u (lineStart p s) := by
  unfold lineStart
  repeat' (first
    | with_reducible assumption
    | with_reducible refine Keeps.ite ?_ ?_
    | with_reducible apply keeps_cvToIdle
    | split
    | intro)
theorem keeps_clearConverter {u s : State} (h : Keeps u s) (c : Nat) : Keeps u (clearConverter c s) := by
  unfold clearConverter
  repeat' (first
    | with_reducible assumption
    | (extract_lets -underBinder +onlyGivenNames y; clear_value (hy : y = _); first | refine Keeps.sub (u := u) hy ?_ (fun hk => ?_) | refine Keeps.subA (u := u) hy ?_ (fun hk => ?_) | refine Keeps.subP (u := u) hy ?_ (fun hk => ?_) | clear hy)
    | with_reducible refine Keeps.ite ?_ ?_
    | with_reducible apply Keeps.set
    | with_reducible apply Keeps.off
    | with_reducible apply Keeps.setBit
    | with_reducible apply Keeps.when
    | with_reducible apply Keeps.forEach
    | with_reducible apply keeps_cvTo
    | with_reducible apply keeps_interleave
    | split
    | intro)
theorem keeps_converterStatus {u s : State} (h : Keeps u s) (c : Nat) : Keeps u (converterStatus c s) := by
  unfold converterStatus
  repeat' (first
    | with_reducible assumption
    | (extract_lets -underBinder +onlyGivenNames y; clear_value (hy : y = _); first | refine Keeps.sub (u := u) hy ?_ (fun hk => ?_) | refine Keeps.subA (u := u) hy ?_ (fun hk => ?_) | refine Keeps.subP (u := u) hy ?_ (fun hk => ?_) | clear hy)
    | with_reducible refine Keeps.ite ?_ ?_
    | with_reducible apply keeps_writeFields
    | split
    | intro)
theorem keeps_chargeChannels {u s : State} (h : Keeps u s) (line : Bool) : Keeps u (chargeChannels line s) := by
  unfold chargeChannels
  repeat' (first
    | with_reducible assumption
    | (extract_lets -underBinder +onlyGivenNames y; clear_value (hy : y = _); first | refine Keeps.sub (u := u) hy ?_ (fun hk => ?_) | refine Keeps.subA (u := u) hy ?_ (fun hk => ?_) | refine Keeps.subP (u := u) hy ?_ (fun hk => ?_) | clear hy)
    | with_reducible refine Keeps.ite ?_ ?_
    | with_reducible apply Keeps.set
    | with_reducible apply Keeps.forUpTo
    | split
    | intro)
theorem keeps_domainUse {u s : State} (h : Keeps u s) (dab : Bool) : Keeps u (domainUse dab s) := by
  unfold domainUse
  repeat' (first
    | with_reducible assumption
    | (extract_lets -underBinder +onlyGivenNames y; clear_value (hy : y = _); first | refine Keeps.sub (u := u) hy ?_ (fun hk => ?_) | refine Keeps.subA (u := u) hy ?_ (fun hk => ?_) | refine Keeps.subP (u := u) hy ?_ (fun hk => ?_) | clear hy)
    | with_reducible refine Keeps.ite ?_ ?_
    | with_reducible apply Keeps.set
    | with_reducible apply Keeps.off
    | with_reducible apply Keeps.foldl
    | with_reducible apply keeps_chargeChannels
    | with_reducible apply keeps_interleave
    | split
    | intro)
theorem keeps_handoverStep {u s : State} (h : Keeps u s) (step : Nat) (dab : Bool) (trgA trgB : Nat) : Keeps u (handoverStep step dab trgA trgB s) := by
  unfold handoverStep
  repeat' (first
    | with_reducible assumption
    | (extract_lets -underBinder +onlyGivenNames y; clear_value (hy : y = _); first | refine Keeps.sub (u := u) hy ?_ (fun hk => ?_) | refine Keeps.subA (u := u) hy ?_ (fun hk => ?_) | refine Keeps.subP (u := u) hy ?_ (fun hk => ?_) | clear hy)
    | with_reducible refine Keeps.ite ?_ ?_
    | with_reducible apply Keeps.set
    | with_reducible apply Keeps.off
    | with_reducible apply Keeps.when
    | with_reducible apply keeps_domainUse
    | with_reducible apply keeps_engineDisable
    | with_reducible apply keeps_engineStart
    | with_reducible apply keeps_loadAll
    | with_reducible apply keeps_loadPpi
    | with_reducible apply keeps_periodWrite
    | with_reducible apply keeps_ssEnable
    | split
    | intro)
theorem keeps_domainHandover {u s : State} (h : Keeps u s) (step : Nat) (dab : Bool) (trgA trgB : Nat) : Keeps u (domainHandover step dab trgA trgB s) := by
  unfold domainHandover
  repeat' (first
    | with_reducible assumption
    | with_reducible refine Keeps.ite ?_ ?_
    | with_reducible apply Keeps.set
    | with_reducible apply Keeps.setB
    | with_reducible apply Keeps.send
    | with_reducible apply keeps_handoverStep
    | split
    | intro)
theorem keeps_vselDebounce {u s : State} (h : Keeps u s) (raw : Nat) : Keeps u (vselDebounce raw s) := by
  unfold vselDebounce
  repeat' (first
    | with_reducible assumption
    | (extract_lets -underBinder +onlyGivenNames y; clear_value (hy : y = _); first | refine Keeps.sub (u := u) hy ?_ (fun hk => ?_) | refine Keeps.subA (u := u) hy ?_ (fun hk => ?_) | refine Keeps.subP (u := u) hy ?_ (fun hk => ?_) | clear hy)
    | with_reducible refine Keeps.ite ?_ ?_
    | with_reducible apply Keeps.set
    | with_reducible apply Keeps.on
    | split
    | intro)
theorem keeps_execPort (e : EngIx) (f : Ecc) (o : PortOp) (s : State) : ∃ u, execPort e f o s = .next u ∧ Keeps s u := by
  refine ⟨_, rfl, ?_⟩
  have h := Keeps.refl s
  repeat' (first
    | with_reducible assumption
    | with_reducible apply keeps_cvPorts
    | with_reducible apply keeps_instr
    | with_reducible apply keeps_portOp
    | split
    | intro)
theorem keeps_execVselDebounce (raw : BitVec 3) (s : State) : ∃ u, execVselDebounce raw s = .next u ∧ Keeps s u := by
  refine ⟨_, rfl, ?_⟩
  have h := Keeps.refl s
  repeat' (first
    | with_reducible assumption
    | with_reducible apply keeps_vselDebounce
    | split
    | intro)
theorem keeps_execOmaxUpdate (c : Fin 2) (s : State) : ∃ u, execOmaxUpdate c s = .next u ∧ Keeps s u := by
  refine ⟨_, rfl, ?_⟩
  have h := Keeps.refl s
  repeat' (first
    | with_reducible assumption
    | with_reducible apply keeps_omaxUpdate
    | split
    | intro)
theorem keeps_execContactorClosedReport  (s : State) : ∃ u, execContactorClosedReport s = .next u ∧ Keeps s u := by
  refine ⟨_, rfl, ?_⟩
  have h := Keeps.refl s
  repeat' (first
    | with_reducible assumption
    | with_reducible apply keeps_contactorClosed
    | split
    | intro)
theorem keeps_execSoftStartEnd (c : Fin 2) (s : State) : ∃ u, execSoftStartEnd c s = .next u ∧ Keeps s u := by
  refine ⟨_, rfl, ?_⟩
  have h := Keeps.refl s
  repeat' (first
    | with_reducible assumption
    | with_reducible apply keeps_softEnd
    | split
    | intro)
theorem keeps_execHandoverRampEnd (p : Pins) (s : State) : ∃ u, execHandoverRampEnd p s = .next u ∧ Keeps s u := by
  refine ⟨_, rfl, ?_⟩
  have h := Keeps.refl s
  repeat' (first
    | with_reducible assumption
    | with_reducible apply keeps_handoverEnd
    | split
    | intro)
theorem keeps_execHiccupEntry (c : Fin 2) (s : State) : ∃ u, execHiccupEntry c s = .next u ∧ Keeps s u := by
  refine ⟨_, rfl, ?_⟩
  have h := Keeps.refl s
  repeat' (first
    | with_reducible assumption
    | with_reducible apply keeps_hiccupEntry
    | split
    | intro)
theorem keeps_execHicOffExpiry (c : Fin 2) (line : Bool) (s : State) : ∃ u, execHicOffExpiry c line s = .next u ∧ Keeps s u := by
  refine ⟨_, rfl, ?_⟩
  have h := Keeps.refl s
  repeat' (first
    | with_reducible assumption
    | with_reducible apply keeps_hicOff
    | split
    | intro)
theorem keeps_execHicRunReset (c : Fin 2) (s : State) : ∃ u, execHicRunReset c s = .next u ∧ Keeps s u := by
  refine ⟨_, rfl, ?_⟩
  have h := Keeps.refl s
  repeat' (first
    | with_reducible assumption
    | with_reducible apply keeps_hicRunReset
    | split
    | intro)
theorem keeps_execPhaseOpen (c : Fin 2) (k : Fin 6) (s : State) : ∃ u, execPhaseOpen c k s = .next u ∧ Keeps s u := by
  refine ⟨_, rfl, ?_⟩
  have h := Keeps.refl s
  repeat' (first
    | with_reducible assumption
    | with_reducible apply keeps_phaseOpen
    | split
    | intro)
theorem keeps_execPhaseReconfiguration (line : Bool) (s : State) : ∃ u, execPhaseReconfiguration line s = .next u ∧ Keeps s u := by
  refine ⟨_, rfl, ?_⟩
  have h := Keeps.refl s
  repeat' (first
    | with_reducible assumption
    | with_reducible apply keeps_phaseReconfiguration
    | split
    | intro)
theorem keeps_execVselRead  (s : State) : ∃ u, execVselRead s = .next u ∧ Keeps s u := by
  refine ⟨_, rfl, ?_⟩
  have h := Keeps.refl s
  repeat' (first
    | with_reducible assumption
    | with_reducible apply keeps_vselRead
    | split
    | intro)
theorem keeps_execConverterStatusWrite (c : Fin 2) (s : State) : ∃ u, execConverterStatusWrite c s = .next u ∧ Keeps s u := by
  refine ⟨_, rfl, ?_⟩
  have h := Keeps.refl s
  repeat' (first
    | with_reducible assumption
    | with_reducible apply keeps_converterStatus
    | split
    | intro)
theorem keeps_execDomainHandover (step : Fin 7) (dab : Bool) (trgA : Half) (trgB : Half) (s : State) : ∃ u, execDomainHandover step dab trgA trgB s = .next u ∧ Keeps s u := by
  refine ⟨_, rfl, ?_⟩
  have h := Keeps.refl s
  repeat' (first
    | with_reducible assumption
    | with_reducible apply keeps_domainHandover
    | split
    | intro)

end Sys2Proof.Machine
end

