-- ==== Sys2Proof/Laws/KeepsCharging.lean ====
section
/-!
SUPPORT. The operations of Machine/Charging.lean keep the canonical forms, the queue and the time.
-/
namespace Sys2Proof.Machine
open Sys2Proof
set_option linter.unreachableTactic false
set_option linter.unusedTactic false

theorem keeps_chgFlag {u s : State} (h : Keeps u s) (b : Nat) : Keeps u (chgFlag b s) := by
  unfold chgFlag
  repeat' (first
    | with_reducible assumption
    | with_reducible apply Keeps.setBit
    | split
    | intro)
theorem keeps_bmsScaled {u s : State} (h : Keeps u s) (f : DrvFld) : Keeps u (bmsScaled f s).2 := by
  unfold bmsScaled
  repeat' (first
    | with_reducible assumption
    | (extract_lets -underBinder +onlyGivenNames y; clear_value (hy : y = _); first | refine Keeps.sub (u := u) hy ?_ (fun hk => ?_) | refine Keeps.subA (u := u) hy ?_ (fun hk => ?_) | refine Keeps.subP (u := u) hy ?_ (fun hk => ?_) | clear hy)
    | with_reducible refine Keeps.ite ?_ ?_
    | with_reducible apply Keeps.foldl
    | with_reducible apply keeps_quot
    | split
    | intro)
theorem keeps_evalWindows {u s : State} (h : Keeps u s)  : Keeps u (evalWindows s) := by
  unfold evalWindows
  repeat' (first
    | with_reducible assumption
    | (extract_lets -underBinder +onlyGivenNames y; clear_value (hy : y = _); first | refine Keeps.sub (u := u) hy ?_ (fun hk => ?_) | refine Keeps.subA (u := u) hy ?_ (fun hk => ?_) | refine Keeps.subP (u := u) hy ?_ (fun hk => ?_) | clear hy)
    | with_reducible refine Keeps.ite ?_ ?_
    | with_reducible apply Keeps.set
    | with_reducible apply Keeps.when
    | with_reducible apply Keeps.foldl
    | with_reducible apply keeps_chgFlag
    | split
    | intro)
theorem keeps_tenths {u s : State} (h : Keeps u s) (v : Int) (base : Nat) : Keeps u (tenths v base s).2 := by
  unfold tenths
  repeat' (first
    | with_reducible assumption
    | (extract_lets -underBinder +onlyGivenNames y; clear_value (hy : y = _); first | refine Keeps.sub (u := u) hy ?_ (fun hk => ?_) | refine Keeps.subA (u := u) hy ?_ (fun hk => ?_) | refine Keeps.subP (u := u) hy ?_ (fun hk => ?_) | clear hy)
    | with_reducible apply keeps_quotI
    | split
    | intro)
theorem keeps_delivered {u s : State} (h : Keeps u s) : Keeps u (delivered s).2 := by
  unfold delivered
  repeat' (first
    | with_reducible assumption
    | with_reducible apply keeps_tenths
    | split
    | intro)
theorem keeps_systemDraw {u s : State} (h : Keeps u s) : Keeps u (systemDraw s).2 := by
  unfold systemDraw
  repeat' (first
    | with_reducible assumption
    | (extract_lets -underBinder +onlyGivenNames y; clear_value (hy : y = _); first | refine Keeps.sub (u := u) hy ?_ (fun hk => ?_) | refine Keeps.subA (u := u) hy ?_ (fun hk => ?_) | refine Keeps.subP (u := u) hy ?_ (fun hk => ?_) | clear hy)
    | with_reducible apply Keeps.inc
    | with_reducible apply Keeps.sset
    | with_reducible apply Keeps.foldl
    | with_reducible apply keeps_delivered
    | with_reducible apply keeps_quotI
    | split
    | intro)
theorem keeps_packEnergy {u s : State} (h : Keeps u s) : Keeps u (packEnergy s) := by
  unfold packEnergy
  repeat' (first
    | with_reducible assumption
    | (extract_lets -underBinder +onlyGivenNames y; clear_value (hy : y = _); first | refine Keeps.sub (u := u) hy ?_ (fun hk => ?_) | refine Keeps.subA (u := u) hy ?_ (fun hk => ?_) | refine Keeps.subP (u := u) hy ?_ (fun hk => ?_) | clear hy)
    | with_reducible apply Keeps.set
    | with_reducible apply Keeps.sset
    | with_reducible apply Keeps.when
    | split
    | intro)
theorem keeps_vehicleVolts {u s : State} (h : Keeps u s) : Keeps u (vehicleVolts s).2 := by
  unfold vehicleVolts
  repeat' (first
    | with_reducible assumption
    | with_reducible refine Keeps.ite ?_ ?_
    | with_reducible apply keeps_tenths
    | split
    | intro)
theorem keeps_matchTrack {u s : State} (h : Keeps u s) : Keeps u (matchTrack s) := by
  unfold matchTrack
  repeat' (first
    | with_reducible assumption
    | (extract_lets -underBinder +onlyGivenNames y; clear_value (hy : y = _); first | refine Keeps.sub (u := u) hy ?_ (fun hk => ?_) | refine Keeps.subA (u := u) hy ?_ (fun hk => ?_) | refine Keeps.subP (u := u) hy ?_ (fun hk => ?_) | clear hy)
    | with_reducible refine Keeps.ite ?_ ?_
    | with_reducible apply Keeps.set
    | with_reducible apply Keeps.off
    | with_reducible apply Keeps.when
    | with_reducible apply keeps_vehicleVolts
    | split
    | intro)
theorem keeps_pathLimit {u s : State} (h : Keeps u s) (ac : Nat) (draw : Int) (vbus : Nat) : Keeps u (pathLimit ac draw vbus s).2 := by
  unfold pathLimit
  repeat' (first
    | with_reducible assumption
    | (extract_lets -underBinder +onlyGivenNames y; clear_value (hy : y = _); first | refine Keeps.sub (u := u) hy ?_ (fun hk => ?_) | refine Keeps.subA (u := u) hy ?_ (fun hk => ?_) | refine Keeps.subP (u := u) hy ?_ (fun hk => ?_) | clear hy)
    | with_reducible apply keeps_quot
    | split
    | intro)
theorem keeps_rampReq {u s : State} (h : Keeps u s) (goal : Nat) : Keeps u (rampReq goal s) := by
  unfold rampReq
  repeat' (first
    | with_reducible assumption
    | (extract_lets -underBinder +onlyGivenNames y; clear_value (hy : y = _); first | refine Keeps.sub (u := u) hy ?_ (fun hk => ?_) | refine Keeps.subA (u := u) hy ?_ (fun hk => ?_) | refine Keeps.subP (u := u) hy ?_ (fun hk => ?_) | clear hy)
    | with_reducible refine Keeps.ite ?_ ?_
    | with_reducible apply Keeps.set
    | split
    | intro)
theorem keeps_chgCauses {u s : State} (h : Keeps u s)  : Keeps u (chgCauses s) := by
  unfold chgCauses
  repeat' (first
    | with_reducible assumption
    | (extract_lets -underBinder +onlyGivenNames y; clear_value (hy : y = _); first | refine Keeps.sub (u := u) hy ?_ (fun hk => ?_) | refine Keeps.subA (u := u) hy ?_ (fun hk => ?_) | refine Keeps.subP (u := u) hy ?_ (fun hk => ?_) | clear hy)
    | with_reducible refine Keeps.ite ?_ ?_
    | with_reducible apply keeps_chgEnd
    | split
    | intro)
theorem keeps_chgStopping {u s : State} (h : Keeps u s)  : Keeps u (chgStopping s) := by
  unfold chgStopping
  repeat' (first
    | with_reducible assumption
    | with_reducible refine Keeps.ite ?_ ?_
    | with_reducible apply Keeps.set
    | with_reducible apply keeps_disableGroups
    | with_reducible apply keeps_openDrivers
    | with_reducible apply keeps_chgStop
    | split
    | intro)
theorem keeps_chgDone {u s : State} (h : Keeps u s) : Keeps u (chgDone s) := by
  unfold chgDone
  repeat' (first
    | with_reducible assumption
    | with_reducible refine Keeps.ite ?_ ?_
    | with_reducible apply keeps_startMode
    | split
    | intro)
theorem keeps_targetEval {u s : State} (h : Keeps u s) (ac tmod : Nat) : Keeps u (targetEval ac tmod s) := by
  unfold targetEval
  repeat' (first
    | with_reducible assumption
    | (extract_lets -underBinder +onlyGivenNames y; clear_value (hy : y = _); first | refine Keeps.sub (u := u) hy ?_ (fun hk => ?_) | refine Keeps.subA (u := u) hy ?_ (fun hk => ?_) | refine Keeps.subP (u := u) hy ?_ (fun hk => ?_) | clear hy)
    | with_reducible refine Keeps.ite ?_ ?_
    | with_reducible apply Keeps.set
    | with_reducible apply Keeps.off
    | with_reducible apply Keeps.send
    | with_reducible apply Keeps.when
    | with_reducible apply keeps_bmsScaled
    | with_reducible apply keeps_chgCauses
    | with_reducible apply keeps_chgDone
    | with_reducible apply keeps_chgStopping
    | with_reducible apply keeps_evalWindows
    | with_reducible apply keeps_matchTrack
    | with_reducible apply keeps_packEnergy
    | with_reducible apply keeps_pathLimit
    | with_reducible apply keeps_quot
    | with_reducible apply keeps_rampReq
    | with_reducible apply keeps_systemDraw
    | with_reducible apply keeps_tenths
    | split
    | intro)
theorem keeps_suspendTimeout {u s : State} (h : Keeps u s)  : Keeps u (suspendTimeout s) := by
  unfold suspendTimeout
  repeat' (first
    | with_reducible assumption
    | (extract_lets -underBinder +onlyGivenNames y; clear_value (hy : y = _); first | refine Keeps.sub (u := u) hy ?_ (fun hk => ?_) | refine Keeps.subA (u := u) hy ?_ (fun hk => ?_) | refine Keeps.subP (u := u) hy ?_ (fun hk => ?_) | clear hy)
    | with_reducible refine Keeps.ite ?_ ?_
    | with_reducible apply keeps_chgEnd
    | split
    | intro)
theorem keeps_plugged {u s : State} (h : Keeps u s)  : Keeps u (plugged s) := by
  unfold plugged
  repeat' (first
    | with_reducible assumption
    | with_reducible refine Keeps.ite ?_ ?_
    | with_reducible apply Keeps.set
    | split
    | intro)
theorem keeps_proximity {u s : State} (h : Keeps u s) (shown : Bool) : Keeps u (proximity shown s) := by
  unfold proximity
  repeat' (first
    | with_reducible assumption
    | (extract_lets -underBinder +onlyGivenNames y; clear_value (hy : y = _); first | refine Keeps.sub (u := u) hy ?_ (fun hk => ?_) | refine Keeps.subA (u := u) hy ?_ (fun hk => ?_) | refine Keeps.subP (u := u) hy ?_ (fun hk => ?_) | clear hy)
    | with_reducible refine Keeps.ite ?_ ?_
    | with_reducible apply Keeps.set
    | with_reducible apply Keeps.on
    | with_reducible apply Keeps.off
    | with_reducible apply keeps_chgEnd
    | with_reducible apply keeps_plugged
    | split
    | intro)
theorem keeps_pilotChange {u s : State} (h : Keeps u s) (osc : Bool) (h low : Int) (duty : Nat) : Keeps u (pilotChange osc h low duty s) := by
  unfold pilotChange
  repeat' (first
    | with_reducible assumption
    | (extract_lets -underBinder +onlyGivenNames y; clear_value (hy : y = _); first | refine Keeps.sub (u := u) hy ?_ (fun hk => ?_) | refine Keeps.subA (u := u) hy ?_ (fun hk => ?_) | refine Keeps.subP (u := u) hy ?_ (fun hk => ?_) | clear hy)
    | with_reducible refine Keeps.ite ?_ ?_
    | with_reducible apply Keeps.set
    | with_reducible apply Keeps.setB
    | with_reducible apply Keeps.on
    | with_reducible apply Keeps.when
    | with_reducible apply keeps_chgEnd
    | with_reducible apply keeps_plugged
    | split
    | intro)
theorem keeps_cpWrite {u s : State} (h : Keeps u s) (v : Nat) : Keeps u (cpWrite v s) := by
  unfold cpWrite
  repeat' (first
    | with_reducible assumption
    | (extract_lets -underBinder +onlyGivenNames y; clear_value (hy : y = _); first | refine Keeps.sub (u := u) hy ?_ (fun hk => ?_) | refine Keeps.subA (u := u) hy ?_ (fun hk => ?_) | refine Keeps.subP (u := u) hy ?_ (fun hk => ?_) | clear hy)
    | with_reducible apply Keeps.set
    | with_reducible apply Keeps.setB
    | with_reducible apply Keeps.off
    | with_reducible apply Keeps.when
    | split
    | intro)
theorem keeps_takeAlive {u s : State} (h : Keeps u s) (k : Nat) (a : Nat) : Keeps u (takeAlive k a s) := by
  unfold takeAlive
  repeat' (first
    | with_reducible assumption
    | (extract_lets -underBinder +onlyGivenNames y; clear_value (hy : y = _); first | refine Keeps.sub (u := u) hy ?_ (fun hk => ?_) | refine Keeps.subA (u := u) hy ?_ (fun hk => ?_) | refine Keeps.subP (u := u) hy ?_ (fun hk => ?_) | clear hy)
    | with_reducible refine Keeps.ite ?_ ?_
    | with_reducible apply Keeps.set
    | with_reducible apply Keeps.on
    | split
    | intro)
theorem keeps_bmsMessage {u s : State} (h : Keeps u s) (k v : Nat) : Keeps u (bmsMessage k v s) := by
  unfold bmsMessage
  repeat' (first
    | with_reducible assumption
    | (extract_lets -underBinder +onlyGivenNames y; clear_value (hy : y = _); first | refine Keeps.sub (u := u) hy ?_ (fun hk => ?_) | refine Keeps.subA (u := u) hy ?_ (fun hk => ?_) | refine Keeps.subP (u := u) hy ?_ (fun hk => ?_) | clear hy)
    | with_reducible refine Keeps.ite ?_ ?_
    | with_reducible apply Keeps.set
    | with_reducible apply Keeps.on
    | with_reducible apply Keeps.off
    | with_reducible apply Keeps.when
    | with_reducible apply keeps_takeAlive
    | split
    | intro)
theorem keeps_bmsFrame {u s : State} (h : Keeps u s) (port : Nat) (xl : Bool) (id v : Nat) : Keeps u (bmsFrame port xl id v s) := by
  unfold bmsFrame
  repeat' (first
    | with_reducible assumption
    | with_reducible apply keeps_bmsMessage
    | split
    | intro)
theorem keeps_bmsTimeout {u s : State} (h : Keeps u s) (k : Nat) : Keeps u (bmsTimeout k s) := by
  unfold bmsTimeout
  repeat' (first
    | with_reducible assumption
    | (extract_lets -underBinder +onlyGivenNames y; clear_value (hy : y = _); first | refine Keeps.sub (u := u) hy ?_ (fun hk => ?_) | refine Keeps.subA (u := u) hy ?_ (fun hk => ?_) | refine Keeps.subP (u := u) hy ?_ (fun hk => ?_) | clear hy)
    | with_reducible refine Keeps.ite ?_ ?_
    | with_reducible apply Keeps.set
    | with_reducible apply Keeps.on
    | with_reducible apply Keeps.off
    | with_reducible apply Keeps.send
    | with_reducible apply Keeps.when
    | with_reducible apply keeps_chgEnd
    | with_reducible apply keeps_chgFlag
    | split
    | intro)
theorem keeps_modStatus {u s : State} (h : Keeps u s)  : Keeps u (modStatus s) := by
  unfold modStatus
  repeat' (first
    | with_reducible assumption
    | (extract_lets -underBinder +onlyGivenNames y; clear_value (hy : y = _); first | refine Keeps.sub (u := u) hy ?_ (fun hk => ?_) | refine Keeps.subA (u := u) hy ?_ (fun hk => ?_) | refine Keeps.subP (u := u) hy ?_ (fun hk => ?_) | clear hy)
    | with_reducible apply Keeps.set
    | with_reducible apply Keeps.send
    | split
    | intro)
theorem keeps_dabStop {u s : State} (h : Keeps u s) : Keeps u (dabStop s) := by
  unfold dabStop
  repeat' (first
    | with_reducible assumption
    | with_reducible apply keeps_sendChan
    | split
    | intro)
theorem keeps_busSample {u s : State} (h : Keeps u s) : Keeps u (busSample s) := by
  unfold busSample
  repeat' (first
    | with_reducible assumption
    | (extract_lets -underBinder +onlyGivenNames y; clear_value (hy : y = _); first | refine Keeps.sub (u := u) hy ?_ (fun hk => ?_) | refine Keeps.subA (u := u) hy ?_ (fun hk => ?_) | refine Keeps.subP (u := u) hy ?_ (fun hk => ?_) | clear hy)
    | with_reducible refine Keeps.ite ?_ ?_
    | with_reducible apply Keeps.set
    | with_reducible apply Keeps.on
    | with_reducible apply Keeps.off
    | with_reducible apply Keeps.inc
    | with_reducible apply Keeps.sset
    | with_reducible apply Keeps.send
    | with_reducible apply keeps_dabStop
    | split
    | intro)
theorem keeps_batteryRemoved {u s : State} (h : Keeps u s)  : Keeps u (batteryRemoved s) := by
  unfold batteryRemoved
  repeat' (first
    | with_reducible assumption
    | (extract_lets -underBinder +onlyGivenNames y; clear_value (hy : y = _); first | refine Keeps.sub (u := u) hy ?_ (fun hk => ?_) | refine Keeps.subA (u := u) hy ?_ (fun hk => ?_) | refine Keeps.subP (u := u) hy ?_ (fun hk => ?_) | clear hy)
    | with_reducible refine Keeps.ite ?_ ?_
    | with_reducible apply Keeps.off
    | with_reducible apply keeps_disableGroups
    | with_reducible apply keeps_openDrivers
    | with_reducible apply keeps_chgFlag
    | with_reducible apply keeps_chgEnd
    | split
    | intro)
theorem keeps_prechargeMatch {u s : State} (h : Keeps u s) : Keeps u (prechargeMatch s) := by
  unfold prechargeMatch
  repeat' (first
    | with_reducible assumption
    | (extract_lets -underBinder +onlyGivenNames y; clear_value (hy : y = _); first | refine Keeps.sub (u := u) hy ?_ (fun hk => ?_) | refine Keeps.subA (u := u) hy ?_ (fun hk => ?_) | refine Keeps.subP (u := u) hy ?_ (fun hk => ?_) | clear hy)
    | with_reducible refine Keeps.ite ?_ ?_
    | with_reducible apply keeps_closeRequest
    | with_reducible apply keeps_matchTrack
    | split
    | intro)
theorem keeps_matchTimeout {u s : State} (h : Keeps u s) : Keeps u (matchTimeout s) := by
  unfold matchTimeout
  repeat' (first
    | with_reducible assumption
    | with_reducible refine Keeps.ite ?_ ?_
    | with_reducible apply keeps_chgEnd
    | split
    | intro)
theorem keeps_dcOpen {u s : State} (h : Keeps u s)  : Keeps u (dcOpen s) := by
  unfold dcOpen
  repeat' (first
    | with_reducible assumption
    | (extract_lets -underBinder +onlyGivenNames y; clear_value (hy : y = _); first | refine Keeps.sub (u := u) hy ?_ (fun hk => ?_) | refine Keeps.subA (u := u) hy ?_ (fun hk => ?_) | refine Keeps.subP (u := u) hy ?_ (fun hk => ?_) | clear hy)
    | with_reducible refine Keeps.ite ?_ ?_
    | with_reducible apply Keeps.set
    | with_reducible apply Keeps.off
    | with_reducible apply Keeps.when
    | with_reducible apply keeps_openDrivers
    | with_reducible apply keeps_chgFlag
    | with_reducible apply keeps_chgEnd
    | split
    | intro)
theorem keeps_weldTimeout {u s : State} (h : Keeps u s) : Keeps u (weldTimeout s) := by
  unfold weldTimeout
  repeat' (first
    | with_reducible assumption
    | (extract_lets -underBinder +onlyGivenNames y; clear_value (hy : y = _); first | refine Keeps.sub (u := u) hy ?_ (fun hk => ?_) | refine Keeps.subA (u := u) hy ?_ (fun hk => ?_) | refine Keeps.subP (u := u) hy ?_ (fun hk => ?_) | clear hy)
    | with_reducible refine Keeps.ite ?_ ?_
    | with_reducible apply Keeps.set
    | with_reducible apply Keeps.when
    | with_reducible apply keeps_chgFlag
    | split
    | intro)
theorem keeps_chgCheck {u s : State} (h : Keeps u s) (p : Nat) : Keeps u (chgCheck p s) := by
  unfold chgCheck
  repeat' (first
    | with_reducible assumption
    | (extract_lets -underBinder +onlyGivenNames y; clear_value (hy : y = _); first | refine Keeps.sub (u := u) hy ?_ (fun hk => ?_) | refine Keeps.subA (u := u) hy ?_ (fun hk => ?_) | refine Keeps.subP (u := u) hy ?_ (fun hk => ?_) | clear hy)
    | with_reducible refine Keeps.ite ?_ ?_
    | with_reducible apply Keeps.set
    | with_reducible apply keeps_closeRequest
    | split
    | intro)
theorem keeps_chgBasic {u s : State} (h : Keeps u s) : Keeps u (chgBasic s) := by
  unfold chgBasic
  repeat' (first
    | with_reducible assumption
    | with_reducible refine Keeps.ite ?_ ?_
    | with_reducible apply Keeps.set
    | with_reducible apply keeps_chgCheck
    | with_reducible apply keeps_chgEnd
    | split
    | intro)
theorem keeps_evseMessage {u s : State} (h : Keeps u s) (t1s : Bool) (m : EvseMsg) : Keeps u (evseMessage t1s m s) := by
  unfold evseMessage
  repeat' (first
    | with_reducible assumption
    | (extract_lets -underBinder +onlyGivenNames y; clear_value (hy : y = _); first | refine Keeps.sub (u := u) hy ?_ (fun hk => ?_) | refine Keeps.subA (u := u) hy ?_ (fun hk => ?_) | refine Keeps.subP (u := u) hy ?_ (fun hk => ?_) | clear hy)
    | with_reducible refine Keeps.ite ?_ ?_
    | with_reducible apply Keeps.set
    | with_reducible apply keeps_chgBasic
    | with_reducible apply keeps_chgCheck
    | with_reducible apply keeps_chgEnd
    | with_reducible apply keeps_matchTrack
    | split
    | intro)
theorem keeps_protocolTimeout {u s : State} (h : Keeps u s)  : Keeps u (protocolTimeout s) := by
  unfold protocolTimeout
  repeat' (first
    | with_reducible assumption
    | with_reducible refine Keeps.ite ?_ ?_
    | with_reducible apply keeps_chgEnd
    | split
    | intro)
theorem keeps_chgStart {u s : State} (h : Keeps u s) : Keeps u (chgStart s) := by
  unfold chgStart
  repeat' (first
    | with_reducible assumption
    | with_reducible apply Keeps.set
    | with_reducible apply Keeps.off
    | split
    | intro)
theorem keeps_chargingStatus {u s : State} (h : Keeps u s)  : Keeps u (chargingStatus s) := by
  unfold chargingStatus
  repeat' (first
    | with_reducible assumption
    | (extract_lets -underBinder +onlyGivenNames y; clear_value (hy : y = _); first | refine Keeps.sub (u := u) hy ?_ (fun hk => ?_) | refine Keeps.subA (u := u) hy ?_ (fun hk => ?_) | refine Keeps.subP (u := u) hy ?_ (fun hk => ?_) | clear hy)
    | with_reducible apply keeps_writeFields
    | split
    | intro)
theorem keeps_execPilotStateChange (osc : Bool) (h low : Half) (duty : BitVec 10) (s : State) : ∃ u, execPilotStateChange osc h low duty s = .next u ∧ Keeps s u := by
  refine ⟨_, rfl, ?_⟩
  have h := Keeps.refl s
  repeat' (first
    | with_reducible assumption
    | with_reducible apply keeps_pilotChange
    | split
    | intro)
theorem keeps_execS2Write (w : Who) (v : Word) (s : State) : ∃ u, execS2Write w v s = .next u ∧ Keeps s u := by
  refine ⟨_, rfl, ?_⟩
  have h := Keeps.refl s
  repeat' (first
    | with_reducible assumption
    | with_reducible apply keeps_sideband
    | with_reducible apply keeps_cpWrite
    | split
    | intro)
theorem keeps_execChargingTargetEval (ac tmod : Half) (s : State) : ∃ u, execChargingTargetEval ac tmod s = .next u ∧ Keeps s u := by
  refine ⟨_, rfl, ?_⟩
  have h := Keeps.refl s
  repeat' (first
    | with_reducible assumption
    | with_reducible apply keeps_targetEval
    | split
    | intro)
theorem keeps_execSuspendTimeout  (s : State) : ∃ u, execSuspendTimeout s = .next u ∧ Keeps s u := by
  refine ⟨_, rfl, ?_⟩
  have h := Keeps.refl s
  repeat' (first
    | with_reducible assumption
    | with_reducible apply keeps_suspendTimeout
    | split
    | intro)
theorem keeps_execProximityDecode (shown : Bool) (s : State) : ∃ u, execProximityDecode shown s = .next u ∧ Keeps s u := by
  refine ⟨_, rfl, ?_⟩
  have h := Keeps.refl s
  repeat' (first
    | with_reducible assumption
    | with_reducible apply keeps_proximity
    | split
    | intro)
theorem keeps_execBmsMessageReceived (port : Fin 4) (xl : Bool) (id : Word) (v : BitVec 64) (s : State) : ∃ u, execBmsMessageReceived port xl id v s = .next u ∧ Keeps s u := by
  refine ⟨_, rfl, ?_⟩
  have h := Keeps.refl s
  repeat' (first
    | with_reducible assumption
    | with_reducible apply keeps_bmsFrame
    | split
    | intro)
theorem keeps_execBmsTimeout (k : Fin 3) (s : State) : ∃ u, execBmsTimeout k s = .next u ∧ Keeps s u := by
  refine ⟨_, rfl, ?_⟩
  have h := Keeps.refl s
  repeat' (first
    | with_reducible assumption
    | with_reducible apply keeps_bmsTimeout
    | split
    | intro)
theorem keeps_execModStatusSend  (s : State) : ∃ u, execModStatusSend s = .next u ∧ Keeps s u := by
  refine ⟨_, rfl, ?_⟩
  have h := Keeps.refl s
  repeat' (first
    | with_reducible assumption
    | with_reducible apply keeps_modStatus
    | split
    | intro)
theorem keeps_execBatteryRemovedReaction  (s : State) : ∃ u, execBatteryRemovedReaction s = .next u ∧ Keeps s u := by
  refine ⟨_, rfl, ?_⟩
  have h := Keeps.refl s
  repeat' (first
    | with_reducible assumption
    | with_reducible apply keeps_batteryRemoved
    | split
    | intro)
theorem keeps_execPrechargeMatch  (s : State) : ∃ u, execPrechargeMatch s = .next u ∧ Keeps s u := by
  refine ⟨_, rfl, ?_⟩
  have h := Keeps.refl s
  repeat' (first
    | with_reducible assumption
    | with_reducible apply keeps_prechargeMatch
    | split
    | intro)
theorem keeps_execPrechargeTimeout  (s : State) : ∃ u, execPrechargeTimeout s = .next u ∧ Keeps s u := by
  refine ⟨_, rfl, ?_⟩
  have h := Keeps.refl s
  repeat' (first
    | with_reducible assumption
    | with_reducible apply keeps_matchTimeout
    | split
    | intro)
theorem keeps_execDcContactorOpen  (s : State) : ∃ u, execDcContactorOpen s = .next u ∧ Keeps s u := by
  refine ⟨_, rfl, ?_⟩
  have h := Keeps.refl s
  repeat' (first
    | with_reducible assumption
    | with_reducible apply keeps_dcOpen
    | split
    | intro)
theorem keeps_execWeldCheckTimeout  (s : State) : ∃ u, execWeldCheckTimeout s = .next u ∧ Keeps s u := by
  refine ⟨_, rfl, ?_⟩
  have h := Keeps.refl s
  repeat' (first
    | with_reducible assumption
    | with_reducible apply keeps_weldTimeout
    | split
    | intro)
theorem keeps_execChargingStatusWrite  (s : State) : ∃ u, execChargingStatusWrite s = .next u ∧ Keeps s u := by
  refine ⟨_, rfl, ?_⟩
  have h := Keeps.refl s
  repeat' (first
    | with_reducible assumption
    | with_reducible apply keeps_chargingStatus
    | split
    | intro)
theorem keeps_execChargingCommunicationMessage (t1s : Bool) (m : EvseMsg) (s : State) : ∃ u, execChargingCommunicationMessage t1s m s = .next u ∧ Keeps s u := by
  refine ⟨_, rfl, ?_⟩
  have h := Keeps.refl s
  repeat' (first
    | with_reducible assumption
    | with_reducible apply keeps_evseMessage
    | split
    | intro)
theorem keeps_execChargingProtocolTimeout  (s : State) : ∃ u, execChargingProtocolTimeout s = .next u ∧ Keeps s u := by
  refine ⟨_, rfl, ?_⟩
  have h := Keeps.refl s
  repeat' (first
    | with_reducible assumption
    | with_reducible apply keeps_protocolTimeout
    | split
    | intro)

end Sys2Proof.Machine
end

