-- ==== Sys2Proof/Laws/KeepsGearbox.lean ====
section
/-!
SUPPORT. The operations of Machine/Gearbox.lean keep the canonical forms, the queue and the time.
-/
namespace Sys2Proof.Machine
open Sys2Proof
set_option linter.unreachableTactic false
set_option linter.unusedTactic false

theorem keeps_stallTrack {u s : State} (h : Keeps u s) (b : Nat) : Keeps u (stallTrack b s) := by
  unfold stallTrack
  repeat' (first
    | with_reducible assumption
    | (extract_lets -underBinder +onlyGivenNames y; clear_value (hy : y = _); first | refine Keeps.sub (u := u) hy ?_ (fun hk => ?_) | refine Keeps.subA (u := u) hy ?_ (fun hk => ?_) | refine Keeps.subP (u := u) hy ?_ (fun hk => ?_) | clear hy)
    | with_reducible refine Keeps.ite ?_ ?_
    | with_reducible apply Keeps.set
    | with_reducible apply Keeps.off
    | with_reducible apply Keeps.when
    | split
    | intro)
theorem keeps_shunt {u s : State} (h : Keeps u s) (b : Nat) (code : BitVec 12) : Keeps u (shunt b code s) := by
  unfold shunt
  repeat' (first
    | with_reducible assumption
    | (extract_lets -underBinder +onlyGivenNames y; clear_value (hy : y = _); first | refine Keeps.sub (u := u) hy ?_ (fun hk => ?_) | refine Keeps.subA (u := u) hy ?_ (fun hk => ?_) | refine Keeps.subP (u := u) hy ?_ (fun hk => ?_) | clear hy)
    | with_reducible refine Keeps.ite ?_ ?_
    | with_reducible apply Keeps.set
    | with_reducible apply Keeps.setB
    | with_reducible apply Keeps.sset
    | with_reducible apply keeps_sourceSent
    | with_reducible apply keeps_stallTrack
    | split
    | intro)
theorem keeps_overCurrent {u s : State} (h : Keeps u s) (b : Nat) : Keeps u (overCurrent b s) := by
  unfold overCurrent
  repeat' (first
    | with_reducible assumption
    | with_reducible refine Keeps.ite ?_ ?_
    | with_reducible apply Keeps.on
    | with_reducible apply Keeps.send
    | split
    | intro)
theorem keeps_brCfgWrite {u s : State} (h : Keeps u s) (w : Who) (b : Nat) (p3 : Bool) (v : Nat) : Keeps u (brCfgWrite w b p3 v s) := by
  unfold brCfgWrite
  repeat' (first
    | with_reducible assumption
    | (extract_lets -underBinder +onlyGivenNames y; clear_value (hy : y = _); first | refine Keeps.sub (u := u) hy ?_ (fun hk => ?_) | refine Keeps.subA (u := u) hy ?_ (fun hk => ?_) | refine Keeps.subP (u := u) hy ?_ (fun hk => ?_) | clear hy)
    | with_reducible refine Keeps.ite ?_ ?_
    | with_reducible apply Keeps.on
    | with_reducible apply keeps_discardWord
    | with_reducible apply keeps_storeWord
    | split
    | intro)
theorem keeps_diagWrite {u s : State} (h : Keeps u s) (b v : Nat) : Keeps u (diagWrite b v s) := by
  unfold diagWrite
  repeat' (first
    | with_reducible assumption
    | (extract_lets -underBinder +onlyGivenNames y; clear_value (hy : y = _); first | refine Keeps.sub (u := u) hy ?_ (fun hk => ?_) | refine Keeps.subA (u := u) hy ?_ (fun hk => ?_) | refine Keeps.subP (u := u) hy ?_ (fun hk => ?_) | clear hy)
    | with_reducible refine Keeps.ite ?_ ?_
    | with_reducible apply Keeps.set
    | with_reducible apply Keeps.on
    | with_reducible apply Keeps.off
    | with_reducible apply Keeps.when
    | with_reducible apply Keeps.forUpTo
    | split
    | intro)
theorem keeps_diagStep {u s : State} (h : Keeps u s) (b : Nat) (z : Zone) : Keeps u (diagStep b z s) := by
  unfold diagStep
  repeat' (first
    | with_reducible assumption
    | (extract_lets -underBinder +onlyGivenNames y; clear_value (hy : y = _); first | refine Keeps.sub (u := u) hy ?_ (fun hk => ?_) | refine Keeps.subA (u := u) hy ?_ (fun hk => ?_) | refine Keeps.subP (u := u) hy ?_ (fun hk => ?_) | clear hy)
    | with_reducible refine Keeps.ite ?_ ?_
    | with_reducible apply Keeps.set
    | with_reducible apply Keeps.off
    | split
    | intro)
theorem keeps_diagAbort {u s : State} (h : Keeps u s) (b : Nat) : Keeps u (diagAbort b s) := by
  unfold diagAbort
  repeat' (first
    | with_reducible assumption
    | (extract_lets -underBinder +onlyGivenNames y; clear_value (hy : y = _); first | refine Keeps.sub (u := u) hy ?_ (fun hk => ?_) | refine Keeps.subA (u := u) hy ?_ (fun hk => ?_) | refine Keeps.subP (u := u) hy ?_ (fun hk => ?_) | clear hy)
    | with_reducible refine Keeps.ite ?_ ?_
    | with_reducible apply Keeps.set
    | with_reducible apply Keeps.off
    | with_reducible apply Keeps.forEach
    | split
    | intro)
theorem keeps_hallTime {u s : State} (h : Keeps u s) (b old v : Nat) : Keeps u (hallTime b old v s) := by
  unfold hallTime
  dsimp only
  repeat' (first
    | with_reducible assumption
    | with_reducible refine Keeps.ite ?_ ?_
    | with_reducible apply Keeps.setFree
    | with_reducible apply Keeps.sset
    | with_reducible apply Keeps.free
    | with_reducible apply Keeps.set)
theorem keeps_hallTake {u s : State} (h : Keeps u s) (b v : Nat) : Keeps u (hallTake b v s) := by
  unfold hallTake
  repeat' (first
    | with_reducible assumption
    | (extract_lets -underBinder +onlyGivenNames y; clear_value (hy : y = _); first | refine Keeps.sub (u := u) hy ?_ (fun hk => ?_) | refine Keeps.subA (u := u) hy ?_ (fun hk => ?_) | refine Keeps.subP (u := u) hy ?_ (fun hk => ?_) | clear hy)
    | with_reducible apply Keeps.set
    | with_reducible apply Keeps.on
    | with_reducible apply Keeps.inc
    | with_reducible apply Keeps.when
    | with_reducible apply keeps_hallTime
    | with_reducible apply keeps_sourceSent
    | split
    | intro)
theorem keeps_hallAccept {u s : State} (h : Keeps u s) (b raw : Nat) : Keeps u (hallAccept b raw s) := by
  unfold hallAccept
  repeat' (first
    | with_reducible assumption
    | (extract_lets -underBinder +onlyGivenNames y; clear_value (hy : y = _); first | refine Keeps.sub (u := u) hy ?_ (fun hk => ?_) | refine Keeps.subA (u := u) hy ?_ (fun hk => ?_) | refine Keeps.subP (u := u) hy ?_ (fun hk => ?_) | clear hy)
    | with_reducible refine Keeps.ite ?_ ?_
    | with_reducible apply Keeps.set
    | with_reducible apply keeps_hallTake
    | split
    | intro)
theorem keeps_hallFault {u s : State} (h : Keeps u s) (b : Nat) : Keeps u (hallFault b s) := by
  unfold hallFault
  repeat' (first
    | with_reducible assumption
    | (extract_lets -underBinder +onlyGivenNames y; clear_value (hy : y = _); first | refine Keeps.sub (u := u) hy ?_ (fun hk => ?_) | refine Keeps.subA (u := u) hy ?_ (fun hk => ?_) | refine Keeps.subP (u := u) hy ?_ (fun hk => ?_) | clear hy)
    | with_reducible refine Keeps.ite ?_ ?_
    | with_reducible apply Keeps.on
    | with_reducible apply Keeps.send
    | with_reducible apply keeps_disableGroup
    | split
    | intro)
theorem keeps_sentRefuse {u s : State} (h : Keeps u s) (c : Nat) (f : ActFld) : Keeps u (sentRefuse c f s) := by
  unfold sentRefuse
  repeat' (first
    | with_reducible assumption
    | with_reducible apply Keeps.on
    | with_reducible apply Keeps.incSat
    | split
    | intro)
theorem keeps_sentFrame {u s : State} (h : Keeps u s) (c tick : Nat) (six crc : Bool) (fc1 fc2 scn : Nat) (slow : Option (Nat × Nat)) : Keeps u (sentFrame c tick six crc fc1 fc2 scn slow s) := by
  unfold sentFrame
  repeat' (first
    | with_reducible assumption
    | (extract_lets -underBinder +onlyGivenNames y; clear_value (hy : y = _); first | refine Keeps.sub (u := u) hy ?_ (fun hk => ?_) | refine Keeps.subA (u := u) hy ?_ (fun hk => ?_) | refine Keeps.subP (u := u) hy ?_ (fun hk => ?_) | clear hy)
    | with_reducible refine Keeps.ite ?_ ?_
    | with_reducible apply Keeps.set
    | with_reducible apply Keeps.on
    | with_reducible apply keeps_sentRefuse
    | with_reducible apply keeps_sourceSent
    | split
    | intro)
theorem keeps_sentTimeout {u s : State} (h : Keeps u s) (c : Nat) : Keeps u (sentTimeout c s) := by
  unfold sentTimeout
  repeat' (first
    | with_reducible assumption
    | with_reducible refine Keeps.ite ?_ ?_
    | with_reducible apply Keeps.on
    | with_reducible apply Keeps.off
    | split
    | intro)
theorem keeps_moveFork {u s : State} (h : Keeps u s) (f : Nat) (fwd : Bool) : Keeps u (moveFork f fwd s) := by
  unfold moveFork
  repeat' (first
    | with_reducible assumption
    | (extract_lets -underBinder +onlyGivenNames y; clear_value (hy : y = _); first | refine Keeps.sub (u := u) hy ?_ (fun hk => ?_) | refine Keeps.subA (u := u) hy ?_ (fun hk => ?_) | refine Keeps.subP (u := u) hy ?_ (fun hk => ?_) | clear hy)
    | with_reducible refine Keeps.ite ?_ ?_
    | with_reducible apply Keeps.set
    | with_reducible apply Keeps.forUpTo
    | with_reducible apply keeps_groupEnable
    | split
    | intro)
theorem keeps_perBase {u s : State} (h : Keeps u s) (i : Nat) (v : Nat) (num : Nat) (den : Nat) : Keeps u (perBase i v num den s).2 := by
  unfold perBase
  repeat' (first
    | with_reducible assumption
    | (extract_lets -underBinder +onlyGivenNames y; clear_value (hy : y = _); first | refine Keeps.sub (u := u) hy ?_ (fun hk => ?_) | refine Keeps.subA (u := u) hy ?_ (fun hk => ?_) | refine Keeps.subP (u := u) hy ?_ (fun hk => ?_) | clear hy)
    | with_reducible apply keeps_quot
    | split
    | intro)
theorem keeps_gbPhase {u s : State} (h : Keeps u s) (p : Nat) : Keeps u (gbPhase p s) := by
  unfold gbPhase
  repeat' (first
    | with_reducible assumption
    | with_reducible apply Keeps.set
    | with_reducible apply Keeps.off
    | split
    | intro)
theorem keeps_startUnload {u s : State} (h : Keeps u s)  : Keeps u (startUnload s) := by
  unfold startUnload
  repeat' (first
    | with_reducible assumption
    | (extract_lets -underBinder +onlyGivenNames y; clear_value (hy : y = _); first | refine Keeps.sub (u := u) hy ?_ (fun hk => ?_) | refine Keeps.subA (u := u) hy ?_ (fun hk => ?_) | refine Keeps.subP (u := u) hy ?_ (fun hk => ?_) | clear hy)
    | with_reducible apply Keeps.set
    | with_reducible apply Keeps.forEach
    | with_reducible apply keeps_perBase
    | with_reducible apply keeps_gbPhase
    | split
    | intro)
theorem keeps_startDisengage {u s : State} (h : Keeps u s)  : Keeps u (startDisengage s) := by
  unfold startDisengage
  repeat' (first
    | with_reducible assumption
    | (extract_lets -underBinder +onlyGivenNames y; clear_value (hy : y = _); first | refine Keeps.sub (u := u) hy ?_ (fun hk => ?_) | refine Keeps.subA (u := u) hy ?_ (fun hk => ?_) | refine Keeps.subP (u := u) hy ?_ (fun hk => ?_) | clear hy)
    | with_reducible apply keeps_moveFork
    | with_reducible apply keeps_gbPhase
    | split
    | intro)
theorem keeps_startSync {u s : State} (h : Keeps u s)  : Keeps u (startSync s) := by
  unfold startSync
  repeat' (first
    | with_reducible assumption
    | (extract_lets -underBinder +onlyGivenNames y; clear_value (hy : y = _); first | refine Keeps.sub (u := u) hy ?_ (fun hk => ?_) | refine Keeps.subA (u := u) hy ?_ (fun hk => ?_) | refine Keeps.subP (u := u) hy ?_ (fun hk => ?_) | clear hy)
    | with_reducible refine Keeps.ite ?_ ?_
    | with_reducible apply Keeps.set
    | with_reducible apply Keeps.sset
    | with_reducible apply Keeps.forEach
    | with_reducible apply keeps_lsCtrlWrite
    | with_reducible apply keeps_perBase
    | with_reducible apply keeps_gbPhase
    | split
    | intro)
theorem keeps_startEngage {u s : State} (h : Keeps u s)  : Keeps u (startEngage s) := by
  unfold startEngage
  repeat' (first
    | with_reducible assumption
    | (extract_lets -underBinder +onlyGivenNames y; clear_value (hy : y = _); first | refine Keeps.sub (u := u) hy ?_ (fun hk => ?_) | refine Keeps.subA (u := u) hy ?_ (fun hk => ?_) | refine Keeps.subP (u := u) hy ?_ (fun hk => ?_) | clear hy)
    | with_reducible apply keeps_moveFork
    | with_reducible apply keeps_gbPhase
    | split
    | intro)
theorem keeps_shiftDone {u s : State} (h : Keeps u s) (phase : Nat) : Keeps u (shiftDone phase s) := by
  unfold shiftDone
  repeat' (first
    | with_reducible assumption
    | with_reducible apply Keeps.off
    | with_reducible apply keeps_gbPhase
    | split
    | intro)
theorem keeps_startShift {u s : State} (h : Keeps u s) (tgt : Nat) : Keeps u (startShift tgt s) := by
  unfold startShift
  repeat' (first
    | with_reducible assumption
    | with_reducible apply Keeps.set
    | with_reducible apply Keeps.on
    | with_reducible apply Keeps.off
    | with_reducible apply keeps_startUnload
    | split
    | intro)
theorem keeps_gbTrack {u s : State} (h : Keeps u s) : Keeps u (gbTrack s) := by
  unfold gbTrack
  repeat' (first
    | with_reducible assumption
    | (extract_lets -underBinder +onlyGivenNames y; clear_value (hy : y = _); first | refine Keeps.sub (u := u) hy ?_ (fun hk => ?_) | refine Keeps.subA (u := u) hy ?_ (fun hk => ?_) | refine Keeps.subP (u := u) hy ?_ (fun hk => ?_) | clear hy)
    | with_reducible refine Keeps.ite ?_ ?_
    | with_reducible apply Keeps.set
    | with_reducible apply Keeps.off
    | with_reducible apply Keeps.when
    | split
    | intro)
theorem keeps_gbOpposite {u s : State} (h : Keeps u s) : Keeps u (gbOpposite s) := by
  unfold gbOpposite
  repeat' (first
    | with_reducible assumption
    | (extract_lets -underBinder +onlyGivenNames y; clear_value (hy : y = _); first | refine Keeps.sub (u := u) hy ?_ (fun hk => ?_) | refine Keeps.subA (u := u) hy ?_ (fun hk => ?_) | refine Keeps.subP (u := u) hy ?_ (fun hk => ?_) | clear hy)
    | with_reducible refine Keeps.ite ?_ ?_
    | with_reducible apply Keeps.set
    | with_reducible apply Keeps.off
    | with_reducible apply Keeps.sset
    | with_reducible apply Keeps.when
    | with_reducible apply Keeps.forUpTo
    | split
    | intro)
theorem keeps_shiftPhase {u s : State} (h : Keeps u s) : Keeps u (shiftPhase s) := by
  unfold shiftPhase
  repeat' (first
    | with_reducible assumption
    | (extract_lets -underBinder +onlyGivenNames y; clear_value (hy : y = _); first | refine Keeps.sub (u := u) hy ?_ (fun hk => ?_) | refine Keeps.subA (u := u) hy ?_ (fun hk => ?_) | refine Keeps.subP (u := u) hy ?_ (fun hk => ?_) | clear hy)
    | with_reducible refine Keeps.ite ?_ ?_
    | with_reducible apply Keeps.set
    | with_reducible apply Keeps.off
    | with_reducible apply keeps_disableGroups
    | with_reducible apply keeps_gbPhase
    | with_reducible apply keeps_gbTrack
    | with_reducible apply keeps_shiftDone
    | with_reducible apply keeps_startDisengage
    | with_reducible apply keeps_startEngage
    | with_reducible apply keeps_startSync
    | split
    | intro)
theorem keeps_shiftAbort {u s : State} (h : Keeps u s) (c : Nat) : Keeps u (shiftAbort c s) := by
  unfold shiftAbort
  split
  · exact h
  extract_lets -underBinder p t t' unknown toN tgt gear
  have ht : Keeps u t' := ((((keeps_disableGroups h ..).off ..).send ..)).when _ (fun v hv => (hv.set ..).set ..)
  have hu : Keeps u (unknown t') := keeps_shiftDone (ht.set ..) ..
  have hn : ∀ f b, Keeps u (toN f b t') := fun f b => keeps_moveFork ((keeps_gbPhase ht ..).set ..) ..
  clear_value unknown toN t' t p
  split
  · split
    exacts [hu, hn ..]
  · exact hu
  · exact keeps_shiftDone ht ..
  · split
    · exact keeps_gbPhase (ht.set ..) ..
    · split
      · exact hu
      · exact keeps_moveFork ((keeps_gbPhase ht ..).set ..) ..
    · exact keeps_shiftDone ht ..
    · split
      exacts [hu, hn ..]
    · exact keeps_shiftDone ht ..
theorem keeps_gearTorque {u s : State} (h : Keeps u s) (m : Nat) (old : State) : Keeps u (gearTorque m old s) := by
  unfold gearTorque
  repeat' (first
    | with_reducible assumption
    | (extract_lets -underBinder +onlyGivenNames y; clear_value (hy : y = _); first | refine Keeps.sub (u := u) hy ?_ (fun hk => ?_) | refine Keeps.subA (u := u) hy ?_ (fun hk => ?_) | refine Keeps.subP (u := u) hy ?_ (fun hk => ?_) | clear hy)
    | with_reducible refine Keeps.ite ?_ ?_
    | with_reducible apply Keeps.set
    | with_reducible apply Keeps.sset
    | with_reducible apply Keeps.putBit
    | with_reducible apply keeps_perBase
    | split
    | intro)
theorem keeps_parkDuty {u s : State} (h : Keeps u s) (a : Nat) (b : Nat) : Keeps u (parkDuty a b s) := by
  unfold parkDuty
  repeat' (first
    | with_reducible assumption
    | with_reducible apply keeps_loadAll
    | with_reducible apply keeps_dutyWrite
    | split
    | intro)
theorem keeps_startPark {u s : State} (h : Keeps u s) (engage : Bool) : Keeps u (startPark engage s) := by
  unfold startPark
  repeat' (first
    | with_reducible assumption
    | (extract_lets -underBinder +onlyGivenNames y; clear_value (hy : y = _); first | refine Keeps.sub (u := u) hy ?_ (fun hk => ?_) | refine Keeps.subA (u := u) hy ?_ (fun hk => ?_) | refine Keeps.subP (u := u) hy ?_ (fun hk => ?_) | clear hy)
    | with_reducible refine Keeps.ite ?_ ?_
    | with_reducible apply Keeps.set
    | with_reducible apply Keeps.off
    | with_reducible apply keeps_groupEnable
    | with_reducible apply keeps_parkDuty
    | split
    | intro)
theorem keeps_parkEnd {u s : State} (h : Keeps u s) (e : MoveEnd) : Keeps u (parkEnd e s) := by
  unfold parkEnd
  repeat' (first
    | with_reducible assumption
    | (extract_lets -underBinder +onlyGivenNames y; clear_value (hy : y = _); first | refine Keeps.sub (u := u) hy ?_ (fun hk => ?_) | refine Keeps.subA (u := u) hy ?_ (fun hk => ?_) | refine Keeps.subP (u := u) hy ?_ (fun hk => ?_) | clear hy)
    | with_reducible refine Keeps.ite ?_ ?_
    | with_reducible apply Keeps.set
    | with_reducible apply Keeps.off
    | with_reducible apply keeps_disableGroup
    | with_reducible apply keeps_parkDuty
    | split
    | intro)
theorem keeps_execCommandCurveEval (m : Fin 2) (s : State) : ∃ u, execCommandCurveEval m s = .next u ∧ Keeps s u := by
  refine ⟨_, rfl, ?_⟩
  have h := Keeps.refl s
  repeat' (first
    | with_reducible assumption
    | (extract_lets -underBinder +onlyGivenNames y; clear_value (hy : y = _); first | refine Keeps.sub (u := s) hy ?_ (fun hk => ?_) | refine Keeps.subA (u := s) hy ?_ (fun hk => ?_) | refine Keeps.subP (u := s) hy ?_ (fun hk => ?_) | clear hy)
    | with_reducible apply Keeps.when
    | with_reducible apply keeps_curveEval
    | with_reducible apply keeps_gbOpposite
    | with_reducible apply keeps_gbTrack
    | with_reducible apply keeps_gearTorque
    | split
    | intro)
theorem keeps_execOverCurrent (b : Fin 3) (s : State) : ∃ u, execOverCurrent b s = .next u ∧ Keeps s u := by
  refine ⟨_, rfl, ?_⟩
  have h := Keeps.refl s
  repeat' (first
    | with_reducible assumption
    | with_reducible apply keeps_overCurrent
    | split
    | intro)
theorem keeps_execActBrCfgWrite (w : Who) (b : Fin 3) (p3 : Bool) (v : Word) (s : State) : ∃ u, execActBrCfgWrite w b p3 v s = .next u ∧ Keeps s u := by
  refine ⟨_, rfl, ?_⟩
  have h := Keeps.refl s
  repeat' (first
    | with_reducible assumption
    | with_reducible refine Keeps.ite ?_ ?_
    | with_reducible apply keeps_sideband
    | with_reducible apply keeps_brCfgWrite
    | split
    | intro)
theorem keeps_execActDiagGo (w : Who) (b : Fin 3) (v : Word) (s : State) : ∃ u, execActDiagGo w b v s = .next u ∧ Keeps s u := by
  refine ⟨_, rfl, ?_⟩
  have h := Keeps.refl s
  repeat' (first
    | with_reducible assumption
    | with_reducible apply keeps_sideband
    | with_reducible apply keeps_diagWrite
    | split
    | intro)
theorem keeps_execActDiagStepEnd (b : Fin 3) (z : Zone) (s : State) : ∃ u, execActDiagStepEnd b z s = .next u ∧ Keeps s u := by
  refine ⟨_, rfl, ?_⟩
  have h := Keeps.refl s
  repeat' (first
    | with_reducible assumption
    | with_reducible apply keeps_diagStep
    | split
    | intro)
theorem keeps_execHallAccept (b : Fin 3) (v : BitVec 3) (s : State) : ∃ u, execHallAccept b v s = .next u ∧ Keeps s u := by
  refine ⟨_, rfl, ?_⟩
  have h := Keeps.refl s
  repeat' (first
    | with_reducible assumption
    | with_reducible apply keeps_hallAccept
    | split
    | intro)
theorem keeps_execHallFault (b : Fin 3) (s : State) : ∃ u, execHallFault b s = .next u ∧ Keeps s u := by
  refine ⟨_, rfl, ?_⟩
  have h := Keeps.refl s
  repeat' (first
    | with_reducible assumption
    | with_reducible apply keeps_hallFault
    | split
    | intro)
theorem keeps_execSentFrameReceived (c : Fin 8) (tick : BitVec 17) (six : Bool) (crc : Bool) (fc1 : BitVec 12) (fc2 : BitVec 12) (scn : BitVec 4) (slow : Option (BitVec 8 × Half)) (s : State) : ∃ u, execSentFrameReceived c tick six crc fc1 fc2 scn slow s = .next u ∧ Keeps s u := by
  refine ⟨_, rfl, ?_⟩
  have h := Keeps.refl s
  repeat' (first
    | with_reducible assumption
    | with_reducible apply keeps_sentFrame
    | split
    | intro)
theorem keeps_execSentTimeout (c : Fin 8) (s : State) : ∃ u, execSentTimeout c s = .next u ∧ Keeps s u := by
  refine ⟨_, rfl, ?_⟩
  have h := Keeps.refl s
  repeat' (first
    | with_reducible assumption
    | with_reducible apply keeps_sentTimeout
    | split
    | intro)
theorem keeps_execSentSlowRead (w : Who) (c : Fin 8) (s : State) : ∃ u, execSentSlowRead w c s = .next u ∧ Keeps s u := by
  refine ⟨_, rfl, ?_⟩
  have h := Keeps.refl s
  repeat' (first
    | with_reducible assumption
    | with_reducible apply Keeps.off
    | with_reducible apply keeps_sidebandRead
    | split
    | intro)
theorem keeps_execShiftPhaseComplete  (s : State) : ∃ u, execShiftPhaseComplete s = .next u ∧ Keeps s u := by
  refine ⟨_, rfl, ?_⟩
  have h := Keeps.refl s
  repeat' (first
    | with_reducible assumption
    | with_reducible apply keeps_shiftPhase
    | split
    | intro)
theorem keeps_execShiftAbort (c : Fin 8) (s : State) : ∃ u, execShiftAbort c s = .next u ∧ Keeps s u := by
  refine ⟨_, rfl, ?_⟩
  have h := Keeps.refl s
  repeat' (first
    | with_reducible assumption
    | with_reducible apply keeps_shiftAbort
    | split
    | intro)
theorem keeps_execParkMoveEnd (e : MoveEnd) (s : State) : ∃ u, execParkMoveEnd e s = .next u ∧ Keeps s u := by
  refine ⟨_, rfl, ?_⟩
  have h := Keeps.refl s
  repeat' (first
    | with_reducible assumption
    | with_reducible apply keeps_parkEnd
    | split
    | intro)
theorem keeps_execShuntConversion (b : Fin 3) (code : BitVec 12) (s : State) : ∃ u, execShuntConversion b code s = .next u ∧ Keeps s u := by
  refine ⟨_, rfl, ?_⟩
  have h := Keeps.refl s
  repeat' (first
    | with_reducible assumption
    | with_reducible apply keeps_shunt
    | split
    | intro)

end Sys2Proof.Machine
end

