-- ==== Sys2Proof/Laws/KeepsMemory.lean ====
section
/-!
SUPPORT. The operations of Machine/Memory.lean keep the canonical forms, the queue and the time.
-/
namespace Sys2Proof.Machine
open Sys2Proof
set_option linter.unreachableTactic false
set_option linter.unusedTactic false

theorem keeps_flipLine {u s : State} (h : Keeps u s) (l : Nat) (f : Flips) : Keeps u (flipLine l f s) := by
  unfold flipLine
  repeat' (first
    | with_reducible assumption
    | with_reducible apply Keeps.setByte
    | with_reducible apply Keeps.foldl
    | split
    | intro)
theorem keeps_flipLines {u s : State} (h : Keeps u s) (ls : List Nat) (os : List Flips) : Keeps u (flipLines ls os s) := by
  unfold flipLines
  repeat' (first
    | with_reducible assumption
    | with_reducible apply Keeps.foldl
    | with_reducible apply keeps_flipLine
    | split
    | intro)
theorem keeps_freeBytes {u s : State} (h : Keeps u s) (a n : Nat) : Keeps u (freeBytes a n s) := by
  induction n generalizing s a with
  | zero => exact h
  | succ n ih => exact ih ((h.free 8).setByte ..) _
theorem keeps_copyBytes {u s : State} (h : Keeps u s) (src : Nat) (dst : Nat) (n : Nat) : Keeps u (copyBytes src dst n s) := by
  unfold copyBytes
  repeat' (first
    | with_reducible assumption
    | with_reducible apply Keeps.setByte
    | with_reducible apply Keeps.foldl
    | split
    | intro)
theorem keeps_zeroBytes {u s : State} (h : Keeps u s) (a : Nat) (n : Nat) : Keeps u (zeroBytes a n s) := by
  unfold zeroBytes
  repeat' (first
    | with_reducible assumption
    | with_reducible apply Keeps.withMem
    | split
    | intro)
theorem keeps_lineCorrected {u s : State} (h : Keeps u s)  : Keeps u (lineCorrected s) := by
  unfold lineCorrected
  repeat' (first
    | with_reducible assumption
    | with_reducible apply Keeps.on
    | with_reducible apply Keeps.incSat
    | split
    | intro)
theorem keeps_lineLost {u s : State} (h : Keeps u s) (l p kind : Nat) : Keeps u (lineLost l p kind s) := by
  unfold lineLost
  repeat' (first
    | with_reducible assumption
    | (extract_lets -underBinder +onlyGivenNames y; clear_value (hy : y = _); first | refine Keeps.sub (u := u) hy ?_ (fun hk => ?_) | refine Keeps.subA (u := u) hy ?_ (fun hk => ?_) | refine Keeps.subP (u := u) hy ?_ (fun hk => ?_) | clear hy)
    | with_reducible apply Keeps.set
    | with_reducible apply Keeps.on
    | with_reducible apply Keeps.incSat
    | with_reducible apply Keeps.send
    | with_reducible apply Keeps.when
    | split
    | intro)
theorem keeps_encodeLine {u s : State} (h : Keeps u s) (l : Nat) : Keeps u (encodeLine l s) := by
  unfold encodeLine
  repeat' (first
    | with_reducible assumption
    | with_reducible apply keeps_zeroBytes
    | split
    | intro)
theorem keeps_recordLines {u s : State} (h : Keeps u s) (p kind : Nat) (l : List (Nat × LineOut)) : Keeps u (recordLines p kind l s) := by
  unfold recordLines
  repeat' (first
    | with_reducible assumption
    | with_reducible apply Keeps.foldl
    | with_reducible apply keeps_lineCorrected
    | with_reducible apply keeps_lineLost
    | split
    | intro)
theorem keeps_garble {u s : State} (h : Keeps u s) (l : List (Nat × LineOut)) : Keeps u (garble l s) := by
  unfold garble
  repeat' (first
    | with_reducible assumption
    | with_reducible refine Keeps.ite ?_ ?_
    | with_reducible apply Keeps.foldl
    | with_reducible apply keeps_freeBytes
    | split
    | intro)
theorem keeps_writeBack {u s : State} (h : Keeps u s) (l : List (Nat × LineOut)) : Keeps u (writeBack l s) := by
  unfold writeBack
  repeat' (first
    | with_reducible assumption
    | with_reducible apply Keeps.foldl
    | with_reducible apply keeps_encodeLine
    | with_reducible apply keeps_garble
    | split
    | intro)
theorem keeps_kibAdd {u s : State} (h : Keeps u s) (p : Nat) (n : Nat) : Keeps u (kibAdd p n s) := by
  unfold kibAdd
  repeat' (first
    | with_reducible assumption
    | (extract_lets -underBinder +onlyGivenNames y; clear_value (hy : y = _); first | refine Keeps.sub (u := u) hy ?_ (fun hk => ?_) | refine Keeps.subA (u := u) hy ?_ (fun hk => ?_) | refine Keeps.subP (u := u) hy ?_ (fun hk => ?_) | clear hy)
    | with_reducible refine Keeps.ite ?_ ?_
    | with_reducible apply Keeps.set
    | split
    | intro)
theorem keeps_sramRead {u s : State} (h : Keeps u s) (island : Nat) (o : Ecc) : Keeps u (sramRead island o s) := by
  unfold sramRead
  repeat' (first
    | with_reducible assumption
    | with_reducible apply Keeps.set
    | with_reducible apply Keeps.on
    | with_reducible apply Keeps.incSat
    | split
    | intro)
theorem keeps_lagoonAccess {u s : State} (h : Keeps u s) (wr : Bool) (a n : Nat) (data : List (BitVec 8)) (e : Ecc) : Keeps u (lagoonAccess wr a n data e s) := by
  unfold lagoonAccess
  repeat' (first
    | with_reducible assumption
    | (extract_lets -underBinder +onlyGivenNames y; clear_value (hy : y = _); first | refine Keeps.sub (u := u) hy ?_ (fun hk => ?_) | refine Keeps.subA (u := u) hy ?_ (fun hk => ?_) | refine Keeps.subP (u := u) hy ?_ (fun hk => ?_) | clear hy)
    | with_reducible refine Keeps.ite ?_ ?_
    | with_reducible apply Keeps.answer
    | with_reducible apply Keeps.writeBytes
    | with_reducible apply keeps_sramRead
    | split
    | intro)
theorem keeps_postRequest {u s : State} (h : Keeps u s) (p : Nat) (wr : Bool) (a n : Nat) : Keeps u (postRequest p wr a n s) := by
  unfold postRequest
  repeat' (first
    | with_reducible assumption
    | with_reducible refine Keeps.ite ?_ ?_
    | with_reducible apply Keeps.set
    | split
    | intro)
theorem keeps_memoryRequest {u s : State} (h : Keeps u s) (w : Who) (p : Nat) (wr : Bool) (a n : Nat) (data : List (BitVec 8)) (e : Ecc) : Keeps u (memoryRequest w p wr a n data e s) := by
  unfold memoryRequest
  repeat' (first
    | with_reducible assumption
    | (extract_lets -underBinder +onlyGivenNames y; clear_value (hy : y = _); first | refine Keeps.sub (u := u) hy ?_ (fun hk => ?_) | refine Keeps.subA (u := u) hy ?_ (fun hk => ?_) | refine Keeps.subP (u := u) hy ?_ (fun hk => ?_) | clear hy)
    | with_reducible refine Keeps.ite ?_ ?_
    | with_reducible apply Keeps.on
    | with_reducible apply Keeps.answer
    | with_reducible apply Keeps.writeBytes
    | with_reducible apply keeps_lagoonAccess
    | with_reducible apply keeps_logViolation
    | with_reducible apply keeps_postRequest
    | with_reducible apply keeps_zeroBytes
    | split
    | intro)
theorem keeps_grant {u s : State} (h : Keeps u s) (p : Nat) (i : Nat) : Keeps u (grant p i s) := by
  unfold grant
  repeat' (first
    | with_reducible assumption
    | (extract_lets -underBinder +onlyGivenNames y; clear_value (hy : y = _); first | refine Keeps.sub (u := u) hy ?_ (fun hk => ?_) | refine Keeps.subA (u := u) hy ?_ (fun hk => ?_) | refine Keeps.subP (u := u) hy ?_ (fun hk => ?_) | clear hy)
    | with_reducible apply Keeps.set
    | with_reducible apply Keeps.off
    | with_reducible apply Keeps.incSat
    | with_reducible apply Keeps.when
    | with_reducible apply keeps_copyBytes
    | with_reducible apply keeps_zeroBytes
    | split
    | intro)
theorem keeps_freeIn {u s : State} (h : Keeps u s) (i : Nat) : Keeps u (freeIn i s) := by
  unfold freeIn
  repeat' (first
    | with_reducible assumption
    | (extract_lets -underBinder +onlyGivenNames y; clear_value (hy : y = _); first | refine Keeps.sub (u := u) hy ?_ (fun hk => ?_) | refine Keeps.subA (u := u) hy ?_ (fun hk => ?_) | refine Keeps.subP (u := u) hy ?_ (fun hk => ?_) | clear hy)
    | with_reducible apply Keeps.set
    | with_reducible apply Keeps.off
    | with_reducible apply keeps_zeroBytes
    | split
    | intro)
theorem keeps_tellStreamer {u s : State} (h : Keeps u s) (p : Nat) : Keeps u (tellStreamer p s) := by
  unfold tellStreamer
  repeat' (first
    | with_reducible assumption
    | (extract_lets -underBinder +onlyGivenNames y; clear_value (hy : y = _); first | refine Keeps.sub (u := u) hy ?_ (fun hk => ?_) | refine Keeps.subA (u := u) hy ?_ (fun hk => ?_) | refine Keeps.subP (u := u) hy ?_ (fun hk => ?_) | clear hy)
    | with_reducible apply Keeps.on
    | with_reducible apply Keeps.when
    | split
    | intro)
theorem keeps_readResponse {u s : State} (h : Keeps u s) (i p a n : Nat) : Keeps u (readResponse i p a n s) := by
  unfold readResponse
  extract_lets r t
  have ht : Keeps u t := keeps_freeIn (keeps_recordLines h ..) ..
  split
  · exact (keeps_tellStreamer ht ..).answer ..
  · exact keeps_kibAdd ((Keeps.withFresh ht _).answer _) ..
theorem keeps_writeLines {u s : State} (h : Keeps u s) (a n : Nat) : Keeps u (writeLines a n s) := by
  unfold writeLines
  repeat' (first
    | with_reducible assumption
    | with_reducible apply Keeps.foldl
    | with_reducible apply keeps_encodeLine
    | with_reducible apply keeps_writeBack
    | split
    | intro)
theorem keeps_writeResponse {u s : State} (h : Keeps u s) (i p a n : Nat) : Keeps u (writeResponse i p a n s) := by
  unfold writeResponse
  repeat' (first
    | with_reducible assumption
    | (extract_lets -underBinder +onlyGivenNames y; clear_value (hy : y = _); first | refine Keeps.sub (u := u) hy ?_ (fun hk => ?_) | refine Keeps.subA (u := u) hy ?_ (fun hk => ?_) | refine Keeps.subP (u := u) hy ?_ (fun hk => ?_) | clear hy)
    | with_reducible refine Keeps.ite ?_ ?_
    | with_reducible apply Keeps.on
    | with_reducible apply Keeps.answer
    | with_reducible apply keeps_copyBytes
    | with_reducible apply keeps_freeIn
    | with_reducible apply keeps_kibAdd
    | with_reducible apply keeps_recordLines
    | with_reducible apply keeps_tellStreamer
    | with_reducible apply keeps_writeLines
    | split
    | intro)
theorem keeps_memoryResponse {u s : State} (h : Keeps u s) (i : Nat) (os : List Flips) : Keeps u (memoryResponse i os s) := by
  unfold memoryResponse
  repeat' (first
    | with_reducible assumption
    | (extract_lets -underBinder +onlyGivenNames y; clear_value (hy : y = _); first | refine Keeps.sub (u := u) hy ?_ (fun hk => ?_) | refine Keeps.subA (u := u) hy ?_ (fun hk => ?_) | refine Keeps.subP (u := u) hy ?_ (fun hk => ?_) | clear hy)
    | with_reducible refine Keeps.ite ?_ ?_
    | with_reducible apply keeps_flipLines
    | with_reducible apply keeps_readResponse
    | with_reducible apply keeps_writeResponse
    | split
    | intro)
theorem keeps_closeTransactions {u s : State} (h : Keeps u s) : Keeps u (closeTransactions s) := by
  unfold closeTransactions
  repeat' (first
    | with_reducible assumption
    | (extract_lets -underBinder +onlyGivenNames y; clear_value (hy : y = _); first | refine Keeps.sub (u := u) hy ?_ (fun hk => ?_) | refine Keeps.subA (u := u) hy ?_ (fun hk => ?_) | refine Keeps.subP (u := u) hy ?_ (fun hk => ?_) | clear hy)
    | with_reducible refine Keeps.ite ?_ ?_
    | with_reducible apply Keeps.off
    | with_reducible apply Keeps.when
    | with_reducible apply Keeps.forUpTo
    | with_reducible apply keeps_freeIn
    | with_reducible apply keeps_tellStreamer
    | with_reducible apply keeps_zeroBytes
    | split
    | intro)
theorem keeps_scrubStep {u s : State} (h : Keeps u s) (f : Flips) : Keeps u (scrubStep f s) := by
  unfold scrubStep
  repeat' (first
    | with_reducible assumption
    | (extract_lets -underBinder +onlyGivenNames y; clear_value (hy : y = _); first | refine Keeps.sub (u := u) hy ?_ (fun hk => ?_) | refine Keeps.subA (u := u) hy ?_ (fun hk => ?_) | refine Keeps.subP (u := u) hy ?_ (fun hk => ?_) | clear hy)
    | with_reducible refine Keeps.ite ?_ ?_
    | with_reducible apply Keeps.set
    | with_reducible apply keeps_flipLine
    | with_reducible apply keeps_recordLines
    | with_reducible apply keeps_writeBack
    | split
    | intro)
theorem keeps_scrubLate {u s : State} (h : Keeps u s)  : Keeps u (scrubLate s) := by
  unfold scrubLate
  repeat' (first
    | with_reducible assumption
    | with_reducible refine Keeps.ite ?_ ?_
    | with_reducible apply Keeps.on
    | split
    | intro)
theorem keeps_lagoonScrub {u s : State} (h : Keeps u s) (o : Ecc) : Keeps u (lagoonScrub o s) := by
  unfold lagoonScrub
  repeat' (first
    | with_reducible assumption
    | with_reducible refine Keeps.ite ?_ ?_
    | with_reducible apply Keeps.set
    | with_reducible apply Keeps.inc
    | with_reducible apply keeps_sramRead
    | split
    | intro)
theorem keeps_dramPowerUp {u s : State} (h : Keeps u s)  : Keeps u (dramPowerUp s) := by
  unfold dramPowerUp
  repeat' (first
    | with_reducible assumption
    | (extract_lets -underBinder +onlyGivenNames y; clear_value (hy : y = _); first | refine Keeps.sub (u := u) hy ?_ (fun hk => ?_) | refine Keeps.subA (u := u) hy ?_ (fun hk => ?_) | refine Keeps.subP (u := u) hy ?_ (fun hk => ?_) | clear hy)
    | with_reducible apply Keeps.set
    | with_reducible apply Keeps.on
    | with_reducible apply Keeps.off
    | with_reducible apply Keeps.withMem
    | split
    | intro)
theorem keeps_dramOff {u s : State} (h : Keeps u s)  : Keeps u (dramOff s) := by
  unfold dramOff
  repeat' (first
    | with_reducible assumption
    | with_reducible apply Keeps.off
    | split
    | intro)
theorem keeps_initChart {u s : State} (h : Keeps u s)  : Keeps u (initChart s) := by
  unfold initChart
  repeat' (first
    | with_reducible assumption
    | with_reducible refine Keeps.ite ?_ ?_
    | with_reducible apply Keeps.on
    | split
    | intro)
theorem keeps_initDone {u s : State} (h : Keeps u s)  : Keeps u (initDone s) := by
  unfold initDone
  repeat' (first
    | with_reducible assumption
    | with_reducible refine Keeps.ite ?_ ?_
    | with_reducible apply Keeps.on
    | split
    | intro)
theorem keeps_frTake {u s : State} (h : Keeps u s)  : Keeps u (frTake s) := by
  unfold frTake
  repeat' (first
    | with_reducible assumption
    | (extract_lets -underBinder +onlyGivenNames y; clear_value (hy : y = _); first | refine Keeps.sub (u := u) hy ?_ (fun hk => ?_) | refine Keeps.subA (u := u) hy ?_ (fun hk => ?_) | refine Keeps.subP (u := u) hy ?_ (fun hk => ?_) | clear hy)
    | with_reducible refine Keeps.ite ?_ ?_
    | with_reducible apply Keeps.set
    | with_reducible apply keeps_zeroBytes
    | split
    | intro)
theorem keeps_frAlloc {u s : State} (h : Keeps u s)  : Keeps u (frAlloc s) := by
  unfold frAlloc
  repeat' (first
    | with_reducible assumption
    | with_reducible refine Keeps.ite ?_ ?_
    | with_reducible apply Keeps.set
    | with_reducible apply Keeps.on
    | with_reducible apply Keeps.off
    | with_reducible apply keeps_frTake
    | split
    | intro)
theorem keeps_frSizeWrite {u s : State} (h : Keeps u s) (v : Nat) : Keeps u (frSizeWrite v s) := by
  unfold frSizeWrite
  repeat' (first
    | with_reducible assumption
    | (extract_lets -underBinder +onlyGivenNames y; clear_value (hy : y = _); first | refine Keeps.sub (u := u) hy ?_ (fun hk => ?_) | refine Keeps.subA (u := u) hy ?_ (fun hk => ?_) | refine Keeps.subP (u := u) hy ?_ (fun hk => ?_) | clear hy)
    | with_reducible refine Keeps.ite ?_ ?_
    | with_reducible apply Keeps.set
    | with_reducible apply Keeps.setB
    | with_reducible apply Keeps.on
    | with_reducible apply Keeps.off
    | with_reducible apply Keeps.when
    | split
    | intro)
theorem keeps_frBaseWrite {u s : State} (h : Keeps u s) (v : Nat) : Keeps u (frBaseWrite v s) := by
  unfold frBaseWrite
  repeat' (first
    | with_reducible assumption
    | with_reducible refine Keeps.ite ?_ ?_
    | with_reducible apply Keeps.set
    | with_reducible apply Keeps.off
    | split
    | intro)
theorem keeps_streamBegin {u s : State} (h : Keeps u s) (e b : Nat) : Keeps u (streamBegin e b s) := by
  unfold streamBegin
  repeat' (first
    | with_reducible assumption
    | (extract_lets -underBinder +onlyGivenNames y; clear_value (hy : y = _); first | refine Keeps.sub (u := u) hy ?_ (fun hk => ?_) | refine Keeps.subA (u := u) hy ?_ (fun hk => ?_) | refine Keeps.subP (u := u) hy ?_ (fun hk => ?_) | clear hy)
    | with_reducible refine Keeps.ite ?_ ?_
    | with_reducible apply Keeps.set
    | with_reducible apply Keeps.off
    | with_reducible apply keeps_frTake
    | split
    | intro)
theorem keeps_streamPost {u s : State} (h : Keeps u s) (a n : Nat) : Keeps u (streamPost a n s) := by
  unfold streamPost
  repeat' (first
    | with_reducible assumption
    | with_reducible refine Keeps.ite ?_ ?_
    | with_reducible apply Keeps.on
    | with_reducible apply Keeps.inc
    | with_reducible apply keeps_logViolation
    | with_reducible apply keeps_postRequest
    | split
    | intro)
theorem keeps_streamPiece {u s : State} (h : Keeps u s) : Keeps u (streamPiece s) := by
  unfold streamPiece
  repeat' (first
    | with_reducible assumption
    | (extract_lets -underBinder +onlyGivenNames y; clear_value (hy : y = _); first | refine Keeps.sub (u := u) hy ?_ (fun hk => ?_) | refine Keeps.subA (u := u) hy ?_ (fun hk => ?_) | refine Keeps.subP (u := u) hy ?_ (fun hk => ?_) | clear hy)
    | with_reducible refine Keeps.ite ?_ ?_
    | with_reducible apply Keeps.writeN
    | with_reducible apply keeps_copyBytes
    | with_reducible apply keeps_streamPost
    | with_reducible apply keeps_zeroBytes
    | split
    | intro)
theorem keeps_streamOffer {u s : State} (h : Keeps u s) : Keeps u (streamOffer s) := by
  unfold streamOffer
  repeat' (first
    | with_reducible assumption
    | (extract_lets -underBinder +onlyGivenNames y; clear_value (hy : y = _); first | refine Keeps.sub (u := u) hy ?_ (fun hk => ?_) | refine Keeps.subA (u := u) hy ?_ (fun hk => ?_) | refine Keeps.subP (u := u) hy ?_ (fun hk => ?_) | clear hy)
    | with_reducible refine Keeps.ite ?_ ?_
    | with_reducible apply keeps_streamBegin
    | with_reducible apply keeps_streamPiece
    | split
    | intro)
theorem keeps_arbiterGrant {u s : State} (h : Keeps u s) : Keeps u (arbiterGrant s) := by
  unfold arbiterGrant
  repeat' (first
    | with_reducible assumption
    | (extract_lets -underBinder +onlyGivenNames y; clear_value (hy : y = _); first | refine Keeps.sub (u := u) hy ?_ (fun hk => ?_) | refine Keeps.subA (u := u) hy ?_ (fun hk => ?_) | refine Keeps.subP (u := u) hy ?_ (fun hk => ?_) | clear hy)
    | with_reducible refine Keeps.ite ?_ ?_
    | with_reducible apply Keeps.set
    | with_reducible apply keeps_grant
    | with_reducible apply keeps_streamOffer
    | split
    | intro)
theorem keeps_streamCopy {u s : State} (h : Keeps u s) (e : Nat) : Keeps u (streamCopy e s) := by
  unfold streamCopy
  repeat' (first
    | with_reducible assumption
    | (extract_lets -underBinder +onlyGivenNames y; clear_value (hy : y = _); first | refine Keeps.sub (u := u) hy ?_ (fun hk => ?_) | refine Keeps.subA (u := u) hy ?_ (fun hk => ?_) | refine Keeps.subP (u := u) hy ?_ (fun hk => ?_) | clear hy)
    | with_reducible refine Keeps.ite ?_ ?_
    | with_reducible apply Keeps.setB
    | with_reducible apply Keeps.on
    | with_reducible apply Keeps.off
    | with_reducible apply Keeps.clrBit
    | with_reducible apply Keeps.when
    | split
    | intro)
theorem keeps_execMemoryRequest (w : Who) (p : Fin 32) (wr : Bool) (a : BitVec 40) (n : Fin 257) (data : List (BitVec 8)) (e : Ecc) (s : State) : ∃ u, execMemoryRequest w p wr a n data e s = .next u ∧ Keeps s u := by
  refine ⟨_, rfl, ?_⟩
  have h := Keeps.refl s
  repeat' (first
    | with_reducible assumption
    | with_reducible apply keeps_memoryRequest
    | split
    | intro)
theorem keeps_execArbiterGrant  (s : State) : ∃ u, execArbiterGrant s = .next u ∧ Keeps s u := by
  refine ⟨_, rfl, ?_⟩
  have h := Keeps.refl s
  repeat' (first
    | with_reducible assumption
    | with_reducible apply keeps_arbiterGrant
    | split
    | intro)
theorem keeps_execMemoryResponse (i : Fin 64) (os : List Flips) (s : State) : ∃ u, execMemoryResponse i os s = .next u ∧ Keeps s u := by
  refine ⟨_, rfl, ?_⟩
  have h := Keeps.refl s
  repeat' (first
    | with_reducible assumption
    | with_reducible apply keeps_memoryResponse
    | split
    | intro)
theorem keeps_execPortClassWrite (w : Who) (p : Fin 32) (v : Word) (s : State) : ∃ u, execPortClassWrite w p v s = .next u ∧ Keeps s u := by
  refine ⟨_, rfl, ?_⟩
  have h := Keeps.refl s
  repeat' (first
    | with_reducible assumption
    | (extract_lets -underBinder +onlyGivenNames y; clear_value (hy : y = _); first | refine Keeps.sub (u := s) hy ?_ (fun hk => ?_) | refine Keeps.subA (u := s) hy ?_ (fun hk => ?_) | refine Keeps.subP (u := s) hy ?_ (fun hk => ?_) | clear hy)
    | with_reducible apply keeps_sideband
    | with_reducible apply keeps_storeWord
    | split
    | intro)
theorem keeps_execScrubStep (f : Flips) (s : State) : ∃ u, execScrubStep f s = .next u ∧ Keeps s u := by
  refine ⟨_, rfl, ?_⟩
  have h := Keeps.refl s
  repeat' (first
    | with_reducible assumption
    | with_reducible apply keeps_scrubStep
    | split
    | intro)
theorem keeps_execScrubPassLate  (s : State) : ∃ u, execScrubPassLate s = .next u ∧ Keeps s u := by
  refine ⟨_, rfl, ?_⟩
  have h := Keeps.refl s
  repeat' (first
    | with_reducible assumption
    | with_reducible apply keeps_scrubLate
    | split
    | intro)
theorem keeps_execLagoonScrubStep (o : Ecc) (s : State) : ∃ u, execLagoonScrubStep o s = .next u ∧ Keeps s u := by
  refine ⟨_, rfl, ?_⟩
  have h := Keeps.refl s
  repeat' (first
    | with_reducible assumption
    | with_reducible apply keeps_lagoonScrub
    | split
    | intro)
theorem keeps_execDramInitChartDone  (s : State) : ∃ u, execDramInitChartDone s = .next u ∧ Keeps s u := by
  refine ⟨_, rfl, ?_⟩
  have h := Keeps.refl s
  repeat' (first
    | with_reducible assumption
    | with_reducible apply keeps_initChart
    | split
    | intro)
theorem keeps_execDramInitDone  (s : State) : ∃ u, execDramInitDone s = .next u ∧ Keeps s u := by
  refine ⟨_, rfl, ?_⟩
  have h := Keeps.refl s
  repeat' (first
    | with_reducible assumption
    | with_reducible apply keeps_initDone
    | split
    | intro)
theorem keeps_execFrAllocRead (w : Who) (s : State) : ∃ u, execFrAllocRead w s = .next u ∧ Keeps s u := by
  refine ⟨_, rfl, ?_⟩
  have h := Keeps.refl s
  repeat' (first
    | with_reducible assumption
    | with_reducible apply keeps_sidebandReadAfter
    | with_reducible apply keeps_frAlloc
    | split
    | intro)
theorem keeps_execFrEnable (w : Who) (v : Word) (s : State) : ∃ u, execFrEnable w v s = .next u ∧ Keeps s u := by
  refine ⟨_, rfl, ?_⟩
  have h := Keeps.refl s
  repeat' (first
    | with_reducible assumption
    | with_reducible apply keeps_sideband
    | with_reducible apply keeps_frSizeWrite
    | split
    | intro)
theorem keeps_execStreamCopyComplete (e : EngIx) (s : State) : ∃ u, execStreamCopyComplete e s = .next u ∧ Keeps s u := by
  refine ⟨_, rfl, ?_⟩
  have h := Keeps.refl s
  repeat' (first
    | with_reducible assumption
    | with_reducible apply keeps_streamCopy
    | split
    | intro)

end Sys2Proof.Machine
end

