-- ==== Sys2Proof/Laws/KeepsSession.lean ====
section
/-!
SUPPORT. The operations of Machine/Session.lean keep the canonical forms, the queue and the time.
-/
namespace Sys2Proof.Machine
open Sys2Proof
set_option linter.unreachableTactic false
set_option linter.unusedTactic false

theorem keeps_auditEntry {u s : State} (h : Keeps u s) (role port code key status : Nat) (det : List (BitVec 8)) : Keeps u (auditEntry role port code key status det s) := by
  unfold auditEntry
  repeat' (first
    | with_reducible assumption
    | (extract_lets -underBinder +onlyGivenNames y; clear_value (hy : y = _); first | refine Keeps.sub (u := u) hy ?_ (fun hk => ?_) | refine Keeps.subA (u := u) hy ?_ (fun hk => ?_) | refine Keeps.subP (u := u) hy ?_ (fun hk => ?_) | clear hy)
    | with_reducible refine Keeps.ite ?_ ?_
    | with_reducible apply Keeps.set
    | with_reducible apply Keeps.off
    | with_reducible apply Keeps.writeN
    | with_reducible apply Keeps.writeBytes
    | with_reducible apply keeps_zeroBytes
    | split
    | intro)
theorem keeps_auditFail {u s : State} (h : Keeps u s)  : Keeps u (auditFail s) := by
  unfold auditFail
  repeat' (first
    | with_reducible assumption
    | with_reducible apply Keeps.setBit
    | split
    | intro)
theorem keeps_auditTry {u s : State} (h : Keeps u s) (ok : Bool) (role : Nat) (port : Nat) (code : Nat) (key : Nat) (status : Nat) (det : List (BitVec 8)) : Keeps u (auditTry ok role port code key status det s) := by
  unfold auditTry
  repeat' (first
    | with_reducible assumption
    | with_reducible refine Keeps.ite ?_ ?_
    | with_reducible apply keeps_auditEntry
    | with_reducible apply keeps_auditFail
    | split
    | intro)
theorem keeps_freeWords {u s : State} (h : Keeps u s) (n : Nat) : Keeps u (s.freeWords n).2 := by
  induction n generalizing s with
  | zero => exact h
  | succ n ih => exact ih (h.free _)
theorem keeps_nextSeq {u s : State} (h : Keeps u s) (k : Nat) : Keeps u (nextSeq k s) := by
  unfold nextSeq
  repeat' (first
    | with_reducible assumption
    | with_reducible refine Keeps.ite ?_ ?_
    | with_reducible apply Keeps.inc
    | split
    | intro)
theorem keeps_sendReply {u s : State} (h : Keeps u s) (n : Nat) (st : Nat) (det : Nat) (val : Nat) : Keeps u (sendReply n st det val s) := by
  unfold sendReply
  repeat' (first
    | with_reducible assumption
    | (extract_lets -underBinder +onlyGivenNames y; clear_value (hy : y = _); first | refine Keeps.sub (u := u) hy ?_ (fun hk => ?_) | refine Keeps.subA (u := u) hy ?_ (fun hk => ?_) | refine Keeps.subP (u := u) hy ?_ (fun hk => ?_) | clear hy)
    | with_reducible apply Keeps.send
    | with_reducible apply keeps_nextSeq
    | split
    | intro)
theorem keeps_reply {u s : State} (h : Keeps u s) (n : Nat) (st : Nat) (det : Nat) (val : Nat) : Keeps u (reply n st det val s) := by
  unfold reply
  repeat' (first
    | with_reducible assumption
    | (extract_lets -underBinder +onlyGivenNames y; clear_value (hy : y = _); first | refine Keeps.sub (u := u) hy ?_ (fun hk => ?_) | refine Keeps.subA (u := u) hy ?_ (fun hk => ?_) | refine Keeps.subP (u := u) hy ?_ (fun hk => ?_) | clear hy)
    | with_reducible apply Keeps.set
    | with_reducible apply Keeps.setB
    | with_reducible apply keeps_sendReply
    | split
    | intro)
theorem keeps_ans {u s : State} (h : Keeps u s) (st : Nat) (det : Nat) : Keeps u (ans st det s).s := by
  unfold ans
  repeat' (first
    | with_reducible assumption
    | split
    | intro)
theorem keeps_ansOk {u s : State} (h : Keeps u s) (val : Nat) : Keeps u (ansOk val s).s := by
  unfold ansOk
  repeat' (first
    | with_reducible assumption
    | split
    | intro)
theorem keeps_ansRefused {u s : State} (h : Keeps u s)  : Keeps u (ansRefused s).s := by
  unfold ansRefused
  repeat' (first
    | with_reducible assumption
    | with_reducible apply Keeps.free
    | split
    | intro)
theorem keeps_serve {u s : State} (h : Keeps u s) (n code least : Nat) (lenOk : Nat → Bool) (par : Nat)
    (body : State → Ans) (hbody : ∀ t, Keeps u t → Keeps u (body t).s) : Keeps u (serve n code least lenOk par body s) := by
  unfold serve
  split
  · exact h
  extract_lets t r
  have ht : Keeps u t := by
    show Keeps u (if n = 0 then s else _)
    split
    exacts [h, h.set ..]
  split
  · exact keeps_reply ht ..
  split
  · exact keeps_reply ht ..
  split
  · exact keeps_reply ht ..
  split
  · exact keeps_reply ht ..
  · exact keeps_reply (hbody _ ht) ..
theorem keeps_audited {u s : State} (h : Keeps u s) (aud always : Bool) (n code : Nat) (det : List (BitVec 8)) (body : State → Ans)
    (hbody : ∀ t, Keeps u t → Keeps u (body t).s) : Keeps u (audited aud always n code det body s).s := by
  have hr := hbody s h
  unfold audited
  extract_lets r
  split
  · exact hr
  · split
    · exact keeps_auditEntry hr ..
    · exact keeps_auditFail h
theorem keeps_cutTransfer {u s : State} (h : Keeps u s) (k : Nat) (aud : Bool) : Keeps u (cutTransfer k aud s) := by
  unfold cutTransfer
  repeat' (first
    | with_reducible assumption
    | (extract_lets -underBinder +onlyGivenNames y; clear_value (hy : y = _); first | refine Keeps.sub (u := u) hy ?_ (fun hk => ?_) | refine Keeps.subA (u := u) hy ?_ (fun hk => ?_) | refine Keeps.subP (u := u) hy ?_ (fun hk => ?_) | clear hy)
    | with_reducible refine Keeps.ite ?_ ?_
    | with_reducible apply Keeps.on
    | with_reducible apply Keeps.off
    | with_reducible apply Keeps.setBit
    | with_reducible apply keeps_auditTry
    | split
    | intro)
theorem keeps_endSession {u s : State} (h : Keeps u s) (k : Nat) (aud : Bool) : Keeps u (endSession k aud s) := by
  unfold endSession
  repeat' (first
    | with_reducible assumption
    | (extract_lets -underBinder +onlyGivenNames y; clear_value (hy : y = _); first | refine Keeps.sub (u := u) hy ?_ (fun hk => ?_) | refine Keeps.subA (u := u) hy ?_ (fun hk => ?_) | refine Keeps.subP (u := u) hy ?_ (fun hk => ?_) | clear hy)
    | with_reducible refine Keeps.ite ?_ ?_
    | with_reducible apply Keeps.off
    | with_reducible apply Keeps.when
    | with_reducible apply keeps_cutTransfer
    | with_reducible apply keeps_requestMode
    | split
    | intro)
theorem keeps_endSessions {u s : State} (h : Keeps u s) (aud : Bool) : Keeps u (endSessions aud s) := by
  unfold endSessions
  repeat' (first
    | with_reducible assumption
    | with_reducible apply Keeps.forUpTo
    | with_reducible apply keeps_endSession
    | split
    | intro)
theorem keeps_mailboxArrival {u s : State} (h : Keeps u s) (n port ses : Nat) (l : List (BitVec 8)) : Keeps u (mailboxArrival n port ses l s) := by
  unfold mailboxArrival
  repeat' (first
    | with_reducible assumption
    | (extract_lets -underBinder +onlyGivenNames y; clear_value (hy : y = _); first | refine Keeps.sub (u := u) hy ?_ (fun hk => ?_) | refine Keeps.subA (u := u) hy ?_ (fun hk => ?_) | refine Keeps.subP (u := u) hy ?_ (fun hk => ?_) | clear hy)
    | with_reducible refine Keeps.ite ?_ ?_
    | with_reducible apply Keeps.set
    | with_reducible apply Keeps.on
    | with_reducible apply Keeps.off
    | with_reducible apply Keeps.incSat
    | with_reducible apply Keeps.send
    | with_reducible apply keeps_nextSeq
    | with_reducible apply keeps_reply
    | with_reducible apply keeps_sendReply
    | split
    | intro)
theorem keeps_deliver {u s : State} (h : Keeps u s) (f : Frame) (ses : Nat) : Keeps u (deliver f ses s) := by
  unfold deliver
  repeat' (first
    | with_reducible assumption
    | (extract_lets -underBinder +onlyGivenNames y; clear_value (hy : y = _); first | refine Keeps.sub (u := u) hy ?_ (fun hk => ?_) | refine Keeps.subA (u := u) hy ?_ (fun hk => ?_) | refine Keeps.subP (u := u) hy ?_ (fun hk => ?_) | clear hy)
    | with_reducible refine Keeps.ite ?_ ?_
    | with_reducible apply keeps_mailboxArrival
    | split
    | intro)
theorem keeps_frameReceived {u s : State} (h : Keeps u s) (f : Frame) : Keeps u (frameReceived f s) := by
  unfold frameReceived
  repeat' (first
    | with_reducible assumption
    | (extract_lets -underBinder +onlyGivenNames y; clear_value (hy : y = _); first | refine Keeps.sub (u := u) hy ?_ (fun hk => ?_) | refine Keeps.subA (u := u) hy ?_ (fun hk => ?_) | refine Keeps.subP (u := u) hy ?_ (fun hk => ?_) | clear hy)
    | with_reducible refine Keeps.ite ?_ ?_
    | with_reducible apply Keeps.set
    | with_reducible apply Keeps.incSat
    | with_reducible apply keeps_deliver
    | split
    | intro)
theorem keeps_dropSegments {u s : State} (h : Keeps u s) (p n : Nat) : Keeps u (dropSegments p n s) := by
  unfold dropSegments
  repeat' (first
    | with_reducible assumption
    | with_reducible apply Keeps.off
    | split
    | intro)
theorem keeps_segmentReceived {u s : State} (h : Keeps u s) (p n hdr : Nat) (full : Bool) (data : List (BitVec 8)) : Keeps u (segmentReceived p n hdr full data s) := by
  unfold segmentReceived
  repeat' (first
    | with_reducible assumption
    | (extract_lets -underBinder +onlyGivenNames y; clear_value (hy : y = _); first | refine Keeps.sub (u := u) hy ?_ (fun hk => ?_) | refine Keeps.subA (u := u) hy ?_ (fun hk => ?_) | refine Keeps.subP (u := u) hy ?_ (fun hk => ?_) | clear hy)
    | with_reducible refine Keeps.ite ?_ ?_
    | with_reducible apply Keeps.set
    | with_reducible apply Keeps.on
    | with_reducible apply Keeps.incSat
    | with_reducible apply keeps_dropSegments
    | with_reducible apply keeps_frameReceived
    | split
    | intro)
theorem keeps_segmentTimeout {u s : State} (h : Keeps u s) (p n : Nat) : Keeps u (segmentTimeout p n s) := by
  unfold segmentTimeout
  repeat' (first
    | with_reducible assumption
    | with_reducible refine Keeps.ite ?_ ?_
    | with_reducible apply keeps_dropSegments
    | split
    | intro)
theorem keeps_sessionIdle {u s : State} (h : Keeps u s) (k : Nat) (aud : Bool) : Keeps u (sessionIdle k aud s) := by
  unfold sessionIdle
  repeat' (first
    | with_reducible assumption
    | with_reducible refine Keeps.ite ?_ ?_
    | with_reducible apply keeps_auditTry
    | with_reducible apply keeps_endSession
    | split
    | intro)

end Sys2Proof.Machine
end

