-- ==== Sys2Proof/Laws/KeepsIslands.lean ====
section
/-!
SUPPORT. The operations of Machine/Islands.lean keep the canonical forms, the queue and the time.
-/
namespace Sys2Proof.Machine
open Sys2Proof
set_option linter.unreachableTactic false
set_option linter.unusedTactic false

theorem keeps_resetRegs {u s : State} (h : Keeps u s) (n : Nat) : Keeps u (resetRegs n s) := by
  unfold resetRegs
  repeat' (first
    | with_reducible assumption
    | (extract_lets -underBinder +onlyGivenNames y; clear_value (hy : y = _); first | refine Keeps.sub (u := u) hy ?_ (fun hk => ?_) | refine Keeps.subA (u := u) hy ?_ (fun hk => ?_) | refine Keeps.subP (u := u) hy ?_ (fun hk => ?_) | clear hy)
    | with_reducible apply Keeps.withVals
    | split
    | intro)
theorem keeps_loseFirmware {u s : State} (h : Keeps u s) (n : Nat) : Keeps u (loseFirmware n s) := by
  unfold loseFirmware
  repeat' (first
    | with_reducible assumption
    | (extract_lets -underBinder +onlyGivenNames y; clear_value (hy : y = _); first | refine Keeps.sub (u := u) hy ?_ (fun hk => ?_) | refine Keeps.subA (u := u) hy ?_ (fun hk => ?_) | refine Keeps.subP (u := u) hy ?_ (fun hk => ?_) | refine Keeps.subF (u := u) hy (fun t ht => ?_) (fun hk => ?_) | refine Keeps.subF1 (u := u) hy (fun a t ht => ?_) (fun hk => ?_) | refine Keeps.subF2 (u := u) hy (fun a b t ht => ?_) (fun hk => ?_) | refine Keeps.subG1 (u := u) hy (fun a => ?_) (fun hk => ?_) | refine Keeps.subG2 (u := u) hy (fun a b => ?_) (fun hk => ?_) | clear hy)
    | with_reducible refine Keeps.ite ?_ ?_
    | with_reducible apply Keeps.withVals
    | with_reducible apply_assumption
    | split
    | intro)
theorem keeps_loseBytes {u s : State} (h : Keeps u s) (n : Nat) : Keeps u (loseBytes n s) := by
  unfold loseBytes
  repeat' (first
    | with_reducible assumption
    | with_reducible apply Keeps.withMem
    | split
    | intro)
theorem keeps_strClear {u s : State} (h : Keeps u s) (i : Nat) (j : Nat) : Keeps u (strClear i j s) := by
  unfold strClear
  repeat' (first
    | with_reducible assumption
    | with_reducible apply Keeps.off
    | split
    | intro)
theorem keeps_linesDown {u s : State} (h : Keeps u s) (n : Nat) : Keeps u (linesDown n s) := by
  unfold linesDown
  repeat' (first
    | with_reducible assumption
    | with_reducible apply Keeps.forUpTo
    | with_reducible apply keeps_hallStateChange
    | with_reducible apply keeps_setOut
    | split
    | intro)
theorem keeps_linesUp {u s : State} (h : Keeps u s) (n : Nat) : Keeps u (linesUp n s) := by
  unfold linesUp
  repeat' (first
    | with_reducible assumption
    | with_reducible apply Keeps.forUpTo
    | with_reducible apply keeps_hallStateChange
    | with_reducible apply keeps_refreshForce
    | split
    | intro)
theorem keeps_closeStraits {u s : State} (h : Keeps u s) (n : Nat) : Keeps u (closeStraits n s) := by
  unfold closeStraits
  repeat' (first
    | with_reducible assumption
    | (extract_lets -underBinder +onlyGivenNames y; clear_value (hy : y = _); first | refine Keeps.sub (u := u) hy ?_ (fun hk => ?_) | refine Keeps.subA (u := u) hy ?_ (fun hk => ?_) | refine Keeps.subP (u := u) hy ?_ (fun hk => ?_) | refine Keeps.subF (u := u) hy (fun t ht => ?_) (fun hk => ?_) | refine Keeps.subF1 (u := u) hy (fun a t ht => ?_) (fun hk => ?_) | refine Keeps.subF2 (u := u) hy (fun a b t ht => ?_) (fun hk => ?_) | refine Keeps.subG1 (u := u) hy (fun a => ?_) (fun hk => ?_) | refine Keeps.subG2 (u := u) hy (fun a b => ?_) (fun hk => ?_) | clear hy)
    | with_reducible refine Keeps.ite ?_ ?_
    | with_reducible apply Keeps.on
    | with_reducible apply Keeps.answer
    | with_reducible apply Keeps.forUpTo
    | with_reducible apply keeps_strClear
    | with_reducible apply_assumption
    | split
    | intro)
theorem keeps_leaveRun {u s : State} (h : Keeps u s) (n : Nat) : Keeps u (leaveRun n s) := by
  unfold leaveRun
  repeat' (first
    | with_reducible assumption
    | (extract_lets -underBinder +onlyGivenNames y; clear_value (hy : y = _); first | refine Keeps.sub (u := u) hy ?_ (fun hk => ?_) | refine Keeps.subA (u := u) hy ?_ (fun hk => ?_) | refine Keeps.subP (u := u) hy ?_ (fun hk => ?_) | clear hy)
    | with_reducible refine Keeps.ite ?_ ?_
    | with_reducible apply Keeps.forUpTo
    | with_reducible apply keeps_closeStraits
    | with_reducible apply keeps_closeTransactions
    | with_reducible apply keeps_cutTransfer
    | with_reducible apply keeps_edgeLeaves
    | with_reducible apply keeps_loopLeaves
    | split
    | intro)
theorem keeps_enterState {u s : State} (h : Keeps u s) (n st : Nat) : Keeps u (enterState n st s) := by
  unfold enterState
  repeat' (first
    | with_reducible assumption
    | (extract_lets -underBinder +onlyGivenNames y; clear_value (hy : y = _); first | refine Keeps.sub (u := u) hy ?_ (fun hk => ?_) | refine Keeps.subA (u := u) hy ?_ (fun hk => ?_) | refine Keeps.subP (u := u) hy ?_ (fun hk => ?_) | clear hy)
    | with_reducible refine Keeps.ite ?_ ?_
    | with_reducible apply Keeps.set
    | with_reducible apply Keeps.clrBit
    | with_reducible apply Keeps.when
    | with_reducible apply Keeps.forUpTo
    | with_reducible apply Keeps.withMem
    | with_reducible apply keeps_loseBytes
    | with_reducible apply keeps_loseFirmware
    | with_reducible apply keeps_resetRegs
    | with_reducible apply keeps_setOut
    | split
    | intro)
theorem keeps_enterRun {u s : State} (h : Keeps u s) (n old : Nat) : Keeps u (enterRun n old s) := by
  unfold enterRun
  repeat' (first
    | with_reducible assumption
    | (extract_lets -underBinder +onlyGivenNames y; clear_value (hy : y = _); first | refine Keeps.sub (u := u) hy ?_ (fun hk => ?_) | refine Keeps.subA (u := u) hy ?_ (fun hk => ?_) | refine Keeps.subP (u := u) hy ?_ (fun hk => ?_) | clear hy)
    | with_reducible refine Keeps.ite ?_ ?_
    | with_reducible apply Keeps.set
    | with_reducible apply Keeps.on
    | with_reducible apply Keeps.off
    | with_reducible apply Keeps.setBit
    | with_reducible apply Keeps.when
    | with_reducible apply Keeps.forUpTo
    | with_reducible apply keeps_edgeReturn
    | with_reducible apply keeps_hallStateChange
    | with_reducible apply keeps_linkReturn
    | split
    | intro)
theorem keeps_setIsland {u s : State} (h : Keeps u s) (n : Nat) (st : Nat) : Keeps u (setIsland n st s) := by
  unfold setIsland
  repeat' (first
    | with_reducible assumption
    | (extract_lets -underBinder +onlyGivenNames y; clear_value (hy : y = _); first | refine Keeps.sub (u := u) hy ?_ (fun hk => ?_) | refine Keeps.subA (u := u) hy ?_ (fun hk => ?_) | refine Keeps.subP (u := u) hy ?_ (fun hk => ?_) | clear hy)
    | with_reducible refine Keeps.ite ?_ ?_
    | with_reducible apply Keeps.set
    | with_reducible apply Keeps.setB
    | with_reducible apply Keeps.on
    | with_reducible apply Keeps.off
    | with_reducible apply Keeps.when
    | with_reducible apply keeps_linesDown
    | with_reducible apply keeps_linesUp
    | with_reducible apply keeps_leaveRun
    | with_reducible apply keeps_enterState
    | with_reducible apply keeps_enterRun
    | split
    | intro)
theorem keeps_answerIsland {u s : State} (h : Keeps u s) (n : Nat) : Keeps u (answerIsland n s) := by
  unfold answerIsland
  repeat' (first
    | with_reducible assumption
    | with_reducible refine Keeps.ite ?_ ?_
    | with_reducible apply Keeps.forUpTo
    | with_reducible apply keeps_reply
    | split
    | intro)
theorem keeps_transitionComplete {u s : State} (h : Keeps u s) (n : Nat) : Keeps u (transitionComplete n s) := by
  unfold transitionComplete
  repeat' (first
    | with_reducible assumption
    | (extract_lets -underBinder +onlyGivenNames y; clear_value (hy : y = _); first | refine Keeps.sub (u := u) hy ?_ (fun hk => ?_) | refine Keeps.subA (u := u) hy ?_ (fun hk => ?_) | refine Keeps.subP (u := u) hy ?_ (fun hk => ?_) | clear hy)
    | with_reducible refine Keeps.ite ?_ ?_
    | with_reducible apply Keeps.set
    | with_reducible apply Keeps.off
    | with_reducible apply Keeps.when
    | with_reducible apply keeps_continuePlan
    | with_reducible apply keeps_setIsland
    | with_reducible apply keeps_answerIsland
    | split
    | intro)
theorem keeps_requestIsland {u s : State} (h : Keeps u s) (n : Nat) (st : Nat) (force : Bool) : Keeps u (requestIsland n st force s) := by
  unfold requestIsland
  repeat' (first
    | with_reducible assumption
    | (extract_lets -underBinder +onlyGivenNames y; clear_value (hy : y = _); first | refine Keeps.sub (u := u) hy ?_ (fun hk => ?_) | refine Keeps.subA (u := u) hy ?_ (fun hk => ?_) | refine Keeps.subP (u := u) hy ?_ (fun hk => ?_) | clear hy)
    | with_reducible refine Keeps.ite ?_ ?_
    | with_reducible apply Keeps.on
    | with_reducible apply keeps_disableGroups
    | with_reducible apply keeps_beginIsland
    | split
    | intro)
theorem keeps_islandCtrl {u s : State} (h : Keeps u s) (n : Nat) (v : Nat) : Keeps u (islandCtrl n v s) := by
  unfold islandCtrl
  repeat' (first
    | with_reducible assumption
    | (extract_lets -underBinder +onlyGivenNames y; clear_value (hy : y = _); first | refine Keeps.sub (u := u) hy ?_ (fun hk => ?_) | refine Keeps.subA (u := u) hy ?_ (fun hk => ?_) | refine Keeps.subP (u := u) hy ?_ (fun hk => ?_) | clear hy)
    | with_reducible refine Keeps.ite ?_ ?_
    | with_reducible apply Keeps.set
    | with_reducible apply keeps_requestIsland
    | split
    | intro)
theorem keeps_drainComplete {u s : State} (h : Keeps u s) (n : Nat) : Keeps u (drainComplete n s) := by
  unfold drainComplete
  repeat' (first
    | with_reducible assumption
    | with_reducible refine Keeps.ite ?_ ?_
    | with_reducible apply Keeps.on
    | split
    | intro)
theorem keeps_drainTimeout {u s : State} (h : Keeps u s) (n : Nat) : Keeps u (drainTimeout n s) := by
  unfold drainTimeout
  repeat' (first
    | with_reducible assumption
    | (extract_lets -underBinder +onlyGivenNames y; clear_value (hy : y = _); first | refine Keeps.sub (u := u) hy ?_ (fun hk => ?_) | refine Keeps.subA (u := u) hy ?_ (fun hk => ?_) | refine Keeps.subP (u := u) hy ?_ (fun hk => ?_) | clear hy)
    | with_reducible refine Keeps.ite ?_ ?_
    | with_reducible apply Keeps.on
    | with_reducible apply Keeps.send
    | with_reducible apply Keeps.when
    | with_reducible apply keeps_closeStraits
    | with_reducible apply keeps_closeTransactions
    | split
    | intro)
theorem keeps_parityNote {u s : State} (h : Keeps u s) (j : Nat) : Keeps u (parityNote j s) := by
  unfold parityNote
  repeat' (first
    | with_reducible assumption
    | with_reducible apply Keeps.set
    | with_reducible apply Keeps.inc
    | split
    | intro)
theorem keeps_parityError {u s : State} (h : Keeps u s) (i j : Nat) : Keeps u (parityError i j s) := by
  unfold parityError
  repeat' (first
    | with_reducible assumption
    | with_reducible apply Keeps.on
    | with_reducible apply Keeps.incSat
    | with_reducible apply Keeps.send
    | with_reducible apply Keeps.answer
    | with_reducible apply keeps_parityNote
    | split
    | intro)
theorem keeps_strWord {u s : State} (h : Keeps u s) (i j payload par kind : Nat) (kpar : Bool) : Keeps u (strWord i j payload par kind kpar s) := by
  unfold strWord
  extract_lets n f t
  have ht : Keeps u t := by
    show Keeps u (if parityOk payload par kind kpar then s else parityError i j s)
    split
    exacts [h, keeps_parityError h ..]
  clear_value t n
  split
  · exact h
  split
  · exact ((keeps_strClear h ..).on ..).answer ..
  split
  · split
    exacts [ht, (ht.set ..).incSat ..]
  · split
    exacts [(keeps_strClear ht ..).answer .., ((keeps_strClear ht ..).answer ..).send ..]
  · split
    exacts [keeps_strClear ht .., ht.answer ..]
  · split
    exacts [keeps_strClear ht .., ht.answer ..]
theorem keeps_strTimeout {u s : State} (h : Keeps u s) (i n : Nat) : Keeps u (strTimeout i n s) := by
  unfold strTimeout
  repeat' (first
    | with_reducible assumption
    | with_reducible refine Keeps.ite ?_ ?_
    | with_reducible apply Keeps.on
    | with_reducible apply Keeps.incSat
    | with_reducible apply Keeps.send
    | with_reducible apply Keeps.answer
    | with_reducible apply keeps_strClear
    | split
    | intro)
theorem keeps_execReqStateWrite (w : Who) (n : IslandIx) (st : Fin 8) (force : Bool) (s : State) : ∃ u, execReqStateWrite w n st force s = .next u ∧ Keeps s u := by
  refine ⟨_, rfl, ?_⟩
  have h := Keeps.refl s
  repeat' (first
    | with_reducible assumption
    | (extract_lets -underBinder +onlyGivenNames y; clear_value (hy : y = _); first | refine Keeps.sub (u := s) hy ?_ (fun hk => ?_) | refine Keeps.subA (u := s) hy ?_ (fun hk => ?_) | refine Keeps.subP (u := s) hy ?_ (fun hk => ?_) | clear hy)
    | with_reducible apply keeps_sideband
    | with_reducible apply keeps_islandCtrl
    | split
    | intro)
theorem keeps_execIslandTransitionComplete (n : IslandIx) (s : State) : ∃ u, execIslandTransitionComplete n s = .next u ∧ Keeps s u := by
  refine ⟨_, rfl, ?_⟩
  have h := Keeps.refl s
  repeat' (first
    | with_reducible assumption
    | with_reducible apply keeps_transitionComplete
    | split
    | intro)
theorem keeps_execDrainComplete (n : IslandIx) (s : State) : ∃ u, execDrainComplete n s = .next u ∧ Keeps s u := by
  refine ⟨_, rfl, ?_⟩
  have h := Keeps.refl s
  repeat' (first
    | with_reducible assumption
    | with_reducible apply keeps_drainComplete
    | split
    | intro)
theorem keeps_execDrainTimeout (n : IslandIx) (s : State) : ∃ u, execDrainTimeout n s = .next u ∧ Keeps s u := by
  refine ⟨_, rfl, ?_⟩
  have h := Keeps.refl s
  repeat' (first
    | with_reducible assumption
    | with_reducible apply keeps_drainTimeout
    | split
    | intro)
theorem keeps_execStraitWordReceive (i : IslandIx) (j : IslandIx) (payload : BitVec 64) (par : BitVec 8) (kind : Fin 4) (kpar : Bool) (s : State) : ∃ u, execStraitWordReceive i j payload par kind kpar s = .next u ∧ Keeps s u := by
  refine ⟨_, rfl, ?_⟩
  have h := Keeps.refl s
  repeat' (first
    | with_reducible assumption
    | with_reducible apply keeps_strWord
    | split
    | intro)
theorem keeps_execStraitTimeout (i n : IslandIx) (s : State) : ∃ u, execStraitTimeout i n s = .next u ∧ Keeps s u := by
  refine ⟨_, rfl, ?_⟩
  have h := Keeps.refl s
  repeat' (first
    | with_reducible assumption
    | with_reducible apply keeps_strTimeout
    | split
    | intro)
theorem keeps_execTimeoutReaction (n : IslandIx) (s : State) : ∃ u, execTimeoutReaction n s = .next u ∧ Keeps s u := by
  refine ⟨_, rfl, ?_⟩
  have h := Keeps.refl s
  repeat' (first
    | with_reducible assumption
    | with_reducible refine Keeps.ite ?_ ?_
    | with_reducible apply keeps_islandReaction
    | split
    | intro)
theorem keeps_execParityReaction (n : IslandIx) (s : State) : ∃ u, execParityReaction n s = .next u ∧ Keeps s u := by
  refine ⟨_, rfl, ?_⟩
  have h := Keeps.refl s
  repeat' (first
    | with_reducible assumption
    | with_reducible refine Keeps.ite ?_ ?_
    | with_reducible apply keeps_islandReaction
    | split
    | intro)
theorem keeps_execAonOscillatorCheck (stopped : Bool) (dev : Half) (s : State) : ∃ u, execAonOscillatorCheck stopped dev s = .next u ∧ Keeps s u := by
  refine ⟨_, rfl, ?_⟩
  have h := Keeps.refl s
  repeat' (first
    | with_reducible assumption
    | with_reducible refine Keeps.ite ?_ ?_
    | with_reducible apply keeps_enterSafeHold
    | split
    | intro)

end Sys2Proof.Machine
end

