-- ==== Sys2Proof/Laws/KeepsActivation.lean ====
section
/-!
SUPPORT. The operations of Machine/Activation.lean keep the canonical forms, the queue and the time.
-/
namespace Sys2Proof.Machine
open Sys2Proof
set_option linter.unreachableTactic false
set_option linter.unusedTactic false

theorem keeps_moveRange {u s : State} (h : Keeps u s) (src : Nat) (n : Nat) (dst : Nat) : Keeps u (moveRange src n dst s) := by
  unfold moveRange
  repeat' (first
    | with_reducible assumption
    | with_reducible apply Keeps.setByte
    | with_reducible apply Keeps.foldl
    | with_reducible apply keeps_zeroBytes
    | split
    | intro)
theorem keeps_emptyCaches {u s : State} (h : Keeps u s) : Keeps u (emptyCaches s) := by
  unfold emptyCaches
  repeat' (first
    | with_reducible assumption
    | with_reducible apply keeps_emptyCache
    | with_reducible apply keeps_refreshWarm
    | split
    | intro)
theorem keeps_copySections {u s : State} (h : Keeps u s) (slot : Nat) : Keeps u (copySections slot s) := by
  unfold copySections
  repeat' (first
    | with_reducible assumption
    | (extract_lets -underBinder +onlyGivenNames y; clear_value (hy : y = _); first | refine Keeps.sub (u := u) hy ?_ (fun hk => ?_) | refine Keeps.subA (u := u) hy ?_ (fun hk => ?_) | refine Keeps.subP (u := u) hy ?_ (fun hk => ?_) | clear hy)
    | with_reducible refine Keeps.ite ?_ ?_
    | with_reducible apply Keeps.set
    | with_reducible apply Keeps.off
    | with_reducible apply Keeps.forUpTo
    | with_reducible apply Keeps.foldl
    | with_reducible apply keeps_emptyCaches
    | with_reducible apply keeps_moveRange
    | split
    | intro)
theorem keeps_imageWord {u s : State} (h : Keeps u s) (dst : Nat) (src : Nat) : Keeps u (imageWord dst src s) := by
  unfold imageWord
  repeat' (first
    | with_reducible assumption
    | with_reducible apply keeps_storeWord
    | split
    | intro)
theorem keeps_loadEngine {u s : State} (h : Keeps u s) (e a : Nat) : Keeps u (loadEngine e a s) := by
  unfold loadEngine
  repeat' (first
    | with_reducible assumption
    | (extract_lets -underBinder +onlyGivenNames y; clear_value (hy : y = _); first | refine Keeps.sub (u := u) hy ?_ (fun hk => ?_) | refine Keeps.subA (u := u) hy ?_ (fun hk => ?_) | refine Keeps.subP (u := u) hy ?_ (fun hk => ?_) | clear hy)
    | with_reducible refine Keeps.ite ?_ ?_
    | with_reducible apply Keeps.when
    | with_reducible apply Keeps.forUpTo
    | with_reducible apply keeps_engineOff
    | with_reducible apply keeps_imageWord
    | with_reducible apply keeps_leCtrlWrite
    | with_reducible apply keeps_lsCtrlWrite
    | with_reducible apply keeps_moveRange
    | split
    | intro)
theorem keeps_loadEngines {u s : State} (h : Keeps u s) : Keeps u (loadEngines s) := by
  unfold loadEngines
  repeat' (first
    | with_reducible assumption
    | with_reducible refine Keeps.ite ?_ ?_
    | with_reducible apply Keeps.foldl
    | with_reducible apply keeps_loadEngine
    | split
    | intro)
theorem keeps_startActivation {u s : State} (h : Keeps u s) (kind slot : Nat) : Keeps u (startActivation kind slot s) := by
  unfold startActivation
  repeat' (first
    | with_reducible assumption
    | (extract_lets -underBinder +onlyGivenNames y; clear_value (hy : y = _); first | refine Keeps.sub (u := u) hy ?_ (fun hk => ?_) | refine Keeps.subA (u := u) hy ?_ (fun hk => ?_) | refine Keeps.subP (u := u) hy ?_ (fun hk => ?_) | clear hy)
    | with_reducible apply Keeps.set
    | with_reducible apply Keeps.on
    | with_reducible apply Keeps.off
    | with_reducible apply Keeps.forUpTo
    | split
    | intro)
theorem keeps_noPackage {u s : State} (h : Keeps u s) : Keeps u (noPackage s) := by
  unfold noPackage
  repeat' (first
    | with_reducible assumption
    | with_reducible apply Keeps.off
    | with_reducible apply keeps_bandWrite
    | with_reducible apply keeps_setLock
    | with_reducible apply keeps_stowUnloaded
    | split
    | intro)
theorem keeps_activatePrevious {u s : State} (h : Keeps u s) : Keeps u (activatePrevious s) := by
  unfold activatePrevious
  repeat' (first
    | with_reducible assumption
    | with_reducible apply Keeps.set
    | with_reducible apply Keeps.off
    | split
    | intro)
theorem keeps_activationFails {u s : State} (h : Keeps u s) (code : Nat) : Keeps u (activationFails code s) := by
  unfold activationFails
  repeat' (first
    | with_reducible assumption
    | (extract_lets -underBinder +onlyGivenNames y; clear_value (hy : y = _); first | refine Keeps.sub (u := u) hy ?_ (fun hk => ?_) | refine Keeps.subA (u := u) hy ?_ (fun hk => ?_) | refine Keeps.subP (u := u) hy ?_ (fun hk => ?_) | clear hy)
    | with_reducible refine Keeps.ite ?_ ?_
    | with_reducible apply Keeps.set
    | with_reducible apply Keeps.send
    | with_reducible apply keeps_activatePrevious
    | with_reducible apply keeps_noPackage
    | split
    | intro)
theorem keeps_reportRecords {u s : State} (h : Keeps u s)  : Keeps u (reportRecords s) := by
  unfold reportRecords
  repeat' (first
    | with_reducible assumption
    | (extract_lets -underBinder +onlyGivenNames y; clear_value (hy : y = _); first | refine Keeps.sub (u := u) hy ?_ (fun hk => ?_) | refine Keeps.subA (u := u) hy ?_ (fun hk => ?_) | refine Keeps.subP (u := u) hy ?_ (fun hk => ?_) | refine Keeps.subF (u := u) hy ?_ (fun hk => ?_) | refine Keeps.subF1 (u := u) hy ?_ (fun hk => ?_) | refine Keeps.subF2 (u := u) hy ?_ (fun hk => ?_) | clear hy)
    | with_reducible apply Keeps.send
    | with_reducible apply_assumption
    | split
    | intro)
theorem keeps_activationSettings {u s : State} (h : Keeps u s) (a : ActStep) : Keeps u (activationSettings a s) := by
  unfold activationSettings
  repeat' (first
    | with_reducible assumption
    | (extract_lets -underBinder +onlyGivenNames y; clear_value (hy : y = _); first | refine Keeps.sub (u := u) hy ?_ (fun hk => ?_) | refine Keeps.subA (u := u) hy ?_ (fun hk => ?_) | refine Keeps.subP (u := u) hy ?_ (fun hk => ?_) | refine Keeps.subF (u := u) hy (fun t ht => ?_) (fun hk => ?_) | refine Keeps.subF1 (u := u) hy (fun a t ht => ?_) (fun hk => ?_) | refine Keeps.subF2 (u := u) hy (fun a b t ht => ?_) (fun hk => ?_) | refine Keeps.subG1 (u := u) hy (fun a => ?_) (fun hk => ?_) | refine Keeps.subG2 (u := u) hy (fun a b => ?_) (fun hk => ?_) | clear hy)
    | with_reducible refine Keeps.ite ?_ ?_
    | with_reducible apply Keeps.set
    | with_reducible apply Keeps.setB
    | with_reducible apply Keeps.forUpTo
    | with_reducible apply keeps_reportRecords
    | with_reducible apply_assumption
    | split
    | intro)
theorem keeps_activationLoaded {u s : State} (h : Keeps u s)  : Keeps u (activationLoaded s) := by
  unfold activationLoaded
  repeat' (first
    | with_reducible assumption
    | (extract_lets -underBinder +onlyGivenNames y; clear_value (hy : y = _); first | refine Keeps.sub (u := u) hy ?_ (fun hk => ?_) | refine Keeps.subA (u := u) hy ?_ (fun hk => ?_) | refine Keeps.subP (u := u) hy ?_ (fun hk => ?_) | clear hy)
    | with_reducible refine Keeps.ite ?_ ?_
    | with_reducible apply Keeps.set
    | with_reducible apply Keeps.on
    | with_reducible apply Keeps.send
    | split
    | intro)
theorem keeps_activationMotor {u s : State} (h : Keeps u s) (m : Nat) (q : Query) : Keeps u (activationMotor m q s) := by
  unfold activationMotor
  repeat' (first
    | with_reducible assumption
    | (extract_lets -underBinder +onlyGivenNames y; clear_value (hy : y = _); first | refine Keeps.sub (u := u) hy ?_ (fun hk => ?_) | refine Keeps.subA (u := u) hy ?_ (fun hk => ?_) | refine Keeps.subP (u := u) hy ?_ (fun hk => ?_) | clear hy)
    | with_reducible refine Keeps.ite ?_ ?_
    | with_reducible apply Keeps.setBit
    | with_reducible apply Keeps.forEach
    | with_reducible apply Keeps.foldl
    | with_reducible apply keeps_emptyCache
    | with_reducible apply keeps_loadPpi
    | with_reducible apply keeps_recordQuery
    | with_reducible apply keeps_tileFill
    | split
    | intro)
theorem keeps_activationFill {u s : State} (h : Keeps u s) (a : ActStep) : Keeps u (activationFill a s) := by
  unfold activationFill
  repeat' (first
    | with_reducible assumption
    | (extract_lets -underBinder +onlyGivenNames y; clear_value (hy : y = _); first | refine Keeps.sub (u := u) hy ?_ (fun hk => ?_) | refine Keeps.subA (u := u) hy ?_ (fun hk => ?_) | refine Keeps.subP (u := u) hy ?_ (fun hk => ?_) | clear hy)
    | with_reducible refine Keeps.ite ?_ ?_
    | with_reducible apply Keeps.off
    | with_reducible apply Keeps.forUpTo
    | with_reducible apply keeps_activationMotor
    | with_reducible apply keeps_loadPpi
    | with_reducible apply keeps_refreshWarm
    | split
    | intro)
theorem keeps_activationCopy {u s : State} (h : Keeps u s) (a : ActStep) : Keeps u (activationCopy a s) := by
  unfold activationCopy
  repeat' (first
    | with_reducible assumption
    | (extract_lets -underBinder +onlyGivenNames y; clear_value (hy : y = _); first | refine Keeps.sub (u := u) hy ?_ (fun hk => ?_) | refine Keeps.subA (u := u) hy ?_ (fun hk => ?_) | refine Keeps.subP (u := u) hy ?_ (fun hk => ?_) | clear hy)
    | with_reducible refine Keeps.ite ?_ ?_
    | with_reducible apply Keeps.set
    | with_reducible apply Keeps.off
    | with_reducible apply Keeps.foldl
    | with_reducible apply keeps_activationFails
    | with_reducible apply keeps_copySections
    | with_reducible apply keeps_engineDisable
    | split
    | intro)
theorem keeps_restoreCopy {u s : State} (h : Keeps u s) : Keeps u (restoreCopy s) := by
  unfold restoreCopy
  repeat' (first
    | with_reducible assumption
    | with_reducible refine Keeps.ite ?_ ?_
    | with_reducible apply Keeps.set
    | with_reducible apply keeps_activationFails
    | with_reducible apply keeps_loadEngines
    | split
    | intro)
theorem keeps_activationStep {u s : State} (h : Keeps u s) (a : ActStep) : Keeps u (activationStep a s) := by
  unfold activationStep
  repeat' (first
    | with_reducible assumption
    | (extract_lets -underBinder +onlyGivenNames y; clear_value (hy : y = _); first | refine Keeps.sub (u := u) hy ?_ (fun hk => ?_) | refine Keeps.subA (u := u) hy ?_ (fun hk => ?_) | refine Keeps.subP (u := u) hy ?_ (fun hk => ?_) | refine Keeps.subF (u := u) hy (fun t ht => ?_) (fun hk => ?_) | refine Keeps.subF1 (u := u) hy (fun a t ht => ?_) (fun hk => ?_) | refine Keeps.subF2 (u := u) hy (fun a b t ht => ?_) (fun hk => ?_) | refine Keeps.subG1 (u := u) hy (fun a => ?_) (fun hk => ?_) | refine Keeps.subG2 (u := u) hy (fun a b => ?_) (fun hk => ?_) | clear hy)
    | with_reducible refine Keeps.ite ?_ ?_
    | with_reducible apply Keeps.set
    | with_reducible apply Keeps.off
    | with_reducible apply keeps_activationCopy
    | with_reducible apply keeps_activationFails
    | with_reducible apply keeps_activationFill
    | with_reducible apply keeps_activationLoaded
    | with_reducible apply keeps_activationSettings
    | with_reducible apply keeps_loadEngines
    | with_reducible apply keeps_refreshWarm
    | with_reducible apply keeps_restoreCopy
    | with_reducible apply_assumption
    | split
    | intro)
theorem keeps_execActivationStep (a : ActStep) (s : State) : ∃ u, execActivationStep a s = .next u ∧ Keeps s u := by
  refine ⟨_, rfl, ?_⟩
  have h := Keeps.refl s
  repeat' (first
    | with_reducible assumption
    | with_reducible apply keeps_activationStep
    | split
    | intro)

end Sys2Proof.Machine
end

