-- ==== Sys2Proof/Laws/KeepsPower.lean ====
section
/-!
SUPPORT. The operations of Machine/Power.lean keep the canonical forms, the queue and the time.
-/
namespace Sys2Proof.Machine
open Sys2Proof
set_option linter.unreachableTactic false
set_option linter.unusedTactic false

theorem keeps_finishTransition {u s : State} (h : Keeps u s) (n : Nat) : Keeps u (finishTransition n s) := by
  unfold finishTransition
  repeat' (first
    | with_reducible assumption
    | with_reducible refine Keeps.ite ?_ ?_
    | with_reducible apply Keeps.off
    | with_reducible apply keeps_answerIsland
    | with_reducible apply keeps_setIsland
    | split
    | intro)
theorem keeps_ladderSet {u s : State} (h : Keeps u s) (n st : Nat) : Keeps u (ladderSet n st s) := by
  unfold ladderSet
  repeat' (first
    | with_reducible assumption
    | (extract_lets -underBinder +onlyGivenNames y; clear_value (hy : y = _); first | refine Keeps.sub (u := u) hy ?_ (fun hk => ?_) | refine Keeps.subA (u := u) hy ?_ (fun hk => ?_) | refine Keeps.subP (u := u) hy ?_ (fun hk => ?_) | clear hy)
    | with_reducible apply Keeps.setB
    | with_reducible apply Keeps.off
    | with_reducible apply Keeps.when
    | with_reducible apply keeps_finishTransition
    | with_reducible apply keeps_setIsland
    | split
    | intro)
theorem keeps_ladderIslands {u s : State} (h : Keeps u s) (lad : Nat) : Keeps u (ladderIslands lad s) := by
  unfold ladderIslands
  repeat' (first
    | with_reducible assumption
    | with_reducible apply Keeps.forEach
    | with_reducible apply keeps_ladderSet
    | split
    | intro)
theorem keeps_moduleReset {u s : State} (h : Keeps u s)  : Keeps u (moduleReset s) := by
  unfold moduleReset
  extract_lets -underBinder keep byte t
  have ht : Keeps u t := by
    with_reducible apply Keeps.withBoth
    exact h
  clear_value t
  exact ht.forUpTo _ (fun i v hv => hv.when _ (fun w hw => hw.setBit ..))
theorem keeps_noteLoss {u s : State} (h : Keeps u s)  : Keeps u (noteLoss s) := by
  unfold noteLoss
  repeat' (first
    | with_reducible assumption
    | (extract_lets -underBinder +onlyGivenNames y; clear_value (hy : y = _); first | refine Keeps.sub (u := u) hy ?_ (fun hk => ?_) | refine Keeps.subA (u := u) hy ?_ (fun hk => ?_) | refine Keeps.subP (u := u) hy ?_ (fun hk => ?_) | clear hy)
    | with_reducible apply Keeps.when
    | with_reducible apply Keeps.set
    | split
    | intro)
theorem keeps_disableSense {u s : State} (h : Keeps u s)  : Keeps u (disableSense s) := by
  unfold disableSense
  repeat' (first
    | with_reducible assumption
    | (extract_lets -underBinder +onlyGivenNames y; clear_value (hy : y = _); first | refine Keeps.sub (u := u) hy ?_ (fun hk => ?_) | refine Keeps.subA (u := u) hy ?_ (fun hk => ?_) | refine Keeps.subP (u := u) hy ?_ (fun hk => ?_) | clear hy)
    | with_reducible apply Keeps.off
    | with_reducible apply Keeps.forUpTo
    | with_reducible apply keeps_resStop
    | split
    | intro)
theorem keeps_startStep {u s : State} (h : Keeps u s) (tgt : Nat) (flush : Bool) : Keeps u (startStep tgt flush s) := by
  unfold startStep
  repeat' (first
    | with_reducible assumption
    | (extract_lets -underBinder +onlyGivenNames y; clear_value (hy : y = _); first | refine Keeps.sub (u := u) hy ?_ (fun hk => ?_) | refine Keeps.subA (u := u) hy ?_ (fun hk => ?_) | refine Keeps.subP (u := u) hy ?_ (fun hk => ?_) | clear hy)
    | with_reducible refine Keeps.ite ?_ ?_
    | with_reducible apply Keeps.set
    | with_reducible apply Keeps.on
    | with_reducible apply keeps_wearSnapshot
    | with_reducible apply keeps_disableSense
    | split
    | intro)
theorem keeps_dwellExpiry {u s : State} (h : Keeps u s) (p : Pins) : Keeps u (dwellExpiry p s) := by
  unfold dwellExpiry
  repeat' (first
    | with_reducible assumption
    | (extract_lets -underBinder +onlyGivenNames y; clear_value (hy : y = _); first | refine Keeps.sub (u := u) hy ?_ (fun hk => ?_) | refine Keeps.subA (u := u) hy ?_ (fun hk => ?_) | refine Keeps.subP (u := u) hy ?_ (fun hk => ?_) | clear hy)
    | with_reducible refine Keeps.ite ?_ ?_
    | with_reducible apply keeps_startStep
    | split
    | intro)
theorem keeps_flushed {u s : State} (h : Keeps u s) : Keeps u (flushed s) := by
  unfold flushed
  repeat' (first
    | with_reducible assumption
    | (extract_lets -underBinder +onlyGivenNames y; clear_value (hy : y = _); first | refine Keeps.sub (u := u) hy ?_ (fun hk => ?_) | refine Keeps.subA (u := u) hy ?_ (fun hk => ?_) | refine Keeps.subP (u := u) hy ?_ (fun hk => ?_) | clear hy)
    | with_reducible refine Keeps.ite ?_ ?_
    | with_reducible apply Keeps.set
    | with_reducible apply Keeps.off
    | with_reducible apply Keeps.send
    | with_reducible apply Keeps.when
    | split
    | intro)
theorem keeps_enterLadder {u s : State} (h : Keeps u s) (lad : Nat) : Keeps u (enterLadder lad s) := by
  unfold enterLadder
  repeat' (first
    | with_reducible assumption
    | (extract_lets -underBinder +onlyGivenNames y; clear_value (hy : y = _); first | refine Keeps.sub (u := u) hy ?_ (fun hk => ?_) | refine Keeps.subA (u := u) hy ?_ (fun hk => ?_) | refine Keeps.subP (u := u) hy ?_ (fun hk => ?_) | clear hy)
    | with_reducible refine Keeps.ite ?_ ?_
    | with_reducible apply Keeps.set
    | with_reducible apply Keeps.on
    | with_reducible apply Keeps.off
    | with_reducible apply Keeps.when
    | with_reducible apply keeps_dramOff
    | with_reducible apply keeps_endSessions
    | with_reducible apply keeps_ladderIslands
    | with_reducible apply keeps_moduleReset
    | with_reducible apply keeps_flushed
    | split
    | intro)
theorem keeps_stepComplete {u s : State} (h : Keeps u s)  : Keeps u (stepComplete s) := by
  unfold stepComplete
  repeat' (first
    | with_reducible assumption
    | with_reducible refine Keeps.ite ?_ ?_
    | with_reducible apply keeps_enterLadder
    | split
    | intro)
theorem keeps_startBoot {u s : State} (h : Keeps u s) (kind : Nat) (step : Nat) : Keeps u (startBoot kind step s) := by
  unfold startBoot
  repeat' (first
    | with_reducible assumption
    | with_reducible apply Keeps.set
    | with_reducible apply Keeps.on
    | with_reducible apply Keeps.off
    | split
    | intro)
theorem keeps_backInRun {u s : State} (h : Keeps u s)  : Keeps u (backInRun s) := by
  unfold backInRun
  repeat' (first
    | with_reducible assumption
    | (extract_lets -underBinder +onlyGivenNames y; clear_value (hy : y = _); first | refine Keeps.sub (u := u) hy ?_ (fun hk => ?_) | refine Keeps.subA (u := u) hy ?_ (fun hk => ?_) | refine Keeps.subP (u := u) hy ?_ (fun hk => ?_) | clear hy)
    | with_reducible apply Keeps.set
    | with_reducible apply Keeps.off
    | with_reducible apply Keeps.when
    | split
    | intro)
theorem keeps_restoreRegion {u s : State} (h : Keeps u s) : Keeps u (restoreRegion s) := by
  unfold restoreRegion
  repeat' (first
    | with_reducible assumption
    | (extract_lets -underBinder +onlyGivenNames y; clear_value (hy : y = _); first | refine Keeps.sub (u := u) hy ?_ (fun hk => ?_) | refine Keeps.subA (u := u) hy ?_ (fun hk => ?_) | refine Keeps.subP (u := u) hy ?_ (fun hk => ?_) | clear hy)
    | with_reducible refine Keeps.ite ?_ ?_
    | with_reducible apply Keeps.set
    | with_reducible apply Keeps.on
    | split
    | intro)
theorem keeps_wake {u s : State} (h : Keeps u s) (src : Nat) : Keeps u (wake src s) := by
  unfold wake
  repeat' (first
    | with_reducible assumption
    | (extract_lets -underBinder +onlyGivenNames y; clear_value (hy : y = _); first | refine Keeps.sub (u := u) hy ?_ (fun hk => ?_) | refine Keeps.subA (u := u) hy ?_ (fun hk => ?_) | refine Keeps.subP (u := u) hy ?_ (fun hk => ?_) | clear hy)
    | with_reducible refine Keeps.ite ?_ ?_
    | with_reducible apply Keeps.set
    | with_reducible apply Keeps.on
    | with_reducible apply Keeps.off
    | with_reducible apply Keeps.incSat
    | with_reducible apply Keeps.when
    | with_reducible apply keeps_backInRun
    | with_reducible apply keeps_ladderIslands
    | with_reducible apply keeps_ladderSet
    | with_reducible apply keeps_readAccount
    | with_reducible apply keeps_restoreRegion
    | with_reducible apply keeps_startBoot
    | split
    | intro)
theorem keeps_wakeQualified {u s : State} (h : Keeps u s) (src : Nat) : Keeps u (wakeQualified src s) := by
  unfold wakeQualified
  repeat' (first
    | with_reducible assumption
    | (extract_lets -underBinder +onlyGivenNames y; clear_value (hy : y = _); first | refine Keeps.sub (u := u) hy ?_ (fun hk => ?_) | refine Keeps.subA (u := u) hy ?_ (fun hk => ?_) | refine Keeps.subP (u := u) hy ?_ (fun hk => ?_) | clear hy)
    | with_reducible refine Keeps.ite ?_ ?_
    | with_reducible apply keeps_wake
    | split
    | intro)
theorem keeps_supplySample {u s : State} (h : Keeps u s) (code : Nat) : Keeps u (supplySample code s) := by
  unfold supplySample
  repeat' (first
    | with_reducible assumption
    | with_reducible refine Keeps.ite ?_ ?_
    | with_reducible apply keeps_wearSnapshot
    | with_reducible apply keeps_enterLadder
    | split
    | intro)
theorem keeps_alarmExpiry {u s : State} (h : Keeps u s)  : Keeps u (alarmExpiry s) := by
  unfold alarmExpiry
  repeat' (first
    | with_reducible assumption
    | (extract_lets -underBinder +onlyGivenNames y; clear_value (hy : y = _); first | refine Keeps.sub (u := u) hy ?_ (fun hk => ?_) | refine Keeps.subA (u := u) hy ?_ (fun hk => ?_) | refine Keeps.subP (u := u) hy ?_ (fun hk => ?_) | clear hy)
    | with_reducible refine Keeps.ite ?_ ?_
    | with_reducible apply Keeps.off
    | with_reducible apply keeps_wakeQualified
    | split
    | intro)
theorem keeps_supplyRise {u s : State} (h : Keeps u s)  : Keeps u (supplyRise s) := by
  unfold supplyRise
  repeat' (first
    | with_reducible assumption
    | with_reducible refine Keeps.ite ?_ ?_
    | with_reducible apply Keeps.on
    | with_reducible apply keeps_startBoot
    | split
    | intro)
theorem keeps_presQualified {u s : State} (h : Keeps u s)  : Keeps u (presQualified s) := by
  unfold presQualified
  repeat' (first
    | with_reducible assumption
    | (extract_lets -underBinder +onlyGivenNames y; clear_value (hy : y = _); first | refine Keeps.sub (u := u) hy ?_ (fun hk => ?_) | refine Keeps.subA (u := u) hy ?_ (fun hk => ?_) | refine Keeps.subP (u := u) hy ?_ (fun hk => ?_) | clear hy)
    | with_reducible refine Keeps.ite ?_ ?_
    | with_reducible apply Keeps.set
    | with_reducible apply Keeps.on
    | split
    | intro)
theorem keeps_checkHead {u s : State} (h : Keeps u s)  : Keeps u (checkHead s) := by
  unfold checkHead
  repeat' (first
    | with_reducible assumption
    | (extract_lets -underBinder +onlyGivenNames y; clear_value (hy : y = _); first | refine Keeps.sub (u := u) hy ?_ (fun hk => ?_) | refine Keeps.subA (u := u) hy ?_ (fun hk => ?_) | refine Keeps.subP (u := u) hy ?_ (fun hk => ?_) | clear hy)
    | with_reducible refine Keeps.ite ?_ ?_
    | with_reducible apply Keeps.on
    | with_reducible apply Keeps.off
    | with_reducible apply Keeps.send
    | split
    | intro)
theorem keeps_bootAction {u s : State} (h : Keeps u s) (k : Nat) : Keeps u (bootAction k s) := by
  unfold bootAction
  repeat' (first
    | with_reducible assumption
    | (extract_lets -underBinder +onlyGivenNames y; clear_value (hy : y = _); first | refine Keeps.sub (u := u) hy ?_ (fun hk => ?_) | refine Keeps.subA (u := u) hy ?_ (fun hk => ?_) | refine Keeps.subP (u := u) hy ?_ (fun hk => ?_) | clear hy)
    | with_reducible refine Keeps.ite ?_ ?_
    | with_reducible apply Keeps.set
    | with_reducible apply Keeps.setB
    | with_reducible apply Keeps.on
    | with_reducible apply Keeps.off
    | with_reducible apply Keeps.setBit
    | with_reducible apply Keeps.send
    | with_reducible apply Keeps.when
    | with_reducible apply Keeps.forEach
    | with_reducible apply Keeps.forUpTo
    | with_reducible apply keeps_backInRun
    | with_reducible apply keeps_checkHead
    | with_reducible apply keeps_dramPowerUp
    | with_reducible apply keeps_groupLatchClear
    | with_reducible apply keeps_ladderSet
    | with_reducible apply keeps_readAccount
    | with_reducible apply keeps_setLock
    | with_reducible apply keeps_startActivation
    | split
    | intro)
theorem keeps_bootStep {u s : State} (h : Keeps u s) (k : Nat) : Keeps u (bootStep k s) := by
  unfold bootStep
  repeat' (first
    | with_reducible assumption
    | with_reducible refine Keeps.ite ?_ ?_
    | with_reducible apply Keeps.set
    | with_reducible apply keeps_bootAction
    | split
    | intro)
theorem keeps_stopBoot {u s : State} (h : Keeps u s)  : Keeps u (stopBoot s) := by
  unfold stopBoot
  repeat' (first
    | with_reducible assumption
    | with_reducible apply Keeps.set
    | with_reducible apply Keeps.on
    | with_reducible apply Keeps.off
    | with_reducible apply Keeps.forUpTo
    | with_reducible apply keeps_setSafForce
    | split
    | intro)
theorem keeps_selfTestComplete {u s : State} (h : Keeps u s) (x : SelfTest) : Keeps u (selfTestComplete x s) := by
  unfold selfTestComplete
  repeat' (first
    | with_reducible assumption
    | (extract_lets -underBinder +onlyGivenNames y; clear_value (hy : y = _); first | refine Keeps.sub (u := u) hy ?_ (fun hk => ?_) | refine Keeps.subA (u := u) hy ?_ (fun hk => ?_) | refine Keeps.subP (u := u) hy ?_ (fun hk => ?_) | clear hy)
    | with_reducible refine Keeps.ite ?_ ?_
    | with_reducible apply Keeps.set
    | with_reducible apply Keeps.setB
    | with_reducible apply Keeps.on
    | with_reducible apply Keeps.off
    | with_reducible apply Keeps.setBit
    | with_reducible apply Keeps.send
    | with_reducible apply Keeps.when
    | with_reducible apply Keeps.forUpTo
    | with_reducible apply keeps_clearPermits
    | with_reducible apply keeps_dropSafForce
    | with_reducible apply keeps_engineOff
    | with_reducible apply keeps_ladderSet
    | with_reducible apply keeps_refreshForce
    | with_reducible apply keeps_setSafForce
    | with_reducible apply keeps_stopBoot
    | split
    | intro)
theorem keeps_selfTestDue {u s : State} (h : Keeps u s)  : Keeps u (selfTestDue s) := by
  unfold selfTestDue
  repeat' (first
    | with_reducible assumption
    | with_reducible refine Keeps.ite ?_ ?_
    | with_reducible apply Keeps.on
    | with_reducible apply Keeps.send
    | split
    | intro)
theorem keeps_releaseCoils {u s : State} (h : Keeps u s)  : Keeps u (releaseCoils s) := by
  unfold releaseCoils
  repeat' (first
    | with_reducible assumption
    | with_reducible apply Keeps.set
    | with_reducible apply Keeps.off
    | with_reducible apply Keeps.when
    | with_reducible apply Keeps.forUpTo
    | split
    | intro)
theorem keeps_presWarning {u s : State} (h : Keeps u s) : Keeps u (presWarning s) := by
  unfold presWarning
  repeat' (first
    | with_reducible assumption
    | (extract_lets -underBinder +onlyGivenNames y; clear_value (hy : y = _); first | refine Keeps.sub (u := u) hy ?_ (fun hk => ?_) | refine Keeps.subA (u := u) hy ?_ (fun hk => ?_) | refine Keeps.subP (u := u) hy ?_ (fun hk => ?_) | clear hy)
    | with_reducible refine Keeps.ite ?_ ?_
    | with_reducible apply Keeps.set
    | with_reducible apply Keeps.on
    | with_reducible apply Keeps.off
    | with_reducible apply keeps_enterSafeHold
    | with_reducible apply keeps_releaseCoils
    | with_reducible apply keeps_setSafForce
    | with_reducible apply keeps_wearSnapshot
    | split
    | intro)
theorem keeps_flushComplete {u s : State} (h : Keeps u s)  : Keeps u (flushComplete s) := by
  unfold flushComplete
  repeat' (first
    | with_reducible assumption
    | with_reducible refine Keeps.ite ?_ ?_
    | with_reducible apply Keeps.on
    | with_reducible apply keeps_flushed
    | split
    | intro)
theorem keeps_brownout {u s : State} (h : Keeps u s)  : Keeps u (brownout s) := by
  unfold brownout
  repeat' (first
    | with_reducible assumption
    | (extract_lets -underBinder +onlyGivenNames y; clear_value (hy : y = _); first | refine Keeps.sub (u := u) hy ?_ (fun hk => ?_) | refine Keeps.subA (u := u) hy ?_ (fun hk => ?_) | refine Keeps.subP (u := u) hy ?_ (fun hk => ?_) | clear hy)
    | with_reducible refine Keeps.ite ?_ ?_
    | with_reducible apply Keeps.set
    | with_reducible apply Keeps.on
    | with_reducible apply Keeps.off
    | with_reducible apply Keeps.withMem
    | with_reducible apply keeps_setSafForce
    | with_reducible apply keeps_dramOff
    | with_reducible apply keeps_noteLoss
    | with_reducible apply keeps_moduleReset
    | with_reducible apply keeps_releaseCoils
    | split
    | intro)
theorem keeps_brownoutRecovery {u s : State} (h : Keeps u s)  : Keeps u (brownoutRecovery s) := by
  unfold brownoutRecovery
  repeat' (first
    | with_reducible assumption
    | (extract_lets -underBinder +onlyGivenNames y; clear_value (hy : y = _); first | refine Keeps.sub (u := u) hy ?_ (fun hk => ?_) | refine Keeps.subA (u := u) hy ?_ (fun hk => ?_) | refine Keeps.subP (u := u) hy ?_ (fun hk => ?_) | clear hy)
    | with_reducible refine Keeps.ite ?_ ?_
    | with_reducible apply Keeps.set
    | with_reducible apply Keeps.on
    | with_reducible apply Keeps.off
    | with_reducible apply Keeps.incSat
    | with_reducible apply keeps_startBoot
    | split
    | intro)
theorem keeps_aonReset {u s : State} (h : Keeps u s)  : Keeps u (aonReset s) := by
  unfold aonReset
  repeat' (first
    | with_reducible assumption
    | (extract_lets -underBinder +onlyGivenNames y; clear_value (hy : y = _); first | refine Keeps.sub (u := u) hy ?_ (fun hk => ?_) | refine Keeps.subA (u := u) hy ?_ (fun hk => ?_) | refine Keeps.subP (u := u) hy ?_ (fun hk => ?_) | clear hy)
    | with_reducible apply Keeps.set
    | with_reducible apply Keeps.withBoth
    | with_reducible apply keeps_noteLoss
    | with_reducible apply keeps_moduleReset
    | split
    | intro)
theorem keeps_execLadderDwellExpiry (p : Pins) (s : State) : ∃ u, execLadderDwellExpiry p s = .next u ∧ Keeps s u := by
  refine ⟨_, rfl, ?_⟩
  have h := Keeps.refl s
  repeat' (first
    | with_reducible assumption
    | with_reducible apply keeps_dwellExpiry
    | split
    | intro)
theorem keeps_execLadderStepComplete  (s : State) : ∃ u, execLadderStepComplete s = .next u ∧ Keeps s u := by
  refine ⟨_, rfl, ?_⟩
  have h := Keeps.refl s
  repeat' (first
    | with_reducible assumption
    | with_reducible apply keeps_stepComplete
    | split
    | intro)
theorem keeps_execWakeQualified (src : Fin 16) (s : State) : ∃ u, execWakeQualified src s = .next u ∧ Keeps s u := by
  refine ⟨_, rfl, ?_⟩
  have h := Keeps.refl s
  repeat' (first
    | with_reducible assumption
    | with_reducible apply keeps_wakeQualified
    | split
    | intro)
theorem keeps_execStorageSupplySample (code : BitVec 12) (s : State) : ∃ u, execStorageSupplySample code s = .next u ∧ Keeps s u := by
  refine ⟨_, rfl, ?_⟩
  have h := Keeps.refl s
  repeat' (first
    | with_reducible assumption
    | with_reducible apply keeps_supplySample
    | split
    | intro)
theorem keeps_execAlarmExpiry  (s : State) : ∃ u, execAlarmExpiry s = .next u ∧ Keeps s u := by
  refine ⟨_, rfl, ?_⟩
  have h := Keeps.refl s
  repeat' (first
    | with_reducible assumption
    | with_reducible apply keeps_alarmExpiry
    | split
    | intro)
theorem keeps_execSupplyRise  (s : State) : ∃ u, execSupplyRise s = .next u ∧ Keeps s u := by
  refine ⟨_, rfl, ?_⟩
  have h := Keeps.refl s
  repeat' (first
    | with_reducible assumption
    | with_reducible apply keeps_supplyRise
    | split
    | intro)
theorem keeps_execPresNQualified  (s : State) : ∃ u, execPresNQualified s = .next u ∧ Keeps s u := by
  refine ⟨_, rfl, ?_⟩
  have h := Keeps.refl s
  repeat' (first
    | with_reducible assumption
    | with_reducible apply keeps_presQualified
    | split
    | intro)
theorem keeps_execBootStep (k : Fin 19) (s : State) : ∃ u, execBootStep k s = .next u ∧ Keeps s u := by
  refine ⟨_, rfl, ?_⟩
  have h := Keeps.refl s
  repeat' (first
    | with_reducible assumption
    | with_reducible apply keeps_bootStep
    | split
    | intro)
theorem keeps_execSelfTestComplete (x : SelfTest) (s : State) : ∃ u, execSelfTestComplete x s = .next u ∧ Keeps s u := by
  refine ⟨_, rfl, ?_⟩
  have h := Keeps.refl s
  repeat' (first
    | with_reducible assumption
    | with_reducible apply keeps_selfTestComplete
    | split
    | intro)
theorem keeps_execSelfTestDue  (s : State) : ∃ u, execSelfTestDue s = .next u ∧ Keeps s u := by
  refine ⟨_, rfl, ?_⟩
  have h := Keeps.refl s
  repeat' (first
    | with_reducible assumption
    | with_reducible apply keeps_selfTestDue
    | split
    | intro)
theorem keeps_execPresNWarning  (s : State) : ∃ u, execPresNWarning s = .next u ∧ Keeps s u := by
  refine ⟨_, rfl, ?_⟩
  have h := Keeps.refl s
  repeat' (first
    | with_reducible assumption
    | with_reducible apply keeps_presWarning
    | split
    | intro)
theorem keeps_execFlushComplete  (s : State) : ∃ u, execFlushComplete s = .next u ∧ Keeps s u := by
  refine ⟨_, rfl, ?_⟩
  have h := Keeps.refl s
  repeat' (first
    | with_reducible assumption
    | with_reducible apply keeps_flushComplete
    | split
    | intro)
theorem keeps_execPresNReassert  (s : State) : ∃ u, execPresNReassert s = .next u ∧ Keeps s u := by
  refine ⟨_, rfl, ?_⟩
  have h := Keeps.refl s
  repeat' (first
    | with_reducible assumption
    | with_reducible apply Keeps.on
    | split
    | intro)
theorem keeps_execSupplyDip  (s : State) : ∃ u, execSupplyDip s = .next u ∧ Keeps s u := by
  refine ⟨_, rfl, ?_⟩
  have h := Keeps.refl s
  repeat' (first
    | with_reducible assumption
    | with_reducible apply Keeps.set
    | with_reducible apply Keeps.on
    | split
    | intro)
theorem keeps_execDipRideThrough  (s : State) : ∃ u, execDipRideThrough s = .next u ∧ Keeps s u := by
  refine ⟨_, rfl, ?_⟩
  have h := Keeps.refl s
  repeat' (first
    | with_reducible assumption
    | with_reducible refine Keeps.ite ?_ ?_
    | with_reducible apply Keeps.off
    | with_reducible apply Keeps.incSat
    | split
    | intro)
theorem keeps_execBrownout  (s : State) : ∃ u, execBrownout s = .next u ∧ Keeps s u := by
  refine ⟨_, rfl, ?_⟩
  have h := Keeps.refl s
  repeat' (first
    | with_reducible assumption
    | with_reducible apply keeps_brownout
    | split
    | intro)
theorem keeps_execBrownoutRecovery  (s : State) : ∃ u, execBrownoutRecovery s = .next u ∧ Keeps s u := by
  refine ⟨_, rfl, ?_⟩
  have h := Keeps.refl s
  repeat' (first
    | with_reducible assumption
    | with_reducible apply keeps_brownoutRecovery
    | split
    | intro)
theorem keeps_execAonPowerOnReset  (s : State) : ∃ u, execAonPowerOnReset s = .next u ∧ Keeps s u := by
  refine ⟨_, rfl, ?_⟩
  have h := Keeps.refl s
  repeat' (first
    | with_reducible assumption
    | with_reducible apply keeps_aonReset
    | split
    | intro)

end Sys2Proof.Machine
end

