-- ==== Sys2Proof/Laws/KeepsCommands.lean ====
section
/-!
SUPPORT. The operations of Machine/Commands.lean keep the canonical forms, the queue and the time.
-/
namespace Sys2Proof.Machine
open Sys2Proof
set_option linter.unreachableTactic false
set_option linter.unusedTactic false

theorem keeps_hello {u s : State} (h : Keeps u s) (pvMin : Nat) (pvMax : Nat) : Keeps u (hello pvMin pvMax s).s := by
  unfold hello
  repeat' (first
    | with_reducible assumption
    | (extract_lets -underBinder +onlyGivenNames y; clear_value (hy : y = _); first | refine Keeps.sub (u := u) hy ?_ (fun hk => ?_) | refine Keeps.subA (u := u) hy ?_ (fun hk => ?_) | refine Keeps.subP (u := u) hy ?_ (fun hk => ?_) | clear hy)
    | with_reducible refine Keeps.ite ?_ ?_
    | with_reducible apply Keeps.set
    | with_reducible apply keeps_ans
    | with_reducible apply keeps_ansOk
    | split
    | intro)
theorem keeps_loginStart {u s : State} (h : Keeps u s) (n role key : Nat) : Keeps u (loginStart n role key s).s := by
  unfold loginStart
  repeat' (first
    | with_reducible assumption
    | (extract_lets -underBinder +onlyGivenNames y; clear_value (hy : y = _); first | refine Keeps.sub (u := u) hy ?_ (fun hk => ?_) | refine Keeps.subA (u := u) hy ?_ (fun hk => ?_) | refine Keeps.subP (u := u) hy ?_ (fun hk => ?_) | clear hy)
    | with_reducible refine Keeps.ite ?_ ?_
    | with_reducible apply Keeps.set
    | with_reducible apply Keeps.on
    | with_reducible apply keeps_ans
    | with_reducible apply keeps_ansOk
    | with_reducible apply keeps_freeWords
    | split
    | intro)
theorem keeps_loginOver {u s : State} (h : Keeps u s) (n : Nat) : Keeps u (loginOver n s) := by
  unfold loginOver
  repeat' (first
    | with_reducible assumption
    | with_reducible apply Keeps.off
    | split
    | intro)
theorem keeps_loginFails {u s : State} (h : Keeps u s) (n role : Nat) : Keeps u (loginFails n role s).s := by
  unfold loginFails
  repeat' (first
    | with_reducible assumption
    | (extract_lets -underBinder +onlyGivenNames y; clear_value (hy : y = _); first | refine Keeps.sub (u := u) hy ?_ (fun hk => ?_) | refine Keeps.subA (u := u) hy ?_ (fun hk => ?_) | refine Keeps.subP (u := u) hy ?_ (fun hk => ?_) | clear hy)
    | with_reducible apply Keeps.set
    | with_reducible apply Keeps.on
    | with_reducible apply Keeps.incSat
    | with_reducible apply Keeps.free
    | with_reducible apply Keeps.when
    | with_reducible apply Keeps.forUpTo
    | with_reducible apply keeps_loginOver
    | split
    | intro)
theorem keeps_loginProve {u s : State} (h : Keeps u s) (n heph hsig : Nat) : Keeps u (loginProve n heph hsig s).s := by
  unfold loginProve
  extract_lets -underBinder role
  split
  · exact keeps_loginOver h ..
  split
  · exact keeps_loginFails h ..
  split
  · exact keeps_loginOver h ..
  split
  · exact h
  · exact (((((((((keeps_loginOver (h.free 29) ..).set ..).set ..).set ..).set ..).set ..).set ..).off ..).off ..).set ..
theorem keeps_logout {u s : State} (h : Keeps u s) (n : Nat) (aud : Bool) : Keeps u (logout n aud s) := by
  unfold logout
  repeat' (first
    | with_reducible assumption
    | (extract_lets -underBinder +onlyGivenNames y; clear_value (hy : y = _); first | refine Keeps.sub (u := u) hy ?_ (fun hk => ?_) | refine Keeps.subA (u := u) hy ?_ (fun hk => ?_) | refine Keeps.subP (u := u) hy ?_ (fun hk => ?_) | clear hy)
    | with_reducible refine Keeps.ite ?_ ?_
    | with_reducible apply keeps_ansOk
    | with_reducible apply keeps_audited
    | with_reducible apply keeps_endSession
    | with_reducible apply keeps_serve
    | split
    | intro)
theorem keeps_modeReq {u s : State} (h : Keeps u s) (n : Nat) (tgt : Nat) (p : Pins) : Keeps u (modeReq n tgt p s).s := by
  unfold modeReq
  extract_lets val
  split
  · exact h.on ..
  split
  · exact h.on ..
  split
  · exact keeps_enterSafeHold h ..
  split
  · exact keeps_cvLeave (h.set ..)
  split
  · exact keeps_startMode h ..
  · exact h.on ..
  · exact h.on ..
theorem keeps_transportReq {u s : State} (h : Keeps u s) (p : Pins) : Keeps u (transportReq p s).s := by
  unfold transportReq
  repeat' (first
    | with_reducible assumption
    | with_reducible refine Keeps.ite ?_ ?_
    | with_reducible apply keeps_openDrivers
    | with_reducible apply keeps_wearSnapshot
    | with_reducible apply keeps_ans
    | with_reducible apply keeps_ansOk
    | with_reducible apply keeps_ansRefused
    | with_reducible apply keeps_startStep
    | with_reducible apply keeps_wake
    | split
    | intro)
theorem keeps_driveCmd {u s : State} (h : Keeps u s) (ca : Nat) (da : Nat) (cb : Nat) (db : Nat) (alive : Nat) :
    Keeps u (driveCmd ca da cb db alive s).s := by
  unfold driveCmd
  split
  · exact h
  split
  · exact h
  split
  · exact h
  · exact ((((((((h.set ..).set ..).set ..).set ..).off ..).set ..).set ..).set ..).off ..
theorem keeps_vehicleState {u s : State} (h : Keeps u s) (spd : Nat) (odo : Nat) : Keeps u (vehicleState spd odo s).s := by
  unfold vehicleState
  repeat' (first
    | with_reducible assumption
    | with_reducible apply Keeps.set
    | with_reducible apply keeps_ansOk
    | split
    | intro)
theorem keeps_shiftReq {u s : State} (h : Keeps u s) (n : Nat) (tgt : Nat) : Keeps u (shiftReq n tgt s).s := by
  unfold shiftReq
  repeat' (first
    | with_reducible assumption
    | with_reducible apply Keeps.set
    | with_reducible apply keeps_startShift
    | with_reducible apply keeps_ans
    | with_reducible apply keeps_ansRefused
    | split
    | intro)
theorem keeps_parkReq {u s : State} (h : Keeps u s) (n : Nat) (v : Nat) : Keeps u (parkReq n v s).s := by
  unfold parkReq
  repeat' (first
    | with_reducible assumption
    | with_reducible refine Keeps.ite ?_ ?_
    | with_reducible apply Keeps.set
    | with_reducible apply keeps_startPark
    | with_reducible apply keeps_ans
    | with_reducible apply keeps_ansRefused
    | split
    | intro)
theorem keeps_statusRead {u s : State} (h : Keeps u s) (b : Nat) : Keeps u (statusRead b s).s := by
  unfold statusRead
  repeat' (first
    | with_reducible assumption
    | with_reducible refine Keeps.ite ?_ ?_
    | with_reducible apply keeps_ans
    | with_reducible apply keeps_ansOk
    | split
    | intro)
theorem keeps_subscribe {u s : State} (h : Keeps u s) (n mask period trace : Nat) : Keeps u (subscribe n mask period trace s).s := by
  unfold subscribe
  repeat' (first
    | with_reducible assumption
    | (extract_lets -underBinder +onlyGivenNames y; clear_value (hy : y = _); first | refine Keeps.sub (u := u) hy ?_ (fun hk => ?_) | refine Keeps.subA (u := u) hy ?_ (fun hk => ?_) | refine Keeps.subP (u := u) hy ?_ (fun hk => ?_) | clear hy)
    | with_reducible refine Keeps.ite ?_ ?_
    | with_reducible apply Keeps.set
    | with_reducible apply keeps_ans
    | with_reducible apply keeps_ansOk
    | split
    | intro)
theorem keeps_report {u s : State} (h : Keeps u s) (k : Nat) (chan : Nat) (val : Nat) : Keeps u (report k chan val s) := by
  unfold report
  repeat' (first
    | with_reducible assumption
    | with_reducible apply Keeps.send
    | with_reducible apply keeps_nextSeq
    | split
    | intro)
theorem keeps_subscriptionReport {u s : State} (h : Keeps u s) (k : Nat) : Keeps u (subscriptionReport k s) := by
  unfold subscriptionReport
  repeat' (first
    | with_reducible assumption
    | (extract_lets -underBinder +onlyGivenNames y; clear_value (hy : y = _); first | refine Keeps.sub (u := u) hy ?_ (fun hk => ?_) | refine Keeps.subA (u := u) hy ?_ (fun hk => ?_) | refine Keeps.subP (u := u) hy ?_ (fun hk => ?_) | clear hy)
    | with_reducible refine Keeps.ite ?_ ?_
    | with_reducible apply Keeps.set
    | with_reducible apply Keeps.forUpTo
    | with_reducible apply keeps_report
    | split
    | intro)
theorem keeps_frInfo {u s : State} (h : Keeps u s)  : Keeps u (frInfo s).s := by
  unfold frInfo
  repeat' (first
    | with_reducible assumption
    | with_reducible apply keeps_ansOk
    | split
    | intro)
theorem keeps_chgStartReq {u s : State} (h : Keeps u s)  : Keeps u (chgStartReq s).s := by
  unfold chgStartReq
  repeat' (first
    | with_reducible assumption
    | (extract_lets -underBinder +onlyGivenNames y; clear_value (hy : y = _); first | refine Keeps.sub (u := u) hy ?_ (fun hk => ?_) | refine Keeps.subA (u := u) hy ?_ (fun hk => ?_) | refine Keeps.subP (u := u) hy ?_ (fun hk => ?_) | clear hy)
    | with_reducible refine Keeps.ite ?_ ?_
    | with_reducible apply keeps_chgStart
    | with_reducible apply keeps_ans
    | with_reducible apply keeps_ansOk
    | with_reducible apply keeps_ansRefused
    | split
    | intro)
theorem keeps_chgStopReq {u s : State} (h : Keeps u s)  : Keeps u (chgStopReq s).s := by
  unfold chgStopReq
  repeat' (first
    | with_reducible assumption
    | (extract_lets -underBinder +onlyGivenNames y; clear_value (hy : y = _); first | refine Keeps.sub (u := u) hy ?_ (fun hk => ?_) | refine Keeps.subA (u := u) hy ?_ (fun hk => ?_) | refine Keeps.subP (u := u) hy ?_ (fun hk => ?_) | clear hy)
    | with_reducible refine Keeps.ite ?_ ?_
    | with_reducible apply keeps_chgEnd
    | with_reducible apply keeps_ansOk
    | with_reducible apply keeps_ansRefused
    | split
    | intro)
theorem keeps_chgPause {u s : State} (h : Keeps u s) (v : Nat) : Keeps u (chgPause v s).s := by
  unfold chgPause
  repeat' (first
    | with_reducible assumption
    | with_reducible refine Keeps.ite ?_ ?_
    | with_reducible apply Keeps.set
    | with_reducible apply keeps_ans
    | with_reducible apply keeps_ansOk
    | with_reducible apply keeps_ansRefused
    | split
    | intro)
theorem keeps_faultList {u s : State} (h : Keeps u s) : Keeps u (faultList s).s := by
  have key : ∀ (l : List (Nat × Nat)) (x : Nat × Nat × State), Keeps u x.2.2 →
      Keeps u (l.foldl (fun (x : Nat × Nat × State) it =>
        have f := x.2.2.free 40
        (x.1 + (it.1 + 256 * it.2 + 2 ^ 24 * f.1) * 256 ^ (1 + 8 * x.2.1), x.2.1 + 1, f.2)) x).2.2 := by
    intro l
    induction l with
    | nil => exact fun x hx => hx
    | cons a r ih => exact fun x hx => ih _ (hx.free 40)
  unfold faultList
  extract_lets l r
  clear_value (e : r = _)
  clear_value l
  have hr : Keeps u r.2.2 := by rw [e]; exact key l (l.length, 0, s) h
  exact keeps_ansOk hr ..
theorem keeps_clearItem {u s t : State} (h : Keeps u s) (item ix : Nat) (ht : clearItem item ix s = some t) : Keeps u t := by
  unfold clearItem at ht
  split at ht
  · dsimp only at ht; split at ht
    · cases ht
    · cases ht; exact keeps_sourceLatchClear h ..
  · dsimp only at ht; split at ht
    · cases ht
    · cases ht; exact keeps_groupLatchClear h ..
  · split at ht
    · dsimp only at ht; split at ht
      · cases ht
      · cases ht; exact ((keeps_legFaultClear h ..).off ..).off ..
    · cases ht; exact ((keeps_alegFaultClear h ..).off ..).off ..
  · cases ht; exact keeps_driveLeg (h.off ..) ..
  · cases ht; exact ((keeps_trFlag (keeps_trFlag (keeps_trFlag h ..) ..) ..).off ..).forUpTo _ (fun _ _ hv => hv.off ..)
  · cases ht; exact keeps_clearConverter h ..
  · cases ht; exact h.set ..
  · cases ht; exact h.clrBit ..
  · cases ht; exact h.off ..
  · cases ht; exact h.off ..
  · cases ht; exact (h.off ..).off ..
  · cases ht; exact (((((h.off ..).off ..).off ..).off ..).off ..).off ..
  · split at ht
    · cases ht
    · cases ht; exact h.off ..
theorem keeps_faultClear {u s : State} (h : Keeps u s) (n item ix : Nat) : Keeps u (faultClear n item ix s).s := by
  unfold faultClear
  split
  · exact h
  split
  · exact h
  split
  · rename_i t ht; exact keeps_clearItem h _ _ ht
  · exact h
theorem keeps_pkgCommit {u s : State} (h : Keeps u s) (n slot size : Nat) : Keeps u (pkgCommit n slot size s).s := by
  unfold pkgCommit
  repeat' (first
    | with_reducible assumption
    | (extract_lets -underBinder +onlyGivenNames y; clear_value (hy : y = _); first | refine Keeps.sub (u := u) hy ?_ (fun hk => ?_) | refine Keeps.subA (u := u) hy ?_ (fun hk => ?_) | refine Keeps.subP (u := u) hy ?_ (fun hk => ?_) | clear hy)
    | with_reducible refine Keeps.ite ?_ ?_
    | with_reducible apply Keeps.set
    | with_reducible apply Keeps.off
    | with_reducible apply Keeps.send
    | with_reducible apply keeps_ans
    | with_reducible apply keeps_zeroBytes
    | split
    | intro)
theorem keeps_pkgActivate {u s : State} (h : Keeps u s) (slot : Nat) : Keeps u (pkgActivate slot s).s := by
  unfold pkgActivate
  repeat' (first
    | with_reducible assumption
    | with_reducible refine Keeps.ite ?_ ?_
    | with_reducible apply keeps_ans
    | with_reducible apply keeps_startActivation
    | split
    | intro)
theorem keeps_floorRaise {u s : State} (h : Keeps u s)  : Keeps u (floorRaise s).s := by
  unfold floorRaise
  repeat' (first
    | with_reducible assumption
    | (extract_lets -underBinder +onlyGivenNames y; clear_value (hy : y = _); first | refine Keeps.sub (u := u) hy ?_ (fun hk => ?_) | refine Keeps.subA (u := u) hy ?_ (fun hk => ?_) | refine Keeps.subP (u := u) hy ?_ (fun hk => ?_) | clear hy)
    | with_reducible refine Keeps.ite ?_ ?_
    | with_reducible apply Keeps.set
    | with_reducible apply keeps_ansOk
    | with_reducible apply keeps_ansRefused
    | split
    | intro)
theorem keeps_pkgInfo {u s : State} (h : Keeps u s)  : Keeps u (pkgInfo s).s := by
  unfold pkgInfo
  repeat' (first
    | with_reducible assumption
    | (extract_lets -underBinder +onlyGivenNames y; clear_value (hy : y = _); first | refine Keeps.sub (u := u) hy ?_ (fun hk => ?_) | refine Keeps.subA (u := u) hy ?_ (fun hk => ?_) | refine Keeps.subP (u := u) hy ?_ (fun hk => ?_) | clear hy)
    | with_reducible apply Keeps.free
    | with_reducible apply keeps_ansOk
    | split
    | intro)
theorem keeps_paramWrite {u s : State} (h : Keeps u s) (r : ParamRec) (off : Nat) (data : List (BitVec 8)) : Keeps u (paramWrite r off data s).s := by
  unfold paramWrite
  repeat' (first
    | with_reducible assumption
    | with_reducible refine Keeps.ite ?_ ?_
    | with_reducible apply Keeps.set
    | with_reducible apply Keeps.writeBytes
    | with_reducible apply keeps_ans
    | with_reducible apply keeps_ansOk
    | with_reducible apply keeps_ansRefused
    | with_reducible apply keeps_wearSnapshot
    | split
    | intro)
theorem keeps_limitSet {u s : State} (h : Keeps u s) (l : Nat) (v : Nat) : Keeps u (limitSet l v s).s := by
  unfold limitSet
  repeat' (first
    | with_reducible assumption
    | with_reducible refine Keeps.ite ?_ ?_
    | with_reducible apply Keeps.set
    | with_reducible apply keeps_ans
    | with_reducible apply keeps_ansOk
    | split
    | intro)
theorem keeps_absLimitSet {u s : State} (h : Keeps u s) (l : Nat) (v : Nat) : Keeps u (absLimitSet l v s).s := by
  unfold absLimitSet
  repeat' (first
    | with_reducible assumption
    | with_reducible refine Keeps.ite ?_ ?_
    | with_reducible apply Keeps.set
    | with_reducible apply keeps_ans
    | with_reducible apply keeps_ansOk
    | split
    | intro)
theorem keeps_injectReq {u s : State} (h : Keeps u s) (n : Nat) (e : Nat) (img : List Word) : Keeps u (injectReq n e img s).s := by
  unfold injectReq
  repeat' (first
    | with_reducible assumption
    | (extract_lets -underBinder +onlyGivenNames y; clear_value (hy : y = _); first | refine Keeps.sub (u := u) hy ?_ (fun hk => ?_) | refine Keeps.subA (u := u) hy ?_ (fun hk => ?_) | refine Keeps.subP (u := u) hy ?_ (fun hk => ?_) | clear hy)
    | with_reducible refine Keeps.ite ?_ ?_
    | with_reducible apply Keeps.set
    | with_reducible apply Keeps.off
    | with_reducible apply Keeps.foldl
    | with_reducible apply keeps_storeWord
    | with_reducible apply keeps_injAbort
    | with_reducible apply keeps_injStart
    | with_reducible apply keeps_injFields
    | with_reducible apply keeps_ans
    | split
    | intro)
theorem keeps_auditExport {u s : State} (h : Keeps u s) (n : Nat) (first : Nat) (cnt : Nat) : Keeps u (auditExport n first cnt s).s := by
  unfold auditExport
  repeat' (first
    | with_reducible assumption
    | with_reducible refine Keeps.ite ?_ ?_
    | with_reducible apply Keeps.set
    | with_reducible apply keeps_ans
    | split
    | intro)
theorem keeps_exportEntries {u s : State} (h : Keeps u s) (l : List Nat) : Keeps u (exportEntries l s) := by
  unfold exportEntries
  repeat' (first
    | with_reducible assumption
    | with_reducible apply Keeps.foldl
    | with_reducible apply keeps_moveRange
    | split
    | intro)
theorem keeps_islandReq {u s : State} (h : Keeps u s) (n : Nat) (i : Nat) (st : Nat) (force : Bool) : Keeps u (islandReq n i st force s).s := by
  unfold islandReq
  extract_lets -underBinder read t v
  have ht : Keeps u t := keeps_islandCtrl (h.off ..) ..
  have hv : Keeps u v := ht.set ..
  clear_value v t read
  split
  · exact h
  split
  · exact h
  split
  · exact h
  split
  · exact ht.off ..
  split
  · exact hv.set ..
  · exact hv
theorem keeps_islandReqServe {u s : State} (h : Keeps u s) (n : Nat) (i : Nat) (st : Nat) (force : Bool) (aud : Bool) :
    Keeps u (islandReqServe n i st force aud s) := by
  unfold islandReqServe
  extract_lets -underBinder t
  have ht : Keeps u t :=
    keeps_serve h _ _ _ _ _ _ (fun v hv => keeps_audited hv _ _ _ _ _ _ (fun w hw => keeps_islandReq hw ..))
  clear_value t
  split
  · exact ht.withSent ..
  · exact ht
theorem keeps_keyInstall {u s : State} (h : Keeps u s) (n : Nat) (role : Nat) (x : Nat) (y : Nat) : Keeps u (keyInstall n role x y s).s := by
  unfold keyInstall
  split
  · exact h
  split
  · exact h
  extract_lets -underBinder id
  clear_value id
  split
  · exact h
  split
  · exact h.free 8
  · exact (((h.set ..).set ..).set ..).set ..
theorem keeps_keyRevoke {u s : State} (h : Keeps u s) (n : Nat) (key : Nat) : Keeps u (keyRevoke n key s).s := by
  unfold keyRevoke
  repeat' (first
    | with_reducible assumption
    | (extract_lets -underBinder +onlyGivenNames y; clear_value (hy : y = _); first | refine Keeps.sub (u := u) hy ?_ (fun hk => ?_) | refine Keeps.subA (u := u) hy ?_ (fun hk => ?_) | refine Keeps.subP (u := u) hy ?_ (fun hk => ?_) | clear hy)
    | with_reducible refine Keeps.ite ?_ ?_
    | with_reducible apply Keeps.off
    | with_reducible apply Keeps.forUpTo
    | with_reducible apply keeps_ans
    | with_reducible apply keeps_ansOk
    | with_reducible apply keeps_endSession
    | split
    | intro)
theorem keeps_certInstall {u s : State} (h : Keeps u s) (size : Nat) : Keeps u (certInstall size s).s := by
  unfold certInstall
  repeat' (first
    | with_reducible assumption
    | with_reducible apply Keeps.set
    | with_reducible apply Keeps.send
    | with_reducible apply keeps_ansOk
    | split
    | intro)
theorem keeps_fwCommit {u s : State} (h : Keeps u s) (n : Nat) (slot : Nat) (size : Nat) (chk : Nat) : Keeps u (fwCommit n slot size chk s).s := by
  unfold fwCommit
  repeat' (first
    | with_reducible assumption
    | (extract_lets -underBinder +onlyGivenNames y; clear_value (hy : y = _); first | refine Keeps.sub (u := u) hy ?_ (fun hk => ?_) | refine Keeps.subA (u := u) hy ?_ (fun hk => ?_) | refine Keeps.subP (u := u) hy ?_ (fun hk => ?_) | clear hy)
    | with_reducible refine Keeps.ite ?_ ?_
    | with_reducible apply Keeps.set
    | with_reducible apply Keeps.off
    | with_reducible apply Keeps.send
    | with_reducible apply keeps_ans
    | split
    | intro)
theorem keeps_fwActivate {u s : State} (h : Keeps u s) (slot : Nat) : Keeps u (fwActivate slot s).s := by
  unfold fwActivate
  repeat' (first
    | with_reducible assumption
    | with_reducible refine Keeps.ite ?_ ?_
    | with_reducible apply Keeps.set
    | with_reducible apply keeps_ans
    | with_reducible apply keeps_ansOk
    | split
    | intro)
theorem keeps_fwActivateServe {u s : State} (h : Keeps u s) (n slot : Nat) (aud : Bool) : Keeps u (fwActivateServe n slot aud s) := by
  unfold fwActivateServe
  repeat' (first
    | with_reducible assumption
    | (extract_lets -underBinder +onlyGivenNames y; clear_value (hy : y = _); first | refine Keeps.sub (u := u) hy ?_ (fun hk => ?_) | refine Keeps.subA (u := u) hy ?_ (fun hk => ?_) | refine Keeps.subP (u := u) hy ?_ (fun hk => ?_) | clear hy)
    | with_reducible refine Keeps.ite ?_ ?_
    | with_reducible apply keeps_audited
    | with_reducible apply keeps_fwActivate
    | with_reducible apply keeps_moduleReset
    | with_reducible apply keeps_serve
    | with_reducible apply keeps_setSafForce
    | with_reducible apply keeps_startBoot
    | split
    | intro)
theorem keeps_debugStart {u s : State} (h : Keeps u s) : Keeps u (debugStart s).s := by
  unfold debugStart
  repeat' (first
    | with_reducible assumption
    | (extract_lets -underBinder +onlyGivenNames y; clear_value (hy : y = _); first | refine Keeps.sub (u := u) hy ?_ (fun hk => ?_) | refine Keeps.subA (u := u) hy ?_ (fun hk => ?_) | refine Keeps.subP (u := u) hy ?_ (fun hk => ?_) | clear hy)
    | with_reducible apply Keeps.set
    | with_reducible apply Keeps.on
    | with_reducible apply keeps_ansOk
    | with_reducible apply keeps_freeWords
    | split
    | intro)
theorem keeps_debugProve {u s : State} (h : Keeps u s) (n sig : Nat) : Keeps u (debugProve n sig s).s := by
  unfold debugProve
  repeat' (first
    | with_reducible assumption
    | (extract_lets -underBinder +onlyGivenNames y; clear_value (hy : y = _); first | refine Keeps.sub (u := u) hy ?_ (fun hk => ?_) | refine Keeps.subA (u := u) hy ?_ (fun hk => ?_) | refine Keeps.subP (u := u) hy ?_ (fun hk => ?_) | clear hy)
    | with_reducible refine Keeps.ite ?_ ?_
    | with_reducible apply Keeps.on
    | with_reducible apply Keeps.off
    | with_reducible apply keeps_ansOk
    | with_reducible apply keeps_ansRefused
    | split
    | intro)
theorem keeps_bootHeader {u s : State} (h : Keeps u s) (split : Nat) (sigOk : Bool) : Keeps u (bootHeader split sigOk s).s := by
  unfold bootHeader
  repeat' (first
    | with_reducible assumption
    | with_reducible refine Keeps.ite ?_ ?_
    | with_reducible apply Keeps.set
    | with_reducible apply Keeps.send
    | with_reducible apply keeps_ansOk
    | with_reducible apply keeps_ansRefused
    | split
    | intro)
theorem keeps_finalAnswer {u s : State} {r : Ans} (h : Keeps u s) (n st : Nat) (hr : finalAnswer n st s = some r) :
    Keeps u r.s := by
  unfold finalAnswer at hr
  extract_lets par at hr
  split at hr
  · split at hr <;> cases hr; exact h.off ..
  · split at hr <;> cases hr; exact h.off ..
  · try dsimp only at hr
    split at hr
    · cases hr; exact h
    split at hr
    · cases hr; exact h
    split at hr <;> cases hr <;> exact ((keeps_moveRange h ..).on ..).set ..
  · split at hr <;> cases hr; exact h
  · try dsimp only at hr
    split at hr <;> cases hr; exact h
  · try dsimp only at hr
    split at hr <;> cases hr
    · exact keeps_exportEntries h ..
    · exact h
  · try dsimp only at hr
    split at hr
    · cases hr; exact h
    split at hr <;> cases hr
    · exact h.on ..
    · exact h
  · cases hr
theorem keeps_longComplete {u s : State} (h : Keeps u s) (n : Nat) (st : Nat) : Keeps u (longComplete n st s) := by
  unfold longComplete
  split
  · exact h
  split
  · rename_i r hr; exact keeps_reply (keeps_finalAnswer h _ _ hr) ..
  · exact h
theorem keeps_progressRepeat {u s : State} (h : Keeps u s) (n : Nat) : Keeps u (progressRepeat n s) := by
  unfold progressRepeat
  repeat' (first
    | with_reducible assumption
    | with_reducible refine Keeps.ite ?_ ?_
    | with_reducible apply Keeps.set
    | with_reducible apply keeps_sendReply
    | split
    | intro)
theorem keeps_barExpiry {u s : State} (h : Keeps u s) (role : Nat) : Keeps u (barExpiry role s) := by
  unfold barExpiry
  repeat' (first
    | with_reducible assumption
    | with_reducible refine Keeps.ite ?_ ?_
    | with_reducible apply Keeps.off
    | with_reducible apply Keeps.forUpTo
    | split
    | intro)
theorem keeps_execHello (n : Fin 16) (pvMin pvMax : BitVec 8) (s : State) : ∃ u, execHello n pvMin pvMax s = .next u ∧ Keeps s u := by
  refine ⟨_, rfl, ?_⟩
  have h := Keeps.refl s
  repeat' (first
    | with_reducible assumption
    | with_reducible apply keeps_hello
    | with_reducible apply keeps_serve
    | split
    | intro)
theorem keeps_execLoginStart (n : Fin 16) (role : BitVec 8) (key : BitVec 64) (s : State) : ∃ u, execLoginStart n role key s = .next u ∧ Keeps s u := by
  refine ⟨_, rfl, ?_⟩
  have h := Keeps.refl s
  repeat' (first
    | with_reducible assumption
    | with_reducible apply keeps_loginStart
    | with_reducible apply keeps_serve
    | split
    | intro)
theorem keeps_execLoginProve (n : Fin 16) (heph hsig : BitVec 512) (aud : Bool) (s : State) : ∃ u, execLoginProve n heph hsig aud s = .next u ∧ Keeps s u := by
  refine ⟨_, rfl, ?_⟩
  have h := Keeps.refl s
  repeat' (first
    | with_reducible assumption
    | with_reducible apply keeps_audited
    | with_reducible apply keeps_loginProve
    | with_reducible apply keeps_serve
    | split
    | intro)
theorem keeps_execLogout (n : Fin 16) (aud : Bool) (s : State) : ∃ u, execLogout n aud s = .next u ∧ Keeps s u := by
  refine ⟨_, rfl, ?_⟩
  have h := Keeps.refl s
  repeat' (first
    | with_reducible assumption
    | with_reducible apply keeps_logout
    | split
    | intro)
theorem keeps_execKeepalive (n : Fin 16) (s : State) : ∃ u, execKeepalive n s = .next u ∧ Keeps s u := by
  refine ⟨_, rfl, ?_⟩
  have h := Keeps.refl s
  repeat' (first
    | with_reducible assumption
    | with_reducible apply keeps_ansOk
    | with_reducible apply keeps_serve
    | split
    | intro)
theorem keeps_execModeReq (n : Fin 16) (tgt : BitVec 8) (p : Pins) (aud : Bool) (s : State) : ∃ u, execModeReq n tgt p aud s = .next u ∧ Keeps s u := by
  refine ⟨_, rfl, ?_⟩
  have h := Keeps.refl s
  repeat' (first
    | with_reducible assumption
    | with_reducible apply keeps_audited
    | with_reducible apply keeps_modeReq
    | with_reducible apply keeps_serve
    | split
    | intro)
theorem keeps_execSafeHoldReq (n : Fin 16) (s : State) : ∃ u, execSafeHoldReq n s = .next u ∧ Keeps s u := by
  refine ⟨_, rfl, ?_⟩
  have h := Keeps.refl s
  repeat' (first
    | with_reducible assumption
    | (extract_lets -underBinder +onlyGivenNames y; clear_value (hy : y = _); first | refine Keeps.sub (u := s) hy ?_ (fun hk => ?_) | refine Keeps.subA (u := s) hy ?_ (fun hk => ?_) | refine Keeps.subP (u := s) hy ?_ (fun hk => ?_) | clear hy)
    | with_reducible apply keeps_ansOk
    | with_reducible apply keeps_enterSafeHold
    | with_reducible apply keeps_serve
    | split
    | intro)
theorem keeps_execTransportReq (n : Fin 16) (p : Pins) (s : State) : ∃ u, execTransportReq n p s = .next u ∧ Keeps s u := by
  refine ⟨_, rfl, ?_⟩
  have h := Keeps.refl s
  repeat' (first
    | with_reducible assumption
    | with_reducible apply keeps_serve
    | with_reducible apply keeps_transportReq
    | split
    | intro)
theorem keeps_execDriveCmd (n : Fin 16) (ca : Half) (da : BitVec 8) (cb : Half) (db alive : BitVec 8) (s : State) : ∃ u, execDriveCmd n ca da cb db alive s = .next u ∧ Keeps s u := by
  refine ⟨_, rfl, ?_⟩
  have h := Keeps.refl s
  repeat' (first
    | with_reducible assumption
    | with_reducible apply keeps_driveCmd
    | with_reducible apply keeps_serve
    | split
    | intro)
theorem keeps_execVehicleState (n : Fin 16) (spd : Half) (odo : Word) (alive : BitVec 8) (s : State) : ∃ u, execVehicleState n spd odo alive s = .next u ∧ Keeps s u := by
  refine ⟨_, rfl, ?_⟩
  have h := Keeps.refl s
  repeat' (first
    | with_reducible assumption
    | with_reducible apply keeps_serve
    | with_reducible apply keeps_vehicleState
    | split
    | intro)
theorem keeps_execShiftReq (n : Fin 16) (tgt : BitVec 8) (s : State) : ∃ u, execShiftReq n tgt s = .next u ∧ Keeps s u := by
  refine ⟨_, rfl, ?_⟩
  have h := Keeps.refl s
  repeat' (first
    | with_reducible assumption
    | with_reducible apply keeps_serve
    | with_reducible apply keeps_shiftReq
    | split
    | intro)
theorem keeps_execParkReq (n : Fin 16) (v : BitVec 8) (s : State) : ∃ u, execParkReq n v s = .next u ∧ Keeps s u := by
  refine ⟨_, rfl, ?_⟩
  have h := Keeps.refl s
  repeat' (first
    | with_reducible assumption
    | with_reducible apply keeps_parkReq
    | with_reducible apply keeps_serve
    | split
    | intro)
theorem keeps_execStatusRead (n : Fin 16) (b : BitVec 8) (s : State) : ∃ u, execStatusRead n b s = .next u ∧ Keeps s u := by
  refine ⟨_, rfl, ?_⟩
  have h := Keeps.refl s
  repeat' (first
    | with_reducible assumption
    | with_reducible apply keeps_serve
    | with_reducible apply keeps_statusRead
    | split
    | intro)
theorem keeps_execSubscribe (n : Fin 16) (mask : BitVec 8) (period trace : Half) (s : State) : ∃ u, execSubscribe n mask period trace s = .next u ∧ Keeps s u := by
  refine ⟨_, rfl, ?_⟩
  have h := Keeps.refl s
  repeat' (first
    | with_reducible assumption
    | with_reducible apply keeps_serve
    | with_reducible apply keeps_subscribe
    | split
    | intro)
theorem keeps_execSubscriptionReport (k : Fin 4) (s : State) : ∃ u, execSubscriptionReport k s = .next u ∧ Keeps s u := by
  refine ⟨_, rfl, ?_⟩
  have h := Keeps.refl s
  repeat' (first
    | with_reducible assumption
    | with_reducible apply keeps_subscriptionReport
    | split
    | intro)
theorem keeps_execFrInfo (n : Fin 16) (s : State) : ∃ u, execFrInfo n s = .next u ∧ Keeps s u := by
  refine ⟨_, rfl, ?_⟩
  have h := Keeps.refl s
  repeat' (first
    | with_reducible assumption
    | with_reducible apply keeps_frInfo
    | with_reducible apply keeps_serve
    | split
    | intro)
theorem keeps_execChgStart (n : Fin 16) (s : State) : ∃ u, execChgStart n s = .next u ∧ Keeps s u := by
  refine ⟨_, rfl, ?_⟩
  have h := Keeps.refl s
  repeat' (first
    | with_reducible assumption
    | with_reducible apply keeps_chgStartReq
    | with_reducible apply keeps_serve
    | split
    | intro)
theorem keeps_execChgStop (n : Fin 16) (s : State) : ∃ u, execChgStop n s = .next u ∧ Keeps s u := by
  refine ⟨_, rfl, ?_⟩
  have h := Keeps.refl s
  repeat' (first
    | with_reducible assumption
    | with_reducible apply keeps_chgStopReq
    | with_reducible apply keeps_serve
    | split
    | intro)
theorem keeps_execChgPause (n : Fin 16) (v : BitVec 8) (s : State) : ∃ u, execChgPause n v s = .next u ∧ Keeps s u := by
  refine ⟨_, rfl, ?_⟩
  have h := Keeps.refl s
  repeat' (first
    | with_reducible assumption
    | with_reducible apply keeps_chgPause
    | with_reducible apply keeps_serve
    | split
    | intro)
theorem keeps_execFaultList (n : Fin 16) (s : State) : ∃ u, execFaultList n s = .next u ∧ Keeps s u := by
  refine ⟨_, rfl, ?_⟩
  have h := Keeps.refl s
  repeat' (first
    | with_reducible assumption
    | with_reducible apply keeps_faultList
    | with_reducible apply keeps_serve
    | split
    | intro)
theorem keeps_execFaultClear (n : Fin 16) (item : BitVec 8) (ix : Half) (aud : Bool) (s : State) : ∃ u, execFaultClear n item ix aud s = .next u ∧ Keeps s u := by
  refine ⟨_, rfl, ?_⟩
  have h := Keeps.refl s
  repeat' (first
    | with_reducible assumption
    | with_reducible apply keeps_audited
    | with_reducible apply keeps_faultClear
    | with_reducible apply keeps_serve
    | split
    | intro)
theorem keeps_execPkgCommit (n : Fin 16) (slot : BitVec 8) (size : BitVec 64) (aud : Bool) (s : State) : ∃ u, execPkgCommit n slot size aud s = .next u ∧ Keeps s u := by
  refine ⟨_, rfl, ?_⟩
  have h := Keeps.refl s
  repeat' (first
    | with_reducible assumption
    | with_reducible apply keeps_audited
    | with_reducible apply keeps_pkgCommit
    | with_reducible apply keeps_serve
    | split
    | intro)
theorem keeps_execPkgActivate (n : Fin 16) (slot : BitVec 8) (aud : Bool) (s : State) : ∃ u, execPkgActivate n slot aud s = .next u ∧ Keeps s u := by
  refine ⟨_, rfl, ?_⟩
  have h := Keeps.refl s
  repeat' (first
    | with_reducible assumption
    | with_reducible apply keeps_audited
    | with_reducible apply keeps_pkgActivate
    | with_reducible apply keeps_serve
    | split
    | intro)
theorem keeps_execFloorRaise (n : Fin 16) (aud : Bool) (s : State) : ∃ u, execFloorRaise n aud s = .next u ∧ Keeps s u := by
  refine ⟨_, rfl, ?_⟩
  have h := Keeps.refl s
  repeat' (first
    | with_reducible assumption
    | with_reducible apply keeps_audited
    | with_reducible apply keeps_floorRaise
    | with_reducible apply keeps_serve
    | split
    | intro)
theorem keeps_execPkgInfo (n : Fin 16) (s : State) : ∃ u, execPkgInfo n s = .next u ∧ Keeps s u := by
  refine ⟨_, rfl, ?_⟩
  have h := Keeps.refl s
  repeat' (first
    | with_reducible assumption
    | with_reducible apply keeps_pkgInfo
    | with_reducible apply keeps_serve
    | split
    | intro)
theorem keeps_execParamWrite (n : Fin 16) (r : ParamRec) (off : Half) (data : List (BitVec 8)) (aud : Bool) (s : State) : ∃ u, execParamWrite n r off data aud s = .next u ∧ Keeps s u := by
  refine ⟨_, rfl, ?_⟩
  have h := Keeps.refl s
  repeat' (first
    | with_reducible assumption
    | (extract_lets -underBinder +onlyGivenNames y; clear_value (hy : y = _); first | refine Keeps.sub (u := s) hy ?_ (fun hk => ?_) | refine Keeps.subA (u := s) hy ?_ (fun hk => ?_) | refine Keeps.subP (u := s) hy ?_ (fun hk => ?_) | clear hy)
    | with_reducible refine Keeps.ite ?_ ?_
    | with_reducible apply keeps_audited
    | with_reducible apply keeps_paramWrite
    | with_reducible apply keeps_serve
    | split
    | intro)
theorem keeps_execLimitSet (n : Fin 16) (l : BitVec 8) (v : Word) (aud : Bool) (s : State) : ∃ u, execLimitSet n l v aud s = .next u ∧ Keeps s u := by
  refine ⟨_, rfl, ?_⟩
  have h := Keeps.refl s
  repeat' (first
    | with_reducible assumption
    | with_reducible apply keeps_audited
    | with_reducible apply keeps_limitSet
    | with_reducible apply keeps_serve
    | split
    | intro)
theorem keeps_execInject (n : Fin 16) (e : BitVec 8) (img : List Word) (aud : Bool) (s : State) : ∃ u, execInject n e img aud s = .next u ∧ Keeps s u := by
  refine ⟨_, rfl, ?_⟩
  have h := Keeps.refl s
  repeat' (first
    | with_reducible assumption
    | with_reducible apply keeps_audited
    | with_reducible apply keeps_injectReq
    | with_reducible apply keeps_serve
    | split
    | intro)
theorem keeps_execAuditExport (n : Fin 16) (first cnt : Word) (s : State) : ∃ u, execAuditExport n first cnt s = .next u ∧ Keeps s u := by
  refine ⟨_, rfl, ?_⟩
  have h := Keeps.refl s
  repeat' (first
    | with_reducible assumption
    | with_reducible apply keeps_auditExport
    | with_reducible apply keeps_serve
    | split
    | intro)
theorem keeps_execIslandReq (n : Fin 16) (i : BitVec 8) (st : BitVec 8) (force : Bool) (aud : Bool) (s : State) : ∃ u, execIslandReq n i st force aud s = .next u ∧ Keeps s u := by
  refine ⟨_, rfl, ?_⟩
  have h := Keeps.refl s
  repeat' (first
    | with_reducible assumption
    | with_reducible apply keeps_islandReqServe
    | split
    | intro)
theorem keeps_execKeyInstall (n : Fin 16) (role : BitVec 8) (x y : BitVec 256) (aud : Bool) (s : State) : ∃ u, execKeyInstall n role x y aud s = .next u ∧ Keeps s u := by
  refine ⟨_, rfl, ?_⟩
  have h := Keeps.refl s
  repeat' (first
    | with_reducible assumption
    | with_reducible apply keeps_audited
    | with_reducible apply keeps_keyInstall
    | with_reducible apply keeps_serve
    | split
    | intro)
theorem keeps_execKeyRevoke (n : Fin 16) (key : BitVec 64) (aud : Bool) (s : State) : ∃ u, execKeyRevoke n key aud s = .next u ∧ Keeps s u := by
  refine ⟨_, rfl, ?_⟩
  have h := Keeps.refl s
  repeat' (first
    | with_reducible assumption
    | with_reducible apply keeps_audited
    | with_reducible apply keeps_keyRevoke
    | with_reducible apply keeps_serve
    | split
    | intro)
theorem keeps_execCertInstall (n : Fin 16) (size : Half) (aud : Bool) (s : State) : ∃ u, execCertInstall n size aud s = .next u ∧ Keeps s u := by
  refine ⟨_, rfl, ?_⟩
  have h := Keeps.refl s
  repeat' (first
    | with_reducible assumption
    | with_reducible apply keeps_audited
    | with_reducible apply keeps_certInstall
    | with_reducible apply keeps_serve
    | split
    | intro)
theorem keeps_execFwCommit (n : Fin 16) (slot : BitVec 8) (size : BitVec 64) (chk : BitVec 8) (aud : Bool) (s : State) : ∃ u, execFwCommit n slot size chk aud s = .next u ∧ Keeps s u := by
  refine ⟨_, rfl, ?_⟩
  have h := Keeps.refl s
  repeat' (first
    | with_reducible assumption
    | with_reducible apply keeps_audited
    | with_reducible apply keeps_fwCommit
    | with_reducible apply keeps_serve
    | split
    | intro)
theorem keeps_execFwActivate (n : Fin 16) (slot : BitVec 8) (aud : Bool) (s : State) : ∃ u, execFwActivate n slot aud s = .next u ∧ Keeps s u := by
  refine ⟨_, rfl, ?_⟩
  have h := Keeps.refl s
  repeat' (first
    | with_reducible assumption
    | with_reducible apply keeps_fwActivateServe
    | split
    | intro)
theorem keeps_execDebugStart (n : Fin 16) (s : State) : ∃ u, execDebugStart n s = .next u ∧ Keeps s u := by
  refine ⟨_, rfl, ?_⟩
  have h := Keeps.refl s
  repeat' (first
    | with_reducible assumption
    | with_reducible apply keeps_debugStart
    | with_reducible apply keeps_serve
    | split
    | intro)
theorem keeps_execDebugProve (n : Fin 16) (sig : BitVec 512) (aud : Bool) (s : State) : ∃ u, execDebugProve n sig aud s = .next u ∧ Keeps s u := by
  refine ⟨_, rfl, ?_⟩
  have h := Keeps.refl s
  repeat' (first
    | with_reducible assumption
    | with_reducible apply keeps_audited
    | with_reducible apply keeps_debugProve
    | with_reducible apply keeps_serve
    | split
    | intro)
theorem keeps_execBootHeader (n : Fin 16) (split : BitVec 8) (sig : BitVec 512) (sigOk aud : Bool) (s : State) : ∃ u, execBootHeader n split sig sigOk aud s = .next u ∧ Keeps s u := by
  refine ⟨_, rfl, ?_⟩
  have h := Keeps.refl s
  repeat' (first
    | with_reducible assumption
    | with_reducible apply keeps_audited
    | with_reducible apply keeps_bootHeader
    | with_reducible apply keeps_serve
    | split
    | intro)
theorem keeps_execAbsLimitSet (n : Fin 16) (l : BitVec 8) (v : Word) (aud : Bool) (s : State) : ∃ u, execAbsLimitSet n l v aud s = .next u ∧ Keeps s u := by
  refine ⟨_, rfl, ?_⟩
  have h := Keeps.refl s
  repeat' (first
    | with_reducible assumption
    | with_reducible apply keeps_absLimitSet
    | with_reducible apply keeps_audited
    | with_reducible apply keeps_serve
    | split
    | intro)
theorem keeps_execLongCommandComplete (n : Fin 16) (st : BitVec 8) (s : State) : ∃ u, execLongCommandComplete n st s = .next u ∧ Keeps s u := by
  refine ⟨_, rfl, ?_⟩
  have h := Keeps.refl s
  repeat' (first
    | with_reducible assumption
    | with_reducible apply keeps_longComplete
    | split
    | intro)
theorem keeps_execInProgressRepeat (n : Fin 16) (s : State) : ∃ u, execInProgressRepeat n s = .next u ∧ Keeps s u := by
  refine ⟨_, rfl, ?_⟩
  have h := Keeps.refl s
  repeat' (first
    | with_reducible assumption
    | with_reducible apply keeps_progressRepeat
    | split
    | intro)
theorem keeps_execSessionIdleTimeout (k : Fin 4) (aud : Bool) (s : State) : ∃ u, execSessionIdleTimeout k aud s = .next u ∧ Keeps s u := by
  refine ⟨_, rfl, ?_⟩
  have h := Keeps.refl s
  repeat' (first
    | with_reducible assumption
    | with_reducible apply keeps_sessionIdle
    | split
    | intro)
theorem keeps_execLoginBarExpiry (role : Fin 4) (s : State) : ∃ u, execLoginBarExpiry role s = .next u ∧ Keeps s u := by
  refine ⟨_, rfl, ?_⟩
  have h := Keeps.refl s
  repeat' (first
    | with_reducible assumption
    | with_reducible apply keeps_barExpiry
    | split
    | intro)
theorem keeps_execNarrowsFrameReceived (f : Frame) (s : State) : ∃ u, execNarrowsFrameReceived f s = .next u ∧ Keeps s u := by
  refine ⟨_, rfl, ?_⟩
  have h := Keeps.refl s
  repeat' (first
    | with_reducible assumption
    | with_reducible apply keeps_frameReceived
    | split
    | intro)
theorem keeps_execCanSegmentReceived (p : Fin 4) (n : Fin 16) (hdr : BitVec 8) (full : Bool) (data : List (BitVec 8)) (s : State) : ∃ u, execCanSegmentReceived p n hdr full data s = .next u ∧ Keeps s u := by
  refine ⟨_, rfl, ?_⟩
  have h := Keeps.refl s
  repeat' (first
    | with_reducible assumption
    | with_reducible apply keeps_segmentReceived
    | split
    | intro)
theorem keeps_execSegmentTimeout (p : Fin 4) (n : Fin 16) (s : State) : ∃ u, execSegmentTimeout p n s = .next u ∧ Keeps s u := by
  refine ⟨_, rfl, ?_⟩
  have h := Keeps.refl s
  repeat' (first
    | with_reducible assumption
    | with_reducible apply keeps_segmentTimeout
    | split
    | intro)

end Sys2Proof.Machine
end

