-- ==== Sys2Proof/Laws/KeepsDataPort.lean ====
section
/-!
SUPPORT. The operations of Machine/DataPort.lean keep the canonical forms, the queue and the time.
-/
namespace Sys2Proof.Machine
open Sys2Proof
set_option linter.unreachableTactic false
set_option linter.unusedTactic false

theorem keeps_dpOpen {u s : State} (h : Keeps u s) (n addr inc dir : Nat) : Keeps u (dpOpen n addr inc dir s).s := by
  unfold dpOpen
  repeat' (first
    | with_reducible assumption
    | (extract_lets -underBinder +onlyGivenNames y; clear_value (hy : y = _); first | refine Keeps.sub (u := u) hy ?_ (fun hk => ?_) | refine Keeps.subA (u := u) hy ?_ (fun hk => ?_) | refine Keeps.subP (u := u) hy ?_ (fun hk => ?_) | clear hy)
    | with_reducible refine Keeps.ite ?_ ?_
    | with_reducible apply Keeps.set
    | with_reducible apply Keeps.on
    | with_reducible apply Keeps.off
    | with_reducible apply keeps_ans
    | with_reducible apply keeps_ansOk
    | split
    | intro)
theorem keeps_dpCloseAudit {u s : State} (h : Keeps u s) (k : Nat) (aud : Bool) : Keeps u (dpCloseAudit k aud s) := by
  unfold dpCloseAudit
  repeat' (first
    | with_reducible assumption
    | (extract_lets -underBinder +onlyGivenNames y; clear_value (hy : y = _); first | refine Keeps.sub (u := u) hy ?_ (fun hk => ?_) | refine Keeps.subA (u := u) hy ?_ (fun hk => ?_) | refine Keeps.subP (u := u) hy ?_ (fun hk => ?_) | clear hy)
    | with_reducible refine Keeps.ite ?_ ?_
    | with_reducible apply Keeps.on
    | with_reducible apply keeps_auditTry
    | split
    | intro)
theorem keeps_dpClose {u s : State} (h : Keeps u s) (n handle : Nat) (aud : Bool) : Keeps u (dpClose n handle aud s).s := by
  unfold dpClose
  repeat' (first
    | with_reducible assumption
    | (extract_lets -underBinder +onlyGivenNames y; clear_value (hy : y = _); first | refine Keeps.sub (u := u) hy ?_ (fun hk => ?_) | refine Keeps.subA (u := u) hy ?_ (fun hk => ?_) | refine Keeps.subP (u := u) hy ?_ (fun hk => ?_) | clear hy)
    | with_reducible refine Keeps.ite ?_ ?_
    | with_reducible apply Keeps.off
    | with_reducible apply Keeps.when
    | with_reducible apply keeps_ans
    | with_reducible apply keeps_ansOk
    | with_reducible apply keeps_dpCloseAudit
    | split
    | intro)
theorem keeps_dataAck {u s : State} (h : Keeps u s) (k : Nat) (handle : Nat) (bidx : Nat) (st : Nat) : Keeps u (dataAck k handle bidx st s) := by
  unfold dataAck
  repeat' (first
    | with_reducible assumption
    | (extract_lets -underBinder +onlyGivenNames y; clear_value (hy : y = _); first | refine Keeps.sub (u := u) hy ?_ (fun hk => ?_) | refine Keeps.subA (u := u) hy ?_ (fun hk => ?_) | refine Keeps.subP (u := u) hy ?_ (fun hk => ?_) | clear hy)
    | with_reducible apply Keeps.send
    | with_reducible apply keeps_nextSeq
    | split
    | intro)
theorem keeps_dataRd {u s : State} (h : Keeps u s) (k : Nat) (handle : Nat) (bidx : Nat) (st : Nat) (data : Nat) (n : Nat) : Keeps u (dataRd k handle bidx st data n s) := by
  unfold dataRd
  repeat' (first
    | with_reducible assumption
    | with_reducible apply Keeps.send
    | with_reducible apply keeps_nextSeq
    | split
    | intro)
theorem keeps_dpAdvance {u s : State} (h : Keeps u s) (k : Nat) (n : Nat) : Keeps u (dpAdvance k n s) := by
  unfold dpAdvance
  repeat' (first
    | with_reducible assumption
    | (extract_lets -underBinder +onlyGivenNames y; clear_value (hy : y = _); first | refine Keeps.sub (u := u) hy ?_ (fun hk => ?_) | refine Keeps.subA (u := u) hy ?_ (fun hk => ?_) | refine Keeps.subP (u := u) hy ?_ (fun hk => ?_) | clear hy)
    | with_reducible apply Keeps.set
    | with_reducible apply Keeps.inc
    | split
    | intro)
theorem keeps_dpCut {u s : State} (h : Keeps u s) (k : Nat) (aud : Bool) : Keeps u (dpCut k aud s).2 := by
  unfold dpCut
  repeat' (first
    | with_reducible assumption
    | (extract_lets -underBinder +onlyGivenNames y; clear_value (hy : y = _); first | refine Keeps.sub (u := u) hy ?_ (fun hk => ?_) | refine Keeps.subA (u := u) hy ?_ (fun hk => ?_) | refine Keeps.subP (u := u) hy ?_ (fun hk => ?_) | clear hy)
    | with_reducible apply Keeps.free
    | with_reducible apply keeps_cutTransfer
    | split
    | intro)
theorem keeps_dpStore {u s : State} (h : Keeps u s) (a : Nat) (data : List (BitVec 8)) : Keeps u (dpStore a data s) := by
  unfold dpStore
  repeat' (first
    | with_reducible assumption
    | with_reducible refine Keeps.ite ?_ ?_
    | with_reducible apply Keeps.writeBytes
    | with_reducible apply keeps_kibAdd
    | with_reducible apply keeps_writeLines
    | split
    | intro)
theorem keeps_dataWr {u s : State} (h : Keeps u s) (k handle bidx : Nat) (data : List (BitVec 8)) (os : List Flips) (aud : Bool) : Keeps u (dataWr k handle bidx data os aud s) := by
  unfold dataWr
  repeat' (first
    | with_reducible assumption
    | (extract_lets -underBinder +onlyGivenNames y; clear_value (hy : y = _); first | refine Keeps.sub (u := u) hy ?_ (fun hk => ?_) | refine Keeps.subA (u := u) hy ?_ (fun hk => ?_) | refine Keeps.subP (u := u) hy ?_ (fun hk => ?_) | clear hy)
    | with_reducible refine Keeps.ite ?_ ?_
    | with_reducible apply Keeps.on
    | with_reducible apply Keeps.free
    | with_reducible apply keeps_dataAck
    | with_reducible apply keeps_dpAdvance
    | with_reducible apply keeps_dpCut
    | with_reducible apply keeps_dpStore
    | with_reducible apply keeps_flipLines
    | with_reducible apply keeps_recordLines
    | split
    | intro)
theorem keeps_dataRdReq {u s : State} (h : Keeps u s) (k : Nat) (handle : Nat) (bidx : Nat) (n : Nat) (os : List Flips) (aud : Bool) :
    Keeps u (dataRdReq k handle bidx n os aud s) := by
  unfold dataRdReq
  extract_lets -underBinder r a c v r' t c' g t'
  have hv : Keeps u v := keeps_flipLines h ..
  have ht : Keeps u t := keeps_recordLines hv ..
  have ht' : Keeps u t' := Keeps.withFresh ht _
  have hc : Keeps u c.2 := keeps_dpCut h ..
  have hc' : Keeps u c'.2 := keeps_dpCut ht ..
  clear_value t' c c' t
  split
  · exact h
  split
  · exact keeps_dataRd (h.free _) ..
  split
  · exact keeps_dataRd h ..
  split
  · exact keeps_dataRd h ..
  split
  · exact keeps_dataRd hc ..
  split
  · exact keeps_dataRd hc' ..
  · exact keeps_dataRd (keeps_dpAdvance (keeps_kibAdd ht' ..) ..) ..
theorem keeps_stopFrame {u s : State} (h : Keeps u s) (id : Nat) (ide : Bool) (fmt : CanFmt) (data : List (BitVec 8)) : Keeps u (stopFrame id ide fmt data s) := by
  unfold stopFrame
  repeat' (first
    | with_reducible assumption
    | with_reducible refine Keeps.ite ?_ ?_
    | with_reducible apply Keeps.on
    | with_reducible apply Keeps.incSat
    | with_reducible apply keeps_enterSafeHold
    | refine Keeps.idd ?_
    | split
    | intro)
theorem keeps_canSettle {u s : State} (h : Keeps u s) (p : Nat) (k : Nat) (cands : List (BitVec 4)) : Keeps u (canSettle p k cands s) := by
  unfold canSettle
  repeat' (first
    | with_reducible assumption
    | with_reducible apply Keeps.set
    | with_reducible apply Keeps.on
    | split
    | intro)
theorem keeps_canProbe {u s : State} (h : Keeps u s) (p : Nat) (ok : Bool) (cands : List (BitVec 4)) : Keeps u (canProbe p ok cands s) := by
  unfold canProbe
  repeat' (first
    | with_reducible assumption
    | (extract_lets -underBinder +onlyGivenNames y; clear_value (hy : y = _); first | refine Keeps.sub (u := u) hy ?_ (fun hk => ?_) | refine Keeps.subA (u := u) hy ?_ (fun hk => ?_) | refine Keeps.subP (u := u) hy ?_ (fun hk => ?_) | clear hy)
    | with_reducible refine Keeps.ite ?_ ?_
    | with_reducible apply Keeps.set
    | with_reducible apply keeps_canSettle
    | split
    | intro)
theorem keeps_canBusOff {u s : State} (h : Keeps u s) (p : Nat) : Keeps u (canBusOff p s) := by
  unfold canBusOff
  repeat' (first
    | with_reducible assumption
    | with_reducible apply Keeps.set
    | with_reducible apply Keeps.off
    | split
    | intro)
theorem keeps_measured {u s : State} (h : Keeps u s) (off : Int) : Keeps u (measured off s) := by
  unfold measured
  repeat' (first
    | with_reducible assumption
    | (extract_lets -underBinder +onlyGivenNames y; clear_value (hy : y = _); first | refine Keeps.sub (u := u) hy ?_ (fun hk => ?_) | refine Keeps.subA (u := u) hy ?_ (fun hk => ?_) | refine Keeps.subP (u := u) hy ?_ (fun hk => ?_) | clear hy)
    | with_reducible apply Keeps.off
    | with_reducible apply Keeps.sset
    | with_reducible apply keeps_quotI
    | split
    | intro)
theorem keeps_timeSync {u s : State} (h : Keeps u s) (p : Nat) (t : Nat) : Keeps u (timeSync p t s) := by
  unfold timeSync
  repeat' (first
    | with_reducible assumption
    | (extract_lets -underBinder +onlyGivenNames y; clear_value (hy : y = _); first | refine Keeps.sub (u := u) hy ?_ (fun hk => ?_) | refine Keeps.subA (u := u) hy ?_ (fun hk => ?_) | refine Keeps.subP (u := u) hy ?_ (fun hk => ?_) | clear hy)
    | with_reducible refine Keeps.ite ?_ ?_
    | with_reducible apply Keeps.set
    | with_reducible apply Keeps.on
    | with_reducible apply Keeps.off
    | with_reducible apply Keeps.setBit
    | with_reducible apply Keeps.sset
    | with_reducible apply Keeps.send
    | with_reducible apply Keeps.free
    | with_reducible apply keeps_measured
    | split
    | intro)
theorem keeps_timeHoldover {u s : State} (h : Keeps u s)  : Keeps u (timeHoldover s) := by
  unfold timeHoldover
  repeat' (first
    | with_reducible assumption
    | with_reducible refine Keeps.ite ?_ ?_
    | with_reducible apply Keeps.set
    | split
    | intro)
theorem keeps_interfaceStatus {u s : State} (h : Keeps u s)  : Keeps u (interfaceStatus s) := by
  unfold interfaceStatus
  repeat' (first
    | with_reducible assumption
    | with_reducible refine Keeps.ite ?_ ?_
    | with_reducible apply keeps_writeFields
    | split
    | intro)
theorem keeps_latchTime {u s : State} (h : Keeps u s)  : Keeps u (latchTime s) := by
  unfold latchTime
  repeat' (first
    | with_reducible assumption
    | with_reducible apply Keeps.set
    | split
    | intro)
theorem keeps_execDpOpen (n : Fin 16) (addr : BitVec 40) (inc dir : BitVec 8) (aud : Bool) (s : State) : ∃ u, execDpOpen n addr inc dir aud s = .next u ∧ Keeps s u := by
  refine ⟨_, rfl, ?_⟩
  have h := Keeps.refl s
  repeat' (first
    | with_reducible assumption
    | (extract_lets -underBinder +onlyGivenNames y; clear_value (hy : y = _); first | refine Keeps.sub (u := s) hy ?_ (fun hk => ?_) | refine Keeps.subA (u := s) hy ?_ (fun hk => ?_) | refine Keeps.subP (u := s) hy ?_ (fun hk => ?_) | clear hy)
    | with_reducible refine Keeps.ite ?_ ?_
    | with_reducible apply keeps_audited
    | with_reducible apply keeps_dpOpen
    | with_reducible apply keeps_serve
    | split
    | intro)
theorem keeps_execDpClose (n : Fin 16) (handle : Half) (aud : Bool) (s : State) : ∃ u, execDpClose n handle aud s = .next u ∧ Keeps s u := by
  refine ⟨_, rfl, ?_⟩
  have h := Keeps.refl s
  repeat' (first
    | with_reducible assumption
    | with_reducible apply keeps_dpClose
    | with_reducible apply keeps_serve
    | split
    | intro)
theorem keeps_execDataWr (k : Fin 4) (handle : Half) (bidx : Word) (data : List (BitVec 8)) (os : List Flips) (aud : Bool) (s : State) : ∃ u, execDataWr k handle bidx data os aud s = .next u ∧ Keeps s u := by
  refine ⟨_, rfl, ?_⟩
  have h := Keeps.refl s
  repeat' (first
    | with_reducible assumption
    | with_reducible apply keeps_dataWr
    | split
    | intro)
theorem keeps_execDataRdReq (k : Fin 4) (handle : Half) (bidx : Word) (n : Half) (os : List Flips) (aud : Bool) (s : State) : ∃ u, execDataRdReq k handle bidx n os aud s = .next u ∧ Keeps s u := by
  refine ⟨_, rfl, ?_⟩
  have h := Keeps.refl s
  repeat' (first
    | with_reducible assumption
    | with_reducible apply keeps_dataRdReq
    | split
    | intro)
theorem keeps_execStopFrame (id : BitVec 29) (ide : Bool) (fmt : CanFmt) (data : List (BitVec 8)) (s : State) : ∃ u, execStopFrame id ide fmt data s = .next u ∧ Keeps s u := by
  refine ⟨_, rfl, ?_⟩
  have h := Keeps.refl s
  repeat' (first
    | with_reducible assumption
    | with_reducible apply keeps_stopFrame
    | split
    | intro)
theorem keeps_execCanProbeTimeout (p : Fin 3) (ok : Bool) (cands : List (BitVec 4)) (s : State) : ∃ u, execCanProbeTimeout p ok cands s = .next u ∧ Keeps s u := by
  refine ⟨_, rfl, ?_⟩
  have h := Keeps.refl s
  repeat' (first
    | with_reducible assumption
    | with_reducible apply keeps_canProbe
    | split
    | intro)
theorem keeps_execCanBusOff (p : Fin 3) (s : State) : ∃ u, execCanBusOff p s = .next u ∧ Keeps s u := by
  refine ⟨_, rfl, ?_⟩
  have h := Keeps.refl s
  repeat' (first
    | with_reducible assumption
    | with_reducible apply keeps_canBusOff
    | split
    | intro)
theorem keeps_execTimeSyncReceived (p : Fin 2) (t : BitVec 64) (s : State) : ∃ u, execTimeSyncReceived p t s = .next u ∧ Keeps s u := by
  refine ⟨_, rfl, ?_⟩
  have h := Keeps.refl s
  repeat' (first
    | with_reducible assumption
    | with_reducible apply keeps_timeSync
    | split
    | intro)
theorem keeps_execTimeSyncHoldover  (s : State) : ∃ u, execTimeSyncHoldover s = .next u ∧ Keeps s u := by
  refine ⟨_, rfl, ?_⟩
  have h := Keeps.refl s
  repeat' (first
    | with_reducible assumption
    | with_reducible apply keeps_timeHoldover
    | split
    | intro)
theorem keeps_execArpRequest (p : Fin 2) (s : State) : ∃ u, execArpRequest p s = .next u ∧ Keeps s u := by
  refine ⟨_, rfl, ?_⟩
  have h := Keeps.refl s
  repeat' (first
    | with_reducible assumption
    | with_reducible apply Keeps.send
    | with_reducible apply Keeps.when
    | split
    | intro)
theorem keeps_execIcmpEcho (p : Fin 2) (s : State) : ∃ u, execIcmpEcho p s = .next u ∧ Keeps s u := by
  refine ⟨_, rfl, ?_⟩
  have h := Keeps.refl s
  repeat' (first
    | with_reducible assumption
    | with_reducible apply Keeps.send
    | with_reducible apply Keeps.when
    | split
    | intro)
theorem keeps_execAtimeRead (w : Who) (s : State) : ∃ u, execAtimeRead w s = .next u ∧ Keeps s u := by
  refine ⟨_, rfl, ?_⟩
  have h := Keeps.refl s
  repeat' (first
    | with_reducible assumption
    | with_reducible apply keeps_sidebandReadAfter
    | with_reducible apply keeps_latchTime
    | split
    | intro)
theorem keeps_execInterfaceStatusWrite  (s : State) : ∃ u, execInterfaceStatusWrite s = .next u ∧ Keeps s u := by
  refine ⟨_, rfl, ?_⟩
  have h := Keeps.refl s
  repeat' (first
    | with_reducible assumption
    | with_reducible apply keeps_interfaceStatus
    | split
    | intro)

end Sys2Proof.Machine
end

