-- ==== Sys2Proof/Laws/KeepsGroupCommands.lean ====
section
/-!
SUPPORT. The operations of Machine/GroupCommands.lean keep the canonical forms, the queue and the time.
-/
namespace Sys2Proof.Machine
open Sys2Proof
set_option linter.unreachableTactic false
set_option linter.unusedTactic false

theorem keeps_cvSpread {u s : State} (h : Keeps u s) (c : Nat) : Keeps u (cvSpread c s) := by
  unfold cvSpread
  repeat' (first
    | with_reducible assumption
    | (extract_lets -underBinder +onlyGivenNames y; clear_value (hy : y = _); first | refine Keeps.sub (u := u) hy ?_ (fun hk => ?_) | refine Keeps.subA (u := u) hy ?_ (fun hk => ?_) | refine Keeps.subP (u := u) hy ?_ (fun hk => ?_) | clear hy)
    | with_reducible refine Keeps.ite ?_ ?_
    | with_reducible apply Keeps.set
    | with_reducible apply keeps_ssEnable
    | split
    | intro)
theorem keeps_cvFirmware {u s : State} (h : Keeps u s) (w : Who) (c : Nat) : Keeps u (cvFirmware w c s) := by
  unfold cvFirmware
  repeat' (first
    | with_reducible assumption
    | with_reducible apply keeps_cvSpread
    | split
    | intro)
theorem keeps_groupStarted {u s : State} (h : Keeps u s) (w : Who) (p : Pins) (g : Nat) : Keeps u (groupStarted w p g s) := by
  unfold groupStarted
  repeat' (first
    | with_reducible assumption
    | with_reducible apply Keeps.set
    | with_reducible apply keeps_auxStart
    | with_reducible apply keeps_catchStart
    | with_reducible apply keeps_cvFirmware
    | with_reducible apply keeps_diagAbort
    | with_reducible apply keeps_lineStart
    | split
    | intro)
theorem keeps_firmwarePrepares {u s : State} (h : Keeps u s) (w : Who) (g : Nat) : Keeps u (firmwarePrepares w g s) := by
  unfold firmwarePrepares
  repeat' (first
    | with_reducible assumption
    | with_reducible apply keeps_chargeChannels
    | with_reducible apply keeps_loadPpi
    | split
    | intro)
theorem keeps_groupOn {u s : State} (h : Keeps u s) (w : Who) (p : Pins) (g : Nat) : Keeps u (groupOn w p g s) := by
  unfold groupOn
  repeat' (first
    | with_reducible assumption
    | (extract_lets -underBinder +onlyGivenNames y; clear_value (hy : y = _); first | refine Keeps.sub (u := u) hy ?_ (fun hk => ?_) | refine Keeps.subA (u := u) hy ?_ (fun hk => ?_) | refine Keeps.subP (u := u) hy ?_ (fun hk => ?_) | clear hy)
    | with_reducible refine Keeps.ite ?_ ?_
    | with_reducible apply keeps_firmwarePrepares
    | with_reducible apply keeps_groupEnable
    | with_reducible apply keeps_groupStarted
    | split
    | intro)
theorem keeps_ogEnWrite {u s : State} (h : Keeps u s) (w : Who) (p : Pins) (v : Nat) : Keeps u (ogEnWrite w p v s) := by
  unfold ogEnWrite
  repeat' (first
    | with_reducible assumption
    | with_reducible refine Keeps.ite ?_ ?_
    | with_reducible apply Keeps.forUpTo
    | with_reducible apply keeps_disableGroup
    | with_reducible apply keeps_groupOn
    | split
    | intro)
theorem keeps_enableWrite {u s : State} (h : Keeps u s) (w : Who) (p : Pins) (g : Nat) : Keeps u (enableWrite w p g s) := by
  unfold enableWrite
  repeat' (first
    | with_reducible assumption
    | (extract_lets -underBinder +onlyGivenNames y; clear_value (hy : y = _); first | refine Keeps.sub (u := u) hy ?_ (fun hk => ?_) | refine Keeps.subA (u := u) hy ?_ (fun hk => ?_) | refine Keeps.subP (u := u) hy ?_ (fun hk => ?_) | clear hy)
    | with_reducible apply Keeps.send
    | with_reducible apply Keeps.when
    | with_reducible apply keeps_ogEnWrite
    | with_reducible apply keeps_probeStart
    | with_reducible apply keeps_sideband
    | split
    | intro)
theorem keeps_disableWrite {u s : State} (h : Keeps u s) (w : Who) (g : Nat) : Keeps u (disableWrite w g s) := by
  unfold disableWrite
  repeat' (first
    | with_reducible assumption
    | (extract_lets -underBinder +onlyGivenNames y; clear_value (hy : y = _); first | refine Keeps.sub (u := u) hy ?_ (fun hk => ?_) | refine Keeps.subA (u := u) hy ?_ (fun hk => ?_) | refine Keeps.subP (u := u) hy ?_ (fun hk => ?_) | clear hy)
    | with_reducible apply keeps_sideband
    | with_reducible apply keeps_ogEnWrite
    | split
    | intro)
theorem keeps_legFaultReaction {u s : State} (h : Keeps u s) (g : Nat) (why : Nat) : Keeps u (legFaultReaction g why s) := by
  unfold legFaultReaction
  repeat' (first
    | with_reducible assumption
    | with_reducible refine Keeps.ite ?_ ?_
    | with_reducible apply keeps_setSafForce
    | split
    | intro)
theorem keeps_groupForceReaction {u s : State} (h : Keeps u s) (g : Nat) : Keeps u (groupForceReaction g s) := by
  unfold groupForceReaction
  repeat' (first
    | with_reducible assumption
    | with_reducible refine Keeps.ite ?_ ?_
    | with_reducible apply Keeps.send
    | with_reducible apply keeps_enterSafeHold
    | split
    | intro)
theorem keeps_windowOpen {u s : State} (h : Keeps u s) (act : Bool) (m : Nat) : Keeps u (windowOpen act m s) := by
  unfold windowOpen
  repeat' (first
    | with_reducible assumption
    | (extract_lets -underBinder +onlyGivenNames y; clear_value (hy : y = _); first | refine Keeps.sub (u := u) hy ?_ (fun hk => ?_) | refine Keeps.subA (u := u) hy ?_ (fun hk => ?_) | refine Keeps.subP (u := u) hy ?_ (fun hk => ?_) | clear hy)
    | with_reducible refine Keeps.ite ?_ ?_
    | with_reducible apply Keeps.setB
    | with_reducible apply Keeps.on
    | with_reducible apply Keeps.off
    | with_reducible apply Keeps.setBit
    | with_reducible apply Keeps.forUpTo
    | split
    | intro)
theorem keeps_windowClose {u s : State} (h : Keeps u s) (ok : Bool) : Keeps u (windowClose ok s) := by
  unfold windowClose
  repeat' (first
    | with_reducible assumption
    | with_reducible refine Keeps.ite ?_ ?_
    | with_reducible apply keeps_dropSafForce
    | with_reducible apply keeps_enterSafeHold
    | with_reducible apply keeps_setLock
    | split
    | intro)
theorem keeps_converterObs {u s : State} (h : Keeps u s) : (o : ProgObs) → Keeps u (converterObs o s)
  | .converter .. => keeps_cvSample h ..
  | .outer => keeps_cvOuter h
  | .bus => keeps_busSample h
  | .motor .. | .observer .. | .torque .. | .request .. => h
theorem keeps_applyObs {u s : State} (h : Keeps u s) (obs : List ProgObs) : Keeps u (applyObs obs s) :=
  h.foldl _ (fun _ _ hv => keeps_converterObs (keeps_tractionObs hv _) _)
theorem keeps_execGroupEnable (w : Who) (g : GroupIx) (p : Pins) (s : State) : ∃ u, execGroupEnable w g p s = .next u ∧ Keeps s u := by
  refine ⟨_, rfl, ?_⟩
  have h := Keeps.refl s
  repeat' (first
    | with_reducible assumption
    | with_reducible apply keeps_enableWrite
    | split
    | intro)
theorem keeps_execGroupDisable (w : Who) (g : GroupIx) (s : State) : ∃ u, execGroupDisable w g s = .next u ∧ Keeps s u := by
  refine ⟨_, rfl, ?_⟩
  have h := Keeps.refl s
  repeat' (first
    | with_reducible assumption
    | with_reducible apply keeps_disableWrite
    | split
    | intro)
theorem keeps_execInternalSourceAssert (src : Fin 77) (s : State) : ∃ u, execInternalSourceAssert src s = .next u ∧ Keeps s u := by
  refine ⟨_, rfl, ?_⟩
  have h := Keeps.refl s
  repeat' (first
    | with_reducible assumption
    | (extract_lets -underBinder +onlyGivenNames y; clear_value (hy : y = _); first | refine Keeps.sub (u := s) hy ?_ (fun hk => ?_) | refine Keeps.subA (u := s) hy ?_ (fun hk => ?_) | refine Keeps.subP (u := s) hy ?_ (fun hk => ?_) | clear hy)
    | with_reducible refine Keeps.ite ?_ ?_
    | with_reducible apply keeps_assertSource
    | with_reducible apply keeps_injAbort
    | split
    | intro)
theorem keeps_execLegFaultReaction (g : GroupIx) (why : Fin 3) (s : State) : ∃ u, execLegFaultReaction g why s = .next u ∧ Keeps s u := by
  refine ⟨_, rfl, ?_⟩
  have h := Keeps.refl s
  repeat' (first
    | with_reducible assumption
    | with_reducible apply keeps_legFaultReaction
    | split
    | intro)
theorem keeps_execGroupForceReaction (g : GroupIx) (s : State) : ∃ u, execGroupForceReaction g s = .next u ∧ Keeps s u := by
  refine ⟨_, rfl, ?_⟩
  have h := Keeps.refl s
  repeat' (first
    | with_reducible assumption
    | with_reducible apply keeps_groupForceReaction
    | split
    | intro)
theorem keeps_execReconfigurationWindowOpen (act : Bool) (m : Half) (s : State) : ∃ u, execReconfigurationWindowOpen act m s = .next u ∧ Keeps s u := by
  refine ⟨_, rfl, ?_⟩
  have h := Keeps.refl s
  repeat' (first
    | with_reducible assumption
    | with_reducible apply keeps_windowOpen
    | split
    | intro)
theorem keeps_execReconfigurationWindowClose (ok : Bool) (s : State) : ∃ u, execReconfigurationWindowClose ok s = .next u ∧ Keeps s u := by
  refine ⟨_, rfl, ?_⟩
  have h := Keeps.refl s
  repeat' (first
    | with_reducible assumption
    | with_reducible apply keeps_windowClose
    | split
    | intro)
theorem keeps_execWindowTimeout  (s : State) : ∃ u, execWindowTimeout s = .next u ∧ Keeps s u := by
  refine ⟨_, rfl, ?_⟩
  have h := Keeps.refl s
  repeat' (first
    | with_reducible assumption
    | with_reducible apply keeps_windowClose
    | split
    | intro)
theorem keeps_execSampleEnd (e : EngIx) (f : Ecc) (obs : List ProgObs) (s : State) : ∃ u, execSampleEnd e f obs s = .next u ∧ Keeps s u := by
  refine ⟨_, rfl, ?_⟩
  have h := Keeps.refl s
  repeat' (first
    | with_reducible assumption
    | with_reducible apply keeps_applyObs
    | with_reducible apply keeps_instr
    | with_reducible apply keeps_sampleEnd
    | split
    | intro)

end Sys2Proof.Machine
end

