-- ==== Sys2Proof/Laws/KeepsWrites.lean ====
section
/-!
SUPPORT. The operations of Machine/Writes.lean keep the canonical forms, the queue and the time.
-/
namespace Sys2Proof.Machine
open Sys2Proof
set_option linter.unreachableTactic false
set_option linter.unusedTactic false

theorem keeps_modeRegWrite {u s : State} (h : Keeps u s) (p : Pins) (v : Nat) : Keeps u (modeRegWrite p v s) := by
  unfold modeRegWrite
  repeat' (first
    | with_reducible assumption
    | (extract_lets -underBinder +onlyGivenNames y; clear_value (hy : y = _); first | refine Keeps.sub (u := u) hy ?_ (fun hk => ?_) | refine Keeps.subA (u := u) hy ?_ (fun hk => ?_) | refine Keeps.subP (u := u) hy ?_ (fun hk => ?_) | clear hy)
    | with_reducible refine Keeps.ite ?_ ?_
    | with_reducible apply Keeps.clrMask
    | with_reducible apply keeps_enterSafeHold
    | with_reducible apply keeps_requestMode
    | split
    | intro)
theorem keeps_safWrite {u s : State} (h : Keeps u s) (w : Who) (p : Pins) (a v o : Nat) : Keeps u (safWrite w p a v o s) := by
  unfold safWrite
  repeat' (first
    | with_reducible assumption
    | (extract_lets -underBinder +onlyGivenNames y; clear_value (hy : y = _); first | refine Keeps.sub (u := u) hy ?_ (fun hk => ?_) | refine Keeps.subA (u := u) hy ?_ (fun hk => ?_) | refine Keeps.subP (u := u) hy ?_ (fun hk => ?_) | clear hy)
    | with_reducible refine Keeps.ite ?_ ?_
    | with_reducible apply Keeps.set
    | with_reducible apply Keeps.off
    | with_reducible apply Keeps.when
    | with_reducible apply keeps_islandCtrl
    | with_reducible apply keeps_modeRegWrite
    | with_reducible apply keeps_setLock
    | with_reducible apply keeps_storeWord
    | with_reducible apply keeps_wdKick
    | split
    | intro)
theorem keeps_engineWrite {u s : State} (h : Keeps u s) (w : Who) (a v e o : Nat) : Keeps u (engineWrite w a v e o s) := by
  unfold engineWrite
  repeat' (first
    | with_reducible assumption
    | (extract_lets -underBinder +onlyGivenNames y; clear_value (hy : y = _); first | refine Keeps.sub (u := u) hy ?_ (fun hk => ?_) | refine Keeps.subA (u := u) hy ?_ (fun hk => ?_) | refine Keeps.subP (u := u) hy ?_ (fun hk => ?_) | clear hy)
    | with_reducible refine Keeps.ite ?_ ?_
    | with_reducible apply Keeps.set
    | with_reducible apply Keeps.on
    | with_reducible apply Keeps.off
    | with_reducible apply Keeps.when
    | with_reducible apply keeps_commitWrite
    | with_reducible apply keeps_groupRegWrite
    | with_reducible apply keeps_injAbort
    | with_reducible apply keeps_injFields
    | with_reducible apply keeps_injStart
    | with_reducible apply keeps_leCtrlWrite
    | with_reducible apply keeps_lsCtrlWrite
    | with_reducible apply keeps_storeWord
    | with_reducible apply keeps_trcArm
    | with_reducible apply keeps_trcCtrlWrite
    | with_reducible apply keeps_trcForce
    | split
    | intro)
theorem keeps_loopWrite {u s : State} (h : Keeps u s) (w : Who) (a x : Nat) : Keeps u (loopWrite w a x s) := by
  unfold loopWrite
  repeat' (first
    | with_reducible assumption
    | (extract_lets -underBinder +onlyGivenNames y; clear_value (hy : y = _); first | refine Keeps.sub (u := u) hy ?_ (fun hk => ?_) | refine Keeps.subA (u := u) hy ?_ (fun hk => ?_) | refine Keeps.subP (u := u) hy ?_ (fun hk => ?_) | clear hy)
    | with_reducible refine Keeps.ite ?_ ?_
    | with_reducible apply Keeps.forUpTo
    | with_reducible apply keeps_chartInval
    | with_reducible apply keeps_engineWrite
    | with_reducible apply keeps_permitClear
    | with_reducible apply keeps_refreshWarm
    | with_reducible apply keeps_storeWord
    | split
    | intro)
theorem keeps_domSsWrite {u s : State} (h : Keeps u s) (w : Who) (a : Nat) (d : Nat) (v : Nat) : Keeps u (domSsWrite w a d v s) := by
  unfold domSsWrite
  repeat' (first
    | with_reducible assumption
    | (extract_lets -underBinder +onlyGivenNames y; clear_value (hy : y = _); first | refine Keeps.sub (u := u) hy ?_ (fun hk => ?_) | refine Keeps.subA (u := u) hy ?_ (fun hk => ?_) | refine Keeps.subP (u := u) hy ?_ (fun hk => ?_) | clear hy)
    | with_reducible refine Keeps.ite ?_ ?_
    | with_reducible apply keeps_storeWord
    | with_reducible apply keeps_ssEnable
    | split
    | intro)
theorem keeps_domWrite {u s : State} (h : Keeps u s) (w : Who) (a : Nat) (v : Nat) (d : Nat) (r : Nat) : Keeps u (domWrite w a v d r s) := by
  unfold domWrite
  repeat' (first
    | with_reducible assumption
    | with_reducible refine Keeps.ite ?_ ?_
    | with_reducible apply Keeps.on
    | with_reducible apply keeps_storeWord
    | with_reducible apply keeps_loadAll
    | with_reducible apply keeps_periodWrite
    | with_reducible apply keeps_domCtrlWrite
    | with_reducible apply keeps_domSsWrite
    | split
    | intro)
theorem keeps_legWrite {u s : State} (h : Keeps u s) (w : Who) (a : Nat) (v : Nat) (n : Nat) (r : Nat) : Keeps u (legWrite w a v n r s) := by
  unfold legWrite
  repeat' (first
    | with_reducible assumption
    | with_reducible apply keeps_storeWord
    | with_reducible apply keeps_dutyWrite
    | with_reducible apply keeps_legCfgWrite
    | split
    | intro)
theorem keeps_linkWrite {u s : State} (h : Keeps u s) (w : Who) (a : Nat) (v : Nat) (n : Nat) (r : Nat) : Keeps u (linkWrite w a v n r s) := by
  unfold linkWrite
  repeat' (first
    | with_reducible assumption
    | with_reducible refine Keeps.ite ?_ ?_
    | with_reducible apply keeps_storeWord
    | with_reducible apply keeps_profileWrite
    | with_reducible apply keeps_linkCtrl
    | split
    | intro)
theorem keeps_edgeWrite {u s : State} (h : Keeps u s) (w : Who) (p : Pins) (a v o : Nat) : Keeps u (edgeWrite w p a v o s) := by
  unfold edgeWrite
  repeat' (first
    | with_reducible assumption
    | with_reducible refine Keeps.ite ?_ ?_
    | with_reducible apply Keeps.forUpTo
    | with_reducible apply keeps_domWrite
    | with_reducible apply keeps_domainStart
    | with_reducible apply keeps_edgeStatWrite
    | with_reducible apply keeps_legWrite
    | with_reducible apply keeps_linkWrite
    | with_reducible apply keeps_loadAllMask
    | with_reducible apply keeps_ogEnWrite
    | with_reducible apply keeps_playerCfgWrite
    | with_reducible apply keeps_storeWord
    | with_reducible apply keeps_tsCtrlWrite
    | split
    | intro)
theorem keeps_grdWrite {u s : State} (h : Keeps u s) (w : Who) (a : Nat) (v : Nat) (o : Nat) : Keeps u (grdWrite w a v o s) := by
  unfold grdWrite
  repeat' (first
    | with_reducible assumption
    | (extract_lets -underBinder +onlyGivenNames y; clear_value (hy : y = _); first | refine Keeps.sub (u := u) hy ?_ (fun hk => ?_) | refine Keeps.subA (u := u) hy ?_ (fun hk => ?_) | refine Keeps.subP (u := u) hy ?_ (fun hk => ?_) | clear hy)
    | with_reducible refine Keeps.ite ?_ ?_
    | with_reducible apply keeps_storeWord
    | with_reducible apply keeps_safForceWrite
    | with_reducible apply keeps_sourceLatchClear
    | with_reducible apply keeps_groupLatchClear
    | with_reducible apply keeps_legFaultClear
    | with_reducible apply keeps_alegFaultClear
    | with_reducible apply keeps_levelChanged
    | with_reducible apply keeps_bandWrite
    | with_reducible apply keeps_gfiConfigured
    | with_reducible apply keeps_windowConfigured
    | split
    | intro)
theorem keeps_snsWrite {u s : State} (h : Keeps u s) (w : Who) (a : Nat) (v : Nat) (o : Nat) : Keeps u (snsWrite w a v o s) := by
  unfold snsWrite
  repeat' (first
    | with_reducible assumption
    | (extract_lets -underBinder +onlyGivenNames y; clear_value (hy : y = _); first | refine Keeps.sub (u := u) hy ?_ (fun hk => ?_) | refine Keeps.subA (u := u) hy ?_ (fun hk => ?_) | refine Keeps.subP (u := u) hy ?_ (fun hk => ?_) | clear hy)
    | with_reducible refine Keeps.ite ?_ ?_
    | with_reducible apply Keeps.when
    | with_reducible apply keeps_storeWord
    | with_reducible apply keeps_sdclkWrite
    | with_reducible apply keeps_sdCfgWrite
    | with_reducible apply keeps_fcCfgWrite
    | with_reducible apply keeps_fcTrig
    | with_reducible apply keeps_resCfgWrite
    | with_reducible apply keeps_hkCtrlWrite
    | with_reducible apply keeps_hkUrgent
    | with_reducible apply keeps_hkChWrite
    | with_reducible apply keeps_cpWrite
    | split
    | intro)
theorem keeps_actWrite {u s : State} (h : Keeps u s) (w : Who) (a : Nat) (v : Nat) (o : Nat) : Keeps u (actWrite w a v o s) := by
  unfold actWrite
  repeat' (first
    | with_reducible assumption
    | (extract_lets -underBinder +onlyGivenNames y; clear_value (hy : y = _); first | refine Keeps.sub (u := u) hy ?_ (fun hk => ?_) | refine Keeps.subA (u := u) hy ?_ (fun hk => ?_) | refine Keeps.subP (u := u) hy ?_ (fun hk => ?_) | clear hy)
    | with_reducible refine Keeps.ite ?_ ?_
    | with_reducible apply keeps_storeWord
    | with_reducible apply keeps_brCfgWrite
    | with_reducible apply keeps_diagWrite
    | split
    | intro)
theorem keeps_wordMemWrite {u s : State} (h : Keeps u s) (a : Nat) (v : Nat) : Keeps u (wordMemWrite a v s) := by
  unfold wordMemWrite
  repeat' (first
    | with_reducible assumption
    | (extract_lets -underBinder +onlyGivenNames y; clear_value (hy : y = _); first | refine Keeps.sub (u := u) hy ?_ (fun hk => ?_) | refine Keeps.subA (u := u) hy ?_ (fun hk => ?_) | refine Keeps.subP (u := u) hy ?_ (fun hk => ?_) | clear hy)
    | with_reducible refine Keeps.ite ?_ ?_
    | with_reducible apply Keeps.on
    | with_reducible apply Keeps.writeN
    | with_reducible apply keeps_tideStoreWrite
    | split
    | intro)
theorem keeps_registerEffect {u s : State} (h : Keeps u s) (w : Who) (p : Pins) (a v : Nat) : Keeps u (registerEffect w p a v s) := by
  unfold registerEffect
  repeat' (first
    | with_reducible assumption
    | (extract_lets -underBinder +onlyGivenNames y; clear_value (hy : y = _); first | refine Keeps.sub (u := u) hy ?_ (fun hk => ?_) | refine Keeps.subA (u := u) hy ?_ (fun hk => ?_) | refine Keeps.subP (u := u) hy ?_ (fun hk => ?_) | clear hy)
    | with_reducible refine Keeps.ite ?_ ?_
    | with_reducible apply Keeps.set
    | with_reducible apply keeps_actWrite
    | with_reducible apply keeps_edgeWrite
    | with_reducible apply keeps_frBaseWrite
    | with_reducible apply keeps_frSizeWrite
    | with_reducible apply keeps_grdWrite
    | with_reducible apply keeps_loopWrite
    | with_reducible apply keeps_safWrite
    | with_reducible apply keeps_snsWrite
    | with_reducible apply keeps_storeWord
    | with_reducible apply keeps_wordMemWrite
    | split
    | intro)
theorem keeps_misfit {u s : State} (h : Keeps u s) (w : Who) (a : Nat) : Keeps u (misfit w a s) := by
  unfold misfit
  repeat' (first
    | with_reducible assumption
    | with_reducible refine Keeps.ite ?_ ?_
    | with_reducible apply Keeps.on
    | with_reducible apply Keeps.answer
    | split
    | intro)
theorem keeps_registerWrite {u s : State} (h : Keeps u s) (w : Who) (p : Pins) (a : Nat) (v : Nat) (wide : Bool) : Keeps u (registerWrite w p a v wide s) := by
  unfold registerWrite
  repeat' (first
    | with_reducible assumption
    | with_reducible refine Keeps.ite ?_ ?_
    | with_reducible apply keeps_refusedKick
    | with_reducible apply keeps_sideband
    | with_reducible apply keeps_registerEffect
    | with_reducible apply keeps_misfit
    | split
    | intro)
theorem keeps_execRegisterWrite (w : Who) (a : BitVec 40) (wide : Bool) (v : Word) (p : Pins) (same : Word) (s : State) : ∃ u, execRegisterWrite w a wide v p same s = .next u ∧ Keeps s u := by
  refine ⟨_, rfl, ?_⟩
  have h := Keeps.refl s
  repeat' (first
    | with_reducible assumption
    | with_reducible apply keeps_registerWrite
    | split
    | intro)

end Sys2Proof.Machine
end

