-- ==== Sys2Proof/Laws/Exec.lean ====
section
/-!
SUPPORT. Every command answers a next state and keeps the canonical forms, the rest of the queue and the time: what a proof
about all commands cites in place of the meanings.
-/
namespace Sys2Proof.Machine
open Sys2Proof

/-- Every command answers a next state, in which the canonical forms, the queue and the time stand as before. -/
theorem exec_keeps (c : Instr) (s : State) : ∃ t, exec c s = .next t ∧ Keeps s t := by
  cases c with
  | registerWrite w_ a_ wide_ v_ p_ same_ => exact keeps_execRegisterWrite w_ a_ wide_ v_ p_ same_ s
  | reqStateWrite w_ n_ st_ force_ => exact keeps_execReqStateWrite w_ n_ st_ force_ s
  | islandTransitionComplete n_ => exact keeps_execIslandTransitionComplete n_ s
  | drainComplete n_ => exact keeps_execDrainComplete n_ s
  | drainTimeout n_ => exact keeps_execDrainTimeout n_ s
  | straitWordReceive i_ j_ payload_ par_ kind_ kpar_ => exact keeps_execStraitWordReceive i_ j_ payload_ par_ kind_ kpar_ s
  | straitTimeout i_ n_ => exact keeps_execStraitTimeout i_ n_ s
  | timeoutReaction n_ => exact keeps_execTimeoutReaction n_ s
  | parityReaction n_ => exact keeps_execParityReaction n_ s
  | aonOscillatorCheck stopped_ dev_ => exact keeps_execAonOscillatorCheck stopped_ dev_ s
  | modeChangeComplete => exact keeps_execModeChangeComplete  s
  | chartLookup e_ f_ o_ => exact keeps_execChartLookup e_ f_ o_ s
  | lookupLate e_ => exact keeps_execLookupLate e_ s
  | tileFillComplete m_ tile_ => exact keeps_execTileFillComplete m_ tile_ s
  | tileFillClosed => exact keeps_execTileFillClosed  s
  | chartInval w_ v_ => exact keeps_execChartInval w_ v_ s
  | tideStoreWrite w_ p_ k_ v_ => exact keeps_execTideStoreWrite w_ p_ k_ v_ s
  | loadPpiWrite w_ p_ v_ => exact keeps_execLoadPpiWrite w_ p_ v_ s
  | tideLoadComplete p_ => exact keeps_execTideLoadComplete p_ s
  | tideLoadClosed p_ => exact keeps_execTideLoadClosed p_ s
  | pageRequest p_ ppi_ => exact keeps_execPageRequest p_ ppi_ s
  | tideMissLimit p_ => exact keeps_execTideMissLimit p_ s
  | activationStep a_ => exact keeps_execActivationStep a_ s
  | engineStart w_ e_ v_ => exact keeps_execEngineStart w_ e_ v_ s
  | engineDisable w_ e_ v_ => exact keeps_execEngineDisable w_ e_ v_ s
  | faultClr w_ e_ v_ => exact keeps_execFaultClr w_ e_ v_ s
  | frameBoundary e_ => exact keeps_execFrameBoundary e_ s
  | inputPortArrival e_ p_ v_ => exact keeps_execInputPortArrival e_ p_ v_ s
  | sampleTrigger e_ i_ => exact keeps_execSampleTrigger e_ i_ s
  | sampleEnd e_ f_ obs_ => exact keeps_execSampleEnd e_ f_ obs_ s
  | portClosed e_ => exact keeps_execPortClosed e_ s
  | deadlineMiss e_ i_ late_ => exact keeps_execDeadlineMiss e_ i_ late_ s
  | missLimitReached e_ k_ => exact keeps_execMissLimitReached e_ k_ s
  | ctrl e_ f_ o_ => exact keeps_execCtrl e_ f_ o_ s
  | move e_ f_ o_ => exact keeps_execMove e_ f_ o_ s
  | arith e_ f_ o_ d_ a_ b_ => exact keeps_execArith e_ f_ o_ d_ a_ b_ s
  | mac e_ f_ q_ acc_ d_ a_ b_ => exact keeps_execMac e_ f_ q_ acc_ d_ a_ b_ s
  | trig e_ f_ o_ d_ a_ b_ => exact keeps_execTrig e_ f_ o_ d_ a_ b_ s
  | xform e_ f_ o_ d0_ d1_ a_ b_ c_ => exact keeps_execXform e_ f_ o_ d0_ d1_ a_ b_ c_ s
  | port e_ f_ o_ => exact keeps_execPort e_ f_ o_ s
  | slew e_ f_ k_ => exact keeps_execSlew e_ f_ k_ s
  | gain e_ f_ k_ => exact keeps_execGain e_ f_ k_ s
  | law e_ f_ k_ d_ => exact keeps_execLaw e_ f_ k_ d_ s
  | model e_ f_ => exact keeps_execModel e_ f_ s
  | plausibilityViolation e_ k_ => exact keeps_execPlausibilityViolation e_ k_ s
  | holdRelease e_ k_ => exact keeps_execHoldRelease e_ k_ s
  | primingEnd e_ k_ => exact keeps_execPrimingEnd e_ k_ s
  | trace e_ f_ o_ => exact keeps_execTrace e_ f_ o_ s
  | esc e_ f_ o_ => exact keeps_execEsc e_ f_ o_ s
  | illegalInstruction e_ f_ => exact keeps_execIllegalInstruction e_ f_ s
  | programMemoryWrite w_ e_ k_ v_ => exact keeps_execProgramMemoryWrite w_ e_ k_ v_ s
  | scheduleBankWrite w_ e_ b_ k_ v_ => exact keeps_execScheduleBankWrite w_ e_ b_ k_ v_ s
  | commit w_ e_ => exact keeps_execCommit w_ e_ s
  | commitCheckDone e_ => exact keeps_execCommitCheckDone e_ s
  | apply w_ e_ k_ v_ => exact keeps_execApply w_ e_ k_ v_ s
  | reprime w_ e_ k_ v_ => exact keeps_execReprime w_ e_ k_ v_ s
  | groupRegisterWrite w_ e_ g_ v_ => exact keeps_execGroupRegisterWrite w_ e_ g_ v_ s
  | debugHalt x_ => exact keeps_execDebugHalt x_ s
  | debugResume x_ => exact keeps_execDebugResume x_ s
  | traceDone e_ => exact keeps_execTraceDone e_ s
  | streamCopyComplete e_ => exact keeps_execStreamCopyComplete e_ s
  | trcCtrlWrite w_ e_ v_ => exact keeps_execTrcCtrlWrite w_ e_ v_ s
  | trcSigWrite w_ e_ i_ v_ => exact keeps_execTrcSigWrite w_ e_ i_ v_ s
  | arm w_ e_ v_ => exact keeps_execArm w_ e_ v_ s
  | traceForce w_ e_ post_ => exact keeps_execTraceForce w_ e_ post_ s
  | traceThrottleWrite w_ v_ => exact keeps_execTraceThrottleWrite w_ v_ s
  | injectionStart w_ e_ v_ => exact keeps_execInjectionStart w_ e_ v_ s
  | injectionStop w_ e_ v_ => exact keeps_execInjectionStop w_ e_ v_ s
  | injectionDone e_ => exact keeps_execInjectionDone e_ s
  | permitClear e_ => exact keeps_execPermitClear e_ s
  | domainStart w_ m_ => exact keeps_execDomainStart w_ m_ s
  | syncStart w_ start_ ldall_ => exact keeps_execSyncStart w_ start_ ldall_ s
  | domainStop w_ d_ dbl_ strict_ => exact keeps_execDomainStop w_ d_ dbl_ strict_ s
  | loadAllRequest w_ m_ => exact keeps_execLoadAllRequest w_ m_ s
  | sampleInstant d_ half_ => exact keeps_execSampleInstant d_ half_ s
  | reloadBoundary d_ => exact keeps_execReloadBoundary d_ s
  | ssEnable w_ d_ en_ => exact keeps_execSsEnable w_ d_ en_ s
  | halfBoundary d_ => exact keeps_execHalfBoundary d_ s
  | domainTriggerEvent d_ e_ => exact keeps_execDomainTriggerEvent d_ e_ s
  | groupEnable w_ g_ p_ => exact keeps_execGroupEnable w_ g_ p_ s
  | groupDisable w_ g_ => exact keeps_execGroupDisable w_ g_ s
  | legCfgWrite w_ n_ r_ v_ => exact keeps_execLegCfgWrite w_ n_ r_ v_ s
  | dutyChannelWrite c_ v_ => exact keeps_execDutyChannelWrite c_ v_ s
  | rateWrite w_ p_ v_ => exact keeps_execRateWrite w_ p_ v_ s
  | corrWrite p_ v_ => exact keeps_execCorrWrite p_ v_ s
  | angleSetWrite w_ p_ v_ => exact keeps_execAngleSetWrite w_ p_ v_ s
  | channelEdge n_ r_ => exact keeps_execChannelEdge n_ r_ s
  | deadTimeExpiry n_ => exact keeps_execDeadTimeExpiry n_ s
  | ilFault n_ => exact keeps_execIlFault n_ s
  | tideEntryFire p_ => exact keeps_execTideEntryFire p_ s
  | sixstepCrossing n_ => exact keeps_execSixstepCrossing n_ s
  | hallStateChange b_ v_ => exact keeps_execHallStateChange b_ v_ s
  | bootIntervalExpiry n_ => exact keeps_execBootIntervalExpiry n_ s
  | refreshPulseEnd n_ => exact keeps_execRefreshPulseEnd n_ s
  | bootUvReport n_ => exact keeps_execBootUvReport n_ s
  | bootUvTest n_ => exact keeps_execBootUvTest n_ s
  | edgeClockLoss => exact keeps_execEdgeClockLoss  s
  | clkLostClear w_ v_ => exact keeps_execClkLostClear w_ v_ s
  | gfiAssert i_ ns_ => exact keeps_execGfiAssert i_ ns_ s
  | gfiGlitch i_ ns_ => exact keeps_execGfiGlitch i_ ns_ s
  | gfiDeassert i_ => exact keeps_execGfiDeassert i_ s
  | windowComparatorChange c_ v_ => exact keeps_execWindowComparatorChange c_ v_ s
  | internalSourceAssert src_ => exact keeps_execInternalSourceAssert src_ s
  | internalSourceDeassert src_ => exact keeps_execInternalSourceDeassert src_ s
  | cmWindowEnd m_ count_ => exact keeps_execCmWindowEnd m_ count_ s
  | safForceWrite w_ m_ => exact keeps_execSafForceWrite w_ m_ s
  | sourceLatchClear w_ k_ m_ => exact keeps_execSourceLatchClear w_ k_ m_ s
  | groupLatchClear w_ m_ => exact keeps_execGroupLatchClear w_ m_ s
  | legFaultLatchClear w_ m_ => exact keeps_execLegFaultLatchClear w_ m_ s
  | alegFaultLatchClear w_ m_ => exact keeps_execAlegFaultLatchClear w_ m_ s
  | safeDeadTimeExpiry g_ => exact keeps_execSafeDeadTimeExpiry g_ s
  | bandEvaluation => exact keeps_execBandEvaluation  s
  | bandSelectWrite w_ m_ => exact keeps_execBandSelectWrite w_ m_ s
  | ringOscillatorCheck stopped_ dev_ => exact keeps_execRingOscillatorCheck stopped_ dev_ s
  | legFaultReaction g_ why_ => exact keeps_execLegFaultReaction g_ why_ s
  | safForceRelease g_ => exact keeps_execSafForceRelease g_ s
  | groupForceReaction g_ => exact keeps_execGroupForceReaction g_ s
  | heartbeatTransition n_ => exact keeps_execHeartbeatTransition n_ s
  | faultInstant n_ pos_ => exact keeps_execFaultInstant n_ pos_ s
  | linkWaitExpiry n_ => exact keeps_execLinkWaitExpiry n_ s
  | cap n_ c_ => exact keeps_execCap n_ c_ s
  | ack n_ code_ echo_ => exact keeps_execAck n_ code_ echo_ s
  | rateChangeSilenceEnd n_ => exact keeps_execRateChangeSilenceEnd n_ s
  | nak n_ code_ cause_ => exact keeps_execNak n_ code_ cause_ s
  | replyTimeout n_ => exact keeps_execReplyTimeout n_ s
  | settleRetryWait n_ => exact keeps_execSettleRetryWait n_ s
  | failTimeout n_ => exact keeps_execFailTimeout n_ s
  | laneFrameError n_ crc_ => exact keeps_execLaneFrameError n_ crc_ s
  | telem n_ v_ => exact keeps_execTelem n_ v_ s
  | telemPollTimer n_ => exact keeps_execTelemPollTimer n_ s
  | alert n_ v_ => exact keeps_execAlert n_ v_ s
  | faultData n_ cause_ => exact keeps_execFaultData n_ cause_ s
  | diagData n_ gate_ node_ desat_ => exact keeps_execDiagData n_ gate_ node_ desat_ s
  | diagPoll n_ => exact keeps_execDiagPoll n_ s
  | relink w_ n_ => exact keeps_execRelink w_ n_ s
  | stageClr w_ n_ => exact keeps_execStageClr w_ n_ s
  | diagGo w_ n_ => exact keeps_execDiagGo w_ n_ s
  | telNow w_ n_ => exact keeps_execTelNow w_ n_ s
  | profileSlotWrite w_ n_ k_ v_ => exact keeps_execProfileSlotWrite w_ n_ k_ v_ s
  | sdclkWrite w_ k_ v_ => exact keeps_execSdclkWrite w_ k_ v_ s
  | sdCfgWrite w_ c_ v_ => exact keeps_execSdCfgWrite w_ c_ v_ s
  | sdFilled c_ l_ => exact keeps_execSdFilled c_ l_ s
  | sdResultTake c_ l_ => exact keeps_execSdResultTake c_ l_ s
  | sdResultSend c_ => exact keeps_execSdResultSend c_ s
  | sdTripAssert c_ l_ => exact keeps_execSdTripAssert c_ l_ s
  | sdTripDeassert c_ l_ => exact keeps_execSdTripDeassert c_ l_ s
  | sdStuck c_ l_ => exact keeps_execSdStuck c_ l_ s
  | sdUnstuck c_ l_ => exact keeps_execSdUnstuck c_ l_ s
  | fcTrigger c_ x_ => exact keeps_execFcTrigger c_ x_ s
  | fcConversionComplete c_ codes_ => exact keeps_execFcConversionComplete c_ codes_ s
  | fcSettled c_ => exact keeps_execFcSettled c_ s
  | resolverEnable w_ r_ v_ => exact keeps_execResolverEnable w_ r_ v_ s
  | resolverSample r_ sinCode_ cosCode_ => exact keeps_execResolverSample r_ sinCode_ cosCode_ s
  | resolverValid r_ => exact keeps_execResolverValid r_ s
  | excFault r_ => exact keeps_execExcFault r_ s
  | hkConversionComplete code_ => exact keeps_execHkConversionComplete code_ s
  | hkUrgentRequest w_ v_ => exact keeps_execHkUrgentRequest w_ v_ s
  | hkDataRead w_ => exact keeps_execHkDataRead w_ s
  | pilotStateChange osc_ h_ low_ duty_ => exact keeps_execPilotStateChange osc_ h_ low_ duty_ s
  | s2Write w_ v_ => exact keeps_execS2Write w_ v_ s
  | vselDebounce raw_ => exact keeps_execVselDebounce raw_ s
  | currentSharing m_ => exact keeps_execCurrentSharing m_ s
  | wPhaseTrim m_ w1_ w2_ => exact keeps_execWPhaseTrim m_ w1_ w2_ s
  | commandCurveEval m_ => exact keeps_execCommandCurveEval m_ s
  | limpHomeEntry m_ => exact keeps_execLimpHomeEntry m_ s
  | ominUpdate m_ v_ => exact keeps_execOminUpdate m_ v_ s
  | junctionReport m_ x_ v_ => exact keeps_execJunctionReport m_ x_ v_ s
  | damageRateEval m_ => exact keeps_execDamageRateEval m_ s
  | wearSnapshot => exact keeps_execWearSnapshot  s
  | tractionStatusWrite m_ => exact keeps_execTractionStatusWrite m_ s
  | omaxUpdate c_ => exact keeps_execOmaxUpdate c_ s
  | contactorClosedReport => exact keeps_execContactorClosedReport  s
  | softStartEnd c_ => exact keeps_execSoftStartEnd c_ s
  | handoverRampEnd p_ => exact keeps_execHandoverRampEnd p_ s
  | hiccupEntry c_ => exact keeps_execHiccupEntry c_ s
  | hicOffExpiry c_ present_ => exact keeps_execHicOffExpiry c_ present_ s
  | hicRunReset c_ => exact keeps_execHicRunReset c_ s
  | phaseOpen c_ k_ => exact keeps_execPhaseOpen c_ k_ s
  | phaseReconfiguration present_ => exact keeps_execPhaseReconfiguration present_ s
  | vselRead => exact keeps_execVselRead  s
  | converterStatusWrite c_ => exact keeps_execConverterStatusWrite c_ s
  | domainHandover step_ dab_ trgA_ trgB_ => exact keeps_execDomainHandover step_ dab_ trgA_ trgB_ s
  | chargingTargetEval ac_ tmod_ => exact keeps_execChargingTargetEval ac_ tmod_ s
  | suspendTimeout => exact keeps_execSuspendTimeout  s
  | proximityDecode shown_ => exact keeps_execProximityDecode shown_ s
  | bmsMessageReceived port_ xl_ id_ v_ => exact keeps_execBmsMessageReceived port_ xl_ id_ v_ s
  | bmsTimeout k_ => exact keeps_execBmsTimeout k_ s
  | modStatusSend => exact keeps_execModStatusSend  s
  | batteryRemovedReaction => exact keeps_execBatteryRemovedReaction  s
  | prechargeMatch => exact keeps_execPrechargeMatch  s
  | prechargeTimeout => exact keeps_execPrechargeTimeout  s
  | dcContactorOpen => exact keeps_execDcContactorOpen  s
  | weldCheckTimeout => exact keeps_execWeldCheckTimeout  s
  | chargingStatusWrite => exact keeps_execChargingStatusWrite  s
  | overCurrent b_ => exact keeps_execOverCurrent b_ s
  | actBrCfgWrite w_ b_ p3_ v_ => exact keeps_execActBrCfgWrite w_ b_ p3_ v_ s
  | actDiagGo w_ b_ v_ => exact keeps_execActDiagGo w_ b_ v_ s
  | actDiagStepEnd b_ z_ => exact keeps_execActDiagStepEnd b_ z_ s
  | hallAccept b_ v_ => exact keeps_execHallAccept b_ v_ s
  | hallFault b_ => exact keeps_execHallFault b_ s
  | sentFrameReceived c_ tick_ six_ crc_ fc1_ fc2_ scn_ slow_ => exact keeps_execSentFrameReceived c_ tick_ six_ crc_ fc1_ fc2_ scn_ slow_ s
  | sentTimeout c_ => exact keeps_execSentTimeout c_ s
  | sentSlowRead w_ c_ => exact keeps_execSentSlowRead w_ c_ s
  | shiftPhaseComplete => exact keeps_execShiftPhaseComplete  s
  | shiftAbort c_ => exact keeps_execShiftAbort c_ s
  | parkMoveEnd e_ => exact keeps_execParkMoveEnd e_ s
  | tmrMismatch kind_ word_ x0_ x1_ x2_ => exact keeps_execTmrMismatch kind_ word_ x0_ x1_ x2_ s
  | resyncComplete => exact keeps_execResyncComplete  s
  | selfWatchdogExpiry => exact keeps_execSelfWatchdogExpiry  s
  | lockstepMismatch p_ => exact keeps_execLockstepMismatch p_ s
  | pairRestart p_ => exact keeps_execPairRestart p_ s
  | pairReadyReport p_ => exact keeps_execPairReadyReport p_ s
  | watchdogKick k_ w_ key_ => exact keeps_execWatchdogKick k_ w_ key_ s
  | watchdogCloseExpiry w_ => exact keeps_execWatchdogCloseExpiry w_ s
  | watchdogProbe w_ ans_ => exact keeps_execWatchdogProbe w_ ans_ s
  | watchdogReaction w_ => exact keeps_execWatchdogReaction w_ s
  | lock => exact keeps_execLock  s
  | reconfigurationWindowOpen act_ m_ => exact keeps_execReconfigurationWindowOpen act_ m_ s
  | reconfigurationWindowClose ok_ => exact keeps_execReconfigurationWindowClose ok_ s
  | windowTimeout => exact keeps_execWindowTimeout  s
  | contactorCloseRequest c_ => exact keeps_execContactorCloseRequest c_ s
  | coilPullEnd c_ => exact keeps_execCoilPullEnd c_ s
  | openingGapExpiry => exact keeps_execOpeningGapExpiry  s
  | packPrechargeCompare v_ => exact keeps_execPackPrechargeCompare v_ s
  | packPrechargeTimeout => exact keeps_execPackPrechargeTimeout  s
  | coilFault c_ short_ => exact keeps_execCoilFault c_ short_ s
  | jtagInstruction i_ => exact keeps_execJtagInstruction i_ s
  | extest => exact keeps_execExtest  s
  | memoryRequest w_ p_ wr_ a_ n_ data_ e_ => exact keeps_execMemoryRequest w_ p_ wr_ a_ n_ data_ e_ s
  | arbiterGrant => exact keeps_execArbiterGrant  s
  | memoryResponse i_ os_ => exact keeps_execMemoryResponse i_ os_ s
  | portClassWrite w_ p_ v_ => exact keeps_execPortClassWrite w_ p_ v_ s
  | scrubStep f_ => exact keeps_execScrubStep f_ s
  | scrubPassLate => exact keeps_execScrubPassLate  s
  | lagoonScrubStep o_ => exact keeps_execLagoonScrubStep o_ s
  | dramInitChartDone => exact keeps_execDramInitChartDone  s
  | dramInitDone => exact keeps_execDramInitDone  s
  | frAllocRead w_ => exact keeps_execFrAllocRead w_ s
  | frEnable w_ v_ => exact keeps_execFrEnable w_ v_ s
  | narrowsFrameReceived f_ => exact keeps_execNarrowsFrameReceived f_ s
  | canSegmentReceived p_ n_ hdr_ full_ data_ => exact keeps_execCanSegmentReceived p_ n_ hdr_ full_ data_ s
  | segmentTimeout p_ n_ => exact keeps_execSegmentTimeout p_ n_ s
  | hello n_ pvMin_ pvMax_ => exact keeps_execHello n_ pvMin_ pvMax_ s
  | loginStart n_ role_ key_ => exact keeps_execLoginStart n_ role_ key_ s
  | loginProve n_ heph_ hsig_ aud_ => exact keeps_execLoginProve n_ heph_ hsig_ aud_ s
  | logout n_ aud_ => exact keeps_execLogout n_ aud_ s
  | keepalive n_ => exact keeps_execKeepalive n_ s
  | modeReq n_ tgt_ p_ aud_ => exact keeps_execModeReq n_ tgt_ p_ aud_ s
  | safeHoldReq n_ => exact keeps_execSafeHoldReq n_ s
  | transportReq n_ p_ => exact keeps_execTransportReq n_ p_ s
  | driveCmd n_ ca_ da_ cb_ db_ alive_ => exact keeps_execDriveCmd n_ ca_ da_ cb_ db_ alive_ s
  | vehicleState n_ spd_ odo_ alive_ => exact keeps_execVehicleState n_ spd_ odo_ alive_ s
  | shiftReq n_ tgt_ => exact keeps_execShiftReq n_ tgt_ s
  | parkReq n_ v_ => exact keeps_execParkReq n_ v_ s
  | statusRead n_ b_ => exact keeps_execStatusRead n_ b_ s
  | subscribe n_ mask_ period_ trace_ => exact keeps_execSubscribe n_ mask_ period_ trace_ s
  | subscriptionReport k_ => exact keeps_execSubscriptionReport k_ s
  | frInfo n_ => exact keeps_execFrInfo n_ s
  | chgStart n_ => exact keeps_execChgStart n_ s
  | chgStop n_ => exact keeps_execChgStop n_ s
  | chgPause n_ v_ => exact keeps_execChgPause n_ v_ s
  | faultList n_ => exact keeps_execFaultList n_ s
  | faultClear n_ item_ ix_ aud_ => exact keeps_execFaultClear n_ item_ ix_ aud_ s
  | dpOpen n_ addr_ inc_ dir_ aud_ => exact keeps_execDpOpen n_ addr_ inc_ dir_ aud_ s
  | dpClose n_ handle_ aud_ => exact keeps_execDpClose n_ handle_ aud_ s
  | dataWr k_ handle_ bidx_ data_ os_ aud_ => exact keeps_execDataWr k_ handle_ bidx_ data_ os_ aud_ s
  | dataRdReq k_ handle_ bidx_ n_ os_ aud_ => exact keeps_execDataRdReq k_ handle_ bidx_ n_ os_ aud_ s
  | pkgCommit n_ slot_ size_ aud_ => exact keeps_execPkgCommit n_ slot_ size_ aud_ s
  | pkgActivate n_ slot_ aud_ => exact keeps_execPkgActivate n_ slot_ aud_ s
  | floorRaise n_ aud_ => exact keeps_execFloorRaise n_ aud_ s
  | pkgInfo n_ => exact keeps_execPkgInfo n_ s
  | paramWrite n_ r_ off_ data_ aud_ => exact keeps_execParamWrite n_ r_ off_ data_ aud_ s
  | limitSet n_ l_ v_ aud_ => exact keeps_execLimitSet n_ l_ v_ aud_ s
  | inject n_ e_ img_ aud_ => exact keeps_execInject n_ e_ img_ aud_ s
  | auditExport n_ first_ cnt_ => exact keeps_execAuditExport n_ first_ cnt_ s
  | islandReq n_ i_ st_ force_ aud_ => exact keeps_execIslandReq n_ i_ st_ force_ aud_ s
  | keyInstall n_ role_ x_ y_ aud_ => exact keeps_execKeyInstall n_ role_ x_ y_ aud_ s
  | keyRevoke n_ key_ aud_ => exact keeps_execKeyRevoke n_ key_ aud_ s
  | certInstall n_ size_ aud_ => exact keeps_execCertInstall n_ size_ aud_ s
  | fwCommit n_ slot_ size_ chk_ aud_ => exact keeps_execFwCommit n_ slot_ size_ chk_ aud_ s
  | fwActivate n_ slot_ aud_ => exact keeps_execFwActivate n_ slot_ aud_ s
  | debugStart n_ => exact keeps_execDebugStart n_ s
  | debugProve n_ sig_ aud_ => exact keeps_execDebugProve n_ sig_ aud_ s
  | bootHeader n_ split_ sig_ sigOk_ aud_ => exact keeps_execBootHeader n_ split_ sig_ sigOk_ aud_ s
  | absLimitSet n_ l_ v_ aud_ => exact keeps_execAbsLimitSet n_ l_ v_ aud_ s
  | longCommandComplete n_ st_ => exact keeps_execLongCommandComplete n_ st_ s
  | inProgressRepeat n_ => exact keeps_execInProgressRepeat n_ s
  | sessionIdleTimeout k_ aud_ => exact keeps_execSessionIdleTimeout k_ aud_ s
  | loginBarExpiry role_ => exact keeps_execLoginBarExpiry role_ s
  | stopFrame id_ ide_ fmt_ data_ => exact keeps_execStopFrame id_ ide_ fmt_ data_ s
  | canProbeTimeout p_ ok_ cands_ => exact keeps_execCanProbeTimeout p_ ok_ cands_ s
  | canBusOff p_ => exact keeps_execCanBusOff p_ s
  | timeSyncReceived p_ t_ => exact keeps_execTimeSyncReceived p_ t_ s
  | timeSyncHoldover => exact keeps_execTimeSyncHoldover  s
  | arpRequest p_ => exact keeps_execArpRequest p_ s
  | icmpEcho p_ => exact keeps_execIcmpEcho p_ s
  | atimeRead w_ => exact keeps_execAtimeRead w_ s
  | interfaceStatusWrite => exact keeps_execInterfaceStatusWrite  s
  | ladderDwellExpiry p_ => exact keeps_execLadderDwellExpiry p_ s
  | ladderStepComplete => exact keeps_execLadderStepComplete  s
  | wakeQualified src_ => exact keeps_execWakeQualified src_ s
  | storageSupplySample code_ => exact keeps_execStorageSupplySample code_ s
  | alarmExpiry => exact keeps_execAlarmExpiry  s
  | supplyRise => exact keeps_execSupplyRise  s
  | presNQualified => exact keeps_execPresNQualified  s
  | bootStep k_ => exact keeps_execBootStep k_ s
  | selfTestComplete x_ => exact keeps_execSelfTestComplete x_ s
  | selfTestDue => exact keeps_execSelfTestDue  s
  | presNWarning => exact keeps_execPresNWarning  s
  | flushComplete => exact keeps_execFlushComplete  s
  | presNReassert => exact keeps_execPresNReassert  s
  | supplyDip => exact keeps_execSupplyDip  s
  | dipRideThrough => exact keeps_execDipRideThrough  s
  | brownout => exact keeps_execBrownout  s
  | brownoutRecovery => exact keeps_execBrownoutRecovery  s
  | aonPowerOnReset => exact keeps_execAonPowerOnReset  s
  | chargingCommunicationMessage t1s_ m_ => exact keeps_execChargingCommunicationMessage t1s_ m_ s
  | chargingProtocolTimeout => exact keeps_execChargingProtocolTimeout  s
  | shuntConversion b_ code_ => exact keeps_execShuntConversion b_ code_ s
  | bootstrapComparatorRelease a_ => exact keeps_execBootstrapComparatorRelease a_ s

end Sys2Proof.Machine
end

