-- ==== Sys2Proof/Laws/GroupsOnly.lean ====
section
/-!
SUPPORT. Which quantities each operation of Machine/Groups.lean may change: every other one reads as before. Cited wherever a
command forces or disables groups, opens contactors or enters SAFE_HOLD.
-/
namespace Sys2Proof.Machine
open Sys2Proof
set_option linter.unreachableTactic false
set_option linter.unusedTactic false

theorem State.SameBut.refl (L : List Fld) (s : State) : s.SameBut L s := fun _ _ _ _ => rfl
theorem State.SameBut.set {L : List Fld} {u s : State} (h : u.SameBut L s) {f : Fld} (hf : f ∈ L) (v i j : Nat) : u.SameBut L (s.set f v i j) :=
  fun g hg i' j' => (State.get_set_fld s v i j i' j' (fun e => hg (by rw [e]; exact hf))).trans (h g hg i' j')
theorem State.SameBut.of_get {L : List Fld} {u s t : State} (h : u.SameBut L s) (e : t.vals = s.vals) : u.SameBut L t :=
  fun g hg i j => by rw [← h g hg i j]; simp only [State.get, e]
theorem State.SameBut.setB {L : List Fld} {u s : State} (h : u.SameBut L s) {f : Fld} (hf : f ∈ L) (b : Bool) (i j : Nat) : u.SameBut L (s.setB f b i j) := h.set hf _ _ _
theorem State.SameBut.on {L : List Fld} {u s : State} (h : u.SameBut L s) {f : Fld} (hf : f ∈ L) (i j : Nat) : u.SameBut L (s.on f i j) := h.set hf _ _ _
theorem State.SameBut.off {L : List Fld} {u s : State} (h : u.SameBut L s) {f : Fld} (hf : f ∈ L) (i j : Nat) : u.SameBut L (s.off f i j) := h.set hf _ _ _
theorem State.SameBut.orMask {L : List Fld} {u s : State} (h : u.SameBut L s) {f : Fld} (hf : f ∈ L) (m i j : Nat) : u.SameBut L (s.orMask f m i j) := h.set hf _ _ _
theorem State.SameBut.clrMask {L : List Fld} {u s : State} (h : u.SameBut L s) {f : Fld} (hf : f ∈ L) (m i j : Nat) : u.SameBut L (s.clrMask f m i j) := h.set hf _ _ _
theorem State.SameBut.setBit {L : List Fld} {u s : State} (h : u.SameBut L s) {f : Fld} (hf : f ∈ L) (b i j : Nat) : u.SameBut L (s.setBit f b i j) := h.set hf _ _ _
theorem State.SameBut.clrBit {L : List Fld} {u s : State} (h : u.SameBut L s) {f : Fld} (hf : f ∈ L) (b i j : Nat) : u.SameBut L (s.clrBit f b i j) := h.set hf _ _ _
theorem State.SameBut.incSat {L : List Fld} {u s : State} (h : u.SameBut L s) {f : Fld} (hf : f ∈ L) (i j n : Nat) : u.SameBut L (s.incSat f i j n) := h.set hf _ _ _
theorem State.SameBut.inc {L : List Fld} {u s : State} (h : u.SameBut L s) {f : Fld} (hf : f ∈ L) (i j : Nat) : u.SameBut L (s.inc f i j) := h.set hf _ _ _
theorem State.SameBut.sset {L : List Fld} {u s : State} (h : u.SameBut L s) {f : Fld} (hf : f ∈ L) (v : Int) (i j : Nat) : u.SameBut L (s.sset f v i j) := h.set hf _ _ _
theorem State.SameBut.send {L : List Fld} {u s : State} (h : u.SameBut L s) (k : MsgKind) (a b c : Nat) : u.SameBut L (s.send k a b c) :=
  h.of_get rfl
theorem State.SameBut.answer {L : List Fld} {u s : State} (h : u.SameBut L s) (r : Resp) : u.SameBut L (s.answer r) := h.of_get rfl
theorem State.SameBut.when {L : List Fld} {u s : State} (h : u.SameBut L s) (c : Bool) {g : State → State}
    (hg : ∀ t, u.SameBut L t → u.SameBut L (g t)) : u.SameBut L (s.when c g) := by
  unfold State.when; split
  · exact hg _ h
  · exact h
theorem State.SameBut.ite {L : List Fld} {u a b : State} {c : Prop} [Decidable c] (ha : u.SameBut L a) (hb : u.SameBut L b) :
    u.SameBut L (if c then a else b) := by split <;> assumption
theorem State.SameBut.forEach {L : List Fld} {u s : State} (h : u.SameBut L s) (l : List Nat) {g : Nat → State → State}
    (hg : ∀ i t, u.SameBut L t → u.SameBut L (g i t)) : u.SameBut L (s.forEach l g) := by
  unfold State.forEach
  induction l generalizing s with
  | nil => exact h
  | cons a r ih => exact ih (hg _ _ h)
theorem State.SameBut.forUpTo {L : List Fld} {u s : State} (h : u.SameBut L s) (n : Nat) {g : Nat → State → State}
    (hg : ∀ i t, u.SameBut L t → u.SameBut L (g i t)) : u.SameBut L (s.forUpTo n g) := h.forEach _ hg
theorem State.SameBut.sub {L : List Fld} {u x y : State} {G : Prop} (hy : y = x) (hx : u.SameBut L x) (h : u.SameBut L y → G) : G :=
  h (hy ▸ hx)
theorem State.SameBut.trans {L : List Fld} {s t u : State} (h : s.SameBut L t) (g : t.SameBut L u) : s.SameBut L u :=
  fun f hf i j => (g f hf i j).trans (h f hf i j)

/-- What `noteOn` may change. -/
def noteOnFlds : List Fld := [.edge .LEG_HI_SINCE, .edge .LEG_LO_SINCE, .edge .LEG_REF_DUE]

theorem only_noteOn {L : List Fld} (hL : ∀ f ∈ noteOnFlds, f ∈ L) {u s : State} (h : u.SameBut L s) (n : Nat) (hi : Bool) (lo : Bool) : u.SameBut L (noteOn n hi lo s) := by
  unfold noteOn
  repeat' (first
    | with_reducible assumption
    | (extract_lets -underBinder +onlyGivenNames y; clear_value (hy : y = _); first | refine State.SameBut.sub (u := u) (L := L) hy ?_ (fun hk => ?_) | clear hy)
    | with_reducible apply State.SameBut.set _ (hL _ (by decide))
    | with_reducible apply State.SameBut.setB _ (hL _ (by decide))
    | with_reducible apply State.SameBut.when
    | split
    | intro)

/-- What `noteOff` may change. -/
def noteOffFlds : List Fld := [.edge .LEG_BUV_STOOD, .edge .LEG_REF_DUE, .edge .LEG_TOFF_HI, .edge .LEG_TOFF_LO]

theorem only_noteOff {L : List Fld} (hL : ∀ f ∈ noteOffFlds, f ∈ L) {u s : State} (h : u.SameBut L s) (n : Nat) (hi : Bool) (lo : Bool) : u.SameBut L (noteOff n hi lo s) := by
  unfold noteOff
  repeat' (first
    | with_reducible assumption
    | (extract_lets -underBinder +onlyGivenNames y; clear_value (hy : y = _); first | refine State.SameBut.sub (u := u) (L := L) hy ?_ (fun hk => ?_) | clear hy)
    | with_reducible apply State.SameBut.set _ (hL _ (by decide))
    | with_reducible apply State.SameBut.off _ (hL _ (by decide))
    | with_reducible apply State.SameBut.when
    | split
    | intro)

/-- What `setOut` may change. -/
def setOutFlds : List Fld := [.edge .LEG_BUV_STOOD, .edge .LEG_HI_SINCE, .edge .LEG_LO_SINCE, .edge .LEG_REF_DUE, .edge .LEG_STAT_HI, .edge .LEG_STAT_LO, .edge .LEG_TOFF_HI, .edge .LEG_TOFF_LO]

theorem only_setOut {L : List Fld} (hL : ∀ f ∈ setOutFlds, f ∈ L) {u s : State} (h : u.SameBut L s) (n : Nat) (hi' : Bool) (lo' : Bool) : u.SameBut L (setOut n hi' lo' s) := by
  unfold setOut
  repeat' (first
    | with_reducible assumption
    | (extract_lets -underBinder +onlyGivenNames y; clear_value (hy : y = _); first | refine State.SameBut.sub (u := u) (L := L) hy ?_ (fun hk => ?_) | clear hy)
    | with_reducible apply State.SameBut.setB _ (hL _ (by decide))
    | with_reducible apply only_noteOn (fun f hf => hL f ((by decide : ∀ f ∈ noteOnFlds, f ∈ setOutFlds) f hf))
    | with_reducible apply only_noteOff (fun f hf => hL f ((by decide : ∀ f ∈ noteOffFlds, f ∈ setOutFlds) f hf))
    | split
    | intro)

/-- What `legToSafe` may change. -/
def legToSafeFlds : List Fld := [.edge .LEG_BUV_STOOD, .edge .LEG_HI_SINCE, .edge .LEG_LO_SINCE, .edge .LEG_REF_DUE, .edge .LEG_SAFE_AT, .edge .LEG_SAFE_DUE, .edge .LEG_STAT_HI, .edge .LEG_STAT_LO, .edge .LEG_STAT_SAFE, .edge .LEG_TOFF_HI, .edge .LEG_TOFF_LO]

theorem only_legToSafe {L : List Fld} (hL : ∀ f ∈ legToSafeFlds, f ∈ L) {u s : State} (h : u.SameBut L s) (g : Nat) (n : Nat) : u.SameBut L (legToSafe g n s) := by
  unfold legToSafe
  repeat' (first
    | with_reducible assumption
    | (extract_lets -underBinder +onlyGivenNames y; clear_value (hy : y = _); first | refine State.SameBut.sub (u := u) (L := L) hy ?_ (fun hk => ?_) | clear hy)
    | with_reducible refine State.SameBut.ite ?_ ?_
    | with_reducible apply State.SameBut.set _ (hL _ (by decide))
    | with_reducible apply State.SameBut.on _ (hL _ (by decide))
    | with_reducible apply State.SameBut.when
    | with_reducible apply only_setOut (fun f hf => hL f ((by decide : ∀ f ∈ setOutFlds, f ∈ legToSafeFlds) f hf))
    | split
    | intro)

/-- What `driveLeg` may change. -/
def driveLegFlds : List Fld := [.edge .LEG_BUV_STOOD, .edge .LEG_HI_SINCE, .edge .LEG_LO_SINCE, .edge .LEG_REF_DUE, .edge .LEG_SAFE_AT, .edge .LEG_SAFE_DUE, .edge .LEG_STAT_HI, .edge .LEG_STAT_LO, .edge .LEG_STAT_SAFE, .edge .LEG_TOFF_HI, .edge .LEG_TOFF_LO]

theorem only_driveLeg {L : List Fld} (hL : ∀ f ∈ driveLegFlds, f ∈ L) {u s : State} (h : u.SameBut L s) (n : Nat) : u.SameBut L (driveLeg n s) := by
  unfold driveLeg
  repeat' (first
    | with_reducible assumption
    | (extract_lets -underBinder +onlyGivenNames y; clear_value (hy : y = _); first | refine State.SameBut.sub (u := u) (L := L) hy ?_ (fun hk => ?_) | clear hy)
    | with_reducible refine State.SameBut.ite ?_ ?_
    | with_reducible apply State.SameBut.set _ (hL _ (by decide))
    | with_reducible apply State.SameBut.off _ (hL _ (by decide))
    | with_reducible apply State.SameBut.when
    | with_reducible apply only_setOut (fun f hf => hL f ((by decide : ∀ f ∈ setOutFlds, f ∈ driveLegFlds) f hf))
    | with_reducible apply only_legToSafe (fun f hf => hL f ((by decide : ∀ f ∈ legToSafeFlds, f ∈ driveLegFlds) f hf))
    | split
    | intro)

/-- What `withdrawLeg` may change. -/
def withdrawLegFlds : List Fld := [.edge .LEG_BUV_STOOD, .edge .LEG_CMD, .edge .LEG_DUE, .edge .LEG_HI_SINCE, .edge .LEG_IL_HI, .edge .LEG_IL_LO, .edge .LEG_IN_HI, .edge .LEG_IN_LO, .edge .LEG_LIVE, .edge .LEG_LO_SINCE, .edge .LEG_QN, .edge .LEG_REF, .edge .LEG_REF_DUE, .edge .LEG_STAT_HI, .edge .LEG_STAT_LO, .edge .LEG_TOFF_HI, .edge .LEG_TOFF_LO]

theorem only_withdrawLeg {L : List Fld} (hL : ∀ f ∈ withdrawLegFlds, f ∈ L) {u s : State} (h : u.SameBut L s) (n : Nat) : u.SameBut L (withdrawLeg n s) := by
  unfold withdrawLeg
  repeat' (first
    | with_reducible assumption
    | (extract_lets -underBinder +onlyGivenNames y; clear_value (hy : y = _); first | refine State.SameBut.sub (u := u) (L := L) hy ?_ (fun hk => ?_) | clear hy)
    | with_reducible apply State.SameBut.off _ (hL _ (by decide))
    | with_reducible apply State.SameBut.when
    | with_reducible apply only_setOut (fun f hf => hL f ((by decide : ∀ f ∈ setOutFlds, f ∈ withdrawLegFlds) f hf))
    | split
    | intro)

/-- What `convOff` may change. -/
def convOffFlds : List Fld := [.drv .CV_STATE]

theorem only_convOff {L : List Fld} (hL : ∀ f ∈ convOffFlds, f ∈ L) {u s : State} (h : u.SameBut L s) (g : Nat) : u.SameBut L (convOff g s) := by
  unfold convOff
  repeat' (first
    | with_reducible assumption
    | with_reducible refine State.SameBut.ite ?_ ?_
    | with_reducible apply State.SameBut.set _ (hL _ (by decide))
    | split
    | intro)

/-- What `disableGroup` may change. -/
def disableGroupFlds : List Fld := [.drv .CV_STATE, .edge .LEG_BUV_STOOD, .edge .LEG_CMD, .edge .LEG_DUE, .edge .LEG_HI_SINCE, .edge .LEG_IL_HI, .edge .LEG_IL_LO, .edge .LEG_IN_HI, .edge .LEG_IN_LO, .edge .LEG_LIVE, .edge .LEG_LO_SINCE, .edge .LEG_QN, .edge .LEG_REF, .edge .LEG_REF_DUE, .edge .LEG_SAFE_AT, .edge .LEG_SAFE_DUE, .edge .LEG_STAT_HI, .edge .LEG_STAT_LO, .edge .LEG_STAT_SAFE, .edge .LEG_TOFF_HI, .edge .LEG_TOFF_LO, .edge .OG_EN]

theorem only_disableGroup {L : List Fld} (hL : ∀ f ∈ disableGroupFlds, f ∈ L) {u s : State} (h : u.SameBut L s) (g : Nat) : u.SameBut L (disableGroup g s) := by
  unfold disableGroup
  repeat' (first
    | with_reducible assumption
    | with_reducible apply State.SameBut.clrBit _ (hL _ (by decide))
    | with_reducible apply State.SameBut.forEach
    | with_reducible apply only_driveLeg (fun f hf => hL f ((by decide : ∀ f ∈ driveLegFlds, f ∈ disableGroupFlds) f hf))
    | with_reducible apply only_withdrawLeg (fun f hf => hL f ((by decide : ∀ f ∈ withdrawLegFlds, f ∈ disableGroupFlds) f hf))
    | with_reducible apply only_convOff (fun f hf => hL f ((by decide : ∀ f ∈ convOffFlds, f ∈ disableGroupFlds) f hf))
    | split
    | intro)

/-- What `disableGroups` may change. -/
def disableGroupsFlds : List Fld := [.drv .CV_STATE, .edge .LEG_BUV_STOOD, .edge .LEG_CMD, .edge .LEG_DUE, .edge .LEG_HI_SINCE, .edge .LEG_IL_HI, .edge .LEG_IL_LO, .edge .LEG_IN_HI, .edge .LEG_IN_LO, .edge .LEG_LIVE, .edge .LEG_LO_SINCE, .edge .LEG_QN, .edge .LEG_REF, .edge .LEG_REF_DUE, .edge .LEG_SAFE_AT, .edge .LEG_SAFE_DUE, .edge .LEG_STAT_HI, .edge .LEG_STAT_LO, .edge .LEG_STAT_SAFE, .edge .LEG_TOFF_HI, .edge .LEG_TOFF_LO, .edge .OG_EN]

theorem only_disableGroups {L : List Fld} (hL : ∀ f ∈ disableGroupsFlds, f ∈ L) {u s : State} (h : u.SameBut L s) (m : Nat) : u.SameBut L (disableGroups m s) := by
  unfold disableGroups
  repeat' (first
    | with_reducible assumption
    | with_reducible refine State.SameBut.ite ?_ ?_
    | with_reducible apply State.SameBut.forUpTo
    | with_reducible apply only_disableGroup (fun f hf => hL f ((by decide : ∀ f ∈ disableGroupFlds, f ∈ disableGroupsFlds) f hf))
    | split
    | intro)

/-- What `moveGroup` may change. -/
def moveGroupFlds : List Fld := [.edge .LEG_BUV_STOOD, .edge .LEG_HI_SINCE, .edge .LEG_LO_SINCE, .edge .LEG_REF_DUE, .edge .LEG_SAFE_AT, .edge .LEG_SAFE_DUE, .edge .LEG_STAT_HI, .edge .LEG_STAT_LO, .edge .LEG_STAT_SAFE, .edge .LEG_TOFF_HI, .edge .LEG_TOFF_LO, .grd .OG_STAT_LEVEL, .grd .OG_STAT_MOVING]

theorem only_moveGroup {L : List Fld} (hL : ∀ f ∈ moveGroupFlds, f ∈ L) {u s : State} (h : u.SameBut L s) (g : Nat) : u.SameBut L (moveGroup g s) := by
  unfold moveGroup
  repeat' (first
    | with_reducible assumption
    | (extract_lets -underBinder +onlyGivenNames y; clear_value (hy : y = _); first | refine State.SameBut.sub (u := u) (L := L) hy ?_ (fun hk => ?_) | clear hy)
    | with_reducible apply State.SameBut.set _ (hL _ (by decide))
    | with_reducible apply State.SameBut.setB _ (hL _ (by decide))
    | with_reducible apply State.SameBut.forEach
    | with_reducible apply only_driveLeg (fun f hf => hL f ((by decide : ∀ f ∈ driveLegFlds, f ∈ moveGroupFlds) f hf))
    | split
    | intro)

/-- What `forceGroup` may change. -/
def forceGroupFlds : List Fld := [.drv .CV_STATE, .edge .LEG_BUV_STOOD, .edge .LEG_CMD, .edge .LEG_DUE, .edge .LEG_HI_SINCE, .edge .LEG_IL_HI, .edge .LEG_IL_LO, .edge .LEG_IN_HI, .edge .LEG_IN_LO, .edge .LEG_LIVE, .edge .LEG_LO_SINCE, .edge .LEG_QN, .edge .LEG_REF, .edge .LEG_REF_DUE, .edge .LEG_SAFE_AT, .edge .LEG_SAFE_DUE, .edge .LEG_STAT_HI, .edge .LEG_STAT_LO, .edge .LEG_STAT_SAFE, .edge .LEG_TOFF_HI, .edge .LEG_TOFF_LO, .edge .OG_EN, .grd .OG_LATCH, .grd .OG_STAT_CAUSE, .grd .OG_STAT_COUNT, .grd .OG_STAT_FORCED, .grd .OG_STAT_LEVEL, .grd .OG_STAT_MOVING]

theorem only_forceGroup {L : List Fld} (hL : ∀ f ∈ forceGroupFlds, f ∈ L) {u s : State} (h : u.SameBut L s) (g : Nat) (cause : Nat) : u.SameBut L (forceGroup g cause s) := by
  unfold forceGroup
  repeat' (first
    | with_reducible assumption
    | (extract_lets -underBinder +onlyGivenNames y; clear_value (hy : y = _); first | refine State.SameBut.sub (u := u) (L := L) hy ?_ (fun hk => ?_) | clear hy)
    | with_reducible refine State.SameBut.ite ?_ ?_
    | with_reducible apply State.SameBut.set _ (hL _ (by decide))
    | with_reducible apply State.SameBut.on _ (hL _ (by decide))
    | with_reducible apply State.SameBut.setBit _ (hL _ (by decide))
    | with_reducible apply State.SameBut.clrBit _ (hL _ (by decide))
    | with_reducible apply State.SameBut.incSat _ (hL _ (by decide))
    | with_reducible apply State.SameBut.forEach
    | with_reducible apply only_withdrawLeg (fun f hf => hL f ((by decide : ∀ f ∈ withdrawLegFlds, f ∈ forceGroupFlds) f hf))
    | with_reducible apply only_convOff (fun f hf => hL f ((by decide : ∀ f ∈ convOffFlds, f ∈ forceGroupFlds) f hf))
    | with_reducible apply only_moveGroup (fun f hf => hL f ((by decide : ∀ f ∈ moveGroupFlds, f ∈ forceGroupFlds) f hf))
    | split
    | intro)

/-- What `forceGroups` may change. -/
def forceGroupsFlds : List Fld := [.drv .CV_STATE, .edge .LEG_BUV_STOOD, .edge .LEG_CMD, .edge .LEG_DUE, .edge .LEG_HI_SINCE, .edge .LEG_IL_HI, .edge .LEG_IL_LO, .edge .LEG_IN_HI, .edge .LEG_IN_LO, .edge .LEG_LIVE, .edge .LEG_LO_SINCE, .edge .LEG_QN, .edge .LEG_REF, .edge .LEG_REF_DUE, .edge .LEG_SAFE_AT, .edge .LEG_SAFE_DUE, .edge .LEG_STAT_HI, .edge .LEG_STAT_LO, .edge .LEG_STAT_SAFE, .edge .LEG_TOFF_HI, .edge .LEG_TOFF_LO, .edge .OG_EN, .grd .OG_LATCH, .grd .OG_STAT_CAUSE, .grd .OG_STAT_COUNT, .grd .OG_STAT_FORCED, .grd .OG_STAT_LEVEL, .grd .OG_STAT_MOVING]

theorem only_forceGroups {L : List Fld} (hL : ∀ f ∈ forceGroupsFlds, f ∈ L) {u s : State} (h : u.SameBut L s) (m : Nat) (cause : Nat) : u.SameBut L (forceGroups m cause s) := by
  unfold forceGroups
  repeat' (first
    | with_reducible assumption
    | with_reducible refine State.SameBut.ite ?_ ?_
    | with_reducible apply State.SameBut.forUpTo
    | with_reducible apply only_forceGroup (fun f hf => hL f ((by decide : ∀ f ∈ forceGroupFlds, f ∈ forceGroupsFlds) f hf))
    | split
    | intro)

/-- What `assertSource` may change. -/
def assertSourceFlds : List Fld := [.drv .CV_STATE, .edge .LEG_BUV_STOOD, .edge .LEG_CMD, .edge .LEG_DUE, .edge .LEG_HI_SINCE, .edge .LEG_IL_HI, .edge .LEG_IL_LO, .edge .LEG_IN_HI, .edge .LEG_IN_LO, .edge .LEG_LIVE, .edge .LEG_LO_SINCE, .edge .LEG_QN, .edge .LEG_REF, .edge .LEG_REF_DUE, .edge .LEG_SAFE_AT, .edge .LEG_SAFE_DUE, .edge .LEG_STAT_HI, .edge .LEG_STAT_LO, .edge .LEG_STAT_SAFE, .edge .LEG_TOFF_HI, .edge .LEG_TOFF_LO, .edge .OG_EN, .grd .OG_LATCH, .grd .OG_STAT_CAUSE, .grd .OG_STAT_COUNT, .grd .OG_STAT_FORCED, .grd .OG_STAT_LEVEL, .grd .OG_STAT_MOVING, .grd .SRC_ACT, .grd .SRC_LATCH]

theorem only_assertSource {L : List Fld} (hL : ∀ f ∈ assertSourceFlds, f ∈ L) {u s : State} (h : u.SameBut L s) (src : Nat) : u.SameBut L (assertSource src s) := by
  unfold assertSource
  repeat' (first
    | with_reducible assumption
    | with_reducible apply State.SameBut.on _ (hL _ (by decide))
    | with_reducible apply State.SameBut.setBit _ (hL _ (by decide))
    | with_reducible apply only_forceGroups (fun f hf => hL f ((by decide : ∀ f ∈ forceGroupsFlds, f ∈ assertSourceFlds) f hf))
    | split
    | intro)

/-- What `deassertSource` may change. -/
def deassertSourceFlds : List Fld := [.grd .SRC_ACT]

theorem only_deassertSource {L : List Fld} (hL : ∀ f ∈ deassertSourceFlds, f ∈ L) {u s : State} (h : u.SameBut L s) (src : Nat) : u.SameBut L (deassertSource src s) := by
  unfold deassertSource
  repeat' (first
    | with_reducible assumption
    | with_reducible apply State.SameBut.off _ (hL _ (by decide))
    | split
    | intro)

/-- What `setSafForce` may change. -/
def setSafForceFlds : List Fld := [.drv .CV_STATE, .edge .LEG_BUV_STOOD, .edge .LEG_CMD, .edge .LEG_DUE, .edge .LEG_HI_SINCE, .edge .LEG_IL_HI, .edge .LEG_IL_LO, .edge .LEG_IN_HI, .edge .LEG_IN_LO, .edge .LEG_LIVE, .edge .LEG_LO_SINCE, .edge .LEG_QN, .edge .LEG_REF, .edge .LEG_REF_DUE, .edge .LEG_SAFE_AT, .edge .LEG_SAFE_DUE, .edge .LEG_STAT_HI, .edge .LEG_STAT_LO, .edge .LEG_STAT_SAFE, .edge .LEG_TOFF_HI, .edge .LEG_TOFF_LO, .edge .OG_EN, .grd .OG_LATCH, .grd .OG_STAT_CAUSE, .grd .OG_STAT_COUNT, .grd .OG_STAT_FORCED, .grd .OG_STAT_LEVEL, .grd .OG_STAT_MOVING, .grd .SAF_FORCE, .saf .FORCE_CAUSE]

theorem only_setSafForce {L : List Fld} (hL : ∀ f ∈ setSafForceFlds, f ∈ L) {u s : State} (h : u.SameBut L s) (m : Nat) (why : Nat) : u.SameBut L (setSafForce m why s) := by
  unfold setSafForce
  repeat' (first
    | with_reducible assumption
    | with_reducible refine State.SameBut.ite ?_ ?_
    | with_reducible apply State.SameBut.orMask _ (hL _ (by decide))
    | with_reducible apply State.SameBut.setBit _ (hL _ (by decide))
    | with_reducible apply State.SameBut.forUpTo
    | with_reducible apply only_forceGroups (fun f hf => hL f ((by decide : ∀ f ∈ forceGroupsFlds, f ∈ setSafForceFlds) f hf))
    | split
    | intro)

/-- What `dropSafForce` may change. -/
def dropSafForceFlds : List Fld := [.grd .SAF_FORCE, .saf .FORCE_CAUSE]

theorem only_dropSafForce {L : List Fld} (hL : ∀ f ∈ dropSafForceFlds, f ∈ L) {u s : State} (h : u.SameBut L s) (m : Nat) (why : Nat) : u.SameBut L (dropSafForce m why s) := by
  unfold dropSafForce
  repeat' (first
    | with_reducible assumption
    | (extract_lets -underBinder +onlyGivenNames y; clear_value (hy : y = _); first | refine State.SameBut.sub (u := u) (L := L) hy ?_ (fun hk => ?_) | clear hy)
    | with_reducible refine State.SameBut.ite ?_ ?_
    | with_reducible apply State.SameBut.clrBit _ (hL _ (by decide))
    | with_reducible apply State.SameBut.forUpTo
    | split
    | intro)

/-- What `openStep` may change. -/
def openStepFlds : List Fld := [.saf .CD_STAT_HOLDING, .saf .CD_STAT_ON, .saf .CSEQ_PSTATE, .saf .OPEN_AT, .saf .OPEN_MASK]

theorem only_openStep {L : List Fld} (hL : ∀ f ∈ openStepFlds, f ∈ L) {u s : State} (h : u.SameBut L s)  : u.SameBut L (openStep  s) := by
  unfold openStep
  repeat' (first
    | with_reducible assumption
    | (extract_lets -underBinder +onlyGivenNames y; clear_value (hy : y = _); first | refine State.SameBut.sub (u := u) (L := L) hy ?_ (fun hk => ?_) | clear hy)
    | with_reducible refine State.SameBut.ite ?_ ?_
    | with_reducible apply State.SameBut.set _ (hL _ (by decide))
    | with_reducible apply State.SameBut.off _ (hL _ (by decide))
    | with_reducible apply State.SameBut.clrBit _ (hL _ (by decide))
    | with_reducible apply State.SameBut.when
    | with_reducible apply State.SameBut.forEach
    | split
    | intro)

/-- What `openDrivers` may change. -/
def openDriversFlds : List Fld := [.saf .CD_STAT_HOLDING, .saf .CD_STAT_ON, .saf .CSEQ_PSTATE, .saf .OPEN_AT, .saf .OPEN_MASK]

theorem only_openDrivers {L : List Fld} (hL : ∀ f ∈ openDriversFlds, f ∈ L) {u s : State} (h : u.SameBut L s) (m : Nat) (pack : Bool) : u.SameBut L (openDrivers m pack s) := by
  unfold openDrivers
  repeat' (first
    | with_reducible assumption
    | (extract_lets -underBinder +onlyGivenNames y; clear_value (hy : y = _); first | refine State.SameBut.sub (u := u) (L := L) hy ?_ (fun hk => ?_) | clear hy)
    | with_reducible refine State.SameBut.ite ?_ ?_
    | with_reducible apply State.SameBut.set _ (hL _ (by decide))
    | with_reducible apply State.SameBut.off _ (hL _ (by decide))
    | with_reducible apply State.SameBut.orMask _ (hL _ (by decide))
    | with_reducible apply State.SameBut.when
    | with_reducible apply State.SameBut.forUpTo
    | with_reducible apply only_openStep (fun f hf => hL f ((by decide : ∀ f ∈ openStepFlds, f ∈ openDriversFlds) f hf))
    | split
    | intro)

/-- What `enterSafeHold` may change. -/
def enterSafeHoldFlds : List Fld := [.drv .CV_STATE, .edge .LEG_BUV_STOOD, .edge .LEG_CMD, .edge .LEG_DUE, .edge .LEG_HI_SINCE, .edge .LEG_IL_HI, .edge .LEG_IL_LO, .edge .LEG_IN_HI, .edge .LEG_IN_LO, .edge .LEG_LIVE, .edge .LEG_LO_SINCE, .edge .LEG_QN, .edge .LEG_REF, .edge .LEG_REF_DUE, .edge .LEG_SAFE_AT, .edge .LEG_SAFE_DUE, .edge .LEG_STAT_HI, .edge .LEG_STAT_LO, .edge .LEG_STAT_SAFE, .edge .LEG_TOFF_HI, .edge .LEG_TOFF_LO, .edge .OG_EN, .saf .AXLE_MODE_BUSY, .saf .AXLE_MODE_CAUSE, .saf .CD_STAT_HOLDING, .saf .CD_STAT_ON, .saf .CSEQ_PSTATE, .saf .HOLD_AT, .saf .HOLD_LATCHED, .saf .MODE_TGT, .saf .OPEN_AT, .saf .OPEN_MASK, .saf .STOW_DUE, .sns .CP_CTRL_S2, .sns .CP_STAT_S2_ON]

theorem only_enterSafeHold {L : List Fld} (hL : ∀ f ∈ enterSafeHoldFlds, f ∈ L) {u s : State} (h : u.SameBut L s) (cause : Nat) : u.SameBut L (enterSafeHold cause s) := by
  unfold enterSafeHold
  repeat' (first
    | with_reducible assumption
    | (extract_lets -underBinder +onlyGivenNames y; clear_value (hy : y = _); first | refine State.SameBut.sub (u := u) (L := L) hy ?_ (fun hk => ?_) | clear hy)
    | with_reducible refine State.SameBut.ite ?_ ?_
    | with_reducible apply State.SameBut.set _ (hL _ (by decide))
    | with_reducible apply State.SameBut.on _ (hL _ (by decide))
    | with_reducible apply State.SameBut.off _ (hL _ (by decide))
    | with_reducible apply only_disableGroups (fun f hf => hL f ((by decide : ∀ f ∈ disableGroupsFlds, f ∈ enterSafeHoldFlds) f hf))
    | with_reducible apply only_openDrivers (fun f hf => hL f ((by decide : ∀ f ∈ openDriversFlds, f ∈ enterSafeHoldFlds) f hf))
    | split
    | intro)

end Sys2Proof.Machine
end

