-- ==== Sys2Proof/Laws/GroupsFacts.lean ====
section
/-!
SUPPORT. What forcing a group, disabling groups and entering SAFE_HOLD leave behind.
-/
namespace Sys2Proof.Machine
open Sys2Proof

theorem andNot_testBit (v m i : Nat) : (andNot v m).testBit i = (v.testBit i && !m.testBit i) := by
  simp only [andNot, Nat.testBit_xor, Nat.testBit_and]; cases v.testBit i <;> cases m.testBit i <;> rfl

/-- Reading a bit after setting one of the same mask. -/
theorem State.bit_setBit (s : State) (f : Fld) (a b i j : Nat) :
    (s.setBit f a i j).bit f b i j = (decide (b < f.spec.w) && (s.bit f b i j || decide (b = a))) := by
  simp only [State.bit, State.setBit, State.orMask, State.get_set_same, Nat.testBit_mod_two_pow, Nat.testBit_or,
    Nat.testBit_two_pow]
  by_cases h : a = b <;> simp [h, eq_comm]

theorem State.bit_clrBit (s : State) (f : Fld) (a b i j : Nat) :
    (s.clrBit f a i j).bit f b i j = (decide (b < f.spec.w) && (s.bit f b i j && !decide (b = a))) := by
  simp only [State.bit, State.clrBit, State.clrMask, State.get_set_same, Nat.testBit_mod_two_pow, andNot_testBit,
    Nat.testBit_two_pow]
  by_cases h : a = b <;> simp [h, eq_comm]

/-- A quantity outside a frame reads as before, so its bits do. -/
theorem State.SameBut.bit {L : List Fld} {s t : State} (h : s.SameBut L t) {f : Fld} (hf : f ∉ L) (b i j : Nat) :
    t.bit f b i j = s.bit f b i j := by simp only [State.bit, h f hf i j]

theorem og_w : (Fld.edge .OG_EN).spec.w = 16 := rfl
theorem latch_w : (Fld.grd .OG_LATCH).spec.w = 16 := rfl

/-- After a force the group is forced, and every other group that was forced stays so. -/
theorem forceGroup_forced (g cause : Nat) (s : State) (hg : g < 16) (h : Nat) (hh : h < 16)
    (hs : h = g ∨ s.Forced h) : (forceGroup g cause s).Forced h := by
  have hw : ∀ (l : List Nat) (u : State), u.SameBut withdrawLegFlds (u.forEach l withdrawLeg) := fun l u =>
    (State.SameBut.refl _ u).forEach l (fun i t ht => only_withdrawLeg (fun f hf => hf) ht i)
  have hm : ∀ (u : State), u.SameBut moveGroupFlds (moveGroup g u) := fun u =>
    only_moveGroup (fun f hf => hf) (State.SameBut.refl _ u) g
  have hc : s.SameBut convOffFlds (convOff g s) := only_convOff (fun f hf => hf) (State.SameBut.refl _ s) g
  have m1 : ∀ u : State, (moveGroup g u).Forced h ↔ u.Forced h := fun u => by
    simp only [State.Forced, (hm u).bit (f := .grd .OG_LATCH) (by decide), (hm u).bit (f := .edge .OG_EN) (by decide)]
  have w1 : ∀ l (u : State), (u.forEach l withdrawLeg).Forced h ↔ u.Forced h := fun l u => by
    simp only [State.Forced, (hw l u).bit (f := .grd .OG_LATCH) (by decide), (hw l u).bit (f := .edge .OG_EN) (by decide)]
  have c1 : (convOff g s).Forced h ↔ s.Forced h := by
    simp only [State.Forced, hc.bit (f := .grd .OG_LATCH) (by decide), hc.bit (f := .edge .OG_EN) (by decide)]
  unfold forceGroup
  extract_lets v
  have hs' : h = g ∨ v.Forced h := hs.imp_right c1.2
  clear_value v
  split
  · rename_i hl
    rw [m1, w1]
    refine ⟨?_, ?_⟩
    · rw [show (v.clrBit (.edge .OG_EN) g).bit (.grd .OG_LATCH) h = v.bit (.grd .OG_LATCH) h by
        simp [State.bit, State.clrBit, State.clrMask, State.get_set]]
      rcases hs' with rfl | hf
      · exact hl
      · exact hf.1
    · rw [State.bit_clrBit]
      rcases hs' with rfl | hf
      · simp
      · simp [hf.2]
  · rw [m1, w1]
    refine ⟨?_, ?_⟩
    · have e : ((((v.setBit (.grd .OG_LATCH) g).on (.grd .OG_STAT_FORCED) g).set (.grd .OG_STAT_CAUSE) cause g |>.incSat
          (.grd .OG_STAT_COUNT) g |>.clrBit (.edge .OG_EN) g)).bit (.grd .OG_LATCH) h = (v.setBit (.grd .OG_LATCH) g).bit
          (.grd .OG_LATCH) h := by
        simp [State.bit, State.clrBit, State.clrMask, State.get_set, State.incSat, State.on]
      rw [e, State.bit_setBit, latch_w]
      rcases hs' with rfl | hf
      · simp [hh]
      · simp [hf.1, hh]
    · rw [State.bit_clrBit, og_w]
      rcases hs' with rfl | hf
      · simp
      · have e : ((((v.setBit (.grd .OG_LATCH) g).on (.grd .OG_STAT_FORCED) g).set (.grd .OG_STAT_CAUSE) cause g |>.incSat
            (.grd .OG_STAT_COUNT) g)).bit (.edge .OG_EN) h = v.bit (.edge .OG_EN) h := by
          simp [State.bit, State.setBit, State.orMask, State.get_set, State.incSat, State.on]
        rw [e, hf.2]; simp

/-- Every group of the mask is forced, and every group forced before stays so. -/
theorem forceGroups_forced (m cause : Nat) (s : State) (h : Nat) (hh : h < 16) (hs : m.testBit h = true ∨ s.Forced h) :
    (forceGroups m cause s).Forced h := by
  have key : ∀ (l : List Nat) (u : State), (∀ g ∈ l, g < 16) → ((h ∈ l ∧ m.testBit h = true) ∨ u.Forced h) →
      (l.foldl (fun t g => if m.testBit g then forceGroup g cause t else t) u).Forced h := by
    intro l
    induction l with
    | nil => intro u _ hu; simpa using hu
    | cons g r ih =>
      intro u hl hu
      refine ih _ (fun x hx => hl x (List.mem_cons_of_mem _ hx)) ?_
      have hg : g < 16 := hl g (List.mem_cons_self ..)
      by_cases hm : m.testBit g = true
      · simp only [hm, if_true]
        rcases hu with ⟨hmem, hb⟩ | hf
        · rcases List.mem_cons.1 hmem with rfl | hmem
          · exact .inr (forceGroup_forced _ _ _ hg _ hh (.inl rfl))
          · exact .inl ⟨hmem, hb⟩
        · exact .inr (forceGroup_forced _ _ _ hg _ hh (.inr hf))
      · simp only [hm, if_false]
        rcases hu with ⟨hmem, hb⟩ | hf
        · rcases List.mem_cons.1 hmem with rfl | hmem
          · exact absurd hb hm
          · exact .inl ⟨hmem, hb⟩
        · exact .inr hf
  exact key _ s (fun g hg => List.mem_range.1 hg) (hs.imp_left (fun b => ⟨List.mem_range.2 hh, b⟩))

/-- Disabling groups clears their enable bits and sets none. -/
theorem disableGroups_en (m : Nat) (s : State) (h : Nat) (hh : h < 16) :
    (disableGroups m s).bit (.edge .OG_EN) h = (s.bit (.edge .OG_EN) h && !m.testBit h) := by
  have one : ∀ (g : Nat) (u : State), (disableGroup g u).bit (.edge .OG_EN) h = (u.bit (.edge .OG_EN) h && !decide (h = g)) := by
    intro g u
    unfold disableGroup
    have e : ∀ v : State, v.SameBut (withdrawLegFlds ++ driveLegFlds) (v.forEach (u.legsOf g) (fun n t => driveLeg n (withdrawLeg n t))) :=
      fun v => (State.SameBut.refl _ v).forEach _ (fun i t ht =>
        only_driveLeg (fun f hf => List.mem_append_right _ hf) (only_withdrawLeg (fun f hf => List.mem_append_left _ hf) ht i) i)
    have c : ∀ v : State, v.SameBut convOffFlds (convOff g v) := fun v => only_convOff (fun f hf => hf) (State.SameBut.refl _ v) g
    rw [(c _).bit (by decide), (e _).bit (by decide), State.bit_clrBit, og_w]; simp [hh]
  have key : ∀ (l : List Nat) (u : State), (l.foldl (fun t g => if m.testBit g then disableGroup g t else t) u).bit (.edge .OG_EN) h =
      (u.bit (.edge .OG_EN) h && !(decide (h ∈ l) && m.testBit h)) := by
    intro l
    induction l with
    | nil => intro u; simp
    | cons g r ih =>
      intro u
      rw [List.foldl_cons, ih]
      by_cases hm : m.testBit g = true
      · simp only [hm, if_true, one, List.mem_cons]
        by_cases e : h = g
        · subst e; simp [hm]
        · simp [e]
      · simp only [hm, if_false, List.mem_cons]
        by_cases e : h = g
        · subst e; simp [hm]
        · simp [e]
  unfold disableGroups State.forUpTo State.forEach
  rw [key]
  simp [hh]

/-- Disabling every group leaves no enable bit (R225). -/
theorem disableGroups_all (s : State) : (disableGroups 0xFFFF s).get (.edge .OG_EN) = 0 := by
  have hlt : (disableGroups 0xFFFF s).get (.edge .OG_EN) < 2 ^ 16 := by
    have e : ∀ u : State, (disableGroup 15 u).get (.edge .OG_EN) < 2 ^ 16 := by
      intro u
      unfold disableGroup
      have e : ∀ v : State, v.SameBut (withdrawLegFlds ++ driveLegFlds)
          (v.forEach (u.legsOf 15) (fun n t => driveLeg n (withdrawLeg n t))) :=
        fun v => (State.SameBut.refl _ v).forEach _ (fun i t ht =>
          only_driveLeg (fun f hf => List.mem_append_right _ hf) (only_withdrawLeg (fun f hf => List.mem_append_left _ hf) ht i) i)
      have c : ∀ v : State, v.SameBut convOffFlds (convOff 15 v) := fun v => only_convOff (fun f hf => hf) (State.SameBut.refl _ v) 15
      rw [c _ _ (by decide), e _ _ (by decide)]
      simp only [State.clrBit, State.clrMask, State.get_set_same, og_w]
      exact Nat.mod_lt _ (by norm_num)
    have r : List.range 16 = List.range 15 ++ [15] := by decide
    unfold disableGroups State.forUpTo State.forEach
    rw [r, List.foldl_append, List.foldl_cons, List.foldl_nil]
    beta_reduce
    rw [if_pos (by decide)]
    exact e _
  refine Nat.eq_of_testBit_eq (fun i => ?_)
  rw [Nat.zero_testBit]
  by_cases hi : i < 16
  · have := disableGroups_en 0xFFFF s i hi
    rw [State.bit] at this
    rw [this, show Nat.testBit 0xFFFF i = true by interval_cases i <;> rfl]; simp
  · exact Nat.testBit_lt_two_pow (lt_of_lt_of_le hlt (Nat.pow_le_pow_right (by norm_num) (not_lt.1 hi)))

/-- Entry into SAFE_HOLD from a settled mode: it begins, with the cause. -/
theorem enterSafeHold_begins (s : State) (c : Nat) (hc : c < 16) (h : s.settled) (h7 : c = 7 → s.get (.saf .HOLD_AT) ≠ s.now + 1) : (enterSafeHold c s).HoldBegins c := by
  unfold enterSafeHold
  rw [if_neg (by intro x; exact h.1 x.1)]
  have h8 : ¬ (c = 7 ∧ s.get (.saf .HOLD_AT) = s.now + 1) := fun q => h7 q.1 q.2
  rw [if_neg h8]
  extract_lets t1 t0 t2
  have o : ∀ u : State, u.SameBut openDriversFlds (openDrivers 0xFF true u) := fun u =>
    only_openDrivers (fun f hf => hf) (State.SameBut.refl _ u) 0xFF true
  have d : t2.SameBut disableGroupsFlds (disableGroups 0xFFFF t2) := only_disableGroups (fun f hf => hf) (State.SameBut.refl _ t2) _
  have e := disableGroups_all t2
  have h2 : t2.get (.saf .AXLE_MODE_BUSY) = 1 ∧ t2.get (.saf .MODE_TGT) = 6 ∧ t2.get (.saf .AXLE_MODE_CAUSE) = c ∧
      t2.get (.saf .HOLD_LATCHED) = 1 := by
    by_cases h9 : c = 7 <;> (simp [t2, t0, t1, h9, State.on, State.off, State.get_set, Fld.spec, SafFld.spec]; try omega)
  clear_value t2
  refine ⟨?_, ?_, ?_, ?_, ?_, ?_, ?_⟩
  all_goals rw [o _ _ (by decide)]
  all_goals simp only [State.off, State.get_set, reduceCtorEq, false_and, if_false, Fld.sns.injEq]
  · rw [d _ (by decide)]; exact h2.1
  · rw [d _ (by decide)]; exact h2.2.1
  · rw [d _ (by decide)]; exact h2.2.2.1
  · rw [d _ (by decide)]; exact h2.2.2.2
  · exact e
  · simp
  · simp

end Sys2Proof.Machine
end

