-- ==== Sys2Proof/Laws/Host.lean ====
section
/-!
SUPPORT. The host interface's shared operations: what serving a mailbox whose turn it is does, and what a reply changes.
-/
namespace Sys2Proof.Machine
open Sys2Proof

/-- A mailbox whose turn it is is served: the command's body runs once and its answer is the reply. -/
theorem serve_inTurn {s : State} {n code least role len : Nat} {lenOk : Nat → Bool} {par : Nat} {body : State → Ans} (h : s.inTurn n code role len par)
    (hr : least ≤ role) (hl : lenOk len = true) : serve n code least lenOk par body s =
      reply n (body (if n = 0 then s else s.set (.host .MB_LAST) n)).st (body (if n = 0 then s else s.set (.host .MB_LAST) n)).det
        (body (if n = 0 then s else s.set (.host .MB_LAST) n)).val (body (if n = 0 then s else s.set (.host .MB_LAST) n)).s := by
  obtain ⟨h1, h2, h3, h4, hp, h5⟩ := h
  have h6 : ((decide (0x100 ≤ code) && decide (code < 0x200)) != (n == 0)) = false := by
    by_cases hn : n = 0
    · have := h3.mpr hn; simp [hn, this.1, this.2]
    · have : ¬ (0x100 ≤ code ∧ code < 0x200) := fun q => hn (h3.mp q)
      have : (decide (0x100 ≤ code) && decide (code < 0x200)) = false := by simpa using this
      simp [this, hn]
  have h7 : ¬ (least ≠ 0 ∧ s.mbSession n = 0) := by
    rintro ⟨a, b⟩; rcases h5 with h5 | h5
    · omega
    · exact h5.1 b
  have h8 : ¬ s.mbRole n < least := by rcases h5 with h5 | h5 <;> omega
  unfold serve
  simp only [h1, h2, h6, h4, hl, hp]
  simp [h7, h8]

/-- The module's SEQ is all that sending in a session changes. -/
theorem nextSeq_get (k : Nat) (s : State) (f : Fld) (i j : Nat) (h : f ≠ .host .SES_OUT) : (nextSeq k s).get f i j = s.get f i j := by
  unfold nextSeq; split
  · rfl
  · exact State.get_set_ne _ _ _ _ _ _ _ _ (fun q => h q.1)
@[simp] theorem nextSeq_mem (k : Nat) (s : State) : (nextSeq k s).mem = s.mem := by unfold nextSeq; split <;> rfl
@[simp] theorem nextSeq_pending (k : Nat) (s : State) : (nextSeq k s).pending = s.pending := by unfold nextSeq; split <;> rfl
@[simp] theorem nextSeq_now (k : Nat) (s : State) : (nextSeq k s).now = s.now := by unfold nextSeq; split <;> rfl

/-- A reply's STATUS, DETAIL and parameters are those given. -/
theorem reply_answers (n st det val : Nat) (s : State) (h1 : st < 256) (h2 : det < 256) (h3 : val < 2 ^ 2112) :
    (reply n st det val s).Answers n st det val := by
  have e1 : st % 256 = st := Nat.mod_eq_of_lt h1
  have e2 : det % 256 = det := Nat.mod_eq_of_lt h2
  have w : (Fld.host HostFld.MB_VAL).spec.w = 2112 := rfl
  have e3 : val % 2 ^ (Fld.host HostFld.MB_VAL).spec.w = val := by rw [w]; exact Nat.mod_eq_of_lt h3
  have b : (st == 1).toNat % 2 = (if st = 1 then 1 else 0) := by
    by_cases h : st = 1
    · simp [h]
    · have : (st == 1) = false := by simpa using h
      simp [h, this]
  unfold State.Answers reply sendReply
  simp only [State.send_get, State.setB]
  have p : ∀ (t : State) (f g : Fld) (v i : Nat), g ≠ f → (t.set f v i).get g i = t.get g i :=
    fun t f g v i h => State.get_set_ne _ _ _ _ _ _ _ _ (fun q => h q.1)
  refine ⟨?_, ?_, ?_, ?_, ?_⟩ <;> rw [nextSeq_get _ _ _ _ _ (by simp)]
  · rw [p _ _ _ _ _ (by simp), p _ _ _ _ _ (by simp), p _ _ _ _ _ (by simp), p _ _ _ _ _ (by simp), p _ _ _ _ _ (by simp), State.get_set_same]
    exact e1
  · rw [p _ _ _ _ _ (by simp), p _ _ _ _ _ (by simp), p _ _ _ _ _ (by simp), p _ _ _ _ _ (by simp), State.get_set_same]
    exact e2
  · rw [p _ _ _ _ _ (by simp), p _ _ _ _ _ (by simp), p _ _ _ _ _ (by simp), State.get_set_same]
    exact e3
  · rw [p _ _ _ _ _ (by simp), State.get_set_same]
    exact b
  · rw [State.get_set_same]
    exact b

/-- A reply changes nothing but its mailbox and the session's SEQ. -/
theorem reply_same (n st det val : Nat) (s : State) :
    s.SameBut mailFlds (reply n st det val s) ∧ s.SameMem (reply n st det val s) ∧ s.SameQueue (reply n st det val s) := by
  refine ⟨?_, ?_, ?_⟩
  · intro f hf i j
    simp only [mailFlds, List.mem_cons, not_or] at hf
    unfold reply sendReply
    rw [State.send_get, nextSeq_get _ _ _ _ _ hf.2.2.2.2.2.2.2.1]
    simp [State.setB, State.get_set, hf]
  · intro a
    have : (reply n st det val s).mem = s.mem := by unfold reply sendReply; simp [State.setB]
    simp [State.byte, this]
  · unfold reply sendReply; simp [State.SameQueue, State.setB]

end Sys2Proof.Machine
end

