-- ==== Sys2Proof/WellFormed.lean ====
section
/-!
DEFINITION. Which commands the interface can present: the bounds of operand lists and of operands that a type does not bound.
-/
namespace Sys2Proof

/-- The longest data field of a frame on CAN port 0 (R544). -/
def CanFmt.most : CanFmt → Nat
  | .classical => 8
  | .fd => 64
  | .fdBrs => 64
  | .xl => 2048

/-- The command can be presented: a memory request asks for 1 to 256 bytes that do not cross a 256-byte line boundary and a write
carries what it announces (R509); a burst carries 1 to 4,096 bytes (R546, R547); a parameter write fits in a mailbox (R541); a CAN frame
has an identifier and a length of its format (R544); a CAN port has at most 4 candidates (R524); an injection image has the
five registers (R169); an activation has the six records of a package (R98); a pilot duty is at most 100 % (R411). -/
def Instr.wf : Instr → Bool
  | .registerWrite _ _ _ _ _ _ => true
  | .reqStateWrite _ _ _ _ => true
  | .islandTransitionComplete _ => true
  | .drainComplete _ => true
  | .drainTimeout _ => true
  | .straitWordReceive _ _ _ _ _ _ => true
  | .straitTimeout _ _ => true
  | .timeoutReaction _ => true
  | .parityReaction _ => true
  | .aonOscillatorCheck _ _ => true
  | .modeChangeComplete => true
  | .chartLookup _ _ _ => true
  | .lookupLate _ => true
  | .tileFillComplete _ _ => true
  | .tileFillClosed => true
  | .chartInval _ _ => true
  | .tideStoreWrite _ _ _ _ => true
  | .loadPpiWrite _ _ _ => true
  | .tideLoadComplete _ => true
  | .tideLoadClosed _ => true
  | .pageRequest _ _ => true
  | .tideMissLimit _ => true
  | .activationStep a => decide (a.recs.length = 6)
  | .engineStart _ _ _ => true
  | .engineDisable _ _ _ => true
  | .faultClr _ _ _ => true
  | .frameBoundary _ => true
  | .inputPortArrival _ _ _ => true
  | .sampleTrigger _ _ => true
  | .sampleEnd _ _ _ => true
  | .portClosed _ => true
  | .deadlineMiss _ _ _ => true
  | .missLimitReached _ _ => true
  | .ctrl _ _ _ => true
  | .move _ _ _ => true
  | .arith _ _ _ _ _ _ => true
  | .mac _ _ _ _ _ _ _ => true
  | .trig _ _ _ _ _ _ => true
  | .xform _ _ _ _ _ _ _ _ => true
  | .port _ _ _ => true
  | .slew _ _ _ => true
  | .gain _ _ _ => true
  | .law _ _ _ _ => true
  | .model _ _ => true
  | .plausibilityViolation _ _ => true
  | .holdRelease _ _ => true
  | .primingEnd _ _ => true
  | .trace _ _ _ => true
  | .esc _ _ _ => true
  | .illegalInstruction _ _ => true
  | .programMemoryWrite _ _ _ _ => true
  | .scheduleBankWrite _ _ _ _ _ => true
  | .commit _ _ => true
  | .commitCheckDone _ => true
  | .apply _ _ _ _ => true
  | .reprime _ _ _ _ => true
  | .groupRegisterWrite _ _ _ _ => true
  | .debugHalt _ => true
  | .debugResume _ => true
  | .traceDone _ => true
  | .streamCopyComplete _ => true
  | .trcCtrlWrite _ _ _ => true
  | .trcSigWrite _ _ _ _ => true
  | .arm _ _ _ => true
  | .traceForce _ _ _ => true
  | .traceThrottleWrite _ _ => true
  | .injectionStart _ _ _ => true
  | .injectionStop _ _ _ => true
  | .injectionDone _ => true
  | .permitClear _ => true
  | .domainStart _ _ => true
  | .syncStart _ _ _ => true
  | .domainStop _ _ _ _ => true
  | .loadAllRequest _ _ => true
  | .sampleInstant _ _ => true
  | .reloadBoundary _ => true
  | .ssEnable _ _ _ => true
  | .halfBoundary _ => true
  | .domainTriggerEvent _ _ => true
  | .groupEnable _ _ _ => true
  | .groupDisable _ _ => true
  | .legCfgWrite _ _ _ _ => true
  | .dutyChannelWrite _ _ => true
  | .rateWrite _ _ _ => true
  | .corrWrite _ _ => true
  | .angleSetWrite _ _ _ => true
  | .channelEdge _ _ => true
  | .deadTimeExpiry _ => true
  | .ilFault _ => true
  | .tideEntryFire _ => true
  | .sixstepCrossing _ => true
  | .hallStateChange _ _ => true
  | .bootIntervalExpiry _ => true
  | .refreshPulseEnd _ => true
  | .bootUvReport _ => true
  | .bootUvTest _ => true
  | .edgeClockLoss => true
  | .clkLostClear _ _ => true
  | .gfiAssert _ _ => true
  | .gfiGlitch _ _ => true
  | .gfiDeassert _ => true
  | .windowComparatorChange _ _ => true
  | .internalSourceAssert _ => true
  | .internalSourceDeassert _ => true
  | .cmWindowEnd _ _ => true
  | .safForceWrite _ _ => true
  | .sourceLatchClear _ _ _ => true
  | .groupLatchClear _ _ => true
  | .legFaultLatchClear _ _ => true
  | .alegFaultLatchClear _ _ => true
  | .safeDeadTimeExpiry _ => true
  | .bandEvaluation => true
  | .bandSelectWrite _ _ => true
  | .ringOscillatorCheck _ _ => true
  | .legFaultReaction _ _ => true
  | .safForceRelease _ => true
  | .groupForceReaction _ => true
  | .heartbeatTransition _ => true
  | .faultInstant _ _ => true
  | .linkWaitExpiry _ => true
  | .cap _ _ => true
  | .ack _ _ _ => true
  | .rateChangeSilenceEnd _ => true
  | .nak _ _ _ => true
  | .replyTimeout _ => true
  | .settleRetryWait _ => true
  | .failTimeout _ => true
  | .laneFrameError _ _ => true
  | .telem _ _ => true
  | .telemPollTimer _ => true
  | .alert _ _ => true
  | .faultData _ _ => true
  | .diagData _ _ _ _ => true
  | .diagPoll _ => true
  | .relink _ _ => true
  | .stageClr _ _ => true
  | .diagGo _ _ => true
  | .telNow _ _ => true
  | .profileSlotWrite _ _ _ _ => true
  | .sdclkWrite _ _ _ => true
  | .sdCfgWrite _ _ _ => true
  | .sdFilled _ _ => true
  | .sdResultTake _ _ => true
  | .sdResultSend _ => true
  | .sdTripAssert _ _ => true
  | .sdTripDeassert _ _ => true
  | .sdStuck _ _ => true
  | .sdUnstuck _ _ => true
  | .fcTrigger _ _ => true
  | .fcConversionComplete _ _ => true
  | .fcSettled _ => true
  | .resolverEnable _ _ _ => true
  | .resolverSample _ _ _ => true
  | .resolverValid _ => true
  | .excFault _ => true
  | .hkConversionComplete _ => true
  | .hkUrgentRequest _ _ => true
  | .hkDataRead _ => true
  | .pilotStateChange _ _ _ duty => decide (duty.toNat ≤ 1000)
  | .s2Write _ _ => true
  | .vselDebounce _ => true
  | .currentSharing _ => true
  | .wPhaseTrim _ _ _ => true
  | .commandCurveEval _ => true
  | .limpHomeEntry _ => true
  | .ominUpdate _ _ => true
  | .junctionReport _ _ _ => true
  | .damageRateEval _ => true
  | .wearSnapshot => true
  | .tractionStatusWrite _ => true
  | .omaxUpdate _ => true
  | .contactorClosedReport => true
  | .softStartEnd _ => true
  | .handoverRampEnd _ => true
  | .hiccupEntry _ => true
  | .hicOffExpiry _ _ => true
  | .hicRunReset _ => true
  | .phaseOpen _ _ => true
  | .phaseReconfiguration _ => true
  | .vselRead => true
  | .converterStatusWrite _ => true
  | .domainHandover _ _ _ _ => true
  | .chargingTargetEval _ _ => true
  | .suspendTimeout => true
  | .proximityDecode _ => true
  | .bmsMessageReceived _ _ _ _ => true
  | .bmsTimeout _ => true
  | .modStatusSend => true
  | .batteryRemovedReaction => true
  | .prechargeMatch => true
  | .prechargeTimeout => true
  | .dcContactorOpen => true
  | .weldCheckTimeout => true
  | .chargingStatusWrite => true
  | .overCurrent _ => true
  | .actBrCfgWrite _ _ _ _ => true
  | .actDiagGo _ _ _ => true
  | .actDiagStepEnd _ _ => true
  | .hallAccept _ _ => true
  | .hallFault _ => true
  | .sentFrameReceived _ _ _ _ _ _ _ _ => true
  | .sentTimeout _ => true
  | .sentSlowRead _ _ => true
  | .shiftPhaseComplete => true
  | .shiftAbort _ => true
  | .parkMoveEnd _ => true
  | .tmrMismatch _ _ _ _ _ => true
  | .resyncComplete => true
  | .selfWatchdogExpiry => true
  | .lockstepMismatch _ => true
  | .pairRestart _ => true
  | .pairReadyReport _ => true
  | .watchdogKick _ _ _ => true
  | .watchdogCloseExpiry _ => true
  | .watchdogProbe _ _ => true
  | .watchdogReaction _ => true
  | .lock => true
  | .reconfigurationWindowOpen _ _ => true
  | .reconfigurationWindowClose _ => true
  | .windowTimeout => true
  | .contactorCloseRequest _ => true
  | .coilPullEnd _ => true
  | .openingGapExpiry => true
  | .packPrechargeCompare _ => true
  | .packPrechargeTimeout => true
  | .coilFault _ _ => true
  | .jtagInstruction _ => true
  | .extest => true
  | .memoryRequest _ _ wr a n data _ => decide (1 ≤ n.val) && decide (a.toNat % 256 + n.val ≤ 256) && (!wr || decide (data.length = n.val))
  | .arbiterGrant => true
  | .memoryResponse _ os => decide (os.length ≤ 5)
  | .portClassWrite _ _ _ => true
  | .scrubStep _ => true
  | .scrubPassLate => true
  | .lagoonScrubStep _ => true
  | .dramInitChartDone => true
  | .dramInitDone => true
  | .frAllocRead _ => true
  | .frEnable _ _ => true
  | .narrowsFrameReceived f => decide (f.bytes.length ≤ 4144)
  | .canSegmentReceived _ _ _ _ data => decide (data.length ≤ 2047)
  | .segmentTimeout _ _ => true
  | .hello _ _ _ => true
  | .loginStart _ _ _ => true
  | .loginProve _ _ _ _ => true
  | .logout _ _ => true
  | .keepalive _ => true
  | .modeReq _ _ _ _ => true
  | .safeHoldReq _ => true
  | .transportReq _ _ => true
  | .driveCmd _ _ _ _ _ _ => true
  | .vehicleState _ _ _ _ => true
  | .shiftReq _ _ => true
  | .parkReq _ _ => true
  | .statusRead _ _ => true
  | .subscribe _ _ _ _ => true
  | .subscriptionReport _ => true
  | .frInfo _ => true
  | .chgStart _ => true
  | .chgStop _ => true
  | .chgPause _ _ => true
  | .faultList _ => true
  | .faultClear _ _ _ _ => true
  | .dpOpen _ _ _ _ _ => true
  | .dpClose _ _ _ => true
  | .dataWr _ _ _ data _ _ => decide (1 ≤ data.length) && decide (data.length ≤ 4096)
  | .dataRdReq _ _ _ n _ _ => decide (1 ≤ n.toNat) && decide (n.toNat ≤ 4096)
  | .pkgCommit _ _ _ _ => true
  | .pkgActivate _ _ _ => true
  | .floorRaise _ _ => true
  | .pkgInfo _ => true
  | .paramWrite _ _ _ data _ => decide (data.length ≤ 253)
  | .limitSet _ _ _ _ => true
  | .inject _ _ img _ => decide (img.length = 5)
  | .auditExport _ _ _ => true
  | .islandReq _ _ _ _ _ => true
  | .keyInstall _ _ _ _ _ => true
  | .keyRevoke _ _ _ => true
  | .certInstall _ _ _ => true
  | .fwCommit _ _ _ _ _ => true
  | .fwActivate _ _ _ => true
  | .debugStart _ => true
  | .debugProve _ _ _ => true
  | .bootHeader _ _ _ _ _ => true
  | .absLimitSet _ _ _ _ => true
  | .longCommandComplete _ _ => true
  | .inProgressRepeat _ => true
  | .sessionIdleTimeout _ _ => true
  | .loginBarExpiry _ => true
  | .stopFrame id ide fmt data => (ide || decide (id.toNat < 2048)) && decide (data.length ≤ fmt.most)
  | .canProbeTimeout _ _ cands => decide (cands.length ≤ 4)
  | .canBusOff _ => true
  | .timeSyncReceived _ _ => true
  | .timeSyncHoldover => true
  | .arpRequest _ => true
  | .icmpEcho _ => true
  | .atimeRead _ => true
  | .interfaceStatusWrite => true
  | .ladderDwellExpiry _ => true
  | .ladderStepComplete => true
  | .wakeQualified _ => true
  | .storageSupplySample _ => true
  | .alarmExpiry => true
  | .supplyRise => true
  | .presNQualified => true
  | .bootStep _ => true
  | .selfTestComplete _ => true
  | .selfTestDue => true
  | .presNWarning => true
  | .flushComplete => true
  | .presNReassert => true
  | .supplyDip => true
  | .dipRideThrough => true
  | .brownout => true
  | .brownoutRecovery => true
  | .aonPowerOnReset => true
  | .chargingCommunicationMessage _ _ => true
  | .chargingProtocolTimeout => true
  | .shuntConversion _ _ => true
  | .bootstrapComparatorRelease _ => true

/-- How many bytes of data a command carries beside its fixed operands. -/
def Instr.payload : Instr → Nat
  | .registerWrite _ _ _ _ _ _ => 0
  | .reqStateWrite _ _ _ _ => 0
  | .islandTransitionComplete _ => 0
  | .drainComplete _ => 0
  | .drainTimeout _ => 0
  | .straitWordReceive _ _ _ _ _ _ => 0
  | .straitTimeout _ _ => 0
  | .timeoutReaction _ => 0
  | .parityReaction _ => 0
  | .aonOscillatorCheck _ _ => 0
  | .modeChangeComplete => 0
  | .chartLookup _ _ _ => 0
  | .lookupLate _ => 0
  | .tileFillComplete _ _ => 0
  | .tileFillClosed => 0
  | .chartInval _ _ => 0
  | .tideStoreWrite _ _ _ _ => 0
  | .loadPpiWrite _ _ _ => 0
  | .tideLoadComplete _ => 0
  | .tideLoadClosed _ => 0
  | .pageRequest _ _ => 0
  | .tideMissLimit _ => 0
  | .activationStep _ => 0
  | .engineStart _ _ _ => 0
  | .engineDisable _ _ _ => 0
  | .faultClr _ _ _ => 0
  | .frameBoundary _ => 0
  | .inputPortArrival _ _ _ => 0
  | .sampleTrigger _ _ => 0
  | .sampleEnd _ _ _ => 0
  | .portClosed _ => 0
  | .deadlineMiss _ _ _ => 0
  | .missLimitReached _ _ => 0
  | .ctrl _ _ _ => 0
  | .move _ _ _ => 0
  | .arith _ _ _ _ _ _ => 0
  | .mac _ _ _ _ _ _ _ => 0
  | .trig _ _ _ _ _ _ => 0
  | .xform _ _ _ _ _ _ _ _ => 0
  | .port _ _ _ => 0
  | .slew _ _ _ => 0
  | .gain _ _ _ => 0
  | .law _ _ _ _ => 0
  | .model _ _ => 0
  | .plausibilityViolation _ _ => 0
  | .holdRelease _ _ => 0
  | .primingEnd _ _ => 0
  | .trace _ _ _ => 0
  | .esc _ _ _ => 0
  | .illegalInstruction _ _ => 0
  | .programMemoryWrite _ _ _ _ => 0
  | .scheduleBankWrite _ _ _ _ _ => 0
  | .commit _ _ => 0
  | .commitCheckDone _ => 0
  | .apply _ _ _ _ => 0
  | .reprime _ _ _ _ => 0
  | .groupRegisterWrite _ _ _ _ => 0
  | .debugHalt _ => 0
  | .debugResume _ => 0
  | .traceDone _ => 0
  | .streamCopyComplete _ => 0
  | .trcCtrlWrite _ _ _ => 0
  | .trcSigWrite _ _ _ _ => 0
  | .arm _ _ _ => 0
  | .traceForce _ _ _ => 0
  | .traceThrottleWrite _ _ => 0
  | .injectionStart _ _ _ => 0
  | .injectionStop _ _ _ => 0
  | .injectionDone _ => 0
  | .permitClear _ => 0
  | .domainStart _ _ => 0
  | .syncStart _ _ _ => 0
  | .domainStop _ _ _ _ => 0
  | .loadAllRequest _ _ => 0
  | .sampleInstant _ _ => 0
  | .reloadBoundary _ => 0
  | .ssEnable _ _ _ => 0
  | .halfBoundary _ => 0
  | .domainTriggerEvent _ _ => 0
  | .groupEnable _ _ _ => 0
  | .groupDisable _ _ => 0
  | .legCfgWrite _ _ _ _ => 0
  | .dutyChannelWrite _ _ => 0
  | .rateWrite _ _ _ => 0
  | .corrWrite _ _ => 0
  | .angleSetWrite _ _ _ => 0
  | .channelEdge _ _ => 0
  | .deadTimeExpiry _ => 0
  | .ilFault _ => 0
  | .tideEntryFire _ => 0
  | .sixstepCrossing _ => 0
  | .hallStateChange _ _ => 0
  | .bootIntervalExpiry _ => 0
  | .refreshPulseEnd _ => 0
  | .bootUvReport _ => 0
  | .bootUvTest _ => 0
  | .edgeClockLoss => 0
  | .clkLostClear _ _ => 0
  | .gfiAssert _ _ => 0
  | .gfiGlitch _ _ => 0
  | .gfiDeassert _ => 0
  | .windowComparatorChange _ _ => 0
  | .internalSourceAssert _ => 0
  | .internalSourceDeassert _ => 0
  | .cmWindowEnd _ _ => 0
  | .safForceWrite _ _ => 0
  | .sourceLatchClear _ _ _ => 0
  | .groupLatchClear _ _ => 0
  | .legFaultLatchClear _ _ => 0
  | .alegFaultLatchClear _ _ => 0
  | .safeDeadTimeExpiry _ => 0
  | .bandEvaluation => 0
  | .bandSelectWrite _ _ => 0
  | .ringOscillatorCheck _ _ => 0
  | .legFaultReaction _ _ => 0
  | .safForceRelease _ => 0
  | .groupForceReaction _ => 0
  | .heartbeatTransition _ => 0
  | .faultInstant _ _ => 0
  | .linkWaitExpiry _ => 0
  | .cap _ _ => 0
  | .ack _ _ _ => 0
  | .rateChangeSilenceEnd _ => 0
  | .nak _ _ _ => 0
  | .replyTimeout _ => 0
  | .settleRetryWait _ => 0
  | .failTimeout _ => 0
  | .laneFrameError _ _ => 0
  | .telem _ _ => 0
  | .telemPollTimer _ => 0
  | .alert _ _ => 0
  | .faultData _ _ => 0
  | .diagData _ _ _ _ => 0
  | .diagPoll _ => 0
  | .relink _ _ => 0
  | .stageClr _ _ => 0
  | .diagGo _ _ => 0
  | .telNow _ _ => 0
  | .profileSlotWrite _ _ _ _ => 0
  | .sdclkWrite _ _ _ => 0
  | .sdCfgWrite _ _ _ => 0
  | .sdFilled _ _ => 0
  | .sdResultTake _ _ => 0
  | .sdResultSend _ => 0
  | .sdTripAssert _ _ => 0
  | .sdTripDeassert _ _ => 0
  | .sdStuck _ _ => 0
  | .sdUnstuck _ _ => 0
  | .fcTrigger _ _ => 0
  | .fcConversionComplete _ _ => 0
  | .fcSettled _ => 0
  | .resolverEnable _ _ _ => 0
  | .resolverSample _ _ _ => 0
  | .resolverValid _ => 0
  | .excFault _ => 0
  | .hkConversionComplete _ => 0
  | .hkUrgentRequest _ _ => 0
  | .hkDataRead _ => 0
  | .pilotStateChange _ _ _ _ => 0
  | .s2Write _ _ => 0
  | .vselDebounce _ => 0
  | .currentSharing _ => 0
  | .wPhaseTrim _ _ _ => 0
  | .commandCurveEval _ => 0
  | .limpHomeEntry _ => 0
  | .ominUpdate _ _ => 0
  | .junctionReport _ _ _ => 0
  | .damageRateEval _ => 0
  | .wearSnapshot => 0
  | .tractionStatusWrite _ => 0
  | .omaxUpdate _ => 0
  | .contactorClosedReport => 0
  | .softStartEnd _ => 0
  | .handoverRampEnd _ => 0
  | .hiccupEntry _ => 0
  | .hicOffExpiry _ _ => 0
  | .hicRunReset _ => 0
  | .phaseOpen _ _ => 0
  | .phaseReconfiguration _ => 0
  | .vselRead => 0
  | .converterStatusWrite _ => 0
  | .domainHandover _ _ _ _ => 0
  | .chargingTargetEval _ _ => 0
  | .suspendTimeout => 0
  | .proximityDecode _ => 0
  | .bmsMessageReceived _ _ _ _ => 0
  | .bmsTimeout _ => 0
  | .modStatusSend => 0
  | .batteryRemovedReaction => 0
  | .prechargeMatch => 0
  | .prechargeTimeout => 0
  | .dcContactorOpen => 0
  | .weldCheckTimeout => 0
  | .chargingStatusWrite => 0
  | .overCurrent _ => 0
  | .actBrCfgWrite _ _ _ _ => 0
  | .actDiagGo _ _ _ => 0
  | .actDiagStepEnd _ _ => 0
  | .hallAccept _ _ => 0
  | .hallFault _ => 0
  | .sentFrameReceived _ _ _ _ _ _ _ _ => 0
  | .sentTimeout _ => 0
  | .sentSlowRead _ _ => 0
  | .shiftPhaseComplete => 0
  | .shiftAbort _ => 0
  | .parkMoveEnd _ => 0
  | .tmrMismatch _ _ _ _ _ => 0
  | .resyncComplete => 0
  | .selfWatchdogExpiry => 0
  | .lockstepMismatch _ => 0
  | .pairRestart _ => 0
  | .pairReadyReport _ => 0
  | .watchdogKick _ _ _ => 0
  | .watchdogCloseExpiry _ => 0
  | .watchdogProbe _ _ => 0
  | .watchdogReaction _ => 0
  | .lock => 0
  | .reconfigurationWindowOpen _ _ => 0
  | .reconfigurationWindowClose _ => 0
  | .windowTimeout => 0
  | .contactorCloseRequest _ => 0
  | .coilPullEnd _ => 0
  | .openingGapExpiry => 0
  | .packPrechargeCompare _ => 0
  | .packPrechargeTimeout => 0
  | .coilFault _ _ => 0
  | .jtagInstruction _ => 0
  | .extest => 0
  | .memoryRequest _ _ wr _ _ data _ => if wr then data.length else 0
  | .arbiterGrant => 0
  | .memoryResponse _ _ => 0
  | .portClassWrite _ _ _ => 0
  | .scrubStep _ => 0
  | .scrubPassLate => 0
  | .lagoonScrubStep _ => 0
  | .dramInitChartDone => 0
  | .dramInitDone => 0
  | .frAllocRead _ => 0
  | .frEnable _ _ => 0
  | .narrowsFrameReceived f => f.bytes.length - 48
  | .canSegmentReceived _ _ _ _ data => data.length
  | .segmentTimeout _ _ => 0
  | .hello _ _ _ => 0
  | .loginStart _ _ _ => 0
  | .loginProve _ _ _ _ => 0
  | .logout _ _ => 0
  | .keepalive _ => 0
  | .modeReq _ _ _ _ => 0
  | .safeHoldReq _ => 0
  | .transportReq _ _ => 0
  | .driveCmd _ _ _ _ _ _ => 0
  | .vehicleState _ _ _ _ => 0
  | .shiftReq _ _ => 0
  | .parkReq _ _ => 0
  | .statusRead _ _ => 0
  | .subscribe _ _ _ _ => 0
  | .subscriptionReport _ => 0
  | .frInfo _ => 0
  | .chgStart _ => 0
  | .chgStop _ => 0
  | .chgPause _ _ => 0
  | .faultList _ => 0
  | .faultClear _ _ _ _ => 0
  | .dpOpen _ _ _ _ _ => 0
  | .dpClose _ _ _ => 0
  | .dataWr _ _ _ data _ _ => data.length
  | .dataRdReq _ _ _ _ _ _ => 0
  | .pkgCommit _ _ _ _ => 0
  | .pkgActivate _ _ _ => 0
  | .floorRaise _ _ => 0
  | .pkgInfo _ => 0
  | .paramWrite _ _ _ data _ => data.length
  | .limitSet _ _ _ _ => 0
  | .inject _ _ img _ => 4 * img.length
  | .auditExport _ _ _ => 0
  | .islandReq _ _ _ _ _ => 0
  | .keyInstall _ _ _ _ _ => 0
  | .keyRevoke _ _ _ => 0
  | .certInstall _ _ _ => 0
  | .fwCommit _ _ _ _ _ => 0
  | .fwActivate _ _ _ => 0
  | .debugStart _ => 0
  | .debugProve _ _ _ => 0
  | .bootHeader _ _ _ _ _ => 0
  | .absLimitSet _ _ _ _ => 0
  | .longCommandComplete _ _ => 0
  | .inProgressRepeat _ => 0
  | .sessionIdleTimeout _ _ => 0
  | .loginBarExpiry _ => 0
  | .stopFrame _ _ _ data => data.length
  | .canProbeTimeout _ _ _ => 0
  | .canBusOff _ => 0
  | .timeSyncReceived _ _ => 0
  | .timeSyncHoldover => 0
  | .arpRequest _ => 0
  | .icmpEcho _ => 0
  | .atimeRead _ => 0
  | .interfaceStatusWrite => 0
  | .ladderDwellExpiry _ => 0
  | .ladderStepComplete => 0
  | .wakeQualified _ => 0
  | .storageSupplySample _ => 0
  | .alarmExpiry => 0
  | .supplyRise => 0
  | .presNQualified => 0
  | .bootStep _ => 0
  | .selfTestComplete _ => 0
  | .selfTestDue => 0
  | .presNWarning => 0
  | .flushComplete => 0
  | .presNReassert => 0
  | .supplyDip => 0
  | .dipRideThrough => 0
  | .brownout => 0
  | .brownoutRecovery => 0
  | .aonPowerOnReset => 0
  | .chargingCommunicationMessage _ _ => 0
  | .chargingProtocolTimeout => 0
  | .shuntConversion _ _ => 0
  | .bootstrapComparatorRelease _ => 0

end Sys2Proof
end

