-- ==== Sys2Proof/Laws/PerInstr.lean ====
section
/-!
SUPPORT. What holds of each command as syntax: the family `Scope` says that a command the interface can present carries at most
4,096 bytes of data.
-/
namespace Sys2Proof.Laws.Scope
open Sys2Proof

/-- A command that can be presented carries at most 4,096 bytes. -/
def Statement (i : Instr) : Prop := i.wf = true → i.payload ≤ 4096

theorem registerWrite (w : Who) (a : BitVec 40) (wide : Bool) (v : Word) (p : Pins) (same : Word) : Statement (.registerWrite w a wide v p same) :=
  fun _ => Nat.zero_le _
theorem reqStateWrite (w : Who) (n : IslandIx) (st : Fin 8) (force : Bool) : Statement (.reqStateWrite w n st force) :=
  fun _ => Nat.zero_le _
theorem islandTransitionComplete (n : IslandIx) : Statement (.islandTransitionComplete n) :=
  fun _ => Nat.zero_le _
theorem drainComplete (n : IslandIx) : Statement (.drainComplete n) :=
  fun _ => Nat.zero_le _
theorem drainTimeout (n : IslandIx) : Statement (.drainTimeout n) :=
  fun _ => Nat.zero_le _
theorem straitWordReceive (i j : IslandIx) (payload : BitVec 64) (par : BitVec 8) (kind : Fin 4) (kpar : Bool) : Statement (.straitWordReceive i j payload par kind kpar) :=
  fun _ => Nat.zero_le _
theorem straitTimeout (i n : IslandIx) : Statement (.straitTimeout i n) :=
  fun _ => Nat.zero_le _
theorem timeoutReaction (n : IslandIx) : Statement (.timeoutReaction n) :=
  fun _ => Nat.zero_le _
theorem parityReaction (n : IslandIx) : Statement (.parityReaction n) :=
  fun _ => Nat.zero_le _
theorem aonOscillatorCheck (stopped : Bool) (dev : Half) : Statement (.aonOscillatorCheck stopped dev) :=
  fun _ => Nat.zero_le _
theorem modeChangeComplete : Statement (.modeChangeComplete) :=
  fun _ => Nat.zero_le _
theorem chartLookup (e : EngIx) (f : Ecc) (o : ChartOp) : Statement (.chartLookup e f o) :=
  fun _ => Nat.zero_le _
theorem lookupLate (e : EngIx) : Statement (.lookupLate e) :=
  fun _ => Nat.zero_le _
theorem tileFillComplete (m : Fin 2) (tile : Fin 65536) : Statement (.tileFillComplete m tile) :=
  fun _ => Nat.zero_le _
theorem tileFillClosed : Statement (.tileFillClosed) :=
  fun _ => Nat.zero_le _
theorem chartInval (w : Who) (v : Word) : Statement (.chartInval w v) :=
  fun _ => Nat.zero_le _
theorem tideStoreWrite (w : Who) (p : PlayerIx) (k : Fin 16384) (v : Word) : Statement (.tideStoreWrite w p k v) :=
  fun _ => Nat.zero_le _
theorem loadPpiWrite (w : Who) (p : PlayerIx) (v : Word) : Statement (.loadPpiWrite w p v) :=
  fun _ => Nat.zero_le _
theorem tideLoadComplete (p : PlayerIx) : Statement (.tideLoadComplete p) :=
  fun _ => Nat.zero_le _
theorem tideLoadClosed (p : PlayerIx) : Statement (.tideLoadClosed p) :=
  fun _ => Nat.zero_le _
theorem pageRequest (p : PlayerIx) (ppi : Half) : Statement (.pageRequest p ppi) :=
  fun _ => Nat.zero_le _
theorem tideMissLimit (p : PlayerIx) : Statement (.tideMissLimit p) :=
  fun _ => Nat.zero_le _
theorem activationStep (a : ActStep) : Statement (.activationStep a) :=
  fun _ => Nat.zero_le _
theorem engineStart (w : Who) (e : EngIx) (v : Word) : Statement (.engineStart w e v) :=
  fun _ => Nat.zero_le _
theorem engineDisable (w : Who) (e : EngIx) (v : Word) : Statement (.engineDisable w e v) :=
  fun _ => Nat.zero_le _
theorem faultClr (w : Who) (e : EngIx) (v : Word) : Statement (.faultClr w e v) :=
  fun _ => Nat.zero_le _
theorem frameBoundary (e : EngIx) : Statement (.frameBoundary e) :=
  fun _ => Nat.zero_le _
theorem inputPortArrival (e : EngIx) (p : Fin 32) (v : Word) : Statement (.inputPortArrival e p v) :=
  fun _ => Nat.zero_le _
theorem sampleTrigger (e : EngIx) (i : Fin 64) : Statement (.sampleTrigger e i) :=
  fun _ => Nat.zero_le _
theorem sampleEnd (e : EngIx) (f : Ecc) (obs : List ProgObs) : Statement (.sampleEnd e f obs) :=
  fun _ => Nat.zero_le _
theorem portClosed (e : EngIx) : Statement (.portClosed e) :=
  fun _ => Nat.zero_le _
theorem deadlineMiss (e : EngIx) (i : Fin 64) (late : Bool) : Statement (.deadlineMiss e i late) :=
  fun _ => Nat.zero_le _
theorem missLimitReached (e : EngIx) (k : SlotIx) : Statement (.missLimitReached e k) :=
  fun _ => Nat.zero_le _
theorem ctrl (e : EngIx) (f : Ecc) (o : CtrlOp) : Statement (.ctrl e f o) :=
  fun _ => Nat.zero_le _
theorem move (e : EngIx) (f : Ecc) (o : MoveOp) : Statement (.move e f o) :=
  fun _ => Nat.zero_le _
theorem arith (e : EngIx) (f : Ecc) (o : ArithOp) (d a b : RegIx) : Statement (.arith e f o d a b) :=
  fun _ => Nat.zero_le _
theorem mac (e : EngIx) (f : Ecc) (q : MacFmt) (acc : Bool) (d : Fin 2) (a b : RegIx) : Statement (.mac e f q acc d a b) :=
  fun _ => Nat.zero_le _
theorem trig (e : EngIx) (f : Ecc) (o : TrigOp) (d a b : RegIx) : Statement (.trig e f o d a b) :=
  fun _ => Nat.zero_le _
theorem xform (e : EngIx) (f : Ecc) (o : XformOp) (d0 d1 a b c : RegIx) : Statement (.xform e f o d0 d1 a b c) :=
  fun _ => Nat.zero_le _
theorem port (e : EngIx) (f : Ecc) (o : PortOp) : Statement (.port e f o) :=
  fun _ => Nat.zero_le _
theorem slew (e : EngIx) (f : Ecc) (k : SlotIx) : Statement (.slew e f k) :=
  fun _ => Nat.zero_le _
theorem gain (e : EngIx) (f : Ecc) (k : SlotIx) : Statement (.gain e f k) :=
  fun _ => Nat.zero_le _
theorem law (e : EngIx) (f : Ecc) (k : SlotIx) (d : Ecc) : Statement (.law e f k d) :=
  fun _ => Nat.zero_le _
theorem model (e : EngIx) (f : Ecc) : Statement (.model e f) :=
  fun _ => Nat.zero_le _
theorem plausibilityViolation (e : EngIx) (k : SlotIx) : Statement (.plausibilityViolation e k) :=
  fun _ => Nat.zero_le _
theorem holdRelease (e : EngIx) (k : SlotIx) : Statement (.holdRelease e k) :=
  fun _ => Nat.zero_le _
theorem primingEnd (e : EngIx) (k : SlotIx) : Statement (.primingEnd e k) :=
  fun _ => Nat.zero_le _
theorem trace (e : EngIx) (f : Ecc) (o : TraceOp) : Statement (.trace e f o) :=
  fun _ => Nat.zero_le _
theorem esc (e : EngIx) (f : Ecc) (o : EscOp) : Statement (.esc e f o) :=
  fun _ => Nat.zero_le _
theorem illegalInstruction (e : EngIx) (f : Ecc) : Statement (.illegalInstruction e f) :=
  fun _ => Nat.zero_le _
theorem programMemoryWrite (w : Who) (e : EngIx) (k : Fin 8192) (v : Word) : Statement (.programMemoryWrite w e k v) :=
  fun _ => Nat.zero_le _
theorem scheduleBankWrite (w : Who) (e : EngIx) (b : Fin 2) (k : Fin 256) (v : Word) : Statement (.scheduleBankWrite w e b k v) :=
  fun _ => Nat.zero_le _
theorem commit (w : Who) (e : EngIx) : Statement (.commit w e) :=
  fun _ => Nat.zero_le _
theorem commitCheckDone (e : EngIx) : Statement (.commitCheckDone e) :=
  fun _ => Nat.zero_le _
theorem apply (w : Who) (e : EngIx) (k : SlotIx) (v : Word) : Statement (.apply w e k v) :=
  fun _ => Nat.zero_le _
theorem reprime (w : Who) (e : EngIx) (k : SlotIx) (v : Word) : Statement (.reprime w e k v) :=
  fun _ => Nat.zero_le _
theorem groupRegisterWrite (w : Who) (e : EngIx) (g : Fin 4) (v : Word) : Statement (.groupRegisterWrite w e g v) :=
  fun _ => Nat.zero_le _
theorem debugHalt (x : EngIx ⊕ Fin 9) : Statement (.debugHalt x) :=
  fun _ => Nat.zero_le _
theorem debugResume (x : EngIx ⊕ Fin 9) : Statement (.debugResume x) :=
  fun _ => Nat.zero_le _
theorem traceDone (e : EngIx) : Statement (.traceDone e) :=
  fun _ => Nat.zero_le _
theorem streamCopyComplete (e : EngIx) : Statement (.streamCopyComplete e) :=
  fun _ => Nat.zero_le _
theorem trcCtrlWrite (w : Who) (e : EngIx) (v : Word) : Statement (.trcCtrlWrite w e v) :=
  fun _ => Nat.zero_le _
theorem trcSigWrite (w : Who) (e : EngIx) (i : Fin 16) (v : Word) : Statement (.trcSigWrite w e i v) :=
  fun _ => Nat.zero_le _
theorem arm (w : Who) (e : EngIx) (v : Word) : Statement (.arm w e v) :=
  fun _ => Nat.zero_le _
theorem traceForce (w : Who) (e : EngIx) (post : Half) : Statement (.traceForce w e post) :=
  fun _ => Nat.zero_le _
theorem traceThrottleWrite (w : Who) (v : Word) : Statement (.traceThrottleWrite w v) :=
  fun _ => Nat.zero_le _
theorem injectionStart (w : Who) (e : EngIx) (v : Word) : Statement (.injectionStart w e v) :=
  fun _ => Nat.zero_le _
theorem injectionStop (w : Who) (e : EngIx) (v : Word) : Statement (.injectionStop w e v) :=
  fun _ => Nat.zero_le _
theorem injectionDone (e : EngIx) : Statement (.injectionDone e) :=
  fun _ => Nat.zero_le _
theorem permitClear (e : EngIx) : Statement (.permitClear e) :=
  fun _ => Nat.zero_le _
theorem domainStart (w : Who) (m : BitVec 8) : Statement (.domainStart w m) :=
  fun _ => Nat.zero_le _
theorem syncStart (w : Who) (start ldall : BitVec 8) : Statement (.syncStart w start ldall) :=
  fun _ => Nat.zero_le _
theorem domainStop (w : Who) (d : DomIx) (dbl strict : Bool) : Statement (.domainStop w d dbl strict) :=
  fun _ => Nat.zero_le _
theorem loadAllRequest (w : Option Who) (m : BitVec 8) : Statement (.loadAllRequest w m) :=
  fun _ => Nat.zero_le _
theorem sampleInstant (d : DomIx) (half : Bool) : Statement (.sampleInstant d half) :=
  fun _ => Nat.zero_le _
theorem reloadBoundary (d : DomIx) : Statement (.reloadBoundary d) :=
  fun _ => Nat.zero_le _
theorem ssEnable (w : Who) (d : DomIx) (en : Bool) : Statement (.ssEnable w d en) :=
  fun _ => Nat.zero_le _
theorem halfBoundary (d : DomIx) : Statement (.halfBoundary d) :=
  fun _ => Nat.zero_le _
theorem domainTriggerEvent (d : DomIx) (e : Fin 3) : Statement (.domainTriggerEvent d e) :=
  fun _ => Nat.zero_le _
theorem groupEnable (w : Who) (g : GroupIx) (p : Pins) : Statement (.groupEnable w g p) :=
  fun _ => Nat.zero_le _
theorem groupDisable (w : Who) (g : GroupIx) : Statement (.groupDisable w g) :=
  fun _ => Nat.zero_le _
theorem legCfgWrite (w : Who) (n : LegIx) (r : Fin 4) (v : Word) : Statement (.legCfgWrite w n r v) :=
  fun _ => Nat.zero_le _
theorem dutyChannelWrite (c : Fin 12) (v : Half) : Statement (.dutyChannelWrite c v) :=
  fun _ => Nat.zero_le _
theorem rateWrite (w : Option Who) (p : PlayerIx) (v : BitVec 24) : Statement (.rateWrite w p v) :=
  fun _ => Nat.zero_le _
theorem corrWrite (p : PlayerIx) (v : BitVec 24) : Statement (.corrWrite p v) :=
  fun _ => Nat.zero_le _
theorem angleSetWrite (w : Option Who) (p : PlayerIx) (v : BitVec 24) : Statement (.angleSetWrite w p v) :=
  fun _ => Nat.zero_le _
theorem channelEdge (n : LegIx) (r : EdgeReq) : Statement (.channelEdge n r) :=
  fun _ => Nat.zero_le _
theorem deadTimeExpiry (n : LegIx) : Statement (.deadTimeExpiry n) :=
  fun _ => Nat.zero_le _
theorem ilFault (n : LegIx) : Statement (.ilFault n) :=
  fun _ => Nat.zero_le _
theorem tideEntryFire (p : PlayerIx) : Statement (.tideEntryFire p) :=
  fun _ => Nat.zero_le _
theorem sixstepCrossing (n : LegIx) : Statement (.sixstepCrossing n) :=
  fun _ => Nat.zero_le _
theorem hallStateChange (b : Fin 3) (v : BitVec 3) : Statement (.hallStateChange b v) :=
  fun _ => Nat.zero_le _
theorem bootIntervalExpiry (n : LegIx) : Statement (.bootIntervalExpiry n) :=
  fun _ => Nat.zero_le _
theorem refreshPulseEnd (n : LegIx) : Statement (.refreshPulseEnd n) :=
  fun _ => Nat.zero_le _
theorem bootUvReport (n : LegIx) : Statement (.bootUvReport n) :=
  fun _ => Nat.zero_le _
theorem bootUvTest (n : LegIx) : Statement (.bootUvTest n) :=
  fun _ => Nat.zero_le _
theorem edgeClockLoss : Statement (.edgeClockLoss) :=
  fun _ => Nat.zero_le _
theorem clkLostClear (w : Who) (v : Word) : Statement (.clkLostClear w v) :=
  fun _ => Nat.zero_le _
theorem gfiAssert (i : Fin 8) (ns : BitVec 32) : Statement (.gfiAssert i ns) :=
  fun _ => Nat.zero_le _
theorem gfiGlitch (i : Fin 8) (ns : BitVec 32) : Statement (.gfiGlitch i ns) :=
  fun _ => Nat.zero_le _
theorem gfiDeassert (i : Fin 8) : Statement (.gfiDeassert i) :=
  fun _ => Nat.zero_le _
theorem windowComparatorChange (c : Fin 16) (v : BitVec 10) : Statement (.windowComparatorChange c v) :=
  fun _ => Nat.zero_le _
theorem internalSourceAssert (src : Fin 77) : Statement (.internalSourceAssert src) :=
  fun _ => Nat.zero_le _
theorem internalSourceDeassert (src : Fin 77) : Statement (.internalSourceDeassert src) :=
  fun _ => Nat.zero_le _
theorem cmWindowEnd (m : Fin 8) (count : BitVec 12) : Statement (.cmWindowEnd m count) :=
  fun _ => Nat.zero_le _
theorem safForceWrite (w : Who) (m : BitVec 16) : Statement (.safForceWrite w m) :=
  fun _ => Nat.zero_le _
theorem sourceLatchClear (w : Who) (k : Fin 3) (m : Word) : Statement (.sourceLatchClear w k m) :=
  fun _ => Nat.zero_le _
theorem groupLatchClear (w : Who) (m : BitVec 16) : Statement (.groupLatchClear w m) :=
  fun _ => Nat.zero_le _
theorem legFaultLatchClear (w : Who) (m : Word) : Statement (.legFaultLatchClear w m) :=
  fun _ => Nat.zero_le _
theorem alegFaultLatchClear (w : Who) (m : BitVec 9) : Statement (.alegFaultLatchClear w m) :=
  fun _ => Nat.zero_le _
theorem safeDeadTimeExpiry (g : GroupIx) : Statement (.safeDeadTimeExpiry g) :=
  fun _ => Nat.zero_le _
theorem bandEvaluation : Statement (.bandEvaluation) :=
  fun _ => Nat.zero_le _
theorem bandSelectWrite (w : Who) (m : BitVec 16) : Statement (.bandSelectWrite w m) :=
  fun _ => Nat.zero_le _
theorem ringOscillatorCheck (stopped : Bool) (dev : BitVec 16) : Statement (.ringOscillatorCheck stopped dev) :=
  fun _ => Nat.zero_le _
theorem legFaultReaction (g : GroupIx) (why : Fin 3) : Statement (.legFaultReaction g why) :=
  fun _ => Nat.zero_le _
theorem safForceRelease (g : GroupIx) : Statement (.safForceRelease g) :=
  fun _ => Nat.zero_le _
theorem groupForceReaction (g : GroupIx) : Statement (.groupForceReaction g) :=
  fun _ => Nat.zero_le _
theorem heartbeatTransition (n : LinkIx) : Statement (.heartbeatTransition n) :=
  fun _ => Nat.zero_le _
theorem faultInstant (n : LinkIx) (pos : Bool) : Statement (.faultInstant n pos) :=
  fun _ => Nat.zero_le _
theorem linkWaitExpiry (n : LinkIx) : Statement (.linkWaitExpiry n) :=
  fun _ => Nat.zero_le _
theorem cap (n : LinkIx) (c : BitVec 128) : Statement (.cap n c) :=
  fun _ => Nat.zero_le _
theorem ack (n : LinkIx) (code : BitVec 7) (echo : Word) : Statement (.ack n code echo) :=
  fun _ => Nat.zero_le _
theorem rateChangeSilenceEnd (n : LinkIx) : Statement (.rateChangeSilenceEnd n) :=
  fun _ => Nat.zero_le _
theorem nak (n : LinkIx) (code : BitVec 7) (cause : BitVec 8) : Statement (.nak n code cause) :=
  fun _ => Nat.zero_le _
theorem replyTimeout (n : LinkIx) : Statement (.replyTimeout n) :=
  fun _ => Nat.zero_le _
theorem settleRetryWait (n : LinkIx) : Statement (.settleRetryWait n) :=
  fun _ => Nat.zero_le _
theorem failTimeout (n : LinkIx) : Statement (.failTimeout n) :=
  fun _ => Nat.zero_le _
theorem laneFrameError (n : LinkIx) (crc : Bool) : Statement (.laneFrameError n crc) :=
  fun _ => Nat.zero_le _
theorem telem (n : LinkIx) (v : BitVec 96) : Statement (.telem n v) :=
  fun _ => Nat.zero_le _
theorem telemPollTimer (n : LinkIx) : Statement (.telemPollTimer n) :=
  fun _ => Nat.zero_le _
theorem alert (n : LinkIx) (v : BitVec 8) : Statement (.alert n v) :=
  fun _ => Nat.zero_le _
theorem faultData (n : LinkIx) (cause : BitVec 8) : Statement (.faultData n cause) :=
  fun _ => Nat.zero_le _
theorem diagData (n : LinkIx) (gate node desat : BitVec 8) : Statement (.diagData n gate node desat) :=
  fun _ => Nat.zero_le _
theorem diagPoll (n : LinkIx) : Statement (.diagPoll n) :=
  fun _ => Nat.zero_le _
theorem relink (w : Who) (n : LinkIx) : Statement (.relink w n) :=
  fun _ => Nat.zero_le _
theorem stageClr (w : Who) (n : LinkIx) : Statement (.stageClr w n) :=
  fun _ => Nat.zero_le _
theorem diagGo (w : Who) (n : LinkIx) : Statement (.diagGo w n) :=
  fun _ => Nat.zero_le _
theorem telNow (w : Who) (n : LinkIx) : Statement (.telNow w n) :=
  fun _ => Nat.zero_le _
theorem profileSlotWrite (w : Who) (n : LinkIx) (k : Fin 4) (v : Word) : Statement (.profileSlotWrite w n k v) :=
  fun _ => Nat.zero_le _
theorem sdclkWrite (w : Who) (k : Fin 4) (v : Word) : Statement (.sdclkWrite w k v) :=
  fun _ => Nat.zero_le _
theorem sdCfgWrite (w : Who) (c : Fin 24) (v : Word) : Statement (.sdCfgWrite w c v) :=
  fun _ => Nat.zero_le _
theorem sdFilled (c : Fin 24) (l : List (Bool × Bool)) : Statement (.sdFilled c l) :=
  fun _ => Nat.zero_le _
theorem sdResultTake (c : Fin 24) (l : List (Bool × Bool)) : Statement (.sdResultTake c l) :=
  fun _ => Nat.zero_le _
theorem sdResultSend (c : Fin 24) : Statement (.sdResultSend c) :=
  fun _ => Nat.zero_le _
theorem sdTripAssert (c : Fin 24) (l : List (Bool × Bool)) : Statement (.sdTripAssert c l) :=
  fun _ => Nat.zero_le _
theorem sdTripDeassert (c : Fin 24) (l : List (Bool × Bool)) : Statement (.sdTripDeassert c l) :=
  fun _ => Nat.zero_le _
theorem sdStuck (c : Fin 24) (l : List (Bool × Bool)) : Statement (.sdStuck c l) :=
  fun _ => Nat.zero_le _
theorem sdUnstuck (c : Fin 24) (l : List (Bool × Bool)) : Statement (.sdUnstuck c l) :=
  fun _ => Nat.zero_le _
theorem fcTrigger (c : Fin 8) (x : Option (Who × Word)) : Statement (.fcTrigger c x) :=
  fun _ => Nat.zero_le _
theorem fcConversionComplete (c : Fin 8) (codes : BitVec 112) : Statement (.fcConversionComplete c codes) :=
  fun _ => Nat.zero_le _
theorem fcSettled (c : Fin 8) : Statement (.fcSettled c) :=
  fun _ => Nat.zero_le _
theorem resolverEnable (w : Who) (r : Fin 2) (v : Word) : Statement (.resolverEnable w r v) :=
  fun _ => Nat.zero_le _
theorem resolverSample (r : Fin 2) (sinCode cosCode : BitVec 14) : Statement (.resolverSample r sinCode cosCode) :=
  fun _ => Nat.zero_le _
theorem resolverValid (r : Fin 2) : Statement (.resolverValid r) :=
  fun _ => Nat.zero_le _
theorem excFault (r : Fin 2) : Statement (.excFault r) :=
  fun _ => Nat.zero_le _
theorem hkConversionComplete (code : BitVec 12) : Statement (.hkConversionComplete code) :=
  fun _ => Nat.zero_le _
theorem hkUrgentRequest (w : Who) (v : Word) : Statement (.hkUrgentRequest w v) :=
  fun _ => Nat.zero_le _
theorem hkDataRead (w : Who) : Statement (.hkDataRead w) :=
  fun _ => Nat.zero_le _
theorem pilotStateChange (osc : Bool) (h low : Half) (duty : BitVec 10) : Statement (.pilotStateChange osc h low duty) :=
  fun _ => Nat.zero_le _
theorem s2Write (w : Who) (v : Word) : Statement (.s2Write w v) :=
  fun _ => Nat.zero_le _
theorem vselDebounce (raw : BitVec 3) : Statement (.vselDebounce raw) :=
  fun _ => Nat.zero_le _
theorem currentSharing (m : Fin 2) : Statement (.currentSharing m) :=
  fun _ => Nat.zero_le _
theorem wPhaseTrim (m : Fin 2) (w1 w2 : Half) : Statement (.wPhaseTrim m w1 w2) :=
  fun _ => Nat.zero_le _
theorem commandCurveEval (m : Fin 2) : Statement (.commandCurveEval m) :=
  fun _ => Nat.zero_le _
theorem limpHomeEntry (m : Fin 2) : Statement (.limpHomeEntry m) :=
  fun _ => Nat.zero_le _
theorem ominUpdate (m : Fin 2) (v : Half) : Statement (.ominUpdate m v) :=
  fun _ => Nat.zero_le _
theorem junctionReport (m : Fin 2) (x : Fin 6) (v : Half) : Statement (.junctionReport m x v) :=
  fun _ => Nat.zero_le _
theorem damageRateEval (m : Fin 2) : Statement (.damageRateEval m) :=
  fun _ => Nat.zero_le _
theorem wearSnapshot : Statement (.wearSnapshot) :=
  fun _ => Nat.zero_le _
theorem tractionStatusWrite (m : Fin 2) : Statement (.tractionStatusWrite m) :=
  fun _ => Nat.zero_le _
theorem omaxUpdate (c : Fin 2) : Statement (.omaxUpdate c) :=
  fun _ => Nat.zero_le _
theorem contactorClosedReport : Statement (.contactorClosedReport) :=
  fun _ => Nat.zero_le _
theorem softStartEnd (c : Fin 2) : Statement (.softStartEnd c) :=
  fun _ => Nat.zero_le _
theorem handoverRampEnd (p : Pins) : Statement (.handoverRampEnd p) :=
  fun _ => Nat.zero_le _
theorem hiccupEntry (c : Fin 2) : Statement (.hiccupEntry c) :=
  fun _ => Nat.zero_le _
theorem hicOffExpiry (c : Fin 2) (present : Bool) : Statement (.hicOffExpiry c present) :=
  fun _ => Nat.zero_le _
theorem hicRunReset (c : Fin 2) : Statement (.hicRunReset c) :=
  fun _ => Nat.zero_le _
theorem phaseOpen (c : Fin 2) (k : Fin 6) : Statement (.phaseOpen c k) :=
  fun _ => Nat.zero_le _
theorem phaseReconfiguration (present : Bool) : Statement (.phaseReconfiguration present) :=
  fun _ => Nat.zero_le _
theorem vselRead : Statement (.vselRead) :=
  fun _ => Nat.zero_le _
theorem converterStatusWrite (c : Fin 2) : Statement (.converterStatusWrite c) :=
  fun _ => Nat.zero_le _
theorem domainHandover (step : Fin 7) (dab : Bool) (trgA trgB : Half) : Statement (.domainHandover step dab trgA trgB) :=
  fun _ => Nat.zero_le _
theorem chargingTargetEval (ac tmod : Half) : Statement (.chargingTargetEval ac tmod) :=
  fun _ => Nat.zero_le _
theorem suspendTimeout : Statement (.suspendTimeout) :=
  fun _ => Nat.zero_le _
theorem proximityDecode (shown : Bool) : Statement (.proximityDecode shown) :=
  fun _ => Nat.zero_le _
theorem bmsMessageReceived (port : Fin 4) (xl : Bool) (id : Word) (v : BitVec 64) : Statement (.bmsMessageReceived port xl id v) :=
  fun _ => Nat.zero_le _
theorem bmsTimeout (k : Fin 3) : Statement (.bmsTimeout k) :=
  fun _ => Nat.zero_le _
theorem modStatusSend : Statement (.modStatusSend) :=
  fun _ => Nat.zero_le _
theorem batteryRemovedReaction : Statement (.batteryRemovedReaction) :=
  fun _ => Nat.zero_le _
theorem prechargeMatch : Statement (.prechargeMatch) :=
  fun _ => Nat.zero_le _
theorem prechargeTimeout : Statement (.prechargeTimeout) :=
  fun _ => Nat.zero_le _
theorem dcContactorOpen : Statement (.dcContactorOpen) :=
  fun _ => Nat.zero_le _
theorem weldCheckTimeout : Statement (.weldCheckTimeout) :=
  fun _ => Nat.zero_le _
theorem chargingStatusWrite : Statement (.chargingStatusWrite) :=
  fun _ => Nat.zero_le _
theorem overCurrent (b : Fin 3) : Statement (.overCurrent b) :=
  fun _ => Nat.zero_le _
theorem actBrCfgWrite (w : Who) (b : Fin 3) (p3 : Bool) (v : Word) : Statement (.actBrCfgWrite w b p3 v) :=
  fun _ => Nat.zero_le _
theorem actDiagGo (w : Who) (b : Fin 3) (v : Word) : Statement (.actDiagGo w b v) :=
  fun _ => Nat.zero_le _
theorem actDiagStepEnd (b : Fin 3) (z : Zone) : Statement (.actDiagStepEnd b z) :=
  fun _ => Nat.zero_le _
theorem hallAccept (b : Fin 3) (v : BitVec 3) : Statement (.hallAccept b v) :=
  fun _ => Nat.zero_le _
theorem hallFault (b : Fin 3) : Statement (.hallFault b) :=
  fun _ => Nat.zero_le _
theorem sentFrameReceived (c : Fin 8) (tick : BitVec 17) (six crc : Bool) (fc1 fc2 : BitVec 12) (scn : BitVec 4) (slow : Option (BitVec 8 × Half)) : Statement (.sentFrameReceived c tick six crc fc1 fc2 scn slow) :=
  fun _ => Nat.zero_le _
theorem sentTimeout (c : Fin 8) : Statement (.sentTimeout c) :=
  fun _ => Nat.zero_le _
theorem sentSlowRead (w : Who) (c : Fin 8) : Statement (.sentSlowRead w c) :=
  fun _ => Nat.zero_le _
theorem shiftPhaseComplete : Statement (.shiftPhaseComplete) :=
  fun _ => Nat.zero_le _
theorem shiftAbort (c : Fin 8) : Statement (.shiftAbort c) :=
  fun _ => Nat.zero_le _
theorem parkMoveEnd (e : MoveEnd) : Statement (.parkMoveEnd e) :=
  fun _ => Nat.zero_le _
theorem tmrMismatch (kind : Fin 3) (word : Option (Fin 49152)) (x0 x1 x2 : BitVec 64) : Statement (.tmrMismatch kind word x0 x1 x2) :=
  fun _ => Nat.zero_le _
theorem resyncComplete : Statement (.resyncComplete) :=
  fun _ => Nat.zero_le _
theorem selfWatchdogExpiry : Statement (.selfWatchdogExpiry) :=
  fun _ => Nat.zero_le _
theorem lockstepMismatch (p : PairIx) : Statement (.lockstepMismatch p) :=
  fun _ => Nat.zero_le _
theorem pairRestart (p : PairIx) : Statement (.pairRestart p) :=
  fun _ => Nat.zero_le _
theorem pairReadyReport (p : PairIx) : Statement (.pairReadyReport p) :=
  fun _ => Nat.zero_le _
theorem watchdogKick (k : Who) (w : Fin 16) (key : Half) : Statement (.watchdogKick k w key) :=
  fun _ => Nat.zero_le _
theorem watchdogCloseExpiry (w : Fin 16) : Statement (.watchdogCloseExpiry w) :=
  fun _ => Nat.zero_le _
theorem watchdogProbe (w : Fin 16) (ans : Option Word) : Statement (.watchdogProbe w ans) :=
  fun _ => Nat.zero_le _
theorem watchdogReaction (w : Fin 16) : Statement (.watchdogReaction w) :=
  fun _ => Nat.zero_le _
theorem lock : Statement (.lock) :=
  fun _ => Nat.zero_le _
theorem reconfigurationWindowOpen (act : Bool) (m : Half) : Statement (.reconfigurationWindowOpen act m) :=
  fun _ => Nat.zero_le _
theorem reconfigurationWindowClose (ok : Bool) : Statement (.reconfigurationWindowClose ok) :=
  fun _ => Nat.zero_le _
theorem windowTimeout : Statement (.windowTimeout) :=
  fun _ => Nat.zero_le _
theorem contactorCloseRequest (c : Fin 8) : Statement (.contactorCloseRequest c) :=
  fun _ => Nat.zero_le _
theorem coilPullEnd (c : Fin 8) : Statement (.coilPullEnd c) :=
  fun _ => Nat.zero_le _
theorem openingGapExpiry : Statement (.openingGapExpiry) :=
  fun _ => Nat.zero_le _
theorem packPrechargeCompare (v : Half) : Statement (.packPrechargeCompare v) :=
  fun _ => Nat.zero_le _
theorem packPrechargeTimeout : Statement (.packPrechargeTimeout) :=
  fun _ => Nat.zero_le _
theorem coilFault (c : Fin 8) (short : Bool) : Statement (.coilFault c short) :=
  fun _ => Nat.zero_le _
theorem jtagInstruction (i : Fin 6) : Statement (.jtagInstruction i) :=
  fun _ => Nat.zero_le _
theorem extest : Statement (.extest) :=
  fun _ => Nat.zero_le _
theorem memoryRequest (w : Who) (p : Fin 32) (wr : Bool) (a : BitVec 40) (n : Fin 257) (data : List (BitVec 8)) (e : Ecc) : Statement (.memoryRequest w p wr a n data e) :=
  fun h => by
  simp only [Instr.wf, Bool.and_eq_true, Bool.or_eq_true, Bool.not_eq_true', decide_eq_true_eq] at h
  simp only [Instr.payload]
  split
  · rcases h.2 with h2 | h2
    · simp_all
    · omega
  · omega
theorem arbiterGrant : Statement (.arbiterGrant) :=
  fun _ => Nat.zero_le _
theorem memoryResponse (i : Fin 64) (os : List Flips) : Statement (.memoryResponse i os) :=
  fun _ => Nat.zero_le _
theorem portClassWrite (w : Who) (p : Fin 32) (v : Word) : Statement (.portClassWrite w p v) :=
  fun _ => Nat.zero_le _
theorem scrubStep (f : Flips) : Statement (.scrubStep f) :=
  fun _ => Nat.zero_le _
theorem scrubPassLate : Statement (.scrubPassLate) :=
  fun _ => Nat.zero_le _
theorem lagoonScrubStep (o : Ecc) : Statement (.lagoonScrubStep o) :=
  fun _ => Nat.zero_le _
theorem dramInitChartDone : Statement (.dramInitChartDone) :=
  fun _ => Nat.zero_le _
theorem dramInitDone : Statement (.dramInitDone) :=
  fun _ => Nat.zero_le _
theorem frAllocRead (w : Who) : Statement (.frAllocRead w) :=
  fun _ => Nat.zero_le _
theorem frEnable (w : Who) (v : Word) : Statement (.frEnable w v) :=
  fun _ => Nat.zero_le _
theorem narrowsFrameReceived (f : Frame) : Statement (.narrowsFrameReceived f) := by
  intro h; simp only [Instr.wf, Instr.payload, decide_eq_true_eq] at h ⊢; omega
theorem canSegmentReceived (p : Fin 4) (n : Fin 16) (hdr : BitVec 8) (full : Bool) (data : List (BitVec 8)) : Statement (.canSegmentReceived p n hdr full data) := by
  intro h; simp only [Instr.wf, Instr.payload, decide_eq_true_eq] at h ⊢; omega
theorem segmentTimeout (p : Fin 4) (n : Fin 16) : Statement (.segmentTimeout p n) :=
  fun _ => Nat.zero_le _
theorem hello (n : Fin 16) (pvMin pvMax : BitVec 8) : Statement (.hello n pvMin pvMax) :=
  fun _ => Nat.zero_le _
theorem loginStart (n : Fin 16) (role : BitVec 8) (key : BitVec 64) : Statement (.loginStart n role key) :=
  fun _ => Nat.zero_le _
theorem loginProve (n : Fin 16) (heph hsig : BitVec 512) (aud : Bool) : Statement (.loginProve n heph hsig aud) :=
  fun _ => Nat.zero_le _
theorem logout (n : Fin 16) (aud : Bool) : Statement (.logout n aud) :=
  fun _ => Nat.zero_le _
theorem keepalive (n : Fin 16) : Statement (.keepalive n) :=
  fun _ => Nat.zero_le _
theorem modeReq (n : Fin 16) (tgt : BitVec 8) (p : Pins) (aud : Bool) : Statement (.modeReq n tgt p aud) :=
  fun _ => Nat.zero_le _
theorem safeHoldReq (n : Fin 16) : Statement (.safeHoldReq n) :=
  fun _ => Nat.zero_le _
theorem transportReq (n : Fin 16) (p : Pins) : Statement (.transportReq n p) :=
  fun _ => Nat.zero_le _
theorem driveCmd (n : Fin 16) (ca : Half) (da : BitVec 8) (cb : Half) (db alive : BitVec 8) : Statement (.driveCmd n ca da cb db alive) :=
  fun _ => Nat.zero_le _
theorem vehicleState (n : Fin 16) (spd : Half) (odo : Word) (alive : BitVec 8) : Statement (.vehicleState n spd odo alive) :=
  fun _ => Nat.zero_le _
theorem shiftReq (n : Fin 16) (tgt : BitVec 8) : Statement (.shiftReq n tgt) :=
  fun _ => Nat.zero_le _
theorem parkReq (n : Fin 16) (v : BitVec 8) : Statement (.parkReq n v) :=
  fun _ => Nat.zero_le _
theorem statusRead (n : Fin 16) (b : BitVec 8) : Statement (.statusRead n b) :=
  fun _ => Nat.zero_le _
theorem subscribe (n : Fin 16) (mask : BitVec 8) (period trace : Half) : Statement (.subscribe n mask period trace) :=
  fun _ => Nat.zero_le _
theorem subscriptionReport (k : Fin 4) : Statement (.subscriptionReport k) :=
  fun _ => Nat.zero_le _
theorem frInfo (n : Fin 16) : Statement (.frInfo n) :=
  fun _ => Nat.zero_le _
theorem chgStart (n : Fin 16) : Statement (.chgStart n) :=
  fun _ => Nat.zero_le _
theorem chgStop (n : Fin 16) : Statement (.chgStop n) :=
  fun _ => Nat.zero_le _
theorem chgPause (n : Fin 16) (v : BitVec 8) : Statement (.chgPause n v) :=
  fun _ => Nat.zero_le _
theorem faultList (n : Fin 16) : Statement (.faultList n) :=
  fun _ => Nat.zero_le _
theorem faultClear (n : Fin 16) (item : BitVec 8) (ix : Half) (aud : Bool) : Statement (.faultClear n item ix aud) :=
  fun _ => Nat.zero_le _
theorem dpOpen (n : Fin 16) (addr : BitVec 40) (inc dir : BitVec 8) (aud : Bool) : Statement (.dpOpen n addr inc dir aud) :=
  fun _ => Nat.zero_le _
theorem dpClose (n : Fin 16) (handle : Half) (aud : Bool) : Statement (.dpClose n handle aud) :=
  fun _ => Nat.zero_le _
theorem dataWr (k : Fin 4) (handle : Half) (bidx : Word) (data : List (BitVec 8)) (os : List Flips) (aud : Bool) : Statement (.dataWr k handle bidx data os aud) :=
  fun h => by simp [Instr.wf] at h; simpa [Instr.payload] using h.2
theorem dataRdReq (k : Fin 4) (handle : Half) (bidx : Word) (n : Half) (os : List Flips) (aud : Bool) : Statement (.dataRdReq k handle bidx n os aud) :=
  fun _ => Nat.zero_le _
theorem pkgCommit (n : Fin 16) (slot : BitVec 8) (size : BitVec 64) (aud : Bool) : Statement (.pkgCommit n slot size aud) :=
  fun _ => Nat.zero_le _
theorem pkgActivate (n : Fin 16) (slot : BitVec 8) (aud : Bool) : Statement (.pkgActivate n slot aud) :=
  fun _ => Nat.zero_le _
theorem floorRaise (n : Fin 16) (aud : Bool) : Statement (.floorRaise n aud) :=
  fun _ => Nat.zero_le _
theorem pkgInfo (n : Fin 16) : Statement (.pkgInfo n) :=
  fun _ => Nat.zero_le _
theorem paramWrite (n : Fin 16) (r : ParamRec) (off : Half) (data : List (BitVec 8)) (aud : Bool) : Statement (.paramWrite n r off data aud) :=
  fun h => by simp [Instr.wf] at h; simp only [Instr.payload]; omega
theorem limitSet (n : Fin 16) (l : BitVec 8) (v : Word) (aud : Bool) : Statement (.limitSet n l v aud) :=
  fun _ => Nat.zero_le _
theorem inject (n : Fin 16) (e : BitVec 8) (img : List Word) (aud : Bool) : Statement (.inject n e img aud) :=
  fun h => by simp [Instr.wf] at h; simp only [Instr.payload]; omega
theorem auditExport (n : Fin 16) (first cnt : Word) : Statement (.auditExport n first cnt) :=
  fun _ => Nat.zero_le _
theorem islandReq (n : Fin 16) (i st : BitVec 8) (force aud : Bool) : Statement (.islandReq n i st force aud) :=
  fun _ => Nat.zero_le _
theorem keyInstall (n : Fin 16) (role : BitVec 8) (x y : BitVec 256) (aud : Bool) : Statement (.keyInstall n role x y aud) :=
  fun _ => Nat.zero_le _
theorem keyRevoke (n : Fin 16) (key : BitVec 64) (aud : Bool) : Statement (.keyRevoke n key aud) :=
  fun _ => Nat.zero_le _
theorem certInstall (n : Fin 16) (size : Half) (aud : Bool) : Statement (.certInstall n size aud) :=
  fun _ => Nat.zero_le _
theorem fwCommit (n : Fin 16) (slot : BitVec 8) (size : BitVec 64) (chk : BitVec 8) (aud : Bool) : Statement (.fwCommit n slot size chk aud) :=
  fun _ => Nat.zero_le _
theorem fwActivate (n : Fin 16) (slot : BitVec 8) (aud : Bool) : Statement (.fwActivate n slot aud) :=
  fun _ => Nat.zero_le _
theorem debugStart (n : Fin 16) : Statement (.debugStart n) :=
  fun _ => Nat.zero_le _
theorem debugProve (n : Fin 16) (sig : BitVec 512) (aud : Bool) : Statement (.debugProve n sig aud) :=
  fun _ => Nat.zero_le _
theorem bootHeader (n : Fin 16) (split : BitVec 8) (sig : BitVec 512) (sigOk aud : Bool) : Statement (.bootHeader n split sig sigOk aud) :=
  fun _ => Nat.zero_le _
theorem absLimitSet (n : Fin 16) (l : BitVec 8) (v : Word) (aud : Bool) : Statement (.absLimitSet n l v aud) :=
  fun _ => Nat.zero_le _
theorem longCommandComplete (n : Fin 16) (st : BitVec 8) : Statement (.longCommandComplete n st) :=
  fun _ => Nat.zero_le _
theorem inProgressRepeat (n : Fin 16) : Statement (.inProgressRepeat n) :=
  fun _ => Nat.zero_le _
theorem sessionIdleTimeout (k : Fin 4) (aud : Bool) : Statement (.sessionIdleTimeout k aud) :=
  fun _ => Nat.zero_le _
theorem loginBarExpiry (role : Fin 4) : Statement (.loginBarExpiry role) :=
  fun _ => Nat.zero_le _
theorem stopFrame (id : BitVec 29) (ide : Bool) (fmt : CanFmt) (data : List (BitVec 8)) : Statement (.stopFrame id ide fmt data) :=
  fun h => by
  simp only [Instr.wf, Bool.and_eq_true, decide_eq_true_eq] at h
  have := h.2
  simp only [Instr.payload]
  revert this
  cases fmt <;> simp [CanFmt.most] <;> omega
theorem canProbeTimeout (p : Fin 3) (ok : Bool) (cands : List (BitVec 4)) : Statement (.canProbeTimeout p ok cands) :=
  fun _ => Nat.zero_le _
theorem canBusOff (p : Fin 3) : Statement (.canBusOff p) :=
  fun _ => Nat.zero_le _
theorem timeSyncReceived (p : Fin 2) (t : BitVec 64) : Statement (.timeSyncReceived p t) :=
  fun _ => Nat.zero_le _
theorem timeSyncHoldover : Statement (.timeSyncHoldover) :=
  fun _ => Nat.zero_le _
theorem arpRequest (p : Fin 2) : Statement (.arpRequest p) :=
  fun _ => Nat.zero_le _
theorem icmpEcho (p : Fin 2) : Statement (.icmpEcho p) :=
  fun _ => Nat.zero_le _
theorem atimeRead (w : Who) : Statement (.atimeRead w) :=
  fun _ => Nat.zero_le _
theorem interfaceStatusWrite : Statement (.interfaceStatusWrite) :=
  fun _ => Nat.zero_le _
theorem ladderDwellExpiry (p : Pins) : Statement (.ladderDwellExpiry p) :=
  fun _ => Nat.zero_le _
theorem ladderStepComplete : Statement (.ladderStepComplete) :=
  fun _ => Nat.zero_le _
theorem wakeQualified (src : Fin 16) : Statement (.wakeQualified src) :=
  fun _ => Nat.zero_le _
theorem storageSupplySample (code : BitVec 12) : Statement (.storageSupplySample code) :=
  fun _ => Nat.zero_le _
theorem alarmExpiry : Statement (.alarmExpiry) :=
  fun _ => Nat.zero_le _
theorem supplyRise : Statement (.supplyRise) :=
  fun _ => Nat.zero_le _
theorem presNQualified : Statement (.presNQualified) :=
  fun _ => Nat.zero_le _
theorem bootStep (k : Fin 19) : Statement (.bootStep k) :=
  fun _ => Nat.zero_le _
theorem selfTestComplete (x : SelfTest) : Statement (.selfTestComplete x) :=
  fun _ => Nat.zero_le _
theorem selfTestDue : Statement (.selfTestDue) :=
  fun _ => Nat.zero_le _
theorem presNWarning : Statement (.presNWarning) :=
  fun _ => Nat.zero_le _
theorem flushComplete : Statement (.flushComplete) :=
  fun _ => Nat.zero_le _
theorem presNReassert : Statement (.presNReassert) :=
  fun _ => Nat.zero_le _
theorem supplyDip : Statement (.supplyDip) :=
  fun _ => Nat.zero_le _
theorem dipRideThrough : Statement (.dipRideThrough) :=
  fun _ => Nat.zero_le _
theorem brownout : Statement (.brownout) :=
  fun _ => Nat.zero_le _
theorem brownoutRecovery : Statement (.brownoutRecovery) :=
  fun _ => Nat.zero_le _
theorem aonPowerOnReset : Statement (.aonPowerOnReset) :=
  fun _ => Nat.zero_le _
theorem chargingCommunicationMessage (t1s : Bool) (m : EvseMsg) : Statement (.chargingCommunicationMessage t1s m) :=
  fun _ => Nat.zero_le _
theorem chargingProtocolTimeout : Statement (.chargingProtocolTimeout) :=
  fun _ => Nat.zero_le _
theorem shuntConversion (b : Fin 3) (code : BitVec 12) : Statement (.shuntConversion b code) :=
  fun _ => Nat.zero_le _
theorem bootstrapComparatorRelease (a : Fin 9) : Statement (.bootstrapComparatorRelease a) :=
  fun _ => Nat.zero_le _

end Sys2Proof.Laws.Scope
end

