-- ==== Sys2Proof/Tests/Slice0.lean ====
section
/-!
SUPPORT. Tests: ill-formed commands that the check refuses, single steps whose expected results are calculated from spec/, and, for every
statement with hypotheses, a state and operands that meet the hypotheses of each of its clauses together.
-/
namespace Sys2Proof.Tests
open Sys2Proof Sys2Proof.Machine
/-- A small state: reset with the quantities of a list written, as (quantity, index, index, value). -/
def st (l : List (Fld × Nat × Nat × Nat)) : State := l.foldl (fun s q => s.set q.1 q.2.2.2 q.2.1 q.2.2.1) .reset
/-- The same with numbers stored in memory, as (address, value, bytes). -/
def stm (l : List (Fld × Nat × Nat × Nat)) (m : List (Nat × Nat × Nat)) : State := m.foldl (fun s q => s.writeN q.1 q.2.1 q.2.2) (st l)
/-- A write is carried out where the checks of the address, the island and the firewall say so. -/
theorem reaches_of {s : State} {w : Who} {a v : Nat} (h : ((match windowOf a with
    | some n => s.islandOpen n w
    | none => false) && regExists a && s.mayWrite w a v) = true) : s.reaches w a v := by
  simp only [Bool.and_eq_true] at h
  refine ⟨?_, h.1.2, h.2⟩
  obtain ⟨⟨h, _⟩, _⟩ := h
  split at h
  · exact ⟨_, by assumption, h⟩
  · cases h
/-- The same for a read. -/
theorem readable_of {s : State} {w : Who} {a : Nat} (h : ((match windowOf a with
    | some n => s.islandOpen n w
    | none => false) && regExists a) = true) : s.readable w a := by
  simp only [Bool.and_eq_true] at h
  refine ⟨?_, h.2⟩
  obtain ⟨h, _⟩ := h
  split at h
  · exact ⟨_, by assumption, h⟩
  · cases h
/-- A quantity that a small state does not write reads as after reset. -/
theorem get_st_of {l : List (Fld × Nat × Nat × Nat)} {f : Fld} (h : l.all (fun q => decide (q.1 ≠ f)) = true) (i j : Nat) :
    (st l).get f i j = State.reset.get f i j := by
  unfold st
  generalize State.reset = s0
  induction l generalizing s0 with
  | nil => rfl
  | cons q l ih =>
    simp only [List.all_cons, Bool.and_eq_true, decide_eq_true_eq] at h
    rw [List.foldl_cons, ih h.2, State.get_set]
    simp [Ne.symm h.1]
theorem inTurn_of {s : State} {n code role len par : Nat} (h : s.narrows = true ∧ s.servable n code = true ∧
    ((0x100 ≤ code ∧ code < 0x200) ↔ n = 0) ∧ s.get (.host .MB_PLEN) n = len ∧ s.mbParam n = par ∧ (role = 0 ∨ (s.mbSession n ≠ 0 ∧ role ≤ s.mbRole n))) :
    s.inTurn n code role len par := h

/-- What a command leads to. -/
def after (c : Instr) (s : State) : State :=
  match exec c s with
  | .next t => t
  | _ => s

/-! Ill-formed commands. -/
theorem test_wf_request_length : (Instr.memoryRequest .safety 0 false 0 0 [] .clean).wf = false := by decide
theorem test_wf_request_line : (Instr.memoryRequest .safety 0 false 1 256 [] .clean).wf = false := by decide
theorem test_wf_request_data : (Instr.memoryRequest .safety 0 true 0 1 [] .clean).wf = false := by decide
theorem test_wf_response : (Instr.memoryResponse 0 [[], [], [], [], [], []]).wf = false := by decide
theorem test_wf_burst : (Instr.dataWr 0 0 0 [] [] true).wf = false := by decide
theorem test_wf_read_burst : (Instr.dataRdReq 0 0 0 4097 [] true).wf = false := by decide
theorem test_wf_param : (Instr.paramWrite 0 .unknown 0 (List.replicate 254 0) true).wf = false :=
  show decide ((List.replicate 254 (0 : BitVec 8)).length ≤ 253) = false by rw [List.length_replicate]; decide
theorem test_wf_stop_id : (Instr.stopFrame 2048 false .fd []).wf = false := by decide
theorem test_wf_stop_length : (Instr.stopFrame 0 false .classical (List.replicate 9 0)).wf = false := by decide
theorem test_wf_candidates : (Instr.canProbeTimeout 0 true [0, 1, 2, 3, 4]).wf = false := by decide
theorem test_wf_injection : (Instr.inject 0 0 [0] true).wf = false := by decide
theorem test_wf_activation : (Instr.activationStep ⟨1, false, false, false, false, 0, [], [], []⟩).wf = false := by decide
theorem test_wf_pilot_duty : (Instr.pilotStateChange true 0 0 1001).wf = false := by decide
theorem test_wf_good : (Instr.memoryRequest .safety 0 true 0 1 [7] .clean).wf = true := by decide

/-! Single steps. The source of each expected result stands beside it. -/
/-- The table gives its rows no bits. -/
theorem test_no_word : decodeTableWord 8 0 = none := by decide
/-- DI2_ID reads 0x0402_0301 (01, after R23). -/
theorem test_di2_id : State.reset.readReg 0x1022000000 = 0x04020301 := by decide
/-- EDGE_ID reads 0x0700_0301 (01, after R23). -/
theorem test_edge_id : State.reset.readReg 0x1040000000 = 0x07000301 := by decide
/-- The front of the queue is carried out and leaves it; LOCK is set (R478). -/
theorem test_step_front : step { State.reset with pending := [.lock] } = .next (after .lock .reset) ∧
    (after .lock .reset).get (.saf .LOCK_LOCK) = 1 := ⟨rfl, by decide⟩
/-- 0x01_C000_0000 is not mapped (R48, R49). -/
theorem test_unmapped : (after (.registerWrite .safety 0x1C0000000 true 0 ⟨false, false, false, false, false⟩ 0) .reset).resp = .error 2 := by
  decide
/-- EDGE is OFF after reset, so a write to it answers CLOSED (R32). -/
theorem test_closed : (after (.registerWrite .safety 0x1040000020 true 0 ⟨false, false, false, false, false⟩ 0) .reset).resp = .closed := by
  decide
/-- 2 + 3 in registers G1 and G2 of LE0 gives 5 in G0 (R107). -/
theorem test_add : (after (.arith 0 .clean .add 0 1 2) (stm [(.loop .LE_RUN, 0, 0, 1), (.loop .LE_STAT_STATE, 0, 0, 1),
    (.loop .LE_G, 0, 1, 2), (.loop .LE_G, 0, 2, 3)] [(0x1030040000, 0x2000000000000000, 8)])).get (.loop .LE_G) 0 0 = 5 := by decide
/-- The destination may be a source: 1 shifted left by itself gives 2 (R107). -/
theorem test_shl : (after (.arith 0 .clean .shl 1 1 1) (stm [(.loop .LE_RUN, 0, 0, 1), (.loop .LE_STAT_STATE, 0, 0, 1),
    (.loop .LE_G, 0, 1, 1)] [(0x1030040000, 0x2000000000000000, 8)])).get (.loop .LE_G) 0 1 = 2 := by decide
/-- Duty word 0x7FFF is the whole period, 0x4000 half of 80,000 fine ticks (R194). -/
theorem test_duty : (after (.dutyChannelWrite 0 0x7FFF) (st [(.edge .DCH_LEGS, 0, 0, 1)])).get (.edge .LEG_DUTY) 0 = 80000 ∧
    (after (.dutyChannelWrite 0 0x4000) (st [(.edge .DCH_LEGS, 0, 0, 1)])).get (.edge .LEG_DUTY) 0 = 40000 := by decide
/-- The trip of sigma-delta channel 0 is source 24, routed to OG0 after reset (R229). -/
theorem test_trip_route : (after (.sdTripAssert 0 [(true, true)]) { st [(.saf .ISL_STAT_STATE, 9, 0, 0), (.sns .SD_CFG_EN, 0, 0, 1),
    (.sns .SDCLK_FREQ, 0, 0, 1), (.sns .SD_AT, 0, 0, 100), (.sns .SD_CFG_TRIP_EN, 0, 0, 1), (.sns .SD_NB, 0, 0, 1000),
    (.sns .SD_OUTN, 0, 0, 300), (.sns .SD_TRIP_THR_LO, 0, 0, 32767), (.grd .OG_LATCH, 0, 0, 0)] with now := 640 }).get (.grd .OG_LATCH) = 1 := by decide +kernel
/-- 0x3000 is 12,288 and 0xC000 is -16,384 of 32,768 (00, the second example). -/
theorem test_sample_format : toSigned 16 0xC000 = -16384 ∧ toSigned 16 0x3000 = 12288 := by decide

/-- The hypotheses of each clause of `IslandTransitions` can be met. -/
theorem test_IslandTransitions_hypotheses :
    (∃ (n : IslandIx) (st : Fin 8) (f : Bool) (s : State), n.val ≠ 0 ∧ n.val ≠ 12 ∧ s.reaches .safety (islandCtrlAddr n.val) (st.val + 16
      * f.toNat) ∧ s.get (.saf .ISL_STAT_BUSY) n.val = 1) ∧
    (∃ (n : IslandIx) (s : State), n.val ∉ [0, 8, 10, 12, 13] ∧ s.reaches .safety (islandCtrlAddr n.val) 1 ∧ s.get (.saf .ISL_STAT_BUSY)
      n.val = 0 ∧ s.get (.saf .ISL_STAT_STATE) n.val = 0 ∧ s.get (.saf .ISL_DEP) n.val &&& s.get (.edge .OG_EN) = 0) ∧
    (∃ (n : IslandIx) (s : State), n.val ∉ [0, 8, 10, 12, 13] ∧ s.reaches .safety (islandCtrlAddr n.val) 1 ∧ s.get (.saf .ISL_STAT_BUSY)
      n.val = 0 ∧ s.get (.saf .ISL_STAT_STATE) n.val = 0 ∧ s.get (.saf .ISL_DEP) n.val &&& s.get (.edge .OG_EN) ≠ 0) ∧
    (∃ (n : IslandIx) (s : State), n.val ∉ [0, 12] ∧ s.reaches .safety (islandCtrlAddr n.val) 0 ∧ s.get (.saf .ISL_STAT_BUSY) n.val = 0 ∧
      s.get (.saf .ISL_STAT_STATE) n.val = 3) ∧
    (∃ (n : IslandIx) (s : State), s.get (.saf .ISL_STAT_BUSY) n.val = 1 ∧ s.get (.saf .ISL_STAT_STATE) n.val = 0 ∧ s.get (.saf .ISL_TGT)
      n.val ∈ [1, 2, 3] ∧ s.straitsEmpty n.val = true) ∧
    (∃ (n : IslandIx) (s : State), n.val ≠ 10 ∧ s.get (.saf .ISL_STAT_BUSY) n.val = 1 ∧ s.get (.saf .ISL_STAT_STATE) n.val = 0 ∧ s.get
      (.saf .ISL_TGT) n.val ∈ [1, 2, 3] ∧ s.get (.saf .ISL_STAT_DRAINED) n.val = 0 ∧ s.get (.saf .ISL_AT) n.val + us 2 ≤ s.now) ∧
    (∃ (i : IslandIx) (n : IslandIx) (s : State), s.get (.saf .ISL_STAT_STATE) n.val = 0) ∧
    (∃ (n : IslandIx) (s : State), n.val ∉ [1, 6, 7, 10, 11] ∧ s.get (.saf .ISL_STAT_BUSY) n.val = 1 ∧ s.get (.saf .ISL_STAT_STATE) n.val
      = 0 ∧ s.get (.saf .ISL_TGT) n.val = 1 ∧ s.get (.saf .ISL_STAT_DRAINED) n.val = 1 ∧ s.get (.saf .ISL_PLAN) n.val = 0 ∧ (∀ m, s.get
      (.host .MB_RUN) m = 0)) ∧
    (∃ (s : State), s.get (.saf .ISL_STAT_BUSY) 7 = 1 ∧ s.get (.saf .ISL_STAT_STATE) 7 = 0 ∧ s.get (.saf .ISL_TGT) 7 = 1 ∧ s.get (.saf
      .ISL_STAT_DRAINED) 7 = 1 ∧ s.get (.saf .ISL_PLAN) 7 = 0 ∧ (∀ m, s.get (.host .MB_RUN) m = 0)) ∧
    (∃ (s : State), s.get (.saf .ISL_STAT_BUSY) 11 = 1 ∧ s.get (.saf .ISL_STAT_STATE) 11 = 0 ∧ s.get (.saf .ISL_TGT) 11 = 1 ∧ s.get (.saf
      .ISL_STAT_DRAINED) 11 = 1 ∧ s.get (.saf .ISL_PLAN) 11 = 0 ∧ (∀ m, s.get (.host .MB_RUN) m = 0)) :=
⟨⟨13, 7, true, (st [((.saf .ISL_STAT_BUSY), (13 : IslandIx).val, 0, 1)]), by decide, by decide, reaches_of (by decide), by decide⟩,
  ⟨11, (st [((.saf .ISL_STAT_BUSY), (11 : IslandIx).val, 0, 0), ((.saf .ISL_STAT_STATE), (11 : IslandIx).val, 0, 0)]), by decide,
    reaches_of (by decide), by decide, by decide, by decide⟩,
  ⟨11, (st [((.saf .ISL_STAT_BUSY), (11 : IslandIx).val, 0, 0), ((.saf .ISL_STAT_STATE), (11 : IslandIx).val, 0, 0), ((.edge .OG_EN), 0,
    0, 0x40)]), by decide, reaches_of (by decide), by decide, by decide, by decide⟩,
  ⟨13, (st [((.saf .ISL_STAT_BUSY), (13 : IslandIx).val, 0, 0), ((.saf .ISL_STAT_STATE), (13 : IslandIx).val, 0, 3)]), by decide,
    reaches_of (by decide), by decide, by decide⟩,
  ⟨13, (st [((.saf .ISL_STAT_BUSY), 13, 0, 1), ((.saf .ISL_STAT_STATE), 13, 0, 0), ((.saf .ISL_TGT), 13, 0, 1)]), by decide, by decide,
    by decide, by decide⟩,
  ⟨13, { (st [((.saf .ISL_STAT_BUSY), 13, 0, 1), ((.saf .ISL_STAT_STATE), 13, 0, 0), ((.saf .ISL_TGT), 13, 0, 1)]) with now := 12800 },
    by decide, by decide, by decide, by decide, by decide, by decide⟩,
  ⟨3, 13, (st [((.saf .ISL_STAT_STATE), 13, 0, 0)]), by decide⟩,
  ⟨13, (st [((.saf .ISL_STAT_BUSY), (13 : IslandIx).val, 0, 1), ((.saf .ISL_STAT_STATE), (13 : IslandIx).val, 0, 0), ((.saf .ISL_TGT), (13
    : IslandIx).val, 0, 1), ((.saf .ISL_STAT_DRAINED), (13 : IslandIx).val, 0, 1), ((.saf .ISL_PLAN), (13 : IslandIx).val, 0, 0)]),
    by decide, by decide, by decide, by decide, by decide, by decide, fun m => (get_st_of (by decide) m 0).trans rfl⟩,
  ⟨(st [((.saf .ISL_STAT_BUSY), 7, 0, 1), ((.saf .ISL_STAT_STATE), 7, 0, 0), ((.saf .ISL_TGT), 7, 0, 1), ((.saf .ISL_STAT_DRAINED), 7, 0,
    1), ((.saf .ISL_PLAN), 7, 0, 0)]), by decide, by decide, by decide, by decide, by decide, fun m => (get_st_of (by decide) m 0).trans
    rfl⟩,
  ⟨(st [((.saf .ISL_STAT_BUSY), 11, 0, 1), ((.saf .ISL_STAT_STATE), 11, 0, 0), ((.saf .ISL_TGT), 11, 0, 1), ((.saf .ISL_STAT_DRAINED), 11,
    0, 1), ((.saf .ISL_PLAN), 11, 0, 0)]), by decide, by decide, by decide, by decide, by decide, fun m => (get_st_of (by decide) m
    0).trans rfl⟩⟩

/-- The hypotheses of each clause of `Straits` can be met. -/
theorem test_Straits_hypotheses :
    (∃ (i : IslandIx) (j : IslandIx) (d : BitVec 64) (par : BitVec 8) (k : Fin 4) (kp : Bool) (s : State), s.get (.saf .ISL_STAT_STATE)
      i.val = 0 ∧ s.get (.saf .ISL_STAT_STATE) j.val ≠ 0) ∧
    (∃ (i : IslandIx) (j : IslandIx) (d : BitVec 64) (par : BitVec 8) (kp : Bool) (s : State), s.get (.saf .ISL_STAT_STATE) i.val = 0 ∧
      s.get (.saf .ISL_STAT_STATE) j.val = 0 ∧ s.get (.saf .ISL_STAT_BUSY) j.val = 0 ∧ s.get (.saf .STR_BAD) i.val j.val = 0 ∧ parityOk
      d.toNat par.toNat 0 kp = true) ∧
    (∃ (i : IslandIx) (j : IslandIx) (d : BitVec 64) (par : BitVec 8) (kp : Bool) (s : State), s.get (.saf .ISL_STAT_STATE) i.val = 0 ∧
      s.get (.saf .ISL_STAT_STATE) j.val = 0 ∧ s.get (.saf .ISL_STAT_BUSY) j.val = 0 ∧ s.get (.saf .STR_BAD) i.val j.val = 0 ∧ parityOk
      d.toNat par.toNat 1 kp = true) ∧
    (∃ (i : IslandIx) (j : IslandIx) (d : BitVec 64) (par : BitVec 8) (kp : Bool) (s : State), s.get (.saf .ISL_STAT_STATE) i.val = 0 ∧
      s.get (.saf .ISL_STAT_STATE) j.val = 0 ∧ s.get (.saf .ISL_STAT_BUSY) j.val = 0 ∧ parityOk d.toNat par.toNat 0 kp = false) ∧
    (∃ (n : IslandIx) (s : State), s.get (.saf .ISL_STAT_TIMEOUT) n.val = 1 ∧ s.get (.saf .TMR_STAT_MODE) ≠ 3 ∧ s.get (.saf
      .ESC_TMO_REACT) = 0) ∧
    (∃ (n : IslandIx) (s : State), s.get (.saf .TMR_STAT_MODE) ≠ 3 ∧ s.get (.saf .ESC_PAR_REACT) = 0 ∧ s.parityRisen n.val (max 1 (s.get
      (.saf .ESC_PAR_LIM))) = true) ∧
    (∃ (n : IslandIx) (s : State), n.val ≠ 0 ∧ n.val ≠ 12 ∧ s.get (.saf .ISL_STAT_TIMEOUT) n.val = 1 ∧ s.get (.saf .TMR_STAT_MODE) ≠ 3 ∧
      s.get (.saf .ESC_TMO_REACT) = 1) ∧
    (∃ (stopped : Bool) (dev : Half) (s : State), s.get (.saf .ISL_STAT_STATE) 0 = 0 ∧ s.settled ∧ (stopped = true ∨ 100 < dev.toNat)) ∧
    (∃ (dev : Half) (s : State), dev.toNat ≤ 100) :=
⟨⟨0, 13, 0, 0, 3, true, (st [((.saf .ISL_STAT_STATE), (13 : IslandIx).val, 0, 1)]), by decide, by decide⟩,
  ⟨0, 13, 0, 255, true, (st [((.saf .ISL_STAT_STATE), (13 : IslandIx).val, 0, 0), ((.saf .ISL_STAT_BUSY), (13 : IslandIx).val, 0, 0),
    ((.saf .STR_BAD), (13 : IslandIx).val, (13 : IslandIx).val, 0)]), by decide, by decide, by decide, by decide, by decide⟩,
  ⟨0, 13, 0, 255, false, (st [((.saf .ISL_STAT_STATE), (13 : IslandIx).val, 0, 0), ((.saf .ISL_STAT_BUSY), (13 : IslandIx).val, 0, 0),
    ((.saf .STR_BAD), (13 : IslandIx).val, (13 : IslandIx).val, 0)]), by decide, by decide, by decide, by decide, by decide⟩,
  ⟨0, 13, 0, 0, true, (st [((.saf .ISL_STAT_STATE), (13 : IslandIx).val, 0, 0), ((.saf .ISL_STAT_BUSY), (13 : IslandIx).val, 0, 0)]),
    by decide, by decide, by decide, by decide⟩,
  ⟨13, (st [((.saf .ISL_STAT_TIMEOUT), (13 : IslandIx).val, 0, 1), ((.saf .ESC_TMO_REACT), 0, 0, 0)]), by decide, by decide, by decide⟩,
  ⟨13, (st [((.saf .ESC_PAR_REACT), 0, 0, 0), ((.saf .ESC_PAR_LIM), 0, 0, 1), ((.saf .PAR_IX), 13, 0, 1), ((.saf .PAR_AT), 13, 0, 1)]),
    by decide, by decide, by decide⟩,
  ⟨13, (st [((.saf .ISL_STAT_TIMEOUT), (13 : IslandIx).val, 0, 1), ((.saf .ESC_TMO_REACT), 0, 0, 1)]), by decide, by decide, by decide,
    by decide, by decide⟩,
  ⟨true, 0, (st [((.saf .ISL_STAT_STATE), 0, 0, 0)]), by decide, ⟨by decide, by decide⟩, by decide⟩,
  ⟨0, .reset, by decide⟩⟩

/-- The hypotheses of each clause of `ModesAndContactors` can be met. -/
theorem test_ModesAndContactors_hypotheses :
    (∃ (s : State), s.get (.saf .AXLE_MODE_BUSY) = 1 ∧ s.get (.saf .AXLE_MODE_MODE) = 1 ∧ s.get (.saf .MODE_TGT) = 2 ∧ s.get (.edge
      .OG_EN) = 0 ∧ s.get (.saf .STOW_DUE) = 0 ∧ s.groupsMoving 2 = false ∧ (∀ c, s.get (.saf .CD_STAT_ON) c = 0)) ∧
    (∃ (s : State), s.get (.saf .AXLE_MODE_BUSY) = 0) ∧
    (∃ (s : State), s.get (.saf .TMR_STAT_MODE) ≠ 3) ∧
    (∃ (c : Fin 8) (s : State), s.mayClose c.val = true ∧ s.get (.saf .CD_STAT_ON) c.val = 0) ∧
    (∃ (c : Fin 8) (s : State), s.mayClose c.val = false) ∧
    (∃ (c : Fin 8) (s : State), s.get (.saf .CD_STAT_ON) c.val = 1 ∧ s.get (.saf .CD_STAT_HOLDING) c.val = 0 ∧ s.pulled c.val = true ∧ 3 ≤
      c.val) ∧
    (∃ (s : State), s.get (.saf .CD_STAT_ON) 1 = 1 ∧ s.get (.saf .CD_STAT_HOLDING) 1 = 0 ∧ s.pulled 1 = true ∧ s.get (.saf .CSEQ_PSTATE) =
      1) ∧
    (∃ (s : State), s.get (.saf .OPEN_AT) ≠ 0 ∧ s.get (.saf .OPEN_AT) - 1 + us (1000 * s.get (.saf .CSEQ_GAP)) ≤ s.now ∧ s.get (.saf
      .OPEN_MASK) = 6 ∧ s.get (.saf .CD_CFG_ORDER) 1 < s.get (.saf .CD_CFG_ORDER) 2) ∧
    (∃ (s : State), s.get (.saf .OPEN_AT) ≠ 0 ∧ s.now < s.get (.saf .OPEN_AT) - 1 + us (1000 * s.get (.saf .CSEQ_GAP))) ∧
    (∃ (v : Half) (s : State), s.get (.saf .CSEQ_PSTATE) = 2 ∧ s.get (.saf .CD_STAT_ON) 2 = 1 ∧ s.get (.saf .CD_STAT_ON) 0 = 0 ∧ ((v.toNat
      : Int) - s.get (.drv .BMS_V_PACK)).natAbs ≤ 10 * s.get (.saf .CSEQ_PRE_TOL)) ∧
    (∃ (s : State), s.get (.saf .CSEQ_PSTATE) = 2 ∧ s.get (.saf .CD_STAT_ON) 0 = 0 ∧ s.get (.saf .PACK_AT) + us (10000 * s.get (.saf
      .CSEQ_PRE_TMO)) ≤ s.now + 1) ∧
    (∃ (c : Fin 8) (s : State), s.get (.saf .CD_STAT_ON) c.val = 1 ∧ 3 ≤ c.val) ∧
    (∃ (c : Fin 8) (s : State), s.get (.saf .CD_STAT_ON) c.val = 1 ∧ c.val ≤ 2 ∧ s.settled) :=
⟨⟨(st [((.saf .AXLE_MODE_BUSY), 0, 0, 1), ((.saf .AXLE_MODE_MODE), 0, 0, 1), ((.saf .MODE_TGT), 0, 0, 2)]), by decide, by decide,
    by decide, by decide, by decide, by decide, fun m => (get_st_of (by decide) m 0).trans rfl⟩,
  ⟨(st [((.saf .AXLE_MODE_BUSY), 0, 0, 0)]), by decide⟩,
  ⟨.reset, by decide⟩,
  ⟨7, (st [((.saf .CD_STAT_ON), (7 : Fin 8).val, 0, 0), ((.saf .CD_CFG_MODES), (7 : Fin 8).val, 0, 1)]), by decide, by decide⟩,
  ⟨7, .reset, by decide⟩,
  ⟨7, { (st [((.saf .CD_STAT_ON), 7, 0, 1)]) with now := 1000000000 }, by decide, by decide, by decide, by decide⟩,
  ⟨{ (st [((.saf .CD_STAT_ON), 1, 0, 1), ((.saf .CSEQ_PSTATE), 0, 0, 1)]) with now := 1000000000 }, by decide, by decide, by decide,
    by decide⟩,
  ⟨{ (st [((.saf .OPEN_AT), 0, 0, 1), ((.saf .OPEN_MASK), 0, 0, 6), ((.saf .CD_CFG_ORDER), 1, 0, 1), ((.saf .CD_CFG_ORDER), 2, 0, 2)])
    with now := 100000000000 }, by decide, by decide, by decide, by decide⟩,
  ⟨(st [((.saf .OPEN_AT), 0, 0, 1), ((.saf .CSEQ_GAP), 0, 0, 1)]), by decide, by decide⟩,
  ⟨0, (st [((.saf .CSEQ_PSTATE), 0, 0, 2), ((.saf .CD_STAT_ON), 2, 0, 1), ((.saf .CD_STAT_ON), 0, 0, 0)]), by decide, by decide,
    by decide, by decide⟩,
  ⟨{ (st [((.saf .CSEQ_PSTATE), 0, 0, 2)]) with now := 100000000000 }, by decide, by decide, by decide⟩,
  ⟨7, (st [((.saf .CD_STAT_ON), (7 : Fin 8).val, 0, 1)]), by decide, by decide⟩,
  ⟨2, (st [((.saf .CD_STAT_ON), (2 : Fin 8).val, 0, 1)]), by decide, by decide, ⟨by decide, by decide⟩⟩⟩

/-- The hypotheses of each clause of `SafetyCores` can be met. -/
theorem test_SafetyCores_hypotheses :
    (∃ (c : Fin 3) (k : Fin 3) (x : BitVec 64) (y : BitVec 64) (s : State), s.get (.saf .TMR_STAT_MODE) = 0 ∧ s.get (.saf .TMR_T1) c.val =
      0 ∧ x ≠ y) ∧
    (∃ (k : Fin 3) (i : Fin 49152) (x : BitVec 64) (s : State), s.get (.saf .TMR_STAT_MODE) ≠ 3) ∧
    (∃ (k : Fin 3) (x : BitVec 64) (y : BitVec 64) (z : BitVec 64) (s : State), s.get (.saf .TMR_STAT_MODE) = 0 ∧ x ≠ y ∧ y ≠ z ∧ x ≠ z) ∧
    (∃ (k : Fin 3) (x : BitVec 64) (y : BitVec 64) (s : State), s.get (.saf .TMR_STAT_MODE) = 1 ∧ s.get (.saf .TMR_STAT_ODD) = 0 ∧ x ≠ y) ∧
    (∃ (s : State), s.get (.saf .TMR_STAT_MODE) = 1 ∧ s.get (.saf .TMR_STAT_ODD) = 0 ∧ s.get (.saf .CORE) 1 = s.get (.saf .CORE) 2) ∧
    (∃ (s : State), s.get (.saf .TMR_STAT_MODE) ≠ 3) ∧
    (∃ (p : PairIx) (s : State), s.get (.saf .CP_STATE) p.val = 0 ∧ s.get (.saf .CP_MM_AT) p.val = 0) ∧
    (∃ (p : PairIx) (s : State), s.get (.saf .CP_STATE) p.val = 2 ∧ s.get (.saf .CP_SECOND) p.val = 1) ∧
    (∃ (p : PairIx) (s : State), s.get (.saf .CP_STATE) p.val = 2 ∧ s.get (.saf .CP_SECOND) p.val = 0) ∧
    (∃ (p : PairIx) (s : State), s.get (.saf .CP_STATE) p.val = 0) :=
⟨⟨2, 1, 5, 6, (st [((.saf .TMR_STAT_MODE), 0, 0, 0)]), by decide, by decide, by decide⟩,
  ⟨1, 2, 3, .reset, by decide⟩,
  ⟨1, 5, 6, 7, .reset, by decide, by decide, by decide, by decide⟩,
  ⟨2, 5, 6, (st [((.saf .TMR_STAT_MODE), 0, 0, 1), ((.saf .TMR_STAT_ODD), 0, 0, 0)]), by decide, by decide, by decide⟩,
  ⟨(st [((.saf .TMR_STAT_MODE), 0, 0, 1), ((.saf .CORE), 1, 0, 7), ((.saf .CORE), 2, 0, 7), ((.saf .TMR_STAT_ODD), 0, 0, 0)]),
    by decide +kernel, by decide +kernel, by decide +kernel⟩,
  ⟨.reset, by decide⟩,
  ⟨7, (st [((.saf .CP_STATE), (7 : PairIx).val, 0, 0), ((.saf .CP_MM_AT), (7 : PairIx).val, 0, 0)]), by decide, by decide⟩,
  ⟨7, (st [((.saf .CP_STATE), (7 : PairIx).val, 0, 2), ((.saf .CP_SECOND), (7 : PairIx).val, 0, 1)]), by decide, by decide⟩,
  ⟨7, (st [((.saf .CP_STATE), (7 : PairIx).val, 0, 2), ((.saf .CP_SECOND), (7 : PairIx).val, 0, 0)]), by decide, by decide⟩,
  ⟨7, (st [((.saf .CP_STATE), (7 : PairIx).val, 0, 0)]), by decide⟩⟩

/-- The hypotheses of each clause of `Watchdogs` can be met. -/
theorem test_Watchdogs_hypotheses :
    (∃ (w : Fin 16) (key : Half) (p : PairIx) (s : State), w.val = p.val + 1 ∧ s.reaches (.pair p) (0x1000000404 + 0x10 * w.val)
      (key.toNat * 65536) ∧ s.wdActive w.val = true ∧ s.get (.saf .WD_CFG_KIND) w.val = 0 ∧ key.toNat = 0xFFFF - s.get (.saf
      .WD_KICK_TOKEN) w.val ∧ s.get (.saf .WD_OPENED) w.val = 0) ∧
    (∃ (k : Who) (w : Fin 16) (key : Half) (s : State), s.reaches k (0x1000000404 + 0x10 * w.val) (key.toNat * 65536) ∧ s.wdActive w.val =
      true ∧ s.get (.saf .WD_CFG_KIND) w.val = 0 ∧ key.toNat ≠ 0xFFFF - s.get (.saf .WD_KICK_TOKEN) w.val) ∧
    (∃ (k : Who) (w : Fin 16) (key : Half) (s : State), s.islandOpen 0 k = true ∧ s.mayWrite k (0x1000000404 + 0x10 * w.val) (key.toNat *
      65536) = false ∧ s.wdActive w.val = true ∧ s.get (.saf .WD_CFG_KIND) w.val = 0) ∧
    (∃ (w : Fin 16) (s : State), s.wdActive w.val = true ∧ s.get (.saf .WD_CFG_KIND) w.val = 0 ∧ s.get (.saf .WD_AT) w.val + us (10 *
      s.get (.saf .WD_CFG_CLOSE) w.val) ≤ s.now) ∧
    (∃ (w : Fin 16) (s : State), s.now < s.get (.saf .WD_AT) w.val + us (10 * s.get (.saf .WD_CFG_CLOSE) w.val)) ∧
    (∃ (w : Fin 16) (ans : Option Word) (s : State), s.wdActive w.val = true ∧ s.get (.saf .WD_CFG_KIND) w.val = 1 ∧ s.get (.saf
      .ISL_STAT_STATE) (wdIsland w.val) = 0 ∧ s.get (.saf .WD_AT) w.val + us (10 * s.get (.saf .WD_CFG_CLOSE) w.val) ≤ s.now) ∧
    (∃ (w : Fin 16) (s : State), s.wdActive w.val = true ∧ 9 ≤ w.val ∧ s.get (.saf .WD_CFG_REACT) w.val = 0 ∧ 1 ≤ s.get (.saf
      .WD_STAT_MRUN) w.val ∧ s.get (.saf .WD_CFG_MLIM) w.val ≤ s.get (.saf .WD_STAT_MRUN) w.val) :=
⟨⟨8, 0x5A3C, 7, (st [((.saf .WD_CFG_KIND), (8 : Fin 16).val, 0, 0), ((.saf .WD_OPENED), (8 : Fin 16).val, 0, 0), ((.saf .WD_CFG_EN), (8 :
    Fin 16).val, 0, 1)]), by decide, reaches_of (by decide), by decide, by decide, by decide, by decide⟩,
  ⟨.safety, 15, 0, (st [((.saf .WD_CFG_KIND), (15 : Fin 16).val, 0, 0), ((.saf .WD_CFG_EN), (15 : Fin 16).val, 0, 1)]), reaches_of
    (by decide), by decide, by decide, by decide⟩,
  ⟨.ifc, 8, 0, (st [((.saf .WD_CFG_KIND), (8 : Fin 16).val, 0, 0), ((.saf .WD_CFG_EN), (8 : Fin 16).val, 0, 1)]), by decide, by decide,
    by decide, by decide⟩,
  ⟨15, { (st [((.saf .WD_CFG_KIND), (15 : Fin 16).val, 0, 0), ((.saf .WD_CFG_EN), (15 : Fin 16).val, 0, 1)]) with now := 100000000000 },
    by decide, by decide, by decide⟩,
  ⟨2, (st [((.saf .WD_CFG_CLOSE), 2, 0, 1)]), by decide⟩,
  ⟨15, none, { (st [((.saf .WD_CFG_KIND), (15 : Fin 16).val, 0, 1), ((.saf .ISL_STAT_STATE), (wdIsland (15 : Fin 16).val), 0, 0), ((.saf
    .WD_CFG_EN), (15 : Fin 16).val, 0, 1)]) with now := 100000000000 }, by decide, by decide, by decide, by decide⟩,
  ⟨15, (st [((.saf .WD_CFG_REACT), (15 : Fin 16).val, 0, 0), ((.saf .WD_STAT_MRUN), (15 : Fin 16).val, 0, 2), ((.saf .WD_CFG_EN), (15 :
    Fin 16).val, 0, 1)]), by decide, by decide, by decide, by decide, by decide⟩⟩

/-- The hypotheses of each clause of `DebugAccess` can be met. -/
theorem test_DebugAccess_hypotheses :
    (∃ (i : Fin 6) (s : State), i.val ≠ 3 ∧ (i.val ≤ 2 ∨ s.get (.saf .DBG_UNLOCKED) ≠ 0)) ∧
    (∃ (i : Fin 6) (s : State), 3 ≤ i.val ∧ s.get (.saf .DBG_UNLOCKED) = 0) ∧
    (∃ (s : State), s.get (.saf .DBG_UNLOCKED) = 0) ∧
    (∃ (s : State), s.get (.saf .DBG_UNLOCKED) = 1 ∧ s.get (.grd .OG_LATCH) = 0xFFFF) ∧
    (∃ (x : EngIx ⊕ Fin 9) (s : State), s.get (.saf .DBG_UNLOCKED) = 0) ∧
    (∃ (e : EngIx) (s : State), s.get (.saf .DBG_UNLOCKED) = 1 ∧ s.get (.loop .LE_STAT_STATE) e.val = 1) ∧
    (∃ (o : Fin 9) (s : State), s.get (.saf .DBG_UNLOCKED) = 1) ∧
    (∃ (e : EngIx) (s : State), s.get (.loop .LE_STAT_STATE) e.val = 3) ∧
    (∃ (e : EngIx) (s : State), s.get (.loop .LE_STAT_STATE) e.val = 3 ∧ s.get (.loop .LE_RUN) e.val = 1 ∧ ((∀ q < 128, (s.set (.loop
      .LE_STAT_STATE) 1 e.val).openOcc e.val q = true → (s.set (.loop .LE_STAT_STATE) 1 e.val).deadlinePassed e.val q = false))) :=
⟨⟨2, .reset, by decide, by decide⟩,
  ⟨5, (st [((.saf .DBG_UNLOCKED), 0, 0, 0)]), by decide, by decide⟩,
  ⟨(st [((.saf .DBG_UNLOCKED), 0, 0, 0)]), by decide⟩,
  ⟨(st [((.saf .DBG_UNLOCKED), 0, 0, 1), ((.grd .OG_LATCH), 0, 0, 0xFFFF)]), by decide, by decide⟩,
  ⟨.inl 15, (st [((.saf .DBG_UNLOCKED), 0, 0, 0)]), by decide⟩,
  ⟨15, (st [((.saf .DBG_UNLOCKED), 0, 0, 1), ((.loop .LE_STAT_STATE), (15 : EngIx).val, 0, 1)]), by decide, by decide⟩,
  ⟨7, (st [((.saf .DBG_UNLOCKED), 0, 0, 1)]), by decide⟩,
  ⟨15, (st [((.loop .LE_STAT_STATE), 15, 0, 3)]), by decide⟩,
  ⟨15, (st [((.loop .LE_STAT_STATE), 15, 0, 3), ((.loop .LE_RUN), 15, 0, 1), ((.loop .LE_TRG_AT), 15, 0, 1000)]), by decide, by decide,
    by decide⟩⟩

/-- The hypotheses of each clause of `Charts` can be met. -/
theorem test_Charts_hypotheses :
    (∃ (e : EngIx) (m : Fin 2) (a : RegIx) (b : RegIx) (c : RegIx) (d : RegIx) (s : State), s.running e.val = true ∧ s.groupAt e.val = 7 ∧
      s.get (.loop .CHART_STAT_LOADED) = 0) ∧
    (∃ (e : EngIx) (d : RegIx) (k : Fin 8) (s : State), s.running e.val = true ∧ s.groupAt e.val = 7 ∧ k.val < 7) ∧
    (∃ (e : EngIx) (d : RegIx) (s : State), s.running e.val = true ∧ s.groupAt e.val = 7) ∧
    (∃ (e : EngIx) (m : Fin 2) (a : RegIx) (b : RegIx) (c : RegIx) (d : RegIx) (q : Query) (s : State), s.running e.val = true ∧ s.groupAt
      e.val = 7 ∧ s.get (enFld m.val) = 1 ∧ s.get (.loop .CHART_STAT_LOADED) = 1 ∧ q = (toSigned 16 (s.g e.val a % 65536), toSigned 16
      (s.g e.val b % 65536), toSigned 16 (s.g e.val c % 65536), toSigned 16 (s.g e.val d % 65536)) ∧ s.present m.val q = true) ∧
    (∃ (e : EngIx) (m : Fin 2) (a : RegIx) (b : RegIx) (c : RegIx) (d : RegIx) (q : Query) (s : State), s.running e.val = true ∧ s.groupAt
      e.val = 7 ∧ s.get (enFld m.val) = 1 ∧ s.get (.loop .CHART_STAT_LOADED) = 1 ∧ q = (toSigned 16 (s.g e.val a % 65536), toSigned 16
      (s.g e.val b % 65536), toSigned 16 (s.g e.val c % 65536), toSigned 16 (s.g e.val d % 65536)) ∧ s.present m.val q = false) ∧
    (∃ (e : EngIx) (m : Fin 2) (s : State), s.get (.loop .CH_WAIT) e.val = m.val + 1 ∧ s.get (.loop .CH_WAT) e.val + us 8 ≤ s.now ∧
      (List.range 16).any (s.cornerBad m.val (s.place m.val (s.waitQuery e.val))) = false) ∧
    (∃ (m : Fin 2) (tile : Fin 65536) (s : State), s.wanted m.val tile.val = true) ∧
    (∃ (m : Fin 2) (tile : Fin 65536) (s : State), s.wanted m.val tile.val = false) ∧
    (∃ (w : Who) (v : Word) (s : State), s.reaches w chartCtrlAddr v.toNat ∧ v.toNat.testBit 3 = true) :=
⟨⟨15, 1, 31, 31, 31, 31, (stm [((.loop .LE_RUN), (15 : EngIx).val, 0, 1), ((.loop .LE_STAT_STATE), (15 : EngIx).val, 0, 1), ((.loop
    .CHART_STAT_LOADED), 0, 0, 0)] [(0x1030f40000, 0x7000000000000000, 8)]), by decide, by decide, by decide⟩,
  ⟨15, 31, 6, (stm [((.loop .LE_RUN), (15 : EngIx).val, 0, 1), ((.loop .LE_STAT_STATE), (15 : EngIx).val, 0, 1)] [(0x1030f40000,
    0x7000000000000000, 8)]), by decide, by decide, by decide⟩,
  ⟨15, 31, (stm [((.loop .LE_RUN), (15 : EngIx).val, 0, 1), ((.loop .LE_STAT_STATE), (15 : EngIx).val, 0, 1)] [(0x1030f40000,
    0x7000000000000000, 8)]), by decide, by decide⟩,
  ⟨15, 1, 0, 1, 2, 3, (0, 0, 0, 0), (stm [((.loop .LE_RUN), 15, 0, 1), ((.loop .LE_STAT_STATE), 15, 0, 1), ((.loop .CHART_CTRL_EN_B), 0,
    0, 1), ((.loop .CHART_STAT_LOADED), 0, 0, 1), ((.loop .CH_TILE), 1, 0, 1)] [(0x1030f40000, 0x7000000000000000, 8)]), by decide,
    by decide, by decide, by decide, by decide, by decide⟩,
  ⟨15, 1, 0, 1, 2, 3, (0, 0, 0, 0), (stm [((.loop .LE_RUN), 15, 0, 1), ((.loop .LE_STAT_STATE), 15, 0, 1), ((.loop .CHART_CTRL_EN_B), 0,
    0, 1), ((.loop .CHART_STAT_LOADED), 0, 0, 1)] [(0x1030f40000, 0x7000000000000000, 8)]), by decide, by decide, by decide, by decide,
    by decide, by decide⟩,
  ⟨15, 1, { (st [((.loop .CH_WAIT), 15, 0, 2)]) with now := 51200 }, by decide, by decide, by decide⟩,
  ⟨1, 0, (st [((.loop .CH_WAIT), 15, 0, 2)]), by decide⟩,
  ⟨1, 65535, .reset, by decide⟩,
  ⟨.safety, 8, (st [((.saf .ISL_STAT_STATE), 6, 0, 0)]), reaches_of (by decide), by decide⟩⟩

/-- The hypotheses of each clause of `TideStores` can be met. -/
theorem test_TideStores_hypotheses :
    (∃ (w : Who) (p : PlayerIx) (k : Fin 16384) (v : Word) (s : State), s.reaches w (0x1041000000 + 0x10000 * p.val + 4 * k.val) v.toNat ∧
      (k.val / 8192 = s.get (.edge .TS_STAT_ACTIVE) p.val ∨ s.get (.edge .TS_STAT_LOADING) p.val = 1)) ∧
    (∃ (w : Who) (p : PlayerIx) (k : Fin 16384) (v : Word) (s : State), s.reaches w (0x1041000000 + 0x10000 * p.val + 4 * k.val) v.toNat ∧
      k.val < 8192 ∧ s.get (.edge .TS_STAT_ACTIVE) p.val = 1 ∧ s.get (.edge .TS_STAT_LOADING) p.val = 0) ∧
    (∃ (w : Who) (p : PlayerIx) (v : Word) (s : State), s.reaches w (0x1040000E10 + 0x10 * p.val) v.toNat ∧ v.toNat / 65536 ≠ 0 ∧ v.toNat
      / 65536 ≤ s.get (.edge .TL_DIRN) ∧ s.get (.edge .TS_STAT_LOADING) p.val = 0 ∧ s.get (.edge .TS_STAT_ACTIVE) p.val = 0) ∧
    (∃ (p : PlayerIx) (s : State), s.get (.edge .TS_STAT_LOADING) p.val = 1 ∧ s.get (.edge .TS_STAT_ACTIVE) p.val = 0 ∧ (s.dirEntry (s.get
      (.edge .TS_LD_PPI) p.val)).ok p.val (s.get (.edge .TS_LD_PPI) p.val) = false) ∧
    (∃ (p : PlayerIx) (ppi : Nat) (d : DirEntry) (r : Bool × State) (s : State), s.get (.edge .TS_STAT_LOADING) p.val = 1 ∧ s.get (.edge
      .TS_STAT_ACTIVE) p.val = 0 ∧ s.get (.edge .TS_LD_PPI) p.val = ppi ∧ ppi < 65536 ∧ s.dirEntry ppi = d ∧ d.ok p.val ppi = true ∧
      copyPattern d p.val 1 (s.patternAddr d) 0 0 [] s d.count = r ∧ r.1 = true) ∧
    (∃ (p : PlayerIx) (s : State), s.get (.edge .TS_STAT_LOADING) p.val = 1 ∧ s.get (.edge .TS_STAT_ACTIVE) p.val = 0) ∧
    (∃ (p : PlayerIx) (ppi : Half) (s : State), ppi.toNat = s.get (.edge .TS_TAG_TAG0) p.val ∧ s.get (.edge .TS_RQN) p.val = 0) ∧
    (∃ (p : PlayerIx) (s : State), 1 ≤ s.get (.edge .TS_STAT_MISS_RUN) p.val ∧ s.get (.edge .TS_CTRL_MISS_LIM) p.val ≤ s.get (.edge
      .TS_STAT_MISS_RUN) p.val) :=
⟨⟨.safety, 3, 0, 0, (st [((.saf .ISL_STAT_STATE), 7, 0, 0)]), reaches_of (by decide), by decide⟩,
  ⟨.safety, 3, 8191, 0, (st [((.saf .ISL_STAT_STATE), 7, 0, 0), ((.edge .TS_STAT_ACTIVE), (3 : PlayerIx).val, 0, 1), ((.edge
    .TS_STAT_LOADING), (3 : PlayerIx).val, 0, 0)]), reaches_of (by decide), by decide, by decide, by decide⟩,
  ⟨.safety, 3, 0x10000, (st [((.saf .ISL_STAT_STATE), 7, 0, 0), ((.edge .TS_STAT_LOADING), (3 : PlayerIx).val, 0, 0), ((.edge
    .TS_STAT_ACTIVE), (3 : PlayerIx).val, 0, 0), ((.edge .TL_DIRN), 0, 0, 1)]), reaches_of (by decide), by decide, by decide, by decide,
    by decide⟩,
  ⟨3, (st [((.edge .TS_STAT_LOADING), (3 : PlayerIx).val, 0, 1), ((.edge .TS_STAT_ACTIVE), (3 : PlayerIx).val, 0, 0)]), by decide,
    by decide, by decide⟩,
  ⟨3, 1, _, _, (stm [((.edge .TS_STAT_LOADING), (3 : PlayerIx).val, 0, 1), ((.edge .TS_STAT_ACTIVE), (3 : PlayerIx).val, 0, 0), ((.edge
    .TS_LD_PPI), (3 : PlayerIx).val, 0, (1 : Nat)), ((.edge .TL_DIRN), 0, 0, 1)] [(0x1B8000000, 1, 2), (0x1B8000004, 1, 2), (0x1B8000006,
    3, 1), (0x1B800000C, 2 ^ 31, 4), (0x1B8001000, 0x43F000000, 8)]), by decide, by decide, by decide, by decide, rfl, by decide, rfl,
    by decide⟩,
  ⟨3, (st [((.edge .TS_STAT_LOADING), (3 : PlayerIx).val, 0, 1), ((.edge .TS_STAT_ACTIVE), (3 : PlayerIx).val, 0, 0)]), by decide,
    by decide⟩,
  ⟨3, 0, .reset, by decide, by decide⟩,
  ⟨3, (st [((.edge .TS_STAT_MISS_RUN), (3 : PlayerIx).val, 0, 16)]), by decide, by decide⟩⟩

/-- The hypotheses of each clause of `EngineStates` can be met. -/
theorem test_EngineStates_hypotheses :
    (∃ (w : Who) (e : EngIx) (v : Word) (u : State) (s : State), s.reaches w (leBase e.val) (v.toNat ||| 1) ∧ s.get (.loop .LE_STAT_STATE)
      e.val = 0 ∧ u = ((s.set (.loop .LE_CTRL_FORCE) (bits (v.toNat ||| 1) 1 1) e.val).set (.loop .LE_CTRL_DOMAIN) (bits (v.toNat ||| 1) 5
      3) e.val).set (.loop .LE_CTRL_FDIV) (bits (v.toNat ||| 1) 8 4) e.val ∧ u.startOk e.val = true) ∧
    (∃ (w : Who) (e : EngIx) (v : Word) (u : State) (s : State), s.reaches w (leBase e.val) (v.toNat ||| 1) ∧ s.get (.loop .LE_STAT_STATE)
      e.val = 0 ∧ u = ((s.set (.loop .LE_CTRL_FORCE) (bits (v.toNat ||| 1) 1 1) e.val).set (.loop .LE_CTRL_DOMAIN) (bits (v.toNat ||| 1) 5
      3) e.val).set (.loop .LE_CTRL_FDIV) (bits (v.toNat ||| 1) 8 4) e.val ∧ u.startOk e.val = false) ∧
    (∃ (w : Who) (e : EngIx) (v : Word) (s : State), s.reaches w (leBase e.val) (andNot v.toNat 0x1001) ∧ s.get (.loop .LE_STAT_STATE)
      e.val = 1 ∧ v.toNat.testBit 1 = false ∧ s.get (.loop .LE_DEP) e.val &&& s.get (.edge .OG_EN) ≠ 0) ∧
    (∃ (w : Who) (e : EngIx) (v : Word) (s : State), s.reaches w (leBase e.val) (andNot v.toNat 0x1001) ∧ s.get (.loop .LE_STAT_STATE)
      e.val = 1 ∧ s.get (.loop .LE_RUN) e.val = 1 ∧ (v.toNat.testBit 1 = true ∨ s.get (.loop .LE_DEP) e.val &&& s.get (.edge .OG_EN) = 0)) ∧
    (∃ (w : Who) (e : EngIx) (v : Word) (s : State), s.reaches w (leBase e.val) (andNot (v.toNat ||| 0x1000) 1) ∧ s.get (.loop
      .LE_STAT_STATE) e.val = 4) :=
⟨⟨.safety, 15, 0, _, (stm [((.saf .ISL_STAT_STATE), 6, 0, 0), ((.saf .ISL_STAT_STATE), 7, 0, 0), ((.loop .LE_STAT_STATE), (15 :
    EngIx).val, 0, 0), ((.edge .DOM_STAT_RUNNING), 0, 0, 1), ((.loop .LS_ENTRY_VALID), (15 : EngIx).val, work 0, 1)] [(bankAddr 15 0, 1,
    4)]), reaches_of (by decide), by decide, rfl, by decide⟩,
  ⟨.safety, 15, 0, _, (st [((.saf .ISL_STAT_STATE), 6, 0, 0), ((.loop .LE_STAT_STATE), (15 : EngIx).val, 0, 0)]), reaches_of (by decide),
    by decide, rfl, by decide⟩,
  ⟨.safety, 15, 0, (st [((.saf .ISL_STAT_STATE), 6, 0, 0), ((.loop .LE_STAT_STATE), (15 : EngIx).val, 0, 1), ((.loop .LE_DEP), (15 :
    EngIx).val, 0, 1), ((.edge .OG_EN), 0, 0, 1)]), reaches_of (by decide), by decide, by decide, by decide⟩,
  ⟨.safety, 15, 0, (st [((.saf .ISL_STAT_STATE), 6, 0, 0), ((.loop .LE_STAT_STATE), (15 : EngIx).val, 0, 1), ((.loop .LE_RUN), (15 :
    EngIx).val, 0, 1)]), reaches_of (by decide), by decide, by decide, by decide⟩,
  ⟨.safety, 15, 0, (st [((.saf .ISL_STAT_STATE), 6, 0, 0), ((.loop .LE_STAT_STATE), (15 : EngIx).val, 0, 4)]), reaches_of (by decide),
    by decide⟩⟩

/-- The hypotheses of each clause of `FramesAndTriggers` can be met. -/
theorem test_FramesAndTriggers_hypotheses :
    (∃ (e : EngIx) (l : List Nat) (s : State), s.frameCome e.val = true ∧ s.loopClocked = true ∧ s.get (.loop .LE_STAT_STATE) e.val = 1 ∧
      s.get (.loop .LE_LIVE) e.val = 1 ∧ s.get (.loop .SCHED_STAT_COMMIT_PEND) e.val = 0 ∧ s.get (.loop .LE_RUN) e.val = 1 ∧ l = s.dueList
      e.val (s.get (.loop .LE_FC) e.val + 1) ∧ s.get (.loop .LE_NXT) e.val = 0) ∧
    (∃ (e : EngIx) (s : State), s.frameCome e.val = true ∧ s.loopClocked = true ∧ s.get (.loop .LE_STAT_STATE) e.val = 1 ∧ s.get (.loop
      .SCHED_STAT_COMMIT_PEND) e.val = 1 ∧ s.get (.loop .LE_CSKIP) e.val = 0 ∧ s.get (.loop .LE_NXT) e.val = 0) ∧
    (∃ (e : EngIx) (s : State), s.frameCome e.val = false) ∧
    (∃ (e : EngIx) (p : Fin 32) (v : Word) (s : State), s.get (.saf .ISL_STAT_STATE) 6 = 0 ∧ s.get (.loop .IPMAP_KIND) e.val p.val = 5) ∧
    (∃ (e : EngIx) (p : Fin 32) (v : Word) (n : Nat) (s : State), s.get (.saf .ISL_STAT_STATE) 6 = 0 ∧ s.get (.loop .IPMAP_KIND) e.val
      p.val = 7 ∧ n = s.get (.loop .SRC_SEQ) 7 (32 * s.get (.loop .IPMAP_ENG) e.val p.val + s.get (.loop .IPMAP_CHAN) e.val p.val) ∧ n ≠
      s.get (.loop .LE_IPSEQ) e.val p.val) ∧
    (∃ (e : EngIx) (p : Fin 32) (v : Word) (s : State), s.get (.loop .IPMAP_KIND) e.val p.val = 0) ∧
    (∃ (e : EngIx) (i : Fin 64) (q : Nat) (s : State), s.get (.loop .LE_STAT_STATE) e.val = 1 ∧ q = 64 * s.activeBank e.val + i.val ∧
      s.bit (.loop .LE_DUE) (64 * (1 - s.activeBank e.val) + i.val) e.val = false ∧ s.bit (.loop .LE_DUE) q e.val = true ∧ s.triggerOk
      e.val q (s.get (.loop .LE_DUE_AT) e.val q) = true ∧ s.get (.loop .LE_RUN) e.val = 1) ∧
    (∃ (e : EngIx) (i : Fin 64) (q : Nat) (k : Nat) (s : State), s.get (.loop .LE_STAT_STATE) e.val = 1 ∧ s.activeBank e.val ≤ 1 ∧ q = 64
      * s.activeBank e.val + i.val ∧ s.bit (.loop .LE_DUE) (64 * (1 - s.activeBank e.val) + i.val) e.val = false ∧ s.bit (.loop .LE_DUE) q
      e.val = true ∧ s.triggerOk e.val q (s.get (.loop .LE_DUE_AT) e.val q) = true ∧ s.get (.loop .LE_RUN) e.val = 0 ∧ s.get (.loop
      .LE_TRGD) e.val = 0 ∧ (s.entry e.val q).ls = k ∧ s.get (.loop .LS_CAPD) e.val k = 0 ∧ s.wget .LS_CFG_EN e.val k = 1) ∧
    (∃ (e : EngIx) (p : Fin 32) (v : Word) (n : Nat) (s : State), s.get (.saf .ISL_STAT_STATE) 6 = 0 ∧ s.get (.loop .IPMAP_KIND) e.val
      p.val = 6 ∧ s.get (.loop .IPMAP_CHAN) e.val p.val ≤ 2 ∧ n = s.get (.loop .SRC_SEQ) 6 (s.get (.loop .IPMAP_CHAN) e.val p.val) ∧ n ≠
      s.get (.loop .LE_IPSEQ) e.val p.val) ∧
    (∃ (e : EngIx) (p : Fin 32) (v : Word) (n : Nat) (s : State), s.get (.saf .ISL_STAT_STATE) 6 = 0 ∧ s.get (.loop .IPMAP_KIND) e.val
      p.val ∈ [1, 2, 3, 4, 8] ∧ n = s.get (.loop .SRC_SEQ) (s.get (.loop .IPMAP_KIND) e.val p.val) (s.get (.loop .IPMAP_CHAN) e.val p.val)
      ∧ n ≠ s.get (.loop .LE_IPSEQ) e.val p.val) ∧
    (∃ (e : EngIx) (p : Fin 32) (v : Word) (s : State), s.get (.loop .IPMAP_KIND) e.val p.val = 6 ∧ 25 ≤ s.get (.loop .IPMAP_CHAN) e.val
      p.val) :=
⟨⟨15, _, (stm [((.saf .ISL_STAT_STATE), 6, 0, 0), ((.loop .LE_STAT_STATE), 15, 0, 1), ((.loop .LE_LIVE), 15, 0, 1), ((.loop .LE_RUN), 15,
    0, 1), ((.loop .LE_RBN), 15, 0, 1), ((.loop .LS_CFG_EN), 15, work 0, 1), ((.loop .LS_CFG_EN), 15, work 1, 1)] [(bankAddr 15 0, 1, 4),
    (bankAddr 15 0 + 16, 3, 4), (bankAddr 15 1, 1, 4)]), by decide, by decide, by decide, by decide, by decide, by decide, rfl, by decide⟩,
  ⟨15, (st [((.saf .ISL_STAT_STATE), 6, 0, 0), ((.loop .LE_STAT_STATE), 15, 0, 1), ((.loop .SCHED_STAT_COMMIT_PEND), 15, 0, 1), ((.loop
    .LE_CSKIP), 15, 0, 0), ((.loop .LE_RBN), 15, 0, 1)]), by decide, by decide, by decide, by decide, by decide, by decide⟩,
  ⟨15, .reset, by decide⟩,
  ⟨15, 31, 0, (st [((.saf .ISL_STAT_STATE), 6, 0, 0), ((.loop .IPMAP_KIND), 15, 31, 5)]), by decide, by decide⟩,
  ⟨15, 31, 0, 1, (st [((.saf .ISL_STAT_STATE), 6, 0, 0), ((.loop .IPMAP_KIND), 15, 31, 7), ((.loop .SRC_SEQ), 7, 0, 1)]), by decide,
    by decide, by decide, by decide⟩,
  ⟨15, 31, 0, (st [((.loop .IPMAP_KIND), 15, 31, 0)]), by decide⟩,
  ⟨15, 63, 63, (st [((.loop .LE_STAT_STATE), 15, 0, 1), ((.loop .LE_DUE), 15, 0, 0x8000000000000000), ((.loop .LE_RUN), 15, 0, 1)]),
    by decide, by decide, by decide, by decide, by decide, by decide⟩,
  ⟨15, 63, 63, 0, (st [((.loop .LE_STAT_STATE), 15, 0, 1), ((.loop .LE_DUE), 15, 0, 0x8000000000000000), ((.loop .LS_CFG_EN), 15, work 0,
    1)]), by decide, by decide, by decide, by decide, by decide, by decide, by decide, by decide, by decide, by decide, by decide⟩,
  ⟨15, 31, 0, 1, (st [((.saf .ISL_STAT_STATE), 6, 0, 0), ((.loop .IPMAP_KIND), 15, 31, 6), ((.loop .SRC_SEQ), 6, 0, 1)]), by decide,
    by decide, by decide, by decide, by decide⟩,
  ⟨15, 31, 0, 1, (st [((.saf .ISL_STAT_STATE), 6, 0, 0), ((.loop .IPMAP_KIND), 15, 31, 2), ((.loop .SRC_SEQ), 2, 0, 1)]), by decide,
    by decide, by decide, by decide⟩,
  ⟨15, 31, 0, (st [((.loop .IPMAP_KIND), 15, 31, 6), ((.loop .IPMAP_CHAN), 15, 31, 25)]), by decide, by decide⟩⟩

/-- The hypotheses of each clause of `SampleEndAndMisses` can be met. -/
theorem test_SampleEndAndMisses_hypotheses :
    (∃ (e : EngIx) (k : SlotIx) (s : State), s.running e.val = true ∧ s.groupAt e.val = 0 ∧ s.get (.loop .LE_STAT_STATE) e.val = 1 ∧ s.get
      (.loop .LE_SLOT) e.val = k.val ∧ s.get (.loop .LE_TRGD) e.val = 0 ∧ s.lowestOf e.val k.val = none ∧ s.wget .LS_PM_CFG_FORM e.val
      k.val = 0 ∧ s.get (.loop .PM_EV) e.val k.val = 0 ∧ s.bit (.loop .S_HAS) 1 e.val k.val = true) ∧
    (∃ (e : EngIx) (s : State), s.running e.val = true ∧ s.groupAt e.val = 0 ∧ s.get (.loop .LE_STAT_STATE) e.val = 2) ∧
    (∃ (e : EngIx) (i : Fin 64) (q : Nat) (k : Nat) (s : State), s.get (.loop .LE_STAT_STATE) e.val = 1 ∧ s.activeBank e.val ≤ 1 ∧ q = 64
      * s.activeBank e.val + i.val ∧ s.openOcc e.val (64 * (1 - s.activeBank e.val) + i.val) = false ∧ s.openOcc e.val q = true ∧
      s.deadlinePassed e.val q = true ∧ s.bit (.loop .LE_NXT) q e.val = false ∧ s.get (.loop .LE_RUN) e.val = 1 ∧ s.get (.loop .LE_ENT)
      e.val ≠ q ∧ (s.entry e.val q).ls = k ∧ s.wget .LS_CFG_EN e.val k = 1) ∧
    (∃ (e : EngIx) (i : Fin 64) (q : Nat) (k : Nat) (s : State), s.get (.loop .LE_STAT_STATE) e.val = 1 ∧ s.activeBank e.val ≤ 1 ∧ q = 64
      * s.activeBank e.val + i.val ∧ s.openOcc e.val (64 * (1 - s.activeBank e.val) + i.val) = false ∧ s.openOcc e.val q = true ∧ s.bit
      (.loop .LE_NXT) q e.val = true ∧ s.triggerOk e.val q (s.get (.loop .LE_NXT_AT) e.val q) = true ∧ s.get (.loop .LE_RUN) e.val = 1 ∧
      s.get (.loop .LE_ENT) e.val ≠ q ∧ (s.entry e.val q).ls = k ∧ s.wget .LS_CFG_EN e.val k = 1) ∧
    (∃ (e : EngIx) (k : SlotIx) (s : State), max 1 (s.get (.loop .LS_MISS_MISS_LIM) e.val k.val) ≤ s.get (.loop .LS_MISS_MISS_RUN) e.val
      k.val ∧ s.get (.loop .LE_STAT_STATE) e.val ≠ 0) ∧
    (∃ (e : EngIx) (k : SlotIx) (s : State), s.get (.loop .LS_MISS_MISS_RUN) e.val k.val < max 1 (s.get (.loop .LS_MISS_MISS_LIM) e.val
      k.val)) :=
⟨⟨15, 7, (st [((.loop .LE_RUN), (15 : EngIx).val, 0, 1), ((.loop .LE_STAT_STATE), (15 : EngIx).val, 0, 1), ((.loop .LE_SLOT), (15 :
    EngIx).val, 0, (7 : SlotIx).val), ((.loop .LE_TRGD), (15 : EngIx).val, 0, 0), ((.loop .LS_PM_CFG_FORM), (15 : EngIx).val, work (7 :
    SlotIx).val, 0), ((.loop .PM_EV), (15 : EngIx).val, (7 : SlotIx).val, 0), ((.loop .S_HAS), (15 : EngIx).val, (7 : SlotIx).val, 2 ^
    1)]), by decide, by decide, by decide, by decide, by decide, by decide, by decide, by decide, by decide⟩,
  ⟨15, (st [((.loop .LE_RUN), (15 : EngIx).val, 0, 1), ((.loop .LE_STAT_STATE), (15 : EngIx).val, 0, 2)]), by decide, by decide,
    by decide⟩,
  ⟨15, 63, 63, 0, (st [((.loop .LE_STAT_STATE), 15, 0, 1), ((.loop .LE_TRGD), 15, 0, 0x8000000000000000), ((.loop .LE_RUN), 15, 0, 1),
    ((.loop .LE_TRG_AT), 15, 63, 1), ((.loop .LS_CFG_EN), 15, work 0, 1)]), by decide, by decide, by decide, by decide, by decide,
    by decide, by decide, by decide, by decide, by decide, by decide⟩,
  ⟨15, 63, 63, 0, (st [((.loop .LE_STAT_STATE), 15, 0, 1), ((.loop .LE_DUE), 15, 0, 0x8000000000000000), ((.loop .LE_NXT), 15, 0,
    0x8000000000000000), ((.loop .LE_RUN), 15, 0, 1), ((.loop .LS_CFG_EN), 15, work 0, 1)]), by decide, by decide, by decide, by decide,
    by decide, by decide, by decide, by decide, by decide, by decide, by decide⟩,
  ⟨15, 7, (st [((.loop .LE_STAT_STATE), (15 : EngIx).val, 0, 1), ((.loop .LS_MISS_MISS_RUN), (15 : EngIx).val, (7 : SlotIx).val, 4)]),
    by decide, by decide⟩,
  ⟨15, 7, .reset, by decide⟩⟩

/-- The hypotheses of each clause of `ProgramAndBanks` can be met. -/
theorem test_ProgramAndBanks_hypotheses :
    (∃ (w : Who) (e : EngIx) (k : Fin 8192) (v : Word) (s : State), s.reaches w (leBase e.val + 0x40000 + 4 * k.val) v.toNat ∧ s.get
      (.loop .LE_STAT_STATE) e.val = 0) ∧
    (∃ (w : Who) (e : EngIx) (k : Fin 8192) (v : Word) (s : State), s.reaches w (leBase e.val + 0x40000 + 4 * k.val) v.toNat ∧ s.get
      (.loop .LE_STAT_STATE) e.val ≠ 0) ∧
    (∃ (w : Who) (e : EngIx) (b : Fin 2) (k : Fin 256) (v : Word) (s : State), s.reaches w (bankAddr e.val b.val + 4 * k.val) v.toNat ∧
      s.get (.loop .SCHED_STAT_ACTIVE) e.val ≠ b.val ∧ s.get (.loop .SCHED_STAT_COMMIT_PEND) e.val = 0) ∧
    (∃ (w : Who) (e : EngIx) (b : Fin 2) (k : Fin 256) (v : Word) (s : State), s.reaches w (bankAddr e.val b.val + 4 * k.val) v.toNat ∧
      (s.get (.loop .SCHED_STAT_ACTIVE) e.val = b.val ∨ s.get (.loop .SCHED_STAT_COMMIT_PEND) e.val = 1)) ∧
    (∃ (w : Who) (e : EngIx) (s : State), s.reaches w (leBase e.val + 0x10) 1 ∧ s.get (.loop .SCHED_STAT_COMMIT_PEND) e.val = 0) ∧
    (∃ (w : Who) (e : EngIx) (s : State), s.reaches w (leBase e.val + 0x10) 1 ∧ s.get (.loop .SCHED_STAT_COMMIT_PEND) e.val = 1) ∧
    (∃ (e : EngIx) (c : Nat) (s : State), s.get (.loop .LE_CHK) e.val = 1 ∧ s.commitCode e.val (1 - s.get (.loop .SCHED_STAT_ACTIVE)
      e.val) = c ∧ c ≠ 0) ∧
    (∃ (e : EngIx) (s : State), s.get (.loop .LE_CHK) e.val = 1 ∧ s.commitCode e.val (1 - s.get (.loop .SCHED_STAT_ACTIVE) e.val) = 0 ∧
      s.get (.loop .LE_STAT_STATE) e.val = 0) ∧
    (∃ (e : EngIx) (s : State), s.get (.loop .LE_CHK) e.val = 1 ∧ s.commitCode e.val (1 - s.get (.loop .SCHED_STAT_ACTIVE) e.val) = 0 ∧
      s.get (.loop .LE_STAT_STATE) e.val = 1) :=
⟨⟨.safety, 15, 8191, 0, (st [((.saf .ISL_STAT_STATE), 6, 0, 0), ((.loop .LE_STAT_STATE), (15 : EngIx).val, 0, 0)]), reaches_of
    (by decide), by decide⟩,
  ⟨.safety, 15, 8191, 0, (st [((.saf .ISL_STAT_STATE), 6, 0, 0), ((.loop .LE_STAT_STATE), (15 : EngIx).val, 0, 1)]), reaches_of
    (by decide), by decide⟩,
  ⟨.safety, 15, 1, 255, 0, (st [((.saf .ISL_STAT_STATE), 6, 0, 0), ((.loop .SCHED_STAT_COMMIT_PEND), (15 : EngIx).val, 0, 0)]), reaches_of
    (by decide), by decide, by decide⟩,
  ⟨.safety, 15, 0, 255, 0, (st [((.saf .ISL_STAT_STATE), 6, 0, 0)]), reaches_of (by decide), by decide⟩,
  ⟨.safety, 15, (st [((.saf .ISL_STAT_STATE), 6, 0, 0), ((.loop .SCHED_STAT_COMMIT_PEND), (15 : EngIx).val, 0, 0)]), reaches_of
    (by decide), by decide⟩,
  ⟨.safety, 15, (st [((.saf .ISL_STAT_STATE), 6, 0, 0), ((.loop .SCHED_STAT_COMMIT_PEND), (15 : EngIx).val, 0, 1)]), reaches_of
    (by decide), by decide⟩,
  ⟨15, 1, (st [((.loop .LE_CHK), (15 : EngIx).val, 0, 1)]), by decide, by decide, by decide⟩,
  ⟨15, (stm [((.loop .LE_CHK), (15 : EngIx).val, 0, 1), ((.loop .LE_STAT_STATE), (15 : EngIx).val, 0, 0), ((.loop .LS_ENTRY_VALID), (15 :
    EngIx).val, work 0, 1)] [(bankAddr 15 1, 0x11, 4), (bankAddr 15 1 + 12, 1, 4)]), by decide, by decide, by decide⟩,
  ⟨15, (stm [((.loop .LE_CHK), (15 : EngIx).val, 0, 1), ((.loop .LE_STAT_STATE), (15 : EngIx).val, 0, 1), ((.loop .LS_ENTRY_VALID), (15 :
    EngIx).val, work 0, 1)] [(bankAddr 15 1, 0x11, 4), (bankAddr 15 1 + 12, 1, 4)]), by decide, by decide, by decide⟩⟩

/-- The hypotheses of each clause of `SlotRegisters` can be met. -/
theorem test_SlotRegisters_hypotheses :
    (∃ (w : Who) (e : EngIx) (k : SlotIx) (v : Word) (s : State), s.reaches w (lsAddr e.val k.val + 0x2C) (v.toNat ||| 1) ∧ s.sget (.loop
      .LS_LIMIT_OMAX) e.val k.val < s.sget (.loop .LS_LIMIT_OMIN) e.val k.val) ∧
    (∃ (w : Who) (e : EngIx) (k : SlotIx) (v : Word) (s : State), s.reaches w (lsAddr e.val k.val + 0x2C) (v.toNat ||| 1) ∧ s.sget (.loop
      .LS_LIMIT_OMIN) e.val k.val ≤ s.sget (.loop .LS_LIMIT_OMAX) e.val k.val ∧ s.get (.loop .LE_STAT_STATE) e.val = 0) ∧
    (∃ (w : Who) (e : EngIx) (k : SlotIx) (v : Word) (s : State), s.reaches w (lsAddr e.val k.val + 0x2C) (v.toNat ||| 1) ∧ s.sget (.loop
      .LS_LIMIT_OMIN) e.val k.val ≤ s.sget (.loop .LS_LIMIT_OMAX) e.val k.val ∧ s.get (.loop .LE_STAT_STATE) e.val ≠ 0) ∧
    (∃ (w : Who) (e : EngIx) (k : SlotIx) (v : Word) (s : State), s.reaches w (lsAddr e.val k.val + 0x2C) (v.toNat ||| 2) ∧
      v.toNat.testBit 0 = false) ∧
    (∃ (w : Who) (e : EngIx) (g : Fin 4) (v : Word) (s : State), s.reaches w (leBase e.val + 0xC00 + 4 * g.val) v.toNat ∧ s.get (.loop
      .LE_STAT_STATE) e.val ≠ 0 ∧ s.bit (.saf .LOCK_ISL_LOCK) 6 = false) ∧
    (∃ (w : Who) (e : EngIx) (g : Fin 4) (v : Word) (s : State), s.reaches w (leBase e.val + 0xC00 + 4 * g.val) v.toNat ∧ s.get (.loop
      .LE_STAT_STATE) e.val = 0) :=
⟨⟨.safety, 15, 7, 0, (st [((.saf .ISL_STAT_STATE), 6, 0, 0), ((.loop .LS_LIMIT_OMIN), (15 : EngIx).val, (7 : SlotIx).val, 1), ((.loop
    .LS_LIMIT_OMAX), (15 : EngIx).val, (7 : SlotIx).val, 0)]), reaches_of (by decide), by decide⟩,
  ⟨.safety, 15, 7, 0, (st [((.saf .ISL_STAT_STATE), 6, 0, 0), ((.loop .LE_STAT_STATE), (15 : EngIx).val, 0, 0)]), reaches_of (by decide),
    by decide, by decide⟩,
  ⟨.safety, 15, 7, 0, (st [((.saf .ISL_STAT_STATE), 6, 0, 0), ((.loop .LE_STAT_STATE), (15 : EngIx).val, 0, 1)]), reaches_of (by decide),
    by decide, by decide⟩,
  ⟨.safety, 15, 7, 0, (st [((.saf .ISL_STAT_STATE), 6, 0, 0)]), reaches_of (by decide), by decide⟩,
  ⟨.safety, 15, 3, 0, (st [((.saf .ISL_STAT_STATE), 6, 0, 0), ((.loop .LE_STAT_STATE), (15 : EngIx).val, 0, 1)]), reaches_of (by decide),
    by decide, by decide⟩,
  ⟨.safety, 15, 3, 0, (st [((.saf .ISL_STAT_STATE), 6, 0, 0), ((.loop .LE_STAT_STATE), (15 : EngIx).val, 0, 0)]), reaches_of (by decide),
    by decide⟩⟩

/-- The hypotheses of each clause of `EngineControl` can be met. -/
theorem test_EngineControl_hypotheses :
    (∃ (e : EngIx) (s : State), s.running e.val = true ∧ s.groupAt e.val = 0) ∧
    (∃ (e : EngIx) (a : Fin 4096) (s : State), s.running e.val = true ∧ s.groupAt e.val = 0) ∧
    (∃ (e : EngIx) (a : Fin 4096) (s : State), s.running e.val = true ∧ s.groupAt e.val = 0) ∧
    (∃ (e : EngIx) (a : Fin 4096) (s : State), s.running e.val = true ∧ s.groupAt e.val = 0) ∧
    (∃ (e : EngIx) (a : Fin 4096) (s : State), s.running e.val = true ∧ s.groupAt e.val = 0 ∧ s.get (.loop .LE_DEPTH) e.val < 4) ∧
    (∃ (e : EngIx) (s : State), s.running e.val = true ∧ s.groupAt e.val = 0 ∧ 1 ≤ s.get (.loop .LE_DEPTH) e.val ∧ s.get (.loop .LE_DEPTH)
      e.val ≤ 4) ∧
    (∃ (e : EngIx) (a : Fin 4096) (s : State), s.running e.val = true ∧ s.groupAt e.val = 0 ∧ 4 ≤ s.get (.loop .LE_DEPTH) e.val) ∧
    (∃ (e : EngIx) (o : CtrlOp) (s : State), s.running e.val = true ∧ s.groupAt e.val = 0) ∧
    (∃ (e : EngIx) (s : State), s.running e.val = true ∧ s.groupAt e.val = 0) ∧
    (∃ (e : EngIx) (f : Ecc) (o : CtrlOp) (s : State), s.running e.val = false) ∧
    (∃ (e : EngIx) (s : State), s.running e.val = true) ∧
    (∃ (e : EngIx) (s : State), s.running e.val = true ∧ s.groupAt e.val = 13) ∧
    (∃ (e : EngIx) (s : State), s.running e.val = true ∧ s.groupAt e.val = 13) :=
⟨⟨15, (st [((.loop .LE_RUN), (15 : EngIx).val, 0, 1), ((.loop .LE_STAT_STATE), (15 : EngIx).val, 0, 1)]), by decide, by decide⟩,
  ⟨15, 4095, (st [((.loop .LE_RUN), (15 : EngIx).val, 0, 1), ((.loop .LE_STAT_STATE), (15 : EngIx).val, 0, 1)]), by decide, by decide⟩,
  ⟨15, 4095, (st [((.loop .LE_RUN), (15 : EngIx).val, 0, 1), ((.loop .LE_STAT_STATE), (15 : EngIx).val, 0, 1)]), by decide, by decide⟩,
  ⟨15, 4095, (st [((.loop .LE_RUN), (15 : EngIx).val, 0, 1), ((.loop .LE_STAT_STATE), (15 : EngIx).val, 0, 1)]), by decide, by decide⟩,
  ⟨15, 4095, (st [((.loop .LE_RUN), (15 : EngIx).val, 0, 1), ((.loop .LE_STAT_STATE), (15 : EngIx).val, 0, 1)]), by decide, by decide,
    by decide⟩,
  ⟨15, (st [((.loop .LE_RUN), (15 : EngIx).val, 0, 1), ((.loop .LE_STAT_STATE), (15 : EngIx).val, 0, 1), ((.loop .LE_DEPTH), (15 :
    EngIx).val, 0, 1)]), by decide, by decide, by decide, by decide⟩,
  ⟨15, 4095, (st [((.loop .LE_RUN), (15 : EngIx).val, 0, 1), ((.loop .LE_STAT_STATE), (15 : EngIx).val, 0, 1), ((.loop .LE_DEPTH), (15 :
    EngIx).val, 0, 4)]), by decide, by decide, by decide⟩,
  ⟨15, .nop, (st [((.loop .LE_RUN), (15 : EngIx).val, 0, 1), ((.loop .LE_STAT_STATE), (15 : EngIx).val, 0, 1)]), by decide, by decide⟩,
  ⟨15, (st [((.loop .LE_RUN), (15 : EngIx).val, 0, 1), ((.loop .LE_STAT_STATE), (15 : EngIx).val, 0, 1)]), by decide, by decide⟩,
  ⟨15, .clean, .nop, .reset, by decide⟩,
  ⟨15, (st [((.loop .LE_RUN), (15 : EngIx).val, 0, 1), ((.loop .LE_STAT_STATE), (15 : EngIx).val, 0, 1)]), by decide⟩,
  ⟨15, (stm [((.loop .LE_RUN), (15 : EngIx).val, 0, 1), ((.loop .LE_STAT_STATE), (15 : EngIx).val, 0, 1)] [(0x1030f40000,
    0xd000000000000000, 8)]), by decide, by decide⟩,
  ⟨15, (stm [((.loop .LE_RUN), (15 : EngIx).val, 0, 1), ((.loop .LE_STAT_STATE), (15 : EngIx).val, 0, 1)] [(0x1030f40000,
    0xd000000000000000, 8)]), by decide, by decide⟩⟩

/-- The hypotheses of each clause of `EngineData` can be met. -/
theorem test_EngineData_hypotheses :
    (∃ (e : EngIx) (d : RegIx) (a : RegIx) (s : State), s.running e.val = true ∧ s.groupAt e.val = 1) ∧
    (∃ (e : EngIx) (d : RegIx) (v : Word) (s : State), s.running e.val = true ∧ s.groupAt e.val = 1) ∧
    (∃ (e : EngIx) (d : RegIx) (a : BitVec 14) (s : State), s.running e.val = true ∧ s.groupAt e.val = 1) ∧
    (∃ (e : EngIx) (r : RegIx) (a : BitVec 14) (s : State), s.running e.val = true ∧ s.groupAt e.val = 1) ∧
    (∃ (e : EngIx) (d : RegIx) (a : RegIx) (b : RegIx) (s : State), s.running e.val = true ∧ s.groupAt e.val = 2 ∧ satS 32 (s.gs e.val a +
      s.gs e.val b) = s.gs e.val a + s.gs e.val b) ∧
    (∃ (e : EngIx) (d : RegIx) (a : RegIx) (b : RegIx) (s : State), s.running e.val = true ∧ s.groupAt e.val = 2 ∧ s.g e.val b < 32) ∧
    (∃ (e : EngIx) (o : ArithOp) (d : RegIx) (a : RegIx) (b : RegIx) (s : State), s.running e.val = true ∧ s.groupAt e.val = 2) ∧
    (∃ (e : EngIx) (d : Fin 2) (a : RegIx) (b : RegIx) (v : Int) (s : State), s.running e.val = true ∧ s.groupAt e.val = 3 ∧ v = s.sget
      (.loop .LE_A) e.val d.val + toSigned 16 (s.g e.val a % 65536) * toSigned 16 (s.g e.val b % 65536) ∧ satS 48 v = v) ∧
    (∃ (e : EngIx) (o : TrigOp) (d : RegIx) (a : RegIx) (b : RegIx) (s : State), s.running e.val = true ∧ s.groupAt e.val = 4) ∧
    (∃ (e : EngIx) (o : XformOp) (d0 : RegIx) (d1 : RegIx) (a : RegIx) (b : RegIx) (c : RegIx) (s : State), s.running e.val = true ∧
      s.groupAt e.val = 5) ∧
    (∃ (e : EngIx) (d : RegIx) (p : Fin 32) (s : State), s.running e.val = true ∧ s.groupAt e.val = 6) ∧
    (∃ (e : EngIx) (r : RegIx) (p : Fin 32) (s : State), s.running e.val = true ∧ s.groupAt e.val = 6) ∧
    (∃ (e : EngIx) (d : RegIx) (p : Fin 32) (s : State), s.running e.val = true ∧ s.groupAt e.val = 6) :=
⟨⟨15, 31, 31, (stm [((.loop .LE_RUN), (15 : EngIx).val, 0, 1), ((.loop .LE_STAT_STATE), (15 : EngIx).val, 0, 1)] [(0x1030f40000,
    0x1000000000000000, 8)]), by decide, by decide⟩,
  ⟨15, 31, 0, (stm [((.loop .LE_RUN), (15 : EngIx).val, 0, 1), ((.loop .LE_STAT_STATE), (15 : EngIx).val, 0, 1)] [(0x1030f40000,
    0x1000000000000000, 8)]), by decide, by decide⟩,
  ⟨15, 31, 0, (stm [((.loop .LE_RUN), (15 : EngIx).val, 0, 1), ((.loop .LE_STAT_STATE), (15 : EngIx).val, 0, 1)] [(0x1030f40000,
    0x1000000000000000, 8)]), by decide, by decide⟩,
  ⟨15, 31, 0, (stm [((.loop .LE_RUN), (15 : EngIx).val, 0, 1), ((.loop .LE_STAT_STATE), (15 : EngIx).val, 0, 1)] [(0x1030f40000,
    0x1000000000000000, 8)]), by decide, by decide⟩,
  ⟨15, 31, 31, 31, (stm [((.loop .LE_RUN), (15 : EngIx).val, 0, 1), ((.loop .LE_STAT_STATE), (15 : EngIx).val, 0, 1)] [(0x1030f40000,
    0x2000000000000000, 8)]), by decide, by decide, by decide⟩,
  ⟨15, 31, 31, 31, (stm [((.loop .LE_RUN), (15 : EngIx).val, 0, 1), ((.loop .LE_STAT_STATE), (15 : EngIx).val, 0, 1)] [(0x1030f40000,
    0x2000000000000000, 8)]), by decide, by decide, by decide⟩,
  ⟨15, .add, 31, 31, 31, (stm [((.loop .LE_RUN), (15 : EngIx).val, 0, 1), ((.loop .LE_STAT_STATE), (15 : EngIx).val, 0, 1)]
    [(0x1030f40000, 0x2000000000000000, 8)]), by decide, by decide⟩,
  ⟨15, 1, 31, 31, 0, (stm [((.loop .LE_RUN), (15 : EngIx).val, 0, 1), ((.loop .LE_STAT_STATE), (15 : EngIx).val, 0, 1)] [(0x1030f40000,
    0x3000000000000000, 8)]), by decide, by decide, by decide, by decide⟩,
  ⟨15, .sin, 31, 31, 31, (stm [((.loop .LE_RUN), (15 : EngIx).val, 0, 1), ((.loop .LE_STAT_STATE), (15 : EngIx).val, 0, 1)]
    [(0x1030f40000, 0x4000000000000000, 8)]), by decide, by decide⟩,
  ⟨15, .park, 31, 31, 31, 31, 31, (stm [((.loop .LE_RUN), (15 : EngIx).val, 0, 1), ((.loop .LE_STAT_STATE), (15 : EngIx).val, 0, 1)]
    [(0x1030f40000, 0x5000000000000000, 8)]), by decide, by decide⟩,
  ⟨15, 31, 31, (stm [((.loop .LE_RUN), (15 : EngIx).val, 0, 1), ((.loop .LE_STAT_STATE), (15 : EngIx).val, 0, 1)] [(0x1030f40000,
    0x6000000000000000, 8)]), by decide, by decide⟩,
  ⟨15, 31, 31, (stm [((.loop .LE_RUN), (15 : EngIx).val, 0, 1), ((.loop .LE_STAT_STATE), (15 : EngIx).val, 0, 1)] [(0x1030f40000,
    0x6000000000000000, 8)]), by decide, by decide⟩,
  ⟨15, 31, 31, (stm [((.loop .LE_RUN), (15 : EngIx).val, 0, 1), ((.loop .LE_STAT_STATE), (15 : EngIx).val, 0, 1)] [(0x1030f40000,
    0x6000000000000000, 8)]), by decide, by decide⟩⟩

/-- The hypotheses of each clause of `EngineLaws` can be met. -/
theorem test_EngineLaws_hypotheses :
    (∃ (e : EngIx) (k : SlotIx) (s : State), s.running e.val = true ∧ s.groupAt e.val = 8 ∧ s.bit (.loop .LE_BEG) k.val e.val = true) ∧
    (∃ (e : EngIx) (k : SlotIx) (err : Int) (s : State), s.running e.val = true ∧ s.groupAt e.val = 9 ∧ s.bit (.loop .LE_BEG) k.val e.val
      = true ∧ err = satS 16 (s.seenSp e.val k.val - s.seenFb e.val k.val)) ∧
    (∃ (e : EngIx) (k : SlotIx) (s : State), s.running e.val = true ∧ s.groupAt e.val = 10 ∧ s.bit (.loop .LE_BEG) k.val e.val = true ∧
      s.wget .LS_CFG_LAW e.val k.val = 0) ∧
    (∃ (e : EngIx) (k : SlotIx) (err : Int) (p : Int) (s : State), s.running e.val = true ∧ s.groupAt e.val = 10 ∧ s.bit (.loop .LE_BEG)
      k.val e.val = true ∧ s.wget .LS_CFG_LAW e.val k.val = 1 ∧ s.get (.loop .PM_SEED) e.val k.val = 0 ∧ s.get (.loop .LS_PM_STAT_HOLDING)
      e.val k.val = 0 ∧ s.get (.loop .INJ_STAT_ACTIVE) e.val = 0 ∧ err = satS 16 (s.seenSp e.val k.val - s.seenFb e.val k.val) ∧ p = satS
      16 (roundDiv (s.wsget .LS_KP e.val k.val * s.gainOf e.val k.val err * err) (2 ^ 37))) ∧
    (∃ (e : EngIx) (k : Nat) (yhat : Int) (s : State), s.running e.val = true ∧ s.groupAt e.val = 11 ∧ s.get (.loop .LE_SLOT) e.val = k ∧
      s.get (.loop .PM_DID) e.val k = 0 ∧ s.get (.loop .PM_SEED) e.val k = 0 ∧ s.wget .LS_PM_CFG_FORM e.val k ∈ [1, 2, 3, 4] ∧
      s.prediction e.val k = some yhat) ∧
    (∃ (e : EngIx) (s : State), s.running e.val = true ∧ s.groupAt e.val = 12) ∧
    (∃ (e : EngIx) (s : State), s.running e.val = true ∧ s.groupAt e.val = 12 ∧ s.get (.loop .TRC_CEND) e.val = 0 ∧ s.get (.loop
      .TRC_CTRL_MODE) e.val = 0) ∧
    (∃ (e : EngIx) (s : State), s.running e.val = true ∧ s.groupAt e.val = 12 ∧ s.get (.loop .TRC_CEND) e.val = 0 ∧ s.get (.loop
      .TRC_CTRL_MODE) e.val = 1 ∧ s.get (.loop .TRC_STAT_ARMED) e.val = 0 ∧ s.get (.loop .TRC_STAT_TRIGGERED) e.val = 0 ∧ s.get (.loop
      .TRC_NTRIG) e.val = 0 ∧ 1 ≤ s.get (.loop .TRC_CNT) e.val ∧ s.get (.loop .TRC_CNT) e.val + 1 < s.trcCap e.val ∧ s.get (.loop
      .TRC_STAT_WPTR) e.val + s.trcRec e.val / 4 < 8192) :=
⟨⟨15, 7, (stm [((.loop .LE_BEG), 15, 0, 0x80), ((.loop .LE_RUN), (15 : EngIx).val, 0, 1), ((.loop .LE_STAT_STATE), (15 : EngIx).val, 0,
    1)] [(0x1030f40000, 0x8000000000000000, 8)]), by decide, by decide, by decide⟩,
  ⟨15, 7, 0, (stm [((.loop .LE_BEG), 15, 0, 0x80), ((.loop .LE_RUN), (15 : EngIx).val, 0, 1), ((.loop .LE_STAT_STATE), (15 : EngIx).val,
    0, 1)] [(0x1030f40000, 0x9000000000000000, 8)]), by decide, by decide, by decide, by decide⟩,
  ⟨15, 7, (stm [((.loop .LE_BEG), 15, 0, 0x80), ((.loop .LE_RUN), (15 : EngIx).val, 0, 1), ((.loop .LE_STAT_STATE), (15 : EngIx).val, 0,
    1), ((.loop .LS_CFG_LAW), (15 : EngIx).val, work (7 : SlotIx).val, 0)] [(0x1030f40000, 0xa000000000000000, 8)]), by decide, by decide,
    by decide, by decide⟩,
  ⟨15, 7, 0, 0, (stm [((.loop .LE_BEG), 15, 0, 0x80), ((.loop .LE_RUN), (15 : EngIx).val, 0, 1), ((.loop .LE_STAT_STATE), (15 :
    EngIx).val, 0, 1), ((.loop .LS_CFG_LAW), (15 : EngIx).val, work (7 : SlotIx).val, 1), ((.loop .PM_SEED), (15 : EngIx).val, (7 :
    SlotIx).val, 0), ((.loop .LS_PM_STAT_HOLDING), (15 : EngIx).val, (7 : SlotIx).val, 0), ((.loop .INJ_STAT_ACTIVE), (15 : EngIx).val, 0,
    0)] [(0x1030f40000, 0xa000000000000000, 8)]), by decide, by decide, by decide, by decide, by decide, by decide, by decide, by decide,
    by decide⟩,
  ⟨15, 0, 0, (stm [((.loop .LE_RUN), (15 : EngIx).val, 0, 1), ((.loop .LE_STAT_STATE), (15 : EngIx).val, 0, 1), ((.loop .LE_SLOT), (15 :
    EngIx).val, 0, (0 : Nat)), ((.loop .PM_DID), (15 : EngIx).val, (0 : Nat), 0), ((.loop .PM_SEED), (15 : EngIx).val, (0 : Nat), 0),
    ((.loop .LS_PM_CFG_FORM), (15 : EngIx).val, work (0 : Nat), 1)] [(0x1030f40000, 0xb000000000000000, 8)]), by decide, by decide,
    by decide, by decide, by decide, by decide, by decide⟩,
  ⟨15, (stm [((.loop .LE_RUN), (15 : EngIx).val, 0, 1), ((.loop .LE_STAT_STATE), (15 : EngIx).val, 0, 1)] [(0x1030f40000,
    0xc000000000000000, 8)]), by decide, by decide⟩,
  ⟨15, (stm [((.loop .LE_RUN), (15 : EngIx).val, 0, 1), ((.loop .LE_STAT_STATE), (15 : EngIx).val, 0, 1), ((.loop .TRC_CEND), (15 :
    EngIx).val, 0, 0), ((.loop .TRC_CTRL_MODE), (15 : EngIx).val, 0, 0)] [(0x1030f40000, 0xc000000000000000, 8)]), by decide, by decide,
    by decide, by decide⟩,
  ⟨15, (stm [((.loop .LE_RUN), (15 : EngIx).val, 0, 1), ((.loop .LE_STAT_STATE), (15 : EngIx).val, 0, 1), ((.loop .TRC_CEND), (15 :
    EngIx).val, 0, 0), ((.loop .TRC_CTRL_MODE), (15 : EngIx).val, 0, 1), ((.loop .TRC_STAT_ARMED), (15 : EngIx).val, 0, 0), ((.loop
    .TRC_STAT_TRIGGERED), (15 : EngIx).val, 0, 0), ((.loop .TRC_CNT), (15 : EngIx).val, 0, 1)] [(0x1030f40000, 0xc000000000000000, 8)]),
    by decide, by decide, by decide, by decide, by decide, by decide, by decide, by decide, by decide, by decide⟩⟩

/-- The hypotheses of each clause of `Plausibility` can be met. -/
theorem test_Plausibility_hypotheses :
    (∃ (e : EngIx) (k : SlotIx) (s : State), s.bit (.loop .PM_EV) 0 e.val k.val = true ∧ s.wget .LS_PM_CFG_REACT e.val k.val = 0) ∧
    (∃ (e : EngIx) (k : SlotIx) (s : State), s.bit (.loop .PM_EV) 0 e.val k.val = true ∧ s.wget .LS_PM_CFG_REACT e.val k.val = 1) ∧
    (∃ (e : EngIx) (k : SlotIx) (s : State), s.bit (.loop .PM_EV) 0 e.val k.val = true ∧ s.wget .LS_PM_CFG_REACT e.val k.val = 2 ∧ s.bit
      (.loop .S_HAS) 1 e.val k.val = true) ∧
    (∃ (e : EngIx) (k : SlotIx) (s : State), s.bit (.loop .PM_EV) 0 e.val k.val = true ∧ s.wget .LS_PM_CFG_REACT e.val k.val = 3) ∧
    (∃ (e : EngIx) (k : SlotIx) (s : State), s.bit (.loop .PM_EV) 1 e.val k.val = true) ∧
    (∃ (e : EngIx) (k : SlotIx) (s : State), s.bit (.loop .PM_EV) 2 e.val k.val = true) :=
⟨⟨15, 7, (st [((.loop .PM_EV), (15 : EngIx).val, (7 : SlotIx).val, 2 ^ 0), ((.loop .LS_PM_CFG_REACT), (15 : EngIx).val, work (7 :
    SlotIx).val, 0)]), by decide, by decide⟩,
  ⟨15, 7, (st [((.loop .PM_EV), (15 : EngIx).val, (7 : SlotIx).val, 2 ^ 0), ((.loop .LS_PM_CFG_REACT), (15 : EngIx).val, work (7 :
    SlotIx).val, 1)]), by decide, by decide⟩,
  ⟨15, 7, (st [((.loop .PM_EV), (15 : EngIx).val, (7 : SlotIx).val, 2 ^ 0), ((.loop .LS_PM_CFG_REACT), (15 : EngIx).val, work (7 :
    SlotIx).val, 2), ((.loop .S_HAS), (15 : EngIx).val, (7 : SlotIx).val, 2 ^ 1)]), by decide, by decide, by decide⟩,
  ⟨15, 7, (st [((.loop .PM_EV), (15 : EngIx).val, (7 : SlotIx).val, 2 ^ 0), ((.loop .LS_PM_CFG_REACT), (15 : EngIx).val, work (7 :
    SlotIx).val, 3)]), by decide, by decide⟩,
  ⟨15, 7, (st [((.loop .PM_EV), (15 : EngIx).val, (7 : SlotIx).val, 2 ^ 1)]), by decide⟩,
  ⟨15, 7, (st [((.loop .PM_EV), (15 : EngIx).val, (7 : SlotIx).val, 2 ^ 2)]), by decide⟩⟩

/-- The hypotheses of each clause of `TraceControl` can be met. -/
theorem test_TraceControl_hypotheses :
    (∃ (e : EngIx) (s : State), s.get (.loop .TRC_CTRL_MODE) e.val = 2 ∧ s.get (.loop .TRC_STAT_TRIGGERED) e.val = 1 ∧ s.get (.loop
      .TRC_NTRIG) e.val = 0 ∧ s.get (.loop .TRC_LEFT) e.val = 0) ∧
    (∃ (w : Who) (e : EngIx) (v : Word) (s : State), s.reaches w (leBase e.val + 0xD00) v.toNat ∧ v.toNat % 4 ≠ 0 ∧ s.get (.loop
      .TRC_CTRL_MODE) e.val = 0) ∧
    (∃ (w : Who) (e : EngIx) (v : Word) (s : State), s.reaches w (leBase e.val + 0xD00) v.toNat ∧ v.toNat % 4 ≠ 0 ∧ s.get (.loop
      .TRC_CTRL_MODE) e.val ≠ 0) ∧
    (∃ (w : Who) (e : EngIx) (i : Fin 16) (v : Word) (s : State), s.reaches w (leBase e.val + 0xD40 + 4 * i.val) v.toNat) ∧
    (∃ (w : Who) (e : EngIx) (v : Word) (s : State), s.reaches w (leBase e.val + 0xD08) (v.toNat ||| 0x10000) ∧ v.toNat.testBit 17 =
      false) ∧
    (∃ (w : Who) (e : EngIx) (post : Half) (s : State), s.reaches w (leBase e.val + 0xD08) (0x20000 + post.toNat) ∧ s.get (.loop
      .TRC_STAT_ARMED) e.val = 1 ∧ s.get (.loop .TRC_TRIG_TSRC) e.val = 7) ∧
    (∃ (w : Who) (v : Word) (s : State), s.reaches w 0x1031000080 v.toNat) ∧
    (∃ (e : EngIx) (s : State), s.get (.loop .STRM_E) = e.val + 1 ∧ s.get (.mem .MQ_KIND) 14 = 0 ∧ s.get (.mem .PORT_STAT_INFLIGHT) 14 = 0
      ∧ s.get (.loop .STRM_SHUT) = 1) ∧
    (∃ (e : EngIx) (s : State), s.get (.loop .STRM_E) = e.val + 1 ∧ s.get (.mem .MQ_KIND) 14 = 0 ∧ s.get (.mem .PORT_STAT_INFLIGHT) 14 = 0
      ∧ s.get (.loop .STRM_SHUT) = 0 ∧ 17 ≤ s.get (.loop .STRM_P)) :=
⟨⟨15, (st [((.loop .TRC_CTRL_MODE), (15 : EngIx).val, 0, 2), ((.loop .TRC_STAT_TRIGGERED), (15 : EngIx).val, 0, 1), ((.loop .TRC_LEFT),
    (15 : EngIx).val, 0, 0)]), by decide, by decide, by decide, by decide⟩,
  ⟨.safety, 15, 3, (st [((.saf .ISL_STAT_STATE), 6, 0, 0), ((.loop .TRC_CTRL_MODE), (15 : EngIx).val, 0, 0)]), reaches_of (by decide),
    by decide, by decide⟩,
  ⟨.safety, 15, 1, (st [((.saf .ISL_STAT_STATE), 6, 0, 0), ((.loop .TRC_CTRL_MODE), (15 : EngIx).val, 0, 1)]), reaches_of (by decide),
    by decide, by decide⟩,
  ⟨.safety, 15, 15, 0, (st [((.saf .ISL_STAT_STATE), 6, 0, 0)]), reaches_of (by decide)⟩,
  ⟨.safety, 15, 0, (st [((.saf .ISL_STAT_STATE), 6, 0, 0)]), reaches_of (by decide), by decide⟩,
  ⟨.safety, 15, 0, (st [((.saf .ISL_STAT_STATE), 6, 0, 0), ((.loop .TRC_STAT_ARMED), (15 : EngIx).val, 0, 1), ((.loop .TRC_TRIG_TSRC), (15
    : EngIx).val, 0, 7)]), reaches_of (by decide), by decide, by decide⟩,
  ⟨.safety, 0, (st [((.saf .ISL_STAT_STATE), 6, 0, 0)]), reaches_of (by decide)⟩,
  ⟨15, (st [((.loop .STRM_E), 0, 0, 16), ((.loop .STRM_SHUT), 0, 0, 1)]), by decide, by decide, by decide, by decide⟩,
  ⟨15, (st [((.loop .STRM_E), 0, 0, 16), ((.loop .STRM_P), 0, 0, 17)]), by decide, by decide, by decide, by decide, by decide⟩⟩

/-- The hypotheses of each clause of `Injection` can be met. -/
theorem test_Injection_hypotheses :
    (∃ (w : Who) (e : EngIx) (v : Word) (s : State), s.reaches w (leBase e.val + 0xE00) (v.toNat ||| 1) ∧ s.bit (.loop .INJ_PERMIT) e.val
      = false) ∧
    (∃ (w : Who) (e : EngIx) (v : Word) (s : State), s.reaches w (leBase e.val + 0xE00) (v.toNat ||| 1) ∧ (injFields e.val v.toNat
      s).injRefused e.val = false) ∧
    (∃ (w : Who) (e : EngIx) (v : Word) (s : State), s.reaches w (leBase e.val + 0xE00) (v.toNat ||| 2) ∧ s.get (.loop .INJ_STAT_ACTIVE)
      e.val = 1) ∧
    (∃ (e : EngIx) (s : State), s.get (.loop .INJ_STAT_ACTIVE) e.val = 1 ∧ s.get (.loop .INJ_LEN) e.val ≤ s.get (.loop .INJ_K) e.val + 1 ∧
      s.get (.loop .LE_RUN) e.val = 0) ∧
    (∃ (e : EngIx) (s : State), s.get (.loop .INJ_STAT_ACTIVE) e.val = 1) :=
⟨⟨.safety, 15, 0, (st [((.saf .ISL_STAT_STATE), 6, 0, 0)]), reaches_of (by decide), by decide⟩,
  ⟨.safety, 15, 0xFFFF2000, (st [((.saf .ISL_STAT_STATE), 6, 0, 0), ((.loop .INJ_PERMIT), 0, 0, 2 ^ 15), ((.loop .LS_CFG_EN), (15 :
    EngIx).val, work 0, 1), ((.loop .INJ_LEN), (15 : EngIx).val, 0, 1)]), reaches_of (by decide), by decide⟩,
  ⟨.safety, 15, 0, (st [((.saf .ISL_STAT_STATE), 6, 0, 0), ((.loop .INJ_STAT_ACTIVE), (15 : EngIx).val, 0, 1)]), reaches_of (by decide),
    by decide⟩,
  ⟨15, (st [((.loop .INJ_STAT_ACTIVE), (15 : EngIx).val, 0, 1)]), by decide, by decide, by decide⟩,
  ⟨15, (st [((.loop .INJ_STAT_ACTIVE), (15 : EngIx).val, 0, 1)]), by decide⟩⟩

/-- The hypotheses of each clause of `DomainStop` can be met. -/
theorem test_DomainStop_hypotheses :
    (∃ (w : Who) (d : DomIx) (dbl : Bool) (strict : Bool) (s : State), s.reaches w (domAddr d.val) (2 * dbl.toNat + 4 * strict.toNat) ∧
      s.get (.edge .DOM_CTRL_EN) d.val = 1 ∧ s.domBusy d.val = true) ∧
    (∃ (w : Who) (d : DomIx) (dbl : Bool) (strict : Bool) (s : State), s.reaches w (domAddr d.val) (2 * dbl.toNat + 4 * strict.toNat) ∧
      s.get (.edge .DOM_CTRL_EN) d.val = 1 ∧ s.domBusy d.val = false) ∧
    (∃ (w : Who) (d : DomIx) (dbl : Bool) (strict : Bool) (s : State), s.reaches w (domAddr d.val) (2 * dbl.toNat + 4 * strict.toNat) ∧
      s.get (.edge .DOM_CTRL_EN) d.val = 0) :=
⟨⟨.safety, 7, true, true, (st [((.saf .ISL_STAT_STATE), 7, 0, 0), ((.edge .LEG_CFG_DOMAIN), 40, 0, 7), ((.edge .OG_EN), 0, 0, 256),
    ((.edge .DOM_CTRL_EN), 7, 0, 1)]), reaches_of (by decide), by decide, by decide⟩,
  ⟨.safety, 7, true, false, (st [((.saf .ISL_STAT_STATE), 7, 0, 0), ((.edge .DOM_CTRL_EN), 7, 0, 1), ((.edge .DOM_STAT_RUNNING), 7, 0,
    1)]), reaches_of (by decide), by decide, by decide⟩,
  ⟨.safety, 7, false, true, (st [((.saf .ISL_STAT_STATE), 7, 0, 0), ((.edge .DOM_CTRL_EN), 7, 0, 0)]), reaches_of (by decide), by decide⟩⟩

/-- The hypotheses of each clause of `DomainControl` can be met. -/
theorem test_DomainControl_hypotheses :
    (∃ (w : Who) (m : BitVec 8) (s : State), s.reaches w (edgeBase + 0x0C) (m.toNat * 256)) ∧
    (∃ (w : Who) (start : BitVec 8) (ldall : BitVec 8) (s : State), s.reaches w (edgeBase + 0x0C) (start.toNat * 256 + ldall.toNat)) ∧
    (∃ (w : Who) (d : DomIx) (s : State), s.reaches w (domAddr d.val + 0x14) 1) ∧
    (∃ (w : Who) (d : DomIx) (s : State), s.reaches w (domAddr d.val + 0x14) 0) :=
⟨⟨.safety, 3, (st [((.saf .ISL_STAT_STATE), 7, 0, 0)]), reaches_of (by decide)⟩,
  ⟨.safety, 129, 64, (st [((.saf .ISL_STAT_STATE), 7, 0, 0)]), reaches_of (by decide)⟩,
  ⟨.safety, 7, (st [((.saf .ISL_STAT_STATE), 7, 0, 0)]), reaches_of (by decide)⟩,
  ⟨.safety, 7, (st [((.saf .ISL_STAT_STATE), 7, 0, 0)]), reaches_of (by decide)⟩⟩

/-- The hypotheses of each clause of `DomainBoundaries` can be met. -/
theorem test_DomainBoundaries_hypotheses :
    (∃ (d : DomIx) (s : State), s.domRuns d.val = true ∧ s.halfDue d.val = false ∧ s.now = sampleOf (s.get (.edge .DOM_NEXT) d.val) ∧
      s.get (.edge .DOM_STAT_LDALL_PENDING) d.val = 1 ∧ s.get (.edge .DOM_SAMPLED) d.val = 0 ∧ s.get (.edge .DOM_CTRL_STRICT) d.val = 0) ∧
    (∃ (d : DomIx) (s : State), s.domRuns d.val = true ∧ s.halfDue d.val = true ∧ s.now = sampleOf (s.halfAt d.val) ∧ s.get (.edge
      .DOM_STAT_LDALL_PENDING) d.val = 1 ∧ s.get (.edge .DOM_SAMPLED) d.val = 0 ∧ s.get (.edge .DOM_CTRL_STRICT) d.val = 0) ∧
    (∃ (d : DomIx) (s : State), s.domRuns d.val = true ∧ s.halfDue d.val = false ∧ s.now = sampleOf (s.get (.edge .DOM_NEXT) d.val) ∧
      s.get (.edge .DOM_STAT_LDALL_PENDING) d.val = 1 ∧ s.get (.edge .DOM_SAMPLED) d.val = 0 ∧ s.get (.edge .DOM_CTRL_STRICT) d.val = 1 ∧
      s.strictOk d.val = false) ∧
    (∃ (d : DomIx) (s : State), s.domRuns d.val = true ∧ s.now = s.get (.edge .DOM_NEXT) d.val ∧ s.get (.edge .DOM_CAP) d.val = 1) ∧
    (∃ (d : DomIx) (s : State), s.domRuns d.val = false) ∧
    (∃ (d : DomIx) (s : State), s.domRuns d.val = true ∧ s.halfDue d.val = true ∧ s.now = s.halfAt d.val ∧ s.get (.edge .DOM_CAP) d.val =
      1) ∧
    (∃ (d : DomIx) (e : Fin 3) (s : State), s.domRuns d.val = true ∧ s.get (.saf .ISL_STAT_STATE) 7 = 0 ∧ s.bit (.edge .DOM_EVD) e.val
      d.val = false ∧ s.now = s.eventAt d.val (e.val + 1) ∧ s.get (.saf .ISL_STAT_STATE) 9 ≠ 0) :=
⟨⟨7, { (st [((.edge .DOM_STAT_RUNNING), 7, 0, 1), ((.saf .ISL_STAT_STATE), 7, 0, 0), ((.edge .DOM_NEXT), 7, 0, 1600), ((.edge
    .DOM_STAT_LDALL_PENDING), 7, 0, 1), ((.edge .LEG_CFG_DOMAIN), 40, 0, 7), ((.edge .LEG_DUTY), 40, 0, 99)]) with now := 1568 },
    by decide, by decide, by decide, by decide, by decide, by decide⟩,
  ⟨7, { (st [((.edge .DOM_STAT_RUNNING), 7, 0, 1), ((.saf .ISL_STAT_STATE), 7, 0, 0), ((.edge .DOM_NEXT), 7, 0, 1600), ((.edge
    .DOM_STAT_LDALL_PENDING), 7, 0, 1), ((.edge .DOM_CTRL_DBL), 7, 0, 1), ((.edge .DOM_RB), 7, 0, 800), ((.edge .DOM_P0), 7, 0, 1600)])
    with now := 1568 }, by decide, by decide, by decide, by decide, by decide, by decide⟩,
  ⟨7, { (st [((.edge .DOM_STAT_RUNNING), 7, 0, 1), ((.saf .ISL_STAT_STATE), 7, 0, 0), ((.edge .DOM_NEXT), 7, 0, 1600), ((.edge
    .DOM_STAT_LDALL_PENDING), 7, 0, 1), ((.edge .DOM_CTRL_STRICT), 7, 0, 1)]) with now := 1568 }, by decide, by decide, by decide,
    by decide, by decide, by decide, by decide⟩,
  ⟨7, { (st [((.edge .DOM_STAT_RUNNING), 7, 0, 1), ((.saf .ISL_STAT_STATE), 7, 0, 0), ((.edge .DOM_NEXT), 7, 0, 1600), ((.edge .DOM_CAP),
    7, 0, 1), ((.edge .DOM_C_PERIOD), 7, 0, 900), ((.edge .LEG_CFG_DOMAIN), 40, 0, 7), ((.edge .LEG_C_DUTY), 40, 0, 1000)]) with now :=
    1600 }, by decide, by decide, by decide⟩,
  ⟨7, .reset, by decide⟩,
  ⟨7, { (st [((.edge .DOM_STAT_RUNNING), 7, 0, 1), ((.saf .ISL_STAT_STATE), 7, 0, 0), ((.edge .DOM_NEXT), 7, 0, 1600), ((.edge
    .DOM_CTRL_DBL), 7, 0, 1), ((.edge .DOM_RB), 7, 0, 800), ((.edge .DOM_P0), 7, 0, 1600), ((.edge .DOM_CAP), 7, 0, 1)]) with now := 1600
    }, by decide, by decide, by decide, by decide⟩,
  ⟨7, 2, { (st [((.edge .DOM_STAT_RUNNING), 7, 0, 1), ((.saf .ISL_STAT_STATE), 7, 0, 0), ((.edge .DOM_NEXT), 7, 0, 1600), ((.edge
    .DOM_RB), 7, 0, 1600), ((.saf .ISL_STAT_STATE), 9, 0, 1)]) with now := 1600 }, by decide, by decide, by decide, by decide, by decide⟩⟩

/-- The hypotheses of each clause of `GroupEnableDisable` can be met. -/
theorem test_GroupEnableDisable_hypotheses :
    (∃ (w : Who) (g : GroupIx) (p : Pins) (c : Nat) (n : Nat) (s : State), firmwareHolds w g.val s = none ∧ s.bit (.edge .OG_EN) g.val =
      false ∧ s.reaches w (edgeBase + 0x20) (s.get (.edge .OG_EN) ||| 2 ^ g.val) ∧ s.enableCause g.val = some (c, n)) ∧
    (∃ (w : Who) (g : GroupIx) (p : Pins) (s : State), firmwareHolds w g.val s = none ∧ s.bit (.edge .OG_EN) g.val = false ∧ s.reaches w
      (edgeBase + 0x20) (s.get (.edge .OG_EN) ||| 2 ^ g.val) ∧ s.enableCause g.val = none ∧ g.val ∈ [3, 4, 9, 10, 11, 12, 13, 14, 15]) ∧
    (∃ (w : Who) (g : GroupIx) (p : Pins) (s : State), firmwareHolds w g.val s = none ∧ s.bit (.edge .OG_EN) g.val = false ∧ s.reaches w
      (edgeBase + 0x20) (s.get (.edge .OG_EN) ||| 2 ^ g.val) ∧ s.enableCause g.val = none ∧ g.val ∈ [0, 1, 6, 7, 8]) ∧
    (∃ (q : PairIx) (g : GroupIx) (p : Pins) (r : Nat) (s : State), s.withheld g.val = some r) ∧
    (∃ (w : Who) (g : GroupIx) (s : State), s.bit (.edge .OG_EN) g.val = true ∧ s.reaches w (edgeBase + 0x20) (andNot (s.get (.edge
      .OG_EN)) (2 ^ g.val))) :=
⟨⟨.safety, 15, ⟨false, false, false, false, false⟩, 1, 63, (st [((.saf .ISL_STAT_STATE), 7, 0, 0)]), by decide, by decide, reaches_of
    (by decide), by decide⟩,
  ⟨.safety, 15, ⟨false, false, false, false, false⟩, (st [((.saf .ISL_STAT_STATE), 7, 0, 0), ((.saf .AXLE_MODE_MODE), 0, 0, 5), ((.grd
    .OG_LATCH), 0, 0, 0)]), by decide, by decide, reaches_of (by decide), by decide, by decide⟩,
  ⟨.safety, 8, ⟨false, false, false, false, false⟩, (st [((.saf .ISL_STAT_STATE), 7, 0, 0), ((.saf .AXLE_MODE_MODE), 0, 0, 5), ((.grd
    .OG_LATCH), 0, 0, 0), ((.edge .DOM_STAT_RUNNING), 0, 0, 1), ((.edge .LEG_CFG_MODE), 38, 0, 1), ((.edge .LEG_CFG_MODE), 39, 0, 1),
    ((.edge .LEG_CFG_MODE), 40, 0, 1)]), by decide, by decide, reaches_of (by decide), by decide, by decide⟩,
  ⟨7, 6, ⟨false, false, false, false, false⟩, 435, (st [((.edge .OG_EN), 0, 0, 128)]), by decide⟩,
  ⟨.safety, 15, (st [((.edge .OG_EN), 0, 0, 2 ^ (15 : GroupIx).val), ((.saf .ISL_STAT_STATE), 7, 0, 0)]), by decide, reaches_of
    (by decide)⟩⟩

/-- The hypotheses of each clause of `Legs` can be met. -/
theorem test_Legs_hypotheses :
    (∃ (w : Who) (n : LegIx) (k : Fin 4) (g : LegReg) (v : Word) (s : State), (k, g) ∈ [(0, LegReg.cfg), (1, .refresh), (2, .cmt), (3,
      .six)] ∧ s.reaches w (legAddr n.val + g.off) v.toNat ∧ s.legEnabled n.val = true) ∧
    (∃ (w : Who) (n : LegIx) (v : Word) (s : State), s.reaches w (legAddr n.val + LegReg.cmt.off) v.toNat ∧ s.legEnabled n.val = false) ∧
    (∃ (w : Who) (n : LegIx) (v : Word) (s : State), s.reaches w (legAddr n.val + LegReg.six.off) v.toNat ∧ s.legEnabled n.val = false) ∧
    (∃ (w : Who) (n : LegIx) (v : Word) (s : State), s.reaches w (legAddr n.val + LegReg.refresh.off) v.toNat ∧ s.legEnabled n.val =
      false) ∧
    (∃ (w : Who) (n : LegIx) (v : Word) (s : State), s.reaches w (legAddr n.val + LegReg.cfg.off) v.toNat ∧ s.legEnabled n.val = false) ∧
    (∃ (n : LegIx) (u : State) (s : State), u = catchLeg n.val s ∧ s.modeDrives n.val = true ∧ s.get (.edge .LEG_QN) n.val = 0 ∧ s.get
      (.edge .LEG_REF) n.val = 0 ∧ s.get (.edge .LEG_CMD) n.val ≠ 0 ∧ u.modeAt n.val (u.lookAt n.val) = .off ∧ u.placeEdge n.val (u.lookAt
      n.val) ≤ s.now) ∧
    (∃ (n : LegIx) (u : State) (s : State), u = catchLeg n.val s ∧ s.modeDrives n.val = true ∧ s.get (.edge .LEG_QN) n.val = 0 ∧ s.get
      (.edge .LEG_REF) n.val = 0 ∧ s.get (.edge .LEG_CMD) n.val ≠ 1 ∧ u.modeAt n.val (u.lookAt n.val) = .hi ∧ s.now < u.placeEdge n.val
      (u.lookAt n.val)) ∧
    (∃ (n : LegIx) (s : State), s.get (.edge .LEG_IN_HI) n.val = 0 ∧ s.get (.edge .LEG_IN_LO) n.val = 0) ∧
    (∃ (n : LegIx) (s : State), s.get (.edge .LEG_REF) n.val = 0 ∧ s.get (.edge .LEG_DUE) n.val = 1 ∧ s.get (.edge .LEG_IN_HI) n.val = 0 ∧
      s.get (.edge .LEG_DUE_AT) n.val ≤ s.now ∧ s.blocked n.val .hi = false ∧ (catchLeg n.val s).tooShort n.val .hi = false) ∧
    (∃ (n : LegIx) (s : State), s.get (.edge .LEG_REF) n.val = 0 ∧ s.get (.edge .LEG_DUE) n.val = 1 ∧ s.get (.edge .LEG_DUE_AT) n.val ≤
      s.now ∧ (catchLeg n.val s).tooShort n.val .hi = true) ∧
    (∃ (n : LegIx) (s : State), 17 ≤ s.get (.edge .LEG_STAT_IL_CNT) n.val) ∧
    (∃ (n : LegIx) (s : State), s.get (.edge .LEG_STAT_IL_CNT) n.val < 17) :=
⟨⟨.safety, 40, 3, .six, 0xFFFFFF, (st [((.saf .ISL_STAT_STATE), 7, 0, 0), ((.edge .OG_EN), 0, 0, 256)]), by decide, reaches_of
    (by decide), by decide⟩,
  ⟨.safety, 40, 0, (st [((.saf .ISL_STAT_STATE), 7, 0, 0)]), reaches_of (by decide), by decide⟩,
  ⟨.safety, 40, 0, (st [((.saf .ISL_STAT_STATE), 7, 0, 0)]), reaches_of (by decide), by decide⟩,
  ⟨.safety, 40, 0, (st [((.saf .ISL_STAT_STATE), 7, 0, 0)]), reaches_of (by decide), by decide⟩,
  ⟨.safety, 40, 0, (st [((.saf .ISL_STAT_STATE), 7, 0, 0)]), reaches_of (by decide), by decide⟩,
  ⟨40, (catchLeg 40 { (st [((.edge .OG_EN), 0, 0, 256), ((.edge .LEG_LIVE), 40, 0, 1), ((.grd .OG_LATCH), 0, 0, 0), ((.saf
    .ISL_STAT_STATE), 7, 0, 0), ((.edge .LEG_CMD), 40, 0, 1), ((.edge .LEG_IN_HI), 40, 0, 1), ((.edge .LEG_IL_HI), 40, 0, 1)]) with now :=
    8000 }), { (st [((.edge .OG_EN), 0, 0, 256), ((.edge .LEG_LIVE), 40, 0, 1), ((.grd .OG_LATCH), 0, 0, 0), ((.saf .ISL_STAT_STATE), 7,
    0, 0), ((.edge .LEG_CMD), 40, 0, 1), ((.edge .LEG_IN_HI), 40, 0, 1), ((.edge .LEG_IL_HI), 40, 0, 1)]) with now := 8000 }, rfl,
    by decide, by decide, by decide, by decide, by decide, by decide⟩,
  ⟨40, (catchLeg 40 { (st [((.edge .OG_EN), 0, 0, 256), ((.edge .LEG_LIVE), 40, 0, 1), ((.grd .OG_LATCH), 0, 0, 0), ((.saf
    .ISL_STAT_STATE), 7, 0, 0), ((.edge .LEG_CFG_MODE), 40, 0, 4), ((.edge .LEG_CMT), 40, 0, 3), ((.edge .LEG_CAUSE), 40, 0, 8000),
    ((.edge .LEG_CFG_CSRC), 40, 0, 7)]) with now := 8000 }), { (st [((.edge .OG_EN), 0, 0, 256), ((.edge .LEG_LIVE), 40, 0, 1), ((.grd
    .OG_LATCH), 0, 0, 0), ((.saf .ISL_STAT_STATE), 7, 0, 0), ((.edge .LEG_CFG_MODE), 40, 0, 4), ((.edge .LEG_CMT), 40, 0, 3), ((.edge
    .LEG_CAUSE), 40, 0, 8000), ((.edge .LEG_CFG_CSRC), 40, 0, 7)]) with now := 8000 }, rfl, by decide, by decide, by decide, by decide,
    by decide, by decide⟩,
  ⟨40, .reset, by decide, by decide⟩,
  ⟨40, { (st [((.edge .LEG_DUE), 40, 0, 1), ((.edge .LEG_DUE_AT), 40, 0, 5)]) with now := 8000 }, by decide, by decide, by decide,
    by decide, by decide, by decide⟩,
  ⟨40, { (st [((.edge .LEG_DUE), 40, 0, 1), ((.edge .LEG_A_MINP), 40, 0, 1), ((.edge .LEG_CFG_MODE), 40, 0, 1), ((.edge .LEG_A_DUTY), 40,
    0, 40000), ((.edge .DOM_A_PERIOD), 0, 0, 80000), ((.edge .LEG_CFG_ALIGN), 40, 0, 0), ((.edge .DOM_BASE), 0, 0, 6400)]) with now :=
    46399 }, by decide, by decide, by decide, by decide⟩,
  ⟨40, (st [((.edge .LEG_STAT_IL_CNT), (40 : LegIx).val, 0, 17)]), by decide⟩,
  ⟨40, .reset, by decide⟩⟩

/-- The hypotheses of each clause of `RefreshAndClock` can be met. -/
theorem test_RefreshAndClock_hypotheses :
    (∃ (n : LegIx) (s : State), s.get (.edge .LEG_REFRESH_BOOT_EN) n.val = 1 ∧ s.get (.edge .LEG_STAT_HI) n.val = 1 ∧ s.modeDrives n.val =
      true ∧ s.get (.edge .LEG_HI_SINCE) n.val + us (1000 * clampN 1 100 (s.get (.edge .LEG_REFRESH_INTERVAL) n.val)) ≤ s.now) ∧
    (∃ (n : LegIx) (s : State), s.get (.edge .LEG_REF) n.val = 2 ∧ s.get (.edge .LEG_LO_SINCE) n.val + 1600 * clampN 4 16 (s.get (.edge
      .LEG_REFRESH_PULSE) n.val) ≤ s.now ∧ s.modeDrives n.val = true) ∧
    (∃ (n : LegIx) (s : State), s.get (.edge .LEG_REFRESH_BOOT_EN) n.val = 1 ∧ s.get (.edge .LEG_STAT_HI) n.val = 1 ∧ s.modeDrives n.val =
      true) ∧
    (∃ (n : LegIx) (s : State), s.get (.edge .LEG_STAT_HI) n.val = 0) ∧
    (∃ (n : LegIx) (g : Nat) (s : State), s.get (.edge .LEG_REFRESH_BOOT_EN) n.val = 1 ∧ s.get (.edge .LEG_BUV) n.val = 1 ∧ s.get (.edge
      .LEG_BUV_STOOD) n.val ≠ 0 ∧ s.get (.edge .LEG_BUV_STOOD) n.val - 1 + us 10 ≤ s.now ∧ s.groupOf n.val = some g) ∧
    (∃ (w : Who) (v : Word) (s : State), s.reaches w (edgeBase + 0x08) v.toNat ∧ v.toNat.testBit 8 = true ∧ s.get (.edge .STAT_LOCK) = 1) ∧
    (∃ (w : Who) (v : Word) (s : State), s.reaches w (edgeBase + 0x08) v.toNat ∧ v.toNat.testBit 9 = false ∧ s.get (.edge .STAT_LOCK) = 0) :=
⟨⟨40, { (st [((.edge .OG_EN), 0, 0, 256), ((.edge .LEG_LIVE), 40, 0, 1), ((.grd .OG_LATCH), 0, 0, 0), ((.saf .ISL_STAT_STATE), 7, 0, 0),
    ((.edge .LEG_REFRESH_BOOT_EN), 40, 0, 1), ((.edge .LEG_STAT_HI), 40, 0, 1), ((.edge .LEG_HI_SINCE), 40, 0, 5), ((.edge
    .LEG_REFRESH_INTERVAL), 40, 0, 1)]) with now := 6400005 }, by decide, by decide, by decide, by decide⟩,
  ⟨40, { (st [((.edge .OG_EN), 0, 0, 256), ((.edge .LEG_LIVE), 40, 0, 1), ((.grd .OG_LATCH), 0, 0, 0), ((.saf .ISL_STAT_STATE), 7, 0, 0),
    ((.edge .LEG_REF), 40, 0, 2), ((.edge .LEG_LO_SINCE), 40, 0, 5), ((.edge .LEG_REFRESH_PULSE), 40, 0, 4)]) with now := 6405 },
    by decide, by decide, by decide⟩,
  ⟨40, (st [((.edge .LEG_REFRESH_BOOT_EN), (40 : LegIx).val, 0, 1), ((.edge .LEG_STAT_HI), (40 : LegIx).val, 0, 1), ((.grd .OG_LATCH), 0,
    0, 0), ((.edge .OG_EN), 0, 0, 256), ((.edge .LEG_LIVE), (40 : LegIx).val, 0, 1)]), by decide, by decide, by decide⟩,
  ⟨40, (st [((.edge .LEG_STAT_HI), (40 : LegIx).val, 0, 0)]), by decide⟩,
  ⟨40, 8, { (st [((.edge .LEG_REFRESH_BOOT_EN), 40, 0, 1), ((.edge .LEG_BUV), 40, 0, 1), ((.edge .LEG_BUV_STOOD), 40, 0, 6)]) with now :=
    64005 }, by decide, by decide, by decide, by decide, by decide⟩,
  ⟨.safety, 256, (st [((.saf .ISL_STAT_STATE), 7, 0, 0), ((.edge .STAT_LOCK), 0, 0, 1)]), reaches_of (by decide), by decide, by decide⟩,
  ⟨.safety, 0, (st [((.saf .ISL_STAT_STATE), 7, 0, 0), ((.edge .STAT_LOCK), 0, 0, 0)]), reaches_of (by decide), by decide, by decide⟩⟩

/-- The hypotheses of each clause of `Players` can be met. -/
theorem test_Players_hypotheses :
    (∃ (w : Who) (p : PlayerIx) (v : BitVec 24) (s : State), s.reaches w (edgeBase + 0x208 + 0x20 * p.val) v.toNat) ∧
    (∃ (p : PlayerIx) (s : State), s.get (.edge .TP_CFG_EN) p.val = 1 ∧ s.edgeClocked = true ∧ s.get (.edge .TP_NEW) p.val = 0 ∧ s.get
      (.edge .TP_STAT_PLAYING) p.val = 0 ∧ s.get (.edge .TP_PEND) p.val = 0) ∧
    (∃ (p : PlayerIx) (e : Nat) (s : State), s.get (.edge .TP_CFG_EN) p.val = 1 ∧ s.edgeClocked = true ∧ s.get (.edge .TP_STAT_PLAYING)
      p.val = 1 ∧ s.pattern p.val = [e] ∧ s.get (.edge .TP_NEXT) p.val = 0 ∧ s.get (.edge .TP_FN) p.val = 0 ∧ s.now % 8 = 0 ∧ (catchUp
      p.val s).sget (.edge .TP_GAP) p.val = 0 ∧ entMark e = false ∧ s.get (.edge .LEG_CFG_MODE) (entLeg e) = 2 ∧ s.get (.edge
      .LEG_CFG_PLAYER) (entLeg e) = p.val) ∧
    (∃ (p : PlayerIx) (e : Nat) (s : State), s.get (.edge .TP_CFG_EN) p.val = 1 ∧ s.edgeClocked = true ∧ s.get (.edge .TP_STAT_PLAYING)
      p.val = 1 ∧ s.pattern p.val = [e] ∧ s.get (.edge .TP_NEXT) p.val = 0 ∧ s.get (.edge .TP_FN) p.val = 0 ∧ (catchUp p.val s).sget
      (.edge .TP_GAP) p.val = 0 ∧ s.get (.edge .LEG_CFG_MODE) (entLeg e) ≠ 2) ∧
    (∃ (n : LegIx) (u : State) (s : State), u = catchLeg n.val s ∧ s.get (.edge .LEG_CFG_MODE) n.val = 3 ∧ s.modeDrives n.val = true ∧
      s.get (.edge .LEG_QN) n.val = 0 ∧ s.get (.edge .LEG_REF) n.val = 0 ∧ s.get (.edge .LEG_CMD) n.val ≠ 2 ∧ u.modeAt n.val (u.lookAt
      n.val) = .lo ∧ u.placeEdge n.val (u.lookAt n.val) ≤ s.now ∧ s.get (.edge .LEG_IN_LO) n.val = 1) ∧
    (∃ (b : Fin 3) (v : BitVec 3) (s : State), s.get (.saf .ISL_STAT_STATE) 11 = 0 ∧ s.edgeClocked = true ∧ s.get (.act .BR_STAT_HALL)
      b.val = v.toNat) ∧
    (∃ (b : Fin 3) (v : BitVec 3) (s : State), s.get (.act .BR_STAT_HALL) b.val ≠ v.toNat) :=
⟨⟨.safety, 3, 0, (st [((.saf .ISL_STAT_STATE), 7, 0, 0)]), reaches_of (by decide)⟩,
  ⟨3, { (st [((.saf .ISL_STAT_STATE), 7, 0, 0), ((.edge .TP_CFG_EN), 3, 0, 1), ((.edge .TP_A_RATE), 3, 0, 7), ((.edge .TP_AT), 3, 0, 2)])
    with now := 800 }, by decide, by decide, by decide, by decide, by decide⟩,
  ⟨3, 0x43F000000, (stm [((.saf .ISL_STAT_STATE), 7, 0, 0), ((.edge .TP_CFG_EN), 3, 0, 1), ((.edge .TP_STAT_PLAYING), 3, 0, 1), ((.edge
    .LEG_CFG_MODE), 31, 0, 2), ((.edge .LEG_CFG_PLAYER), 31, 0, 3)] [(69810192384, 18236833792, 8)]), by decide, by decide, by decide,
    by decide, by decide, by decide, by decide, by decide, by decide, by decide, by decide⟩,
  ⟨3, 0x43F000000, (stm [((.saf .ISL_STAT_STATE), 7, 0, 0), ((.edge .TP_CFG_EN), 3, 0, 1), ((.edge .TP_STAT_PLAYING), 3, 0, 1)]
    [(69810192384, 18236833792, 8)]), by decide, by decide, by decide, by decide, by decide, by decide, by decide, by decide⟩,
  ⟨40, (catchLeg 40 { (st [((.edge .OG_EN), 0, 0, 256), ((.edge .LEG_LIVE), 40, 0, 1), ((.grd .OG_LATCH), 0, 0, 0), ((.edge
    .LEG_CFG_MODE), 40, 0, 3), ((.edge .LEG_IN_LO), 40, 0, 1), ((.edge .TP_THETA), 0, 0, 549755813888), ((.edge .LEG_CMD), 40, 0, 1)])
    with now := 8000 }), { (st [((.edge .OG_EN), 0, 0, 256), ((.edge .LEG_LIVE), 40, 0, 1), ((.grd .OG_LATCH), 0, 0, 0), ((.edge
    .LEG_CFG_MODE), 40, 0, 3), ((.edge .LEG_IN_LO), 40, 0, 1), ((.edge .TP_THETA), 0, 0, 549755813888), ((.edge .LEG_CMD), 40, 0, 1)])
    with now := 8000 }, rfl, by decide, by decide, by decide, by decide, by decide, by decide, by decide, by decide⟩,
  ⟨2, 5, (st [((.saf .ISL_STAT_STATE), 7, 0, 0), ((.saf .ISL_STAT_STATE), 11, 0, 0), ((.act .BR_STAT_HALL), 2, 0, 5)]), by decide,
    by decide, by decide⟩,
  ⟨2, 5, .reset, by decide⟩⟩

/-- The hypotheses of each clause of `GuardInputs` can be met. -/
theorem test_GuardInputs_hypotheses :
    (∃ (i : Fin 8) (ns : BitVec 32) (s : State), 6 * s.gfiFilt i.val < 5 * ns.toNat ∧ s.get (.grd .GFI_CFG_EN) i.val = 1) ∧
    (∃ (i : Fin 8) (ns : BitVec 32) (s : State), 5 * ns.toNat < 4 * s.gfiFilt i.val) ∧
    (∃ (i : Fin 8) (ns : BitVec 32) (s : State), 5 * ns.toNat < 4 * s.gfiFilt i.val ∧ 10 < ns.toNat) ∧
    (∃ (c : Fin 16) (v : BitVec 10) (s : State), s.get (.grd .WC_CFG_THR_HI) c.val < v.toNat ∧ s.get (.grd .WC_CFG_EN_HI) c.val = 1 ∧
      s.get (.grd .SRC_ACT) (8 + c.val) = 0) ∧
    (∃ (c : Fin 16) (v : BitVec 10) (s : State), s.get (.grd .WC_CFG_THR_LO) c.val ≤ v.toNat ∧ v.toNat ≤ s.get (.grd .WC_CFG_THR_HI) c.val
      ∧ s.get (.grd .WC_HIGH) c.val = 0 ∧ s.get (.grd .WC_LOW) c.val = 0) ∧
    (∃ (m : Fin 8) (n : BitVec 12) (s : State), s.get (.grd .STAT_MON_RUN) = 1 ∧ s.cmMasked m.val = false ∧ (n.toNat < s.get (.grd
      .CM_CFG_LO) m.val ∨ s.get (.grd .CM_CFG_HI) m.val < n.toNat)) ∧
    (∃ (m : Fin 8) (n : BitVec 12) (s : State), s.get (.grd .STAT_MON_RUN) = 1 ∧ s.cmMasked m.val = true) :=
⟨⟨7, 61, (st [((.grd .GFI_CFG_EN), (7 : Fin 8).val, 0, 1)]), by decide, by decide⟩,
  ⟨7, 0, .reset, by decide⟩,
  ⟨7, 39, .reset, by decide, by decide⟩,
  ⟨15, 1023, (st [((.grd .WC_CFG_EN_HI), (15 : Fin 16).val, 0, 1), ((.grd .SRC_ACT), (8 + (15 : Fin 16).val), 0, 0), ((.grd
    .WC_CFG_THR_HI), (15 : Fin 16).val, 0, 1022)]), by decide, by decide, by decide⟩,
  ⟨15, 0, (st [((.grd .WC_HIGH), (15 : Fin 16).val, 0, 0), ((.grd .WC_LOW), (15 : Fin 16).val, 0, 0)]), by decide, by decide, by decide,
    by decide⟩,
  ⟨7, 0, (st [((.grd .STAT_MON_RUN), 0, 0, 1), ((.saf .ISL_STAT_STATE), 1, 0, 0)]), by decide, by decide, by decide⟩,
  ⟨7, 0, (st [((.grd .STAT_MON_RUN), 0, 0, 1)]), by decide, by decide⟩⟩

/-- The hypotheses of each clause of `SourceAndLegLatches` can be met. -/
theorem test_SourceAndLegLatches_hypotheses :
    (∃ (src : Fin 77) (s : State), s.mayDeassert src.val = true) ∧
    (∃ (src : Fin 77) (s : State), s.mayDeassert src.val = false) ∧
    (∃ (w : Who) (k : Fin 3) (m : Word) (s : State), s.reaches w (grdBase + 0x10 + 4 * k.val) m.toNat) ∧
    (∃ (w : Who) (m : Word) (s : State), s.reaches w (grdBase + 0x90) m.toNat) ∧
    (∃ (w : Who) (m : BitVec 9) (s : State), s.reaches w (grdBase + 0x98) m.toNat) :=
⟨⟨76, (st [((.grd .CM_COUNT), 7, 0, 420)]), by decide⟩,
  ⟨76, .reset, by decide⟩,
  ⟨.safety, 2, 0, (st [((.saf .ISL_STAT_STATE), 8, 0, 0)]), reaches_of (by decide)⟩,
  ⟨.safety, 0, (st [((.saf .ISL_STAT_STATE), 8, 0, 0)]), reaches_of (by decide)⟩,
  ⟨.safety, 0, (st [((.saf .ISL_STAT_STATE), 8, 0, 0)]), reaches_of (by decide)⟩⟩

/-- The hypotheses of each clause of `GroupLatches` can be met. -/
theorem test_GroupLatches_hypotheses :
    (∃ (m : BitVec 16) (s : State), s.reaches .safety (grdBase + 0x8C) m.toNat) ∧
    (∃ (w : Who) (m : BitVec 16) (s : State), w ≠ .safety ∧ s.reaches w (grdBase + 0x8C) m.toNat ∧ m.toNat ≠ s.get (.grd .SAF_FORCE)) ∧
    (∃ (w : Who) (m : BitVec 16) (s : State), s.reaches w (grdBase + 0x80) m.toNat ∧ s.get (.saf .LOCK_LOCK) = 0) ∧
    (∃ (w : Who) (m : BitVec 16) (s : State), s.reaches w (grdBase + 0x80) m.toNat ∧ s.get (.saf .LOCK_LOCK) = 1) ∧
    (∃ (m : BitVec 16) (s : State), s.reaches .safety (grdBase + 0x88) m.toNat) ∧
    (∃ (g : GroupIx) (n : Nat) (s : State), n ∈ s.legsOf g.val ∧ s.get (.edge .LEG_STAT_FORCED) n = 0 ∧ s.get (.saf .EXTEST) = 0 ∧ s.get
      (.saf .ISL_STAT_STATE) 7 = 0 ∧ s.get (.edge .LEG_SAFE_DUE) n = 1 ∧ max (s.get (.edge .LEG_SAFE_AT) n) (s.get (.edge .LEG_TOFF_LO) n)
      + 640 * (s.get (.grd .OG_CFG_SDT_CODE) g.val + 1) ≤ s.now) :=
⟨⟨0, (st [((.saf .ISL_STAT_STATE), 8, 0, 0)]), reaches_of (by decide)⟩,
  ⟨.ifc, 1, (st [((.saf .ISL_STAT_STATE), 8, 0, 0)]), by decide, reaches_of (by decide), by decide⟩,
  ⟨.safety, 0, (st [((.saf .ISL_STAT_STATE), 8, 0, 0), ((.saf .LOCK_LOCK), 0, 0, 0)]), reaches_of (by decide), by decide⟩,
  ⟨.safety, 0, (st [((.saf .ISL_STAT_STATE), 8, 0, 0), ((.saf .LOCK_LOCK), 0, 0, 1)]), reaches_of (by decide), by decide⟩,
  ⟨0, (st [((.saf .ISL_STAT_STATE), 8, 0, 0)]), reaches_of (by decide)⟩,
  ⟨8, 40, { (st [((.edge .LEG_STAT_FORCED), 40, 0, 0), ((.saf .EXTEST), 0, 0, 0), ((.edge .LEG_SAFE_DUE), 40, 0, 1), ((.saf
    .ISL_STAT_STATE), 7, 0, 0)]) with now := 640000 }, by decide, by decide, by decide, by decide, by decide, by decide⟩⟩

/-- The hypotheses of each clause of `SafetyReactions` can be met. -/
theorem test_SafetyReactions_hypotheses :
    (∃ (dev : BitVec 16) (s : State), s.get (.saf .ISL_STAT_STATE) 0 = 0 ∧ dev.toNat ≤ 100) ∧
    (∃ (stopped : Bool) (dev : BitVec 16) (s : State), s.get (.saf .ISL_STAT_STATE) 0 = 0 ∧ s.settled ∧ (stopped = true ∨ 100 <
      dev.toNat)) ∧
    (∃ (g : GroupIx) (why : Fin 3) (s : State), s.safHeld = false ∧ s.reactCause g.val why.val = true) ∧
    (∃ (g : GroupIx) (why : Fin 3) (s : State), s.reactCause g.val why.val = false) ∧
    (∃ (g : GroupIx) (s : State), s.forceCausesGone g.val = true ∧ s.get (.saf .FORCE_CAUSE) g.val < 8) ∧
    (∃ (g : GroupIx) (s : State), s.safHeld = false ∧ s.bit (.grd .OG_LATCH) g.val = true ∧ s.holdCause g.val = true ∧ s.settled) ∧
    (∃ (g : GroupIx) (s : State), s.safHeld = false ∧ s.bit (.grd .OG_LATCH) g.val = true ∧ s.holdCause g.val = false) ∧
    (∃ (m : Half) (s : State), s.safHeld = false ∧ s.get (.saf .LOCK_LOCK) = 1 ∧ s.windowPurpose false = true ∧ s.get (.saf
      .AXLE_MODE_MODE) ∈ [0, 1, 5] ∧ s.heldOff m.toNat = true) ∧
    (∃ (act : Bool) (m : Half) (s : State), s.get (.saf .AXLE_MODE_MODE) ∉ [0, 1, 5]) ∧
    (∃ (s : State), s.get (.saf .LOCK_WINDOW) = 1) ∧
    (∃ (s : State), s.get (.saf .LOCK_WINDOW) = 1 ∧ s.settled) ∧
    (∃ (s : State), s.get (.saf .LOCK_WINDOW) = 1 ∧ s.settled) :=
⟨⟨0, (st [((.saf .ISL_STAT_STATE), 0, 0, 0)]), by decide, by decide⟩,
  ⟨true, 0, (st [((.saf .ISL_STAT_STATE), 0, 0, 0)]), by decide, ⟨by decide, by decide⟩, by decide⟩,
  ⟨8, 1, (st [((.act .BR_STAT_OC_LATCH), 2, 0, 1)]), by decide, by decide⟩,
  ⟨15, 2, .reset, by decide⟩,
  ⟨15, .reset, by decide, by decide⟩,
  ⟨15, (st [((.grd .OG_LATCH), 0, 0, 2 ^ (15 : GroupIx).val), ((.grd .OG_STAT_CAUSE), (15 : GroupIx).val, 0, 0)]), by decide, by decide,
    by decide, ⟨by decide, by decide⟩⟩,
  ⟨15, (st [((.grd .OG_LATCH), 0, 0, 2 ^ (15 : GroupIx).val)]), by decide, by decide, by decide⟩,
  ⟨0, (st [((.saf .LOCK_LOCK), 0, 0, 1), ((.saf .AXLE_MODE_MODE), 0, 0, 0), ((.host .SES_ID), 3, 0, 1), ((.host .SES_ROLE), 3, 0, 2)]),
    by decide, by decide, by decide, by decide, by decide⟩,
  ⟨true, 0, (st [((.saf .AXLE_MODE_MODE), 0, 0, 2)]), by decide⟩,
  ⟨(st [((.saf .LOCK_WINDOW), 0, 0, 1)]), by decide⟩,
  ⟨(st [((.saf .LOCK_WINDOW), 0, 0, 1)]), by decide, ⟨by decide, by decide⟩⟩,
  ⟨(st [((.saf .LOCK_WINDOW), 0, 0, 1)]), by decide, ⟨by decide, by decide⟩⟩⟩

/-- The hypotheses of each clause of `LinkUp` can be met. -/
theorem test_LinkUp_hypotheses :
    (∃ (n : LinkIx) (s : State), s.edgeClocked = true ∧ s.get (.edge .FL_STAT_HB_OK) n.val = 0 ∧ s.get (.edge .FL_STAT_LSTATE) n.val = 0 ∧
      s.get (.edge .FL_CFG_AUTO) n.val = 1) ∧
    (∃ (n : LinkIx) (s : State), s.edgeClocked = true ∧ s.laneFree n.val = true ∧ s.get (.edge .FL_HB_SINCE) n.val + us 10 ≤ s.now ∧ s.get
      (.edge .FL_STAT_LSTATE) n.val = 1 ∧ s.get (.edge .FL_STAT_HB_OK) n.val = 1) ∧
    (∃ (n : LinkIx) (c : BitVec 128) (s : State), s.edgeClocked = true ∧ s.get (.edge .FL_STAT_LSTATE) n.val = 2 ∧ s.get (.edge .FL_AWAIT)
      n.val = 1 ∧ s.settle n.val (bits c.toNat 0 8) (bits c.toNat 8 8) (bits c.toNat 16 8) = none) ∧
    (∃ (n : LinkIx) (c : BitVec 128) (rate : Nat) (mode : Nat) (s : State), s.edgeClocked = true ∧ s.get (.edge .FL_STAT_LSTATE) n.val = 2
      ∧ s.get (.edge .FL_AWAIT) n.val = 1 ∧ s.settle n.val (bits c.toNat 0 8) (bits c.toNat 8 8) (bits c.toNat 16 8) = some (rate, mode)) ∧
    (∃ (n : LinkIx) (e : Word) (s : State), s.edgeClocked = true ∧ s.get (.edge .FL_QN) n.val = 0 ∧ s.get (.edge .FL_AWAIT) n.val = 2 ∧
      e.toNat = s.settlePay n.val ∧ s.get (.edge .FL_S_RATE) n.val ≠ s.get (.edge .FL_CUR_RATE) n.val) ∧
    (∃ (n : LinkIx) (e : Word) (s : State), s.edgeClocked = true ∧ s.get (.edge .FL_QN) n.val = 0 ∧ s.get (.edge .FL_AWAIT) n.val = 3 ∧
      s.get (.edge .FL_STAT_LSTATE) n.val = 4 ∧ s.get (.edge .FL_STAT_MODE) n.val = 1) ∧
    (∃ (n : LinkIx) (s : State), s.edgeClocked = true ∧ s.get (.edge .FL_W_AT) n.val + 16 * laneChar (s.get (.edge .FL_CUR_RATE) n.val) ≤
      s.now ∧ s.get (.edge .FL_SILENCE) n.val = 1) :=
⟨⟨31, { (st [((.saf .ISL_STAT_STATE), 7, 0, 0), ((.edge .FL_CFG_AUTO), 31, 0, 1)]) with now := 1000 }, by decide, by decide, by decide,
    by decide⟩,
  ⟨31, { (st [((.saf .ISL_STAT_STATE), 7, 0, 0), ((.edge .FL_STAT_LSTATE), 31, 0, 1), ((.edge .FL_STAT_HB_OK), 31, 0, 1)]) with now :=
    64000 }, by decide, by decide, by decide, by decide, by decide⟩,
  ⟨31, 0, (st [((.saf .ISL_STAT_STATE), 7, 0, 0), ((.edge .FL_STAT_LSTATE), 31, 0, 2), ((.edge .FL_AWAIT), 31, 0, 1)]), by decide,
    by decide, by decide, by decide⟩,
  ⟨31, 0x010101, 0, 1, (st [((.saf .ISL_STAT_STATE), 7, 0, 0), ((.edge .FL_STAT_LSTATE), 31, 0, 2), ((.edge .FL_AWAIT), 31, 0, 1)]),
    by decide, by decide, by decide, by decide⟩,
  ⟨31, 1, { (st [((.saf .ISL_STAT_STATE), 7, 0, 0), ((.edge .FL_AWAIT), 31, 0, 2), ((.edge .FL_S_RATE), 31, 0, 1)]) with now := 77 },
    by decide, by decide, by decide, by decide, by decide⟩,
  ⟨31, 0, { (st [((.saf .ISL_STAT_STATE), 7, 0, 0), ((.edge .FL_AWAIT), 31, 0, 3), ((.edge .FL_STAT_LSTATE), 31, 0, 4), ((.edge
    .FL_STAT_MODE), 31, 0, 1)]) with now := 77 }, by decide, by decide, by decide, by decide, by decide⟩,
  ⟨31, { (st [((.saf .ISL_STAT_STATE), 7, 0, 0), ((.edge .FL_SILENCE), 31, 0, 1), ((.edge .FL_S_RATE), 31, 0, 2)]) with now := 81920 },
    by decide, by decide, by decide⟩⟩

/-- The hypotheses of each clause of `LinkErrors` can be met. -/
theorem test_LinkErrors_hypotheses :
    (∃ (n : LinkIx) (pos : Bool) (s : State), s.get (.edge .FL_STAT_HB_OK) n.val = 1 ∧ s.get (.edge .FL_HB_AT) n.val + 1920 ≤ s.now ∧
      s.get (.saf .ISL_STAT_STATE) 7 = 0) ∧
    (∃ (n : LinkIx) (c : BitVec 8) (s : State), s.edgeClocked = true ∧ s.get (.edge .FL_AWAIT) n.val = 2) ∧
    (∃ (n : LinkIx) (s : State), s.replyAbsent n.val = true ∧ s.edgeClocked = true ∧ s.get (.edge .FL_AWAIT) n.val ≠ 0 ∧ s.get (.edge
      .FL_RETRY) n.val < 2) ∧
    (∃ (n : LinkIx) (s : State), s.replyAbsent n.val = true ∧ s.edgeClocked = true ∧ s.get (.edge .FL_AWAIT) n.val ≠ 0 ∧ s.get (.edge
      .FL_RETRY) n.val = 2 ∧ s.get (.edge .FL_STAT_LSTATE) n.val = 5) ∧
    (∃ (n : LinkIx) (s : State), s.get (.edge .FL_W_AT) n.val + us 100 ≤ s.now ∧ s.edgeClocked = true ∧ s.get (.edge .FL_RWAIT) n.val = 1) ∧
    (∃ (n : LinkIx) (s : State), s.get (.edge .FL_W_AT) n.val + us 10000 ≤ s.now ∧ s.edgeClocked = true ∧ s.get (.edge .FL_STAT_LSTATE)
      n.val = 8) ∧
    (∃ (n : LinkIx) (s : State), s.edgeClocked = true) ∧
    (∃ (n : LinkIx) (s : State), s.edgeClocked = true) ∧
    (∃ (n : LinkIx) (c : BitVec 8) (s : State), s.get (.edge .FL_QN) n.val = 0 ∧ s.edgeClocked = true ∧ s.get (.edge .FL_AWAIT) n.val = 9) :=
⟨⟨31, true, { (st [((.saf .ISL_STAT_STATE), 7, 0, 0), ((.edge .FL_STAT_HB_OK), 31, 0, 1)]) with now := 1920 }, by decide, by decide,
    by decide⟩,
  ⟨31, 0, (st [((.saf .ISL_STAT_STATE), 7, 0, 0), ((.edge .FL_AWAIT), 31, 0, 2)]), by decide, by decide⟩,
  ⟨31, { (st [((.saf .ISL_STAT_STATE), 7, 0, 0), ((.edge .FL_AWAIT), 31, 0, 1)]) with now := 81920 }, by decide, by decide, by decide,
    by decide⟩,
  ⟨31, { (st [((.saf .ISL_STAT_STATE), 7, 0, 0), ((.edge .FL_AWAIT), 31, 0, 1), ((.edge .FL_RETRY), 31, 0, 2), ((.edge .FL_STAT_LSTATE),
    31, 0, 5)]) with now := 81920 }, by decide, by decide, by decide, by decide, by decide⟩,
  ⟨31, { (st [((.saf .ISL_STAT_STATE), 7, 0, 0), ((.edge .FL_RWAIT), 31, 0, 1)]) with now := 640000 }, by decide, by decide, by decide⟩,
  ⟨31, { (st [((.saf .ISL_STAT_STATE), 7, 0, 0), ((.edge .FL_STAT_LSTATE), 31, 0, 8)]) with now := 64000000 }, by decide, by decide,
    by decide⟩,
  ⟨31, (st [((.saf .ISL_STAT_STATE), 7, 0, 0)]), by decide⟩,
  ⟨31, (st [((.saf .ISL_STAT_STATE), 7, 0, 0)]), by decide⟩,
  ⟨31, 0, (st [((.saf .ISL_STAT_STATE), 7, 0, 0), ((.edge .FL_AWAIT), 31, 0, 9)]), by decide, by decide, by decide⟩⟩

/-- The hypotheses of each clause of `LinkData` can be met. -/
theorem test_LinkData_hypotheses :
    (∃ (n : LinkIx) (v : BitVec 96) (s : State), s.get (.edge .FL_QN) n.val = 0 ∧ s.edgeClocked = true ∧ s.get (.edge .FL_AWAIT) n.val = 6
      ∧ s.get (.edge .FL_STAT_LSTATE) n.val = 5) ∧
    (∃ (n : LinkIx) (s : State), s.laneFree n.val = true ∧ s.get (.edge .FL_POLL_AT) n.val + us (s.get (.edge .FL_POLL)) ≤ s.now ∧
      s.edgeClocked = true ∧ s.get (.edge .FL_STAT_LSTATE) n.val = 5 ∧ s.get (.edge .FL_POLL) ≠ 0) ∧
    (∃ (n : LinkIx) (v : BitVec 8) (s : State), s.edgeClocked = true ∧ bits (s.get (.edge .FL_CAP) n.val 1) 8 1 = 0) ∧
    (∃ (n : LinkIx) (v : BitVec 8) (s : State), s.edgeClocked = true ∧ bits (s.get (.edge .FL_CAP) n.val 1) 8 1 = 1 ∧ v.toNat.testBit 0 =
      false) ∧
    (∃ (n : LinkIx) (a : BitVec 8) (b : BitVec 8) (c : BitVec 8) (s : State), s.get (.edge .FL_QN) n.val = 0 ∧ s.edgeClocked = true ∧
      s.get (.edge .FL_STAT_LSTATE) n.val = 6 ∧ s.get (.edge .FL_AWAIT) n.val = 8) ∧
    (∃ (n : LinkIx) (s : State), s.laneFree n.val = true ∧ s.get (.edge .FL_DIAG_AT) n.val + us 100 ≤ s.now ∧ s.edgeClocked = true ∧ s.get
      (.edge .FL_STAT_LSTATE) n.val = 6) ∧
    (∃ (w : Who) (n : LinkIx) (s : State), s.reaches w (linkAddr n.val + 4) 1 ∧ s.legEnabled n.val = true) ∧
    (∃ (w : Who) (n : LinkIx) (s : State), s.reaches w (linkAddr n.val + 4) 1 ∧ s.legEnabled n.val = false) ∧
    (∃ (w : Who) (n : LinkIx) (s : State), s.laneFree n.val = true ∧ s.reaches w (linkAddr n.val + 4) 2) ∧
    (∃ (w : Who) (n : LinkIx) (s : State), s.reaches w (linkAddr n.val + 4) 2 ∧ s.laneFree n.val = false) ∧
    (∃ (w : Who) (n : LinkIx) (s : State), s.laneFree n.val = true ∧ s.reaches w (linkAddr n.val + 4) 4 ∧ s.get (.edge .FL_STAT_LSTATE)
      n.val = 5 ∧ s.legEnabled n.val = false ∧ s.get (.edge .LEG_STAT_HI) n.val = 0 ∧ s.get (.edge .LEG_STAT_LO) n.val = 0) ∧
    (∃ (w : Who) (n : LinkIx) (s : State), s.reaches w (linkAddr n.val + 4) 4 ∧ s.get (.edge .FL_STAT_LSTATE) n.val ≠ 5) ∧
    (∃ (w : Who) (n : LinkIx) (s : State), s.laneFree n.val = true ∧ s.reaches w (linkAddr n.val + 4) 8 ∧ s.get (.edge .FL_STAT_LSTATE)
      n.val ∈ [5, 6]) ∧
    (∃ (w : Who) (n : LinkIx) (k : Fin 4) (v : Word) (s : State), s.reaches w (linkAddr n.val + 0x20 + 4 * k.val) v.toNat ∧ s.legEnabled
      n.val = false ∧ s.get (.edge .FL_STAT_LSTATE) n.val ≠ 5) ∧
    (∃ (w : Who) (n : LinkIx) (k : Fin 4) (v : Word) (s : State), s.reaches w (linkAddr n.val + 0x20 + 4 * k.val) v.toNat ∧ s.legEnabled
      n.val = true) :=
⟨⟨31, 0, (st [((.saf .ISL_STAT_STATE), 7, 0, 0), ((.edge .FL_AWAIT), 31, 0, 6), ((.edge .FL_STAT_LSTATE), 31, 0, 5)]), by decide,
    by decide, by decide, by decide⟩,
  ⟨31, { (st [((.saf .ISL_STAT_STATE), 7, 0, 0), ((.edge .FL_STAT_LSTATE), 31, 0, 5), ((.edge .FL_POLL), 0, 0, 1)]) with now := 6400 },
    by decide, by decide, by decide, by decide, by decide⟩,
  ⟨31, 0, (st [((.saf .ISL_STAT_STATE), 7, 0, 0)]), by decide, by decide⟩,
  ⟨31, 0, (st [((.saf .ISL_STAT_STATE), 7, 0, 0), ((.edge .FL_CAP), 31, 1, 256)]), by decide, by decide, by decide⟩,
  ⟨31, 1, 2, 3, (st [((.saf .ISL_STAT_STATE), 7, 0, 0), ((.edge .FL_STAT_LSTATE), 31, 0, 6), ((.edge .FL_AWAIT), 31, 0, 8)]), by decide,
    by decide, by decide, by decide⟩,
  ⟨31, { (st [((.saf .ISL_STAT_STATE), 7, 0, 0), ((.edge .FL_STAT_LSTATE), 31, 0, 6)]) with now := 640000 }, by decide, by decide,
    by decide, by decide⟩,
  ⟨.safety, 28, (st [((.saf .ISL_STAT_STATE), 7, 0, 0), ((.edge .OG_EN), 0, 0, 32)]), reaches_of (by decide), by decide⟩,
  ⟨.safety, 31, (st [((.saf .ISL_STAT_STATE), 7, 0, 0)]), reaches_of (by decide), by decide⟩,
  ⟨.safety, 31, (st [((.saf .ISL_STAT_STATE), 7, 0, 0)]), by decide, reaches_of (by decide)⟩,
  ⟨.safety, 31, (st [((.saf .ISL_STAT_STATE), 7, 0, 0), ((.edge .FL_AWAIT), 31, 0, 6)]), reaches_of (by decide), by decide⟩,
  ⟨.safety, 31, (st [((.saf .ISL_STAT_STATE), 7, 0, 0), ((.edge .FL_STAT_LSTATE), 31, 0, 5)]), by decide, reaches_of (by decide),
    by decide, by decide, by decide, by decide⟩,
  ⟨.safety, 31, (st [((.saf .ISL_STAT_STATE), 7, 0, 0)]), reaches_of (by decide), by decide⟩,
  ⟨.safety, 31, (st [((.saf .ISL_STAT_STATE), 7, 0, 0), ((.edge .FL_STAT_LSTATE), 31, 0, 5)]), by decide, reaches_of (by decide),
    by decide⟩,
  ⟨.safety, 31, 3, 0, (st [((.saf .ISL_STAT_STATE), 7, 0, 0)]), reaches_of (by decide), by decide, by decide⟩,
  ⟨.safety, 28, 3, 0, (st [((.saf .ISL_STAT_STATE), 7, 0, 0), ((.edge .OG_EN), 0, 0, 32)]), reaches_of (by decide), by decide⟩⟩

/-- The hypotheses of each clause of `ModulatorClocks` can be met. -/
theorem test_ModulatorClocks_hypotheses :
    (∃ (w : Who) (k : Fin 4) (v : Word) (s : State), s.reaches w (snsBase + 0x10 + 4 * k.val) v.toNat ∧ v.toNat % 4 ≠ s.get (.sns
      .SDCLK_FREQ) k.val ∧ (List.range 24).any (fun c => s.flag (.sns .SD_CFG_EN) c && s.get (.sns .SD_CFG_CLKSEL) c == k.val) = true) ∧
    (∃ (w : Who) (k : Fin 4) (v : Word) (s : State), s.reaches w (snsBase + 0x10 + 4 * k.val) v.toNat ∧ (List.range 24).any (fun c =>
      s.flag (.sns .SD_CFG_EN) c && s.get (.sns .SD_CFG_CLKSEL) c == k.val) = false) :=
⟨⟨.safety, 3, 1, (st [((.saf .ISL_STAT_STATE), 9, 0, 0), ((.sns .SD_CFG_EN), 23, 0, 1)]), reaches_of (by decide), by decide, by decide⟩,
  ⟨.safety, 3, 0, (st [((.saf .ISL_STAT_STATE), 9, 0, 0)]), reaches_of (by decide), by decide⟩⟩

/-- The hypotheses of each clause of `SigmaDelta` can be met. -/
theorem test_SigmaDelta_hypotheses :
    (∃ (w : Who) (c : Fin 24) (v : Word) (s : State), s.reaches w (sdAddr c.val) v.toNat ∧ s.get (.sns .SD_CFG_EN) c.val = 1 ∧ (storeWord
      w (sdAddr c.val) v.toNat s).get (.sns .SD_CFG_DEC) c.val ≠ s.get (.sns .SD_CFG_DEC) c.val) ∧
    (∃ (w : Who) (c : Fin 24) (v : Word) (u : State) (s : State), s.reaches w (sdAddr c.val) v.toNat ∧ s.get (.sns .SD_CFG_EN) c.val = 0 ∧
      u = storeWord w (sdAddr c.val) v.toNat s ∧ u.get (.sns .SD_CFG_EN) c.val = 1 ∧ u.get (.sns .SD_CFG_TRIP_EN) c.val = 1 ∧ u.tripOk
      (u.get (.sns .SD_CFG_CLKSEL) c.val) (u.get (.sns .SD_CFG_TLEN) c.val) (u.get (.sns .SD_CFG_TCNTM1) c.val + 1) = false) ∧
    (∃ (w : Who) (c : Fin 24) (v : Word) (u : State) (s : State), s.reaches w (sdAddr c.val) v.toNat ∧ s.get (.sns .SD_CFG_EN) c.val = 0 ∧
      u = storeWord w (sdAddr c.val) v.toNat s ∧ u.get (.sns .SD_CFG_EN) c.val = 1 ∧ u.get (.sns .SD_CFG_TRIP_EN) c.val = 0) ∧
    (∃ (c : Fin 24) (x : Bool × Bool) (b : Bool) (s : State), s.get (.sns .SD_CFG_EN) c.val = 1 ∧ s.senseClocked = true ∧ s.sdEdges c.val
      s.now = s.sdEdges c.val (s.get (.sns .SD_AT) c.val) + 1 ∧ b = (if s.flag (.sns .SD_CFG_EDGE) c.val then x.2 else x.1) ∧ s.get (.sns
      .SD_STAT_STUCK) c.val = 0 ∧ s.get (.sns .SD_SAME) c.val < 63 ∧ s.get (.sns .SD_NB) c.val < 2 ^ 32 - 1 ∧ 3 * (s.sdR c.val - 1) ≤
      s.get (.sns .SD_NB) c.val) ∧
    (∃ (c : Fin 24) (x : Bool × Bool) (b : Bool) (s : State), s.get (.sns .SD_CFG_EN) c.val = 1 ∧ s.senseClocked = true ∧ s.sdEdges c.val
      s.now = s.sdEdges c.val (s.get (.sns .SD_AT) c.val) + 1 ∧ b = (if s.flag (.sns .SD_CFG_EDGE) c.val then x.2 else x.1) ∧ s.sdLive
      c.val = true ∧ s.get (.sns .SD_SAME) c.val < 63 ∧ s.get (.sns .SD_CFG_SYNC) c.val = 0 ∧ s.get (.sns .SD_K) c.val < 65535 ∧ s.sdR
      c.val ≤ s.get (.sns .SD_K) c.val + 1) ∧
    (∃ (c : Fin 24) (s : State), s.get (.sns .SD_PROC) c.val = 1 ∧ s.sdLive c.val = true ∧ s.get (.sns .SD_WAIT) c.val = 0) ∧
    (∃ (c : Fin 24) (x : Bool × Bool) (b : Bool) (u : State) (s : State), s.get (.sns .SD_CFG_EN) c.val = 1 ∧ s.senseClocked = true ∧
      s.sdEdges c.val s.now = s.sdEdges c.val (s.get (.sns .SD_AT) c.val) + 1 ∧ b = (if s.flag (.sns .SD_CFG_EDGE) c.val then x.2 else
      x.1) ∧ u = s.set (.sns .SD_BITS) (2 * s.get (.sns .SD_BITS) c.val + b.toNat) c.val ∧ s.get (.sns .SD_CFG_TRIP_EN) c.val = 1 ∧ s.get
      (.sns .SD_NB) c.val < 2 ^ 32 - 1 ∧ 2 * s.sdL c.val - 2 ≤ s.get (.sns .SD_NB) c.val ∧ (s.sget (.sns .SD_TRIP_THR_HI) c.val <
      u.tripValue c.val ∨ u.tripValue c.val < s.sget (.sns .SD_TRIP_THR_LO) c.val) ∧ s.get (.sns .SD_CFG_TCNTM1) c.val ≤ s.get (.sns
      .SD_OUTN) c.val ∧ s.get (.sns .SD_OUTN) c.val < 65535 ∧ s.get (.sns .SD_STAT_TRIP) c.val = 0) ∧
    (∃ (c : Fin 24) (x : Bool × Bool) (b : Bool) (u : State) (s : State), s.get (.sns .SD_CFG_EN) c.val = 1 ∧ s.senseClocked = true ∧
      s.sdEdges c.val s.now = s.sdEdges c.val (s.get (.sns .SD_AT) c.val) + 1 ∧ b = (if s.flag (.sns .SD_CFG_EDGE) c.val then x.2 else
      x.1) ∧ u = s.set (.sns .SD_BITS) (2 * s.get (.sns .SD_BITS) c.val + b.toNat) c.val ∧ s.get (.sns .SD_CFG_TRIP_EN) c.val = 1 ∧ s.get
      (.sns .SD_NB) c.val < 2 ^ 32 - 1 ∧ 2 * s.sdL c.val - 2 ≤ s.get (.sns .SD_NB) c.val ∧ s.sget (.sns .SD_TRIP_THR_LO) c.val ≤
      u.tripValue c.val ∧ u.tripValue c.val ≤ s.sget (.sns .SD_TRIP_THR_HI) c.val ∧ 15 ≤ s.get (.sns .SD_INN) c.val ∧ s.get (.sns
      .SD_STAT_TRIP) c.val = 1 ∧ s.get (.sns .SD_STAT_STUCK) c.val = 0 ∧ s.get (.sns .SD_SAME) c.val < 63) ∧
    (∃ (c : Fin 24) (x : Bool × Bool) (b : Bool) (s : State), s.get (.sns .SD_CFG_EN) c.val = 1 ∧ s.senseClocked = true ∧ s.sdEdges c.val
      s.now = s.sdEdges c.val (s.get (.sns .SD_AT) c.val) + 1 ∧ b = (if s.flag (.sns .SD_CFG_EDGE) c.val then x.2 else x.1) ∧ b = s.flag
      (.sns .SD_PIN) c.val ∧ 63 ≤ s.get (.sns .SD_SAME) c.val ∧ s.get (.sns .SD_STAT_STUCK) c.val = 0 ∧ s.get (.sns .SD_CFG_STUCK_TRIP)
      c.val = 1 ∧ s.get (.sns .SD_STAT_TRIP) c.val = 0) ∧
    (∃ (c : Fin 24) (x : Bool × Bool) (b : Bool) (s : State), s.get (.sns .SD_CFG_EN) c.val = 1 ∧ s.senseClocked = true ∧ s.sdEdges c.val
      s.now = s.sdEdges c.val (s.get (.sns .SD_AT) c.val) + 1 ∧ b = (if s.flag (.sns .SD_CFG_EDGE) c.val then x.2 else x.1) ∧ s.get (.sns
      .SD_STAT_STUCK) c.val = 1 ∧ (b ≠ s.flag (.sns .SD_PIN) c.val ∨ s.get (.sns .SD_SAME) c.val < 7) ∧ s.get (.sns .SD_RUN) c.val = 63 ∧
      s.get (.sns .SD_CFG_TRIP_EN) c.val = 0 ∧ s.get (.sns .SD_VT) c.val = 0 ∧ s.get (.sns .SD_STAT_TRIP) c.val = 0) :=
⟨⟨.safety, 23, 0, (st [((.saf .ISL_STAT_STATE), 9, 0, 0), ((.sns .SD_CFG_EN), (23 : Fin 24).val, 0, 1)]), reaches_of (by decide),
    by decide, by decide⟩,
  ⟨.safety, 23, 0x100001, _, (st [((.saf .ISL_STAT_STATE), 9, 0, 0), ((.sns .SD_CFG_EN), (23 : Fin 24).val, 0, 0)]), reaches_of
    (by decide), by decide, rfl, by decide, by decide, by decide⟩,
  ⟨.safety, 23, 1, _, (st [((.saf .ISL_STAT_STATE), 9, 0, 0), ((.sns .SD_CFG_EN), (23 : Fin 24).val, 0, 0)]), reaches_of (by decide),
    by decide, rfl, by decide, by decide⟩,
  ⟨23, (true, true), true, { (st [((.saf .ISL_STAT_STATE), 9, 0, 0), ((.sns .SD_CFG_EN), 23, 0, 1), ((.sns .SDCLK_FREQ), 0, 0, 1), ((.sns
    .SD_CFG_CLKSEL), 23, 0, 0), ((.sns .SD_AT), 23, 0, 100), ((.sns .SD_NB), 23, 0, 1000)]) with now := 640 }, by decide, by decide,
    by decide, by decide, by decide, by decide, by decide, by decide⟩,
  ⟨23, (true, true), true, { (st [((.saf .ISL_STAT_STATE), 9, 0, 0), ((.sns .SD_CFG_EN), 23, 0, 1), ((.sns .SDCLK_FREQ), 0, 0, 1), ((.sns
    .SD_CFG_CLKSEL), 23, 0, 0), ((.sns .SD_AT), 23, 0, 100), ((.sns .SD_CFG_SYNC), 23, 0, 0), ((.sns .SD_STAT_VALID), 23, 0, 1), ((.sns
    .SD_K), 23, 0, 300)]) with now := 640 }, by decide, by decide, by decide, by decide, by decide, by decide, by decide, by decide,
    by decide⟩,
  ⟨23, (st [((.sns .SD_PROC), (23 : Fin 24).val, 0, 1), ((.sns .SD_WAIT), (23 : Fin 24).val, 0, 0), ((.sns .SD_CFG_EN), (23 : Fin 24).val,
    0, 1), ((.sns .SD_STAT_VALID), (23 : Fin 24).val, 0, 1)]), by decide, by decide, by decide⟩,
  ⟨23, (true, true), true, ({ (st [((.saf .ISL_STAT_STATE), 9, 0, 0), ((.sns .SD_CFG_EN), 23, 0, 1), ((.sns .SDCLK_FREQ), 0, 0, 1), ((.sns
    .SD_CFG_CLKSEL), 23, 0, 0), ((.sns .SD_AT), 23, 0, 100), ((.sns .SD_CFG_TRIP_EN), 23, 0, 1), ((.sns .SD_NB), 23, 0, 1000), ((.sns
    .SD_OUTN), 23, 0, 300), ((.sns .SD_TRIP_THR_LO), 23, 0, 32767)]) with now := 640 }.set (.sns .SD_BITS) (2 * { (st [((.saf
    .ISL_STAT_STATE), 9, 0, 0), ((.sns .SD_CFG_EN), 23, 0, 1), ((.sns .SDCLK_FREQ), 0, 0, 1), ((.sns .SD_CFG_CLKSEL), 23, 0, 0), ((.sns
    .SD_AT), 23, 0, 100), ((.sns .SD_CFG_TRIP_EN), 23, 0, 1), ((.sns .SD_NB), 23, 0, 1000), ((.sns .SD_OUTN), 23, 0, 300), ((.sns
    .SD_TRIP_THR_LO), 23, 0, 32767)]) with now := 640 }.get (.sns .SD_BITS) (23 : Fin 24).val + Bool.toNat true) (23 : Fin 24).val), { (st
    [((.saf .ISL_STAT_STATE), 9, 0, 0), ((.sns .SD_CFG_EN), 23, 0, 1), ((.sns .SDCLK_FREQ), 0, 0, 1), ((.sns .SD_CFG_CLKSEL), 23, 0, 0),
    ((.sns .SD_AT), 23, 0, 100), ((.sns .SD_CFG_TRIP_EN), 23, 0, 1), ((.sns .SD_NB), 23, 0, 1000), ((.sns .SD_OUTN), 23, 0, 300), ((.sns
    .SD_TRIP_THR_LO), 23, 0, 32767)]) with now := 640 }, by decide, by decide, by decide, by decide, by decide +kernel, by decide,
    by decide, by decide, by decide +kernel, by decide, by decide, by decide⟩,
  ⟨23, (true, true), true, ({ (st [((.saf .ISL_STAT_STATE), 9, 0, 0), ((.sns .SD_CFG_EN), 23, 0, 1), ((.sns .SDCLK_FREQ), 0, 0, 1), ((.sns
    .SD_CFG_CLKSEL), 23, 0, 0), ((.sns .SD_AT), 23, 0, 100), ((.sns .SD_CFG_TRIP_EN), 23, 0, 1), ((.sns .SD_NB), 23, 0, 1000), ((.sns
    .SD_INN), 23, 0, 300), ((.sns .SD_STAT_TRIP), 23, 0, 1), ((.sns .SD_TRIP_THR_LO), 23, 0, 32768), ((.sns .SD_TRIP_THR_HI), 23, 0,
    32767)]) with now := 640 }.set (.sns .SD_BITS) (2 * { (st [((.saf .ISL_STAT_STATE), 9, 0, 0), ((.sns .SD_CFG_EN), 23, 0, 1), ((.sns
    .SDCLK_FREQ), 0, 0, 1), ((.sns .SD_CFG_CLKSEL), 23, 0, 0), ((.sns .SD_AT), 23, 0, 100), ((.sns .SD_CFG_TRIP_EN), 23, 0, 1), ((.sns
    .SD_NB), 23, 0, 1000), ((.sns .SD_INN), 23, 0, 300), ((.sns .SD_STAT_TRIP), 23, 0, 1), ((.sns .SD_TRIP_THR_LO), 23, 0, 32768), ((.sns
    .SD_TRIP_THR_HI), 23, 0, 32767)]) with now := 640 }.get (.sns .SD_BITS) (23 : Fin 24).val + Bool.toNat true) (23 : Fin 24).val), { (st
    [((.saf .ISL_STAT_STATE), 9, 0, 0), ((.sns .SD_CFG_EN), 23, 0, 1), ((.sns .SDCLK_FREQ), 0, 0, 1), ((.sns .SD_CFG_CLKSEL), 23, 0, 0),
    ((.sns .SD_AT), 23, 0, 100), ((.sns .SD_CFG_TRIP_EN), 23, 0, 1), ((.sns .SD_NB), 23, 0, 1000), ((.sns .SD_INN), 23, 0, 300), ((.sns
    .SD_STAT_TRIP), 23, 0, 1), ((.sns .SD_TRIP_THR_LO), 23, 0, 32768), ((.sns .SD_TRIP_THR_HI), 23, 0, 32767)]) with now := 640 },
    by decide, by decide, by decide, by decide, by decide +kernel, by decide, by decide, by decide, by decide +kernel, by decide +kernel,
    by decide, by decide, by decide, by decide⟩,
  ⟨23, (true, true), true, { (st [((.saf .ISL_STAT_STATE), 9, 0, 0), ((.sns .SD_CFG_EN), 23, 0, 1), ((.sns .SDCLK_FREQ), 0, 0, 1), ((.sns
    .SD_CFG_CLKSEL), 23, 0, 0), ((.sns .SD_AT), 23, 0, 100), ((.sns .SD_PIN), 23, 0, 1), ((.sns .SD_SAME), 23, 0, 63), ((.sns
    .SD_CFG_STUCK_TRIP), 23, 0, 1)]) with now := 640 }, by decide, by decide, by decide, by decide, by decide, by decide, by decide,
    by decide, by decide⟩,
  ⟨23, (true, true), true, { (st [((.saf .ISL_STAT_STATE), 9, 0, 0), ((.sns .SD_CFG_EN), 23, 0, 1), ((.sns .SDCLK_FREQ), 0, 0, 1), ((.sns
    .SD_CFG_CLKSEL), 23, 0, 0), ((.sns .SD_AT), 23, 0, 100), ((.sns .SD_STAT_STUCK), 23, 0, 1), ((.sns .SD_RUN), 23, 0, 63)]) with now :=
    640 }, by decide, by decide, by decide, by decide, by decide, by decide, by decide, by decide, by decide, by decide⟩⟩

/-- The hypotheses of each clause of `FastAndResolver` can be met. -/
theorem test_FastAndResolver_hypotheses :
    (∃ (c : Fin 8) (s : State), s.senseClocked = true ∧ s.get (.sns .FC_EVT_AT) c.val ≠ 0 ∧ s.get (.sns .FC_EVT_AT) c.val ≤ s.now + 1 ∧
      s.now ≤ s.get (.sns .FC_EVT_AT) c.val + 63 ∧ s.get (.sns .FC_STAT_RES_OWNED) c.val = 0 ∧ s.get (.sns .FC_CFG_EN) c.val = 1 ∧ s.get
      (.sns .FC_STAT_VALID) c.val = 1) ∧
    (∃ (w : Who) (c : Fin 8) (v : Word) (u : State) (s : State), s.reaches w (fcAddr c.val) (v.toNat ||| 0x200) ∧ u = fcCfgWrite w c.val
      v.toNat s ∧ u.get (.sns .FC_STAT_RES_OWNED) c.val = 0 ∧ u.get (.sns .FC_CFG_EN) c.val = 1 ∧ u.get (.sns .FC_STAT_VALID) c.val = 1 ∧
      u.get (.sns .FC_STAT_BUSY) c.val = 0) ∧
    (∃ (c : Fin 8) (codes : BitVec 112) (m : Nat) (s : State), s.senseClocked = true ∧ s.get (.sns .FC_STAT_BUSY) c.val = 1 ∧ s.get (.sns
      .FC_STAT_PEND) c.val = 0 ∧ s.get (.sns .FC_AT) c.val + 640 * 2 ^ s.get (.sns .FC_AVGN) c.val ≤ s.now ∧ m * 2 ^ s.get (.sns .FC_AVGN)
      c.val = ((List.range (2 ^ s.get (.sns .FC_AVGN) c.val)).map (fun i => bits codes.toNat (14 * i) 14)).sum) ∧
    (∃ (c : Fin 8) (s : State), s.get (.sns .FC_CFG_EN) c.val = 1 ∧ s.senseClocked = true ∧ s.get (.sns .FC_EN_AT) c.val + us 10 ≤ s.now) ∧
    (∃ (w : Who) (r : Fin 2) (v : Word) (u : State) (s : State), s.reaches w (resAddr r.val) (v.toNat ||| 1) ∧ s.get (.sns .RES_CFG_EN)
      r.val = 0 ∧ u = storeWord w (resAddr r.val) (v.toNat ||| 1) s ∧ u.excOk r.val = true) ∧
    (∃ (w : Who) (r : Fin 2) (v : Word) (u : State) (s : State), s.reaches w (resAddr r.val) (v.toNat ||| 1) ∧ s.get (.sns .RES_CFG_EN)
      r.val = 0 ∧ u = storeWord w (resAddr r.val) (v.toNat ||| 1) s ∧ u.excOk r.val = false) ∧
    (∃ (r : Fin 2) (a : BitVec 14) (b : BitVec 14) (x : Int) (y : Int) (q : Nat) (s : State), s.senseClocked = true ∧ s.excAt r.val (49152
      + s.get (.sns .RES_CFG_PCOMP) r.val) = false ∧ s.excAt r.val (16384 + s.get (.sns .RES_CFG_PCOMP) r.val) = true ∧ s.get (.sns
      .RES_CFG_EN) r.val = 1 ∧ s.get (.sns .RES_OFF) r.val = 0 ∧ s.fcResult (4 + 2 * r.val) a.toNat = (x, false) ∧ s.fcResult (5 + 2 *
      r.val) b.toNat = (y, false) ∧ (q * q : Int) = x * x + y * y ∧ q < 65536 ∧ s.get (.sns .RES_MAG_LOS_THR) r.val ≤ q ∧ q ≤ s.get (.sns
      .RES_MAG_MAX_THR) r.val ∧ s.get (.sns .RES_STAT_VALID) r.val = 1 ∧ s.get (.sns .RES_STAT_LOS) r.val = 0 ∧ s.get (.sns .RES_STAT_OVA)
      r.val = 0) ∧
    (∃ (r : Fin 2) (a : BitVec 14) (b : BitVec 14) (x : Int) (y : Int) (q : Nat) (s : State), s.senseClocked = true ∧ s.excAt r.val (49152
      + s.get (.sns .RES_CFG_PCOMP) r.val) = true ∧ s.get (.sns .RES_CFG_EN) r.val = 1 ∧ s.get (.sns .RES_OFF) r.val = 0 ∧ s.fcResult (4 +
      2 * r.val) a.toNat = (-x, false) ∧ s.fcResult (5 + 2 * r.val) b.toNat = (-y, false) ∧ (q * q : Int) = satS 16 x * satS 16 x + satS
      16 y * satS 16 y ∧ q < 65536 ∧ s.get (.sns .RES_MAG_LOS_THR) r.val ≤ q ∧ q ≤ s.get (.sns .RES_MAG_MAX_THR) r.val ∧ s.get (.sns
      .RES_STAT_VALID) r.val = 1 ∧ s.get (.sns .RES_STAT_LOS) r.val = 0 ∧ s.get (.sns .RES_STAT_OVA) r.val = 0) ∧
    (∃ (r : Fin 2) (s : State), s.get (.sns .RES_CFG_EN) r.val = 1 ∧ s.senseClocked = true ∧ (s.get (.sns .RES_CFG_FREE) r.val = 1 ∨ s.get
      (.sns .RES_STAT_LOCKED) r.val = 1) ∧ s.get (.sns .RES_V_AT) r.val * (s.excPeriod r.val).2 + 4 * (s.excPeriod r.val).1 ≤ s.now *
      (s.excPeriod r.val).2 ∧ s.get (.sns .RES_OFF) r.val = 0) ∧
    (∃ (r : Fin 2) (s : State), s.get (.sns .RES_CFG_EN) r.val = 1 ∧ s.senseClocked = true) :=
⟨⟨7, { (st [((.saf .ISL_STAT_STATE), 9, 0, 0), ((.sns .FC_EVT_AT), 7, 0, 900), ((.sns .FC_STAT_RES_OWNED), 7, 0, 0), ((.sns .FC_CFG_EN),
    7, 0, 1), ((.sns .FC_STAT_VALID), 7, 0, 1)]) with now := 910 }, by decide, by decide, by decide, by decide, by decide, by decide,
    by decide⟩,
  ⟨.safety, 7, 1, _, { (st [((.saf .ISL_STAT_STATE), 9, 0, 0), ((.sns .FC_CFG_EN), 7, 0, 1), ((.sns .FC_STAT_VALID), 7, 0, 1), ((.sns
    .FC_CFG_AVG), 7, 0, 0)]) with now := 910 }, reaches_of (by decide), rfl, by decide, by decide, by decide, by decide⟩,
  ⟨7, 5 * 2 ^ 42 + 3 * 2 ^ 28 + 7 * 2 ^ 14 + 1, 4, { (st [((.saf .ISL_STAT_STATE), 9, 0, 0), ((.sns .FC_STAT_BUSY), 7, 0, 1), ((.sns
    .FC_AVGN), 7, 0, 2)]) with now := 2560 }, by decide, by decide, by decide, by decide, by decide⟩,
  ⟨7, { (st [((.saf .ISL_STAT_STATE), 9, 0, 0), ((.sns .FC_CFG_EN), 7, 0, 1)]) with now := 64000 }, by decide, by decide, by decide⟩,
  ⟨.safety, 1, 0xE0, _, (st [((.saf .ISL_STAT_STATE), 9, 0, 0), ((.sns .RES_CFG_EN), (1 : Fin 2).val, 0, 0)]), reaches_of (by decide),
    by decide, rfl, by decide⟩,
  ⟨.safety, 1, 0, _, (st [((.saf .ISL_STAT_STATE), 9, 0, 0), ((.sns .RES_CFG_EN), (1 : Fin 2).val, 0, 0)]), reaches_of (by decide),
    by decide, rfl, by decide⟩,
  ⟨1, 0, 0, 0, 0, 0, { (st [((.saf .ISL_STAT_STATE), 9, 0, 0), ((.sns .RES_CFG_EN), 1, 0, 1), ((.sns .RES_OFF), 1, 0, 0), ((.sns
    .RES_STAT_VALID), 1, 0, 1), ((.sns .RES_MAG_LOS_THR), 1, 0, 0), ((.sns .RES_CFG_FREE), 1, 0, 1), ((.sns .RES_EXC_EXFREQ), 1, 0,
    10000), ((.sns .RES_T0), 1, 0, 1)]) with now := 160000 }, by decide, by decide, by decide, by decide, by decide, by decide, by decide,
    by decide, by decide, by decide, by decide, by decide, by decide, by decide⟩,
  ⟨1, 0, 0, 0, 0, 0, { (st [((.saf .ISL_STAT_STATE), 9, 0, 0), ((.sns .RES_CFG_EN), 1, 0, 1), ((.sns .RES_OFF), 1, 0, 0), ((.sns
    .RES_STAT_VALID), 1, 0, 1), ((.sns .RES_MAG_LOS_THR), 1, 0, 0), ((.sns .RES_CFG_FREE), 1, 0, 1), ((.sns .RES_EXC_EXFREQ), 1, 0,
    10000), ((.sns .RES_T0), 1, 0, 1)]) with now := 480000 }, by decide, by decide, by decide, by decide, by decide, by decide, by decide,
    by decide, by decide, by decide, by decide, by decide, by decide⟩,
  ⟨1, { (st [((.saf .ISL_STAT_STATE), 9, 0, 0), ((.sns .RES_CFG_EN), 1, 0, 1), ((.sns .RES_OFF), 1, 0, 0), ((.sns .RES_STAT_VALID), 1, 0,
    1), ((.sns .RES_MAG_LOS_THR), 1, 0, 0), ((.sns .RES_CFG_FREE), 1, 0, 1), ((.sns .RES_EXC_EXFREQ), 1, 0, 10000), ((.sns .RES_T0), 1, 0,
    1)]) with now := 2560000 }, by decide, by decide, by decide, by decide, by decide⟩,
  ⟨1, (st [((.saf .ISL_STAT_STATE), 9, 0, 0), ((.sns .RES_CFG_EN), 1, 0, 1), ((.sns .RES_OFF), 1, 0, 0), ((.sns .RES_STAT_VALID), 1, 0,
    1), ((.sns .RES_MAG_LOS_THR), 1, 0, 0), ((.sns .RES_CFG_FREE), 1, 0, 1), ((.sns .RES_EXC_EXFREQ), 1, 0, 10000), ((.sns .RES_T0), 1, 0,
    1)]), by decide, by decide⟩⟩

/-- The hypotheses of each clause of `Housekeeping` can be met. -/
theorem test_Housekeeping_hypotheses :
    (∃ (code : BitVec 12) (c : Nat) (s : State), s.get (.sns .HK_STAT_BUSY) = 1 ∧ s.get (.sns .HK_AT) + us (if s.flag (.sns
      .HK_STAT_LP_ACTIVE) then 16 else 1) ≤ s.now ∧ s.get (.sns .HK_CURI) = 0 ∧ s.get (.sns .HK_CUR) = c ∧ c < 32 ∧ s.get (.sns .HK_N) c +
      1 ≤ s.get (.sns .HK_CH_NM1) c ∧ s.flag (.sns .HK_CTRL_LP) = s.flag (.sns .HK_STAT_LP_ACTIVE)) ∧
    (∃ (code : BitVec 12) (s : State), s.get (.sns .HK_STAT_BUSY) = 1 ∧ s.get (.sns .HK_AT) + us (if s.flag (.sns .HK_STAT_LP_ACTIVE) then
      16 else 1) ≤ s.now ∧ s.get (.sns .HK_CURI) = 1 ∧ s.get (.sns .HK_DATA_NEW) = 0 ∧ s.get (.sns .HK_CUR) < 32 ∧ s.flag (.sns
      .HK_CTRL_LP) = s.flag (.sns .HK_STAT_LP_ACTIVE)) ∧
    (∃ (w : Who) (v : Word) (s : State), s.reaches w (snsBase + 0x608) (v.toNat ||| 0x20) ∧ s.get (.sns .HK_STAT_INJ_PEND) = 0 ∧ s.get
      (.sns .HK_STAT_BUSY) = 1) ∧
    (∃ (w : Who) (v : Word) (s : State), s.reaches w (snsBase + 0x608) (v.toNat ||| 0x20) ∧ s.get (.sns .HK_STAT_INJ_PEND) = 1) ∧
    (∃ (w : Who) (s : State), s.readable w (snsBase + 0x604)) ∧
    (∃ (raw : BitVec 3) (s : State), s.senseClocked = true ∧ s.get (.sns .VSEL_RAW) = raw.toNat ∧ s.get (.sns .VSEL_AT) + us (1000 * max 1
      (s.get (.sns .VSEL_DEB))) ≤ s.now ∧ s.get (.sns .VSEL_CODE) ≠ raw.toNat) ∧
    (∃ (raw : BitVec 3) (s : State), s.senseClocked = true ∧ s.get (.sns .VSEL_RAW) ≠ raw.toNat) :=
⟨⟨5, 0, { (st [((.sns .HK_STAT_BUSY), 0, 0, 1)]) with now := 102400 }, by decide, by decide, by decide, by decide, by decide, by decide,
    by decide⟩,
  ⟨5, { (st [((.sns .HK_STAT_BUSY), 0, 0, 1), ((.sns .HK_CURI), 0, 0, 1)]) with now := 102400 }, by decide, by decide, by decide,
    by decide, by decide, by decide⟩,
  ⟨.safety, 0, (st [((.saf .ISL_STAT_STATE), 9, 0, 0), ((.sns .HK_STAT_INJ_PEND), 0, 0, 0), ((.sns .HK_STAT_BUSY), 0, 0, 1)]), reaches_of
    (by decide), by decide, by decide⟩,
  ⟨.safety, 0, (st [((.saf .ISL_STAT_STATE), 9, 0, 0), ((.sns .HK_STAT_INJ_PEND), 0, 0, 1)]), reaches_of (by decide), by decide⟩,
  ⟨.safety, (st [((.saf .ISL_STAT_STATE), 9, 0, 0)]), readable_of (by decide)⟩,
  ⟨7, { (st [((.saf .ISL_STAT_STATE), 9, 0, 0), ((.sns .VSEL_RAW), 0, 0, 7), ((.sns .VSEL_DEB), 0, 0, 1)]) with now := 6400000 },
    by decide, by decide, by decide, by decide⟩,
  ⟨5, (st [((.saf .ISL_STAT_STATE), 9, 0, 0)]), by decide, by decide⟩⟩

/-- The hypotheses of each clause of `TractionTrims` can be met. -/
theorem test_TractionTrims_hypotheses :
    (∃ (s : State), s.get (.loop .CHART_STAT_LOADED) = 1 ∧ s.get (.saf .XOVER_XOVER) 0 = 0 ∧ s.get (.saf .XOVER_XOVER) 1 = 0) ∧
    (∃ (s : State), s.get (.loop .CHART_STAT_LOADED) = 1 ∧ s.get (.saf .XOVER_XOVER) 0 ≠ 0 ∧ s.get (.saf .XOVER_XOVER) 1 = 0 ∧
      s.estimateValid (s.get (.saf .SPDSRC_ENG_RES) 0) (s.get (.saf .SPDSRC_SLOT_RES) 0) = false) ∧
    (∃ (s : State), s.get (.loop .CHART_STAT_LOADED) = 0) ∧
    (∃ (m : Fin 2) (s : State), s.get (.drv .TR_SHARE_AT) m.val + us 10000 ≤ s.now ∧ 200 * s.get (.drv .TR_ABS) (4 * m.val + 0) ≤ 102 *
      (s.get (.drv .TR_ABS) (4 * m.val + 0) + s.get (.drv .TR_ABS) (4 * m.val + 1)) ∧ 200 * s.get (.drv .TR_ABS) (4 * m.val + 1) ≤ 102 *
      (s.get (.drv .TR_ABS) (4 * m.val + 0) + s.get (.drv .TR_ABS) (4 * m.val + 1)) ∧ 200 * s.get (.drv .TR_ABS) (4 * m.val + 2) ≤ 102 *
      (s.get (.drv .TR_ABS) (4 * m.val + 2) + s.get (.drv .TR_ABS) (4 * m.val + 3)) ∧ 200 * s.get (.drv .TR_ABS) (4 * m.val + 3) ≤ 102 *
      (s.get (.drv .TR_ABS) (4 * m.val + 2) + s.get (.drv .TR_ABS) (4 * m.val + 3))) ∧
    (∃ (m : Fin 2) (s : State), s.get (.drv .TR_SHARE_AT) m.val + us 10000 ≤ s.now ∧ 102 * (s.get (.drv .TR_ABS) (4 * m.val + 0) + s.get
      (.drv .TR_ABS) (4 * m.val + 1)) < 200 * s.get (.drv .TR_ABS) (4 * m.val + 0) ∧ 200 * s.get (.drv .TR_ABS) (4 * m.val + 2) ≤ 102 *
      (s.get (.drv .TR_ABS) (4 * m.val + 2) + s.get (.drv .TR_ABS) (4 * m.val + 3)) ∧ 200 * s.get (.drv .TR_ABS) (4 * m.val + 3) ≤ 102 *
      (s.get (.drv .TR_ABS) (4 * m.val + 2) + s.get (.drv .TR_ABS) (4 * m.val + 3))) ∧
    (∃ (m : Fin 2) (s : State), s.now < s.get (.drv .TR_SHARE_AT) m.val + us 10000) ∧
    (∃ (m : Fin 2) (w1 : Half) (w2 : Half) (s : State), (toSigned 16 w1.toNat - toSigned 16 w2.toNat).natAbs ≤ 192) ∧
    (∃ (m : Fin 2) (w1 : Half) (w2 : Half) (s : State), 192 < toSigned 16 w1.toNat - toSigned 16 w2.toNat) ∧
    (∃ (m : Fin 2) (v : Half) (s : State), s.now < s.get (.drv .TR_OMIN_AT) m.val) ∧
    (∃ (m : Fin 2) (v : Half) (s : State), s.get (.drv .TR_OMIN_AT) m.val ≤ s.now ∧ toSigned 16 v.toNat ≤ s.sget (.loop .LS_LIMIT_OMAX) (2
      * m.val + 1) 1 ∧ toSigned 16 v.toNat ≤ s.sget (.loop .LS_LIMIT_OMAX) (2 * m.val + 1) 2) :=
⟨⟨(st [((.loop .CHART_STAT_LOADED), 0, 0, 1)]), by decide, by decide, by decide⟩,
  ⟨(st [((.loop .CHART_STAT_LOADED), 0, 0, 1), ((.saf .XOVER_XOVER), 0, 0, 1)]), by decide, by decide, by decide, by decide⟩,
  ⟨.reset, by decide⟩,
  ⟨1, { State.reset with now := 64000000 }, by decide, by decide, by decide, by decide, by decide⟩,
  ⟨1, { (st [((.drv .TR_ABS), 4, 0, 3)]) with now := 64000000 }, by decide, by decide, by decide, by decide⟩,
  ⟨1, .reset, by decide⟩,
  ⟨1, 0, 0, .reset, by decide⟩,
  ⟨1, 193, 0, .reset, by decide⟩,
  ⟨1, 0, (st [((.drv .TR_OMIN_AT), (1 : Fin 2).val, 0, 1)]), by decide⟩,
  ⟨1, 0, .reset, by decide, by decide, by decide⟩⟩

/-- The hypotheses of each clause of `TractionAccount` can be met. -/
theorem test_TractionAccount_hypotheses :
    (∃ (m : Fin 2) (s : State), s.get (.drv .TR_LIMP) m.val = 0 ∧ s.recN m.val 0x0E 2 ≤ s.get (.drv .TR_CMD) m.val) ∧
    (∃ (m : Fin 2) (s : State), s.get (.drv .TR_LIMP) m.val = 0 ∧ s.get (.drv .TR_CMD) m.val < s.recN m.val 0x10 2 ∧ s.recN m.val 0x10 2 ≤
      s.recN m.val 0x0E 2 ∧ (s.gb 1 1).testBit m.val = false) ∧
    (∃ (m : Fin 2) (s : State), (s.recN m.val 3 1).testBit 0 = true ∧ s.get (.saf .AXLE_MODE_MODE) = 2 ∧ s.get (.drv .TR_CMD_AT) m.val +
      us 100000 ≤ s.now) ∧
    (∃ (m : Fin 2) (s : State), (s.recN m.val 3 1).testBit 0 = false) ∧
    (∃ (m : Fin 2) (x : Fin 6) (v : Half) (s : State), (s.get (.loop .LS_PM_STAT_LOOP_UNPRIMED) (2 * m.val + 1) 7 = 1 ∨ s.get (.loop
      .LS_PM_STAT_HOLDING) (2 * m.val + 1) 7 = 1)) ∧
    (∃ (m : Fin 2) (x : Fin 6) (v : Half) (s : State), s.get (.loop .LS_PM_STAT_LOOP_UNPRIMED) (2 * m.val + 1) 7 = 0 ∧ s.get (.loop
      .LS_PM_STAT_HOLDING) (2 * m.val + 1) 7 = 0 ∧ s.get (.drv .TR_RESN) (6 * m.val + x.val) = 0) ∧
    (∃ (m : Fin 2) (s : State), s.get (.drv .TR_KM0) m.val = 0) ∧
    (∃ (m : Fin 2) (u : State) (q : Nat) (s : State), u = holdDistance m.val s ∧ s.get (.drv .TR_KM0) m.val ≠ 0 ∧ s.get (.drv .TR_KM0)
      m.val + 100 ≤ u.get (.drv .TR_KML) m.val + 1 ∧ (s.maxDamage m.val - u.get (.drv .TR_KMD) m.val ((u.get (.drv .TR_KML) m.val - 100) %
      128)) * s.recN m.val 0xAC 4 * 32768 = q * (2 ^ 48 * 200)) :=
⟨⟨1, .reset, by decide, by decide⟩,
  ⟨1, (stm [((.drv .TR_LIMP), (1 : Fin 2).val, 0, 0)] [(0x0E, 1, 2), (0x10, 1, 2)]), by decide, by decide, by decide, by decide⟩,
  ⟨1, { (stm [((.saf .AXLE_MODE_MODE), 0, 0, 2)] [(3, 1, 1)]) with now := us 100000 }, by decide, by decide, by decide⟩,
  ⟨1, .reset, by decide⟩,
  ⟨1, 5, 9, (st [((.loop .LS_PM_STAT_HOLDING), 3, 7, 1)]), by decide⟩,
  ⟨1, 5, 9, .reset, by decide, by decide, by decide⟩,
  ⟨1, .reset, by decide⟩,
  ⟨1, (holdDistance (1 : Fin 2).val (st [((.drv .TR_KM0), 1, 0, 1), ((.drv .VEH_ODO), 0, 0, 10000)])), 0, (st [((.drv .TR_KM0), 1, 0, 1),
    ((.drv .VEH_ODO), 0, 0, 10000)]), by decide +kernel, by decide, by decide +kernel, by decide +kernel⟩⟩

/-- The hypotheses of each clause of `Converters` can be met. -/
theorem test_Converters_hypotheses :
    (∃ (c : Fin 2) (s : State), s.now < s.get (.drv .CV_OMAX_AT) c.val) ∧
    (∃ (c : Fin 2) (v : Nat) (s : State), s.get (.drv .CV_OMAX_AT) c.val ≤ s.now ∧ s.get (.drv .CV_STATE) c.val = 5 ∧ effLimit c.val s =
      (v, s) ∧ v < 65536 ∧ s.sget (.loop .LS_LIMIT_OMIN) (4 + c.val) 1 ≤ toSigned 16 v) ∧
    (∃ (s : State), s.get (.drv .CV_STATE) 0 = 3 ∧ s.flag (.saf .CD_STAT_ON) s.cvContactor = true ∧ s.sget (.loop .LS_LIMIT_OMIN) 4 1 ≤ 0) ∧
    (∃ (c : Fin 2) (s : State), s.get (.drv .CV_STATE) c.val = 4 ∧ s.get (.drv .CV_AT) c.val + us (1000 * s.softMs c.val) ≤ s.now) ∧
    (∃ (p : Pins) (s : State), s.get (.drv .CV_STATE) 0 = 7 ∧ s.get (.drv .CV_AT) 0 + us 20000 ≤ s.now ∧ s.get (.drv .CV_FROMRIDE) 0 = 0 ∧
      s.get (.drv .CV_HOST) 0 = 0 ∧ s.get (.saf .AXLE_MODE_MODE) ≠ 4 ∧ s.get (.saf .OPEN_MASK) = 0 ∧ s.cvContactor < 8) ∧
    (∃ (c : Fin 2) (s : State), s.cvCounts c.val = true ∧ 0 < s.hicN c.val ∧ s.hicN c.val ≤ s.get (.drv .CV_LIM) c.val ∧ (s.hicTries c.val
      = 0 ∨ s.get (.drv .CV_HICRUN) c.val + 1 ≤ s.hicTries c.val)) ∧
    (∃ (c : Fin 2) (s : State), s.cvCounts c.val = true ∧ 0 < s.hicN c.val ∧ s.hicN c.val ≤ s.get (.drv .CV_LIM) c.val ∧ (s.hicTries c.val
      = 0 ∨ s.get (.drv .CV_HICRUN) c.val + 1 ≤ s.hicTries c.val)) ∧
    (∃ (c : Fin 2) (s : State), s.cvCounts c.val = true ∧ 0 < s.hicN c.val ∧ s.hicN c.val ≤ s.get (.drv .CV_LIM) c.val ∧ 0 < s.hicTries
      c.val ∧ s.hicTries c.val ≤ s.get (.drv .CV_HICRUN) c.val) ∧
    (∃ (c : Fin 2) (line : Bool) (s : State), s.get (.drv .CV_STATE) c.val = 8 ∧ s.get (.drv .CV_AT) c.val + us (1000 * s.hicOffMs c.val)
      ≤ s.now ∧ (c.val = 1 ∨ s.srcPresent line = true) ∧ s.sget (.loop .LS_LIMIT_OMIN) (4 + c.val) 1 ≤ 0) ∧
    (∃ (line : Bool) (s : State), s.get (.drv .CV_STATE) 0 = 8 ∧ s.get (.drv .CV_AT) 0 + us (1000 * s.hicOffMs 0) ≤ s.now ∧ s.srcPresent
      line = false) ∧
    (∃ (c : Fin 2) (s : State), s.get (.drv .CV_STATE) c.val = 5 ∧ s.get (.drv .CV_AT) c.val + us 1000000 ≤ s.now) ∧
    (∃ (k : Fin 6) (s : State), (s.cvActive 0).contains k.val = true ∧ 0 < s.openN 0 ∧ s.openN 0 ≤ s.get (.drv .CV_OPENC) k.val ∧ s.get
      (.drv .CV_STATE) 0 = 5) ∧
    (∃ (b : Bool) (s : State), s.get (.drv .CV_STATE) 0 = 9 ∧ s.get (.drv .CV_RSTEP) 0 = 0 ∧ s.cvRec 0 1 1 ≤ (s.cvActive 0).length) ∧
    (∃ (b : Bool) (s : State), s.get (.drv .CV_STATE) 0 = 9 ∧ s.get (.drv .CV_RSTEP) 0 = 1 ∧ s.get (.edge .DOM_STAT_LDALL_PENDING) 2 = 1) ∧
    (∃ (s : State), s.get (.sns .VSEL_VALID) = 0) ∧
    (∃ (s : State), s.get (.sns .VSEL_VALID) = 1 ∧ s.cvRec 1 (2 * s.get (.sns .VSEL_CODE)) 2 = 0 ∧ s.get (.drv .CV_STATE) 1 = 5) ∧
    (∃ (k : Fin 7) (dab : Bool) (x : Half) (y : Half) (s : State), s.use2Free = false) ∧
    (∃ (dab : Bool) (x : Half) (y : Half) (s : State), s.use2Free = true ∧ s.get (.drv .CV_D2N) = 3 ∧ s.flag (.drv .CV_D2DIR) = dab) ∧
    (∃ (k : Fin 7) (dab : Bool) (x : Half) (y : Half) (s : State), s.use2Free = true ∧ k.val ≠ 0 ∧ s.get (.drv .CV_D2N) ≠ k.val) :=
⟨⟨1, (st [((.drv .CV_OMAX_AT), (1 : Fin 2).val, 0, 1)]), by decide⟩,
  ⟨1, 0, (st [((.drv .CV_STATE), (1 : Fin 2).val, 0, 5)]), by decide, by decide, by decide, by decide, by decide⟩,
  ⟨(st [((.drv .CV_STATE), 0, 0, 3), ((.saf .CD_STAT_ON), 0, 0, 1)]), by decide, by decide, by decide⟩,
  ⟨1, { (st [((.drv .CV_STATE), 1, 0, 4), ((.drv .CV_AT), 1, 0, 7)]) with now := 640000000 }, by decide, by decide⟩,
  ⟨⟨false, false, false, false, false⟩, { (st [((.drv .CV_STATE), 0, 0, 7)]) with now := 128000000 }, by decide, by decide, by decide,
    by decide, by decide, by decide, by decide⟩,
  ⟨1, (stm [((.drv .CV_STATE), (1 : Fin 2).val, 0, 5), ((.drv .CV_LIM), (1 : Fin 2).val, 0, 1)] [(0x16, 1, 1)]), by decide, by decide,
    by decide, by decide⟩,
  ⟨1, (stm [((.drv .CV_STATE), (1 : Fin 2).val, 0, 5), ((.drv .CV_LIM), (1 : Fin 2).val, 0, 1)] [(0x16, 1, 1)]), by decide, by decide,
    by decide, by decide⟩,
  ⟨1, (stm [((.drv .CV_STATE), (1 : Fin 2).val, 0, 5), ((.drv .CV_LIM), (1 : Fin 2).val, 0, 1), ((.drv .CV_HICRUN), (1 : Fin 2).val, 0,
    1)] [(0x16, 1, 1), (0x17, 1, 1)]), by decide, by decide, by decide, by decide, by decide⟩,
  ⟨1, false, { (st [((.drv .CV_STATE), 1, 0, 8), ((.drv .CV_AT), 1, 0, 7)]) with now := 640000000 }, by decide, by decide, by decide,
    by decide⟩,
  ⟨false, { (st [((.drv .CV_STATE), 0, 0, 8)]) with now := 640000000 }, by decide, by decide, by decide⟩,
  ⟨1, { (st [((.drv .CV_STATE), (1 : Fin 2).val, 0, 5)]) with now := us 1000000 }, by decide, by decide⟩,
  ⟨5, (stm [((.drv .CV_STATE), 0, 0, 5), ((.drv .CV_OPENC), (5 : Fin 6).val, 0, 1)] [(0, 6, 1), (0x20, 1, 1)]), by decide, by decide,
    by decide, by decide⟩,
  ⟨true, (st [((.drv .CV_STATE), 0, 0, 9), ((.drv .CV_RSTEP), 0, 0, 0)]), by decide, by decide, by decide⟩,
  ⟨true, (st [((.drv .CV_STATE), 0, 0, 9), ((.drv .CV_RSTEP), 0, 0, 1), ((.edge .DOM_STAT_LDALL_PENDING), 2, 0, 1)]), by decide,
    by decide, by decide⟩,
  ⟨(st [((.sns .VSEL_VALID), 0, 0, 0)]), by decide⟩,
  ⟨(st [((.sns .VSEL_VALID), 0, 0, 1), ((.drv .CV_STATE), 1, 0, 5)]), by decide, by decide, by decide⟩,
  ⟨6, true, 0, 0, (st [((.edge .OG_EN), 0, 0, 4)]), by decide⟩,
  ⟨true, 0, 0, (st [((.drv .CV_D2N), 0, 0, 3), ((.drv .CV_D2DIR), 0, 0, 1)]), by decide, by decide, by decide⟩,
  ⟨6, true, 0, 0, .reset, by decide, by decide, by decide⟩⟩

/-- The hypotheses of each clause of `ChargingSession` can be met. -/
theorem test_ChargingSession_hypotheses :
    (∃ (osc : Bool) (h : Half) (low : Half) (d : BitVec 10) (s : State), s.get (.sns .CP_CTRL_EN) = 0) ∧
    (∃ (osc : Bool) (h : Half) (low : Half) (d : BitVec 10) (s : State), s.get (.sns .CP_CTRL_EN) = 1 ∧ s.senseClocked = true ∧ (osc =
      false ∨ (s.get (.sns .CP_CNT) = 3 ∧ s.get (.sns .CP_DEC) = pilotState h.toInt osc)) ∧ pilotState h.toInt osc < 4 ∧ s.get (.drv
      .CH_STATE) ≠ 0) ∧
    (∃ (osc : Bool) (h : Half) (low : Half) (d : BitVec 10) (s : State), s.get (.sns .CP_CTRL_EN) = 1 ∧ s.senseClocked = true ∧ (osc =
      false ∨ (s.get (.sns .CP_CNT) = 3 ∧ s.get (.sns .CP_DEC) = pilotState h.toInt osc)) ∧ 4 ≤ pilotState h.toInt osc ∧ s.chgRunning =
      true ∧ s.get (.drv .CH_END) = 0) ∧
    (∃ (h : Half) (low : Half) (d : BitVec 10) (s : State), s.get (.sns .CP_CTRL_EN) = 1 ∧ s.senseClocked = true ∧ (s.get (.sns .CP_CNT) =
      0 ∨ s.get (.sns .CP_DEC) ≠ pilotState h.toInt true)) ∧
    (∃ (w : Who) (v : Word) (s : State), s.reaches w (snsBase + 0x810) v.toNat ∧ s.get (.saf .EXTEST) = 0) ∧
    (∃ (ac : Half) (tmod : Half) (s : State), s.chgRunning = false) ∧
    (∃ (ac : Half) (tmod : Half) (s : State), s.get (.drv .CH_STATE) = 5 ∧ s.get (.saf .AXLE_MODE_MODE) ≠ 6 ∧ s.get (.saf .AXLE_MODE_BUSY)
      = 0 ∧ s.get (.grd .OG_LATCH) = 0 ∧ s.get (.drv .BMS_FAULT) ≠ 2 ∧ s.get (.drv .BMS_I_CHG) ≠ 0 ∧ s.get (.drv .CH_REQ) ≤ 65000) ∧
    (∃ (s : State), s.get (.drv .CH_STATE) = 6 ∧ s.recN 4 0x38 2 ≠ 0 ∧ s.get (.drv .CH_SUSP_AT) + us (s.recN 4 0x38 2 * 1000000) ≤ s.now ∧
      s.get (.drv .CH_END) = 0) ∧
    (∃ (b : Bool) (s : State), s.recN 4 1 1 = 0) ∧
    (∃ (s : State), s.recN 4 1 1 ≠ 0 ∧ s.get (.drv .CH_EMPTY) = 0) ∧
    (∃ (s : State), s.recN 4 1 1 ≠ 0 ∧ 1 ≤ s.get (.drv .CH_EMPTY) ∧ s.get (.drv .CH_STATE) = 1) ∧
    (∃ (s : State), s.recN 4 1 1 ≠ 0 ∧ s.get (.drv .CH_STATE) = 0 ∧ s.get (.sns .CP_STAT_STATE) = 2) ∧
    (∃ (s : State), s.get (.drv .CH_STATE) = 4 ∧ s.chgDc = true ∧ ((s.get (.drv .CH_EVSE_V) : Int) - (vehicleVolts s).1).natAbs ≤ 10 *
      s.recN 4 0x40 2 ∧ s.get (.drv .CH_MATCH_AT) ≠ 0 ∧ s.get (.drv .CH_MATCH_AT) + us 10000 ≤ s.now + 1 ∧ s.mayClose s.cdDcp = true ∧
      s.mayClose s.cdDcn = true) ∧
    (∃ (s : State), s.get (.drv .CH_STATE) = 4 ∧ s.get (.drv .CH_PRE_AT) + secs 10 ≤ s.now ∧ s.dcClosed = false ∧ s.get (.drv .CH_END) =
      0) ∧
    (∃ (s : State), s.chgDc = true ∧ s.chgRunning = true ∧ s.dcMustOpen = true ∧ s.get (.saf .OPEN_MASK) = 0 ∧ s.cdDcp < 8 ∧ s.cdDcn < 8 ∧
      s.get (.saf .CD_CFG_ORDER) s.cdDcp = s.get (.saf .CD_CFG_ORDER) s.cdDcn) ∧
    (∃ (s : State), s.get (.drv .CH_STATE) = 8 ∧ s.get (.drv .CH_OPEN_AT) + us 2000000 ≤ s.now ∧ s.get (.drv .CH_EVSE_V) < 10 * s.recN 4
      0x3E 2) ∧
    (∃ (s : State), s.get (.drv .CH_STATE) = 8 ∧ s.get (.drv .CH_OPEN_AT) + us 2000000 ≤ s.now ∧ 10 * s.recN 4 0x3E 2 ≤ s.get (.drv
      .CH_EVSE_V)) ∧
    (∃ (b : Bool) (t1s : Bool) (s : State), (s.get (.drv .CH_PROTO) = 3 ∨ t1s = s.chgT1s) ∧ s.get (.drv .CH_STATE) = 2 ∧ s.offered b =
      true) ∧
    (∃ (a : Bool) (b : Bool) (v1 : Half) (v2 : Half) (i : Half) (p : Nat) (t1s : Bool) (s : State), (s.get (.drv .CH_PROTO) = 3 ∨ t1s =
      s.chgT1s) ∧ s.get (.drv .CH_STATE) = 2 ∧ s.choosePath a b v1.toNat v2.toNat = some p) ∧
    (∃ (t1s : Bool) (s : State), (s.get (.drv .CH_PROTO) = 3 ∨ t1s = s.chgT1s) ∧ s.get (.drv .CH_STATE) = 3 ∧ (s.chgDc = true ∨ s.flag
      (.saf .CD_STAT_ON) s.cdAc = true)) ∧
    (∃ (s : State), s.get (.drv .CH_STATE) = 2 ∧ s.get (.drv .CH_END) = 0) :=
⟨⟨true, 0, 0, 0, .reset, by decide⟩,
  ⟨true, 600, 0, 500, (st [((.saf .ISL_STAT_STATE), 9, 0, 0), ((.sns .CP_CTRL_EN), 0, 0, 1), ((.sns .CP_CNT), 0, 0, 3), ((.sns .CP_DEC),
    0, 0, 3), ((.drv .CH_STATE), 0, 0, 1)]), by decide, by decide, by decide, by decide, by decide⟩,
  ⟨true, 200, 0, 500, (st [((.saf .ISL_STAT_STATE), 9, 0, 0), ((.sns .CP_CTRL_EN), 0, 0, 1), ((.sns .CP_CNT), 0, 0, 3), ((.sns .CP_DEC),
    0, 0, 4), ((.drv .CH_STATE), 0, 0, 2)]), by decide, by decide, by decide, by decide, by decide, by decide⟩,
  ⟨600, 0, 0, (st [((.saf .ISL_STAT_STATE), 9, 0, 0), ((.sns .CP_CTRL_EN), 0, 0, 1)]), by decide, by decide, by decide⟩,
  ⟨.safety, 0, (st [((.saf .ISL_STAT_STATE), 9, 0, 0), ((.saf .EXTEST), 0, 0, 0)]), reaches_of (by decide), by decide⟩,
  ⟨7, 9, .reset, by decide⟩,
  ⟨0, 0, (st [((.drv .CH_STATE), 0, 0, 5), ((.saf .AXLE_MODE_BUSY), 0, 0, 0), ((.grd .OG_LATCH), 0, 0, 0), ((.drv .BMS_I_CHG), 0, 0, 1)]),
    by decide, by decide, by decide, by decide, by decide, by decide, by decide⟩,
  ⟨{ (stm [((.drv .CH_STATE), 0, 0, 6), ((.drv .CH_END), 0, 0, 0)] [(0x38, 1, 2)]) with now := us 1000000 }, by decide, by decide,
    by decide, by decide⟩,
  ⟨true, .reset, by decide⟩,
  ⟨(stm [((.drv .CH_EMPTY), 0, 0, 0)] [(1, 1, 1)]), by decide, by decide⟩,
  ⟨(stm [((.drv .CH_EMPTY), 0, 0, 1), ((.drv .CH_STATE), 0, 0, 1)] [(1, 1, 1)]), by decide, by decide, by decide⟩,
  ⟨(stm [((.drv .CH_STATE), 0, 0, 0), ((.sns .CP_STAT_STATE), 0, 0, 2)] [(1, 1, 1)]), by decide, by decide, by decide⟩,
  ⟨{ (st [((.drv .CH_STATE), 0, 0, 4), ((.drv .CH_PATH), 0, 0, 2), ((.saf .AXLE_MODE_MODE), 0, 0, 1), ((.drv .CH_MATCH_AT), 0, 0, 1)])
    with now := 640000000 }, by decide, by decide, by decide, by decide, by decide, by decide, by decide⟩,
  ⟨{ (st [((.drv .CH_STATE), 0, 0, 4)]) with now := 64000000000 }, by decide, by decide, by decide, by decide⟩,
  ⟨(st [((.saf .OPEN_MASK), 0, 0, 0), ((.drv .CH_PATH), 0, 0, 2), ((.drv .CH_STATE), 0, 0, 2), ((.saf .AXLE_MODE_MODE), 0, 0, 6)]),
    by decide, by decide, by decide, by decide, by decide, by decide, by decide⟩,
  ⟨{ (stm [((.drv .CH_STATE), 0, 0, 8)] [(62, 1, 2)]) with now := 12800000000 }, by decide, by decide, by decide⟩,
  ⟨{ (st [((.drv .CH_STATE), 0, 0, 8)]) with now := 12800000000 }, by decide, by decide, by decide⟩,
  ⟨false, false, (stm [((.drv .CH_STATE), 0, 0, 2)] [(66, 1, 1)]), by decide, by decide, by decide⟩,
  ⟨true, true, 0, 65535, 77, 2, false, (stm [((.drv .CH_STATE), 0, 0, 2)] [(0, 2, 1)]), by decide, by decide, by decide⟩,
  ⟨false, (st [((.drv .CH_STATE), 0, 0, 3), ((.drv .CH_PATH), 0, 0, 2)]), by decide, by decide, by decide⟩,
  ⟨(st [((.drv .CH_STATE), 0, 0, 2), ((.drv .CH_END), 0, 0, 0)]), by decide, by decide⟩⟩

/-- The hypotheses of each clause of `BatteryBus` can be met. -/
theorem test_BatteryBus_hypotheses :
    (∃ (p : Fin 4) (xl : Bool) (id : Word) (v : BitVec 64) (s : State), s.bmsKind p.val xl id.toNat = some 0) ∧
    (∃ (p : Fin 4) (xl : Bool) (id : Word) (v : BitVec 64) (s : State), s.bmsKind p.val xl id.toNat = some 1) ∧
    (∃ (p : Fin 4) (xl : Bool) (id : Word) (v : BitVec 64) (s : State), s.bmsKind p.val xl id.toNat = some 2) ∧
    (∃ (p : Fin 4) (xl : Bool) (id : Word) (v : BitVec 64) (s : State), s.bmsKind p.val xl id.toNat = none) ∧
    (∃ (k : Fin 3) (s : State), (s.get (.drv .BMS_AT) k.val + us (1000 * s.recN 4 8 2) ≤ s.now ∨ 3 ≤ s.get (.drv .BMS_STALL) k.val) ∧
      s.get (.saf .AXLE_MODE_MODE) = 3 ∧ s.chgRunning = true ∧ s.get (.drv .CH_END) = 0) ∧
    (∃ (k : Fin 3) (s : State), (s.get (.drv .BMS_AT) k.val + us (1000 * s.recN 4 8 2) ≤ s.now ∨ 3 ≤ s.get (.drv .BMS_STALL) k.val) ∧
      s.get (.saf .AXLE_MODE_MODE) ≠ 3 ∧ s.get (.drv .BMS_TMO_ON) k.val = 0) ∧
    (∃ (a : Nat) (s : State), a = (s.get (.drv .CH_ALIVE) + 1) % 16) ∧
    (∃ (s : State), s.get (.drv .CH_REM) = 0) ∧
    (∃ (s : State), s.get (.drv .CH_REM) = 1 ∧ s.chgRunning = true ∧ s.get (.drv .CH_END) = 0) :=
⟨⟨0, false, 0, 0x123456789ABCDEF0, .reset, by decide⟩,
  ⟨0, false, 1, 0x123456789ABCDEF0, .reset, by decide⟩,
  ⟨0, false, 2, 0x123456789ABCDEF0, .reset, by decide⟩,
  ⟨1, false, 0, 0, .reset, by decide⟩,
  ⟨2, (st [((.saf .AXLE_MODE_MODE), 0, 0, 3), ((.drv .CH_END), 0, 0, 0), ((.drv .CH_STATE), 0, 0, 2)]), by decide, by decide, by decide,
    by decide⟩,
  ⟨2, (st [((.drv .BMS_TMO_ON), 0, 0, 0)]), by decide, by decide, by decide⟩,
  ⟨1, .reset, by decide⟩,
  ⟨(st [((.drv .CH_REM), 0, 0, 0)]), by decide⟩,
  ⟨(st [((.drv .CH_REM), 0, 0, 1), ((.drv .CH_END), 0, 0, 0), ((.drv .CH_STATE), 0, 0, 2)]), by decide, by decide, by decide⟩⟩

/-- The hypotheses of each clause of `Actuators` can be met. -/
theorem test_Actuators_hypotheses :
    (∃ (b : Fin 3) (code : BitVec 12) (s : State), s.actClocked = true ∧ s.get (.act .SH_AT) b.val + us 10 ≤ s.now + 1) ∧
    (∃ (b : Fin 3) (s : State), s.get (.act .BR_CFG_OC_EN) b.val = 1 ∧ s.get (.act .BR_OC_RUN) b.val = 2) ∧
    (∃ (b : Fin 3) (s : State), s.get (.act .BR_OC_RUN) b.val ≠ 2) ∧
    (∃ (w : Who) (b : Fin 3) (p3 : Bool) (v : Word) (s : State), s.reaches w (brAddr b.val + (if p3 then 4 else 0)) v.toNat ∧ s.bit (.edge
      .OG_EN) (6 + b.val) = true) ∧
    (∃ (w : Who) (b : Fin 3) (v : Word) (s : State), s.reaches w (brAddr b.val + 4) v.toNat ∧ s.bit (.edge .OG_EN) (6 + b.val) = false) ∧
    (∃ (w : Who) (b : Fin 3) (v : Word) (s : State), s.reaches w (brAddr b.val) v.toNat ∧ s.bit (.edge .OG_EN) (6 + b.val) = false ∧
      s.rwlFrozen w (brAddr b.val) = false) ∧
    (∃ (w : Who) (b : Fin 3) (v : Word) (s : State), s.reaches w (brAddr b.val + 8) v.toNat ∧ bits v.toNat 0 1 = 1 ∧ bits v.toNat 2 1 = 0
      ∧ s.bit (.edge .OG_EN) (6 + b.val) = false ∧ s.get (.act .BR_DIAG_BUSY) b.val = 0 ∧ 2 ≤ ((List.range 3).filter (fun k =>
      v.toNat.testBit (8 + k))).length) ∧
    (∃ (w : Who) (b : Fin 3) (v : Word) (s : State), s.reaches w (brAddr b.val + 8) v.toNat ∧ bits v.toNat 0 1 = 1 ∧ bits v.toNat 2 1 = 0
      ∧ s.bit (.edge .OG_EN) (6 + b.val) = true) ∧
    (∃ (b : Fin 3) (z : Zone) (s : State), s.get (.act .BR_DIAG_BUSY) b.val = 1 ∧ s.get (.act .DIAG_STEP) b.val % 2 = 0 ∧ s.get (.act
      .DIAG_AT) b.val + us (1000 * max 1 (s.get (.act .BR_DIAG_SETTLE) b.val)) ≤ s.now) ∧
    (∃ (b : Fin 3) (z : Zone) (n : Nat) (k : Nat) (s : State), s.get (.act .BR_DIAG_BUSY) b.val = 1 ∧ s.get (.act .DIAG_STEP) b.val = 2 *
      n + 1 ∧ (s.diagPhases b.val)[n]? = some k ∧ n + 1 = (s.diagPhases b.val).length ∧ s.get (.act .DIAG_AT) b.val + us (1000 * max 1
      (s.get (.act .BR_DIAG_SETTLE) b.val)) ≤ s.now) ∧
    (∃ (b : Fin 3) (v : BitVec 3) (s : State), s.get (.act .BR_HALL_EN) b.val = 0) ∧
    (∃ (b : Fin 3) (v : BitVec 3) (s : State), s.get (.act .BR_HALL_EN) b.val = 1 ∧ s.get (.act .BR_HALL_INV) b.val = 0 ∧ s.actClocked =
      true ∧ s.get (.act .BR_STAT_HALL) b.val ≠ v.toNat ∧ s.get (.act .HALL_RAW) b.val = v.toNat ∧ s.get (.act .HALL_RAW_AT) b.val + 640 *
      max 1 (s.get (.act .BR_HALL_HFILT) b.val) ≤ s.now) ∧
    (∃ (b : Fin 3) (v : BitVec 3) (s : State), s.get (.act .BR_HALL_EN) b.val = 1 ∧ s.actClocked = true ∧ s.get (.act .HALL_RAW) b.val ≠
      v.toNat) ∧
    (∃ (b : Fin 3) (s : State), s.get (.act .BR_HALL_EN) b.val = 1 ∧ (s.get (.act .BR_STAT_HALL) b.val = 0 ∨ s.get (.act .BR_STAT_HALL)
      b.val = 7) ∧ s.get (.act .HALL_AT) b.val + us (max 1 (s.get (.act .BR_HALL_HINV) b.val)) ≤ s.now) ∧
    (∃ (c : Fin 8) (tick : BitVec 17) (x : BitVec 12) (y : BitVec 12) (n : BitVec 4) (s : State), s.get (.act .SENT_CFG_EN) c.val = 1 ∧
      s.actClocked = true ∧ s.get (.act .SENT_TICK) c.val = 0 ∧ ((tick.toNat : Int) - 500 * s.get (.act .SENT_CFG_TICK) c.val).natAbs * 5
      ≤ 500 * s.get (.act .SENT_CFG_TICK) c.val) ∧
    (∃ (c : Fin 8) (s : State), s.get (.act .SENT_CFG_EN) c.val = 1 ∧ s.actClocked = true ∧ s.get (.act .SENT_AT) c.val + us (100 * max 1
      (s.get (.act .SENT_CFG_TMO) c.val)) ≤ s.now) ∧
    (∃ (w : Who) (c : Fin 8) (s : State), s.readable w (sentAddr c.val + 0x0C)) :=
⟨⟨2, 1500, { (st [((.saf .ISL_STAT_STATE), 11, 0, 0)]) with now := 1000000 }, by decide, by decide⟩,
  ⟨2, (st [((.act .BR_CFG_OC_EN), (2 : Fin 3).val, 0, 1), ((.act .BR_OC_RUN), (2 : Fin 3).val, 0, 2)]), by decide, by decide⟩,
  ⟨2, .reset, by decide⟩,
  ⟨.safety, 2, true, 0, (st [((.saf .ISL_STAT_STATE), 11, 0, 0), ((.edge .OG_EN), 0, 0, 2 ^ (6 + (2 : Fin 3).val))]), reaches_of
    (by decide), by decide⟩,
  ⟨.safety, 2, 0, (st [((.saf .ISL_STAT_STATE), 11, 0, 0)]), reaches_of (by decide), by decide⟩,
  ⟨.safety, 2, 0, (st [((.saf .ISL_STAT_STATE), 11, 0, 0)]), reaches_of (by decide), by decide, by decide⟩,
  ⟨.safety, 2, 0x301, (st [((.saf .ISL_STAT_STATE), 11, 0, 0), ((.act .BR_DIAG_BUSY), (2 : Fin 3).val, 0, 0)]), reaches_of (by decide),
    by decide, by decide, by decide, by decide, by decide⟩,
  ⟨.safety, 2, 1, (st [((.saf .ISL_STAT_STATE), 11, 0, 0), ((.edge .OG_EN), 0, 0, 2 ^ (6 + (2 : Fin 3).val))]), reaches_of (by decide),
    by decide, by decide, by decide⟩,
  ⟨2, .low, { (st [((.act .BR_DIAG_BUSY), 2, 0, 1)]) with now := 1000000000 }, by decide, by decide, by decide⟩,
  ⟨2, .low, 1, 1, { (st [((.act .BR_DIAG_BUSY), 2, 0, 1), ((.act .DIAG_STEP), 2, 0, 3), ((.act .DIAG_MASK), 2, 0, 3)]) with now :=
    1000000000 }, by decide, by decide, by decide, by decide, by decide⟩,
  ⟨2, 0, (st [((.act .BR_HALL_EN), (2 : Fin 3).val, 0, 0)]), by decide⟩,
  ⟨2, 1, { (st [((.saf .ISL_STAT_STATE), 11, 0, 0), ((.act .BR_HALL_EN), 2, 0, 1), ((.act .HALL_RAW), 2, 0, 1)]) with now := 1000000000 },
    by decide, by decide, by decide, by decide, by decide, by decide⟩,
  ⟨2, 1, (st [((.saf .ISL_STAT_STATE), 11, 0, 0), ((.act .BR_HALL_EN), 2, 0, 1)]), by decide, by decide, by decide⟩,
  ⟨2, { (st [((.act .BR_HALL_EN), 2, 0, 1)]) with now := 1000000000 }, by decide, by decide, by decide⟩,
  ⟨7, 3000, 0, 0, 0, (st [((.saf .ISL_STAT_STATE), 11, 0, 0), ((.act .SENT_CFG_EN), 7, 0, 1)]), by decide, by decide, by decide,
    by decide⟩,
  ⟨7, { (st [((.saf .ISL_STAT_STATE), 11, 0, 0), ((.act .SENT_CFG_EN), 7, 0, 1)]) with now := 1000000000 }, by decide, by decide,
    by decide⟩,
  ⟨.safety, 7, (st [((.saf .ISL_STAT_STATE), 11, 0, 0)]), readable_of (by decide)⟩⟩

/-- The hypotheses of each clause of `Gearbox` can be met. -/
theorem test_Gearbox_hypotheses :
    (∃ (s : State), s.get (.drv .GB_BUSY) = 0) ∧
    (∃ (s : State), s.get (.drv .GB_BUSY) = 1 ∧ s.get (.drv .GB_UNWIND) = 0 ∧ s.get (.drv .GB_PHASE) = 4 ∧ (gbTrack s).gbSettled = true) ∧
    (∃ (s : State), s.get (.drv .GB_BUSY) = 1 ∧ s.get (.drv .GB_UNWIND) = 0 ∧ s.get (.drv .GB_PHASE) = 5 ∧ (gbTrack s).gbSettled = true) ∧
    (∃ (c : Fin 8) (s : State), s.abortHolds c.val = false) ∧
    (∃ (c : Fin 8) (s : State), s.get (.drv .GB_BUSY) = 1 ∧ s.abortHolds c.val = true ∧ s.get (.drv .GB_UNWIND) = 0 ∧ s.get (.drv
      .GB_PHASE) = 1) ∧
    (∃ (e : MoveEnd) (s : State), s.get (.drv .PL_MOVE) = 0) ∧
    (∃ (s : State), s.get (.drv .PL_MOVE) = 1) ∧
    (∃ (s : State), s.get (.drv .PL_MOVE) ≠ 0 ∧ s.get (.drv .PL_AT) + us (10000 * s.gb 0x4F 1) ≤ s.now) :=
⟨⟨(st [((.drv .GB_BUSY), 0, 0, 0)]), by decide⟩,
  ⟨{ (st [((.drv .GB_BUSY), 0, 0, 1), ((.drv .GB_PHASE), 0, 0, 4), ((.drv .GB_TGT), 0, 0, 1), ((.act .SENT_DATA_VALID), 0, 0, 1), ((.drv
    .GB_OK_AT), 0, 0, 1)]) with now := 1000000000 }, by decide, by decide, by decide, by decide⟩,
  ⟨(st [((.drv .GB_BUSY), 0, 0, 1), ((.drv .GB_UNWIND), 0, 0, 0), ((.drv .GB_PHASE), 0, 0, 5)]), by decide, by decide, by decide,
    by decide⟩,
  ⟨0, .reset, by decide⟩,
  ⟨7, (st [((.drv .GB_BUSY), 0, 0, 1), ((.drv .GB_UNWIND), 0, 0, 0), ((.drv .GB_PHASE), 0, 0, 1)]), by decide, by decide, by decide,
    by decide⟩,
  ⟨.position, (st [((.drv .PL_MOVE), 0, 0, 0)]), by decide⟩,
  ⟨(st [((.drv .PL_MOVE), 0, 0, 1)]), by decide⟩,
  ⟨(st [((.drv .PL_MOVE), 0, 0, 1)]), by decide, by decide⟩⟩

/-- The hypotheses of each clause of `MemoryAccess` can be met. -/
theorem test_MemoryAccess_hypotheses :
    (∃ (w : Who) (p : Fin 32) (a : BitVec 40) (n : Fin 257) (d : List (BitVec 8)) (e : Ecc) (s : State), p.val < 22 ∧ 0 < n.val ∧ a.toNat
      / 256 = (a.toNat + n.val - 1) / 256 ∧ s.get (.mem .MQ_KIND) p.val = 0 ∧ a.toNat < 0x1C0000000 ∧ s.get (.saf .ISL_STAT_STATE) 10 = 0
      ∧ s.draining 10 = false) ∧
    (∃ (w : Who) (p : Fin 32) (a : BitVec 40) (n : Fin 257) (d : List (BitVec 8)) (s : State), p.val < 22 ∧ 0 < n.val ∧ a.toNat / 256 =
      (a.toNat + n.val - 1) / 256 ∧ s.get (.mem .MQ_KIND) p.val = 0 ∧ 0x1800000000 ≤ a.toNat ∧ a.toNat < 0x1800800000 ∧ s.get (.saf
      .ISL_STAT_STATE) 13 = 0 ∧ s.draining 13 = false) ∧
    (∃ (w : Who) (p : Fin 32) (a : BitVec 40) (n : Fin 257) (d : List (BitVec 8)) (e : Ecc) (s : State), p.val < 22 ∧ 0 < n.val ∧ a.toNat
      / 256 = (a.toNat + n.val - 1) / 256 ∧ s.get (.mem .MQ_KIND) p.val = 0 ∧ a.toNat < 0x1C0000000 ∧ s.get (.saf .ISL_STAT_STATE) 10 = 0
      ∧ s.draining 10 = false ∧ s.mayWrite w a.toNat 0 = true) ∧
    (∃ (w : Who) (p : Fin 32) (a : BitVec 40) (n : Fin 257) (d : List (BitVec 8)) (e : Ecc) (s : State), p.val < 22 ∧ 0 < n.val ∧ a.toNat
      / 256 = (a.toNat + n.val - 1) / 256 ∧ s.get (.mem .MQ_KIND) p.val = 0 ∧ 0x1800000000 ≤ a.toNat ∧ a.toNat < 0x1800800000 ∧ a.toNat %
      8 = 0 ∧ n.val % 8 = 0 ∧ s.get (.saf .ISL_STAT_STATE) 13 = 0 ∧ s.draining 13 = false ∧ s.mayWrite w a.toNat 0 = true) ∧
    (∃ (s : State) (u : State), streamOffer s = u ∧ u.grantPort = none) ∧
    (∃ (i : Nat) (p : Nat) (s : State) (u : State), streamOffer s = u ∧ u.get (.mem .ARB_CYC) ≠ s.now / 8 + 1 ∧ u.freePlace = some i ∧
      u.grantPort = some p) ∧
    (∃ (s : State), (s.get (.mem .MQ_KIND) 14 ≠ 0 ∨ s.get (.saf .ISL_STAT_STATE) 6 ≠ 0 ∨ (s.get (.loop .STRM_E) = 0 ∧ s.streamNext =
      none))) ∧
    (∃ (i : Fin 64) (os : List Flips) (s : State), s.dramReady (s.get (.mem .IF_ADDR) i.val) = false) ∧
    (∃ (i : Fin 64) (os : List Flips) (a : Nat) (n : Nat) (s : State), s.get (.saf .ISL_STAT_STATE) 10 = 0 ∧ s.dramReady a = true ∧ s.get
      (.mem .IF_KIND) i.val = 1 ∧ s.get (.mem .IF_ADDR) i.val = a ∧ s.get (.mem .IF_LEN) i.val = n ∧ a + n ≤ 2 ^ 42 ∧ (∀ l ∈ linesOf a n,
      (flipLines (linesOf a n) os s).lineOut l = .clean ∨ (flipLines (linesOf a n) os s).lineOut l = .corrected)) ∧
    (∃ (i : Fin 64) (os : List Flips) (a : Nat) (n : Nat) (l : Nat) (s : State), s.get (.saf .ISL_STAT_STATE) 10 = 0 ∧ s.dramReady a =
      true ∧ s.get (.mem .IF_KIND) i.val = 1 ∧ s.get (.mem .IF_ADDR) i.val = a ∧ s.get (.mem .IF_LEN) i.val = n ∧ l ∈ linesOf a n ∧
      (flipLines (linesOf a n) os s).badLine l = true) ∧
    (∃ (i : Fin 64) (os : List Flips) (a : Nat) (n : Nat) (s : State), s.get (.saf .ISL_STAT_STATE) 10 = 0 ∧ s.dramReady a = true ∧ s.get
      (.mem .IF_KIND) i.val = 2 ∧ s.get (.mem .IF_ADDR) i.val = a ∧ s.get (.mem .IF_LEN) i.val = n ∧ a + n ≤ 2 ^ 42 ∧ n ≤ 256 ∧ (∀ l ∈
      linesOf a n, (flipLines (linesOf a n) os s).lineOut l = .clean ∨ (flipLines (linesOf a n) os s).lineOut l = .corrected)) ∧
    (∃ (w : Who) (p : Fin 32) (v : Word) (s : State), s.reaches w (memBase + 0x100 + 4 * p.val) v.toNat) ∧
    (∃ (f : Flips) (s : State), s.get (.mem .SCRUB_CTRL_EN) = 0) ∧
    (∃ (f : Flips) (l : Nat) (s : State), s.get (.mem .SCRUB_CTRL_EN) = 1 ∧ s.get (.saf .ISL_STAT_STATE) 10 = 0 ∧ s.get (.mem
      .SCRUB_STAT_PTR) = l ∧ s.dramReady (64 * l) = true ∧ l + 1 ≠ lineCount ∧ s.get (.mem .SCRUB_STEP_AT) + us (max 16 (s.get (.mem
      .SCRUB_CTRL_INT))) ≤ s.now) ∧
    (∃ (s : State), s.get (.saf .ISL_STAT_STATE) 13 = 0 ∧ s.get (.mem .LAG_STEP_AT) + us 1 ≤ s.now) ∧
    (∃ (s : State), s.get (.mem .DRAM_ON) = 1 ∧ s.get (.mem .STAT_SELFREF) = 0) ∧
    (∃ (s : State), s.get (.mem .STAT_INIT_CHART) = 1 ∧ s.get (.mem .STAT_SELFREF) = 0) ∧
    (∃ (w : Who) (s : State), s.readable w (memBase + 0x68) ∧ s.get (.mem .FR_SIZE_EN) = 0) ∧
    (∃ (w : Who) (s : State), s.readable w (memBase + 0x68) ∧ s.get (.mem .FR_SIZE_EN) = 1) ∧
    (∃ (w : Who) (v : Word) (s : State), s.reaches w (memBase + 0x64) v.toNat ∧ s.get (.mem .FR_SIZE_EN) = 0 ∧ bits v.toNat 31 1 = 1 ∧
      bits v.toNat 30 1 = 0 ∧ bits v.toNat 0 13 = s.get (.mem .FR_SIZE_SEGS)) :=
⟨⟨.safety, 21, 0, 256, [], .corrected, (st [((.mem .MQ_KIND), (21 : Fin 32).val, 0, 0), ((.saf .ISL_STAT_STATE), 10, 0, 0)]), by decide,
    by decide, by decide, by decide, by decide, by decide, by decide⟩,
  ⟨.safety, 21, 0x1800000000, 256, [], (st [((.mem .MQ_KIND), (21 : Fin 32).val, 0, 0), ((.saf .ISL_STAT_STATE), 13, 0, 0)]), by decide,
    by decide, by decide, by decide, by decide, by decide, by decide, by decide⟩,
  ⟨.safety, 21, 0, 256, [1, 2], .clean, (st [((.saf .ISL_STAT_STATE), 10, 0, 0)]), by decide, by decide, by decide, by decide, by decide,
    by decide, by decide, by decide⟩,
  ⟨.safety, 21, 0x1800000000, 256, [1, 2], .clean, (st [((.saf .ISL_STAT_STATE), 13, 0, 0)]), by decide, by decide, by decide, by decide,
    by decide, by decide, by decide, by decide, by decide, by decide, by decide⟩,
  ⟨.reset, _, rfl, by decide⟩,
  ⟨0, 31, (st [((.mem .MQ_KIND), 31, 0, 1)]), _, rfl, by decide, by decide, by decide⟩,
  ⟨.reset, by decide⟩,
  ⟨63, [], .reset, by decide⟩,
  ⟨63, [], 0, 64, (st [((.saf .ISL_STAT_STATE), 10, 0, 0), ((.mem .IF_KIND), (63 : Fin 64).val, 0, 1), ((.mem .IF_ADDR), (63 : Fin
    64).val, 0, (0 : Nat)), ((.mem .IF_LEN), (63 : Fin 64).val, 0, (64 : Nat)), ((.mem .DRAM_ON), 0, 0, 1), ((.mem .STAT_INIT_DONE), 0, 0,
    1)]), by decide, by decide, by decide, by decide, by decide, by decide, by decide⟩,
  ⟨63, [], 0, 64, 0, (stm [((.saf .ISL_STAT_STATE), 10, 0, 0), ((.mem .IF_KIND), (63 : Fin 64).val, 0, 1), ((.mem .IF_ADDR), (63 : Fin
    64).val, 0, (0 : Nat)), ((.mem .IF_LEN), (63 : Fin 64).val, 0, (64 : Nat)), ((.mem .DRAM_ON), 0, 0, 1), ((.mem .STAT_INIT_DONE), 0, 0,
    1)] [(lineMark 0, 1, 1)]), by decide, by decide, by decide, by decide, by decide, by decide, by decide +kernel⟩,
  ⟨63, [], 0, 256, (st [((.saf .ISL_STAT_STATE), 10, 0, 0), ((.mem .IF_KIND), (63 : Fin 64).val, 0, 2), ((.mem .IF_ADDR), (63 : Fin
    64).val, 0, (0 : Nat)), ((.mem .IF_LEN), (63 : Fin 64).val, 0, (256 : Nat)), ((.mem .DRAM_ON), 0, 0, 1), ((.mem .STAT_INIT_DONE), 0,
    0, 1)]), by decide, by decide, by decide, by decide, by decide, by decide, by decide, by decide⟩,
  ⟨.safety, 31, 0, (st [((.saf .ISL_STAT_STATE), 10, 0, 0)]), reaches_of (by decide)⟩,
  ⟨[], (st [((.mem .SCRUB_CTRL_EN), 0, 0, 0)]), by decide⟩,
  ⟨[], 0, { (st [((.mem .SCRUB_CTRL_EN), 0, 0, 1), ((.saf .ISL_STAT_STATE), 10, 0, 0), ((.mem .DRAM_ON), 0, 0, 1), ((.mem
    .STAT_INIT_DONE), 0, 0, 1)]) with now := 1000000000 }, by decide, by decide, by decide, by decide, by decide, by decide⟩,
  ⟨{ (st [((.saf .ISL_STAT_STATE), 13, 0, 0)]) with now := 1000000000 }, by decide, by decide⟩,
  ⟨(st [((.mem .DRAM_ON), 0, 0, 1), ((.mem .STAT_SELFREF), 0, 0, 0)]), by decide, by decide⟩,
  ⟨(st [((.mem .STAT_INIT_CHART), 0, 0, 1), ((.mem .STAT_SELFREF), 0, 0, 0)]), by decide, by decide⟩,
  ⟨.safety, (st [((.saf .ISL_STAT_STATE), 10, 0, 0), ((.mem .FR_SIZE_EN), 0, 0, 0)]), readable_of (by decide), by decide⟩,
  ⟨.safety, (st [((.saf .ISL_STAT_STATE), 10, 0, 0), ((.mem .FR_SIZE_EN), 0, 0, 1)]), readable_of (by decide), by decide⟩,
  ⟨.safety, 0x80000800, (st [((.saf .ISL_STAT_STATE), 10, 0, 0), ((.mem .FR_SIZE_EN), 0, 0, 0)]), reaches_of (by decide), by decide,
    by decide, by decide, by decide⟩⟩

/-- The hypotheses of each clause of `FramesAndSessions` can be met. -/
theorem test_FramesAndSessions_hypotheses :
    (∃ (f : Frame) (s : State), s.Heard f ∧ f.full = true) ∧
    (∃ (f : Frame) (s : State), f.port.val < 2 ∧ f.udp.toNat ∉ (List.range 3).map (s.get (.host .UDP_PORT) ·)) ∧
    (∃ (f : Frame) (s : State), s.Heard f ∧ f.full = false ∧ (frameMagic f.bytes = false ∨ frameLen f.bytes = false)) ∧
    (∃ (f : Frame) (k : Nat) (s : State), s.Sound f ∧ s.sessionOf (fieldOf f.bytes 4 4) = some k ∧ s.frameTag k f.bytes = false) ∧
    (∃ (f : Frame) (k : Nat) (s : State), s.Sound f ∧ s.sessionOf (fieldOf f.bytes 4 4) = some k ∧ s.frameTag k f.bytes = true ∧ fieldOf
      f.bytes 8 4 ≤ s.get (.host .SES_IN) k) ∧
    (∃ (f : Frame) (l : List (BitVec 8)) (k : Nat) (n : Nat) (s : State), s.Sound f ∧ s.sessionOf (fieldOf f.bytes 4 4) = some k ∧
      s.frameTag k f.bytes = true ∧ s.get (.host .SES_IN) k < fieldOf f.bytes 8 4 ∧ fieldOf f.bytes 3 1 = 1 ∧ fieldOf f.bytes 12 2 = n ∧ n
      < 16 ∧ s.frameHeard f = true ∧ (f.bytes.drop 16).take (fieldOf f.bytes 14 2) = l ∧ l.length = 8 + fieldOf l 4 2 ∧ l.length ≤ 264 ∧
      s.get (.host .MB_SEEN) n = 0 ∧ s.get (.host .MB_BUSY) n = 0 ∧ fieldOf l 0 2 ∈ commandCodes) ∧
    (∃ (f : Frame) (l : List (BitVec 8)) (n : Nat) (s : State), s.Sound f ∧ fieldOf f.bytes 4 4 = 0 ∧ fieldOf f.bytes 3 1 = 1 ∧ fieldOf
      f.bytes 12 2 = n ∧ n < 16 ∧ s.frameHeard f = true ∧ (f.bytes.drop 16).take (fieldOf f.bytes 14 2) = l ∧ l.length = 8 + fieldOf l 4 2
      ∧ l.length ≤ 264 ∧ s.get (.host .MB_SEEN) n = 0 ∧ s.get (.host .MB_BUSY) n = 0 ∧ fieldOf l 0 2 ∈ [1, 2, 3]) ∧
    (∃ (f : Frame) (l : List (BitVec 8)) (k : Nat) (n : Nat) (s : State), s.Sound f ∧ s.sessionOf (fieldOf f.bytes 4 4) = some k ∧
      s.frameTag k f.bytes = true ∧ s.get (.host .SES_IN) k < fieldOf f.bytes 8 4 ∧ fieldOf f.bytes 3 1 = 1 ∧ fieldOf f.bytes 12 2 = n ∧ n
      < 16 ∧ s.frameHeard f = true ∧ (f.bytes.drop 16).take (fieldOf f.bytes 14 2) = l ∧ 8 ≤ l.length ∧ s.get (.host .MB_BUSY) n = 1 ∧
      s.get (.host .MB_MTAG) n ≠ fieldOf l 2 2) ∧
    (∃ (p : Fin 4) (n : Fin 16) (h : BitVec 8) (d : List (BitVec 8)) (s : State), s.narrows = true) ∧
    (∃ (p : Fin 4) (n : Fin 16) (h : BitVec 8) (d : List (BitVec 8)) (s : State), s.narrows = true ∧ h.toNat.testBit 7 = true ∧
      h.toNat.testBit 6 = false ∧ d.length ≤ 296) ∧
    (∃ (p : Fin 4) (n : Fin 16) (h : BitVec 8) (d : List (BitVec 8)) (m : Nat) (s : State), s.narrows = true ∧ h.toNat.testBit 7 = false ∧
      h.toNat.testBit 6 = false ∧ s.get (.host .SEG_ON) p.val n.val = 1 ∧ h.toNat % 64 = (s.get (.host .SEG_IX) p.val n.val + 1) % 64 ∧
      s.get (.host .SEG_LEN) p.val n.val = m ∧ m + d.length ≤ 296) ∧
    (∃ (p : Fin 4) (n : Fin 16) (h : BitVec 8) (d : List (BitVec 8)) (l : List (BitVec 8)) (m : Nat) (s : State), s.narrows = true ∧
      h.toNat.testBit 7 = false ∧ h.toNat.testBit 6 = true ∧ s.get (.host .SEG_ON) p.val n.val = 1 ∧ h.toNat % 64 = (s.get (.host .SEG_IX)
      p.val n.val + 1) % 64 ∧ s.get (.host .SEG_LEN) p.val n.val = m ∧ m + d.length ≤ 296 ∧ bytesOf (s.get (.host .SEG_BUF) p.val n.val +
      256 ^ m * leNat d) (m + d.length) = l ∧ fieldOf l 12 2 = n.val ∧ fieldOf l 3 1 = 1) ∧
    (∃ (p : Fin 4) (n : Fin 16) (h : BitVec 8) (d : List (BitVec 8)) (s : State), s.narrows = true ∧ h.toNat.testBit 7 = false ∧ s.get
      (.host .SEG_ON) p.val n.val = 1 ∧ h.toNat % 64 ≠ (s.get (.host .SEG_IX) p.val n.val + 1) % 64) ∧
    (∃ (p : Fin 4) (n : Fin 16) (s : State), s.get (.host .SEG_ON) p.val n.val = 1 ∧ s.get (.host .SEG_AT) p.val n.val + us 50000 ≤ s.now) ∧
    (∃ (n : Fin 16) (lo : BitVec 8) (hi : BitVec 8) (s : State), s.inTurn n.val 1 0 2 (lo.toNat + 256 * hi.toNat) ∧ lo.toNat ≤ hi.toNat ∧
      0x30 ≤ hi.toNat ∧ lo.toNat ≤ 0x34) ∧
    (∃ (n : Fin 16) (role : BitVec 8) (key : BitVec 64) (s : State), s.inTurn n.val 2 0 9 (role.toNat + 256 * key.toNat) ∧ 1 ≤ role.toNat
      ∧ role.toNat ≤ 3 ∧ s.get (.host .BARRED) role.toNat = 0 ∧ s.loginFull role.toNat = false) ∧
    (∃ (n : Fin 16) (role : BitVec 8) (key : BitVec 64) (s : State), s.inTurn n.val 2 0 9 (role.toNat + 256 * key.toNat) ∧ 1 ≤ role.toNat
      ∧ role.toNat ≤ 3 ∧ s.get (.host .BARRED) role.toNat = 1) ∧
    (∃ (n : Fin 16) (heph : BitVec 512) (hsig : BitVec 512) (k : Nat) (s : State), s.inTurn n.val 3 0 128 (heph.toNat + 2 ^ 512 *
      hsig.toNat) ∧ s.get (.host .LG_ON) n.val = 1 ∧ s.now ≤ s.get (.host .LG_AT) n.val + secs 10 ∧ p256On (heph.toNat % 2 ^ 256)
      (heph.toNat / 2 ^ 256) = true ∧ s.signed (s.get (.host .LG_ROLE) n.val) (s.get (.host .LG_KEY) n.val) hsig.toNat (s.loginMsg n.val
      heph.toNat) = true ∧ s.loginFull (s.get (.host .LG_ROLE) n.val) = false ∧ (List.range 4).find? (fun k => s.get (.host .SES_ID) k ==
      0) = some k) ∧
    (∃ (n : Fin 16) (heph : BitVec 512) (hsig : BitVec 512) (s : State), s.inTurn n.val 3 0 128 (heph.toNat + 2 ^ 512 * hsig.toNat) ∧
      s.get (.host .LG_ON) n.val = 1 ∧ s.now ≤ s.get (.host .LG_AT) n.val + secs 10 ∧ s.signed (s.get (.host .LG_ROLE) n.val) (s.get
      (.host .LG_KEY) n.val) hsig.toNat (s.loginMsg n.val heph.toNat) = false) ∧
    (∃ (n : Fin 16) (s : State), s.inTurn n.val 5 1 0 0) ∧
    (∃ (n : Fin 16) (s : State), s.inTurn n.val 4 1 0 0) ∧
    (∃ (k : Fin 4) (aud : Bool) (s : State), s.now < s.get (.host .SES_AT) k.val + idleTmo (s.get (.host .SES_ROLE) k.val)) ∧
    (∃ (k : Fin 4) (aud : Bool) (s : State), s.get (.host .SES_ID) k.val ≠ 0 ∧ s.get (.host .SES_AT) k.val + idleTmo (s.get (.host
      .SES_ROLE) k.val) ≤ s.now) ∧
    (∃ (r : Fin 4) (s : State), s.get (.host .BARRED) r.val = 1 ∧ s.get (.host .FAIL_AT) r.val 0 - 1 + mins 10 ≤ s.now) :=
⟨⟨⟨7, 0, true, []⟩, (st [((.saf .ISL_STAT_STATE), 1, 0, 0)]), ⟨by decide, by decide⟩, by decide⟩,
  ⟨⟨1, 7, false, []⟩, (st [((.saf .ISL_STAT_STATE), 1, 0, 0)]), by decide, by decide⟩,
  ⟨⟨7, 0, false, []⟩, (st [((.saf .ISL_STAT_STATE), 1, 0, 0)]), ⟨by decide, by decide⟩, by decide, by decide⟩,
  ⟨⟨7, 0, false, [78, 87, 48, 1, 1, 0, 0, 0, 1, 0, 0, 0, 15, 0, 8, 0, 5, 0, 7, 0, 0, 0, 0, 0, 253, 67, 108, 238, 128, 240, 73, 71, 155,
    14, 18, 125, 149, 129, 50, 17]⟩, 3, (st [((.saf .ISL_STAT_STATE), 1, 0, 0), ((.host .SES_ID), 3, 0, 1)]), ⟨⟨by decide, by decide⟩,
    by decide, by decide, by decide, by decide⟩, by decide, by decide +kernel⟩,
  ⟨⟨7, 0, false, [78, 87, 48, 1, 1, 0, 0, 0, 0, 0, 0, 0, 15, 0, 8, 0, 5, 0, 7, 0, 0, 0, 0, 0, 102, 95, 241, 166, 202, 224, 112, 4, 7, 67,
    165, 20, 123, 222, 54, 111]⟩, 3, (st [((.saf .ISL_STAT_STATE), 1, 0, 0), ((.host .SES_ID), 3, 0, 1)]), ⟨⟨by decide, by decide⟩,
    by decide, by decide, by decide, by decide⟩, by decide, by decide +kernel, by decide⟩,
  ⟨⟨7, 0, false, [78, 87, 48, 1, 1, 0, 0, 0, 1, 0, 0, 0, 15, 0, 8, 0, 5, 0, 7, 0, 0, 0, 0, 0, 253, 67, 108, 238, 128, 240, 73, 71, 155,
    14, 18, 125, 149, 129, 50, 16]⟩, [5, 0, 7, 0, 0, 0, 0, 0], 3, 15, (st [((.saf .ISL_STAT_STATE), 1, 0, 0), ((.host .SES_ID), 3, 0,
    1)]), ⟨⟨by decide, by decide⟩, by decide, by decide, by decide, by decide⟩, by decide, by decide +kernel, by decide, by decide,
    by decide, by decide, by decide, by decide, by decide, by decide, by decide, by decide, by decide⟩,
  ⟨⟨7, 0, false, [78, 87, 48, 1, 0, 0, 0, 0, 0, 0, 0, 0, 15, 0, 10, 0, 1, 0, 7, 0, 2, 0, 0, 0, 48, 52]⟩, [1, 0, 7, 0, 2, 0, 0, 0, 48, 52],
    15, (st [((.saf .ISL_STAT_STATE), 1, 0, 0)]), ⟨⟨by decide, by decide⟩, by decide, by decide, by decide, by decide⟩, by decide,
    by decide, by decide, by decide, by decide, by decide, by decide, by decide, by decide, by decide, by decide⟩,
  ⟨⟨7, 0, false, [78, 87, 48, 1, 1, 0, 0, 0, 1, 0, 0, 0, 15, 0, 8, 0, 5, 0, 7, 0, 0, 0, 0, 0, 253, 67, 108, 238, 128, 240, 73, 71, 155,
    14, 18, 125, 149, 129, 50, 16]⟩, [5, 0, 7, 0, 0, 0, 0, 0], 3, 15, (st [((.saf .ISL_STAT_STATE), 1, 0, 0), ((.host .SES_ID), 3, 0, 1),
    ((.host .MB_BUSY), 15, 0, 1)]), ⟨⟨by decide, by decide⟩, by decide, by decide, by decide, by decide⟩, by decide, by decide +kernel,
    by decide, by decide, by decide, by decide, by decide, by decide, by decide, by decide, by decide⟩,
  ⟨3, 15, 0x80, [1], (st [((.saf .ISL_STAT_STATE), 1, 0, 0)]), by decide⟩,
  ⟨3, 15, 0x80, [1], (st [((.saf .ISL_STAT_STATE), 1, 0, 0)]), by decide, by decide, by decide, by decide⟩,
  ⟨3, 15, 0x01, [1], 3, (st [((.saf .ISL_STAT_STATE), 1, 0, 0), ((.host .SEG_ON), 3, 15, 1), ((.host .SEG_LEN), 3, 15, 3)]), by decide,
    by decide, by decide, by decide, by decide, by decide, by decide⟩,
  ⟨3, 15, 0x41, [1, 0, 0, 0, 0, 0, 0, 0, 0, 15, 0], _, 3, (st [((.saf .ISL_STAT_STATE), 1, 0, 0), ((.host .SEG_ON), 3, 15, 1), ((.host
    .SEG_LEN), 3, 15, 3)]), by decide, by decide, by decide, by decide, by decide, by decide, by decide, rfl, by decide, by decide⟩,
  ⟨3, 15, 0x02, [1], (st [((.saf .ISL_STAT_STATE), 1, 0, 0), ((.host .SEG_ON), 3, 15, 1)]), by decide, by decide, by decide, by decide⟩,
  ⟨3, 15, { (st [((.host .SEG_ON), 3, 15, 1)]) with now := 10000000000 }, by decide, by decide⟩,
  ⟨15, 0x30, 0x30, (st [((.saf .ISL_STAT_STATE), 1, 0, 0), ((.host .MB_BUSY), (15 : Fin 16).val, 0, 1), ((.host .MB_CODE), (15 : Fin
    16).val, 0, 1), ((.host .MB_PLEN), (15 : Fin 16).val, 0, 2), ((.host .MB_PARAM), 15, 0, 12336)]), inTurn_of (by decide +kernel),
    by decide, by decide, by decide⟩,
  ⟨15, 3, 0, (st [((.saf .ISL_STAT_STATE), 1, 0, 0), ((.host .MB_BUSY), (15 : Fin 16).val, 0, 1), ((.host .MB_CODE), (15 : Fin 16).val, 0,
    2), ((.host .MB_PLEN), (15 : Fin 16).val, 0, 9), ((.host .BARRED), (3 : BitVec 8).toNat, 0, 0), ((.host .MB_PARAM), 15, 0, 3)]),
    inTurn_of (by decide +kernel), by decide, by decide, by decide +kernel, by decide +kernel⟩,
  ⟨15, 3, 0, (st [((.saf .ISL_STAT_STATE), 1, 0, 0), ((.host .MB_BUSY), (15 : Fin 16).val, 0, 1), ((.host .MB_CODE), (15 : Fin 16).val, 0,
    2), ((.host .MB_PLEN), (15 : Fin 16).val, 0, 9), ((.host .BARRED), (3 : BitVec 8).toNat, 0, 1), ((.host .MB_PARAM), 15, 0, 3)]),
    inTurn_of (by decide +kernel), by decide, by decide, by decide +kernel⟩,
  ⟨15,
    4184060411307550467377986582390148259921008763507122109671278965834448380445991407126911988662496871210381482036860075396881441336262555845359699213468310,
    13179105963718974454615703312409847019187649829168498085843553520064085596746737905999367237557879316077859644874930456353370668233426722838730850954691222,
    0, (st [((.saf .ISL_STAT_STATE), 1, 0, 0), ((.host .MB_BUSY), 15, 0, 1), ((.host .MB_CODE), 15, 0, 3), ((.host .MB_PLEN), 15, 0, 128),
    ((.host .LG_ON), 15, 0, 1), ((.host .LG_ROLE), 15, 0, 1), ((.host .LG_EPH), 15, 0, 1), ((.host .KEY_ROLE), 12, 0, 1), ((.host .KEY_X),
    12, 0, p256Gx), ((.host .KEY_Y), 12, 0, p256Gy), ((.host .MB_PARAM), 15, 0,
    176702921449905039076725118369394620373807995555262447324826851215576917477913150345152706572014491181801333173416862008291084864649224912882421185031538125146508728499781402370726105393593251078073252368637215159301723121567211855576252443091047357143360776184515550373821177305153882219651766458810258473622)]),
    inTurn_of (by decide +kernel), by decide +kernel, by decide +kernel, by decide +kernel, by decide +kernel, by decide +kernel,
    by decide +kernel⟩,
  ⟨15, 5, 7, (st [((.saf .ISL_STAT_STATE), 1, 0, 0), ((.host .MB_BUSY), 15, 0, 1), ((.host .MB_CODE), 15, 0, 3), ((.host .MB_PLEN), 15, 0,
    128), ((.host .LG_ON), 15, 0, 1), ((.host .LG_ROLE), 15, 0, 1), ((.host .LG_EPH), 15, 0, 1), ((.host .KEY_ROLE), 12, 0, 1), ((.host
    .KEY_X), 12, 0, p256Gx), ((.host .KEY_Y), 12, 0, p256Gy), ((.host .MB_PARAM), 15, 0,
    93854655509598179697018174987440922892355560744146753644064930106052348210514828837613120087168323993830223007305402355976277179683625989625035543042588677)]),
    inTurn_of (by decide +kernel), by decide +kernel, by decide +kernel, by decide +kernel⟩,
  ⟨15, (st [((.saf .ISL_STAT_STATE), 1, 0, 0), ((.host .MB_BUSY), (15 : Fin 16).val, 0, 1), ((.host .MB_CODE), (15 : Fin 16).val, 0, 5),
    ((.host .MB_PLEN), (15 : Fin 16).val, 0, 0), ((.host .MB_SES), (15 : Fin 16).val, 0, 4), ((.host .SES_ID), 3, 0, 1), ((.host
    .SES_ROLE), 3, 0, 1)]), inTurn_of (by decide)⟩,
  ⟨15, (st [((.saf .ISL_STAT_STATE), 1, 0, 0), ((.host .MB_BUSY), (15 : Fin 16).val, 0, 1), ((.host .MB_CODE), (15 : Fin 16).val, 0, 4),
    ((.host .MB_PLEN), (15 : Fin 16).val, 0, 0), ((.host .MB_SES), (15 : Fin 16).val, 0, 4), ((.host .SES_ID), 3, 0, 1), ((.host
    .SES_ROLE), 3, 0, 1)]), inTurn_of (by decide)⟩,
  ⟨3, true, .reset, by decide⟩,
  ⟨3, true, { (st [((.host .SES_ID), (3 : Fin 4).val, 0, 1)]) with now := secs 600 }, by decide, by decide⟩,
  ⟨3, { (st [((.host .BARRED), (3 : Fin 4).val, 0, 1)]) with now := mins 10 }, by decide, by decide⟩⟩

/-- The hypotheses of each clause of `HostDrive` can be met. -/
theorem test_HostDrive_hypotheses :
    (∃ (s : State), s.inTurn 0 0x0102 1 0 0 ∧ s.settled) ∧
    (∃ (p : Pins) (aud : Bool) (s : State), s.inTurn 0 0x0101 1 1 6 ∧ s.settled) ∧
    (∃ (tgt : BitVec 8) (p : Pins) (s : State), s.inTurn 0 0x0101 1 1 tgt.toNat ∧ tgt.toNat ≤ 5 ∧ ((tgt.toNat = 5 → 2 ≤ s.mbRole 0)) ∧
      s.get (.saf .AXLE_MODE_MODE) ≠ 4 ∧ s.modeReply tgt.toNat (s.mbRole 0) p = .started) ∧
    (∃ (tgt : BitVec 8) (p : Pins) (s : State), s.inTurn 0 0x0101 1 1 tgt.toNat ∧ tgt.toNat ≤ 5 ∧ ((tgt.toNat = 5 → 2 ≤ s.mbRole 0)) ∧
      s.get (.saf .AXLE_MODE_MODE) ≠ 4 ∧ s.modeReply tgt.toNat (s.mbRole 0) p = .refused) ∧
    (∃ (p : Pins) (s : State), s.inTurn 0 0x0103 1 0 0 ∧ s.get (.saf .AXLE_MODE_MODE) = 0 ∧ s.get (.saf .AXLE_MODE_BUSY) = 0 ∧ s.get (.sns
      .CP_STAT_STATE) ≤ 1 ∧ p.coupler = false ∧ p.line = false ∧ p.wake = false ∧ s.get (.aon .LADDER_STAT_MOVING) = 0) ∧
    (∃ (n : Fin 16) (ca : Half) (da : BitVec 8) (cb : Half) (db : BitVec 8) (al : BitVec 8) (s : State), s.inTurn n.val 0x0201 1 7
      (packFields [(ca.toNat, 2), (da.toNat, 1), (cb.toNat, 2), (db.toNat, 1), (al.toNat, 1)]) ∧ ca.toNat ≤ 0x7FFF ∧ cb.toNat ≤ 0x7FFF ∧
      da.toNat ≤ 1 ∧ db.toNat ≤ 1 ∧ s.get (.saf .AXLE_MODE_MODE) = 2 ∧ s.get (.host .DRV_ALIVE) ≠ al.toNat + 1) ∧
    (∃ (n : Fin 16) (ca : Half) (da : BitVec 8) (cb : Half) (db : BitVec 8) (al : BitVec 8) (s : State), s.inTurn n.val 0x0201 1 7
      (packFields [(ca.toNat, 2), (da.toNat, 1), (cb.toNat, 2), (db.toNat, 1), (al.toNat, 1)]) ∧ ca.toNat ≤ 0x7FFF ∧ cb.toNat ≤ 0x7FFF ∧
      da.toNat ≤ 1 ∧ db.toNat ≤ 1 ∧ s.get (.saf .AXLE_MODE_MODE) = 1) ∧
    (∃ (n : Fin 16) (spd : Half) (odo : Word) (al : BitVec 8) (s : State), s.inTurn n.val 0x0202 1 7 (packFields [(spd.toNat, 2),
      (odo.toNat, 4), (al.toNat, 1)])) ∧
    (∃ (n : Fin 16) (tgt : BitVec 8) (s : State), s.inTurn n.val 0x0203 1 1 tgt.toNat ∧ s.shiftRefusal tgt.toNat = none) ∧
    (∃ (n : Fin 16) (tgt : BitVec 8) (s : State), s.inTurn n.val 0x0203 1 1 tgt.toNat ∧ s.get (.drv .GB_BUSY) = 1) ∧
    (∃ (n : Fin 16) (v : BitVec 8) (s : State), s.inTurn n.val 0x0204 1 1 v.toNat ∧ v.toNat ≤ 1 ∧ s.parkRefusal (v.toNat == 1) = none) :=
⟨⟨(st [((.saf .ISL_STAT_STATE), 1, 0, 0), ((.host .MB_BUSY), 0, 0, 1), ((.host .MB_CODE), 0, 0, 0x0102), ((.host .MB_PLEN), 0, 0, 0),
    ((.host .MB_SES), 0, 0, 4), ((.host .SES_ID), 3, 0, 1), ((.host .SES_ROLE), 3, 0, 1)]), inTurn_of (by decide), ⟨by decide, by decide⟩⟩,
  ⟨⟨false, false, false, false, false⟩, true, (st [((.saf .ISL_STAT_STATE), 1, 0, 0), ((.host .MB_BUSY), 0, 0, 1), ((.host .MB_CODE), 0,
    0, 0x0101), ((.host .MB_PLEN), 0, 0, 1), ((.host .MB_PARAM), 0, 0, 6), ((.host .MB_SES), 0, 0, 4), ((.host .SES_ID), 3, 0, 1), ((.host
    .SES_ROLE), 3, 0, 1)]), inTurn_of (by decide +kernel), ⟨by decide +kernel, by decide +kernel⟩⟩,
  ⟨1, ⟨false, false, false, false, false⟩, (st [((.saf .ISL_STAT_STATE), 1, 0, 0), ((.host .MB_BUSY), 0, 0, 1), ((.host .MB_CODE), 0, 0,
    0x0101), ((.host .MB_PLEN), 0, 0, 1), ((.host .MB_PARAM), 0, 0, 1), ((.host .MB_SES), 0, 0, 4), ((.host .SES_ID), 3, 0, 1), ((.host
    .SES_ROLE), 3, 0, 1), ((.saf .AXLE_MODE_MODE), 0, 0, 5)]), inTurn_of (by decide +kernel), by decide, by decide, by decide +kernel,
    by decide +kernel⟩,
  ⟨0, ⟨false, false, false, false, false⟩, (st [((.saf .ISL_STAT_STATE), 1, 0, 0), ((.host .MB_BUSY), 0, 0, 1), ((.host .MB_CODE), 0, 0,
    0x0101), ((.host .MB_PLEN), 0, 0, 1), ((.host .MB_SES), 0, 0, 4), ((.host .SES_ID), 3, 0, 1), ((.host .SES_ROLE), 3, 0, 1)]),
    inTurn_of (by decide), by decide, by decide, by decide, by decide⟩,
  ⟨⟨false, false, false, false, false⟩, (st [((.saf .ISL_STAT_STATE), 1, 0, 0), ((.host .MB_BUSY), 0, 0, 1), ((.host .MB_CODE), 0, 0,
    0x0103), ((.host .MB_PLEN), 0, 0, 0), ((.host .MB_SES), 0, 0, 4), ((.host .SES_ID), 3, 0, 1), ((.host .SES_ROLE), 3, 0, 1), ((.saf
    .AXLE_MODE_MODE), 0, 0, 0), ((.saf .AXLE_MODE_BUSY), 0, 0, 0), ((.aon .LADDER_STAT_MOVING), 0, 0, 0)]), inTurn_of (by decide),
    by decide, by decide, by decide, by decide, by decide, by decide, by decide⟩,
  ⟨15, 0, 0, 0, 0, 1, (st [((.saf .ISL_STAT_STATE), 1, 0, 0), ((.host .MB_BUSY), (15 : Fin 16).val, 0, 1), ((.host .MB_CODE), (15 : Fin
    16).val, 0, 0x0201), ((.host .MB_PLEN), (15 : Fin 16).val, 0, 7), ((.host .MB_PARAM), 15, 0, 281474976710656), ((.host .MB_SES), (15 :
    Fin 16).val, 0, 4), ((.host .SES_ID), 3, 0, 1), ((.host .SES_ROLE), 3, 0, 1), ((.saf .AXLE_MODE_MODE), 0, 0, 2)]), inTurn_of
    (by decide +kernel), by decide, by decide, by decide, by decide, by decide +kernel, by decide +kernel⟩,
  ⟨15, 0, 0, 0, 0, 0, (st [((.saf .ISL_STAT_STATE), 1, 0, 0), ((.host .MB_BUSY), (15 : Fin 16).val, 0, 1), ((.host .MB_CODE), (15 : Fin
    16).val, 0, 0x0201), ((.host .MB_PLEN), (15 : Fin 16).val, 0, 7), ((.host .MB_SES), (15 : Fin 16).val, 0, 4), ((.host .SES_ID), 3, 0,
    1), ((.host .SES_ROLE), 3, 0, 1), ((.saf .AXLE_MODE_MODE), 0, 0, 1)]), inTurn_of (by decide), by decide, by decide, by decide,
    by decide, by decide⟩,
  ⟨15, 0, 0, 5, (st [((.saf .ISL_STAT_STATE), 1, 0, 0), ((.host .MB_BUSY), (15 : Fin 16).val, 0, 1), ((.host .MB_CODE), (15 : Fin 16).val,
    0, 0x0202), ((.host .MB_PLEN), (15 : Fin 16).val, 0, 7), ((.host .MB_PARAM), 15, 0, 1407374883553280), ((.host .MB_SES), (15 : Fin
    16).val, 0, 4), ((.host .SES_ID), 3, 0, 1), ((.host .SES_ROLE), 3, 0, 1)]), inTurn_of (by decide +kernel)⟩,
  ⟨15, 1, (stm [((.saf .ISL_STAT_STATE), 1, 0, 0), ((.host .MB_BUSY), (15 : Fin 16).val, 0, 1), ((.host .MB_CODE), (15 : Fin 16).val, 0,
    0x0203), ((.host .MB_PLEN), (15 : Fin 16).val, 0, 1), ((.host .MB_PARAM), 15, 0, 1), ((.host .MB_SES), (15 : Fin 16).val, 0, 4),
    ((.host .SES_ID), 3, 0, 1), ((.host .SES_ROLE), 3, 0, 1), ((.drv .PL_STATE), 0, 0, 0), ((.saf .AXLE_MODE_MODE), 0, 0, 1), ((.drv
    .VEH_AT), 0, 0, 1)] [(0, 1, 1), (1, 1, 1), (0x16, 0, 2), (0x18, 1, 2), (0x1A, 2, 2), (0x1C, 0, 2), (0x1E, 1, 2), (0x20, 2, 2), (0x36,
    500, 2), (0x38, 1, 2), (0x3C, 10, 2), (0x3E, 5, 1), (0x4E, 5, 1), (0x4F, 5, 1)]), inTurn_of (by decide +kernel), by decide +kernel⟩,
  ⟨15, 0, (st [((.saf .ISL_STAT_STATE), 1, 0, 0), ((.host .MB_BUSY), (15 : Fin 16).val, 0, 1), ((.host .MB_CODE), (15 : Fin 16).val, 0,
    0x0203), ((.host .MB_PLEN), (15 : Fin 16).val, 0, 1), ((.host .MB_SES), (15 : Fin 16).val, 0, 4), ((.host .SES_ID), 3, 0, 1), ((.host
    .SES_ROLE), 3, 0, 1), ((.drv .GB_BUSY), 0, 0, 1)]), inTurn_of (by decide), by decide⟩,
  ⟨15, 0, (stm [((.saf .ISL_STAT_STATE), 1, 0, 0), ((.host .MB_BUSY), (15 : Fin 16).val, 0, 1), ((.host .MB_CODE), (15 : Fin 16).val, 0,
    0x0204), ((.host .MB_PLEN), (15 : Fin 16).val, 0, 1), ((.host .MB_SES), (15 : Fin 16).val, 0, 4), ((.host .SES_ID), 3, 0, 1), ((.host
    .SES_ROLE), 3, 0, 1)] [(0, 1, 1), (1, 1, 1), (0x16, 0, 2), (0x18, 1, 2), (0x1A, 2, 2), (0x1C, 0, 2), (0x1E, 1, 2), (0x20, 2, 2),
    (0x36, 500, 2), (0x38, 1, 2), (0x3C, 10, 2), (0x3E, 5, 1), (0x4E, 5, 1), (0x4F, 5, 1)]), inTurn_of (by decide), by decide, by decide⟩⟩

/-- The hypotheses of each clause of `HostStatus` can be met. -/
theorem test_HostStatus_hypotheses :
    (∃ (n : Fin 16) (b : BitVec 8) (s : State), s.inTurn n.val 0x0301 1 1 b.toNat ∧ b.toNat ≤ 5) ∧
    (∃ (n : Fin 16) (b : BitVec 8) (s : State), s.inTurn n.val 0x0301 1 1 b.toNat ∧ 5 < b.toNat) ∧
    (∃ (n : Fin 16) (m : BitVec 8) (p : Half) (q : Half) (k : Nat) (s : State), s.inTurn n.val 0x0302 1 5 (packFields [(m.toNat, 1),
      (p.toNat, 2), (q.toNat, 2)]) ∧ m.toNat ≤ 0x3F ∧ 10 ≤ p.toNat ∧ p.toNat ≤ 10000 ∧ s.mbSession n.val = k + 1) ∧
    (∃ (k : Fin 4) (s : State), s.get (.host .SUB_PERIOD) k.val = 0) ∧
    (∃ (k : Fin 4) (s : State), s.narrows = true ∧ s.get (.host .SES_ID) k.val ≠ 0 ∧ s.get (.host .SUB_PERIOD) k.val ≠ 0 ∧ s.get (.host
      .SUB_MASK) k.val = 1 ∧ s.get (.mem .FR_SEQ) = s.get (.host .SUB_SEQ) k.val ∧ s.get (.host .SUB_AT) k.val + us (1000 * s.get (.host
      .SUB_PERIOD) k.val) ≤ s.now) ∧
    (∃ (n : Fin 16) (s : State), s.inTurn n.val 0x0303 1 0 0) ∧
    (∃ (n : Fin 16) (s : State), s.inTurn n.val 0x0401 1 0 0 ∧ s.chgRunning = false ∧ s.get (.saf .AXLE_MODE_MODE) = 3 ∧ s.get (.saf
      .AXLE_MODE_BUSY) = 0 ∧ s.get (.drv .CH_COUPLER) = 1 ∧ s.chgBad = none) ∧
    (∃ (n : Fin 16) (s : State), s.inTurn n.val 0x0402 1 0 0 ∧ s.chgRunning = true ∧ s.get (.drv .CH_END) = 0) ∧
    (∃ (n : Fin 16) (v : BitVec 8) (s : State), s.inTurn n.val 0x0403 1 1 v.toNat ∧ v.toNat ≤ 1 ∧ s.chgRunning = true) ∧
    (∃ (n : Fin 16) (s : State), s.inTurn n.val 0x0501 1 0 0) ∧
    (∃ (n : Fin 16) (s : State), s.inTurn n.val 0x0502 2 3 8) ∧
    (∃ (n : Fin 16) (aud : Bool) (s : State), s.inTurn n.val 0x0502 1 3 8 ∧ s.mbRole n.val = 1) ∧
    (∃ (n : Fin 16) (i : BitVec 8) (ix : Half) (aud : Bool) (s : State), s.inTurn n.val 0x0502 1 3 (i.toNat + 256 * ix.toNat) ∧
      itemIndices i.toNat ≤ ix.toNat) :=
⟨⟨15, 0, (st [((.saf .ISL_STAT_STATE), 1, 0, 0), ((.host .MB_BUSY), (15 : Fin 16).val, 0, 1), ((.host .MB_CODE), (15 : Fin 16).val, 0,
    0x0301), ((.host .MB_PLEN), (15 : Fin 16).val, 0, 1), ((.host .MB_SES), (15 : Fin 16).val, 0, 4), ((.host .SES_ID), 3, 0, 1), ((.host
    .SES_ROLE), 3, 0, 1)]), inTurn_of (by decide), by decide⟩,
  ⟨15, 6, (st [((.saf .ISL_STAT_STATE), 1, 0, 0), ((.host .MB_BUSY), (15 : Fin 16).val, 0, 1), ((.host .MB_CODE), (15 : Fin 16).val, 0,
    0x0301), ((.host .MB_PLEN), (15 : Fin 16).val, 0, 1), ((.host .MB_PARAM), 15, 0, 6), ((.host .MB_SES), (15 : Fin 16).val, 0, 4),
    ((.host .SES_ID), 3, 0, 1), ((.host .SES_ROLE), 3, 0, 1)]), inTurn_of (by decide +kernel), by decide⟩,
  ⟨15, 0, 10, 0, 3, (st [((.saf .ISL_STAT_STATE), 1, 0, 0), ((.host .MB_BUSY), (15 : Fin 16).val, 0, 1), ((.host .MB_CODE), (15 : Fin
    16).val, 0, 0x0302), ((.host .MB_PLEN), (15 : Fin 16).val, 0, 5), ((.host .MB_PARAM), 15, 0, 2560), ((.host .MB_SES), (15 : Fin
    16).val, 0, 4), ((.host .SES_ID), 3, 0, 1), ((.host .SES_ROLE), 3, 0, 1)]), inTurn_of (by decide +kernel), by decide, by decide,
    by decide, by decide +kernel⟩,
  ⟨3, (st [((.host .SUB_PERIOD), (3 : Fin 4).val, 0, 0)]), by decide⟩,
  ⟨3, { (st [((.saf .ISL_STAT_STATE), 1, 0, 0), ((.host .SES_ID), 3, 0, 1), ((.host .SUB_PERIOD), 3, 0, 1), ((.host .SUB_MASK), 3, 0, 1)])
    with now := 1000000000 }, by decide, by decide, by decide, by decide, by decide, by decide⟩,
  ⟨15, (st [((.saf .ISL_STAT_STATE), 1, 0, 0), ((.host .MB_BUSY), (15 : Fin 16).val, 0, 1), ((.host .MB_CODE), (15 : Fin 16).val, 0,
    0x0303), ((.host .MB_PLEN), (15 : Fin 16).val, 0, 0), ((.host .MB_SES), (15 : Fin 16).val, 0, 4), ((.host .SES_ID), 3, 0, 1), ((.host
    .SES_ROLE), 3, 0, 1)]), inTurn_of (by decide)⟩,
  ⟨15, (stm [((.saf .ISL_STAT_STATE), 1, 0, 0), ((.host .MB_BUSY), (15 : Fin 16).val, 0, 1), ((.host .MB_CODE), (15 : Fin 16).val, 0,
    0x0401), ((.host .MB_PLEN), (15 : Fin 16).val, 0, 0), ((.host .MB_SES), (15 : Fin 16).val, 0, 4), ((.host .SES_ID), 3, 0, 1), ((.host
    .SES_ROLE), 3, 0, 1), ((.saf .AXLE_MODE_MODE), 0, 0, 3), ((.saf .AXLE_MODE_BUSY), 0, 0, 0), ((.drv .CH_COUPLER), 0, 0, 1)] [(8, 20,
    2), (0x0C, 1, 2), (0x0F, 1, 1), (0x3A, 10, 2), (0x40, 5, 2)]), inTurn_of (by decide), by decide, by decide, by decide, by decide,
    by decide⟩,
  ⟨15, (st [((.saf .ISL_STAT_STATE), 1, 0, 0), ((.host .MB_BUSY), (15 : Fin 16).val, 0, 1), ((.host .MB_CODE), (15 : Fin 16).val, 0,
    0x0402), ((.host .MB_PLEN), (15 : Fin 16).val, 0, 0), ((.host .MB_SES), (15 : Fin 16).val, 0, 4), ((.host .SES_ID), 3, 0, 1), ((.host
    .SES_ROLE), 3, 0, 1), ((.drv .CH_END), 0, 0, 0), ((.drv .CH_STATE), 0, 0, 2)]), inTurn_of (by decide), by decide, by decide⟩,
  ⟨15, 0, (st [((.saf .ISL_STAT_STATE), 1, 0, 0), ((.host .MB_BUSY), (15 : Fin 16).val, 0, 1), ((.host .MB_CODE), (15 : Fin 16).val, 0,
    0x0403), ((.host .MB_PLEN), (15 : Fin 16).val, 0, 1), ((.host .MB_SES), (15 : Fin 16).val, 0, 4), ((.host .SES_ID), 3, 0, 1), ((.host
    .SES_ROLE), 3, 0, 1), ((.drv .CH_STATE), 0, 0, 2)]), inTurn_of (by decide), by decide, by decide⟩,
  ⟨15, (st [((.saf .ISL_STAT_STATE), 1, 0, 0), ((.host .MB_BUSY), (15 : Fin 16).val, 0, 1), ((.host .MB_CODE), (15 : Fin 16).val, 0,
    0x0501), ((.host .MB_PLEN), (15 : Fin 16).val, 0, 0), ((.host .MB_SES), (15 : Fin 16).val, 0, 4), ((.host .SES_ID), 3, 0, 1), ((.host
    .SES_ROLE), 3, 0, 1)]), inTurn_of (by decide)⟩,
  ⟨15, (st [((.saf .ISL_STAT_STATE), 1, 0, 0), ((.host .MB_BUSY), (15 : Fin 16).val, 0, 1), ((.host .MB_CODE), (15 : Fin 16).val, 0,
    0x0502), ((.host .MB_PLEN), (15 : Fin 16).val, 0, 3), ((.host .MB_PARAM), 15, 0, 8), ((.host .MB_SES), (15 : Fin 16).val, 0, 4),
    ((.host .SES_ID), 3, 0, 1), ((.host .SES_ROLE), 3, 0, 2)]), inTurn_of (by decide +kernel)⟩,
  ⟨15, true, (st [((.saf .ISL_STAT_STATE), 1, 0, 0), ((.host .MB_BUSY), (15 : Fin 16).val, 0, 1), ((.host .MB_CODE), (15 : Fin 16).val, 0,
    0x0502), ((.host .MB_PLEN), (15 : Fin 16).val, 0, 3), ((.host .MB_PARAM), 15, 0, 8), ((.host .MB_SES), (15 : Fin 16).val, 0, 4),
    ((.host .SES_ID), 3, 0, 1), ((.host .SES_ROLE), 3, 0, 1)]), inTurn_of (by decide +kernel), by decide +kernel⟩,
  ⟨15, 0, 0, true, (st [((.saf .ISL_STAT_STATE), 1, 0, 0), ((.host .MB_BUSY), (15 : Fin 16).val, 0, 1), ((.host .MB_CODE), (15 : Fin
    16).val, 0, 0x0502), ((.host .MB_PLEN), (15 : Fin 16).val, 0, 3), ((.host .MB_SES), (15 : Fin 16).val, 0, 4), ((.host .SES_ID), 3, 0,
    1), ((.host .SES_ROLE), 3, 0, 1)]), inTurn_of (by decide), by decide⟩⟩

/-- The hypotheses of each clause of `HostPackages` can be met. -/
theorem test_HostPackages_hypotheses :
    (∃ (n : Fin 16) (k : BitVec 8) (z : BitVec 64) (s : State), s.inTurn n.val 0x0701 2 9 (k.toNat + 256 * z.toNat) ∧ k.toNat ≤ 1 ∧
      k.toNat ≠ s.get (.host .SLOT_PTR) ∧ z.toNat ≤ 142606336 ∧ s.stagedCode = 0) ∧
    (∃ (n : Fin 16) (k : BitVec 8) (z : BitVec 64) (c : Nat) (s : State), s.inTurn n.val 0x0701 2 9 (k.toNat + 256 * z.toNat) ∧ k.toNat ≤
      1 ∧ k.toNat ≠ s.get (.host .SLOT_PTR) ∧ z.toNat ≤ 142606336 ∧ s.stagedCode = c ∧ c ≠ 0) ∧
    (∃ (n : Fin 16) (k : BitVec 8) (z : BitVec 64) (aud : Bool) (s : State), s.inTurn n.val 0x0701 2 9 (k.toNat + 256 * z.toNat) ∧ k.toNat
      = s.get (.host .SLOT_PTR)) ∧
    (∃ (n : Fin 16) (k : BitVec 8) (s : State), s.inTurn n.val 0x0702 2 1 k.toNat ∧ k.toNat ≤ 1 ∧ s.get (.host .ACT_ON) = 0 ∧
      s.activationOk = true ∧ s.get (.host .PKG_FULL) k.toNat = 1) ∧
    (∃ (n : Fin 16) (k : BitVec 8) (aud : Bool) (s : State), s.inTurn n.val 0x0702 2 1 k.toNat ∧ k.toNat ≤ 1 ∧ s.get (.host .ACT_ON) = 0 ∧
      s.activationOk = false) ∧
    (∃ (n : Fin 16) (s : State), s.inTurn n.val 0x0703 2 0 0 ∧ s.get (.loop .CHART_STAT_LOADED) = 1) ∧
    (∃ (n : Fin 16) (s : State), s.inTurn n.val 0x0704 1 0 0) ∧
    (∃ (n : Fin 16) (i : Fin 4) (q : BitVec 8) (off : Half) (d : List (BitVec 8)) (s : State), 1 ≤ d.length ∧ d.length ≤ 253 ∧ s.inTurn
      n.val 0x0801 2 (3 + d.length) (q.toNat + 256 * (off.toNat + 65536 * leNat d)) ∧ leNat d ≤ s.get (.host .LIM_MAKER) i.val) ∧
    (∃ (n : Fin 16) (i : Fin 4) (q : BitVec 8) (off : Half) (d : List (BitVec 8)) (aud : Bool) (s : State), 1 ≤ d.length ∧ d.length ≤ 253
      ∧ s.inTurn n.val 0x0801 2 (3 + d.length) (q.toNat + 256 * (off.toNat + 65536 * leNat d)) ∧ s.get (.host .LIM_MAKER) i.val < leNat d) ∧
    (∃ (n : Fin 16) (i : Fin 6) (q : BitVec 8) (off : Half) (d : List (BitVec 8)) (a : Nat) (s : State), 1 ≤ d.length ∧ d.length ≤ 253 ∧
      s.inTurn n.val 0x0801 2 (3 + d.length) (q.toNat + 256 * (off.toNat + 65536 * leNat d)) ∧ s.get (.drv .REC_ADDR) i.val ≠ 0 ∧
      off.toNat + d.length ≤ recordSize i.val ∧ s.get (.drv .REC_ADDR) i.val + off.toNat = a) ∧
    (∃ (n : Fin 16) (i : Fin 3) (q : BitVec 8) (off : Half) (d : List (BitVec 8)) (s : State), 1 ≤ d.length ∧ d.length ≤ 253 ∧ s.inTurn
      n.val 0x0801 2 (3 + d.length) (q.toNat + 256 * (off.toNat + 65536 * leNat d))) ∧
    (∃ (n : Fin 16) (l : BitVec 8) (v : Word) (s : State), s.inTurn n.val 0x0802 1 5 (l.toNat + 256 * v.toNat) ∧ l.toNat ≤ 3 ∧ v.toNat ≤
      s.get (.host .LIM_INST) l.toNat) ∧
    (∃ (n : Fin 16) (l : BitVec 8) (v : Word) (s : State), s.inTurn n.val 0x0802 1 5 (l.toNat + 256 * v.toNat) ∧ l.toNat ≤ 3 ∧ v.toNat ≤
      s.get (.host .LIM_INST) l.toNat) ∧
    (∃ (n : Fin 16) (l : BitVec 8) (v : Word) (aud : Bool) (s : State), s.inTurn n.val 0x0802 1 5 (l.toNat + 256 * v.toNat) ∧ l.toNat ≤ 3
      ∧ s.get (.host .LIM_INST) l.toNat < v.toNat) ∧
    (∃ (n : Fin 16) (l : BitVec 8) (v : Word) (s : State), s.inTurn n.val 0x0A06 3 5 (l.toNat + 256 * v.toNat) ∧ l.toNat ≤ 3) ∧
    (∃ (n : Fin 16) (e : BitVec 8) (img : List Word) (s : State), s.inTurn n.val 0x0803 2 21 (e.toNat + 256 * packFields (img.map (fun w
      => (w.toNat, 4)))) ∧ e.toNat ≤ 15 ∧ s.get (.saf .AXLE_MODE_MODE) = 5) ∧
    (∃ (n : Fin 16) (e : BitVec 8) (img : List Word) (aud : Bool) (s : State), s.inTurn n.val 0x0803 2 21 (e.toNat + 256 * packFields
      (img.map (fun w => (w.toNat, 4)))) ∧ e.toNat ≤ 15 ∧ s.get (.saf .AXLE_MODE_MODE) ≠ 5) ∧
    (∃ (n : Fin 16) (a : Word) (c : Word) (s : State), s.inTurn n.val 0x0804 1 8 (a.toNat + 2 ^ 32 * c.toNat) ∧ c.toNat ≤ 65536) ∧
    (∃ (n : Fin 16) (st : BitVec 8) (s : State), s.get (.host .MB_RUN) n.val = 0) ∧
    (∃ (n : Fin 16) (st : BitVec 8) (s : State), s.narrows = true ∧ s.get (.host .MB_RUN) n.val = 1 ∧ s.get (.host .MB_CODE) n.val =
      0x0204 ∧ s.get (.drv .PL_MOVE) = 0) ∧
    (∃ (n : Fin 16) (s : State), s.narrows = true ∧ s.get (.host .MB_RUN) n.val = 1 ∧ s.get (.host .MB_CODE) n.val ≠ 0x0805) ∧
    (∃ (a : ActStep) (s : State), s.nextStep a.step.val = false) ∧
    (∃ (a : ActStep) (s : State), s.get (.host .ACT_ON) = 1 ∧ s.get (.host .ACT_STEP) = 1 ∧ a.step = 2 ∧ s.headerCode (slotAddr (s.get
      (.host .ACT_SLOT))) = 0) ∧
    (∃ (a : ActStep) (s : State), s.get (.host .ACT_ON) = 1 ∧ s.get (.host .ACT_STEP) = 4 ∧ a.step = 5 ∧ s.get (.host .ACT_KIND) = 0) ∧
    (∃ (a : ActStep) (s : State), s.get (.host .ACT_ON) = 1 ∧ s.get (.host .ACT_STEP) = 6 ∧ a.step = 7) :=
⟨⟨15, 1, 0, (stm [((.saf .ISL_STAT_STATE), 1, 0, 0), ((.host .MB_BUSY), 15, 0, 1), ((.host .MB_CODE), 15, 0, 0x0701), ((.host .MB_PLEN),
    15, 0, 9), ((.host .MB_PARAM), 15, 0, 1), ((.host .MB_SES), 15, 0, 4), ((.host .SES_ID), 3, 0, 1), ((.host .SES_ROLE), 3, 0, 2),
    ((.host .KEY_ROLE), 4, 0, 2), ((.host .KEY_X), 4, 0, p256Gx), ((.host .KEY_Y), 4, 0, p256Gy)] [(6979321856, 1263551322, 4),
    (6979321860, 3, 2), (6979321864, 256, 4), (6979321868, 4224, 8), (6979321880, 13563816833800793, 8), (6979321896, 1, 2), (6979321900,
    256, 4), (6979322112, 7, 2), (6979322120, 4096, 4), (6979322128,
    38772261170797515502142737251560910253885555854579348417967781179871348437219, 32), (6979325952, 1195987802, 4), (6979325956, 1, 2),
    (6979325966, 304, 4), (6979325970, 48439561293906451759052585252797914202762949526041747995844080717082404635286, 32), (6979326002,
    10306945946157278550549737400381051710508662471590157041008928913302436780847, 32)]), inTurn_of (by decide +kernel), by decide,
    by decide +kernel, by decide, by decide +kernel⟩,
  ⟨15, 1, 0, _, (st [((.saf .ISL_STAT_STATE), 1, 0, 0), ((.host .MB_BUSY), 15, 0, 1), ((.host .MB_CODE), 15, 0, 0x0701), ((.host
    .MB_PLEN), 15, 0, 9), ((.host .MB_PARAM), 15, 0, 1), ((.host .MB_SES), 15, 0, 4), ((.host .SES_ID), 3, 0, 1), ((.host .SES_ROLE), 3,
    0, 2)]), inTurn_of (by decide +kernel), by decide, by decide +kernel, by decide, rfl, by decide⟩,
  ⟨15, 0, 0, true, (st [((.saf .ISL_STAT_STATE), 1, 0, 0), ((.host .MB_BUSY), (15 : Fin 16).val, 0, 1), ((.host .MB_CODE), (15 : Fin
    16).val, 0, 0x0701), ((.host .MB_PLEN), (15 : Fin 16).val, 0, 9), ((.host .MB_SES), (15 : Fin 16).val, 0, 4), ((.host .SES_ID), 3, 0,
    1), ((.host .SES_ROLE), 3, 0, 2)]), inTurn_of (by decide), by decide⟩,
  ⟨15, 0, (st [((.saf .ISL_STAT_STATE), 1, 0, 0), ((.host .MB_BUSY), (15 : Fin 16).val, 0, 1), ((.host .MB_CODE), (15 : Fin 16).val, 0,
    0x0702), ((.host .MB_PLEN), (15 : Fin 16).val, 0, 1), ((.host .MB_SES), (15 : Fin 16).val, 0, 4), ((.host .SES_ID), 3, 0, 1), ((.host
    .SES_ROLE), 3, 0, 2), ((.host .ACT_ON), 0, 0, 0), ((.host .PKG_FULL), (0 : BitVec 8).toNat, 0, 1)]), inTurn_of (by decide), by decide,
    by decide, by decide, by decide⟩,
  ⟨15, 0, true, (st [((.saf .ISL_STAT_STATE), 1, 0, 0), ((.host .MB_BUSY), (15 : Fin 16).val, 0, 1), ((.host .MB_CODE), (15 : Fin 16).val,
    0, 0x0702), ((.host .MB_PLEN), (15 : Fin 16).val, 0, 1), ((.host .MB_SES), (15 : Fin 16).val, 0, 4), ((.host .SES_ID), 3, 0, 1),
    ((.host .SES_ROLE), 3, 0, 2), ((.host .ACT_ON), 0, 0, 0), ((.saf .AXLE_MODE_MODE), 0, 0, 2)]), inTurn_of (by decide), by decide,
    by decide, by decide⟩,
  ⟨15, (st [((.saf .ISL_STAT_STATE), 1, 0, 0), ((.host .MB_BUSY), (15 : Fin 16).val, 0, 1), ((.host .MB_CODE), (15 : Fin 16).val, 0,
    0x0703), ((.host .MB_PLEN), (15 : Fin 16).val, 0, 0), ((.host .MB_SES), (15 : Fin 16).val, 0, 4), ((.host .SES_ID), 3, 0, 1), ((.host
    .SES_ROLE), 3, 0, 2), ((.loop .CHART_STAT_LOADED), 0, 0, 1)]), inTurn_of (by decide), by decide⟩,
  ⟨15, (st [((.saf .ISL_STAT_STATE), 1, 0, 0), ((.host .MB_BUSY), (15 : Fin 16).val, 0, 1), ((.host .MB_CODE), (15 : Fin 16).val, 0,
    0x0704), ((.host .MB_PLEN), (15 : Fin 16).val, 0, 0), ((.host .MB_SES), (15 : Fin 16).val, 0, 4), ((.host .SES_ID), 3, 0, 1), ((.host
    .SES_ROLE), 3, 0, 1)]), inTurn_of (by decide)⟩,
  ⟨15, 3, 5, 0, [7], (st [((.saf .ISL_STAT_STATE), 1, 0, 0), ((.host .MB_BUSY), 15, 0, 1), ((.host .MB_CODE), 15, 0, 0x0801), ((.host
    .MB_PLEN), 15, 0, 4), ((.host .MB_PARAM), 15, 0, 117440517), ((.host .MB_SES), 15, 0, 4), ((.host .SES_ID), 3, 0, 1), ((.host
    .SES_ROLE), 3, 0, 2), ((.host .LIM_MAKER), 3, 0, 7)]), by decide, by decide, inTurn_of (by decide +kernel), by decide +kernel⟩,
  ⟨15, 3, 5, 0, [7], true, (st [((.saf .ISL_STAT_STATE), 1, 0, 0), ((.host .MB_BUSY), 15, 0, 1), ((.host .MB_CODE), 15, 0, 0x0801),
    ((.host .MB_PLEN), 15, 0, 4), ((.host .MB_PARAM), 15, 0, 117440517), ((.host .MB_SES), 15, 0, 4), ((.host .SES_ID), 3, 0, 1), ((.host
    .SES_ROLE), 3, 0, 2), ((.host .LIM_MAKER), 3, 0, 6)]), by decide, by decide, inTurn_of (by decide +kernel), by decide +kernel⟩,
  ⟨15, 5, 5, 0, [7], 0x1B0000000, (st [((.saf .ISL_STAT_STATE), 1, 0, 0), ((.host .MB_BUSY), 15, 0, 1), ((.host .MB_CODE), 15, 0, 0x0801),
    ((.host .MB_PLEN), 15, 0, 4), ((.host .MB_PARAM), 15, 0, 117440517), ((.host .MB_SES), 15, 0, 4), ((.host .SES_ID), 3, 0, 1), ((.host
    .SES_ROLE), 3, 0, 2), ((.drv .REC_ADDR), 5, 0, 0x1B0000000)]), by decide, by decide, inTurn_of (by decide +kernel), by decide +kernel,
    by decide, by decide +kernel⟩,
  ⟨15, 2, 5, 0, [7], (st [((.saf .ISL_STAT_STATE), 1, 0, 0), ((.host .MB_BUSY), 15, 0, 1), ((.host .MB_CODE), 15, 0, 0x0801), ((.host
    .MB_PLEN), 15, 0, 4), ((.host .MB_PARAM), 15, 0, 117440517), ((.host .MB_SES), 15, 0, 4), ((.host .SES_ID), 3, 0, 1), ((.host
    .SES_ROLE), 3, 0, 2)]), by decide, by decide, inTurn_of (by decide +kernel)⟩,
  ⟨15, 0, 0, (st [((.saf .ISL_STAT_STATE), 1, 0, 0), ((.host .MB_BUSY), (15 : Fin 16).val, 0, 1), ((.host .MB_CODE), (15 : Fin 16).val, 0,
    0x0802), ((.host .MB_PLEN), (15 : Fin 16).val, 0, 5), ((.host .MB_SES), (15 : Fin 16).val, 0, 4), ((.host .SES_ID), 3, 0, 1), ((.host
    .SES_ROLE), 3, 0, 1)]), inTurn_of (by decide), by decide, by decide⟩,
  ⟨15, 0, 0, (st [((.saf .ISL_STAT_STATE), 1, 0, 0), ((.host .MB_BUSY), (15 : Fin 16).val, 0, 1), ((.host .MB_CODE), (15 : Fin 16).val, 0,
    0x0802), ((.host .MB_PLEN), (15 : Fin 16).val, 0, 5), ((.host .MB_SES), (15 : Fin 16).val, 0, 4), ((.host .SES_ID), 3, 0, 1), ((.host
    .SES_ROLE), 3, 0, 1)]), inTurn_of (by decide), by decide, by decide⟩,
  ⟨15, 0, 1, true, (st [((.saf .ISL_STAT_STATE), 1, 0, 0), ((.host .MB_BUSY), (15 : Fin 16).val, 0, 1), ((.host .MB_CODE), (15 : Fin
    16).val, 0, 0x0802), ((.host .MB_PLEN), (15 : Fin 16).val, 0, 5), ((.host .MB_PARAM), 15, 0, 256), ((.host .MB_SES), (15 : Fin
    16).val, 0, 4), ((.host .SES_ID), 3, 0, 1), ((.host .SES_ROLE), 3, 0, 1), ((.host .LIM_INST), 0, 0, 0)]), inTurn_of
    (by decide +kernel), by decide, by decide +kernel⟩,
  ⟨15, 0, 0, (st [((.saf .ISL_STAT_STATE), 1, 0, 0), ((.host .MB_BUSY), (15 : Fin 16).val, 0, 1), ((.host .MB_CODE), (15 : Fin 16).val, 0,
    0x0A06), ((.host .MB_PLEN), (15 : Fin 16).val, 0, 5), ((.host .MB_SES), (15 : Fin 16).val, 0, 4), ((.host .SES_ID), 3, 0, 1), ((.host
    .SES_ROLE), 3, 0, 3)]), inTurn_of (by decide), by decide⟩,
  ⟨15, 0, [], (st [((.saf .ISL_STAT_STATE), 1, 0, 0), ((.host .MB_BUSY), (15 : Fin 16).val, 0, 1), ((.host .MB_CODE), (15 : Fin 16).val,
    0, 0x0803), ((.host .MB_PLEN), (15 : Fin 16).val, 0, 21), ((.host .MB_SES), (15 : Fin 16).val, 0, 4), ((.host .SES_ID), 3, 0, 1),
    ((.host .SES_ROLE), 3, 0, 2), ((.saf .AXLE_MODE_MODE), 0, 0, 5)]), inTurn_of (by decide), by decide, by decide⟩,
  ⟨15, 0, [], true, (st [((.saf .ISL_STAT_STATE), 1, 0, 0), ((.host .MB_BUSY), (15 : Fin 16).val, 0, 1), ((.host .MB_CODE), (15 : Fin
    16).val, 0, 0x0803), ((.host .MB_PLEN), (15 : Fin 16).val, 0, 21), ((.host .MB_SES), (15 : Fin 16).val, 0, 4), ((.host .SES_ID), 3, 0,
    1), ((.host .SES_ROLE), 3, 0, 2)]), inTurn_of (by decide), by decide, by decide⟩,
  ⟨15, 0, 0, (st [((.saf .ISL_STAT_STATE), 1, 0, 0), ((.host .MB_BUSY), (15 : Fin 16).val, 0, 1), ((.host .MB_CODE), (15 : Fin 16).val, 0,
    0x0804), ((.host .MB_PLEN), (15 : Fin 16).val, 0, 8), ((.host .MB_SES), (15 : Fin 16).val, 0, 4), ((.host .SES_ID), 3, 0, 1), ((.host
    .SES_ROLE), 3, 0, 1)]), inTurn_of (by decide), by decide⟩,
  ⟨15, 0, (st [((.host .MB_RUN), (15 : Fin 16).val, 0, 0)]), by decide⟩,
  ⟨15, 0, (st [((.saf .ISL_STAT_STATE), 1, 0, 0), ((.host .MB_RUN), (15 : Fin 16).val, 0, 1), ((.host .MB_CODE), (15 : Fin 16).val, 0,
    0x0204), ((.drv .PL_MOVE), 0, 0, 0)]), by decide, by decide, by decide, by decide⟩,
  ⟨15, (st [((.saf .ISL_STAT_STATE), 1, 0, 0), ((.host .MB_RUN), (15 : Fin 16).val, 0, 1)]), by decide, by decide, by decide⟩,
  ⟨⟨2, false, false, false, false, 0, [], [], []⟩, .reset, by decide⟩,
  ⟨⟨2, false, false, false, false, 0, [], [], []⟩, (stm [((.host .ACT_ON), 0, 0, 1), ((.host .ACT_STEP), 0, 0, 1), ((.host .KEY_ROLE), 4,
    0, 2), ((.host .KEY_X), 4, 0, p256Gx), ((.host .KEY_Y), 4, 0, p256Gy)] [(2199094558720, 1263551322, 4), (2199094558724, 3, 2),
    (2199094558728, 256, 4), (2199094558732, 4224, 8), (2199094558744, 13563816833800793, 8), (2199094558760, 1, 2), (2199094558764, 256,
    4), (2199094558976, 7, 2), (2199094558984, 4096, 4), (2199094558992,
    38772261170797515502142737251560910253885555854579348417967781179871348437219, 32), (2199094562816, 1195987802, 4), (2199094562820, 1,
    2), (2199094562830, 304, 4), (2199094562834, 48439561293906451759052585252797914202762949526041747995844080717082404635286, 32),
    (2199094562866, 10306945946157278550549737400381051710508662471590157041008928913302436780847, 32)]), by decide, by decide, by decide,
    by decide +kernel⟩,
  ⟨⟨5, false, false, false, false, 0, [], [], []⟩, (st [((.host .ACT_ON), 0, 0, 1), ((.host .ACT_STEP), 0, 0, 4), ((.host .ACT_KIND), 0,
    0, 0)]), by decide, by decide, by decide, by decide⟩,
  ⟨⟨7, false, false, false, false, 0, [], [], []⟩, (st [((.host .ACT_ON), 0, 0, 1), ((.host .ACT_STEP), 0, 0, 6)]), by decide, by decide,
    by decide⟩⟩

/-- The hypotheses of each clause of `HostMaintenance` can be met. -/
theorem test_HostMaintenance_hypotheses :
    (∃ (n : Fin 16) (i : BitVec 8) (st : BitVec 8) (f : Bool) (aud : Bool) (s : State), s.inTurn n.val 0x0805 2 3 (i.toNat + 256 *
      st.toNat + 65536 * f.toNat) ∧ ([0, 1, 5, 6].contains (s.get (.saf .AXLE_MODE_MODE))) = false ∧ s.get (.host .MB_RUN) n.val = 0) ∧
    (∃ (n : Fin 16) (i : BitVec 8) (f : Bool) (s : State), s.inTurn n.val 0x0805 2 3 (i.toNat + 256 * 0xFF + 65536 * f.toNat) ∧ s.get
      (.saf .AXLE_MODE_MODE) = 0 ∧ 1 ≤ i.toNat ∧ i.toNat ≤ 13 ∧ i.toNat ≠ 12 ∧ s.get (.host .MB_RUN) n.val = 0) ∧
    (∃ (n : Fin 16) (role : BitVec 8) (x : BitVec 256) (y : BitVec 256) (k : Nat) (s : State), s.inTurn n.val 0x0901 2 65 (packFields
      [(role.toNat, 1), (x.toNat, 32), (y.toNat, 32)]) ∧ (role.toNat = 1 ∨ role.toNat = 2) ∧ role.toNat + 1 ≤ s.mbRole n.val ∧ s.keyStored
      role.toNat (sha256 (bytesOf x.toNat 32 ++ bytesOf y.toNat 32) % 2 ^ 64) = false ∧ (keySlots role.toNat).find? (fun k => s.get (.host
      .KEY_ROLE) k == 0) = some k) ∧
    (∃ (n : Fin 16) (key : BitVec 64) (k : Nat) (s : State), s.inTurn n.val 0x0902 2 8 key.toNat ∧ (List.range 28).find? (fun x => s.get
      (.host .KEY_ROLE) x != 0 && s.get (.host .KEY_ID) x == key.toNat) = some k ∧ s.get (.host .KEY_ROLE) k ≠ 3 ∧ s.get (.host .KEY_ROLE)
      k + 1 ≤ s.mbRole n.val) ∧
    (∃ (n : Fin 16) (z : Half) (s : State), s.inTurn n.val 0x0903 2 2 z.toNat) ∧
    (∃ (n : Fin 16) (k : BitVec 8) (z : BitVec 64) (s : State), s.inTurn n.val 0x0A01 3 9 (k.toNat + 256 * z.toNat) ∧ k.toNat ≤ 1 ∧
      k.toNat ≠ s.get (.host .FW_SLOT) ∧ z.toNat ≤ 0x2000000) ∧
    (∃ (n : Fin 16) (k : BitVec 8) (s : State), s.inTurn n.val 0x0A02 3 1 k.toNat ∧ k.toNat ≤ 1 ∧ s.get (.host .FW_FULL) k.toNat = 1) ∧
    (∃ (n : Fin 16) (s : State), s.inTurn n.val 0x0A03 3 0 0) ∧
    (∃ (n : Fin 16) (sig : BitVec 512) (s : State), s.inTurn n.val 0x0A04 3 64 sig.toNat ∧ s.get (.host .DBG_REQ) = 1 ∧ s.now ≤ s.get
      (.host .DBG_AT) + secs 10 ∧ (s.get (.saf .AXLE_MODE_MODE) = 0 ∨ s.get (.saf .AXLE_MODE_MODE) = 5) ∧ s.signed 3 (s.mbKey n.val)
      sig.toNat (bytesOf (s.get (.host .DBG_NONCE) + 2 ^ 256 * s.get (.host .SERIAL)) 40) = true) ∧
    (∃ (n : Fin 16) (sig : BitVec 512) (s : State), s.inTurn n.val 0x0A04 3 64 sig.toNat ∧ s.get (.saf .AXLE_MODE_MODE) ≠ 0 ∧ s.get (.saf
      .AXLE_MODE_MODE) ≠ 5) ∧
    (∃ (n : Fin 16) (b : BitVec 8) (sig : BitVec 512) (s : State), s.inTurn n.val 0x0A05 3 65 (b.toNat + 256 * sig.toNat)) :=
⟨⟨15, 0, 0, true, true, (st [((.saf .ISL_STAT_STATE), 1, 0, 0), ((.host .MB_BUSY), 15, 0, 1), ((.host .MB_CODE), 15, 0, 0x0805), ((.host
    .MB_PLEN), 15, 0, 3), ((.host .MB_PARAM), 15, 0, 65536), ((.host .MB_SES), 15, 0, 4), ((.host .SES_ID), 3, 0, 1), ((.host .SES_ROLE),
    3, 0, 2), ((.saf .AXLE_MODE_MODE), 0, 0, 2)]), inTurn_of (by decide +kernel), by decide +kernel, by decide +kernel⟩,
  ⟨15, 13, true, (st [((.saf .ISL_STAT_STATE), 1, 0, 0), ((.host .MB_BUSY), 15, 0, 1), ((.host .MB_CODE), 15, 0, 0x0805), ((.host
    .MB_PLEN), 15, 0, 3), ((.host .MB_PARAM), 15, 0, 130829), ((.host .MB_SES), 15, 0, 4), ((.host .SES_ID), 3, 0, 1), ((.host .SES_ROLE),
    3, 0, 2), ((.saf .AXLE_MODE_MODE), 0, 0, 0)]), inTurn_of (by decide +kernel), by decide +kernel, by decide, by decide, by decide,
    by decide +kernel⟩,
  ⟨15, 2, 0, 0, 4, (st [((.saf .ISL_STAT_STATE), 1, 0, 0), ((.host .MB_BUSY), 15, 0, 1), ((.host .MB_CODE), 15, 0, 0x0901), ((.host
    .MB_PLEN), 15, 0, 65), ((.host .MB_PARAM), 15, 0, 2), ((.host .MB_SES), 15, 0, 4), ((.host .SES_ID), 3, 0, 1), ((.host .SES_ROLE), 3,
    0, 3)]), inTurn_of (by decide +kernel), by decide, by decide +kernel, by decide +kernel, by decide +kernel⟩,
  ⟨15, 0, 27, (st [((.saf .ISL_STAT_STATE), 1, 0, 0), ((.host .MB_BUSY), (15 : Fin 16).val, 0, 1), ((.host .MB_CODE), (15 : Fin 16).val,
    0, 0x0902), ((.host .MB_PLEN), (15 : Fin 16).val, 0, 8), ((.host .MB_SES), (15 : Fin 16).val, 0, 4), ((.host .SES_ID), 3, 0, 1),
    ((.host .SES_ROLE), 3, 0, 2), ((.host .KEY_ROLE), 27, 0, 1)]), inTurn_of (by decide), by decide, by decide, by decide⟩,
  ⟨15, 0, (st [((.saf .ISL_STAT_STATE), 1, 0, 0), ((.host .MB_BUSY), (15 : Fin 16).val, 0, 1), ((.host .MB_CODE), (15 : Fin 16).val, 0,
    0x0903), ((.host .MB_PLEN), (15 : Fin 16).val, 0, 2), ((.host .MB_SES), (15 : Fin 16).val, 0, 4), ((.host .SES_ID), 3, 0, 1), ((.host
    .SES_ROLE), 3, 0, 2)]), inTurn_of (by decide)⟩,
  ⟨15, 1, 0, (st [((.saf .ISL_STAT_STATE), 1, 0, 0), ((.host .MB_BUSY), 15, 0, 1), ((.host .MB_CODE), 15, 0, 0x0A01), ((.host .MB_PLEN),
    15, 0, 9), ((.host .MB_PARAM), 15, 0, 1), ((.host .MB_SES), 15, 0, 4), ((.host .SES_ID), 3, 0, 1), ((.host .SES_ROLE), 3, 0, 3)]),
    inTurn_of (by decide +kernel), by decide, by decide +kernel, by decide⟩,
  ⟨15, 0, (st [((.saf .ISL_STAT_STATE), 1, 0, 0), ((.host .MB_BUSY), (15 : Fin 16).val, 0, 1), ((.host .MB_CODE), (15 : Fin 16).val, 0,
    0x0A02), ((.host .MB_PLEN), (15 : Fin 16).val, 0, 1), ((.host .MB_SES), (15 : Fin 16).val, 0, 4), ((.host .SES_ID), 3, 0, 1), ((.host
    .SES_ROLE), 3, 0, 3), ((.host .FW_FULL), (0 : BitVec 8).toNat, 0, 1)]), inTurn_of (by decide), by decide, by decide⟩,
  ⟨15, (st [((.saf .ISL_STAT_STATE), 1, 0, 0), ((.host .MB_BUSY), (15 : Fin 16).val, 0, 1), ((.host .MB_CODE), (15 : Fin 16).val, 0,
    0x0A03), ((.host .MB_PLEN), (15 : Fin 16).val, 0, 0), ((.host .MB_SES), (15 : Fin 16).val, 0, 4), ((.host .SES_ID), 3, 0, 1), ((.host
    .SES_ROLE), 3, 0, 3)]), inTurn_of (by decide)⟩,
  ⟨15,
    7924188233411129990716695239951894536573552098678370125646020673935752427611678456313852308373100264073519055001899364527079024278592342517549808630678166,
    (st [((.saf .ISL_STAT_STATE), 1, 0, 0), ((.host .MB_BUSY), 15, 0, 1), ((.host .MB_CODE), 15, 0, 0x0A04), ((.host .MB_PLEN), 15, 0,
    64), ((.host .MB_PARAM), 15, 0,
    7924188233411129990716695239951894536573552098678370125646020673935752427611678456313852308373100264073519055001899364527079024278592342517549808630678166),
    ((.host .MB_SES), 15, 0, 4), ((.host .SES_ID), 3, 0, 1), ((.host .SES_ROLE), 3, 0, 3), ((.host .DBG_REQ), 0, 0, 1), ((.host
    .KEY_ROLE), 0, 0, 3), ((.host .KEY_X), 0, 0, p256Gx), ((.host .KEY_Y), 0, 0, p256Gy)]), inTurn_of (by decide +kernel),
    by decide +kernel, by decide +kernel, by decide +kernel, by decide +kernel⟩,
  ⟨15, 0, (st [((.saf .ISL_STAT_STATE), 1, 0, 0), ((.host .MB_BUSY), (15 : Fin 16).val, 0, 1), ((.host .MB_CODE), (15 : Fin 16).val, 0,
    0x0A04), ((.host .MB_PLEN), (15 : Fin 16).val, 0, 64), ((.host .MB_SES), (15 : Fin 16).val, 0, 4), ((.host .SES_ID), 3, 0, 1), ((.host
    .SES_ROLE), 3, 0, 3), ((.saf .AXLE_MODE_MODE), 0, 0, 1)]), inTurn_of (by decide +kernel), by decide, by decide⟩,
  ⟨15, 0, 0, (st [((.saf .ISL_STAT_STATE), 1, 0, 0), ((.host .MB_BUSY), (15 : Fin 16).val, 0, 1), ((.host .MB_CODE), (15 : Fin 16).val, 0,
    0x0A05), ((.host .MB_PLEN), (15 : Fin 16).val, 0, 65), ((.host .MB_SES), (15 : Fin 16).val, 0, 4), ((.host .SES_ID), 3, 0, 1), ((.host
    .SES_ROLE), 3, 0, 3)]), inTurn_of (by decide +kernel)⟩⟩

/-- The hypotheses of each clause of `DataPort` can be met. -/
theorem test_DataPort_hypotheses :
    (∃ (n : Fin 16) (a : BitVec 40) (inc : BitVec 8) (aud : Bool) (x : Window) (k : Nat) (s : State), s.inTurn n.val 0x0601 1 7 (a.toNat +
      2 ^ 40 * inc.toNat) ∧ s.mbSession n.val = k + 1 ∧ s.get (.host .DP_OPEN) k = 0 ∧ inc.toNat ∈ [1, 2, 4, 8] ∧ a.toNat % inc.toNat = 0
      ∧ s.windowAt a.toNat = some x ∧ x.rd ≤ s.mbRole n.val) ∧
    (∃ (n : Fin 16) (a : BitVec 40) (inc : BitVec 8) (x : Window) (k : Nat) (s : State), s.inTurn n.val 0x0601 1 7 (a.toNat + 2 ^ 40 *
      inc.toNat + 2 ^ 48) ∧ s.mbSession n.val = k + 1 ∧ s.get (.host .DP_OPEN) k = 0 ∧ inc.toNat ∈ [1, 2, 4, 8] ∧ a.toNat % inc.toNat = 0
      ∧ s.windowAt a.toNat = some x ∧ x.wr ≤ s.mbRole n.val ∧ s.get (.host .AUD_BAR) = 0) ∧
    (∃ (n : Fin 16) (a : BitVec 40) (inc : BitVec 8) (aud : Bool) (k : Nat) (s : State), s.inTurn n.val 0x0601 1 7 (a.toNat + 2 ^ 40 *
      inc.toNat) ∧ s.mbSession n.val = k + 1 ∧ s.get (.host .DP_OPEN) k = 1) ∧
    (∃ (n : Fin 16) (h : Half) (aud : Bool) (k : Nat) (s : State), s.inTurn n.val 0x0602 1 2 h.toNat ∧ s.mbSession n.val = k + 1 ∧ s.get
      (.host .DP_OPEN) k = 1 ∧ s.get (.host .DP_HANDLE) k = h.toNat ∧ s.get (.host .DP_DIR) k = 0) ∧
    (∃ (k : Fin 4) (h : Half) (b : Word) (d : List (BitVec 8)) (os : List Flips) (aud : Bool) (a : Nat) (n : Nat) (s : State), s.narrows =
      true ∧ s.get (.host .SES_ID) k.val ≠ 0 ∧ s.dpOpenFor k.val h.toNat true = true ∧ s.get (.host .DP_BIDX) k.val = b.toNat ∧ s.get
      (.host .DP_ADDR) k.val = a ∧ d.length = n ∧ 0 < n ∧ n ≤ 4096 ∧ n % s.get (.host .DP_INC) k.val = 0 ∧ a + n ≤ s.get (.host .DP_HIGH)
      k.val ∧ s.dpReady a = true ∧ (∀ l ∈ burstLines a n, (flipLines (burstLines a n) os s).lineOut l = .clean ∨ (flipLines (burstLines a
      n) os s).lineOut l = .corrected)) ∧
    (∃ (k : Fin 4) (h : Half) (b : Word) (d : List (BitVec 8)) (os : List Flips) (aud : Bool) (s : State), s.narrows = true ∧ s.get (.host
      .SES_ID) k.val ≠ 0 ∧ s.dpOpenFor k.val h.toNat true = true ∧ b.toNat < s.get (.host .DP_BIDX) k.val) ∧
    (∃ (k : Fin 4) (h : Half) (b : Word) (n : Half) (os : List Flips) (aud : Bool) (a : Nat) (s : State), s.narrows = true ∧ s.get (.host
      .SES_ID) k.val ≠ 0 ∧ s.dpOpenFor k.val h.toNat false = true ∧ s.get (.host .DP_ADDR) k.val = a ∧ 0 < n.toNat ∧ n.toNat ≤ 4096 ∧
      n.toNat % s.get (.host .DP_INC) k.val = 0 ∧ a + n.toNat ≤ s.get (.host .DP_HIGH) k.val ∧ s.dpReady a = true ∧ (∀ l ∈ burstLines a
      n.toNat, (flipLines (burstLines a n.toNat) os s).lineOut l = .clean ∨ (flipLines (burstLines a n.toNat) os s).lineOut l =
      .corrected)) ∧
    (∃ (k : Fin 4) (h : Half) (b : Word) (n : Half) (os : List Flips) (aud : Bool) (s : State), s.narrows = true ∧ s.get (.host .SES_ID)
      k.val ≠ 0 ∧ s.dpOpenFor k.val h.toNat false = true ∧ 0 < n.toNat ∧ n.toNat ≤ 4096 ∧ n.toNat % s.get (.host .DP_INC) k.val = 0 ∧
      s.get (.host .DP_HIGH) k.val < s.get (.host .DP_ADDR) k.val + n.toNat) :=
⟨⟨15, 0x1800002000, 8, true, ⟨0x1800002000, 0x1800002200, 1, 4⟩, 3, (st [((.saf .ISL_STAT_STATE), 1, 0, 0), ((.host .MB_BUSY), 15, 0, 1),
    ((.host .MB_CODE), 15, 0, 0x0601), ((.host .MB_PLEN), 15, 0, 7), ((.host .MB_PARAM), 15, 0, 8899172245504), ((.host .MB_SES), 15, 0,
    4), ((.host .SES_ID), 3, 0, 1), ((.host .SES_ROLE), 3, 0, 1)]), inTurn_of (by decide +kernel), by decide +kernel, by decide +kernel,
    by decide, by decide, by decide +kernel, by decide +kernel⟩,
  ⟨15, 0x1A0000000, 8, ⟨0x1A0000000, 0x1AF000000, 2, 2⟩, 3, (st [((.saf .ISL_STAT_STATE), 1, 0, 0), ((.host .MB_BUSY), 15, 0, 1), ((.host
    .MB_CODE), 15, 0, 0x0601), ((.host .MB_PLEN), 15, 0, 7), ((.host .MB_PARAM), 15, 0, 290278049054720), ((.host .MB_SES), 15, 0, 4),
    ((.host .SES_ID), 3, 0, 1), ((.host .SES_ROLE), 3, 0, 2)]), inTurn_of (by decide +kernel), by decide +kernel, by decide +kernel,
    by decide, by decide, by decide +kernel, by decide +kernel, by decide +kernel⟩,
  ⟨15, 0x1800002000, 8, true, 3, (st [((.saf .ISL_STAT_STATE), 1, 0, 0), ((.host .MB_BUSY), 15, 0, 1), ((.host .MB_CODE), 15, 0, 0x0601),
    ((.host .MB_PLEN), 15, 0, 7), ((.host .MB_PARAM), 15, 0, 8899172245504), ((.host .MB_SES), 15, 0, 4), ((.host .SES_ID), 3, 0, 1),
    ((.host .SES_ROLE), 3, 0, 1), ((.host .DP_OPEN), 3, 0, 1)]), inTurn_of (by decide +kernel), by decide +kernel, by decide +kernel⟩,
  ⟨15, 0, true, 3, (st [((.saf .ISL_STAT_STATE), 1, 0, 0), ((.host .MB_BUSY), (15 : Fin 16).val, 0, 1), ((.host .MB_CODE), (15 : Fin
    16).val, 0, 0x0602), ((.host .MB_PLEN), (15 : Fin 16).val, 0, 2), ((.host .MB_SES), (15 : Fin 16).val, 0, 4), ((.host .SES_ID), 3, 0,
    1), ((.host .SES_ROLE), 3, 0, 1), ((.host .DP_OPEN), (3 : Nat), 0, 1), ((.host .DP_HANDLE), (3 : Nat), 0, (0 : Half).toNat), ((.host
    .DP_DIR), (3 : Nat), 0, 0)]), inTurn_of (by decide), by decide, by decide, by decide, by decide⟩,
  ⟨3, 0, 0, [1], [], true, 0, 1, (st [((.saf .ISL_STAT_STATE), 1, 0, 0), ((.host .SES_ID), (3 : Fin 4).val, 0, 1), ((.host .DP_BIDX), (3 :
    Fin 4).val, 0, (0 : Word).toNat), ((.host .DP_ADDR), (3 : Fin 4).val, 0, (0 : Nat)), ((.host .DP_OPEN), 3, 0, 1), ((.saf
    .ISL_STAT_STATE), 10, 0, 0), ((.host .DP_INC), 3, 0, 1), ((.host .DP_HIGH), 3, 0, 1), ((.mem .DRAM_ON), 0, 0, 1), ((.mem
    .STAT_INIT_DONE), 0, 0, 1), ((.host .DP_DIR), 3, 0, 1)]), by decide, by decide, by decide, by decide, by decide, by decide, by decide,
    by decide, by decide, by decide, by decide, by decide⟩,
  ⟨3, 0, 0, [], [], true, (st [((.saf .ISL_STAT_STATE), 1, 0, 0), ((.host .SES_ID), (3 : Fin 4).val, 0, 1), ((.host .DP_OPEN), 3, 0, 1),
    ((.saf .ISL_STAT_STATE), 10, 0, 0), ((.host .DP_INC), 3, 0, 1), ((.host .DP_HIGH), 3, 0, 1), ((.mem .DRAM_ON), 0, 0, 1), ((.mem
    .STAT_INIT_DONE), 0, 0, 1), ((.host .DP_DIR), 3, 0, 1), ((.host .DP_BIDX), 3, 0, 1)]), by decide, by decide, by decide, by decide⟩,
  ⟨3, 0, 0, 1, [], true, 0, (st [((.saf .ISL_STAT_STATE), 1, 0, 0), ((.host .SES_ID), (3 : Fin 4).val, 0, 1), ((.host .DP_ADDR), (3 : Fin
    4).val, 0, (0 : Nat)), ((.host .DP_OPEN), 3, 0, 1), ((.saf .ISL_STAT_STATE), 10, 0, 0), ((.host .DP_INC), 3, 0, 1), ((.host .DP_HIGH),
    3, 0, 1), ((.mem .DRAM_ON), 0, 0, 1), ((.mem .STAT_INIT_DONE), 0, 0, 1)]), by decide, by decide, by decide, by decide, by decide,
    by decide, by decide, by decide, by decide, by decide⟩,
  ⟨3, 0, 0, 1, [], true, (st [((.saf .ISL_STAT_STATE), 1, 0, 0), ((.host .SES_ID), (3 : Fin 4).val, 0, 1), ((.host .DP_OPEN), 3, 0, 1),
    ((.host .DP_INC), 3, 0, 1)]), by decide, by decide, by decide, by decide, by decide, by decide, by decide⟩⟩

/-- The hypotheses of each clause of `BusesAndTime` can be met. -/
theorem test_BusesAndTime_hypotheses :
    (∃ (i : BitVec 29) (e : Bool) (f : CanFmt) (d : List (BitVec 8)) (s : State), s.get (.saf .STOP_CFG_EN) = 0) ∧
    (∃ (i : BitVec 29) (e : Bool) (f : CanFmt) (d : List (BitVec 8)) (s : State), s.get (.saf .STOP_CFG_EN) = 1 ∧ s.stopId i.toNat e =
      true ∧ stopForm f d = true ∧ s.settled) ∧
    (∃ (i : BitVec 29) (e : Bool) (f : CanFmt) (d : List (BitVec 8)) (s : State), s.get (.saf .STOP_CFG_EN) = 1 ∧ s.stopId i.toNat e =
      true ∧ stopForm f d = false) ∧
    (∃ (p : Fin 3) (l : List (BitVec 4)) (c : BitVec 4) (s : State), s.narrows = true ∧ s.get (.host .CAN_SET) (p.val + 1) = 0 ∧ l[s.get
      (.host .CAN_CAND) (p.val + 1)]? = some c ∧ s.get (.host .CAN_AT) (p.val + 1) + us 250000 ≤ s.now) ∧
    (∃ (p : Fin 3) (l : List (BitVec 4)) (s : State), s.narrows = true ∧ s.get (.host .CAN_SET) (p.val + 1) = 0 ∧ s.get (.host .CAN_CAND)
      (p.val + 1) + 1 < min 4 l.length ∧ s.get (.host .CAN_AT) (p.val + 1) + us 250000 ≤ s.now) ∧
    (∃ (g : BitVec 64) (s : State), s.narrows = true ∧ s.get (.ifc .TSYNC_STAT_STATE) = 0 ∧ s.nsNow < 2 ^ 64) ∧
    (∃ (g : BitVec 64) (s : State), s.narrows = true ∧ s.tsQuiet 0 = false) ∧
    (∃ (p : Fin 2) (s : State), s.narrows = true) ∧
    (∃ (w : Who) (s : State), s.readable w 0x1010000040) ∧
    (∃ (s : State), s.narrows = true) :=
⟨⟨0, true, .fd, [], (st [((.saf .STOP_CFG_EN), 0, 0, 0)]), by decide⟩,
  ⟨0x10, false, .fd, [0xC3, 0x3C], (st [((.saf .STOP_CFG_EN), 0, 0, 1)]), by decide, by decide, by decide, ⟨by decide, by decide⟩⟩,
  ⟨0x10, false, .fd, [], (st [((.saf .STOP_CFG_EN), 0, 0, 1)]), by decide, by decide, by decide⟩,
  ⟨2, [1], 1, { (st [((.saf .ISL_STAT_STATE), 1, 0, 0)]) with now := 10000000000 }, by decide, by decide, by decide, by decide⟩,
  ⟨2, [1, 2], { (st [((.saf .ISL_STAT_STATE), 1, 0, 0)]) with now := 10000000000 }, by decide, by decide, by decide, by decide⟩,
  ⟨0, (st [((.saf .ISL_STAT_STATE), 1, 0, 0), ((.ifc .TSYNC_STAT_STATE), 0, 0, 0)]), by decide, by decide, by decide⟩,
  ⟨0, (st [((.saf .ISL_STAT_STATE), 1, 0, 0), ((.host .TS_AT), 0, 0, 1)]), by decide, by decide⟩,
  ⟨1, (st [((.saf .ISL_STAT_STATE), 1, 0, 0)]), by decide⟩,
  ⟨.safety, (st [((.saf .ISL_STAT_STATE), 1, 0, 0)]), readable_of (by decide)⟩,
  ⟨(st [((.saf .ISL_STAT_STATE), 1, 0, 0)]), by decide⟩⟩

/-- The hypotheses of each clause of `PowerLadder` can be met. -/
theorem test_PowerLadder_hypotheses :
    (∃ (p : Pins) (s : State), s.get (.aon .LADDER_STAT_MOVING) = 1) ∧
    (∃ (p : Pins) (s : State), s.get (.aon .LADDER_STAT_MOVING) = 0 ∧ s.get (.aon .BOOTING) = 0 ∧ s.get (.aon .LADDER_STAT_STATE) = 0 ∧
      s.get (.aon .LADDER_DWELL_T_HOLD) ≠ 0) ∧
    (∃ (p : Pins) (s : State), s.get (.aon .LADDER_STAT_MOVING) = 0 ∧ s.get (.aon .BOOTING) = 0 ∧ s.get (.aon .LADDER_STAT_STATE) = 3 ∧
      s.get (.aon .LADDER_DWELL_T_STOR) ≠ 0 ∧ s.get (.aon .LAD_AT) + secs (3600 * s.get (.aon .LADDER_DWELL_T_STOR)) ≤ s.now) ∧
    (∃ (s : State), s.get (.aon .LADDER_STAT_MOVING) = 0) ∧
    (∃ (s : State), s.get (.aon .LADDER_STAT_MOVING) = 1 ∧ s.get (.aon .BOOTING) = 0 ∧ s.get (.aon .LADDER_STAT_STATE) = 0 ∧ s.get (.aon
      .LAD_TGT) = 1) ∧
    (∃ (x : Fin 16) (s : State), s.get (.aon .BOOTING) = 1) ∧
    (∃ (s : State), s.get (.aon .BOOTING) = 0 ∧ s.get (.aon .LADDER_STAT_STATE) = 1 ∧ s.get (.aon .WAKE_EN_EN_KEY) = 1) ∧
    (∃ (x : Fin 16) (s : State), s.wakeEnabled x.val = false) ∧
    (∃ (c : BitVec 12) (s : State), s.get (.aon .LADDER_STAT_STATE) ≠ 4) ∧
    (∃ (c : BitVec 12) (s : State), s.get (.aon .LADDER_STAT_STATE) = 4 ∧ s.get (.aon .BOOTING) = 0 ∧ s.get (.aon .HKWIN_AUTO_TR) = 1 ∧
      c.toNat < s.get (.aon .HKWIN_V_CRIT) ∧ s.get (.aon .FLUSH) = 0) ∧
    (∃ (s : State), s.get (.aon .ALARM) = 0) ∧
    (∃ (s : State), s.get (.aon .ALARM) ≠ 0 ∧ s.get (.aon .ALARM_AT) ≠ 0 ∧ s.get (.aon .ALARM_AT) - 1 + secs (60 * s.get (.aon .ALARM)) ≤
      s.now ∧ s.get (.aon .BOOTING) = 0 ∧ s.get (.aon .LADDER_STAT_STATE) = 2 ∧ s.bit (.aon .WAKE_EN_EN_MISC) 4 = true) ∧
    (∃ (s : State), 2 ≤ s.get (.aon .LADDER_STAT_STATE)) ∧
    (∃ (s : State), s.get (.aon .LADDER_STAT_STATE) = 0 ∧ s.get (.aon .BOOTING) = 0 ∧ s.settled ∧ s.get (.aon .HEAD_ERASED) = 1) ∧
    (∃ (s : State), s.get (.aon .FLUSH) = 1) :=
⟨⟨⟨false, false, false, false, false⟩, (st [((.aon .LADDER_STAT_MOVING), 0, 0, 1)]), by decide⟩,
  ⟨⟨false, false, false, false, false⟩, (st [((.aon .LADDER_STAT_MOVING), 0, 0, 0), ((.aon .BOOTING), 0, 0, 0), ((.aon
    .LADDER_STAT_STATE), 0, 0, 0), ((.aon .LADDER_DWELL_T_HOLD), 0, 0, 1)]), by decide, by decide, by decide, by decide⟩,
  ⟨⟨false, false, false, false, false⟩, { (st [((.aon .LADDER_STAT_MOVING), 0, 0, 0), ((.aon .BOOTING), 0, 0, 0), ((.aon
    .LADDER_STAT_STATE), 0, 0, 3), ((.aon .LADDER_DWELL_T_STOR), 0, 0, 1)]) with now := secs 3600 }, by decide, by decide, by decide,
    by decide, by decide⟩,
  ⟨(st [((.aon .LADDER_STAT_MOVING), 0, 0, 0)]), by decide⟩,
  ⟨(st [((.aon .LADDER_STAT_MOVING), 0, 0, 1), ((.aon .BOOTING), 0, 0, 0), ((.aon .LADDER_STAT_STATE), 0, 0, 0), ((.aon .LAD_TGT), 0, 0,
    1)]), by decide, by decide, by decide, by decide⟩,
  ⟨15, (st [((.aon .BOOTING), 0, 0, 1)]), by decide⟩,
  ⟨(st [((.aon .BOOTING), 0, 0, 0), ((.aon .LADDER_STAT_STATE), 0, 0, 1), ((.aon .WAKE_EN_EN_KEY), 0, 0, 1)]), by decide, by decide,
    by decide⟩,
  ⟨15, .reset, by decide⟩,
  ⟨0, .reset, by decide⟩,
  ⟨0, (st [((.aon .LADDER_STAT_STATE), 0, 0, 4), ((.aon .BOOTING), 0, 0, 0), ((.aon .HKWIN_AUTO_TR), 0, 0, 1), ((.aon .FLUSH), 0, 0, 0)]),
    by decide, by decide, by decide, by decide, by decide⟩,
  ⟨(st [((.aon .ALARM), 0, 0, 0)]), by decide⟩,
  ⟨{ (st [((.aon .ALARM), 0, 0, 1), ((.aon .ALARM_AT), 0, 0, 1), ((.aon .BOOTING), 0, 0, 0), ((.aon .LADDER_STAT_STATE), 0, 0, 2), ((.aon
    .WAKE_EN_EN_MISC), 0, 0, 2 ^ 4)]) with now := secs 60 }, by decide, by decide, by decide, by decide, by decide, by decide⟩,
  ⟨(st [((.aon .LADDER_STAT_STATE), 0, 0, 2)]), by decide⟩,
  ⟨(st [((.aon .LADDER_STAT_STATE), 0, 0, 0), ((.aon .BOOTING), 0, 0, 0), ((.aon .HEAD_ERASED), 0, 0, 1)]), by decide, by decide,
    ⟨by decide, by decide⟩, by decide⟩,
  ⟨(st [((.aon .FLUSH), 0, 0, 1)]), by decide⟩⟩

/-- The hypotheses of each clause of `StartUp` can be met. -/
theorem test_StartUp_hypotheses :
    (∃ (s : State), s.get (.aon .SUPPLY) = 1) ∧
    (∃ (s : State), s.get (.aon .SUPPLY) = 0) ∧
    (∃ (k : Fin 19) (s : State), s.get (.aon .BOOTING) = 0) ∧
    (∃ (k : Fin 19) (s : State), k.val ∈ [3, 9, 12, 13] ∧ s.get (.aon .BOOTING) = 1 ∧ s.get (.aon .STOPPED) = 0 ∧ s.get (.aon .BOOT) + 1 =
      k.val ∧ s.get (.aon .PRESENT) = 1) ∧
    (∃ (s : State), s.get (.aon .BOOTING) = 1 ∧ s.get (.aon .BOOT) = 13 ∧ s.get (.saf .STEST_RUNNING) = 1) ∧
    (∃ (s : State), s.get (.aon .BOOTING) = 1 ∧ s.get (.aon .STOPPED) = 0 ∧ s.get (.aon .BOOT) = 9 ∧ s.get (.aon .PRESENT) = 1) ∧
    (∃ (s : State), s.get (.aon .BOOTING) = 1 ∧ s.get (.aon .STOPPED) = 0 ∧ s.get (.aon .BOOT) = 15 ∧ s.get (.aon .PRESENT) = 1) ∧
    (∃ (s : State), s.get (.aon .BOOTING) = 1 ∧ s.get (.aon .STOPPED) = 0 ∧ s.get (.aon .BOOT) = 17 ∧ s.get (.aon .PRESENT) = 1 ∧ s.get
      (.host .ACT_ON) = 0 ∧ s.get (.aon .HEAD_ERASED) = 1) ∧
    (∃ (x : SelfTest) (s : State), s.get (.saf .STEST_RUNNING) = 0) ∧
    (∃ (x : SelfTest) (s : State), s.get (.saf .STEST_RUNNING) = 1 ∧ x.straits = 0 ∧ x.srams = 0 ∧ x.logic = 0) ∧
    (∃ (s : State), s.get (.aon .DIP_ON) = 1 ∧ s.now ≤ s.get (.aon .DIP_AT) + us 500) ∧
    (∃ (s : State), s.get (.aon .DIP_ON) = 1 ∧ s.get (.aon .DIP_AT) + us 500 < s.now) ∧
    (∃ (s : State), s.get (.aon .SUPPLY) = 0 ∧ s.get (.aon .LADDER_STAT_BROWNOUT) = 1) :=
⟨⟨(st [((.aon .SUPPLY), 0, 0, 1)]), by decide⟩,
  ⟨(st [((.aon .SUPPLY), 0, 0, 0)]), by decide⟩,
  ⟨18, (st [((.aon .BOOTING), 0, 0, 0)]), by decide⟩,
  ⟨13, (st [((.aon .BOOTING), 0, 0, 1), ((.aon .STOPPED), 0, 0, 0), ((.aon .PRESENT), 0, 0, 1), ((.aon .BOOT), 0, 0, 12)]), by decide,
    by decide, by decide, by decide, by decide⟩,
  ⟨(st [((.aon .BOOTING), 0, 0, 1), ((.aon .BOOT), 0, 0, 13), ((.saf .STEST_RUNNING), 0, 0, 1)]), by decide, by decide, by decide⟩,
  ⟨(st [((.aon .BOOTING), 0, 0, 1), ((.aon .STOPPED), 0, 0, 0), ((.aon .BOOT), 0, 0, 9), ((.aon .PRESENT), 0, 0, 1)]), by decide,
    by decide, by decide, by decide⟩,
  ⟨(st [((.aon .BOOTING), 0, 0, 1), ((.aon .STOPPED), 0, 0, 0), ((.aon .BOOT), 0, 0, 15), ((.aon .PRESENT), 0, 0, 1)]), by decide,
    by decide, by decide, by decide⟩,
  ⟨(st [((.aon .BOOTING), 0, 0, 1), ((.aon .STOPPED), 0, 0, 0), ((.aon .BOOT), 0, 0, 17), ((.aon .PRESENT), 0, 0, 1), ((.host .ACT_ON), 0,
    0, 0), ((.aon .HEAD_ERASED), 0, 0, 1)]), by decide, by decide, by decide, by decide, by decide, by decide⟩,
  ⟨⟨0, false, false, 0, 0, 0, 0, 0, false, 0, 0, 0, 0, 0⟩, (st [((.saf .STEST_RUNNING), 0, 0, 0)]), by decide⟩,
  ⟨⟨0, false, false, 0, 0, 0, 0, 0, false, 0, 0, 0, 0, 0⟩, (st [((.saf .STEST_RUNNING), 0, 0, 1)]), by decide, by decide, by decide,
    by decide⟩,
  ⟨(st [((.aon .DIP_ON), 0, 0, 1)]), by decide, by decide⟩,
  ⟨{ (st [((.aon .DIP_ON), 0, 0, 1)]) with now := us 500 + 1 }, by decide, by decide⟩,
  ⟨(st [((.aon .SUPPLY), 0, 0, 0), ((.aon .LADDER_STAT_BROWNOUT), 0, 0, 1)]), by decide, by decide⟩⟩

/-- The hypotheses of each clause of `UnmappedAccess` can be met. -/
theorem test_UnmappedAccess_hypotheses :
    (∃ (w : Who) (a : BitVec 40) (wide : Bool) (v : Word) (p : Pins) (same : Word) (s : State), windowOf a.toNat = none) ∧
    (∃ (w : Who) (p : Fin 32) (wr : Bool) (a : BitVec 40) (n : Fin 257) (d : List (BitVec 8)) (e : Ecc) (s : State), p.val < 22 ∧ 0 <
      n.val ∧ a.toNat / 256 = (a.toNat + n.val - 1) / 256 ∧ s.get (.mem .MQ_KIND) p.val = 0 ∧ windowOf a.toNat = none) :=
⟨⟨.safety, 0x1C0000000, true, 0, ⟨false, false, false, false, false⟩, 0, .reset, by decide⟩,
  ⟨.safety, 21, true, 0x1C0000000, 256, [], .clean, (st [((.mem .MQ_KIND), (21 : Fin 32).val, 0, 0)]), by decide, by decide, by decide,
    by decide, by decide⟩⟩

/-- The hypotheses of each clause of `SidebandAccess` can be met. -/
theorem test_SidebandAccess_hypotheses :
    (∃ (w : Who) (a : BitVec 40) (wide : Bool) (v : Word) (p : Pins) (same : Word) (n : Nat) (s : State), windowOf a.toNat = some n ∧
      s.islandOpen n w = false) ∧
    (∃ (w : Who) (a : BitVec 40) (v : Word) (p : Pins) (same : Word) (n : Nat) (s : State), windowOf a.toNat = some n ∧ s.islandOpen n w =
      true) ∧
    (∃ (w : Who) (a : BitVec 40) (v : Word) (p : Pins) (same : Word) (n : Nat) (s : State), windowOf a.toNat = some n ∧ s.islandOpen n w =
      true ∧ (a.toNat % 4 ≠ 0 ∨ regExists a.toNat = false)) ∧
    (∃ (w : Who) (a : BitVec 40) (v : Word) (p : Pins) (same : Word) (n : Nat) (s : State), windowOf a.toNat = some n ∧ s.islandOpen n w =
      true ∧ a.toNat % 4 = 0 ∧ regExists a.toNat = true ∧ s.mayWrite w a.toNat (settled a.toNat v.toNat same.toNat) = false ∧ s.get (.saf
      .VIOL_VALID) = 0 ∧ ¬(0x1000000400 ≤ a.toNat ∧ a.toNat < 0x1000000500 ∧ a.toNat % 16 = 4)) ∧
    (∃ (w : Who) (a : BitVec 40) (v : Word) (p : Pins) (same : Word) (s : State), s.reaches w a.toNat (settled a.toNat v.toNat same.toNat)
      ∧ a.toNat % 4 = 0) ∧
    (∃ (w : Who) (v : Word) (p : Pins) (same : Word) (s : State), s.reaches w 0x1090000014 v.toNat) ∧
    (∃ (a : Nat) (v : Word) (same : Word) (k : Nat), k < 32) :=
⟨⟨.safety, 0x1050000000, true, 0, ⟨false, false, false, false, false⟩, 0, 8, .reset, by decide, by decide⟩,
  ⟨.safety, 0x1090000014, 0, ⟨false, false, false, false, false⟩, 0, 12, .reset, by decide, by decide⟩,
  ⟨.safety, 0x1090000016, 0, ⟨false, false, false, false, false⟩, 0, 12, .reset, by decide, by decide, by decide⟩,
  ⟨.core 7 1, 0x1090000014, 0, ⟨false, false, false, false, false⟩, 7, 12, (st [((.saf .VIOL_VALID), 0, 0, 0)]), by decide, by decide,
    by decide, by decide, by decide, by decide, by decide⟩,
  ⟨.safety, 0x1090000014, 0, ⟨false, false, false, false, false⟩, 0, .reset, reaches_of (by decide), by decide⟩,
  ⟨.safety, 0, ⟨false, false, false, false, false⟩, 0, .reset, reaches_of (by decide)⟩,
  ⟨0, 0, 0, 31, by decide⟩⟩

/-- The hypotheses of each clause of `QueueStep` can be met. -/
theorem test_QueueStep_hypotheses :
    (∃ (c : Instr) (r : List Instr) (s : State), s.pending = c :: r) ∧
    (∃ (s : State), s.pending = []) :=
⟨⟨.lock, [], { State.reset with pending := [.lock] }, by decide⟩,
  ⟨.reset, by decide⟩⟩

/-- The hypotheses of each clause of `StepKeepsInvariant` can be met. -/
theorem test_StepKeepsInvariant_hypotheses :
    (∃ (s : State) (t : State), s.Inv) :=
  ⟨.reset, { State.reset with now := 1 }, ⟨⟨.nil, fun _ h => absurd h List.not_mem_nil⟩, rfl⟩⟩

end Sys2Proof.Tests
end

/-! The unmapped addresses (R49): what each of the accesses that can name one does there. -/
section
namespace Sys2Proof.Machine
open Sys2Proof

/-- A narrow or unaligned access is looked up before it is judged, so an unmapped address comes before the access error of R5. -/
theorem misfit_unmapped {w : Who} {a : Nat} (h : windowOf a = none) (s : State) : misfit w a s = s.answer (.error 2) := by
  simp [misfit, h]

/-- Only a write that the firewall refused counts as a refused kick (R475). -/
theorem refusedKick_of_resp_ne {t : State} (h : t.resp ≠ .error 3 (some 0)) (w : Who) (a key : Nat) : refusedKick w a key t = t :=
  if_neg fun hc => h hc.1

theorem registerWrite_unmapped {a : Nat} (h : windowOf a = none) (w : Who) (p : Pins) (v : Nat) (wide : Bool) (s : State) :
    registerWrite w p a v wide s = s.answer (.error 2) := by
  unfold registerWrite
  split
  case isTrue => exact misfit_unmapped h s
  case isFalse =>
    have hresp : (s.answer (.error 2)).resp ≠ .error 3 (some 0) := by simp
    rw [sideband_unmapped h, refusedKick_of_resp_ne hresp]

/-- A port takes a transaction when it is one of the strait's 22, no transaction waits at it, and the 1 to 256 bytes lie within one
aligned block (R509). -/
def State.portTakes (s : State) (p a n : Nat) : Prop :=
  p < 22 ∧ 0 < n ∧ n ≤ 256 ∧ a / 256 = (a + n - 1) / 256 ∧ s.get (.mem .MQ_KIND) p = 0

/-- A transaction that its port takes is refused at an unmapped address before anything is posted at the port. -/
theorem memoryRequest_unmapped {s : State} {p a n : Nat} (ht : s.portTakes p a n) (h : windowOf a = none) (w : Who) (wr : Bool)
    (d : List (BitVec 8)) (e : Ecc) : memoryRequest w p wr a n d e s = s.answer (.error 2) := by
  obtain ⟨hport, hpos, hlen, hblock, hidle⟩ := ht
  have htaken : ¬(22 ≤ p ∨ n = 0 ∨ 256 < n ∨ a / 256 ≠ (a + n - 1) / 256 ∨ s.get (.mem .MQ_KIND) p ≠ 0) := by omega
  rw [memoryRequest, if_neg htaken, h]

/-- Settles O55: both accesses look the address up before they do anything else to the state. -/
theorem unmappedAccess : Obligations.UnmappedAccess := by
  refine ⟨fun w a wide v p same s hunmapped => ?_, fun w p wr a n d e s hport hpos hblock hidle hunmapped => ?_⟩
  · show Host.Outcome.next (registerWrite w p a.toNat (settled a.toNat v.toNat same.toNat) wide s) = _
    rw [registerWrite_unmapped hunmapped]
  · have htakes : s.portTakes p.val a.toNat n.val := ⟨hport, hpos, Nat.le_of_lt_succ n.isLt, hblock, hidle⟩
    show Host.Outcome.next (memoryRequest w p.val wr a.toNat n.val d e s) = _
    rw [memoryRequest_unmapped htakes hunmapped]

end Sys2Proof.Machine
end

/-! The group registers of a loop engine (R140) in an open reconfiguration window (R480): their fields are RWL, so a write by an initiator
that the window keeps out is a violation (R8, R472) even where R140 discards it. -/
section
namespace Sys2Proof.Machine
open Sys2Proof

/-- The heading of the group registers, four to each of the sixteen engines. -/
def groupRow : RegRow :=
  ⟨0x1030000c00, 16, 0x100000, 4, 4, 1, 0, 0, [⟨.loop .GRP_MODE, 0, 0, 0⟩, ⟨.loop .GRP_NEGATE, 2, 0, 0⟩, ⟨.loop .GRP_MEMBERS, 4, 0, 0⟩,
    ⟨.loop .GRP_OUTER, 12, 0, 0⟩, ⟨.loop .GRP_INNER, 16, 0, 0⟩, ⟨.loop .GRP_NM1, 20, 0, 0⟩, ⟨.loop .GRP_OPORT, 26, 0, 0⟩,
    ⟨.loop .GRP_OEN, 31, 0, 0⟩]⟩

/-- Address of group register `g` of an engine. -/
def groupAddr (e : EngIx) (g : Fin 4) : Nat := leBase e.val + 0xC00 + 4 * g.val

theorem findReg_groupAddr (e : EngIx) (g : Fin 4) : findReg (groupAddr e g) regTable = some (groupRow, e.val, g.val) := by
  fin_cases e <;> fin_cases g <;> rfl

/-- An open window keeps a guest out of the RWL fields of every island (R469, R480). -/
theorem rwlFrozen_of_window {s : State} (hopen : s.flag (.saf .LOCK_WINDOW) = true) (p : PairIx) (c : Fin 2) (a : Nat) :
    s.rwlFrozen (.core p c) a = true := by
  have hguest : s.classOf (.core p c) = .guest := rfl
  unfold State.rwlFrozen
  split
  · rfl
  · simp [hopen, hguest]

/-- An ignored write to a frozen RWL field counts where it carries another value (R8). -/
theorem ignoredKind_of_frozen {s : State} {w : Who} {a v i j : Nat} {f : Fld} (hacc : f.spec.acc = .rwl) (hfree : fixedField f i = false)
    (hfrozen : s.rwlFrozen w a = true) (hv : v ≠ s.get f i j) : s.ignoredKind w a f i j v = 2 := by
  simp [State.ignoredKind, hacc, hfree, hfrozen, hv]

/-- A write is logged with the kind of its first field where that one was ignored and counts (R8). -/
theorem reportIgnored_of_first {s : State} {w : Who} {a v i j k : Nat} {r : RegRow} {p : Place} {l : List Place} (hr : r.places = p :: l)
    (hk : s.ignoredKind w a p.f (i + p.di) (j + p.dj) (p.value v) = k) (hne : k ≠ 0) (t : State) :
    reportIgnored w a v r i j s t = logViolation k w a t := by
  simp [reportIgnored, hr, hk, hne]

@[simp] theorem logViolation_sent (k : Nat) (w : Who) (a : Nat) (s : State) :
    (logViolation k w a s).sent = ⟨.level4, 472, k, w.code⟩ :: s.sent := by
  unfold logViolation State.when
  split <;> rfl

/-- What R140 discards, R8 still reports: a guest's write of another MODE, in an open window, to an engine that is not OFF. -/
theorem groupRegWrite_guest_in_window {s : State} {e : EngIx} {g : Fin 4} {v : Nat} (hstate : s.get (.loop .LE_STAT_STATE) e.val ≠ 0)
    (hopen : s.flag (.saf .LOCK_WINDOW) = true) (hmode : bits v 0 2 ≠ s.get (.loop .GRP_MODE) e.val g.val) (p : PairIx) (c : Fin 2) :
    groupRegWrite (.core p c) (groupAddr e g) v e.val s =
      logViolation 2 (.core p c) (groupAddr e g) (s.on (.loop .LE_STAT_CFG_BUSY) e.val) := by
  have hfrozen : (s.on (.loop .LE_STAT_CFG_BUSY) e.val).rwlFrozen (.core p c) (groupAddr e g) = true :=
    rwlFrozen_of_window (by simpa [State.on, State.flag, State.get_set_fld] using hopen) ..
  have hkind : (s.on (.loop .LE_STAT_CFG_BUSY) e.val).ignoredKind (.core p c) (groupAddr e g) (.loop .GRP_MODE) e.val g.val (bits v 0 2) = 2 :=
    ignoredKind_of_frozen rfl rfl hfrozen (by simpa [State.on, State.get_set_fld] using hmode)
  rw [groupRegWrite, if_neg hstate, discardWord, findReg_groupAddr]
  exact reportIgnored_of_first rfl hkind (by decide) _

/-- LE0 runs in an open window: no island is locked, and its DEP names no safety-designated group. -/
def runningInWindow : State :=
  ((State.reset.set (.saf .ISL_STAT_STATE) 0 6).set (.saf .LOCK_WINDOW) 1).set (.loop .LE_STAT_STATE) 1 0

/-- A guest's write of MODE 1 to LE0's first group register passes the firewall there (R470, R471). -/
theorem runningInWindow_reaches : runningInWindow.reaches (.core 0 0) (groupAddr 0 0) 1 :=
  ⟨⟨6, by decide, by decide⟩, by decide, by decide⟩

/-- Refutes O13, in its clause for a group register of an engine that is not OFF: with LOCK_ISL_LOCK clear a window may still be open, and
R480 then keeps a guest out of the register's RWL fields. Its write is discarded with CFG_BUSY, but R8 has it reported as well, and the
report is no part of the state that the clause names. -/
theorem not_slotRegisters : ¬ Obligations.SlotRegisters := by
  rintro ⟨-, -, -, -, hdiscard, -⟩
  have hwrite : groupRegWrite (.core 0 0) (groupAddr 0 0) 1 0 runningInWindow =
      logViolation 2 (.core 0 0) (groupAddr 0 0) (runningInWindow.on (.loop .LE_STAT_CFG_BUSY) 0) :=
    groupRegWrite_guest_in_window (e := 0) (by decide) (by decide) (by decide) 0 0
  have hexec : exec (.groupRegisterWrite (.core 0 0) 0 0 1) runningInWindow =
      .next ((logViolation 2 (.core 0 0) (groupAddr 0 0) (runningInWindow.on (.loop .LE_STAT_CFG_BUSY) 0)).answer .ok) := by
    show Host.Outcome.next (sideband _ (groupAddr 0 0) 1 (groupRegWrite _ (groupAddr 0 0) 1 0) _) = _
    rw [sideband_reaches runningInWindow_reaches, hwrite]
  have hclause := hdiscard (.core 0 0) 0 0 1 runningInWindow runningInWindow_reaches (by decide) (by decide)
  rw [hexec, Host.Outcome.next.injEq] at hclause
  have hsent := congrArg State.sent hclause
  simp [State.on] at hsent

end Sys2Proof.Machine
end

/-! The stop of a reload domain (R185): which domains a leg holds up, and what a write of CTRL with EN 0 does to each. -/
section
namespace Sys2Proof.Machine
open Sys2Proof

/-- DBL and STRICT of a domain's CTRL take their values. -/
def configDomain (d : Nat) (dbl strict : Bool) (s : State) : State :=
  (s.set (.edge .DOM_CTRL_DBL) dbl.toNat d).set (.edge .DOM_CTRL_STRICT) strict.toNat d

/-- A leg is in the groups and under the enables that the output-group registers show (R187). -/
theorem legEnabled_congr {s t : State} (hlegs : ∀ g, t.get (.edge .OG_LEGS) g = s.get (.edge .OG_LEGS) g)
    (halegs : ∀ g, t.get (.edge .OG_ALEGS) g = s.get (.edge .OG_ALEGS) g)
    (hen : t.get (.edge .OG_EN) = s.get (.edge .OG_EN)) (n : Nat) : t.legEnabled n = s.legEnabled n := by
  simp [State.legEnabled, State.groupsOf, State.inGroup, State.bit, hlegs, halegs, hen]

/-- A domain is held up by the legs' membership, enables and binding alone: a new DBL or STRICT does not free it. -/
@[simp] theorem configDomain_domBusy (d e : Nat) (dbl strict : Bool) (s : State) :
    (configDomain d dbl strict s).domBusy e = s.domBusy e := by
  have hget : ∀ f i, f ≠ .edge .DOM_CTRL_DBL → f ≠ .edge .DOM_CTRL_STRICT → (configDomain d dbl strict s).get f i = s.get f i :=
    fun f i hdbl hstrict => by rw [configDomain, State.get_set_fld _ _ _ _ _ _ hstrict, State.get_set_fld _ _ _ _ _ _ hdbl]
  have hbound n : (configDomain d dbl strict s).get (.edge .LEG_CFG_DOMAIN) n = s.get (.edge .LEG_CFG_DOMAIN) n :=
    hget _ n (by decide) (by decide)
  have henabled n : (configDomain d dbl strict s).legEnabled n = s.legEnabled n :=
    legEnabled_congr (fun g => hget _ g (by decide) (by decide)) (fun g => hget _ g (by decide) (by decide))
      (hget _ 0 (by decide) (by decide)) n
  simp only [State.domBusy, hbound, henabled]

/-- A domain that a leg holds up records the refusal and keeps running (R185). -/
theorem domainStop_of_busy {d : Nat} {s : State} (h : s.domBusy d = true) :
    domainStop d s = s.set (.edge .DOM_STAT_DIS_REFUSED) 1 d := if_pos h

/-- Any other domain stops (R185). -/
theorem domainStop_of_free {d : Nat} {s : State} (h : s.domBusy d = false) :
    domainStop d s =
      ((s.set (.edge .DOM_CTRL_EN) 0 d).set (.edge .DOM_STAT_RUNNING) 0 d).clrBit (.edge .STAT_RUNNING) d :=
  if_neg (Bool.eq_false_iff.mp h)

/-- What a write of CTRL with EN 0 carries out: the configuration unless the stop is refused, and the stop where EN was set. -/
theorem domCtrlWrite_stop (d : Nat) (dbl strict : Bool) (s : State) :
    domCtrlWrite d (2 * dbl.toNat + 4 * strict.toNat) s =
      if !s.flag (.edge .DOM_CTRL_EN) d then configDomain d dbl strict s
      else if s.domBusy d then domainStop d s else domainStop d (configDomain d dbl strict s) := by
  have hen : (2 * dbl.toNat + 4 * strict.toNat).testBit 0 = false := by cases dbl <;> cases strict <;> rfl
  have hdbl : bits (2 * dbl.toNat + 4 * strict.toNat) 1 1 = dbl.toNat := by cases dbl <;> cases strict <;> rfl
  have hstrict : bits (2 * dbl.toNat + 4 * strict.toNat) 2 1 = strict.toNat := by cases dbl <;> cases strict <;> rfl
  rw [domCtrlWrite, hen, hdbl, hstrict]
  rfl

/-- DOMAIN_STOP whose write reaches CTRL answers with the write's effect. -/
theorem exec_domainStop {w : Who} {d : DomIx} {dbl strict : Bool} {s : State}
    (h : s.reaches w (domAddr d.val) (2 * dbl.toNat + 4 * strict.toNat)) :
    exec (.domainStop w d dbl strict) s = .next ((domCtrlWrite d.val (2 * dbl.toNat + 4 * strict.toNat) s).answer .ok) := by
  show Host.Outcome.next (sideband w (domAddr d.val) _ (domCtrlWrite d.val _) s) = _
  rw [sideband_reaches h]

/-- Settles O20: the write's effect in each of its three cases; the new DBL and STRICT leave a free domain free.
The prefix keeps the name apart from the model's own `domainStop`. -/
theorem ReloadDomain.domainStop : Obligations.DomainStop := by
  refine ⟨fun w d dbl strict s hreach hen hbusy => ?_, fun w d dbl strict s hreach hen hfree => ?_,
    fun w d dbl strict s hreach hen => ?_⟩
  case refine_1 =>
    rw [exec_domainStop hreach, domCtrlWrite_stop, if_neg (by simp [State.flag, hen]), if_pos hbusy, domainStop_of_busy hbusy]
  case refine_2 =>
    have hconfigured : (configDomain d.val dbl strict s).domBusy d.val = false := by simpa using hfree
    rw [exec_domainStop hreach, domCtrlWrite_stop, if_neg (by simp [State.flag, hen]), if_neg (by simp [hfree]),
      domainStop_of_free hconfigured]
    rfl
  case refine_3 =>
    rw [exec_domainStop hreach, domCtrlWrite_stop, if_pos (by simp [State.flag, hen])]
    rfl

end Sys2Proof.Machine
end

/-! The modulator clocks (R287): what a write of `SNS_SDCLK[k]` leaves alone, and what it does to a clock in use and to one that is not. -/
section
namespace Sys2Proof.Machine
open Sys2Proof

/-- An enabled sigma-delta channel selects clock `k` (R287). -/
def State.clockInUse (s : State) (k : Nat) : Bool :=
  (List.range 24).any (fun c => s.flag (.sns .SD_CFG_EN) c && s.get (.sns .SD_CFG_CLKSEL) c == k)

/-- What follows a write of a clock's FREQ: the periods are counted from now on where FREQ changes (R286, R287). -/
def State.recountPeriods (s : State) (changed : Bool) (k : Nat) : State := s.when changed (·.set (.sns .SDCLK_AT) s.now k)

/-- A new FREQ for a clock in use is discarded with CLK_BUSY, whether or not the write clears that bit (R287). -/
theorem sdclkWrite_of_busy {k v : Nat} {s : State} (hnew : v % 4 ≠ s.get (.sns .SDCLK_FREQ) k) (hused : s.clockInUse k = true) :
    sdclkWrite k v s = (s.clrMask (.sns .SDCLK_CLK_BUSY) (bits v 8 1) k).on (.sns .SDCLK_CLK_BUSY) k :=
  if_pos ⟨hnew, hused⟩

/-- Any other write sets FREQ, after the write's clear of CLK_BUSY. -/
theorem sdclkWrite_of_taken {k v : Nat} {s : State} (h : ¬(v % 4 ≠ s.get (.sns .SDCLK_FREQ) k ∧ s.clockInUse k = true)) :
    sdclkWrite k v s = ((s.clrMask (.sns .SDCLK_CLK_BUSY) (bits v 8 1) k).set (.sns .SDCLK_FREQ) (v % 4) k).recountPeriods
      (v % 4 != s.get (.sns .SDCLK_FREQ) k) k :=
  if_neg h

/-- A clock that is not in use takes every write. -/
theorem not_discarded_of_unused {k : Nat} {s : State} (hfree : s.clockInUse k = false) (v : Nat) :
    ¬(v % 4 ≠ s.get (.sns .SDCLK_FREQ) k ∧ s.clockInUse k = true) := by simp [hfree]

/-- The count's new start is no part of FREQ. -/
@[simp] theorem recountPeriods_freq (changed : Bool) (k j : Nat) (s : State) :
    (s.recountPeriods changed k).get (.sns .SDCLK_FREQ) j = s.get (.sns .SDCLK_FREQ) j := by
  cases changed
  case false => rfl
  case true => exact State.get_set_fld _ _ _ _ _ _ (by decide)

/-- The count's new start leaves memory, the queue and the clock of the model alone. -/
theorem recountPeriods_frame (changed : Bool) (k : Nat) (s : State) :
    s.SameMem (s.recountPeriods changed k) ∧ s.SameQueue (s.recountPeriods changed k) := by
  cases changed <;> exact ⟨fun _ => rfl, rfl, rfl⟩

/-- No write of a modulator clock touches memory, the queue or the clock of the model. -/
theorem sdclkWrite_frame (k v : Nat) (s : State) : s.SameMem (sdclkWrite k v s) ∧ s.SameQueue (sdclkWrite k v s) := by
  by_cases h : v % 4 ≠ s.get (.sns .SDCLK_FREQ) k ∧ s.clockInUse k = true
  case pos =>
    rw [sdclkWrite_of_busy h.1 h.2]
    exact ⟨fun _ => rfl, rfl, rfl⟩
  case neg =>
    rw [sdclkWrite_of_taken h]
    exact recountPeriods_frame _ k ((s.clrMask (.sns .SDCLK_CLK_BUSY) (bits v 8 1) k).set (.sns .SDCLK_FREQ) (v % 4) k)

/-- A discarded write leaves CLK_BUSY set. -/
theorem sdclkWrite_clkBusy_of_busy {k v : Nat} {s : State} (hnew : v % 4 ≠ s.get (.sns .SDCLK_FREQ) k) (hused : s.clockInUse k = true) :
    (sdclkWrite k v s).get (.sns .SDCLK_CLK_BUSY) k = 1 := by
  rw [sdclkWrite_of_busy hnew hused]
  exact State.get_set_same ..

/-- A discarded write changes CLK_BUSY alone. -/
theorem sdclkWrite_sameBut_of_busy {k v : Nat} {s : State} (hnew : v % 4 ≠ s.get (.sns .SDCLK_FREQ) k) (hused : s.clockInUse k = true) :
    s.SameBut [.sns .SDCLK_CLK_BUSY] (sdclkWrite k v s) := by
  rw [sdclkWrite_of_busy hnew hused]
  exact ((State.SameBut.refl _ s).clrMask (by simp) _ _ _).on (by simp) _ _

/-- A clock that is not in use reads as it was written, cut to the two bits of FREQ. -/
theorem sdclkWrite_freq_of_unused {k v : Nat} {s : State} (hfree : s.clockInUse k = false) :
    (sdclkWrite k v s).get (.sns .SDCLK_FREQ) k = v % 4 := by
  rw [sdclkWrite_of_taken (not_discarded_of_unused hfree v), recountPeriods_freq, State.get_set_same]
  exact Nat.mod_mod v 4

/-- The three quantities that a write of a clock not in use can change. -/
theorem sdclkWrite_sameBut_of_unused {k v : Nat} {s : State} (hfree : s.clockInUse k = false) :
    s.SameBut [.sns .SDCLK_CLK_BUSY, .sns .SDCLK_FREQ, .sns .SDCLK_AT] (sdclkWrite k v s) := by
  rw [sdclkWrite_of_taken (not_discarded_of_unused hfree v)]
  exact (((State.SameBut.refl _ s).clrMask (by simp) _ _ _).set (by simp) _ _ _).when _ fun _ h => h.set (by simp) _ _ _

/-- SDCLK_WRITE whose write reaches the register answers with the write's effect. -/
theorem exec_sdclkWrite {w : Who} {k : Fin 4} {v : Word} {s : State} (h : s.reaches w (snsBase + 0x10 + 4 * k.val) v.toNat) :
    exec (.sdclkWrite w k v) s = .next ((sdclkWrite k.val v.toNat s).answer .ok) := by
  show Host.Outcome.next (sideband w _ _ (sdclkWrite k.val v.toNat) s) = _
  rw [sideband_reaches h]

/-- Settles O34: a clock in use has only CLK_BUSY written; one that is not takes FREQ, whatever the count of its periods does. -/
theorem modulatorClocks : Obligations.ModulatorClocks := by
  refine ⟨fun w k v s hreach hnew hused => ⟨_, exec_sdclkWrite hreach, rfl, ?_⟩,
    fun w k v s hreach hfree => ⟨_, exec_sdclkWrite hreach, rfl, ?_⟩⟩
  case refine_1 =>
    obtain ⟨hmem, hqueue⟩ := sdclkWrite_frame k v.toNat s
    have hrest := sdclkWrite_sameBut_of_busy hnew hused
    exact ⟨sdclkWrite_clkBusy_of_busy hnew hused, hrest _ (by decide) k 0, hrest.answer .ok, hmem, hqueue⟩
  case refine_2 =>
    obtain ⟨hmem, hqueue⟩ := sdclkWrite_frame k v.toNat s
    exact ⟨sdclkWrite_freq_of_unused hfree, (sdclkWrite_sameBut_of_unused hfree).answer .ok, hmem, hqueue⟩

end Sys2Proof.Machine
end
